-- ==== Sys2Proof/Word.lean ====
section
/-! DEFINITION. The plainest types of the model: bytes, 32-bit words, operation words, sparse maps. -/

namespace Sys2Proof

/-- A byte (R2 orders the bytes of a field from the lowest address). -/
abbrev Byte := BitVec 8

/-- A 32-bit register or FP32 encoding. -/
abbrev Word := BitVec 32

/-- An operation word of a microprogram is 32 bytes (R77). -/
abbrev OpWord := BitVec 256

/-- A sparse map from numbers: keys strictly rising, no entry equal to the default of its use. -/
abbrev SMap (α : Type) := List (Nat × α)

end Sys2Proof
end

