-- ==== Sys2Proof/Syntax.lean ====
section
/-! DEFINITION. The commands of the block: one constructor of `Instr` per row of spec/opcode_table.json,
with the operands the row's rule gives its event. -/

namespace Sys2Proof

/-- Names a command of a queue: context, queue number and free-running ring index (R303, R304). -/
structure CmdRef where
  ctx : Nat
  q   : Nat
  idx : Nat
  deriving DecidableEq, Repr

/-- What the ECC of a granule or slot found on its way (R85, R163, R204, R212). -/
inductive Ecc
  | clean
  | corrected
  | uncorrectable
  deriving DecidableEq, Repr

/-- The faults one microprogram operation met: addresses of corrected and uncorrectable core-bank reads, a parity error in engine
or vector state, device-physical addresses of corrected and uncorrectable curd reads of HBM and slices, counts of corrected and
uncorrectable fabric slots, which of its 128-byte slots arrived void, and, for the atomics of a SEND, the physical core and the address of
each corrected and uncorrectable read at a target (R85, R101, R162, R163, R204, R212). -/
structure UnitFault where
  ce     : List Nat
  ue     : List Nat
  parity : Bool
  memCe  : List Nat
  memUe  : List Nat
  slotCe : Nat
  slotUe : Nat
  voids  : List Nat
  atCe   : List (Nat × Nat)
  atUe   : List (Nat × Nat)
  deriving DecidableEq, Repr

/-- No fault met. -/
def UnitFault.none : UnitFault := ⟨[], [], false, [], [], 0, 0, [], [], []⟩

/-- A core that stalled at a Tick edge (R400): physical core, unit number of R408, expected usable cycle. -/
structure Stall where
  core     : Nat
  unit     : Nat
  expected : Nat
  deriving DecidableEq, Repr

/-- One lane of a lane table (R253), with its parent row and token row. -/
structure Lane where
  session : Nat
  posBase : Nat
  resSlot : Nat
  count   : Nat
  parents : List Nat
  tokens  : List Nat
  deriving DecidableEq, Repr

/-- A lane table as it reaches every member (R22, R253): the start S, the step ID and the lanes. -/
structure LaneTable where
  start  : Nat
  stepId : Nat
  lanes  : List Lane
  replay : Bool
  deriving DecidableEq, Repr

/-- What asks a directory for ownership of a line (R343, R344): a store or AMO with the line's new contents, or an LR. -/
inductive OwnReq
  | store (data : Nat)
  | lr
  deriving DecidableEq, Repr

/-- LANE_TABLE_FREEZE: the vat, and on a member other than the head the table that its head announces at the freeze Tick (R22, R253). -/
structure Freeze where
  id        : Nat
  announced : Option LaneTable
  deriving DecidableEq, Repr

/-- What another member reports of a step (R24, R403): void or discard met, its Failed causes with their Ticks and sources, the cores of it
that stalled. -/
structure MemberReport where
  node     : Nat
  degraded : Bool
  causes   : List (Nat × Nat × Nat)
  stalls   : Nat
  deriving DecidableEq, Repr

/-- A 128-byte fabric slot: payload and VOID bit (R154 to R162). -/
structure Slot where
  data : List Byte
  void : Bool
  deriving DecidableEq, Repr

/-- A whey packet (R160): header fields and the bytes of its data slots. -/
structure WheyPacket where
  format    : Nat
  kind      : Nat
  dataSlots : Nat
  cls       : Nat
  rsv       : Bool
  dest      : Nat
  src       : Nat
  tag       : Nat
  vat       : Nat
  arg       : Nat
  addr      : Nat
  data      : List Byte
  deriving DecidableEq, Repr

/-- A link flit (R170): header fields and 256 payload bytes; `bad` tells that a codeword covering it is uncorrectable (R188). -/
structure Flit where
  format  : Nat
  kind    : Nat
  session : Nat
  cls     : Nat
  sub     : Nat
  srcNode : Nat
  dst     : Nat
  flow    : Nat
  txTick  : Nat
  arg     : Nat
  payload : List Byte
  bad     : Bool
  deriving DecidableEq, Repr

/-- The head of a message or flit that arrives: its `FORMAT`, and whether a reserved field is not zero or a field holds a reserved value (R7
to R9). -/
structure MsgHdr where
  format : Nat
  rsv    : Bool
  deriving DecidableEq, Repr

/-- The head a CX1 sends. -/
def MsgHdr.good : MsgHdr := ⟨0x1000, false⟩

/-- A receiver acts on the message. -/
def MsgHdr.ok (h : MsgHdr) : Bool := decide (h.format = 0x1000 ∧ h.rsv = false)

/-- What a HALT is for: to stop alone (R283), a remould that moves nothing this package takes part in, or a package move (R277). -/
inductive HaltFor
  | stop
  | remould
  | move (number : Nat)
  deriving DecidableEq, Repr

/-- The end of a package's staging (R277, R280): its status, the move that it is for (0xFFFF: none), the weights pulled. -/
structure StageEnd where
  status  : Nat
  move    : Nat
  weights : List Byte
  deriving DecidableEq, Repr

/-- Where a VAT_HALT or VAT_UNBIND stands (R272, R273): issued here, ordered by the head for a boundary, or done on every other package. -/
inductive VatOrder
  | issued
  | order (vat boundary : Nat)
  | others (vat : Nat)
  deriving DecidableEq, Repr

/-- A VAT_REMOULD with what the other packages of the vat know (R282): a record in use there, KV regions of theirs that the delta changes. -/
structure RemouldRef where
  ref    : CmdRef
  inUse  : Bool
  kvElse : Bool
  deriving DecidableEq, Repr

/-- A message or flit of which a number (the vat, node or port it concerns) stands in the command, with its head. -/
structure Headed where
  hdr : MsgHdr
  val : Nat
  deriving DecidableEq, Repr

/-- One with the head a CX1 sends. -/
def Headed.good (n : Nat) : Headed := ⟨.good, n⟩

/-- A receiver acts on the message. -/
def Headed.ok (x : Headed) : Bool := x.hdr.ok

/-- A received Tick marker (R169). `authOk` lists, per session, whether the tag it carries verifies for the flits of the
previous Tick; `corrected` and `lostWords` count the corrected symbols and the uncorrectable codewords of its Tick (R199). -/
structure Marker where
  hdr       : MsgHdr
  present   : Bool
  fenced    : Bool
  aligned   : Bool
  tickLow   : Nat
  creditVc0 : Nat
  creditVc1 : Nat
  keyPhase  : Nat
  tagValid  : Nat
  authOk    : List Bool
  corrected : Nat
  lostWords : Nat
  deriving DecidableEq, Repr

/-- One page entry of a PAGE_CMD message (R289). -/
structure PageEntry where
  ordinal  : Nat
  copy     : Bool
  zero     : Bool
  hbmBlock : Nat
  caveSlot : Nat
  deriving DecidableEq, Repr

/-- A PAGE_CMD message of a home (R289). -/
structure PageCmdMsg where
  hdr        : MsgHdr
  vat        : Nat
  sender     : Nat
  arg        : Nat
  session    : Nat
  resSlot    : Nat
  last       : Bool
  epoch      : Nat
  holderPool : Nat
  entries    : List PageEntry
  deriving DecidableEq, Repr

/-- An OFFER message of a home (R289), with the session's context, which the head needs for a replay (R403) and no field of the message
carries. -/
structure OfferMsg where
  hdr          : MsgHdr
  vat          : Nat
  session      : Nat
  withdraw     : Bool
  count        : Nat
  stepKind     : Nat
  partition    : Nat
  eligibleTick : Nat
  ctx          : Nat
  deriving DecidableEq, Repr

/-- The outcome of a link port's loaded verification over 4 frames (R181). -/
structure VerifyResult where
  uncorrectable : Nat
  corrected     : Nat
  received      : Nat
  markersOk     : Bool
  delayQ        : Nat
  deriving DecidableEq, Repr

/-- The granules of its reads at which an operation met a corrected and an uncorrectable error, by device-physical address (R204, R212,
R219). -/
structure ReadErrs where
  ue : List Nat
  ce : List Nat
  deriving DecidableEq, Repr

/-- No error met. -/
def ReadErrs.none : ReadErrs := ⟨[], []⟩

/-- Who asks for a remote-window access: its node, and the errors its read meets (R195, R212, R219). -/
structure Asker where
  node : Nat
  bad  : ReadErrs
  deriving DecidableEq, Repr

/-- SAMPLER_DRAW: the vat, and the errors its reads of the candidate sets meet (R204, R256). -/
structure Draw where
  vat : Nat
  bad : ReadErrs
  deriving DecidableEq, Repr

/-- What MOULD_LOAD meets beyond what the container shows: the checks whose deeper part fails, and the errors its reads meet (R136, R212). -/
structure LoadMet where
  fails : List Nat
  bad   : ReadErrs
  deriving DecidableEq, Repr

/-- BIND_COMPLETE: the command, and the errors its reads of the container and the tensors meet (R140, R204, R212). -/
structure BindRef where
  ref : CmdRef
  bad : ReadErrs
  deriving DecidableEq, Repr

/-- How the copier of a slice ended (R206): the granule offsets it read with a corrected error, and the one with an uncorrectable error. -/
structure CopyReads where
  ce : List Nat
  ue : Option Nat
  deriving DecidableEq, Repr

/-- A page of a walk that ended, and the levels whose entry was read with a corrected or uncorrectable error (R212, R223). -/
structure WalkPage where
  page : Nat
  ce   : List Nat
  ue   : List Nat
  deriving DecidableEq, Repr

/-- A lease tag found in a reachable cave, at a cave slot of the member (R248, R250). -/
structure TagClaim where
  slot    : Nat
  present : Bool
  session : Nat
  epoch   : Nat
  pool    : Nat
  deriving DecidableEq, Repr

/-- What one stage of boot brought (R441, R442): the stage's success, the stacks that failed verification, the unreadable
journals. -/
structure StageResult where
  ok          : Bool
  hbmFailed   : List Nat
  journalLost : List Nat
  deriving DecidableEq, Repr

/-- The temperature readings of the package in units of 0.125 degrees: 64 compute-die sensors, 32 base-die sensors, 16
stacks (R430). -/
structure Temps where
  die   : List Int
  base  : List Int
  stack : List Int
  deriving DecidableEq, Repr

/-- The commands. Names follow the rows of spec/opcode_table.json, in the table's order. -/
inductive Instr
  -- Tick, clock and gear (06, 16)
  | tickEdge (frame inTol : Bool) (stalls : List Stall)
  | loadCommit (value : Nat)
  | droopStretch (cycle : Nat)
  | gearArm (vat : Headed) (gear seq : Nat)
  | gearAck (node : Headed) (gear seq : Nat)
  | gearReq (node : Headed) (arg : Nat)
  | restReq (vat : Headed) (node f : Nat)
  -- Steps (01, 09, 15)
  | laneTableFreeze (vat : Freeze)
  | stepStart (vat : Nat) (announced : LaneTable)
  | stepBoundary (vat : Nat) (reports : List MemberReport)
  | boundaryMark (vat : Nat)
  | stepHang (vat : Nat)
  | samplerDraw (vat : Draw)
  | refreshWindowStart (stack channel : Nat)
  -- Tensor engines, press decoder, data mover (04)
  | mm (core : Nat) (w : OpWord) (f : UnitFault)
  | accStore (core : Nat) (w : OpWord) (f : UnitFault)
  | accLoad (core : Nat) (w : OpWord) (f : UnitFault)
  | tblLoad (core : Nat) (w : OpWord) (f : UnitFault)
  | decode (core : Nat) (w : OpWord) (f : UnitFault)
  | get (core : Nat) (w : OpWord) (far : List Byte) (f : UnitFault)
  | put (core : Nat) (w : OpWord) (f : UnitFault)
  | send (core : Nat) (w : OpWord) (f : UnitFault)
  | moverCopy (core : Nat) (w : OpWord) (f : UnitFault)
  | getx (core : Nat) (w : OpWord) (far : List Byte) (f : UnitFault)
  | getl (core : Nat) (w : OpWord) (f : UnitFault)
  | putl (core : Nat) (w : OpWord) (f : UnitFault)
  | curdHbmReadReady (dpa : Nat) (ecc : Ecc)
  -- Vector unit (04, 02)
  | vld (core : Nat) (w : OpWord) (f : UnitFault)
  | vst (core : Nat) (w : OpWord) (f : UnitFault)
  | vldmx (core : Nat) (w : OpWord) (f : UnitFault)
  | vstmx (core : Nat) (w : OpWord) (f : UnitFault)
  | vmsk (core : Nat) (w : OpWord) (f : UnitFault)
  | vatom (core : Nat) (w : OpWord) (f : UnitFault)
  | vswap (core : Nat) (w : OpWord) (f : UnitFault)
  | add (core : Nat) (w : OpWord) (f : UnitFault)
  | sub (core : Nat) (w : OpWord) (f : UnitFault)
  | mul (core : Nat) (w : OpWord) (f : UnitFault)
  | div (core : Nat) (w : OpWord) (f : UnitFault)
  | fma (core : Nat) (w : OpWord) (f : UnitFault)
  | min (core : Nat) (w : OpWord) (f : UnitFault)
  | max (core : Nat) (w : OpWord) (f : UnitFault)
  | abs (core : Nat) (w : OpWord) (f : UnitFault)
  | neg (core : Nat) (w : OpWord) (f : UnitFault)
  | mov (core : Nat) (w : OpWord) (f : UnitFault)
  | bcast (core : Nat) (w : OpWord) (f : UnitFault)
  | rnd (core : Nat) (w : OpWord) (f : UnitFault)
  | rcp (core : Nat) (w : OpWord) (f : UnitFault)
  | sqrt (core : Nat) (w : OpWord) (f : UnitFault)
  | rsqrt (core : Nat) (w : OpWord) (f : UnitFault)
  | exp (core : Nat) (w : OpWord) (f : UnitFault)
  | exp2 (core : Nat) (w : OpWord) (f : UnitFault)
  | log2 (core : Nat) (w : OpWord) (f : UnitFault)
  | sinpi (core : Nat) (w : OpWord) (f : UnitFault)
  | cospi (core : Nat) (w : OpWord) (f : UnitFault)
  | tanh (core : Nat) (w : OpWord) (f : UnitFault)
  | rsum (core : Nat) (w : OpWord) (f : UnitFault)
  | rmax (core : Nat) (w : OpWord) (f : UnitFault)
  | rmin (core : Nat) (w : OpWord) (f : UnitFault)
  | rmsnorm (core : Nat) (w : OpWord) (f : UnitFault)
  | layernorm (core : Nat) (w : OpWord) (f : UnitFault)
  | softmax (core : Nat) (w : OpWord) (f : UnitFault)
  | rope (core : Nat) (w : OpWord) (f : UnitFault)
  | silu (core : Nat) (w : OpWord) (f : UnitFault)
  | gelu (core : Nat) (w : OpWord) (f : UnitFault)
  | swiglu (core : Nat) (w : OpWord) (f : UnitFault)
  -- Fabric and whey (06)
  | routerSlotMove (router inPort outMask : Nat) (ecc : Ecc)
  | wheyPacketForward (router inPort : Nat) (ecc : Ecc)
  | wheyReadRequest (p : WheyPacket) (ecc : Ecc)
  | wheyReadData (p : WheyPacket) (ecc : Ecc)
  | wheyWrite (p : WheyPacket) (ecc : Ecc)
  | wheyWriteAck (p : WheyPacket) (ecc : Ecc)
  | kvPageTransfer (vat session ordinal : Nat) (toCave : Bool) (ecc : Ecc)
  | remoteWindowAccess (srcNode : Asker) (write : Bool) (p : WheyPacket)
  -- Links (07)
  | linkSlotTransmit (port slot : Nat) (h0 h1 : Slot)
  | curdFlitReceive (port slot : Nat) (fl : Flit)
  | curdFlitDeliver (port slot : Nat)
  | wheyFlitReceive (port vc : Nat) (fl : Flit)
  | tickMarker (port : Nat) (m : Marker)
  | portDown (port : Nat) (lockLost : Bool)
  | train (port value : Nat)
  | unfence (port value : Nat)
  | lightDetect (port lanes : Nat)
  | lightLoss (port lanes : Nat) (codewordLock : Bool)
  | linkEqualiseDone (port : Nat)
  | linkStageTimeout (port : Nat)
  | peerId (port : Headed) (node peerPort tx ty tz : Nat)
  | echoReq (port : Headed) (seq holdQ : Nat)
  | echoResp (port : Headed) (seq roundTripQ holdQ : Nat)
  | align (port : Headed) (tick : Nat) (aligned : Bool) (phiQ : Nat)
  | linkVerifyEnd (port : Nat) (r : VerifyResult)
  | bypassOpen (value : Nat)
  | bypassSwitchDone (pair : Nat)
  | linkCommit (value : Nat)
  | linkKeyVerifyRound (port session : Nat) (ok : Bool)
  | winCommit (window value : Nat)
  | mcReserve (srcNode : Headed) (vat tag len window offset : Nat)
  | mcGrant (target : Headed) (tag status : Nat)
  | mcAck (target : Headed) (tag : Nat)
  | mcCommit (srcNode : Headed) (tag : Nat)
  | mcCancel (srcNode : Headed) (tag status : Nat)
  | multicastStall (tag : Nat)
  -- Vats: member events, remoulds, roles (07, 10, 15)
  | memberDown (vat : Headed) (node reporter : Nat)
  | halt (vat : Headed) (tick : Nat) (what : HaltFor)
  | resume (vat : Headed) (tick compSeq : Nat) (moved : List Nat)
  | memberReady (vat : Headed) (lpkg phase : Nat)
  | remouldStageDone (vat : Nat) (done : StageEnd)
  | pauseLoadDone (vat status : Nat)
  | recoveryTimeout (vat : Nat)
  | boundaryReport (vat : Headed) (tick : Nat)
  | boundaryReportTimer (vat : Nat)
  | deputyTakeover (vat : Nat)
  | takeover (vat : Headed) (sender : Nat)
  | coreRetired (vat : Headed) (lpkg core : Nat)
  -- Sessions and KV (09)
  | offer (m : OfferMsg)
  | sessionEligible (vat session : Nat)
  | sessionPageIn (vat session : Nat)
  | sessionEviction (vat : Nat)
  | pageCmd (m : PageCmdMsg) (tags : List TagClaim)
  | pageAck (vat : Headed) (session lpkg status : Nat)
  -- Memory tiers (08)
  | patrolScrubRead (stack ca : Nat) (ecc : Ecc)
  | sliceCopyEnd (die : Nat) (ok : CopyReads)
  | dcAddEvent (port dev off bytes : Nat)
  | extentLost (entry : Nat)
  | caveZeroingDone (entry : Nat)
  | pageWalkDone (ref : CmdRef) (operand : Nat) (page : WalkPage)
  | faultDone (value : Nat)
  | faultEnable (value : Nat)
  | faultTimeout (ref : CmdRef)
  -- Queues, contexts and objects (11)
  | sqTail (ctx q value : Nat)
  | cqHead (ctx q value : Nat)
  | commandFetch (ctx q : Nat)
  | commandDispatch (ctx q : Nat)
  | commandComplete (ref : CmdRef)
  | commandHang (ref : CmdRef)
  | contextSwapIn (ctx : Nat)
  | contextTeardownDone (ctx : Nat)
  | memobjFramesRelease (index : Nat)
  -- Host commands (11)
  | nop (ref : CmdRef)
  | copy (ref : CmdRef) (bad : ReadErrs)
  | copyIn (ref : CmdRef)
  | copyOut (ref : CmdRef) (bad : ReadErrs)
  | sealCmd (ref : CmdRef) (bad : ReadErrs)
  | openCmd (ref : CmdRef)
  | invalidateTranslation (ref : CmdRef)
  | sessionOpen (ref : CmdRef)
  | sessionClose (ref : CmdRef)
  | sessionReset (ref : CmdRef)
  | sessionCancel (ref : CmdRef)
  | sessionQuery (ref : CmdRef)
  | sessionSetSampling (ref : CmdRef)
  | sessionSetBias (ref : CmdRef) (bad : ReadErrs)
  | sessionTree (ref : CmdRef) (bad : ReadErrs)
  | generate (ref : CmdRef) (bad : ReadErrs)
  | contextCreate (ref : CmdRef)
  | contextDestroy (ref : CmdRef)
  | queueCreate (ref : CmdRef)
  | queueDestroy (ref : CmdRef)
  | memobjCreate (ref : CmdRef)
  | memobjFree (ref : CmdRef)
  | caveAccept (ref : CmdRef)
  | caveRelease (ref : CmdRef)
  | vatDefine (ref : CmdRef)
  | mouldLoad (ref : CmdRef) (sigOk : Bool) (deep : LoadMet)
  | bindReserve (ref : CmdRef)
  | bindComplete (ref : BindRef)
  | sessionsConfigure (ref : CmdRef) (members : List (Nat × Nat × Nat)) (remote : Option (Nat × List Nat))
  | vatStart (ref : CmdRef) (members : List (Nat × Nat × Nat)) (remote : Option (Nat × Nat))
  | vatHalt (ref : CmdRef) (from' : VatOrder)
  | vatUnbind (ref : CmdRef) (from' : VatOrder)
  | vatRemould (req : RemouldRef)
  | vatQuery (ref : CmdRef)
  | meterRead (ref : CmdRef)
  | meterAck (ref : CmdRef)
  -- Arbitration (12)
  | arbiterDecision (arb : Nat)
  | waitLimitMiss (arb cls : Nat)
  | qosCommit (value : Nat)
  | funcCommit (f value : Nat)
  -- Control complexes (13)
  | heartbeat (k : Headed) (claim : Bool) (epoch seq bridge : Nat)
  | heartbeatSend (k : Nat)
  | hbSeq (k value : Nat)
  | watchdogExpiry (k : Nat)
  | complexError (k cause : Nat)
  | selfFail (k value : Nat)
  | peerAliveLoss (k : Nat)
  | takeoverDone (k : Nat)
  | bridgeDown (bridge : Nat)
  | heartbeatTimeout (k : Nat)
  | peerRestart (k value : Nat)
  | splitResume (k : Nat)
  | splitRejoin (k : Nat)
  | splitDeviceReset (k : Nat)
  | hartReadMiss (k hart line cycle : Nat)
  | ownershipRequest (k hart line : Nat) (data : OwnReq) (cycle : Nat)
  | lineEviction (k hart line cycle : Nat)
  | placingWrite (k agent hart line data cycle : Nat) (wayHeld : Bool)
  | invalidatingWrite (k agent line mask data cycle : Nat)
  | ioRead (k agent line : Nat)
  -- Key vault and Wash (14)
  | report (sig : List Byte)
  | keyLoad (ss : Nat)
  | slotQuiet (slot : Nat)
  | slotEmpty (slot : Nat)
  | washPatternStart (wash : Nat)
  | washEnd (wash : Nat) (writesRemain : Bool)
  -- Tamper (14, 19)
  | tamperPin (lowNs : Nat)
  | supplyTamper (rail : Nat) (milliVolt ns : Nat)
  | tickGlitch (pulseNs gapNs : Nat)
  | coldTamper (deg : Int)
  -- Domain resets and hardware faults (15)
  | domainResetRequest (kind index : Nat)
  | domainDrainTimeout (kind index : Nat)
  | dumpLimit (kind index : Nat)
  | domainResetDone (kind index : Nat)
  | routerParityError (router : Nat)
  | hbmPhyTrainingLoss (stack : Nat)
  | cxlLinkDown (port : Nat)
  | vfFlr (f : Nat)
  | d3hotExit (f : Nat)
  | busMasterEnable (f value : Nat)
  | hostPortError (uncorrectable : Bool)
  | msixUnmask (f vector : Nat)
  | portEnable (port value : Nat)
  | poolId (port dev value : Nat)
  -- Power and thermal (16)
  | powerEstimate (counts : List Nat)
  | recalibration (statDw statTc : Nat) (weights : List Nat)
  | temperatureChange (t : Temps)
  | pwrCommit (value : Nat)
  | cellarReq (value : Nat)
  | cellarExit (value : Nat)
  -- Journal and metering (10, 17)
  | meterInterval (vat : Nat)
  -- Boot and lifecycle (17, 19)
  | resetRelease (sbAddr : Nat)
  | bootStageDone (r : StageResult)
  | starterGo (value : Nat)
  | starterDownloadDone (sigOk equal : Bool)
  | starterReady (statDw statTc : Nat) (weights : List Nat)
  | svnCommit (value : Nat)
  | toOpened (sigOk : Bool)
  -- Sideband (18)
  | pkgTelemetry (format half rsv : Nat)
  | partitionPower (format half rsv partition : Nat)
  | sbMeterRead (format half rsv fromSeq count : Nat)
  | cellarWake (format half rsv : Nat)
  | ccStatus (format half rsv : Nat)
  | splitResolve (format half rsv value : Nat)
  | lcSpent (format half rsv confirm : Nat)
  -- Registers and the rest (00, 07, 18, 19, 13)
  | rcRegisterRead (offset size : Nat)
  | registerWrite (offset size value : Nat)
  -- Commands without operands, of every chapter
  | tickEdgeMissing
  | holdoverExit
  | tickCountLoadApply
  | gearPllLocked
  | gearArmFail
  | gearChangeTick
  | gearLockLost
  | linkKeySwitch
  | faultBatchClose
  | keyRetire
  | kemRotate
  | identExport
  | kvRequestEnd
  | deviceResetRequest
  | pcieHostReset
  | pfFlr
  | capUpdate
  | hotExit
  | tenantPowerWindow
  | cellarEntryDone
  | cellarWakeDone
  | journalCompaction
  | meterCompaction
  | pwrgdFall
  | perstNAssert
  | bootStageTimeout
  | toRipe
  | toSpent
  | vbypOutOfBand
  -- Rare commands: they stand last because compiled evaluation cannot build a constructor with operands past the 244th
  | jtagTckEdge (tms tdi trstN : Bool)
  | d3hotEntry (f : Nat)
  | mctpControl (command data : Nat)
  | lifecycleGet (format half rsv : Nat)
  | reportStart (format half rsv : Nat) (nonce : List Byte)
  | reportRead (format half rsv offset len : Nat)
  | deadLane (port lane : Nat)
  | lightReturn (port : Nat)
  | storeToExclusiveLine (k hart line data : Nat)
  | holdExpiry (k line cycle : Nat)
  | cxlPortTrained (port width rate : Nat) (devices : List (Nat × Nat × Nat × Nat))
  | idleFlitReceive (port : Headed)
  deriving DecidableEq, Repr

end Sys2Proof
end

