-- ==== Sys2Proof/Config.lean ====
section
/-! DEFINITION. What an implementation fixes and the specification does not give, and the free values: constants without a body,
so that no proof can see them. -/

namespace Sys2Proof

/-- Free value `n`, a byte: output of the random source (R362), ML-KEM key pairs (R370), identity signatures (R378); DESIGN CHOICE, log entry 3. -/
opaque Config.freeByte : Nat → Byte

/-- Free value `n`, a number: what the specification leaves open and the machine goes on from; DESIGN CHOICE, log entry 3. -/
opaque Config.freeNat : Nat → Nat

/-- Entry `n` of the fabric wiring map (R475), whose contents the specification does not give; DESIGN CHOICE, log entry 7. -/
opaque Config.wiring : Nat → Nat

/-- The output port the whey route table of a router gives for a destination router (R161), loaded from the wiring map; log
entry 7. -/
opaque Config.wheyRoute : Nat → Nat → Nat

/-- PK.root of the SLH-DSA-SHAKE-256s key pair made from three 32-byte seeds (FIPS 205, R363); DESIGN CHOICE, log entry 2. -/
opaque Config.slhRoot : List Byte → Nat → Byte

/-- The digests the boot ROM holds: 0 the production key, 1 the debug key, 2 the return key (R444, R452), and 3 SHAKE256 of the boot
ROM itself (R445); DESIGN CHOICE, log entry 8. -/
opaque Config.romDigest : Nat → Nat → Byte

/-- Kamvy's Vendor ID (R464); DESIGN CHOICE, log entry 8. -/
opaque Config.vendorId : Nat

/-- The UINT32 a vector store or RND writes for an FP32 value that no rounding brings into its range, by `CVT_MODE` and the FP32 bits: R36
and R37 convert to INT32 only; DESIGN CHOICE, log entry 103. -/
opaque Config.toUint32 : Nat → Nat → Nat

/-- The instruction register of the test port has this many bits and two more (R494, IEEE 1149.1); PRESUMED, log entry 51. -/
opaque Config.irBits : Nat

/-- The node that a whey packet of this package's fabric is bound for when its destination is a link router: no field of the packet's header
names it (log entry 109). -/
opaque Config.wheyNode (dest src tag : Nat) : Nat

end Sys2Proof
end

