-- ==== Sys2Proof/Machine/Maps.lean ====
section
/-! DEFINITION. Sparse maps, little-endian byte strings, saturating counters and bit fields: the helpers every chapter uses. -/

namespace Sys2Proof.Machine

/-- The value of a sparse map at a key: its entry, or the default. -/
def mapGet {α : Type} (d : α) : SMap α → Nat → α
  | [], _ => d
  | (j, v) :: m, k => if j = k then v else mapGet d m k

/-- Put an entry at a key, keeping the keys strictly rising. -/
def mapPut {α : Type} : SMap α → Nat → α → SMap α
  | [], k, v => [(k, v)]
  | (j, w) :: m, k, v =>
    if k < j then (k, v) :: (j, w) :: m else if k = j then (k, v) :: m else (j, w) :: mapPut m k v

/-- Remove the entry of a key. -/
def mapDel {α : Type} : SMap α → Nat → SMap α
  | [], _ => []
  | (j, w) :: m, k => if j = k then mapDel m k else (j, w) :: mapDel m k

/-- Set the value at a key; the default value is held by no entry. -/
def mapSet {α : Type} [DecidableEq α] (d : α) (m : SMap α) (k : Nat) (v : α) : SMap α :=
  if v = d then mapDel m k else mapPut m k v

/-- The entry of a key, if there is one. -/
def mapFind {α : Type} : SMap α → Nat → Option α
  | [], _ => none
  | (j, v) :: m, k => if j = k then some v else mapFind m k

/-- Change the entry of a key, if there is one. -/
def mapModify {α : Type} (m : SMap α) (k : Nat) (f : α → α) : SMap α :=
  m.map fun p => if p.1 = k then (p.1, f p.2) else p

/-- Change every entry. -/
def mapAll {α : Type} (m : SMap α) (f : Nat → α → α) : SMap α := m.map fun p => (p.1, f p.1 p.2)

/-- Keys rise strictly. -/
def keysRise {α : Type} : SMap α → Bool
  | [] => true
  | [_] => true
  | p :: q :: m => decide (p.1 < q.1) && keysRise (q :: m)

/-- The canonical form: keys rise strictly and no entry holds the default. -/
def mapWf {α : Type} [DecidableEq α] (d : α) (m : SMap α) : Bool :=
  keysRise m && m.all fun p => decide (p.2 ≠ d)

/-- The bytes of a value, lowest first (R2). -/
def leBytes : Nat → Nat → List Byte
  | 0, _ => []
  | n + 1, v => BitVec.ofNat 8 v :: leBytes n (v / 256)

/-- The value of bytes, lowest first (R2). -/
def leNat : List Byte → Nat
  | [] => 0
  | b :: bs => b.toNat + 256 * leNat bs

/-- The little-endian value of `n` bytes at an offset of a byte string; bytes past its end read 0. -/
def field (bs : List Byte) (off n : Nat) : Nat := leNat ((bs.drop off).take n)

/-- Bits [hi:lo] of a number. -/
def bits (v hi lo : Nat) : Nat := v / 2 ^ lo % 2 ^ (hi + 1 - lo)

/-- Bit `i` of a number. -/
def bit (v i : Nat) : Bool := v / 2 ^ i % 2 == 1

/-- A bit as a number. -/
def b2n (b : Bool) : Nat := if b then 1 else 0

/-- A 32-bit saturating counter takes `k` more events. -/
def sat32 (n k : Nat) : Nat := if n + k < 2 ^ 32 then n + k else 2 ^ 32 - 1

/-- `n` zero bytes. -/
def zeros (n : Nat) : List Byte := List.replicate n 0

/-- Exactly `n` bytes: cut, or filled with zeros. -/
def fitBytes (n : Nat) (bs : List Byte) : List Byte := bs.take n ++ zeros (n - bs.length)

/-- Every byte is zero. -/
def allZero (bs : List Byte) : Bool := bs.all (· == 0)

/-- Element `i` of a list, or the default. -/
def nth {α : Type} (d : α) (l : List α) (i : Nat) : α := l.getD i d

/-- A list with element `i` replaced; unchanged where there is none. -/
def setNth {α : Type} : List α → Nat → α → List α
  | [], _, _ => []
  | _ :: l, 0, v => v :: l
  | a :: l, n + 1, v => a :: setNth l n v

/-- The position of the first element that meets a test. -/
def indexWhere {α : Type} (p : α → Bool) : List α → Option Nat
  | [] => none
  | a :: l => if p a then some 0 else (indexWhere p l).map (· + 1)

/-- The first `n` entries of a list in pieces of `k`, with at most `n` pieces. -/
def chunks {α : Type} (k : Nat) : Nat → List α → List (List α)
  | 0, _ => []
  | n + 1, l => if l.isEmpty then [] else l.take k :: chunks k n (l.drop k)

/-- The list without repeats of its keys: the first of each stays. -/
def firsts : List Nat → List Nat
  | [] => []
  | a :: l => a :: (firsts l).filter (· ≠ a)

/-- The largest number of a list, 0 for none. -/
def maxNat (l : List Nat) : Nat := l.foldl (fun a b => if a < b then b else a) 0

/-- The smallest number of a list, if any. -/
def minNat? : List Nat → Option Nat
  | [] => none
  | a :: l => some (l.foldl (fun x y => if y < x then y else x) a)

/-- `n` divided by `k`, rounded up. -/
def ceilDiv (n k : Nat) : Nat := (n + k - 1) / k

end Sys2Proof.Machine
end

