-- ==== Sys2Proof/Machine/Crypto.lean ====
section
/-! DEFINITION. The published algorithms the spec cites and the package runs: SHAKE256 (FIPS 202), AES-256 (FIPS 197), its GCM
mode (SP 800-38D) and XTS mode (IEEE 1619). -/

namespace Sys2Proof.Machine

/-! SHAKE256. -/

/-- Rotate a 64-bit lane left. -/
def rotl (x : BitVec 64) (n : Nat) : BitVec 64 := x.rotateLeft n

/-- Lane (x, y) of a Keccak state is element x + 5 y. -/
def lane (s : List (BitVec 64)) (i : Nat) : BitVec 64 := nth 0 s i

/-- The rotation offsets of ρ, by lane number. -/
def keccakRot : List Nat :=
  [0, 1, 62, 28, 27, 36, 44, 6, 55, 20, 3, 10, 43, 25, 39, 41, 45, 15, 21, 8, 18, 2, 61, 56, 14]

/-- The round constants of ι. -/
def keccakRc : List (BitVec 64) :=
  [0x0000000000000001#64, 0x0000000000008082#64, 0x800000000000808A#64, 0x8000000080008000#64,
   0x000000000000808B#64, 0x0000000080000001#64, 0x8000000080008081#64, 0x8000000000008009#64] ++
  [0x000000000000008A#64, 0x0000000000000088#64, 0x0000000080008009#64, 0x000000008000000A#64,
   0x000000008000808B#64, 0x800000000000008B#64, 0x8000000000008089#64, 0x8000000000008003#64] ++
  [0x8000000000008002#64, 0x8000000000000080#64, 0x000000000000800A#64, 0x800000008000000A#64,
   0x8000000080008081#64, 0x8000000000008080#64, 0x0000000080000001#64, 0x8000000080008008#64]

/-- One round of Keccak-f[1600]. -/
def keccakRound (s : List (BitVec 64)) (rc : BitVec 64) : List (BitVec 64) :=
  let c := (List.range 5).map fun x => lane s x ^^^ lane s (x + 5) ^^^ lane s (x + 10) ^^^ lane s (x + 15) ^^^ lane s (x + 20)
  let d := (List.range 5).map fun x => lane c ((x + 4) % 5) ^^^ rotl (lane c ((x + 1) % 5)) 1
  let t := (List.range 25).map fun i => rotl (lane s i ^^^ lane d (i % 5)) (nth 0 keccakRot i)
  -- π: lane (x, y) comes from lane (x + 3 y, x)
  let b := (List.range 25).map fun i => let x := i % 5; let y := i / 5; lane t ((x + 3 * y) % 5 + 5 * x)
  let a := (List.range 25).map fun i =>
    let x := i % 5; let y := i / 5
    lane b i ^^^ ((~~~ lane b ((x + 1) % 5 + 5 * y)) &&& lane b ((x + 2) % 5 + 5 * y))
  match a with
  | [] => []
  | l :: ls => (l ^^^ rc) :: ls

/-- Keccak-f[1600]. -/
def keccakF (s : List (BitVec 64)) : List (BitVec 64) := keccakRc.foldl keccakRound s

/-- Mix a 136-byte block into the state. -/
def keccakAbsorb (s : List (BitVec 64)) (blk : List Byte) : List (BitVec 64) :=
  (List.range 25).map fun i => lane s i ^^^ BitVec.ofNat 64 (field blk (8 * i) 8)

/-- The bytes of a state's first 17 lanes. -/
def keccakOut (s : List (BitVec 64)) : List Byte := (s.take 17).flatMap fun l => leBytes 8 l.toNat

/-- The message padded to whole 136-byte blocks for SHAKE256. -/
def shakePad (m : List Byte) : List Byte :=
  let r := 136 - m.length % 136
  if r = 1 then m ++ [0x9F] else m ++ [0x1F] ++ zeros (r - 2) ++ [0x80]

/-- Squeeze `k` blocks. -/
def shakeSqueeze : Nat → List (BitVec 64) → List Byte
  | 0, _ => []
  | k + 1, s => keccakOut s ++ shakeSqueeze k (keccakF s)

/-- SHAKE256 with `n` bytes of output. -/
def shake256 (m : List Byte) (n : Nat) : List Byte :=
  let p := shakePad m
  let s := (chunks 136 (p.length / 136) p).foldl (fun s b => keccakF (keccakAbsorb s b)) (List.replicate 25 0)
  (shakeSqueeze (ceilDiv n 136) s).take n

/-- ASCII bytes. -/
def ascii (x : String) : List Byte := x.toList.map fun c => BitVec.ofNat 8 c.toNat

/-- The derivation of R362. -/
def derive (k : List Byte) (label : String) (ctx : List Byte) (n : Nat) : List Byte :=
  shake256 (k ++ leBytes 1 label.length ++ ascii label ++ ctx) n

/-! AES-256. -/

/-- Multiplication by x in GF(2^8) modulo 0x11B. -/
def xtime (a : Byte) : Byte := (a <<< 1) ^^^ (if a.msb then 0x1B else 0)

/-- Multiplication in GF(2^8), eight bits of `b` from bit 0. -/
def gfMulFrom : Nat → Byte → Nat → Byte
  | 0, _, _ => 0
  | k + 1, a, b => (if b % 2 = 1 then a else 0) ^^^ gfMulFrom k (xtime a) (b / 2)

/-- Multiplication in GF(2^8). -/
def gfMul (a b : Byte) : Byte := gfMulFrom 8 a b.toNat

/-- The inverse in GF(2^8), 0 for 0: a^254. -/
def gfInv (a : Byte) : Byte :=
  let a2 := gfMul a a
  let a3 := gfMul a2 a
  let a6 := gfMul a3 a3
  let a12 := gfMul a6 a6
  let a15 := gfMul a12 a3
  let a30 := gfMul a15 a15
  let a60 := gfMul a30 a30
  let a120 := gfMul a60 a60
  let a126 := gfMul a120 a6
  let a127 := gfMul a126 a
  gfMul a127 a127

/-- The S-box of FIPS 197. -/
def sbox (a : Byte) : Byte :=
  let b := gfInv a
  b ^^^ b.rotateLeft 1 ^^^ b.rotateLeft 2 ^^^ b.rotateLeft 3 ^^^ b.rotateLeft 4 ^^^ 0x63

/-- The inverse S-box. -/
def sboxInv (a : Byte) : Byte := gfInv (a.rotateLeft 1 ^^^ a.rotateLeft 3 ^^^ a.rotateLeft 6 ^^^ 0x05)

/-- The bitwise exclusive or of two byte strings. -/
def xorBytes (a b : List Byte) : List Byte := List.zipWith (· ^^^ ·) a b

/-- The 60 words of the AES-256 key schedule, newest first. -/
def aesExpand : Nat → Nat → Byte → List (List Byte) → List (List Byte)
  | 0, _, _, ws => ws
  | k + 1, i, rcon, ws =>
    let prev := nth [] ws 0
    let back := nth [] ws 7
    let t :=
      if i % 8 = 0 then
        match (prev.drop 1 ++ prev.take 1).map sbox with
        | b :: bs => (b ^^^ rcon) :: bs
        | [] => []
      else if i % 8 = 4 then prev.map sbox
      else prev
    aesExpand k (i + 1) (if i % 8 = 0 then xtime rcon else rcon) (xorBytes back t :: ws)

/-- The 15 round keys of an AES-256 key. -/
def aesKeys (key : List Byte) : List (List Byte) :=
  let ws := (aesExpand 52 8 1 (chunks 4 8 (fitBytes 32 key)).reverse).reverse
  (chunks 4 15 ws).map List.flatten

/-- ShiftRows and its inverse, as the source positions of each byte. -/
def shiftRows (s : List Byte) : List Byte := (List.range 16).map fun i => nth 0 s ((i + 4 * (i % 4)) % 16)
def shiftRowsInv (s : List Byte) : List Byte := (List.range 16).map fun i => nth 0 s ((i + 12 * (i % 4)) % 16)

/-- A column times the circulant matrix with first row m. -/
def mixCol (m : List Byte) (c : List Byte) : List Byte :=
  (List.range 4).map fun r => ((List.range 4).map fun k => gfMul (nth 0 m ((k + 4 - r) % 4)) (nth 0 c k)).foldl (· ^^^ ·) 0

def mixColumns (s : List Byte) : List Byte := (chunks 4 4 s).flatMap (mixCol [2, 3, 1, 1])
def mixColumnsInv (s : List Byte) : List Byte := (chunks 4 4 s).flatMap (mixCol [14, 11, 13, 9])

/-- AES-256 encryption of one block. -/
def aesEnc (key : List Byte) (blk : List Byte) : List Byte :=
  match aesKeys key with
  | [] => blk
  | k0 :: ks =>
    let s := (ks.take 13).foldl (fun s k => xorBytes (mixColumns (shiftRows (s.map sbox))) k) (xorBytes (fitBytes 16 blk) k0)
    xorBytes (shiftRows (s.map sbox)) (nth [] ks 13)

/-- AES-256 decryption of one block. -/
def aesDec (key : List Byte) (blk : List Byte) : List Byte :=
  match (aesKeys key).reverse with
  | [] => blk
  | k0 :: ks =>
    let s := (ks.take 13).foldl (fun s k => mixColumnsInv (xorBytes ((shiftRowsInv s).map sboxInv) k)) (xorBytes (fitBytes 16 blk) k0)
    xorBytes ((shiftRowsInv s).map sboxInv) (nth [] ks 13)

/-! XTS (IEEE 1619): a 512-bit key is the data key followed by the tweak key. -/

/-- The tweak times x in GF(2^128), little-endian. -/
def xtsDouble (t : Nat) : Nat := (2 * t) % 2 ^ 128 ^^^ (if 2 ^ 127 ≤ t then 0x87 else 0)

/-- The tweak of 16-byte block `j` of the data unit `unit`. -/
def xtsTweak (key : List Byte) (unit j : Nat) : List Byte :=
  leBytes 16 (Nat.repeat xtsDouble j (leNat (aesEnc (key.drop 32) (leBytes 16 unit))))

/-- One 16-byte block enciphered. -/
def xtsEnc (key : List Byte) (unit j : Nat) (blk : List Byte) : List Byte :=
  let t := xtsTweak key unit j
  xorBytes (aesEnc (key.take 32) (xorBytes blk t)) t

/-- One 16-byte block deciphered. -/
def xtsDec (key : List Byte) (unit j : Nat) (blk : List Byte) : List Byte :=
  let t := xtsTweak key unit j
  xorBytes (aesDec (key.take 32) (xorBytes blk t)) t

/-! GCM (SP 800-38D), 96-bit nonces and 128-bit tags. Blocks are big-endian numbers. -/

/-- The big-endian value of bytes. -/
def beNat (bs : List Byte) : Nat := leNat bs.reverse

/-- A value as `n` big-endian bytes. -/
def beBytes (n v : Nat) : List Byte := (leBytes n v).reverse

/-- Multiplication in GCM's GF(2^128), from the most significant bit of `x`. -/
def ghashMulFrom : Nat → Nat → Nat → Nat
  | 0, _, _ => 0
  | k + 1, x, v =>
    (if bit x k then v else 0) ^^^
      ghashMulFrom k x (v / 2 ^^^ (if v % 2 = 1 then 0xE1000000000000000000000000000000 else 0))

def ghashMul (x h : Nat) : Nat := ghashMulFrom 128 x h

/-- GHASH over a string of whole blocks. -/
def ghash (h : Nat) (bs : List Byte) : Nat :=
  (chunks 16 (bs.length / 16) bs).foldl (fun y b => ghashMul (y ^^^ beNat b) h) 0

/-- Fill with zeros to whole blocks. -/
def pad16 (bs : List Byte) : List Byte := bs ++ zeros ((16 - bs.length % 16) % 16)

/-- GCM's counter keystream over `n` blocks from counter `c`. -/
def gctr (key nonce : List Byte) : Nat → Nat → List Byte
  | 0, _ => []
  | k + 1, c => aesEnc key (nonce ++ beBytes 4 c) ++ gctr key nonce k (c + 1)

/-- The tag over associated data and ciphertext. -/
def gcmTag (key nonce aad ct : List Byte) : List Byte :=
  let h := beNat (aesEnc key (zeros 16))
  let s := ghash h (pad16 aad ++ pad16 ct ++ beBytes 8 (8 * aad.length) ++ beBytes 8 (8 * ct.length))
  xorBytes (beBytes 16 s) (aesEnc key (nonce ++ beBytes 4 1))

/-- GCM encryption: ciphertext and tag. -/
def gcmEnc (key nonce aad pt : List Byte) : List Byte × List Byte :=
  let ct := xorBytes pt (gctr key nonce (ceilDiv pt.length 16) 2)
  (ct, gcmTag key nonce aad ct)

/-- GCM decryption: the plaintext where the tag verifies. -/
def gcmDec (key nonce aad ct tag : List Byte) : Option (List Byte) :=
  if gcmTag key nonce aad ct = tag then some (xorBytes ct (gctr key nonce (ceilDiv ct.length 16) 2)) else none

end Sys2Proof.Machine
end

