-- ==== Sys2Proof/Machine/Fp.lean ====
section
/-! DEFINITION. Number formats and exact arithmetic (02_number_formats.md): decoding, rounding, conversions, group sums,
FP32 operations and the correctly rounded elementary functions. -/

namespace Sys2Proof.Machine

/-- A floating-point value: NaN, an infinity, or (−1)^neg × m × 2^e (R27, R28: every NaN is the same value). -/
inductive FpVal
  | nan
  | inf (neg : Bool)
  | fin (neg : Bool) (m : Nat) (e : Int)
  deriving DecidableEq, Repr

/-- How a format reads its top exponent: IEEE infinities and NaNs, E4M3's single NaN, or neither (R30, R31). -/
inductive TopKind
  | ieee
  | e4m3
  | plain
  deriving DecidableEq, Repr

/-- A binary format: exponent and fraction widths, bias and the meaning of its top exponent. -/
structure FpFmt where
  eb   : Nat
  mb   : Nat
  bias : Nat
  top  : TopKind
  deriving DecidableEq, Repr

def fmtFp32 : FpFmt := ⟨8, 23, 127, .ieee⟩
def fmtBf16 : FpFmt := ⟨8, 7, 127, .ieee⟩
def fmtFp16 : FpFmt := ⟨5, 10, 15, .ieee⟩
def fmtE4m3 : FpFmt := ⟨4, 3, 7, .e4m3⟩
def fmtE5m2 : FpFmt := ⟨5, 2, 15, .ieee⟩
def fmtE3m2 : FpFmt := ⟨3, 2, 3, .plain⟩
def fmtE2m3 : FpFmt := ⟨2, 3, 1, .plain⟩
def fmtE2m1 : FpFmt := ⟨2, 1, 1, .plain⟩

/-- The bits of an element below its sign that encode the canonical NaN (R28). -/
def fmtNaN (f : FpFmt) : Nat :=
  match f.top with
  | .ieee => (2 ^ f.eb - 1) * 2 ^ f.mb + 2 ^ (f.mb - 1)
  | .e4m3 => 2 ^ (f.eb + f.mb) - 1
  | .plain => 0

/-- The magnitude bits of the largest finite value (R27, R30, R31). -/
def fmtMaxBits (f : FpFmt) : Nat :=
  match f.top with
  | .ieee => (2 ^ f.eb - 1) * 2 ^ f.mb - 1
  | .e4m3 => 2 ^ (f.eb + f.mb) - 2
  | .plain => 2 ^ (f.eb + f.mb) - 1

/-- The value of an encoding (R27, R30, R31). -/
def fpDecode (f : FpFmt) (v : Nat) : FpVal :=
  let neg := bit v (f.eb + f.mb)
  let e := bits v (f.eb + f.mb - 1) f.mb
  let m := v % 2 ^ f.mb
  let sub : Int := 1 - (f.bias : Int) - (f.mb : Int)
  if f.top = .ieee ∧ e = 2 ^ f.eb - 1 then
    if m = 0 then .inf neg else .nan
  else if f.top = .e4m3 ∧ e = 2 ^ f.eb - 1 ∧ m = 2 ^ f.mb - 1 then .nan
  else if e = 0 then .fin neg m sub
  else .fin neg (2 ^ f.mb + m) (sub + (e : Int) - 1)

/-- The exact integer nearest to m / 2^k (RNE, ties to even), or its floor (RTZ). -/
def roundShift (rtz : Bool) (m k : Nat) : Nat :=
  let q := m / 2 ^ k
  let r := m % 2 ^ k
  if rtz then q
  else if 2 * r < 2 ^ k then q
  else if 2 * r > 2 ^ k then q + 1
  else if q % 2 = 0 then q else q + 1

/-- The magnitude bits of m × 2^e rounded to a format with unbounded exponent above and the subnormal spacing below (R36
step 1): the bits may exceed the largest finite value. -/
def roundMag (f : FpFmt) (rtz : Bool) (m : Nat) (e : Int) : Nat :=
  if m = 0 then 0
  else
    let low : Int := 1 - (f.bias : Int) - (f.mb : Int)
    let q0 : Int := (Nat.log2 m : Int) + e - (f.mb : Int)
    let q := if q0 < low then low else q0
    let n := if q ≤ e then m * 2 ^ (e - q).toNat else roundShift rtz m (q - e).toNat
    -- the value is n × 2^q; a subnormal or normal encoding differs only in the hidden bit
    (q - low).toNat * 2 ^ f.mb + n

/-- Conversion of a value to a format (R35, R36): rounding rule, and saturation or overflow. -/
def fpEncode (f : FpFmt) (rtz sat : Bool) (v : FpVal) : Nat :=
  let s (neg : Bool) := if neg then 2 ^ (f.eb + f.mb) else 0
  let past (neg : Bool) (zeroward : Bool) :=
    if sat || zeroward then s neg + fmtMaxBits f
    else match f.top with
      | .ieee => s neg + (2 ^ f.eb - 1) * 2 ^ f.mb
      | .e4m3 => fmtNaN f
      | .plain => s neg + fmtMaxBits f
  match v with
  | .nan => fmtNaN f
  | .inf neg => past neg false
  | .fin neg m e =>
    let n := roundMag f rtz m e
    if n > fmtMaxBits f then past neg rtz else s neg + n

/-- The value of an FP32 word. -/
def fp32 (w : Word) : FpVal := fpDecode fmtFp32 w.toNat

/-- FP32 with RNE and IEEE overflow (R40 fp32_rne, R46). -/
def toFp32 (v : FpVal) : Word := BitVec.ofNat 32 (fpEncode fmtFp32 false false v)

/-- The canonical FP32 NaN (R28). -/
def fp32NaN : Word := 0x7FC00000#32

/-- The positive FP32 infinity. -/
def fp32Inf : Word := 0x7F800000#32

/-- FP32 one. -/
def fp32One : Word := 0x3F800000#32

/-- The negated value. -/
def fpNeg : FpVal → FpVal
  | .nan => .nan
  | .inf n => .inf (!n)
  | .fin n m e => .fin (!n) m e

/-- The value is zero. -/
def fpIsZero : FpVal → Bool
  | .fin _ m _ => m == 0
  | _ => false

/-- The sign of a value; a NaN counts as positive. -/
def fpSign : FpVal → Bool
  | .nan => false
  | .inf n => n
  | .fin n _ _ => n

/-- The value is NaN. -/
def fpIsNaN : FpVal → Bool
  | .nan => true
  | _ => false

/-- The value is finite. -/
def fpIsFin : FpVal → Bool
  | .fin _ _ _ => true
  | _ => false

/-- A signed multiple of 2^q for the value m × 2^e with q ≤ e. -/
def alignTo (neg : Bool) (m : Nat) (e q : Int) : Int :=
  let n : Int := ((m * 2 ^ (e - q).toNat : Nat) : Int)
  if neg then -n else n

/-- The exact sum, with IEEE signs of zero under RNE (R46). -/
def fpAdd : FpVal → FpVal → FpVal
  | .nan, _ => .nan
  | _, .nan => .nan
  | .inf a, .inf b => if a = b then .inf a else .nan
  | .inf a, _ => .inf a
  | _, .inf b => .inf b
  | .fin n1 m1 e1, .fin n2 m2 e2 =>
    if m1 = 0 ∧ m2 = 0 then .fin (n1 && n2) 0 0
    else
      let q := if e1 < e2 then e1 else e2
      let t := alignTo n1 m1 e1 q + alignTo n2 m2 e2 q
      if t = 0 then .fin false 0 0 else .fin (decide (t < 0)) t.natAbs q

/-- The exact product (R46). -/
def fpMul : FpVal → FpVal → FpVal
  | .nan, _ => .nan
  | _, .nan => .nan
  | .inf a, .inf b => .inf (a != b)
  | .inf a, .fin n m _ => if m = 0 then .nan else .inf (a != n)
  | .fin n m _, .inf b => if m = 0 then .nan else .inf (n != b)
  | .fin n1 m1 e1, .fin n2 m2 e2 => .fin (n1 != n2) (m1 * m2) (e1 + e2)

/-- m1 / m2 with 60 more bits than the divisor and a sticky bit below: rounding it to FP32 rounds the exact quotient. -/
def quotient (m1 m2 : Nat) : Nat × Int :=
  let k := Nat.log2 m2 + 60
  let n := m1 * 2 ^ k
  (2 * (n / m2) + (if n % m2 = 0 then 0 else 1), -(k : Int) - 1)

/-- The quotient, exact but for a sticky bit far below FP32 precision (R46). -/
def fpDiv : FpVal → FpVal → FpVal
  | .nan, _ => .nan
  | _, .nan => .nan
  | .inf _, .inf _ => .nan
  | .inf a, .fin n _ _ => .inf (a != n)
  | .fin n _ _, .inf b => .fin (n != b) 0 0
  | .fin n1 m1 e1, .fin n2 m2 e2 =>
    if m2 = 0 then if m1 = 0 then .nan else .inf (n1 != n2)
    else
      let (q, k) := quotient m1 m2
      .fin (n1 != n2) q (e1 - e2 + k)

/-- Integer square root by `fuel` bits from the top: the largest r with r² ≤ n among r below 2^fuel. -/
def isqrtFrom (n : Nat) : Nat → Nat → Nat
  | 0, r => r
  | k + 1, r => let c := r + 2 ^ k; isqrtFrom n k (if c * c ≤ n then c else r)

/-- The floor of the square root. -/
def isqrt (n : Nat) : Nat := isqrtFrom n (Nat.log2 n / 2 + 1) 0

/-- The square root with a sticky bit below (R48). -/
def fpSqrt : FpVal → FpVal
  | .nan => .nan
  | .inf neg => if neg then .nan else .inf false
  | .fin neg m e =>
    if m = 0 then .fin neg 0 0
    else if neg then .nan
    else
      let sh : Nat := if e % 2 = 0 then 64 else 65
      let n : Nat := m * 2 ^ sh
      let r : Nat := isqrt n
      .fin false (2 * r + (if r * r = n then 0 else 1)) ((e - (sh : Int)) / 2 - 1)

/-- The reciprocal square root with a sticky bit below (R48). -/
def fpRsqrt : FpVal → FpVal
  | .nan => .nan
  | .inf neg => if neg then .nan else .fin false 0 0
  | .fin neg m e =>
    if m = 0 then .inf neg
    else if neg then .nan
    else
      -- 1 / sqrt(m × 2^e) with e made even
      let n : Nat := if e % 2 = 0 then m else 2 * m
      let h : Nat := Nat.log2 n + 40
      let r : Nat := isqrt (2 ^ (2 * h) / n)
      .fin false (2 * r + (if r * r * n = 2 ^ (2 * h) then 0 else 1)) (-(e / 2) - (h : Int) - 1)

/-- The values compare: below. -/
def fpLt : FpVal → FpVal → Bool
  | .nan, _ => false
  | _, .nan => false
  | .inf a, .inf b => a && !b
  | .inf a, .fin _ _ _ => a
  | .fin _ _ _, .inf b => !b
  | .fin n1 m1 e1, .fin n2 m2 e2 =>
    let q := if e1 < e2 then e1 else e2
    let x := alignTo n1 m1 e1 q
    let y := alignTo n2 m2 e2 q
    decide (x < y) || (m1 == 0 && m2 == 0 && n1 && !n2)

/-! FP32 operations on words (R46, R47). -/

def fAdd (a b : Word) : Word := toFp32 (fpAdd (fp32 a) (fp32 b))
def fSub (a b : Word) : Word := toFp32 (fpAdd (fp32 a) (fpNeg (fp32 b)))
def fMul (a b : Word) : Word := toFp32 (fpMul (fp32 a) (fp32 b))
def fDiv (a b : Word) : Word := toFp32 (fpDiv (fp32 a) (fp32 b))
def fFma (a b c : Word) : Word := toFp32 (fpAdd (fpMul (fp32 a) (fp32 b)) (fp32 c))

/-- MIN of R47: −0 below +0; the number where one operand is NaN. -/
def fMin (a b : Word) : Word :=
  if fpIsNaN (fp32 a) then (if fpIsNaN (fp32 b) then fp32NaN else b)
  else if fpIsNaN (fp32 b) then a
  else if fpLt (fp32 b) (fp32 a) then b else a

/-- MAX of R47. -/
def fMax (a b : Word) : Word :=
  if fpIsNaN (fp32 a) then (if fpIsNaN (fp32 b) then fp32NaN else b)
  else if fpIsNaN (fp32 b) then a
  else if fpLt (fp32 a) (fp32 b) then b else a

/-- ABS: the sign bit cleared, a NaN keeping its other bits (R96). -/
def fAbs (a : Word) : Word := a &&& 0x7FFFFFFF#32

/-- NEG: the sign bit turned over, on every input (R96). -/
def fNeg (a : Word) : Word := a ^^^ 0x80000000#32

/-- RCP of R48. -/
def fRcp (a : Word) : Word := toFp32 (fpDiv (.fin false 1 0) (fp32 a))

/-- SQRT of R48. -/
def fSqrt (a : Word) : Word := toFp32 (fpSqrt (fp32 a))

/-- RSQRT of R48. -/
def fRsqrt (a : Word) : Word := toFp32 (fpRsqrt (fp32 a))

/-! The elementary functions of R48. Each is evaluated in fixed point with `p` fraction bits and an error bound of 2^16 units,
at rising `p`, until both ends of the interval round to one FP32 value. -/

/-- The sum of the terms of a series: `next n t` is term n + 1 from term n. -/
def series (next : Nat → Int → Int) : Nat → Nat → Int → Int → Int
  | 0, _, _, acc => acc
  | k + 1, n, t, acc => if t = 0 then acc else series next k (n + 1) (next n t) (acc + t)

/-- ln 2 × 2^p, from 2 atanh(1/3). -/
def fixLn2 (p : Nat) : Int :=
  let rec go : Nat → Nat → Int → Int → Int
    | 0, _, _, acc => acc
    | k + 1, n, t, acc => if t = 0 then acc else go k (n + 2) (t / 9) (acc + t / (n : Int))
  2 * go p 1 (2 ^ p / 3) 0

/-- atan(1/x) × 2^p. -/
def fixAtanInv (p x : Nat) : Int :=
  let rec go : Nat → Nat → Bool → Int → Int → Int
    | 0, _, _, _, acc => acc
    | k + 1, n, neg, t, acc =>
      if t = 0 then acc
      else go k (n + 2) (!neg) (t / ((x * x : Nat) : Int)) (if neg then acc - t / (n : Int) else acc + t / (n : Int))
  go p 1 false (2 ^ p / (x : Int)) 0

/-- π × 2^p by Machin's formula. -/
def fixPi (p : Nat) : Int := 16 * fixAtanInv p 5 - 4 * fixAtanInv p 239

/-- e^(r / 2^p) × 2^p for |r| at most 2^p. -/
def fixExp (p : Nat) (r : Int) : Int :=
  series (fun n t => (t * r / 2 ^ p) / ((n : Int) + 1)) (p + 8) 0 (2 ^ p) 0

/-- sin(r / 2^p) × 2^p. -/
def fixSin (p : Nat) (r : Int) : Int :=
  let r2 := r * r / 2 ^ p
  series (fun n t => -(t * r2 / 2 ^ p) / (((2 * n + 2) * (2 * n + 3) : Nat) : Int)) (p + 8) 0 r 0

/-- cos(r / 2^p) × 2^p. -/
def fixCos (p : Nat) (r : Int) : Int :=
  let r2 := r * r / 2 ^ p
  series (fun n t => -(t * r2 / 2 ^ p) / (((2 * n + 1) * (2 * n + 2) : Nat) : Int)) (p + 8) 0 (2 ^ p) 0

/-- atanh(z / 2^p) × 2^p for |z| below 2^p / 4. -/
def fixAtanh (p : Nat) (z : Int) : Int :=
  let z2 := z * z / 2 ^ p
  let rec go : Nat → Nat → Int → Int → Int
    | 0, _, _, acc => acc
    | k + 1, n, t, acc => if t = 0 then acc else go k (n + 2) (t * z2 / 2 ^ p) (acc + t / (n : Int))
  go (p + 8) 1 z 0

/-- The value x × 2^p of a finite value, rounded down. -/
def fixOf (p : Nat) (neg : Bool) (m : Nat) (e : Int) : Int :=
  let k := e + (p : Int)
  let n : Int := if 0 ≤ k then ((m * 2 ^ k.toNat : Nat) : Int) else ((m / 2 ^ (-k).toNat : Nat) : Int)
  if neg then -n else n

/-- Round the interval (a ± 2^16) × 2^(−p + k) to FP32 where both ends agree. -/
def roundBall (p : Nat) (a k : Int) : Option Word :=
  let enc (x : Int) := toFp32 (.fin (decide (x < 0)) x.natAbs (k - (p : Int)))
  let lo := enc (a - 2 ^ 16)
  let hi := enc (a + 2 ^ 16)
  if lo = hi then some lo else none

/-- The first precision of a list that decides the rounding; the last one's midpoint where none does. -/
def firstBall (f : Nat → Int × Int) : List Nat → Word
  | [] => 0
  | [p] => let (a, k) := f p; toFp32 (.fin (decide (a < 0)) a.natAbs (k - (p : Int)))
  | p :: ps => let (a, k) := f p; (roundBall p a k).getD (firstBall f ps)

/-- The precisions tried, above a base that covers small arguments. -/
def precisions (base : Nat) : List Nat := [base + 80, base + 160, base + 320, base + 640]

/-- The number of fraction bits a small argument asks for. -/
def smallBits (m : Nat) (e : Int) : Nat := (-(e + (Nat.log2 m : Int))).toNat

/-- e^x as (fixed point, binary exponent), with x = m × 2^e of sign neg and |x| at most 128. -/
def ballExp (neg : Bool) (m : Nat) (e : Int) (p : Nat) : Int × Int :=
  let x := fixOf p neg m e
  let ln2 := fixLn2 p
  let k := x / ln2
  (fixExp p (x - k * ln2), k)

/-- EXP of R48. -/
def fExp (a : Word) : Word :=
  match fp32 a with
  | .nan => fp32NaN
  | .inf neg => if neg then 0 else fp32Inf
  | .fin neg m e =>
    if m = 0 then fp32One
    else if (Nat.log2 m : Int) + e ≥ 7 then (if neg then 0 else fp32Inf)
    else firstBall (ballExp neg m e) (precisions (smallBits m e))

/-- EXP2 of R48; a whole exponent is exact. -/
def fExp2 (a : Word) : Word :=
  match fp32 a with
  | .nan => fp32NaN
  | .inf neg => if neg then 0 else fp32Inf
  | .fin neg m e =>
    if m = 0 then fp32One
    else if (Nat.log2 m : Int) + e ≥ 8 then (if neg then 0 else fp32Inf)
    else
      let k := fixOf 0 neg m e
      if fixOf 160 neg m e = k * 2 ^ 160 ∧ (Nat.log2 m : Int) + e ≥ 0 then toFp32 (.fin false 1 k)
      else firstBall (fun p =>
        let x := fixOf p neg m e
        let k := x / 2 ^ p
        (fixExp p ((x - k * 2 ^ p) * fixLn2 p / 2 ^ p), k)) (precisions (smallBits m e))

/-- LOG2 of R48; a power of two is exact. -/
def fLog2 (a : Word) : Word :=
  match fp32 a with
  | .nan => fp32NaN
  | .inf neg => if neg then fp32NaN else fp32Inf
  | .fin neg m e =>
    if m = 0 then 0xFF800000#32
    else if neg then fp32NaN
    else
      let l := Nat.log2 m
      let k := (l : Int) + e
      if m = 2 ^ l then toFp32 (.fin (decide (k < 0)) k.natAbs 0)
      else
        -- m = 2^l × y with y in (1, 2); halve y above 4/3 so that the atanh argument stays small
        let up := decide (3 * m > 4 * 2 ^ l)
        let one := if up then 2 ^ (l + 1) else 2 ^ l
        let k := if up then k + 1 else k
        firstBall (fun p =>
          let z := (((m : Int) - (one : Int)) * 2 ^ p) / ((m : Int) + (one : Int))
          (k * 2 ^ p + 2 * fixAtanh p z * 2 ^ p / fixLn2 p, 0)) (precisions 32)

/-- sin(π r) for r = n / 2^d in [0, 1/2], in fixed point; the angle above a quarter by the cosine of its complement. -/
def ballSinPi (n d : Nat) (p : Nat) : Int :=
  let r : Int := ((n * 2 ^ p / 2 ^ d : Nat) : Int)
  let pi := fixPi p
  if 4 * n > 2 ^ d then fixCos p ((2 ^ (p - 1) - r) * pi / 2 ^ p) else fixSin p (r * pi / 2 ^ p)

/-- sin(π n / 2^d) rounded to FP32, for n of any size, with the sign of the argument. A whole argument gives ±0 as R48 says. -/
def sinPiOf (neg : Bool) (n d : Nat) : Word :=
  let t := n % (2 * 2 ^ d)
  if n % 2 ^ d = 0 then (if neg then 0x80000000#32 else 0)
  else
    let flip := decide (t > 2 ^ d)
    let u := if flip then t - 2 ^ d else t
    let v := if 2 * u > 2 ^ d then 2 ^ d - u else u
    let s := neg != flip
    if 2 * v = 2 ^ d then (if s then 0xBF800000#32 else fp32One)
    else
      let base := d - Nat.log2 v
      firstBall (fun p => let a := ballSinPi v d p; (if s then -a else a, 0)) (precisions base)

/-- SINPI of R48. -/
def fSinPi (a : Word) : Word :=
  match fp32 a with
  | .nan => fp32NaN
  | .inf _ => fp32NaN
  | .fin neg m e =>
    if m = 0 then a
    else if 0 ≤ e then (if neg then 0x80000000#32 else 0)
    else sinPiOf neg m (-e).toNat

/-- COSPI of R48: sin(π(x + 1/2)), the half-integers giving +0. -/
def fCosPi (a : Word) : Word :=
  match fp32 a with
  | .nan => fp32NaN
  | .inf _ => fp32NaN
  | .fin _ m e =>
    if 0 ≤ e then (if m * 2 ^ e.toNat % 2 = 0 then fp32One else 0xBF800000#32)
    else
      let d := (-e).toNat
      let n := 2 * m + 2 ^ d
      if n % (2 * 2 ^ d) = 0 then 0 else sinPiOf false n (d + 1)

/-- TANH of R48. -/
def fTanh (a : Word) : Word :=
  match fp32 a with
  | .nan => fp32NaN
  | .inf neg => if neg then 0xBF800000#32 else fp32One
  | .fin neg m e =>
    if m = 0 then a
    else if (Nat.log2 m : Int) + e ≥ 4 then (if neg then 0xBF800000#32 else fp32One)
    else firstBall (fun p =>
      -- tanh x = (1 − e^(−2x)) / (1 + e^(−2x)) for the magnitude x
      let (v, k) := ballExp true m (e + 1) p
      let t := v / 2 ^ (-k).toNat
      let r := (2 ^ p - t) * 2 ^ p / (2 ^ p + t)
      (if neg then -r else r, 0)) (precisions (smallBits m e))

/-! Element formats, packing and MX blocks (R25, R26, R31 to R37, R504). -/

/-- How a format code of R25 is read: a plain element, an MX element with its scale, a codebook index or an integer. -/
inductive FmtKind
  | plain (f : FpFmt)
  | mx (f : FpFmt) (emax : Int)
  | mxInt8
  | cb (bits : Nat)
  | int32
  | uint32
  | e8m0
  deriving DecidableEq, Repr

/-- The format codes of R25; none for a reserved value. -/
def fmtKind (code : Nat) : Option FmtKind :=
  match code with
  | 0x01 => some (.plain fmtFp32)
  | 0x02 => some (.plain fmtBf16)
  | 0x03 => some (.plain fmtFp16)
  | 0x04 => some (.plain fmtE4m3)
  | 0x05 => some (.plain fmtE5m2)
  | 0x08 => some (.mx fmtE4m3 8)
  | 0x09 => some (.mx fmtE5m2 15)
  | 0x0A => some (.mx fmtE3m2 4)
  | 0x0B => some (.mx fmtE2m3 2)
  | 0x0C => some (.mx fmtE2m1 2)
  | 0x0D => some .mxInt8
  | 0x10 => some (.cb 2)
  | 0x11 => some (.cb 3)
  | 0x12 => some (.cb 4)
  | 0x20 => some .int32
  | 0x21 => some .uint32
  | 0x22 => some .e8m0
  | _ => none

/-- Bits per element of a format code (R25). -/
def fmtBits : FmtKind → Nat
  | .plain f => f.eb + f.mb + 1
  | .mx f _ => f.eb + f.mb + 1
  | .mxInt8 => 8
  | .cb b => b
  | .int32 => 32
  | .uint32 => 32
  | .e8m0 => 8

/-- The bytes a packed array of `n` elements of `w` bits takes (R26: 3-bit and 6-bit arrays take whole groups). -/
def packedBytes (w n : Nat) : Nat :=
  if w = 3 then 3 * ceilDiv n 8 else if w = 6 then 3 * ceilDiv n 4 else ceilDiv (n * w) 8

/-- Element `i` of a packed array of `w`-bit elements (R26). Every packing of R26 is little-endian in the bit number. -/
def packedElem (w : Nat) (bs : List Byte) (i : Nat) : Nat :=
  let lo := i * w
  (leNat ((bs.drop (lo / 8)).take (w / 8 + 2)) / 2 ^ (lo % 8)) % 2 ^ w

/-- The packed array of elements of `w` bits, in whole groups with zero fill (R26). -/
def packElems (w : Nat) (els : List Nat) : List Byte :=
  leBytes (packedBytes w els.length) (els.foldr (fun x acc => x % 2 ^ w + 2 ^ w * acc) 0)

/-- The value of an E8M0 scale byte (R32). -/
def e8m0 (s : Nat) : FpVal := if s = 0xFF then .nan else .fin false 1 ((s : Int) - 127)

/-- An MXINT8 element as an operand: n × 2^−6 (R31). -/
def mxInt8Val (b : Nat) : FpVal :=
  let n := b % 256
  if n < 128 then .fin false n (-6) else .fin true (256 - n) (-6)

/-- The value of an element before any MX scale. -/
def elemVal (k : FmtKind) (x : Nat) : FpVal :=
  match k with
  | .plain f => fpDecode f x
  | .mx f _ => fpDecode f x
  | .mxInt8 => mxInt8Val x
  | .cb _ => .fin false x 0
  | .int32 => if x < 2 ^ 31 then .fin false x 0 else .fin true (2 ^ 32 - x) 0
  | .uint32 => .fin false x 0
  | .e8m0 => e8m0 x

/-- Conversion of a finite value to an integer by the rounding rule. -/
def fpToInt (rtz : Bool) (neg : Bool) (m : Nat) (e : Int) : Int :=
  let n : Nat := if 0 ≤ e then m * 2 ^ e.toNat else roundShift rtz m (-e).toNat
  if neg then -(n : Int) else (n : Int)

/-- FP32 to INT32 (R37): saturates, NaN gives 0. -/
def fpToInt32 (rtz : Bool) (v : FpVal) : Nat :=
  let wrap (i : Int) : Nat := (BitVec.ofInt 32 i).toNat
  match v with
  | .nan => 0
  | .inf neg => if neg then 2 ^ 31 else 2 ^ 31 - 1
  | .fin neg m e =>
    let i := fpToInt rtz neg m e
    if i > 2 ^ 31 - 1 then 2 ^ 31 - 1 else if i < -(2 ^ 31) then 2 ^ 31 else wrap i

/-- FP32 to UINT32. No rule of the specification converts to UINT32: a value that the mode's rounding rule of R35 brings into 0 to
2^32 − 1 is that integer, any other is a free value (DESIGN CHOICE, log entry 103). -/
def fpToUint32 (mode : Nat) (v : FpVal) : Nat :=
  let free := Config.toUint32 mode (toFp32 v).toNat % 2 ^ 32
  match v with
  | .fin neg m e =>
    let i := fpToInt (bit mode 1) neg m e
    if 0 ≤ i ∧ i < 2 ^ 32 then i.toNat else free
  | _ => free

/-- FP32 to E8M0 (R504). -/
def fpToE8m0 (v : FpVal) : Nat :=
  match v with
  | .nan => 0xFF
  | .inf _ => 0xFF
  | .fin _ m e =>
    if m = 0 then 0
    else
      let x := (Nat.log2 m : Int) + e + 127
      if x < 0 then 0 else if x > 254 then 254 else x.toNat

/-- FP32 to an MXINT8 element: a multiple of 2^−6, saturating at ±127/64 (R31). -/
def fpToMxInt8 (rtz : Bool) (v : FpVal) : Nat :=
  match v with
  | .nan => 0
  | .inf neg => if neg then 0x81 else 0x7F
  | .fin neg m e =>
    let i := fpToInt rtz neg m (e + 6)
    if i > 127 then 0x7F else if i < -127 then 0x81 else (BitVec.ofInt 8 i).toNat

/-- `CVT_MODE` of R35: RTZ in bit 1, OVF in bit 0. -/
def cvtRtz (mode : Nat) : Bool := bit mode 1
def cvtSat (mode : Nat) : Bool := !bit mode 0

/-- Conversion of a value to an element of a plain format (R36, R37, R504). -/
def cvtElem (k : FmtKind) (mode : Nat) (v : FpVal) : Nat :=
  match k with
  | .plain f => fpEncode f (cvtRtz mode) (cvtSat mode) v
  | .int32 => fpToInt32 (cvtRtz mode) v
  | .uint32 => fpToUint32 mode v
  | .e8m0 => fpToE8m0 v
  | .mx f _ => fpEncode f (cvtRtz mode) true v
  | .mxInt8 => fpToMxInt8 (cvtRtz mode) v
  | .cb b => fpToInt32 (cvtRtz mode) v % 2 ^ b

/-- The largest magnitude's floor(log2), none where all are zero; used by R33 and R40. -/
def topExp (vs : List FpVal) : Option Int :=
  vs.foldl (fun acc v =>
    match v with
    | .fin _ m e =>
      if m = 0 then acc
      else
        let x := (Nat.log2 m : Int) + e
        match acc with
        | none => some x
        | some y => some (if y < x then x else y)
    | _ => acc) none

/-- Quantising 32 values to an MX block (R33): the scale byte and the elements. -/
def mxQuantise (k : FmtKind) (mode : Nat) (vs : List FpVal) : Nat × List Nat :=
  if vs.any fun v => !fpIsFin v then (0xFF, vs.map fun _ => 0)
  else
    let emax : Int := match k with | .mx _ e => e | _ => 0
    let x : Int := match topExp vs with
      | none => -127
      | some t => let y := t - emax; if y < -127 then -127 else if y > 127 then 127 else y
    ((x + 127).toNat, vs.map fun v => cvtElem k mode (match v with | .fin n m e => .fin n m (e - x) | w => w))

/-! Tensor engine arithmetic (R39 to R43). -/

/-- The sum over a finite group of 32 products, each truncated to the 48-bit window of the largest (R40): the sum in units
of 2^q and q. -/
def groupWindow (ps : List FpVal) : Int × Int :=
  match topExp ps with
  | none => (0, 0)
  | some e =>
    let q := e - 47
    (ps.foldl (fun acc p =>
      match p with
      | .fin neg m x =>
        let n : Nat := if q ≤ x then m * 2 ^ (x - q).toNat else m / 2 ^ (q - x).toNat
        if neg then acc - (n : Int) else acc + (n : Int)
      | _ => acc) 0, q)

/-- The group value (R40, R41) from the products and the exponents of the two scales (none for a NaN scale). -/
def groupValue (ps : List FpVal) (sa sb : Option Int) : Word :=
  match sa, sb with
  | some a, some b =>
    if ps.any fpIsNaN then fp32NaN
    else
      let pos := ps.any fun p => decide (p = .inf false)
      let neg := ps.any fun p => decide (p = .inf true)
      if pos && neg then fp32NaN
      else if pos then fp32Inf
      else if neg then 0xFF800000#32
      else
        let (t, q) := groupWindow ps
        if t = 0 then 0 else toFp32 (.fin (decide (t < 0)) t.natAbs (q + a + b))
  | _, _ => fp32NaN

/-- The accumulator over the groups in order (R42). -/
def accumulate (init : Word) (groups : List Word) : Word := groups.foldl fAdd init

/-- One level of the pairwise tree of R49. -/
def pairLevel (f : Word → Word → Word) : List Word → List Word
  | a :: b :: l => f a b :: pairLevel f l
  | l => l

/-- The seven-level tree of R49 over 128 lanes. -/
def laneTree (f : Word → Word → Word) (v : List Word) : Word :=
  let l := pairLevel f
  nth 0 (l (l (l (l (l (l (l v))))))) 0

/-- The reduction of R49 over n vectors. -/
def laneReduce (f : Word → Word → Word) : List (List Word) → Word
  | [] => 0
  | v :: vs => laneTree f (vs.foldl (fun a b => List.zipWith f a b) v)

end Sys2Proof.Machine
end

