-- ==== Sys2Proof/Machine/Press.lean ====
section
/-! DEFINITION. Pressed weights (03_pressed_weights.md): the header, the bind check, the prefix code, one segment's decode and
one decode operation with its cycle budget. -/

namespace Sys2Proof.Machine

/-- The pressed tensor header (R50). -/
structure PressHdr where
  format    : Nat
  idxFmt    : Nat
  entryFmt  : Nat
  tableMode : Nat
  spanLog2  : Nat
  rsv06     : Nat
  weights   : Nat
  segCount  : Nat
  tblCount  : Nat
  tblOff    : Nat
  dirOff    : Nat
  dataOff   : Nat
  dataBytes : Nat
  rsv24     : Nat
  codeLens  : Nat
  rsv30     : Nat
  deriving DecidableEq, Repr

/-- The header at the start of a tensor's bytes (R50). -/
def pressHdr (bs : List Byte) : PressHdr where
  format := field bs 0 2
  idxFmt := field bs 2 1
  entryFmt := field bs 3 1
  tableMode := field bs 4 1
  spanLog2 := field bs 5 1
  rsv06 := field bs 6 2
  weights := field bs 8 4
  segCount := field bs 0xC 4
  tblCount := field bs 0x10 4
  tblOff := field bs 0x14 4
  dirOff := field bs 0x18 4
  dataOff := field bs 0x1C 4
  dataBytes := field bs 0x20 4
  rsv24 := field bs 0x24 4
  codeLens := field bs 0x28 8
  rsv30 := field bs 0x30 16

/-- The entry count of an index format (R55). -/
def idxEntries (f : Nat) : Nat := if f = 0x10 then 4 else if f = 0x11 then 8 else 16

/-- The size of one culture table in bytes (R57). -/
def tableBytes (h : PressHdr) : Nat := idxEntries h.idxFmt * (if h.entryFmt = 0x02 then 2 else 1)

/-- The code length of an index (R50). -/
def codeLen (lens s : Nat) : Nat := bits lens (4 * s + 3) (4 * s)

/-- R55. -/
def codeOk (idxFmt lens : Nat) : Bool :=
  let ss := List.range 16
  ss.all (fun s => codeLen lens s ≤ 12) &&
    ss.all (fun s => s < idxEntries idxFmt || codeLen lens s == 0) &&
    ss.any (fun s => codeLen lens s != 0) &&
    decide ((ss.map fun s => if codeLen lens s = 0 then 0 else 2 ^ (12 - codeLen lens s)).sum ≤ 2 ^ 12)

/-- The canonical words (R56): (length, index, word) in order of assignment. -/
def codeWords (lens : Nat) : List (Nat × Nat × Nat) :=
  ((List.range 12).foldl (fun (acc : List (Nat × Nat × Nat) × Nat) i =>
    let l := i + 1
    let (ws, code) := (List.range 16).foldl (fun (p : List (Nat × Nat × Nat) × Nat) s =>
      if codeLen lens s = l then (p.1 ++ [(l, s, p.2)], p.2 + 1) else p) acc
    (ws, code * 2)) ([], 0)).1

/-- One directory entry (R53): offset, bits, check. -/
def dirEntry (bs : List Byte) : Nat × Nat × Nat := (field bs 0 4, field bs 4 2, field bs 6 2)

/-- The number of weights of a segment (R52). -/
def segWeights (h : PressHdr) (s : Nat) : Nat :=
  if 256 * (s + 1) ≤ h.weights then 256 else h.weights - 256 * s

/-- The directory obeys R53, from segment `s` on with the end of the one before. -/
def dirOk (h : PressHdr) (bs : List Byte) : Nat → Nat → Nat → Nat → Bool
  | 0, _, endB, _ => decide (endB ≤ h.dataBytes)
  | n + 1, s, endB, lastOff =>
    let (off, nb, _) := dirEntry (bs.drop (h.dirOff + 8 * s))
    let w := segWeights h s
    decide (w ≤ nb ∧ nb ≤ 12 * w ∧ endB ≤ off ∧ (s = 0 ∨ lastOff < off)) &&
      dirOk h bs n (s + 1) (off + ceilDiv nb 8) off

/-- Bytes [a, b) of the tensor are zero (R51). -/
def gapZero (bs : List Byte) (a b : Nat) : Bool := allZero ((bs.drop a).take (b - a))

/-- A culture table entry is neither NaN nor infinity (R58). -/
def entryOk (entryFmt v : Nat) : Bool :=
  match fmtKind entryFmt with
  | some k => fpIsFin (elemVal k v)
  | none => false

/-- The value of entry `i` of a table's bytes. -/
def tableEntry (entryFmt : Nat) (bs : List Byte) (i : Nat) : Nat :=
  if entryFmt = 0x02 then field bs (2 * i) 2 else field bs i 1

/-- Every entry of the culture tables obeys R58. -/
def tablesOk (h : PressHdr) (bs : List Byte) : Bool :=
  (List.range (h.tblCount * idxEntries h.idxFmt)).all fun i =>
    entryOk h.entryFmt (tableEntry h.entryFmt (bs.drop h.tblOff) i)

/-- The bind check of R59: the status of the first check that fails, 0 for none. `bytes` is the TENSORS entry's length. -/
def pressCheck (bs : List Byte) (bytes : Nat) : Nat :=
  let h := pressHdr bs
  let tblEnd := h.tblOff + h.tblCount * tableBytes h
  let dirEnd := h.dirOff + 8 * h.segCount
  if h.format ≠ 0x1000 then 0x0102
  else if h.rsv06 ≠ 0 ∨ h.rsv24 ≠ 0 ∨ h.rsv30 ≠ 0 then 0x0101
  else if ¬(h.idxFmt = 0x10 ∨ h.idxFmt = 0x11 ∨ h.idxFmt = 0x12) ∨
      ¬(h.entryFmt = 0x02 ∨ h.entryFmt = 0x04 ∨ h.entryFmt = 0x05) ∨
      1 < h.tableMode ∨ h.weights = 0xFFFFFFFF then 0x0103
  else if h.segCount ≠ ceilDiv h.weights 256 ∨
      (if h.tableMode = 0 then h.tblCount ≠ 1 ∨ h.spanLog2 ≠ 0
       else h.spanLog2 < 4 ∨ 12 < h.spanLog2 ∨ h.tblCount ≠ ceilDiv h.segCount (2 ^ h.spanLog2)) ∨
      (h.weights = 0 ∧ h.dataBytes ≠ 0) then 0x0538
  else if !codeOk h.idxFmt h.codeLens then 0x0539
  else if h.tblOff % 16 ≠ 0 ∨ h.tblOff < 0x40 ∨ h.dirOff % 8 ≠ 0 ∨ h.dirOff < tblEnd ∨
      h.dataOff % 16 ≠ 0 ∨ h.dataOff < dirEnd ∨ 0xFFFFFFFF < h.dataOff + h.dataBytes ∨
      h.dataOff + h.dataBytes ≠ bytes ∨ !dirOk h bs h.segCount 0 0 0 then 0x053A
  else if !(gapZero bs 0x40 h.tblOff && gapZero bs tblEnd h.dirOff && gapZero bs dirEnd h.dataOff) then 0x0101
  else if !tablesOk h bs then 0x053B
  else 0

/-- What reading one code gives (R56, R69): an index, an invalid code or a truncated one, with the bits it occupies. -/
inductive CodeRead
  | index (s len : Nat)
  | invalid (len : Nat)
  | truncated (len : Nat)
  deriving DecidableEq, Repr

/-- Read one code bit by bit from stream bit `pos`: `l` bits held with value `v`. -/
def readCode (words : List (Nat × Nat × Nat)) (stream segBits first : Nat) : Nat → Nat → Nat → CodeRead
  | 0, l, _ => .invalid l
  | k + 1, l, v =>
    if segBits ≤ first + l then .truncated l
    else
      let v := 2 * v + b2n (bit stream (first + l))
      let l := l + 1
      match words.find? fun w => decide (w.1 = l ∧ w.2.2 = v) with
      | some w => .index w.2.1 l
      | none =>
        if words.any fun w => decide (l < w.1 ∧ w.2.2 / 2 ^ (w.1 - l) = v) then readCode words stream segBits first k l v
        else .invalid l

/-- One segment decoded (R62, R69): the indices with the lane cycle of each, the stream bit after each, the cycle count and
the error with its bit offset. -/
structure SegDecode where
  idxs : List (Nat × Nat × Nat)
  cyc  : Nat
  err  : Option (Nat × Nat)
  deriving DecidableEq, Repr

/-- The place of a code of `len` bits under the 48-bit and 16-code rule of R62: cycle, codes in it, bits in it. -/
def packCode (c n b len : Nat) : Nat × Nat × Nat :=
  if n < 16 ∧ b + len ≤ 48 then (c, n + 1, b + len) else (c + 1, 1, len)

/-- Decode the remaining `k` weights of a segment from stream bit `pos`. -/
def decodeCodes (words : List (Nat × Nat × Nat)) (stream segBits : Nat) :
    Nat → Nat → Nat → Nat → Nat → List (Nat × Nat × Nat) → SegDecode
  | 0, _, c, _, _, acc => ⟨acc.reverse, c + 1, none⟩
  | k + 1, pos, c, n, b, acc =>
    match readCode words stream segBits pos 12 0 0 with
    | .index s len =>
      let (c, n, b) := packCode c n b len
      decodeCodes words stream segBits k (pos + len) c n b ((s, c, pos + len) :: acc)
    | .invalid len => ⟨acc.reverse, (packCode c n b len).1 + 1, some (0x0530, pos)⟩
    | .truncated len => ⟨acc.reverse, (packCode c n b len).1 + 1, some (0x0531, pos)⟩

/-- The check value of R54 over indices in order, the first at position `i`. -/
def segChk : Nat → List Nat → Nat
  | _, [] => 0
  | i, x :: xs => ((i + 1) * x + segChk (i + 1) xs) % 65536

/-- The first bit at or after `a`, below `b`, that is 1. -/
def firstOne (stream a : Nat) : Nat → Option Nat
  | 0 => none
  | k + 1 => if bit stream a then some a else firstOne stream (a + 1) k

/-- Decode a segment of `n` weights from its bytes and directory entry (R69). -/
def decodeSegment (lens n segBits chk : Nat) (data : List Byte) : SegDecode :=
  let stream := leNat data
  let r := decodeCodes (codeWords lens) stream segBits n 0 0 0 0 []
  if r.err.isSome then r
  else
    let pos := (r.idxs.getLast?.map fun x => x.2.2).getD 0
    if pos < segBits then { r with err := some (0x0532, pos) }
    else match firstOne stream segBits (8 * ceilDiv segBits 8 - segBits) with
      | some b => { r with err := some (0x0532, b) }
      | none =>
        if segChk 0 (r.idxs.map fun x => x.1) = chk then r else { r with err := some (0x0533, segBits) }

/-- One press error (R69, R71): cycle from the operation's issue, lane, status, segment, bit offset. -/
structure PressErr where
  cycle  : Nat
  lane   : Nat
  status : Nat
  seg    : Nat
  bitOff : Nat
  deriving DecidableEq, Repr

/-- What a decode operation writes: stage entries (position in the named range, entry byte), the tables its rounds name, each with the cycle
of the first, errors. -/
structure DecodeOut where
  stage  : List (Nat × Nat)
  tables : List (Nat × Nat)
  errs   : List PressErr
  deriving DecidableEq, Repr

/-- The table a segment uses (R57). -/
def segTable (h : PressHdr) (s : Nat) : Nat := if h.tableMode = 0 then 0 else s / 2 ^ h.spanLog2

/-- What one segment of a round that starts at cycle `t0` puts out within `budget` cycles (R62, R63, R69, R70). `base` is the
position of its first weight in the range. An entry with ZERO set has index 0 and the segment's table register in its other bits, which no
product reads (DESIGN CHOICE, log entry 105: R70 gives the flag alone). -/
def segOut (h : PressHdr) (budget t0 lane seg base n : Nat) (r : SegDecode) : List (Nat × Nat) × List PressErr :=
  let reg := segTable h seg % 8
  let inTime := r.idxs.filter fun x => decide (t0 + x.2.1 < budget)
  let good := inTime.zipIdx.map fun (x, i) => (base + i, x.1 + 16 * reg)
  if t0 + r.cyc ≤ budget then
    match r.err with
    | none => (good, [])
    | some (st, off) =>
      let lost := (List.range (n - r.idxs.length)).map fun i => (base + r.idxs.length + i, 128 + 16 * reg)
      (good ++ lost, [⟨t0 + r.cyc - 1, lane, st, seg, off⟩])
  else
    let off := if t0 < budget then (inTime.getLast?.map fun x => x.2.2).getD 0 else 0
    (good, [⟨budget - 1, lane, 0x0534, seg, off⟩])

/-- One round (R61): up to 64 segments from `seg`, all starting at cycle `t0`. -/
def roundOut (h : PressHdr) (decode : Nat → SegDecode) (budget t0 segFirst j0 cnt : Nat) : DecodeOut × Nat :=
  let segs := (List.range cnt).map fun i => (i, segFirst + j0 + i, decode (segFirst + j0 + i))
  let outs := segs.map fun (i, s, r) => segOut h budget t0 i s (256 * (j0 + i)) (segWeights h s) r
  let tbls := firsts (segs.map fun x => segTable h x.2.1)
  (⟨outs.flatMap (·.1), if t0 < budget then tbls.map fun t => (t, t0) else [], outs.flatMap (·.2)⟩, maxNat (segs.map fun x => x.2.2.cyc))

/-- The rounds of a decode operation from position `j0` (R61, R62). -/
def rounds (h : PressHdr) (decode : Nat → SegDecode) (budget segFirst : Nat) : Nat → Nat → Nat → Nat → DecodeOut
  | 0, _, _, _ => ⟨[], [], []⟩
  | k + 1, t0, j0, left =>
    if left = 0 then ⟨[], [], []⟩
    else
      let cnt := if left < 64 then left else 64
      let (o, c) := roundOut h decode budget t0 segFirst j0 cnt
      let rest := rounds h decode budget segFirst k (t0 + c) (j0 + cnt) (left - cnt)
      ⟨o.stage ++ rest.stage, o.tables ++ rest.tables, o.errs ++ rest.errs⟩

/-- A decode operation over `segN` segments: `dir s` is the directory entry and `data off len` the segment bytes. -/
def decodeOp (h : PressHdr) (dir : Nat → Nat × Nat × Nat) (data : Nat → Nat → List Byte)
    (segFirst segN budget : Nat) : DecodeOut :=
  let decode (s : Nat) : SegDecode :=
    let (off, nb, chk) := dir s
    decodeSegment h.codeLens (segWeights h s) nb chk (data off (ceilDiv nb 8))
  let o := rounds h decode budget segFirst (ceilDiv segN 64) 14 0 segN
  { o with tables := (firsts (o.tables.map (·.1))).filterMap fun t => o.tables.find? fun x => decide (x.1 = t) }

/-- The segments of a decode operation: position in the named range, the cycle its round starts, counted from the issue, and how it decodes
(R61, R62). -/
def segPlan (decode : Nat → SegDecode) (segFirst : Nat) : Nat → Nat → Nat → Nat → List (Nat × Nat × SegDecode)
  | 0, _, _, _ => []
  | k + 1, t0, j0, left =>
    if left = 0 then []
    else
      let cnt := if left < 64 then left else 64
      let segs := (List.range cnt).map fun i => (j0 + i, t0, decode (segFirst + j0 + i))
      segs ++ segPlan decode segFirst k (t0 + maxNat (segs.map fun x => x.2.2.cyc)) (j0 + cnt) (left - cnt)

/-- The plan of a decode operation over a tensor's bytes. -/
def tensorPlan (h : PressHdr) (bs : List Byte) (segFirst segN : Nat) : List (Nat × Nat × SegDecode) :=
  segPlan (fun s =>
    let e := dirEntry (bs.drop (h.dirOff + 8 * s))
    decodeSegment h.codeLens (segWeights h s) e.2.1 e.2.2 ((bs.drop (h.dataOff + e.1)).take (ceilDiv e.2.1 8)))
    segFirst (ceilDiv segN 64) 14 0 segN

/-- The least element of a list in the order of a key. -/
def leastBy {α : Type} (lt : α → α → Bool) : List α → Option α
  | [] => none
  | a :: l => some (l.foldl (fun m b => if lt b m then b else m) a)

/-- Order by Tick and, within one, by lane (R71); `cycle` is the Tick. -/
def pressBefore (a b : PressErr) : Bool := decide (a.cycle < b.cycle ∨ (a.cycle = b.cycle ∧ a.lane < b.lane))

/-- The error of one operation that a core records first: of the segments a budget cut off, which fall in one cycle, the lowest-numbered
stands for all (R69); the earliest by Tick and then by lane comes first (R71). -/
def firstPressErr (es : List PressErr) : Option PressErr :=
  let late := es.filter fun e => e.status == 0x0534
  leastBy pressBefore ((es.filter fun e => e.status != 0x0534) ++ (leastBy (fun a b => decide (a.seg < b.seg)) late).toList)

end Sys2Proof.Machine
end

