-- ==== Sys2Proof/Machine/Operands.lean ====
section
/-! DEFINITION. Operand forms of the microprogram operation words (04_cores_and_engines.md): the fields of the 32-byte word,
operand layouts, reserved fields, occupancy and latency. -/

namespace Sys2Proof.Machine

/-- `n` bytes at an offset of an operation word (R77). -/
def opF (w : OpWord) (off n : Nat) : Nat := w.toNat / 2 ^ (8 * off) % 2 ^ (8 * n)

/-- Bits [hi:lo] of the byte at an offset. -/
def opB (w : OpWord) (off hi lo : Nat) : Nat := bits (opF w off 1) hi lo

def opCode (w : OpWord) : Nat := opF w 0 1

/-! Tensor engine words (R89, R91, R92). -/

def opEngine (w : OpWord) : Nat := opB w 1 1 0
def mmASrc (w : OpWord) : Nat := opB w 1 5 5
def mmInit (w : OpWord) : Nat := opB w 1 4 3
def opAccBank (w : OpWord) : Nat := opB w 1 2 2
def mmFmtA (w : OpWord) : Nat := opF w 2 1
def mmFmtB (w : OpWord) : Nat := opF w 3 1
def mmTbl (w : OpWord) : Nat := opB w 4 6 4
def opTmLog2 (w : OpWord) : Nat := opB w 4 3 0
def opTnLog2 (w : OpWord) : Nat := opB w 5 3 0
def mmG (w : OpWord) : Nat := opF w 6 2
def mmAAddr (w : OpWord) : Nat := opF w 8 4
def mmBAddr (w : OpWord) : Nat := opF w 0xC 4
def mmAStride (w : OpWord) : Nat := opF w 0x10 4
def mmBStride (w : OpWord) : Nat := opF w 0x14 4
def mmAScale (w : OpWord) : Nat := opF w 0x18 4
def mmBScale (w : OpWord) : Nat := opF w 0x1C 4
def accOrder (w : OpWord) : Nat := opB w 1 6 6
def accCvt (w : OpWord) : Nat := opB w 1 5 3
def accFmt (w : OpWord) : Nat := opF w 2 1
def accAddr (w : OpWord) : Nat := opF w 8 4
def accStride (w : OpWord) : Nat := opF w 0xC 4
def accScale (w : OpWord) : Nat := opF w 0x10 4
def tblReg (w : OpWord) : Nat := opB w 1 4 2
def tblEntryFmt (w : OpWord) : Nat := opF w 2 1
def tblIdxFmt (w : OpWord) : Nat := opF w 3 1
def tblSrc (w : OpWord) : Nat := opF w 8 4

/-! DECODE (R94). -/

def decStageBase (w : OpWord) : Nat := opF w 2 2 % 32768
def decTensor (w : OpWord) : Nat := opF w 4 4
def decSegFirst (w : OpWord) : Nat := opF w 8 4
def decSegN (w : OpWord) : Nat := opF w 0xC 4
def decBudget (w : OpWord) : Nat := opF w 0x10 4
def decBank (w : OpWord) : Nat := opF w 0x14 4

/-! Vector words (R95). -/

def vCvt (w : OpWord) : Nat := opB w 1 7 5
def vN (w : OpWord) : Nat := opB w 1 4 0
def vD (w : OpWord) : Nat := opF w 2 1
def vA (w : OpWord) : Nat := opF w 3 1
def vB (w : OpWord) : Nat := opF w 4 1
def vC (w : OpWord) : Nat := opF w 5 1
def vFmt (w : OpWord) : Nat := opF w 6 1
def vImmB (w : OpWord) : Bool := bit (opF w 7 1) 0
def vAddr (w : OpWord) : Nat := opF w 8 4
def vAddr2 (w : OpWord) : Nat := opF w 0xC 4
def vImm (w : OpWord) : Word := BitVec.ofNat 32 (opF w 0x10 4)
def vImm2 (w : OpWord) : Word := BitVec.ofNat 32 (opF w 0x14 4)

/-! Data mover words (R98). -/

def dmAtom (w : OpWord) : Nat := opB w 1 3 2
def dmPorts (w : OpWord) : Nat := opB w 1 1 0
def dmTarget (w : OpWord) : Nat := opF w 2 2
def dmLength (w : OpWord) : Nat := opF w 4 4
def dmBank (w : OpWord) : Nat := opF w 8 4
def dmDst (w : OpWord) : Nat := opF w 0xC 4
def dmVatAddr (w : OpWord) : Nat := opF w 0x10 8
def dmIndexAddr (w : OpWord) : Nat := opF w 0x18 4
def dmLaneFirst (w : OpWord) : Nat := opF w 0x18 2
def dmLaneCount (w : OpWord) : Nat := opF w 0x1A 2

/-! Vat addresses (R126, R127). -/

def vaSpace (a : Nat) : Nat := bits a 63 60
def vaLpkg (a : Nat) : Nat := bits a 59 46
def vaRegion (a : Nat) : Nat := bits a 45 36
def vaOffset (a : Nat) : Nat := bits a 35 0

/-- The unit number and the address in it of an offset of an interleaved region (R127). -/
def interleave (granLog2 firstUnit unitCount unitBase o : Nat) : Nat × Nat :=
  let g := 2 ^ granLog2
  let j := o / g
  (firstUnit + j % unitCount, unitBase + j / unitCount * g + o % g)

/-! Engine operand layouts (R88, R91). -/

/-- The size of the core bank (R79). -/
def bankSize : Nat := 2 * 2 ^ 20

/-- The element width of a format code in bits, 0 for a reserved code. -/
def codeBits (code : Nat) : Nat := ((fmtKind code).map fmtBits).getD 0

/-- A format code is an MX format. -/
def isMx (code : Nat) : Bool := decide (0x08 ≤ code ∧ code ≤ 0x0D)

/-- A format code is a codebook format. -/
def isCb (code : Nat) : Bool := decide (0x10 ≤ code ∧ code ≤ 0x12)

/-- A format code is FP8. -/
def isFp8 (code : Nat) : Bool := decide (code = 0x04 ∨ code = 0x05)

/-- MACs per cycle of an operand pair (R38); none for a pair no engine accepts. -/
def pairRate (a b : Nat) : Option Nat :=
  let mx8 (x : Nat) := x = 0x08 ∨ x = 0x09
  let mx6 (x : Nat) := x = 0x0A ∨ x = 0x0B
  if isFp8 a ∧ isFp8 b then some 2048
  else if mx8 a ∧ mx8 b then some 2048
  else if mx6 a ∧ (mx6 b ∨ mx8 b) then some 2048
  else if a = 0x0C ∧ mx8 b then some 2048
  else if a = 0x0C ∧ b = 0x0C then some 4096
  else if a = 0x0D ∧ b = 0x0D then some 4096
  else if isCb a ∧ (isFp8 b ∨ mx8 b ∨ b = 0x0D) then some 4096
  else if a = 0x02 ∧ b = 0x02 then some 1024
  else if a = 0x03 ∧ b = 0x03 then some 1024
  else none

/-- Element `i` of a packed group that starts at `base` of the bank (R26, R88). -/
def bankElem (rd : Nat → Nat → List Byte) (width base i : Nat) : Nat :=
  let lo := i * width
  (leNat (rd (base + lo / 8) (width / 8 + 2)) / 2 ^ (lo % 8)) % 2 ^ width

/-- Element (row, k) of an operand in the core bank: group k / 32 at base + g × stride, packed position row × 32 + k mod 32
(R88). -/
def operandElem (rd : Nat → Nat → List Byte) (width base stride row k : Nat) : Nat :=
  bankElem rd width (base + k / 32 * stride) (row * 32 + k % 32)

/-- The stage entry of element (m, k) of an A operand (R88). -/
def stageIndex (base tm m k : Nat) : Nat := (base + (k / 32 * tm + m) * 32 + k % 32) % 32768

/-- The place of tile element (m, n) in the B layout of an ACC_STORE or ACC_LOAD: group and packed position (R91). -/
def bLayout (m n : Nat) : Nat × Nat := (m / 32, n * 32 + m % 32)

/-! Units, occupancy and latency (R77, R90, R94, R96, R99). -/

/-- The unit of an operation (R77): 0 to 3 the tensor engines, 4 the vector unit, 5 the press decoder, 6 the data mover. -/
def opUnit (w : OpWord) : Option Nat :=
  let c := opCode w
  if 0x01 ≤ c ∧ c ≤ 0x04 then some (opEngine w)
  else if c = 0x10 then some 5
  else if 0x18 ≤ c ∧ c ≤ 0x1E then some 6
  else if (0x20 ≤ c ∧ c ≤ 0x26) ∨ (0x30 ≤ c ∧ c ≤ 0x3B) ∨ (0x40 ≤ c ∧ c ≤ 0x48) ∨ (0x50 ≤ c ∧ c ≤ 0x52) ∨
      (0x58 ≤ c ∧ c ≤ 0x5E) then some 4
  else none

/-- Cycles per group of an MM (R90). -/
def mmP (w : OpWord) : Nat :=
  let r := (pairRate (mmFmtA w) (mmFmtB w)).getD 1024
  max 1 (2 ^ opTmLog2 w * 2 ^ opTnLog2 w * 32 / r)

/-- F of R99. -/
def dmF (w : OpWord) : Nat := ceilDiv (dmLength w) (128 * max 1 (dmPorts w))

/-- `esize` of a format (R88): the size of one element in bytes before packing. -/
def esizeOf (code : Nat) : Nat := ceilDiv (codeBits code) 8

/-- The bank bytes of a vector of a memory format (R96). -/
def vecBytes (w : OpWord) : Nat := packedBytes (codeBits (vFmt w)) 128

/-- Occupancy of an operation (R78, R90, R94, R96, R99). -/
def opOcc (w : OpWord) : Nat :=
  let n := vN w
  let tile := 2 ^ opTmLog2 w * 2 ^ opTnLog2 w
  match opCode w with
  | 0x01 => if mmG w = 0 then 1 else mmG w * mmP w
  | 0x02 => ceilDiv (tile * esizeOf (accFmt w)) 256 + b2n (isMx (accFmt w))
  | 0x03 => ceilDiv (tile * 4) 256
  | 0x04 => 1
  | 0x10 => decBudget w
  | 0x18 => max 1 (dmF w)
  | 0x19 => max 1 (dmF w)
  | 0x1A => max 1 (dmF w)
  | 0x1B => max 1 (ceilDiv (dmLength w) 256)
  | 0x1C => max 1 (dmTarget w * dmF w)
  | 0x1D => max 1 (dmLaneCount w * dmF w)
  | 0x1E => max 1 (dmLaneCount w * dmF w)
  | c =>
    if n = 0 then 1
    else if c = 0x20 ∨ c = 0x21 ∨ c = 0x25 then n * ceilDiv (vecBytes w) 256
    else if c = 0x26 then 2 * n
    else if c = 0x33 then 4 * n
    else if 0x40 ≤ c ∧ c ≤ 0x48 then 2 * n
    else if c = 0x58 then 3 * n + 20
    else if c = 0x59 then 5 * n + 30
    else if c = 0x5A then 5 * n + 24
    else if c = 0x5B then 3 * n
    else if c = 0x5C then 4 * n
    else if c = 0x5D then 5 * n
    else if c = 0x5E then 4 * n
    else n

/-- The count or length of an operation is zero, so that it has no effect (R78). -/
def opEmpty (w : OpWord) : Bool :=
  match opCode w with
  | 0x18 => dmLength w == 0
  | 0x19 => dmLength w == 0
  | 0x1A => dmLength w == 0
  | 0x1B => dmLength w == 0
  | 0x1C => dmLength w == 0 || dmTarget w == 0
  | 0x1D => dmLength w == 0 || dmLaneCount w == 0
  | 0x1E => dmLength w == 0 || dmLaneCount w == 0
  | c => if 0x20 ≤ c then vN w == 0 else false

/-- Latency of an operation; a DECODE makes its last stage write no later than the last cycle of its budget. With path latency `p`, usable cycles `u` per Tick and whether the far end is HBM (R90, R94, R96,
R99, R210). -/
def opLat (w : OpWord) (p u : Nat) (hbm : Bool) : Nat :=
  let o := opOcc w
  let get := if hbm then o + 2 * p + 2 * u + 20 else o + 2 * p + 12
  if opEmpty w then 1
  else match opCode w with
  | 0x01 => o + 12
  | 0x02 => o + 6
  | 0x03 => o + 4
  | 0x04 => 3
  | 0x10 => o - 1
  | 0x18 => get
  | 0x19 => o + p + 8
  | 0x1A => o + p + 4
  | 0x1B => o + 4
  | 0x1C => get + 4
  | 0x1D => get
  | 0x1E => o + p + 8
  | c =>
    let n := vN w
    if c = 0x20 ∨ c = 0x21 ∨ c = 0x24 then o + 3
    else if c = 0x22 ∨ c = 0x25 then o + 4
    else if c = 0x23 then o + 6
    else if c = 0x26 then o + 5
    else if c = 0x33 then o + 10
    else if c = 0x34 then n + 4
    else if c < 0x40 then n + 3
    else if c ≤ 0x48 then o + 12
    else if c ≤ 0x52 then n + 10
    else if c ≤ 0x5A then o + 4
    else if c = 0x5B then o + 14
    else if c = 0x5C then o + 18
    else o + 20

/-- The fields a vector opcode uses (R95, R96). -/
structure VecUse where
  cvt : Bool := false
  d   : Bool := false
  a   : Bool := false
  b   : Bool := false
  c   : Bool := false
  fmt : Bool := false
  ad  : Bool := false
  ad2 : Bool := false
  imm : Bool := false
  im2 : Bool := false
  deriving DecidableEq, Repr

/-- The fields of each opcode. VMSK's `register v` is taken as VD + v := VA + v masked, the effect naming no operand field (DESIGN CHOICE,
log entry 104). -/
def vecUse (c : Nat) : VecUse :=
  match c with
  | 0x20 => { d := true, fmt := true, ad := true }
  | 0x21 => { cvt := true, a := true, fmt := true, ad := true }
  | 0x22 => { d := true, fmt := true, ad := true, ad2 := true }
  | 0x23 => { cvt := true, a := true, fmt := true, ad := true, ad2 := true }
  | 0x24 => { d := true, a := true, ad2 := true }
  | 0x25 => { a := true, fmt := true, ad := true }
  | 0x26 => { d := true, a := true, fmt := true, ad := true }
  | 0x34 => { d := true, a := true, b := true, c := true }
  | 0x3A => { d := true, a := true, imm := true }
  | 0x3B => { cvt := true, d := true, a := true, fmt := true }
  | 0x58 => { d := true, a := true, b := true, imm := true, im2 := true }
  | 0x59 => { d := true, a := true, b := true, c := true, imm := true, im2 := true }
  | 0x5B => { d := true, a := true, b := true }
  | 0x5E => { d := true, a := true, b := true }
  | c => if 0x30 ≤ c ∧ c ≤ 0x36 then { d := true, a := true, b := true } else { d := true, a := true }

/-- Every number of a list is zero. -/
def allZ (l : List Nat) : Bool := l.all (· == 0)

/-- Reserved fields of an operation word (R77, R89 to R98): 0x0101 for a reserved field that is not zero, 0x0103 for a
reserved value or opcode, 0 for neither. A mover field that an operation's row gives no use (`DST_ADDR` of GET and PUT, `VAT_ADDR` of SEND
and COPY, `INDEX_ADDR` but for GETX and the lane operations) is taken as reserved, as R95 has it for the vector unit (DESIGN CHOICE, log
entry 104); of a lane-relative `VAT_ADDR` bits [63:36] are zero (R254), and a vat address names one of the three spaces (R126). -/
def opReserved (w : OpWord) : Nat :=
  let rz := 0x0101
  let rv := 0x0103
  match opUnit w with
  | none => rv
  | some _ =>
    let c := opCode w
    let tmBad := opTmLog2 w < 3 ∨ 8 < opTmLog2 w ∨ 7 < opTnLog2 w
    if c = 0x01 then
      if !allZ [opB w 1 7 6, opB w 4 7 7, opB w 5 7 4] then rz
      else if 1 < mmInit w ∨ tmBad ∨ mmG w = 0xFFFF ∨ fmtKind (mmFmtA w) = none ∨ fmtKind (mmFmtB w) = none then rv
      else 0
    else if c = 0x02 ∨ c = 0x03 then
      if !allZ [opB w 1 7 7, opF w 3 1, opB w 4 7 4, opB w 5 7 4, opF w 6 2, opF w 0x14 12] then rz
      else if tmBad ∨ 3 < accCvt w ∨ fmtKind (accFmt w) = none then rv
      else 0
    else if c = 0x04 then
      if !allZ [opB w 1 7 5, opF w 4 4, opF w 0xC 20] then rz
      else if !isCb (tblIdxFmt w) ∨ ¬(tblEntryFmt w = 2 ∨ tblEntryFmt w = 4 ∨ tblEntryFmt w = 5) then rv
      else 0
    else if c = 0x10 then
      if !allZ [opB w 1 7 2, opF w 2 2 / 32768, opF w 0x18 8] then rz
      else if decSegN w = 0xFFFFFFFF then rv
      else 0
    else if c < 0x20 then
      let send := c = 0x1A
      let getx := c = 0x1C
      let lanes := c = 0x1D ∨ c = 0x1E
      let usesVa := c = 0x18 ∨ c = 0x19 ∨ c = 0x1C
      let usesDst := send ∨ c = 0x1B ∨ getx ∨ lanes
      if !allZ [opB w 1 7 4, opF w 0x1C 4 * b2n (!lanes), if lanes then opF w 0x1C 4 else 0,
          if send then 0 else dmAtom w, if send ∨ getx then 0 else dmTarget w, if usesDst then 0 else dmDst w,
          if usesVa then 0 else if lanes then bits (dmVatAddr w) 63 36 else dmVatAddr w, if getx ∨ lanes then 0 else dmIndexAddr w,
          if send then (if bit (dmTarget w) 15 then bits (dmTarget w) 14 12 else bits (dmTarget w) 14 9) else 0] then rz
      else if (usesVa ∧ ¬(1 ≤ vaSpace (dmVatAddr w) ∧ vaSpace (dmVatAddr w) ≤ 3)) ∨ dmPorts w = 0 ∨ dmPorts w = 3 ∨ dmLength w = 0xFFFFFFFF ∨ (getx ∧ dmTarget w = 0xFFFF) ∨
          (lanes ∧ dmLaneCount w = 0xFFFF) then rv
      else 0
    else
      let u := vecUse c
      let z (used : Bool) (x : Nat) := if used then 0 else x
      if !allZ [z u.cvt (vCvt w), z u.d (vD w), z u.a (vA w), z u.b (vB w), z u.c (vC w), z u.fmt (vFmt w),
          z u.ad (vAddr w), z u.ad2 (vAddr2 w), z (u.imm || vImmB w) (opF w 0x10 4), z u.im2 (opF w 0x14 4),
          opB w 7 7 1, z u.b (b2n (vImmB w)), opF w 0x18 8, vD w / 32, vA w / 32, vB w / 32, vC w / 32] then rz
      else if 16 < vN w ∨ 3 < vCvt w ∨ (u.fmt ∧ fmtKind (vFmt w) = none) then rv
      else 0

/-! Operand checks (check 16 of R136). -/

/-- A range of the core bank. -/
def inBank (a n : Nat) : Bool := decide (a + n ≤ bankSize)

/-- Register ranges (R95). -/
def regsOk (first n : Nat) : Bool := decide (first + n ≤ 32)

/-- An output range of `m` registers equals an input range of `n` or does not overlap it (R95). -/
def overlapOk (d m a n : Nat) : Bool := decide ((d = a ∧ m = n) ∨ d + m ≤ a ∨ a + n ≤ d)

/-- A plain write of `n` bytes covers whole 8-byte granules (R83). -/
def granular (a n : Nat) : Bool := decide (a % 8 = 0 ∧ n % 8 = 0)

/-- Check 16 of one operation: operand pairs, layouts, alignments and bounds (R38, R78, R83, R88 to R99, R504, R211). -/
def operandOk (w : OpWord) : Bool :=
  let c := opCode w
  let tm := 2 ^ opTmLog2 w
  let tn := 2 ^ opTnLog2 w
  if c = 0x01 then
    let wa := codeBits (mmFmtA w)
    let wb := codeBits (mmFmtB w)
    let g := mmG w
    (pairRate (mmFmtA w) (mmFmtB w)).isSome && decide (tm * tn ≤ 2048) &&
      (if mmASrc w = 1 then isCb (mmFmtA w) && decide (mmAStride w = 0 ∧ mmTbl w = 0 ∧ mmAAddr w < 32768 ∧ g * tm * 32 ≤ 32768)
       else (isCb (mmFmtA w) || mmTbl w == 0) &&
        decide (mmAAddr w % 64 = 0 ∧ mmAStride w % 64 = 0) &&
        (g == 0 || decide (packedBytes wa (tm * 32) ≤ mmAStride w) && inBank (mmAAddr w) ((g - 1) * mmAStride w + packedBytes wa (tm * 32)))) &&
      decide (mmBAddr w % 64 = 0 ∧ mmBStride w % 64 = 0) &&
      (g == 0 || decide (packedBytes wb (tn * 32) ≤ mmBStride w) && inBank (mmBAddr w) ((g - 1) * mmBStride w + packedBytes wb (tn * 32))) &&
      (if isMx (mmFmtA w) then inBank (mmAScale w) (tm * g) else mmAScale w == 0) &&
      (if isMx (mmFmtB w) then inBank (mmBScale w) (tn * g) else mmBScale w == 0)
  else if c = 0x02 ∨ c = 0x03 then
    let f := accFmt w
    let width := codeBits f
    let mx := isMx f
    decide (tm * tn ≤ 2048 ∧ accAddr w % 64 = 0) &&
      (if c = 0x03 then f == 1 && accCvt w == 0 else decide (1 ≤ f ∧ f ≤ 0x0D)) &&
      (if mx then
        accOrder w == 0 && decide (32 ≤ tm) && inBank (accScale w) (tn * (tm / 32)) && granular (accScale w) (tn * (tm / 32))
       else accScale w == 0) &&
      (if accOrder w = 0 then
        (decide (c = 0x03 ∨ tm ≤ 32) || granular (accStride w) 0) &&
          inBank (accAddr w) ((ceilDiv tm 32 - 1) * accStride w + packedBytes width ((tn - 1) * 32 + min tm 32))
       else (decide (c = 0x03 ∨ tn = 1) || granular (accStride w) 0) && inBank (accAddr w) ((tn - 1) * accStride w + tm * (width / 8)))
  else if c = 0x04 then
    decide (tblSrc w % 16 = 0) && inBank (tblSrc w) (idxEntries (tblIdxFmt w) * (if tblEntryFmt w = 2 then 2 else 1))
  else if c = 0x10 then inBank (decBank w) 1 && decide (decSegN w * 256 ≤ 32768)
  else if c < 0x20 then
    let len := dmLength w
    let cnt := if c = 0x1C then dmTarget w else if c = 0x1D ∨ c = 0x1E then dmLaneCount w else 1
    let usesVa := c = 0x18 ∨ c = 0x19 ∨ c = 0x1C
    decide (len % 64 = 0 ∧ dmBank w % 64 = 0) && inBank (dmBank w) (cnt * len) &&
      (if c = 0x1A ∨ c = 0x1B then decide (dmDst w % 64 = 0) && inBank (dmDst w) len else true) &&
      (if c = 0x1C then inBank (dmIndexAddr w) (4 * dmTarget w) && decide (dmIndexAddr w % 64 = 0) else true) &&
      (if usesVa ∧ vaSpace (dmVatAddr w) = 2 then decide (dmVatAddr w % 128 = 0 ∧ len % 128 = 0) else true) &&
      (if c = 0x19 then granular (dmVatAddr w) 0 else true)
  else
    let u := vecUse c
    let n := vN w
    let dn := if 0x50 ≤ c ∧ c ≤ 0x52 then (if n = 0 then 0 else 1) else n
    let f := vFmt w
    (!u.d || regsOk (vD w) dn) && (!u.a || regsOk (vA w) n) &&
      (!(u.b && !vImmB w) || regsOk (vB w) n) && (!u.c || regsOk (vC w) n) &&
      (!(u.d && u.a) || overlapOk (vD w) dn (vA w) n) &&
      (!(u.d && u.b && !vImmB w) || overlapOk (vD w) dn (vB w) n) && (!(u.d && u.c) || overlapOk (vD w) dn (vC w) n) &&
      (if c = 0x20 ∨ c = 0x21 then
        (c = 0x20 || granular (vAddr w) 0) && inBank (vAddr w) (n * vecBytes w) && !isMx f && !isCb f
       else if c = 0x22 ∨ c = 0x23 then
        isMx f && inBank (vAddr w) (n * vecBytes w) && inBank (vAddr2 w) (4 * n) &&
          (c = 0x22 || (granular (vAddr w) 0 && granular (vAddr2 w) (4 * n)))
       else if c = 0x24 then inBank (vAddr2 w) (16 * n)
       else if c = 0x25 then
        (f == 0x20 || f == 1 || f == 2) && decide (vAddr w % (codeBits f / 8) = 0) && inBank (vAddr w) (n * vecBytes w)
       else if c = 0x26 then (f == 0x20 || f == 1) && decide (vAddr w % 4 = 0) && inBank (vAddr w) (n * vecBytes w)
       else if c = 0x3A then decide (opF w 0x10 4 < 128)
       else if c = 0x3B then !isMx f && !isCb f
       else true)

end Sys2Proof.Machine
end

