-- ==== Sys2Proof/Machine/Mould.lean ====
section
/-! DEFINITION. The Mould (05_mould.md): the container, its sections, what a package reads of it and the load-time checks of
R136. -/

namespace Sys2Proof.Machine

/-- One section of a Mould: type, instance and its bytes. -/
structure Section where
  typ   : Nat
  inst  : Nat
  bytes : List Byte
  deriving DecidableEq, Repr

/-- A Mould as a package records it: its measurement, the digest of its signer, model, kind, base chain and the sections it read. -/
structure Mould where
  measure   : List Byte
  signer    : List Byte
  modelId   : List Byte
  delta     : Bool
  baseChain : List Byte
  sections  : List Section
  deriving DecidableEq, Repr

/-- No Mould. -/
def Mould.empty : Mould := ⟨[], [], [], false, [], []⟩

def secVat : Nat := 0x0001
def secTiming : Nat := 0x0002
def secStepTable : Nat := 0x0003
def secMicro : Nat := 0x0004
def secRouter : Nat := 0x0005
def secLink : Nat := 0x0006
def secRegions : Nat := 0x0007
def secTensors : Nat := 0x0008
def secReductions : Nat := 0x0009
def secMulticast : Nat := 0x000A
def secLaneRefs : Nat := 0x000B
def secDeltaMap : Nat := 0x000D
def secSignature : Nat := 0x00F0

/-- The section types of R107. -/
def secTypes : List Nat :=
  [secVat, secTiming, secStepTable, secMicro, secRouter, secLink, secRegions, secTensors, secReductions, secMulticast,
   secLaneRefs, secDeltaMap, secSignature]

/-- The logical package of a per-package `INSTANCE` (R107). -/
def instLpkg (i : Nat) : Nat := i / 2 ^ 18

/-- A type is kept per package. -/
def perPackage (t : Nat) : Bool :=
  [secMicro, secRouter, secLink, secRegions, secTensors, secMulticast].contains t

/-- The bytes of a section, empty where the Mould has none. -/
def secBytes (m : Mould) (t i : Nat) : List Byte :=
  ((m.sections.find? fun s => decide (s.typ = t ∧ s.inst = i)).map (·.bytes)).getD []

/-- `ENTRY_COUNT` of a section (R106). -/
def secCount (bs : List Byte) : Nat := field bs 4 4

/-! The container (R104, R105). -/

/-- A directory entry (R105). -/
structure DirEnt where
  typ    : Nat
  rsv02  : Nat
  inst   : Nat
  off    : Nat
  len    : Nat
  rsv18  : Nat
  digest : List Byte
  deriving DecidableEq, Repr

def dirEntOf (bs : List Byte) : DirEnt :=
  ⟨field bs 0 2, field bs 2 2, field bs 4 4, field bs 8 8, field bs 0x10 8, field bs 0x18 8, (bs.drop 0x20).take 32⟩

/-- The directory of a container. -/
def mouldDir (bs : List Byte) : List DirEnt :=
  let off := field bs 0x14 4
  (List.range (field bs 0x10 4)).map fun i => dirEntOf (bs.drop (off + 64 * i))

/-- The measurement (R108). -/
def mouldMeasure (bs : List Byte) : List Byte :=
  let n := field bs 0x10 4
  shake256 (bs.take 128 ++ (bs.drop (field bs 0x14 4)).take (64 * n)) 32

/-- The bytes of a section in its container. -/
def entBytes (bs : List Byte) (e : DirEnt) : List Byte := (bs.drop e.off).take e.len

/-! Section contents. -/

/-- A package entry of the VAT section (R111). -/
structure PkgEntry where
  dieMask  : Nat
  clusters : Nat
  slices   : Nat
  ports    : Nat
  stackSet : Nat
  cave     : Nat
  dx       : Int
  dy       : Int
  dz       : Int
  deriving DecidableEq, Repr

/-- A signed 16-bit field. -/
def s16 (v : Nat) : Int := if v < 2 ^ 15 then v else (v : Int) - 2 ^ 16

def pkgEntryOf (bs : List Byte) : PkgEntry :=
  ⟨field bs 0 1 % 16, field bs 1 1, field bs 2 1, field bs 3 1, field bs 4 2, field bs 8 8,
   s16 (field bs 0x10 2), s16 (field bs 0x12 2), s16 (field bs 0x14 2)⟩

/-- `VAT_PACKAGES`, `HEAD_LPKG`, `VOCAB` and `MOVE_COUNT` (R111). -/
def mVatPackages (m : Mould) : Nat := field (secBytes m secVat 0) 0x10 2
def mHeadLpkg (m : Mould) : Nat := field (secBytes m secVat 0) 0x12 2
def mVocab (m : Mould) : Nat := field (secBytes m secVat 0) 0x14 4
def mMoveCount (m : Mould) : Nat := field (secBytes m secVat 0) 0x18 2

/-- Package entry `l` (R111). -/
def mPkg (m : Mould) (l : Nat) : PkgEntry := pkgEntryOf ((secBytes m secVat 0).drop (0x20 + 32 * l))

/-- Move entry of `MOVE` number `k` from 1: the moving package and the spare's offsets (R111). -/
def mMove (m : Mould) (k : Nat) : Nat × Int × Int × Int :=
  let b := (secBytes m secVat 0).drop (0x20 + 32 * mVatPackages m + 8 * (k - 1))
  (field b 0 2, s16 (field b 2 2), s16 (field b 4 2), s16 (field b 6 2))

/-- The dies of a mask in ascending order. -/
def maskBits (mask n : Nat) : List Nat := (List.range n).filter fun i => bit mask i

/-- The number of logical cores of a package entry (R112). -/
def pkgCores (p : PkgEntry) : Nat := (maskBits p.dieMask 4).length * p.clusters * 16

/-- The number of logical slices of a package entry. -/
def pkgSlices (p : PkgEntry) : Nat := (maskBits p.dieMask 4).length * p.slices

/-- Logical die, cluster and position of a logical core (R112). -/
def corePlace (p : PkgEntry) (c : Nat) : Nat × Nat × Nat :=
  (nth 0 (maskBits p.dieMask 4) (c / (16 * max 1 p.clusters)), c / 16 % max 1 p.clusters, c % 16)

/-- The logical die of a logical slice (R112). -/
def sliceDie (p : PkgEntry) (s : Nat) : Nat := nth 0 (maskBits p.dieMask 4) (s / max 1 p.slices)

/-- Refresh timing (R113). -/
def mRefreshPeriod (m : Mould) : Nat := field (secBytes m secTiming 0) 0x10 2
def mRefreshLen (m : Mould) : Nat := field (secBytes m secTiming 0) 0x12 2
def mRefreshPhase (m : Mould) : Nat := field (secBytes m secTiming 0) 0x14 2

/-- The gear variants: gear and slack (R113). -/
def mVariants (m : Mould) : List (Nat × Nat) :=
  let b := secBytes m secTiming 0
  (List.range (secCount b)).map fun v => (field b (0x20 + 8 * v) 1, field b (0x21 + 8 * v) 1)

/-- The variant index of a gear, if the Mould has one (R114). -/
def mVariantOf (m : Mould) (gear : Nat) : Option Nat := indexWhere (fun p => decide (p.1 = gear)) (mVariants m)

/-- The slack of a gear, 0 where there is no variant. -/
def mSlack (m : Mould) (gear : Nat) : Nat := ((mVariants m).find? fun p => decide (p.1 = gear)).elim 0 (·.2)

/-- A step table entry (R116). -/
structure StepEnt where
  kind    : Nat
  variant : Nat
  lanes   : Nat
  length  : Nat
  freeze  : Nat
  tokens  : Nat
  deriving DecidableEq, Repr

def stepEntOf (bs : List Byte) : StepEnt :=
  ⟨field bs 0 1, field bs 1 1, field bs 2 2, field bs 4 2, field bs 6 2, field bs 8 2⟩

def mSteps (m : Mould) : List StepEnt :=
  let b := secBytes m secStepTable 0
  (List.range (secCount b)).map fun i => stepEntOf (b.drop (0x10 + 16 * i))

/-- A step table entry that no step has. -/
def StepEnt.none : StepEnt := ⟨0, 0, 0, 0, 0, 0⟩

def mStep (m : Mould) (id : Nat) : StepEnt := nth StepEnt.none (mSteps m) id

/-- A region (R125). -/
structure Region where
  kind  : Nat
  use   : Nat
  gran  : Nat
  first : Nat
  count : Nat
  base  : Nat
  bytes : Nat
  deriving DecidableEq, Repr

def regionOf (bs : List Byte) : Region :=
  ⟨field bs 0 1, field bs 1 1, field bs 2 1, field bs 4 2, field bs 6 2, field bs 8 8, field bs 0x10 8⟩

def mRegions (m : Mould) (l : Nat) : List Region :=
  let b := secBytes m secRegions (l * 2 ^ 18)
  (List.range (secCount b)).map fun i => regionOf (b.drop (0x10 + 32 * i))

/-- The tensors of a package: vat address and length (R128). -/
def mTensors (m : Mould) (l : Nat) : List (Nat × Nat) :=
  let b := secBytes m secTensors (l * 2 ^ 18)
  (List.range (secCount b)).map fun i => (field b (0x10 + 16 * i) 8, field b (0x18 + 16 * i) 4)

/-- The member cores of a multicast group (R130). -/
def mMulticast (m : Mould) (l g : Nat) : List Nat :=
  let b := secBytes m secMulticast (l * 2 ^ 18)
  if g < secCount b then maskBits (field b (0x10 + 64 * g) 64) 512 else []

/-- A lane reference (R131): kind, part, layer, KV head. -/
def mLaneRef (m : Mould) (i : Nat) : Nat × Nat × Nat × Nat :=
  let b := (secBytes m secLaneRefs 0).drop (0x10 + 16 * i)
  (field b 0 1, field b 1 1, field b 2 2, field b 4 2)

def mLaneRefCount (m : Mould) : Nat := secCount (secBytes m secLaneRefs 0)

/-- Program index entry `k` of a section: `STEP`, `REC_OFFSET`, `REC_COUNT` (R118). -/
def progIndex (bs : List Byte) (k : Nat) : Nat × Nat × Nat :=
  let b := bs.drop (0x10 + 16 * k)
  (field b 0 1, field b 4 4, field b 8 4)

/-- A microprogram block with its op entries (R119). -/
structure Block where
  start  : Nat
  period : Nat
  count  : Nat
  rsv    : Nat
  ops    : List (List Byte)
  deriving DecidableEq, Repr

/-- Read `n` blocks one after another. -/
def readBlocks : Nat → List Byte → List Block
  | 0, _ => []
  | n + 1, bs =>
    let k := field bs 0xA 2
    ⟨field bs 0 4, field bs 4 4, field bs 8 2, field bs 0xC 4, (List.range k).map fun i => (bs.drop (16 + 48 * i)).take 48⟩
      :: readBlocks n (bs.drop (16 + 48 * k))

/-- The bytes `n` blocks take. -/
def blocksLen : Nat → List Byte → Nat
  | 0, _ => 0
  | n + 1, bs => let k := 16 + 48 * field bs 0xA 2; k + blocksLen n (bs.drop k)

/-- The blocks of a step of a microprogram section. -/
def stepBlocks (bs : List Byte) (step : Nat) : List Block :=
  let (_, off, n) := progIndex bs step
  readBlocks n (bs.drop off)

/-- The operation word of an op entry in iteration `i` (R119, R120): none where the sum leaves its field. -/
def issueWord (op : List Byte) (i : Nat) : Option OpWord :=
  let at' := field op 4 1
  let word := (op.drop 0x10).take 32
  if at' = 0xFF then some (BitVec.ofNat 256 (leNat word))
  else
    let v := field word at' 4 + i * field op 8 4
    if v < 2 ^ 32 then some (BitVec.ofNat 256 (leNat (word.take at' ++ leBytes 4 v ++ word.drop (at' + 4)))) else none

/-- One issue of a microprogram (R120): the op entry, counted across the blocks of its step, the iteration, the usable cycle, and the word
(none where the sum leaves its field). -/
structure Issue where
  entry : Nat
  iter  : Nat
  cycle : Nat
  word  : Option OpWord
  deriving DecidableEq, Repr

/-- Every issue of a step of a microprogram section (R119, R120). -/
def progIssues (bs : List Byte) (step : Nat) : List Issue :=
  ((stepBlocks bs step).flatMap fun b => b.ops.map fun op => (b, op)).zipIdx.flatMap fun x =>
    (List.range x.1.1.count).map fun i => ⟨x.2, i, x.1.1.start + i * x.1.1.period + field x.1.2 0 4, issueWord x.1.2 i⟩

/-- Every issue of a step of a core. -/
def coreIssues (m : Mould) (l c step : Nat) : List Issue := progIssues (secBytes m secMicro (l * 2 ^ 18 + c)) step

/-- Usable cycles per Tick of a step (R114). -/
def stepU (m : Mould) (step : Nat) : Nat :=
  let v := nth (0, 0) (mVariants m) (mStep m step).variant
  v.1 - v.2

/-- The routing or link entries of a step: `n` 16-byte records. -/
def recEntries (bs : List Byte) (step : Nat) : List (List Byte) :=
  let (_, off, n) := progIndex bs step
  (List.range n).map fun i => (bs.drop (off + 16 * i)).take 16

/-- A router table entry (R122). -/
structure RouteEnt where
  start  : Nat
  period : Nat
  count  : Nat
  inPort : Nat
  outs   : Nat
  deriving DecidableEq, Repr

def routeEntOf (b : List Byte) : RouteEnt := ⟨field b 0 4, field b 4 4, field b 8 2, field b 0xA 1, field b 0xB 1⟩

/-- The `SPARE_POS` of a router table section (R107). -/
def secSpare (i : Nat) : Nat := bits i 15 11

/-- Set bits of a port mask. -/
def portBits (n : Nat) : List Nat := (List.range 8).filter fun k => bit n k

/-- A link table entry (R124). -/
structure LinkEnt where
  start  : Nat
  period : Nat
  count  : Nat
  first  : Nat
  slots  : Nat
  dir    : Nat
  rsv    : Nat
  flow   : Nat
  deriving DecidableEq, Repr

def linkEntOf (b : List Byte) : LinkEnt :=
  ⟨field b 0 2, field b 2 2, field b 4 2, field b 6 2, field b 8 2, field b 0xA 1, field b 0xB 1, field b 0xC 4⟩

/-- The link table of a port in a step: `alt` 0 for the primary, a move number for its alternate (R107, R124). -/
def mLinkTable (m : Mould) (l port step : Nat) : List LinkEnt :=
  let b := secBytes m secLink (l * 2 ^ 18 + port)
  if b.isEmpty then [] else (recEntries b step).map linkEntOf

/-- The entry that claims a slot of a port, direction and Tick offset (R124). -/
def linkClaim (es : List LinkEnt) (dir off slot : Nat) : Option LinkEnt :=
  es.find? fun e => decide (e.dir = dir ∧ e.first ≤ slot ∧ slot < e.first + e.slots) &&
    (List.range e.count).any fun i => decide (e.start + i * e.period = off)

/-- The body length of a section in bytes. -/
def bodyLen (s : Section) : Nat := s.bytes.length - 16

/-- `ALT_KIND` of a router or link table (R107). -/
def altKind (i : Nat) : Nat := bits i 17 16

/-- The alternate sections a package stores (R133). -/
def altSections (m : Mould) (l : Nat) : List Section :=
  m.sections.filter fun s =>
    decide ((s.typ = secRouter ∨ s.typ = secLink) ∧ instLpkg s.inst = l ∧ altKind s.inst ≠ 0)

/-- The frames of a package's alternate store (R133). -/
def altFrames (m : Mould) (l : Nat) : Nat :=
  ceilDiv (((altSections m l).map fun s => 64 * ceilDiv (bodyLen s) 64).sum + 256 * 1024 * pkgCores (mPkg m l)) (32 * 2 ^ 20)

/-! Neighbours and what a package reads (R103, R124, R166, R270). -/

/-- The direction of a port (R166): X+, Y+, Z+ on ports 0 to 2, X−, Y−, Z− on ports 4 to 6, none on the Aux ports. -/
def portDir (port : Nat) : Option (Int × Int × Int) :=
  match port with
  | 0 => some (1, 0, 0)
  | 1 => some (0, 1, 0)
  | 2 => some (0, 0, 1)
  | 4 => some (-1, 0, 0)
  | 5 => some (0, -1, 0)
  | 6 => some (0, 0, -1)
  | _ => none

/-- The port that faces a port (R166). -/
def facingPort (port : Nat) : Nat := (port + 4) % 8

/-- The torus sizes in X, Y and Z (R196). -/
abbrev Torus := Nat × Nat × Nat

/-- Offsets that name one coordinate of a ring of `n` (R270). -/
def sameRing (n : Nat) (a b : Int) : Bool := decide ((a - b) % (n : Int) = 0)

/-- The neighbour of package `l` at a port, by the packages' offsets modulo the torus sizes (R124, R270). -/
def neighbourAt (tor : Torus) (m : Mould) (l port : Nat) : Option Nat :=
  let p := mPkg m l
  match portDir port with
  | none => none
  | some d => (List.range (mVatPackages m)).find? fun k =>
    let q := mPkg m k
    sameRing tor.1 q.dx (p.dx + d.1) && sameRing tor.2.1 q.dy (p.dy + d.2.1) && sameRing tor.2.2 q.dz (p.dz + d.2.2)

/-- The logical packages that face package `l`. -/
def neighbours (tor : Torus) (m : Mould) (l : Nat) : List Nat := firsts ((List.range 8).filterMap (neighbourAt tor m l))

/-- The shortest way round a ring of `n`. -/
def ringDist (n : Nat) (a b : Int) : Nat :=
  let d := ((b - a) % (max n 1 : Nat)).toNat
  min d (max n 1 - d)

/-- Link hops between two packages (R176). -/
def hops (tor : Torus) (m : Mould) (l k : Nat) : Nat :=
  let p := mPkg m l
  let q := mPkg m k
  ringDist tor.1 p.dx q.dx + ringDist tor.2.1 p.dy q.dy + ringDist tor.2.2 p.dz q.dz

/-- A package reads a section: a global one, its own, or the link table of a neighbour (R103). -/
def readsSection (l : Nat) (nbs : List Nat) (e : DirEnt) : Bool :=
  !perPackage e.typ || decide (instLpkg e.inst = l) || (decide (e.typ = secLink) && nbs.contains (instLpkg e.inst))

/-- The signer's public key (R109). -/
def mouldSigner (bs : List Byte) : List Byte :=
  match (mouldDir bs).getLast? with
  | some e => ((bs.drop e.off).drop 0x10).take 64
  | none => []

/-- The Mould a container spells with the sections for which a test holds. -/
def mouldOf (bs : List Byte) (reads : DirEnt → Bool) : Mould where
  measure := mouldMeasure bs
  signer := shake256 (mouldSigner bs) 32
  modelId := (bs.drop 0x20).take 16
  delta := field bs 0x18 1 == 1
  baseChain := (bs.drop 0x30).take 32
  sections := (mouldDir bs).filterMap fun e => if reads e then some ⟨e.typ, e.inst, entBytes bs e⟩ else none

/-- The effective Mould of a delta over a base (R134). -/
def effective (base : Mould) (d : Mould) : Mould :=
  let map := secBytes d secDeltaMap 0
  let removed := (List.range (secCount map)).map fun i => (field map (0x10 + 8 * i) 2, field map (0x14 + 8 * i) 4)
  let news := d.sections.filter fun s => s.typ ≠ secDeltaMap && s.typ ≠ secSignature
  let kept := base.sections.filter fun s =>
    !removed.contains (s.typ, s.inst) && !(news.any fun t => decide (t.typ = s.typ ∧ t.inst = s.inst))
  { base with measure := d.measure, sections := kept ++ news }

/-- A section is present. -/
def hasSec (m : Mould) (t i : Nat) : Bool := m.sections.any fun s => decide (s.typ = t ∧ s.inst = i)

/-- The packages whose link tables package `l` reads besides its own: its neighbours by the VAT section in force, of the container or, for a
delta without one, of the base (R103). -/
def mouldNeighbours (tor : Torus) (bs : List Byte) (base : Option Mould) (l : Nat) : List Nat :=
  let own := mouldOf bs fun e => decide (e.typ = secVat)
  neighbours tor (if own.sections.isEmpty then base.getD own else own) l

/-- The Mould a container spells for package `l`: the sections it reads. -/
def readMould (tor : Torus) (bs : List Byte) (base : Option Mould) (l : Nat) : Mould :=
  mouldOf bs (readsSection l (mouldNeighbours tor bs base l))

/-- The effective Mould of what a container spells: itself, or the base with the delta applied (R134). -/
def inForce (base : Option Mould) (m : Mould) : Mould :=
  match base with
  | some b => if m.delta then effective b m else m
  | none => m

/-- The link tables of a Mould after a move (R132): its package-move alternates take the places of the primaries. -/
def moveLinks (m : Mould) (k : Nat) : Mould :=
  let alt := m.sections.filter fun x => decide (x.typ = secLink ∧ altKind x.inst = 1 ∧ bits x.inst 15 4 = k)
  { m with sections := m.sections.map fun x =>
      if x.typ = secLink ∧ altKind x.inst = 0 then
        match alt.find? fun a => decide (a.inst = x.inst + 2 ^ 16 + 16 * k) with
        | some a => { x with bytes := a.bytes }
        | none => x
      else x }

/-- The Mould as a package entry is reserved under it: the entry of move `k` has the tables of that move, the package's own those in force. -/
def mouldFor (m : Mould) (k : Nat) : Mould := if k = 0 then m else moveLinks m k

end Sys2Proof.Machine
end

