-- ==== Sys2Proof/Machine/Sampler.lean ====
section
/-! DEFINITION. The sampler and speculation (09_sessions_and_generation.md R254 to R264): candidate sets, the random stream,
the draw, draft trees, verification, and the lane input space. -/

namespace Sys2Proof.Machine

/-- Sampling parameters of a session (R235). -/
structure SampParams where
  seed  : Nat
  temp  : Word
  topP  : Word
  minP  : Word
  topK  : Nat
  rule  : Nat
  deriving DecidableEq, Repr

/-- One node of a draft tree: token, parent, q (R260). -/
structure TreeNode where
  token  : Nat
  parent : Nat
  q      : Word
  deriving DecidableEq, Repr

/-- u of a draw: the top 24 of the first 32 bits of SHAKE256 over the 24-byte message, times 2^−24 (R257). -/
def drawU (seed posBase purpose node : Nat) : Word :=
  let msg : List Byte := [0x4B, 0x4D, 0x56, 0x53, 0x41, 0x4D, 0x50, 0x4C]
  let r := leNat (shake256 (msg ++ leBytes 8 seed ++ leBytes 4 posBase ++ leBytes 1 purpose ++ leBytes 1 node ++ zeros 2) 4)
  toFp32 (.fin false (r / 256) (-24))

/-- A candidate set (R256): the first `VOCAB` entries at most, 1,024 at most, as (token, logit). -/
def candSet (bs : List Byte) (vocab : Nat) : List (Nat × Word) :=
  (List.range (if vocab < 1024 then vocab else 1024)).map fun i => (field bs (8 * i) 4, BitVec.ofNat 32 (field bs (8 * i + 4) 4))

/-- `a` comes before `b`: greater z, ties by the lower token; the two zeros tie (R258). -/
def candBefore (a b : Nat × Word) : Bool :=
  let num (w : Word) : FpVal := if fpIsZero (fp32 w) then .fin false 0 0 else fp32 w
  fpLt (num b.2) (num a.2) || (!fpLt (num a.2) (num b.2) && decide (a.1 < b.1))

/-- Insert a candidate in order. -/
def candInsert (x : Nat × Word) : List (Nat × Word) → List (Nat × Word)
  | [] => [x]
  | y :: l => if candBefore x y then x :: y :: l else y :: candInsert x l

/-- Biased candidates in order, NaN values removed (R258, R259). -/
def candOrder (cands : List (Nat × Word)) (bias : List (Nat × Word)) : List (Nat × Word) :=
  let z := cands.map fun (t, l) => (t, fAdd l (((bias.find? fun b => decide (b.1 = t)).map (·.2)).getD 0))
  (z.filter fun c => !fpIsNaN (fp32 c.2)).foldr candInsert []

/-- The prefix a draw chooses from, with weights, or no candidate (R258, R259). -/
inductive Prefix
  | none
  | greedy (token : Nat)
  | weighted (l : List (Nat × Word))
  deriving DecidableEq, Repr

/-- Sequential sums of weights (R258). -/
def runSums (acc : Word) : List Word → List Word
  | [] => []
  | w :: ws => let s := fAdd acc w; s :: runSums s ws

/-- The sums s[i], with s[0] = w[0]. -/
def sums : List Word → List Word
  | [] => []
  | w :: ws => w :: runSums w ws

/-- `a` is below `b` as FP32 values. -/
def wLt (a b : Word) : Bool := fpLt (fp32 a) (fp32 b)

/-- The filters of R258 over ordered candidates; infinities as R259. -/
def candPrefix (p : SampParams) (z : List (Nat × Word)) : Prefix :=
  match z with
  | [] => .none
  | (t0, z0) :: _ =>
    if z0 = 0xFF800000#32 then .none
    else if fpIsZero (fp32 p.temp) then .greedy t0
    else
      let top := z.take (if p.topK = 0 then 1024 else p.topK)
      if z0 = fp32Inf then .weighted ((top.filter fun c => c.2 = fp32Inf).map fun c => (c.1, fp32One))
      else
        let r := fRcp p.temp
        let w := top.map fun c => (c.1, fExp (fMul (fSub c.2 z0) r))
        let w := w.take ((indexWhere (fun c => wLt c.2 p.minP) w).getD w.length)
        let s := sums (w.map (·.2))
        let lim := fMul p.topP (s.getLast?.getD 0)
        .weighted (w.take (((indexWhere (fun x => !wLt x lim) s).map (· + 1)).getD w.length))

/-- The token of weights for u (R258): the first whose sum exceeds u × total, the last where none does. -/
def drawFrom (l : List (Nat × Word)) (u : Word) : Nat :=
  let s := sums (l.map (·.2))
  let t := fMul u (s.getLast?.getD 0)
  match indexWhere (fun x => wLt t x) s with
  | some j => (nth (0, 0) l j).1
  | none => (l.getLast?.map (·.1)).getD 0

/-- A token draw; none where no candidate can be drawn (R258, R259). -/
def drawToken (p : SampParams) (posBase purpose node : Nat) (cands : List (Nat × Word)) (bias : List (Nat × Word)) : Option Nat :=
  match candPrefix p (candOrder cands bias) with
  | .none => none
  | .greedy t => some t
  | .weighted l => some (drawFrom l (drawU p.seed posBase purpose node))

/-! Draft trees (R260 to R263). -/

/-- The depth of a node, following parents at most `fuel` times. -/
def nodeDepth (tree : List TreeNode) : Nat → Nat → Nat
  | 0, _ => 0
  | k + 1, n => if n = 0 then 0 else 1 + nodeDepth tree k (nth ⟨0, 0, 0⟩ tree n).parent

/-- `a` is node `q` or an ancestor of it. -/
def isAncestor (tree : List TreeNode) (a : Nat) : Nat → Nat → Bool
  | 0, q => q == a
  | k + 1, q => q == a || (q != 0 && isAncestor tree a k (nth ⟨0, 0, 0⟩ tree q).parent)

/-- The entries of a tree in memory (R260). -/
def treeOf (bs : List Byte) (n : Nat) : List TreeNode :=
  (List.range n).map fun i => ⟨field bs (8 * i) 3, field bs (8 * i + 3) 1, BitVec.ofNat 32 (field bs (8 * i + 4) 4)⟩

/-- The conditions of R260. -/
def treeOk (tree : List TreeNode) (vocab : Nat) (stochastic : Bool) : Bool :=
  tree.zipIdx.all fun (t, n) =>
    n == 0 || (decide (t.parent < n) && decide (nodeDepth tree 64 n ≤ 16) && decide (t.token < vocab) &&
      (!stochastic || (!fpIsNaN (fp32 t.q) && fpLt (.fin false 0 0) (fp32 t.q) && !fpLt (.fin false 1 0) (fp32 t.q))))

/-- The chain a DRAFT record stages: tokens and q as R260 lays them out; it ends before the first token at or above `VOCAB` (R261). -/
def draftChain (bs : List Byte) (tokens vocab pending : Nat) : List TreeNode :=
  let es := (List.range tokens).map fun i => (field bs (8 * i) 3, BitVec.ofNat 32 (field bs (8 * i + 4) 4))
  let good := es.take ((indexWhere (fun e => decide (vocab ≤ e.1)) es).getD es.length)
  ⟨pending, 0, 0⟩ :: good.zipIdx.map fun (e, i) => ⟨e.1, i, e.2⟩

/-- Children of a node in node order. -/
def childrenOf (tree : List TreeNode) (v : Nat) : List Nat :=
  (List.range tree.length).filter fun n => n != 0 && decide ((nth ⟨0, 0, 0⟩ tree n).parent = v)

/-- What verification ends with: the accepted path of nodes and the final token, or no candidate. -/
structure Verified where
  path  : List Nat
  final : Option Nat
  deriving DecidableEq, Repr

/-- The greedy rule from node `v` (R262). `setOf v` is v's candidate set. -/
def verifyGreedy (tree : List TreeNode) (setOf : Nat → List (Nat × Word)) (bias : List (Nat × Word)) :
    Nat → Nat → List Nat → Verified
  | 0, _, path => ⟨path, none⟩
  | k + 1, v, path =>
    match candOrder (setOf v) bias with
    | [] => ⟨path, none⟩
    | (t, z0) :: _ =>
      if z0 = 0xFF800000#32 then ⟨path, none⟩
      else match (childrenOf tree v).find? fun c => decide ((nth ⟨0, 0, 0⟩ tree c).token = t) with
        | some c => verifyGreedy tree setOf bias k c (path ++ [c])
        | none => ⟨path, some t⟩

/-- Set the weight of a token in a prefix. -/
def setWeight (l : List (Nat × Word)) (t : Nat) (w : Word) : List (Nat × Word) :=
  l.map fun c => if c.1 = t then (t, w) else c

/-- Try children in order under the stochastic rule (R263): the accepted child, or the weights left. -/
def tryChildren (seed posBase : Nat) (tree : List TreeNode) : List Nat → List (Nat × Word) → Option Nat × List (Nat × Word)
  | [], l => (none, l)
  | c :: cs, l =>
    let nd := nth ⟨0, 0, 0⟩ tree c
    let total := (sums (l.map (·.2))).getLast?.getD 0
    let x := ((l.find? fun e => decide (e.1 = nd.token)).map (·.2)).getD 0
    let u := drawU seed posBase 1 c
    if wLt (fMul (fMul u nd.q) total) x then (some c, l)
    else tryChildren seed posBase tree cs (setWeight l nd.token (fMax 0 (fSub x (fMul nd.q total))))

/-- The stochastic rule from node `v` (R263). -/
def verifyStochastic (p : SampParams) (posBase : Nat) (tree : List TreeNode) (setOf : Nat → List (Nat × Word))
    (bias : List (Nat × Word)) : Nat → Nat → List Nat → Verified
  | 0, _, path => ⟨path, none⟩
  | k + 1, v, path =>
    match candPrefix p (candOrder (setOf v) bias) with
    | .none => ⟨path, none⟩
    | .greedy t => ⟨path, some t⟩
    | .weighted l =>
      match tryChildren p.seed posBase tree (childrenOf tree v) l with
      | (some c, _) => verifyStochastic p posBase tree setOf bias k c (path ++ [c])
      | (none, l') =>
        let total := (sums (l'.map (·.2))).getLast?.getD 0
        let use := if fpIsZero (fp32 total) then l else l'
        ⟨path, some (drawFrom use (drawU p.seed posBase 2 v))⟩

/-- Verification of a tree (R262, R263): the candidate tokens in order with the accepted path, none where no candidate can be
drawn. -/
def verifyTree (p : SampParams) (posBase : Nat) (tree : List TreeNode) (setOf : Nat → List (Nat × Word))
    (bias : List (Nat × Word)) : Option (List Nat × List Nat) :=
  let r := if p.rule = 0 ∨ fpIsZero (fp32 p.temp) then verifyGreedy tree setOf bias 65 0 []
    else verifyStochastic p posBase tree setOf bias 65 0 []
  r.final.map fun t => (r.path.map (fun n => (nth ⟨0, 0, 0⟩ tree n).token) ++ [t], 0 :: r.path)

/-! The lane input space (R253 to R255). -/

/-- A row of bits as bytes. -/
def bitRow (n : Nat) (f : Nat → Bool) : List Byte :=
  (List.range (ceilDiv n 8)).map fun k =>
    BitVec.ofNat 8 ((List.range 8).foldl (fun acc j => acc + if 8 * k + j < n ∧ f (8 * k + j) = true then 2 ^ j else 0) 0)

/-- Mask row `q` (R255): `verify` has the tree's parents. -/
def maskRow (maxPos len count q : Nat) (verify : Bool) (parents : List Nat) : List Byte :=
  if count ≤ q then zeros (ceilDiv maxPos 8)
  else
    let tree := parents.map fun p => (⟨0, p, 0⟩ : TreeNode)
    bitRow maxPos fun k =>
      if verify then decide (k < len) || (decide (len ≤ k ∧ k - len < count) && isAncestor tree (k - len) 64 q)
      else decide (k ≤ len + q)

/-- The position row (R255). -/
def posRow (len count : Nat) (verify : Bool) (parents : List Nat) : List Byte :=
  let tree := parents.map fun p => (⟨0, p, 0⟩ : TreeNode)
  (List.range count).flatMap fun q => leBytes 4 (len + if verify then nodeDepth tree 64 q else q)

end Sys2Proof.Machine
end

