-- ==== Sys2Proof/Machine/StateVat.lean ====
section
/-! DEFINITION. The state of vats, steps and sessions (01, 09, 10, 12, 15 of spec/). -/

namespace Sys2Proof.Machine

/-- The role of the package in a vat (R266). -/
inductive Role
  | member
  | standby
  | departing
  deriving DecidableEq, Repr

/-- The vat states of R271, with the values VAT_QUERY gives. -/
inductive VatState
  | defined
  | reserved
  | bound
  | running
  | halted
  | remoulding
  | washing
  | standby
  deriving DecidableEq, Repr

/-- A spare entry of a descriptor (R268). -/
structure SpareEnt where
  move  : Nat
  mode  : Nat
  image : Nat
  deriving DecidableEq, Repr

/-- A vat descriptor (R268). -/
structure VatDesc where
  vatId    : Nat
  packages : Nat
  origin   : Nat
  tm       : Nat
  deputy   : Nat
  measure  : List Byte
  limit    : Nat
  spares   : List SpareEnt
  deriving DecidableEq, Repr

/-- Where binding placed a package entry (R112, R133, R138, R154, R275): physical die of each logical die, physical cluster of
each logical cluster by logical core number / 16, spare position of each, physical slice (die × 66 + slice) of each logical
slice, physical stack of each logical stack, cave frames, alternate store frames, frames of the block maps. -/
structure Placement where
  dies     : List Nat
  clusters : List Nat
  spares   : List Nat
  slices   : List Nat
  stackSet : List Nat
  cave     : List Nat
  alt      : List (Nat × Nat)
  maps     : List (Nat × Nat)
  deriving DecidableEq, Repr

/-- Nothing placed. -/
def Placement.empty : Placement := ⟨[], [], [], [], [], [], [], []⟩

/-- The parameters of SESSIONS_CONFIGURE (R234) with NBH, residency slots per home, cave slots per home and the members' block
counts they rest on (R242). -/
structure SessParams where
  records  : Nat
  blockPos : Nat
  maxPos   : Nat
  resSlots : Nat
  candReg  : Nat
  blocksH  : Nat
  resH     : Nat
  caveH    : Nat
  deriving DecidableEq, Repr

/-- SESSIONS_CONFIGURE has not run: `RECORDS` is 0 (R233). -/
def SessParams.empty : SessParams := ⟨0, 1, 0, 0, 0, 0, 0, 0⟩

/-- Session states (R236). -/
inductive SessState
  | free
  | idle
  | ready
  | placed
  | faulted
  | orphaned
  deriving DecidableEq, Repr

/-- A block map entry (R243). -/
structure BlockEnt where
  hbm      : Option Nat
  cave     : Option Nat
  dirty    : Bool
  block    : Option Nat
  deriving DecidableEq, Repr

/-- A tile resolved to device-physical pieces: (DPA, length, key slot) in order (R226). -/
abbrev Pieces := List (Nat × Nat × Nat)

/-- A session record (R235) with what the home keeps beside it. -/
structure Session where
  state      : SessState
  close      : Bool
  spec       : Nat
  rule       : Nat
  ctx        : Nat
  len        : Nat
  pend       : Option Nat
  seed       : Nat
  temp       : Word
  topP       : Word
  minP       : Word
  topK       : Nat
  biasSet    : Nat
  resSlot    : Nat
  blocks     : List BlockEnt
  holder     : Nat
  orphan     : Nat
  epoch      : Nat
  fence      : Option Nat
  eligible   : Nat
  inVa       : Nat
  outVa      : Nat
  inCount    : Nat
  inDone     : Nat
  maxNew     : Nat
  produced   : Nat
  stop       : List Nat
  lastStep   : Nat
  tree       : List TreeNode
  deriving DecidableEq, Repr

/-- The home's working state of a session beside its record: the request's command, resolved buffers, offer standing (kind and
count), page command awaited (kind and members to answer), tree waiting for the boundary, cancellation, rows to copy (from, to),
starvation counted, the parameters, bias, stop tokens and tree its lane was frozen with, objects referred to, output no longer written, the Tick of the
page-in started for it while Ready (R331). -/
structure SessWork where
  req       : Option CmdRef
  inTile    : Pieces
  outTile   : Pieces
  offered   : Option (Nat × Nat)
  paging    : Option (Nat × List Nat)
  lateTree  : Option (List TreeNode)
  cancel    : Bool
  copies    : List (Nat × Nat)
  starved   : Bool
  sampling  : Option SampParams
  bias      : List (Nat × Word)
  stops     : List Nat
  runTree   : List TreeNode
  objs      : List Nat
  outGap    : Bool
  pageFrom  : Option Nat
  deriving DecidableEq, Repr

/-- A Free record (R236): the sampling parameters at their defaults. -/
def Session.free : Session where
  state := .free
  close := false
  spec := 0
  rule := 0
  ctx := 0
  len := 0
  pend := none
  seed := 0
  temp := 0
  topP := 0x3F800000#32
  minP := 0
  topK := 0
  biasSet := 0xFFFF
  resSlot := 0xFFFF
  blocks := []
  holder := 0xFFFF
  orphan := 0
  epoch := 0
  fence := none
  eligible := 0
  inVa := 0
  outVa := 0
  inCount := 0
  inDone := 0
  maxNew := 0
  produced := 0
  stop := [0xFFFFFFFF, 0xFFFFFFFF, 0xFFFFFFFF, 0xFFFFFFFF]
  lastStep := 0
  tree := []

/-- No work in hand. -/
def SessWork.empty : SessWork := ⟨none, [], [], none, none, none, false, [], false, none, [], [], [], [], false, none⟩

/-- A Failed cause of a step (R407): status, Tick, 24-bit source and, for press errors, core and lane order. -/
structure Cause where
  status : Nat
  tick   : Nat
  source : Nat
  order  : Nat
  deriving DecidableEq, Repr

/-- The errors one core has met in the step in progress (R72, R101): Tick, lane and description (status and the details of R408) of the
first, and the number of all. -/
structure CoreErr where
  core    : Nat
  tick    : Nat
  lane    : Nat
  first   : Nat × Nat × Nat × Nat
  count   : Nat
  deriving DecidableEq, Repr

/-- The lanes of a table that hold a session: null lanes name 0xFFFFFFFF (R253). -/
def filledLanes (t : LaneTable) : List Lane := t.lanes.filter fun l => decide (l.session ≠ 0xFFFFFFFF)

/-- What the sampler drew for a lane (R240, R258 to R263): candidate tokens and accepted path, or no candidate. -/
structure LaneDraw where
  lane   : Nat
  tokens : Option (List Nat)
  path   : List Nat
  deriving DecidableEq, Repr

/-- A step in progress on the package (R19, R24). -/
structure StepRun where
  table    : LaneTable
  kind     : Nat
  tokens   : Nat
  length   : Nat
  degraded : Bool
  causes   : List Cause
  errs     : List CoreErr
  draws    : List LaneDraw
  overrun  : Bool
  stalled  : List Nat
  voids    : Nat
  deriving DecidableEq, Repr

/-- An offer the head holds (R252, R289). -/
structure Offer where
  session   : Nat
  count     : Nat
  kind      : Nat
  partition : Nat
  eligible  : Nat
  ctx       : Nat
  deriving DecidableEq, Repr

/-- Remould kinds (R277). -/
inductive RemouldKind
  | spare (lpkg core : Nat)
  | move (number : Nat)
  | delta
  deriving DecidableEq, Repr

/-- A remould in progress (R277 to R281). -/
structure Remould where
  kinds    : List RemouldKind
  auto     : Bool
  ref      : Option CmdRef
  phase    : Nat
  ready    : List Nat
  affected : List Nat
  halt     : Option Nat
  resume   : Option Nat
  since    : Nat
  deriving DecidableEq, Repr

/-- The transfers a member owes for a session's page command (R245, R289): session, residency slot, kind, the entries so far, whether
the last message has come, status. -/
structure PageJob where
  session : Nat
  resSlot : Nat
  arg     : Nat
  entries : List PageEntry
  last    : Bool
  status  : Nat
  deriving DecidableEq, Repr

/-- Metering of the composition in force (R290, R291). -/
structure Meter where
  first : Nat
  step  : Nat
  rest  : Nat
  deriving DecidableEq, Repr

/-- A slice in partitioned mode (R322): partition, budget and elapsed step time. -/
structure Slice where
  part    : Nat
  budget  : Nat
  elapsed : Nat
  deriving DecidableEq, Repr

/-- The replay mode of a head (R403, R404): suspects still to replay, the sessions of the stalled steps by context, the contexts of the
replay step frozen and of the one running, its verdict, the stalls in this replay, the cores of this package that stalled first,
whether only its last step remains. -/
structure Replay where
  suspects : List Nat
  sessions : SMap (List Nat)
  frozen   : Option Nat
  running  : Option Nat
  verdict  : Nat
  stalls   : Nat
  origin   : List Nat
  closing  : Bool
  deriving DecidableEq, Repr

/-- A vat as the package keeps it (R266 to R292): `nodes` lists the logical packages that moved (R283), `kvFrames` the frames of
the block maps and residency table (R234), `zeroSlot` the cave slot of a session's ordinal 0 (R248), `boundary` the next Tick at which a step may start,
`gone` the slices it used that were retired (R206), `reserves` what a standby holds for each move it serves, by move number (R274), and at
4,096 more the placement a staged delta asks for in its place (R277), `acting` the deputy that took over as time master (R286). -/
structure Vat where
  desc      : VatDesc
  role      : Role
  lpkg      : Nat
  moves     : List Nat
  state     : VatState
  mould     : Option Mould
  delta     : Option Mould
  chain     : List Byte
  place     : Placement
  gone      : List Nat
  reserves  : SMap Placement
  loader    : Nat
  regionObj : List Nat
  headers   : List PressHdr
  params    : SessParams
  sessions  : SMap Session
  work      : SMap SessWork
  resTable  : SMap (List Nat)
  kvFrames  : List Nat
  zeroSlot  : SMap Nat
  nodes     : SMap Nat
  acting    : Option Nat
  comp      : Nat
  meter     : Meter
  offers    : List Offer
  frozen    : Option LaneTable
  step      : Option StepRun
  boundary  : Nat
  deriving DecidableEq, Repr

/-- What falls due at the time master once the resume in hand has come (R278): a logical package to replace, lost or not, or a core retired. -/
inductive Later
  | pkg (lpkg : Nat) (loss : Bool)
  | spare (lpkg core : Nat)
  deriving DecidableEq, Repr

/-- What the composition that a resume ends was metered by (R290, R291): role, logical package, units, chain value. -/
structure OldComp where
  role  : Role
  lpkg  : Nat
  units : List Nat
  chain : List Byte
  deriving DecidableEq, Repr

/-- What the package's roles in a vat keep beside it. Head: halt Tick, rest credit, rest requests by node, slice, rotation, replay, the contexts of
the sessions in its lanes, the length of the last step, the Tick the vat enters Running, commands awaiting a halt. Head too: whether the other members have halted or removed the vat, and the
VAT_UNBINDs that await them (R272, R273). Time master: remould, what waits for its resume (R278), member-down records
(node, reporter, Tick), members lost, report Ticks. Home: starved count. Member: the Tick a step hang falls due while its boundary is not
marked, the move that its halt is for (R281), the weights a standby pulled for a cold move (R280), page jobs and whether MEMBER_READY waits for them or for ports (R281, R283), the MEMBER_DOWN messages sent (port, node, first void, Tick), cores reported retired (package, core), whether the package
joined by a move and the sessions whose shares it has resolved, the delta it has staged, the composition a resume ends, the unbinding, the start and step ID of a step
it owes curd slots in and does not start (R143), the start, length and ID of its last step (R190). Head and home: the contexts of the lanes of its last two steps, newest first (R406, R432). -/
structure VatRole where
  haltAt   : Option Nat
  haltTo   : Bool
  haltCmds : List CmdRef
  haltFrom : Nat
  credit   : Nat
  restReq  : SMap Nat
  slice    : Option Slice
  lastPart : Nat
  wasPart  : Bool
  replay   : Option Replay
  laneCtx  : SMap Nat
  lastLen  : Nat
  started  : Option Nat
  hangAt   : Option Nat
  restFrom : Option Nat
  remould  : Option Remould
  downs    : List (Nat × Nat × Nat)
  lost     : List Nat
  sentDown : List (Nat × Nat × Nat × Nat)
  lastRep  : Nat
  lastSent : Nat
  reported : Nat
  moveFor  : Option Nat
  pulled   : Option (List Byte)
  pageJobs : List PageJob
  waitPage : Bool
  resolve  : List Nat
  starved  : Nat
  unbind   : List CmdRef
  unbound  : Bool
  allHalted : Bool
  allGone  : Bool
  later    : List Later
  was      : Option OldComp
  washId   : Option Nat
  retired  : List (Nat × Nat)
  joined   : Bool
  staged   : Option Mould
  owed     : Option (Nat × Nat)
  lastStep : Option (Nat × Nat × Nat)
  recent   : List (List Nat)
  deriving DecidableEq, Repr

/-- Nothing kept. -/
def VatRole.empty : VatRole where
  haltAt := none
  haltTo := false
  haltCmds := []
  haltFrom := 0
  credit := 0
  restReq := []
  slice := none
  lastPart := 15
  wasPart := false
  replay := none
  laneCtx := []
  lastLen := 0
  started := none
  hangAt := none
  restFrom := none
  remould := none
  downs := []
  lost := []
  sentDown := []
  lastRep := 0
  lastSent := 0
  reported := 0
  moveFor := none
  pulled := none
  pageJobs := []
  waitPage := false
  resolve := []
  starved := 0
  unbind := []
  unbound := false
  allHalted := false
  allGone := false
  later := []
  was := none
  washId := none
  retired := []
  joined := false
  staged := none
  owed := none
  lastStep := none
  recent := []

end Sys2Proof.Machine
end

