-- ==== Sys2Proof/Machine/StateComplex.lean ====
section
/-! DEFINITION. The state of the control complexes and their caches (13). -/

namespace Sys2Proof.Machine

/-- The states of a complex with the values of `STATE` (R360). -/
inductive CcState
  | off
  | booting
  | junior
  | senior
  | lost
  deriving DecidableEq, Repr

/-- The states of a line in a data cache (R342). -/
inductive LineState
  | shared
  | forward
  | exclusive
  | dirty
  deriving DecidableEq, Repr

/-- A copy in a hart's data cache: state, data as one number, the cycle the hold of R344 ends. -/
structure CopyLine where
  hart  : Nat
  state : LineState
  data  : Nat
  hold  : Nat
  deriving DecidableEq, Repr

/-- A line as a complex holds it: its copies in data caches and the L2's data, if the L2 holds it. The sharer vector and the
forwarder are the harts and the state of the copies (R342). `free` is the first cycle in which the directory may serve another request of
the line (R345). -/
structure Line where
  copies : List CopyLine
  l2     : Option Nat
  free   : Nat
  deriving DecidableEq, Repr

/-- What a request at a directory asks for: a read miss, ownership with the line's new bytes, the line in E for an LR (R344), a placing write for a hart, an
invalidating write of some 8-byte granules (R343, R346). -/
inductive LineReq
  | read
  | own (data : Nat)
  | lr
  | place (hart data : Nat)
  | merge (mask data : Nat)
  deriving DecidableEq, Repr

/-- A request that waits on a line's hold (R344, R345): line, agent (harts 0 to 15, I/O agents 16 to 19), cycle of arrival. -/
structure Waiter where
  line  : Nat
  agent : Nat
  cycle : Nat
  req   : LineReq
  deriving DecidableEq, Repr

/-- What a hart holds beside its caches (R340, R341): whether it runs in M mode, its 16 PMP entries (configuration, address), `msip` and `mtimecmp`, and
cause and address of the last trap it took for an access its address map does not permit. No row of the table runs an instruction of a
hart. `mtime` is the Tick Count. -/
structure Hart where
  machine  : Bool
  pmp      : SMap (Nat × Nat)
  msip     : Bool
  mtimecmp : Nat
  cause    : Nat
  tval     : Nat
  deriving DecidableEq, Repr

/-- A hart as a reset leaves it: in M mode (PRESUMED, log entry 129). -/
def Hart.reset : Hart := ⟨true, [], false, 0, 0, 0⟩

/-- The interrupt controller of a complex, a PLIC (R341): priorities and pending bits of 1,023 sources, enables and threshold of each hart's context,
sources claimed. -/
structure Plic where
  prio      : SMap Nat
  pending   : List Nat
  enable    : SMap (List Nat)
  threshold : SMap Nat
  claimed   : List Nat
  deriving DecidableEq, Repr

def Plic.reset : Plic := ⟨[], [], [], [], []⟩

/-- A control complex (R339 to R360). `alive` is its ALIVE signal, `lowFrom` the Tick it fell; `wdTick` the Tick its watchdog was last
restarted; `hbSent` the Tick of its last heartbeat, `heard` the Tick of the last one received by bridge, `hbSince` the Tick since which
they have come without a gap; `peerSeq` and `peerEpoch` what the last one carried. `hadSenior` tells whether a Lost complex was Senior, `taking` the
Tick a takeover began, `peerGone` that the peer's loss has been acted on, `otherOut` that the other half is out of service (R359).
Control memory is HBM of its half (R341). `lastRead` is what its last I/O read returned. -/
structure Cplx where
  state     : CcState
  cause     : Nat
  split     : Bool
  alive     : Bool
  lowFrom   : Option Nat
  epoch     : Nat
  hbSeq     : Nat
  wdTick    : Nat
  hbSent    : Nat
  ce        : Nat
  hbMiss    : Nat
  takeovers : Nat
  lossTick  : Nat
  heard     : SMap Nat
  hbSince   : Option Nat
  peerSeq   : Nat
  peerEpoch : Nat
  hadSenior : Bool
  taking    : Option Nat
  peerGone  : Bool
  otherOut  : Bool
  lines     : SMap Line
  waiters   : List Waiter
  lastRead  : Nat
  harts     : SMap Hart
  plic      : Plic
  deriving DecidableEq, Repr

def Cplx.off : Cplx where
  state := .off
  cause := 0
  split := false
  alive := false
  lowFrom := none
  epoch := 0
  hbSeq := 0
  wdTick := 0
  hbSent := 0
  ce := 0
  hbMiss := 0
  takeovers := 0
  lossTick := 0
  heard := []
  hbSince := none
  peerSeq := 0
  peerEpoch := 0
  hadSenior := false
  taking := none
  peerGone := false
  otherOut := false
  lines := []
  waiters := []
  lastRead := 0
  harts := []
  plic := Plic.reset

/-- The two complexes with the CC globals: bridges in service, both lost, a command refused, and the words of group 1 that complex 0 last
received before its split fence (R360). -/
structure Complexes where
  c0      : Cplx
  c1      : Cplx
  bridge0 : Bool
  bridge1 : Bool
  both    : Bool
  refused : Bool
  seen    : List Nat
  deriving DecidableEq, Repr

end Sys2Proof.Machine
end

