-- ==== Sys2Proof/Machine/Frac.lean ====
section
/-! DEFINITION. Exact fractions in lowest terms: the power estimate and the energies of 16 are real numbers. -/

namespace Sys2Proof.Machine

/-- A fraction; the denominator is above 0 in every value the model makes. -/
structure Frac where
  num : Int
  den : Nat
  deriving DecidableEq, Repr

/-- The fraction in lowest terms. -/
def Frac.of (n : Int) (d : Nat) : Frac :=
  let g := max 1 (Nat.gcd n.natAbs d)
  ⟨n / (g : Int), max 1 (d / g)⟩

def Frac.zero : Frac := ⟨0, 1⟩
def Frac.nat (n : Nat) : Frac := ⟨(n : Int), 1⟩
def Frac.add (a b : Frac) : Frac := Frac.of (a.num * (b.den : Int) + b.num * (a.den : Int)) (a.den * b.den)
def Frac.mul (a b : Frac) : Frac := Frac.of (a.num * b.num) (a.den * b.den)
def Frac.sub (a b : Frac) : Frac := Frac.add a ⟨-b.num, b.den⟩
/-- Divided by a whole number above 0. -/
def Frac.divNat (a : Frac) (n : Nat) : Frac := Frac.of a.num (a.den * max 1 n)
def Frac.lt (a b : Frac) : Bool := decide (a.num * (b.den : Int) < b.num * (a.den : Int))
def Frac.le (a b : Frac) : Bool := !(Frac.lt b a)
def Frac.sum (l : List Frac) : Frac := l.foldl Frac.add Frac.zero
/-- Rounded down; below 0 it is 0. -/
def Frac.floor (a : Frac) : Nat := (a.num / (a.den : Int)).toNat
/-- Rounded up; below 0 it is 0. -/
def Frac.ceil (a : Frac) : Nat := (-((-a.num) / (a.den : Int))).toNat
def Frac.max (a b : Frac) : Frac := if Frac.lt a b then b else a

end Sys2Proof.Machine
end

