-- ==== Sys2Proof/Machine/StateHost.lean ====
section
/-! DEFINITION. The state of contexts, queues, commands, fences, memory objects (11), memory tiers and translation (08), quality
of service (12) and the host port (18). -/

namespace Sys2Proof.Machine

/-- Context states with the values of the CTX entry (R295, R317). -/
inductive CtxState
  | free
  | active
  | tearing
  deriving DecidableEq, Repr

/-- The classification of R297 with the Tick it began. -/
inductive CtxClass
  | runnable
  | idle
  | blocked
  | none
  deriving DecidableEq, Repr

/-- A context (R295 to R299, R316, R317, R338, R438). -/
structure Context where
  state     : CtxState
  function  : Nat
  ptObj     : Nat
  ptOff     : Nat
  ptBase    : Nat
  conf      : Bool
  fenceBus  : Nat
  fenceLo   : Nat
  fenceN    : Nat
  group     : Nat
  slot      : Option Nat
  cls       : CtxClass
  since     : Nat
  evicts    : Nat
  activeT   : Nat
  acted     : Bool
  qError    : Nat
  destroyer : Option CmdRef
  laneSteps : Nat
  queueWait : Nat
  arbWait   : Nat
  preempts  : Nat
  energy    : Frac
  deriving DecidableEq, Repr

/-- A Free context. -/
def Context.empty : Context where
  state := .free
  function := 0
  ptObj := 0
  ptOff := 0
  ptBase := 0
  conf := false
  fenceBus := 0
  fenceLo := 0
  fenceN := 0
  group := 0
  slot := Option.none
  cls := .none
  since := 0
  evicts := 0
  activeT := 0
  acted := false
  qError := 0
  destroyer := Option.none
  laneSteps := 0
  queueWait := 0
  arbWait := 0
  preempts := 0
  energy := Frac.zero

/-- A command fetched and not yet dispatched: its ring index, its 64 bytes, the Tick of the fetch (R303). -/
structure Fetched where
  idx   : Nat
  bytes : List Byte
  tick  : Nat
  deriving DecidableEq, Repr

/-- A queue (R300 to R304): rings, vector, class, fetch and completion counts, reserved completions, Error, commands fetched; the
fence its head waits on with the awaited EPOCH, whether it holds a wait slot, and the status that met the wait (R299, R315). -/
structure Queue where
  sqBus    : Nat
  cqBus    : Nat
  sqLog    : Nat
  cqLog    : Nat
  vector   : Nat
  cls      : Nat
  sqHead   : Nat
  cqTail   : Nat
  reserved : Nat
  error    : Bool
  fetched  : List Fetched
  old      : List (Nat × Nat)
  waiting  : Option (Nat × Nat)
  asked    : Option Nat
  slotted  : Bool
  met      : Option Nat
  deriving DecidableEq, Repr

/-- Where a dispatched command is (R226, R227, R304, R314): its tiles resolving, its effect due, held by a fault, awaiting other
packages or a later Tick, finished with its completion to write. -/
inductive CmdPhase
  | resolving
  | ready
  | held
  | waiting
  | done
  deriving DecidableEq, Repr

/-- A tile of a command (R225, R226): operand number, handle, offset, length, write, whether a walk resolves
it, first virtual address, the page-table leaf and
page size of each 32 MiB span resolved, the failure of each span that failed (status, level, entry, first byte), and the pieces. -/
structure Tile where
  operand : Nat
  handle  : Nat
  off     : Nat
  len     : Nat
  write   : Bool
  virt    : Bool
  va      : Nat
  trans   : SMap (Nat × Nat)
  fails   : SMap (Nat × Nat × Nat × Nat)
  pieces  : Pieces
  deriving DecidableEq, Repr

/-- A command dispatched and not completed (R303, R308, R314), with the key generation in force at its dispatch (R368), the Tick of
its first fault entry (R230), the Tick it was last held from and the Ticks that do not count toward its limit (R402), and the plaintext an OPEN
has authenticated (R381). -/
structure Cmd where
  ref     : CmdRef
  bytes   : List Byte
  phase   : CmdPhase
  status  : Nat
  result  : Nat
  tiles   : List Tile
  objs    : List Nat
  fence   : Option Nat
  since   : Nat
  silent  : Bool
  orphan  : Bool
  gen     : Nat
  faulted : Option Nat
  heldAt  : Nat
  excused : Nat
  staged  : Option (List Byte)
  deriving DecidableEq, Repr

/-- A fence (R313, R314). -/
structure Fence where
  status    : Nat
  signalled : Bool
  epoch     : Nat
  tick      : Nat
  pending   : Option CmdRef
  deriving DecidableEq, Repr

/-- A fence as created: Signalled, status 0, epoch 0 (R295). -/
def Fence.created : Fence := ⟨0, true, 0, 0, Option.none⟩

/-- A memory object (R310 to R312): frames as page DPAs; a region object of R139 names its vat and region and has none. -/
structure MemObj where
  gen    : Nat
  ctx    : Nat
  size   : Nat
  vaBase : Nat
  page   : Nat
  pages  : List Nat
  freed  : Bool
  lost   : Bool
  region : Option (Nat × Nat)
  deriving DecidableEq, Repr

/-- Objects of the host (11). -/
structure HostObjs where
  ctxs     : SMap Context
  queues   : SMap Queue
  doors    : SMap (Nat × Nat)
  cmds     : List Cmd
  fences   : SMap Fence
  objs     : SMap MemObj
  gens     : SMap Nat
  freeIdx  : List Nat
  nextIdx  : Nat
  bias     : SMap (List (Nat × Word))
  swaps    : Nat
  adminSq  : Nat
  adminCq  : Nat
  adminSqL : Nat
  adminCqL : Nat
  adminEn  : Bool
  deriving DecidableEq, Repr

/-- The condition of a frame (R209): who holds or blocks it. An unlisted frame is Free. -/
inductive FrameUse
  | object (index : Nat)
  | alt (vat : Nat)
  | blocked (vat : Nat)
  | washing (wash : Nat)
  deriving DecidableEq, Repr

/-- Extent states (R217, R231). -/
inductive ExtState
  | free
  | offered
  | active
  | zeroing
  | lost
  deriving DecidableEq, Repr

/-- Who owns an Active extent (R217, R231). -/
inductive ExtOwner
  | none
  | vat (v : Nat)
  | object (index : Nat)
  | washing (wash : Nat)
  deriving DecidableEq, Repr

/-- An entry of the extent table (R216, R217, R231): base and count in 32 MiB frames, CXL port, device, pool. -/
structure Extent where
  state  : ExtState
  base   : Nat
  frames : Nat
  port   : Nat
  dev    : Nat
  owner  : ExtOwner
  deriving DecidableEq, Repr

/-- A Free entry. -/
def Extent.empty : Extent := ⟨.free, 0, 0, 0, 0, .none⟩

/-- A fault record waiting in a batch (R227, R228). -/
structure FaultEnt where
  status  : Nat
  ref     : CmdRef
  operand : Nat
  level   : Nat
  write   : Bool
  vaFirst : Nat
  vaFault : Nat
  pte     : Nat
  tick    : Nat
  deriving DecidableEq, Repr

/-- A closed batch: number once written, first and close Ticks, entries. -/
structure Batch where
  seq    : Nat
  first  : Nat
  close  : Nat
  ents   : List FaultEnt
  deriving DecidableEq, Repr

/-- A slice being copied to a spare (R206): logical slice, source and spare, the bitmap of written granules, switch due. -/
structure SliceCopy where
  src    : Nat
  spare  : Nat
  bitmap : List Nat
  done   : Bool
  deriving DecidableEq, Repr

/-- A DRAM or slice die's error counters (R231). -/
structure StackRegs where
  ce     : Nat
  ue     : Nat
  last   : Nat
  passes : Nat
  scrub  : Nat
  deriving DecidableEq, Repr

/-- The memory tiers (08). `cells` holds plaintext bytes by DPA, `keys` the tag of the key that wrote each 16-byte block: 0 for
plaintext, else the tag of a 64-byte key in `keyTags` plus 1. -/
structure MemTier where
  cells     : List Host.Cell
  keys      : SMap Nat
  keyTags   : List (List Byte)
  frames    : SMap FrameUse
  extents   : SMap Extent
  stackSet  : SMap StackRegs
  sliceCe   : SMap Nat
  sliceUe   : SMap Nat
  copies    : SMap SliceCopy
  retired   : List Nat
  refresh   : SMap (Nat × Nat × Nat)
  curd      : List (Nat × Nat)
  hbmOut    : List Nat
  deriving DecidableEq, Repr

/-- Translation and fault batches (08). -/
structure Xlate where
  cache    : List (Nat × Nat × Nat × Nat)
  ringBase : Nat
  ringLog  : Nat
  enable   : Bool
  producer : Nat
  done     : Nat
  timeouts : Nat
  walks    : Nat
  openEnts : List FaultEnt
  openTick : Nat
  closed   : List Batch
  slots    : SMap Batch
  pos      : Nat
  deriving DecidableEq, Repr

/-- A QOS function entry's shadowed fields (R337). -/
structure FuncCfg where
  ctxFirst  : Nat
  ctxCount  : Nat
  slotMin   : Nat
  slotMax   : Nat
  part      : Nat
  classMax  : Nat
  fenceLo   : Nat
  fenceN    : Nat
  objLimit  : Nat
  hbmFrames : Nat
  caveFr    : Nat
  vatLo     : Nat
  vatHi     : Nat
  deriving DecidableEq, Repr

def FuncCfg.zero : FuncCfg := ⟨0, 0, 0, 0, 0, 0, 0, 0, 0, 0, 0, 0, 0⟩

/-- A partition's shadowed fields (R336). -/
structure PartCfg where
  sliceTicks : Nat
  laneLimit  : Nat
  rateHbm    : Nat
  depthHbm   : Nat
  rateCxl    : Nat
  depthCxl   : Nat
  rateHost   : Nat
  depthHost  : Nat
  deriving DecidableEq, Repr

def PartCfg.reset : PartCfg := ⟨0, 0, 0xFFFF, 0xFFFF, 0xFFFF, 0xFFFF, 0xFFFF, 0xFFFF⟩

/-- The globally committed QOS fields (R335 to R338). -/
structure QosCfg where
  prio      : List Nat
  bursts    : Nat
  kvLead    : Nat
  waitLimit : List Nat
  congHi    : List Nat
  congLo    : List Nat
  vats      : List (Bool × Nat × Nat)
  parts     : SMap PartCfg
  ctxPart   : SMap Nat
  deriving DecidableEq, Repr

/-- What a whey request is for: a command's data; one read of a page walk at a level, for a tile's page; a packet that came over the fabric or a
link, with what ECC finds; a burst of a remote-window access, under a number of its own, with
its range and a write's data; a share of a session being paged, by ordinal; tags,
zeroing and row copies of a page command; a write of a request's output; traffic whose effect does not wait for its grant. -/
inductive ArbWork
  | command (ref : CmdRef)
  | walk (ref : CmdRef) (operand page level : Nat)
  | packet (p : WheyPacket) (ecc : Ecc)
  | window (id src vat tag dpa len : Nat) (data : Option (List Byte)) (bad : ReadErrs)
  | page (vat session ordinal : Nat)
  | keep (vat session : Nat)
  | output (ref : CmdRef)
  | traffic
  deriving DecidableEq, Repr

/-- A whey request at an arbiter (R325 to R331): its stream number, class, partition, what it is for, its bursts held at the source, its bursts at
the arbiter as (Tick of arrival, number) in order, and how many of these have been recorded as past their wait limit. -/
structure ArbReq where
  stream : Nat
  cls    : Nat
  part   : Nat
  work   : ArbWork
  held   : Nat
  here   : List (Nat × Nat)
  late   : Nat
  deriving DecidableEq, Repr

/-- An arbiter (R325 to R328): its requests in order of arrival, the stream in grant with the bursts it may still take, counted grants,
the class last granted at each `PRIO`. -/
structure Arbiter where
  queue  : List ArbReq
  holder : Option (Nat × Nat)
  grants : Nat
  last   : SMap Nat
  deriving DecidableEq, Repr

/-- An arbiter at reset. -/
def Arbiter.empty : Arbiter := ⟨[], none, 0, []⟩

/-- Quality of service (12). `congested` lists the Congested instances of R329: stacks 0 to 15, CXL ports 16 to 19, host port 20. -/
structure Qos where
  shadow    : QosCfg
  active    : QosCfg
  funcShad  : SMap FuncCfg
  funcAct   : SMap FuncCfg
  refused   : Bool
  missed    : Bool
  missedKv  : Nat
  missedWt  : Nat
  buckets   : SMap Nat
  arbs      : SMap Arbiter
  streams   : Nat
  congested : List Nat
  overruns  : SMap Nat
  deriving DecidableEq, Repr

/-- A function of the host port (R462 to R466, R471, R472): D3hot, Bus Master Enable, MSI-X table (message address, data, masked;
an unlisted vector is masked) and pending bits. -/
structure Func where
  d3     : Bool
  bme    : Bool
  table  : SMap (Nat × Nat × Bool)
  pends  : List Nat
  deriving DecidableEq, Repr

/-- A function as reset leaves it. -/
def Func.reset : Func := ⟨false, true, [], []⟩

/-- The host port (18). `posted` are host writes that wait until host requests of their function may issue: function, address, bytes, in
order (R399, R466). -/
structure HostPort where
  rate   : Nat
  width  : Nat
  flit   : Bool
  below  : Bool
  ce     : Nat
  ue     : Nat
  resets : Nat
  numVfs : Nat
  funcs  : SMap Func
  posted : List (Nat × Nat × List Byte)
  deriving DecidableEq, Repr

end Sys2Proof.Machine
end

