-- ==== Sys2Proof/Machine/StateLink.lean ====
section
/-! DEFINITION. The state of the Tick unit, gears, fabric (06) and Soanduo Link (07). -/

namespace Sys2Proof.Machine

/-- The lock states of R141, with the values of `LOCK_STATE`. -/
inductive LockState
  | unlocked
  | acquiring
  | locked
  | holdover
  deriving DecidableEq, Repr

/-- The Tick unit and clock controller (R141 to R150, R164): `alignLoad` is what R183 adds to the count at the next TICK_FRAME, its port
and Tick; `locking` the gear, number and Tick of an arm, `armVat` its vat; `atFrame` that this Tick is a TICK_FRAME; `lostAt` a change that failed, `prev` the Tick and old gear of
the last change, `back` the gear to return to at a boundary (R150). -/
structure TickUnit where
  lock      : LockState
  aligned   : Bool
  count     : Nat
  frames    : Nat
  sinceFrm  : Option Nat
  atFrame   : Bool
  edges     : Bool
  slip      : Bool
  loadShad  : Nat
  pending   : Option Nat
  alignLoad : Option (Nat × Nat × Nat)
  refused   : Bool
  gear      : Nat
  armed     : Nat
  locking   : Option (Nat × Nat × Nat)
  armVat    : Nat
  change    : Option Nat
  lockLost  : Bool
  lostAt    : Option Nat
  prev      : Option (Nat × Nat)
  back      : Option Nat
  stretches : Nat
  overrun   : Bool
  lastOver  : Nat
  nStretch  : Nat
  nOverrun  : Nat
  nLoss     : Nat
  maxStr    : Nat
  voids     : Nat
  discards  : Nat
  fabCe     : Nat
  fabUe     : Nat
  deriving DecidableEq, Repr

/-- The gear group at the acting time master (R149, R427): standing requests by node, acknowledgements, number and gear of the
change, its Tick. -/
structure GearMaster where
  reqs   : SMap Nat
  gear   : Nat
  seq    : Nat
  acks   : List Nat
  arming : Bool
  change : Option Nat
  deriving DecidableEq, Repr

/-- An event record (R144, R145): Tick Count, 24-bit source, sequence number, what occurred. -/
structure Event where
  tick   : Nat
  source : Nat
  seq    : Nat
  what   : String
  arg    : Nat
  deriving DecidableEq, Repr

/-- A router (R155, R156, R161): landing queues of curd slots by input port, whey packets by input port, round-robin position
of each output port, faulted by parity, out with its cluster. -/
structure Router where
  landing : SMap (List Slot)
  whey    : SMap (List WheyPacket)
  turn    : SMap Nat
  faulted : Bool
  deriving DecidableEq, Repr

def Router.empty : Router := ⟨[], [], [], false⟩

/-- A port's by-link values by name (R180). -/
inductive PortState
  | off
  | detect
  | equalise
  | lock
  | measure
  | align
  | verify
  | active
  | fenced
  | down
  | failed
  deriving DecidableEq, Repr

/-- A link port (R166 to R192, R199). `credits` counts under 0 and 1 the flits freed and not yet returned, under 2 and 3 those it may send, by
channel (R176); `held` the whole packets of its receive buffer by channel, `whey` the flits not yet authenticated; `txq` the curd slots its
link routers have handed over, by router × 2 + half; `fromTick` the Tick training left Lock (R168), `measFrom` the Tick Measure's round
began (R182), `full` the calibration load tag Full (R181), `stale` the vats whose link tables await a remould since its peer changed
(R187), `used` the flits sent in the Tick, `ahead` those that leave in the next. -/
structure Port where
  state    : PortState
  lanes    : Nat
  entered  : Nat
  peer     : Nat
  peerPort : Nat
  degraded : Bool
  delayQ   : Nat
  feCe     : Nat
  feUe     : Nat
  authFail : Nat
  voidIns  : Nat
  discards : Nat
  trains   : Nat
  last     : Nat
  echoes   : List Nat
  offset   : Option Int
  sent     : Bool
  badTicks : Nat
  lost     : Nat
  dead     : List Nat
  landing  : List (Nat × Nat × Flit)
  voidFrom : Option Nat
  whey     : SMap (List Flit)
  credits  : SMap Nat
  vats     : List (Nat × Nat)
  txPhase  : Nat
  verifying : List Nat
  sentSlots : List (Nat × Nat)
  doneSlots : List (Nat × Nat)
  fromTick  : Nat
  measFrom  : Nat
  full      : Bool
  stale     : List Nat
  txq       : SMap (List Slot)
  held      : SMap (List (List Flit))
  used      : Nat
  ahead     : Nat
  deriving DecidableEq, Repr

def Port.off : Port where
  state := .off
  lanes := 0
  entered := 0
  peer := 0
  peerPort := 0
  degraded := false
  delayQ := 0
  feCe := 0
  feUe := 0
  authFail := 0
  voidIns := 0
  discards := 0
  trains := 0
  last := 0
  echoes := []
  offset := none
  sent := false
  badTicks := 0
  lost := 0
  dead := []
  landing := []
  voidFrom := none
  whey := []
  credits := []
  vats := []
  txPhase := 0
  verifying := []
  sentSlots := []
  doneSlots := []
  fromTick := 0
  measFrom := 0
  full := false
  stale := []
  txq := []
  held := []
  used := 0
  ahead := 0

/-- A multicast held at a target (R193): requester, tag, length, window, offset, granted, data arrived, the base of the window when it was admitted. -/
structure McTarget where
  src     : Nat
  tag     : Nat
  vat     : Nat
  len     : Nat
  window  : Nat
  off     : Nat
  granted : Bool
  data    : List (Nat × List Byte)
  base    : Nat
  deriving DecidableEq, Repr

/-- A multicast held at its source (R193): targets, grants, acknowledgements, first RESERVE, window and offset at the targets, data. -/
structure McSource where
  tag     : Nat
  vat     : Nat
  targets : List Nat
  grants  : List Nat
  acks    : List Nat
  first   : Nat
  sent    : Bool
  window  : Nat
  off     : Nat
  data    : List Byte
  deriving DecidableEq, Repr

/-- The fields of a remote window (R194). -/
structure Window where
  valid : Bool
  perm  : Nat
  vat   : Nat
  hi    : Nat
  lo    : Nat
  base  : Nat
  size  : Nat
  deriving DecidableEq, Repr

def Window.zero : Window := ⟨false, 0, 0, 0, 0, 0, 0⟩

/-- The LINK block and the eight ports (R166 to R199). `own` holds the packets of this package's fabric that wait for a link, `turns` what each
transmit port took last: (input × 2 + channel), the own packets counted as input 8 (R176). -/
structure Links where
  node     : Nat
  root     : Bool
  tx       : Nat
  ty       : Nat
  tz       : Nat
  stalls   : Nat
  denies   : Nat
  open'    : Nat
  pairs    : Nat
  moving   : SMap Bool
  ports    : SMap Port
  mcIn     : List McTarget
  mcOut    : List McSource
  mcTags   : SMap Nat
  own      : List (List Flit)
  turns    : SMap Nat
  winShad  : SMap Window
  winAct   : SMap Window
  deriving DecidableEq, Repr

end Sys2Proof.Machine
end

