-- ==== Sys2Proof/Machine/StateUnits.lean ====
section
/-! DEFINITION. The state of the cores (04), the key vaults and Washes (14), faults and domain resets (15), power (16), boot,
fuses and journals (17), CXL ports, capability table and sideband (18) and pins (19). -/

namespace Sys2Proof.Machine

/-- Core states with the values of `STATE` (R102). -/
inductive CoreState
  | off
  | clearing
  | spare
  | bound
  | fenced
  | retired
  deriving DecidableEq, Repr

/-- A culture table in a table register (R57, R87): formats and entry encodings. -/
structure Table where
  idxFmt   : Nat
  entryFmt : Nat
  entries  : List Nat
  deriving DecidableEq, Repr

/-- A culture table the press decoder holds in a register of its own: of which tensor, which table (R64). -/
structure HeldTable where
  tensor : Nat
  num    : Nat
  table  : Table
  deriving DecidableEq, Repr

/-- A culture table that a round of a DECODE will write into a table register: the Tick and the usable cycle in it, the register
(engine × 8 + number), the table (R64, R93). -/
structure LateTable where
  tick  : Nat
  cycle : Nat
  reg   : Nat
  table : Table
  deriving DecidableEq, Repr

/-- A physical core (R75 to R102). `bank` lists non-zero bytes; `acc` is indexed (engine × 2 + bank) × 2,048 + element, `tables`
engine × 8 + register, `stage` engine × 32,768 + entry, `vregs` register × 128 + lane. `decTables` are the press decoder's own, `tblNext` the tables
a DECODE has still to write in later rounds, in order. A core that
is Clearing is so up to the Tick `clearEnd` and then in the state `after`. -/
structure Core where
  state     : CoreState
  after     : CoreState
  clearEnd  : Nat
  logical   : Nat
  vat       : Option Nat
  ce        : Nat
  ue        : Nat
  parity    : Nat
  ceLast    : Nat
  bank      : List Host.Cell
  acc       : SMap Word
  tables    : SMap Table
  decTables : SMap (Option HeldTable)
  tblNext   : List LateTable
  stage     : SMap Nat
  vregs     : SMap Word
  program   : List Byte
  deriving DecidableEq, Repr

/-- A core as it is off (R102); its storage reads zero (R86). -/
def Core.off : Core where
  state := .off
  after := .off
  clearEnd := 0
  logical := 0
  vat := none
  ce := 0
  ue := 0
  parity := 0
  ceLast := 0
  bank := []
  acc := []
  tables := []
  decTables := []
  tblNext := []
  stage := []
  vregs := []
  program := []

/-- Slot states with the values of `STATE` (R393). -/
inductive SlotState
  | empty
  | active
  | replacing
  | retiring
  | quiet
  deriving DecidableEq, Repr

/-- A key slot (R364, R367, R368, R380): kind, owners, key, generation, standby key of generation + 1, the key of the generation
before while a command still uses it, highest SEQ sealed and accepted in the current generation and in the one before, Tr. -/
structure KeySlot where
  state   : SlotState
  kind    : Nat
  vat     : Nat
  ctx     : Nat
  key     : List Byte
  gen     : Nat
  standby : Option (List Byte)
  old     : Option (List Byte)
  seqOut  : Nat
  seqIn   : Nat
  oldOut  : Nat
  oldIn   : Nat
  retire  : Option Nat
  deriving DecidableEq, Repr

def KeySlot.none : KeySlot where
  state := .empty
  kind := 0
  vat := 0
  ctx := 0
  key := []
  gen := 0
  standby := Option.none
  old := Option.none
  seqOut := 0
  seqIn := 0
  oldOut := 0
  oldIn := 0
  retire := Option.none

/-- A vat secret with its `OWNER_TAG` and signer list (R373, R375). -/
structure VatSecret where
  secret  : List Byte
  tag     : List Byte
  signers : List (List Byte)
  deriving DecidableEq, Repr

/-- What a Wash covers (R384). -/
inductive WashKind
  | vat (v : Nat)
  | ctx (c : Nat)
  | frames
  deriving DecidableEq, Repr

/-- A Wash (R384, R385): t0, W, the slots, the HBM frames (stack × 1,430 + frame), the cave frames, pattern writes begun. -/
structure Wash where
  kind    : WashKind
  start   : Nat
  span    : Nat
  slots   : List Nat
  frames  : List Nat
  cave    : List Nat
  pattern : Bool
  deriving DecidableEq, Repr

/-- The key vaults (14). The two vaults hold one table (R369); `inStep0` and `inStep1` tell which vault holds it. -/
structure KeyVault where
  slots     : SMap KeySlot
  secrets   : SMap VatSecret
  sls       : Option (List Byte × List Byte)
  nonce     : List Byte
  ek        : List Byte
  dk        : List Byte
  inStep0   : Bool
  inStep1   : Bool
  reqBus    : Nat
  reqOp     : Nat
  busy      : Bool
  status    : Nat
  arg       : Nat
  result    : Nat
  answer    : Option (Nat × Nat)
  sideReq   : Option (List Byte)
  report    : Option (List Byte)
  epoch     : Nat
  epochNext : Nat
  switchNext : Nat
  pendSwitch : Option (Nat × Nat)
  lifecycle : Nat
  verifyFail : Nat
  extended  : Nat
  washes    : SMap Wash
  deriving DecidableEq, Repr

/-- A domain reset in progress (R396): kind, index, cause, fence Tick, drained, dump written, dump cut short. -/
structure DomReset where
  kind    : Nat
  index   : Nat
  cause   : Nat
  fence   : Nat
  drained : Bool
  dumped  : Bool
  deriving DecidableEq, Repr

/-- A fault log entry (R415). -/
structure LogEnt where
  enable   : Bool
  log2     : Nat
  vat      : Nat
  bus      : Nat
  producer : Nat
  consumer : Nat
  lost     : Nat
  deriving DecidableEq, Repr

def LogEnt.zero : LogEnt := ⟨false, 0, 0, 0, 0, 0, 0⟩

/-- The FLT block and the domain resets (15). -/
structure Faults where
  reqKind  : Nat
  reqIndex : Nat
  lastCause : Nat
  refused  : Bool
  lastTick : Nat
  dumpBus  : Nat
  dumpLen  : Nat
  dumpSeq  : Nat
  stalls   : Nat
  hangs    : Nat
  cmdHangs : Nat
  replays  : Nat
  logs     : SMap LogEnt
  resets   : List DomReset
  deriving DecidableEq, Repr

/-- What a journal record holds (R456). -/
inductive JData
  | boot (count tick : Nat) (measure : List Byte)
  | intent (state : Nat)
  | done (state : Nat)
  | retireCore (core cause : Nat)
  | retireSlice (slice cause : Nat)
  | retireRouter (router : Nat)
  | error (core : Bool) (unit kind tick : Nat)
  | routerError (router tick : Nat)
  | trim (v : Nat)
  | cal (bytes : List Byte)
  | meter (bytes : List Byte)
  | meterAck (upto : Nat)
  | tamper (cause tick : Nat)
  | svn (floor : Nat)
  deriving DecidableEq, Repr

/-- A committed journal record (R456, R457). -/
structure JRec where
  jseq : Nat
  data : JData
  deriving DecidableEq, Repr

/-- A bank of a journal (R455). -/
structure JBank where
  epoch : Nat
  valid : Bool
  recs  : List JRec
  deriving DecidableEq, Repr

/-- A journal: two banks (R455). -/
structure Journal where
  a : JBank
  b : JBank
  deriving DecidableEq, Repr

/-- A formatted journal with no record (PRESUMED, log entry 6). -/
def Journal.blank : Journal := ⟨⟨1, true, []⟩, ⟨0, false, []⟩⟩

/-- The fuse bank (R439): the copies of each lifecycle bit burnt, and the burnt bits of MIN_SVN. -/
structure Fuses where
  root       : List Byte
  programmed : Bool
  ripe       : List Bool
  opened     : List Bool
  spent      : List Bool
  senior     : Bool
  minSvn     : Nat
  deriving DecidableEq, Repr

/-- Boot states with the values of `BOOT_STATE` (R460). -/
inductive BootState
  | preparing
  | awaitStarter
  | verifying
  | starting
  | ready
  | failed
  deriving DecidableEq, Repr

/-- Boot and lifecycle registers (R441, R460) with the stage, the running Starter's SVN, the parameter block read and the number of
the last metering record written, the length of the Starter's body and its header. -/
structure Boot where
  state     : BootState
  error     : Nat
  ifaceReq  : Nat
  iface     : Nat
  bus       : Nat
  len       : Nat
  param     : Nat
  count     : Nat
  measure   : List Byte
  failedPorts : Nat
  full      : Bool
  degraded  : Bool
  lcResult  : Nat
  lcReq     : Nat
  lcConfirm : Nat
  lcAuth    : Nat
  stage     : Nat
  svn       : Nat
  params    : List Byte
  bringup   : Nat
  meterTop  : Nat
  image     : Nat
  head      : List Byte
  deriving DecidableEq, Repr

/-- The WS fields of the PWR block (R436). -/
structure PwrCfg where
  cap      : Nat
  gear     : Nat
  boost    : Bool
  fixed    : Bool
  throttle : Nat
  restMax  : Nat
  deriving DecidableEq, Repr

def PwrCfg.reset : PwrCfg := ⟨3000, 64, false, false, 95, 16⟩

/-- A calibration record (R419). -/
structure CalRec where
  tag    : Nat
  gear   : Nat
  vcal   : Nat
  tick   : Nat
  statDw : Nat
  statTc : Nat
  weight : List Nat
  deriving DecidableEq, Repr

/-- A gear request as last sent (R427). -/
structure GearMsg where
  gear  : Nat
  fixed : Bool
  hot   : Bool
  drop  : Bool
  deriving DecidableEq, Repr

/-- Cellar states with the values of `CELLAR_STATE` (R436). -/
inductive Cellar
  | awake
  | entering
  | cellar
  | waking
  deriving DecidableEq, Repr

/-- Power and thermal control (16): `throttleC` is the `THROTTLE_C` in force since the last update. Powers are in W, energies in µJ, exact. -/
structure Power where
  shadow    : PwrCfg
  active    : PwrCfg
  floorShad : SMap Nat
  floorNext : SMap Nat
  floorAct  : SMap Nat
  ests      : List Frac
  est       : Frac
  dyn       : Frac
  cls       : Nat
  rest      : Nat
  atMax     : Nat
  atZero    : Nat
  halve     : Bool
  wantLower : Bool
  standing  : Option GearMsg
  beforeHot : Option GearMsg
  refit     : Bool
  unmet     : Bool
  conflict  : Bool
  hotSeen   : Bool
  throttled : Bool
  stale     : Bool
  guardOn   : Bool
  firstCal  : Bool
  frameLow  : Option Nat
  throttleC : Nat
  cals      : SMap CalRec
  trims     : SMap Nat
  therm     : Nat
  temps     : Temps
  coolFrom  : Option Nat
  cellar    : Cellar
  cellarNo  : Bool
  cellarAt  : Nat
  energy    : Frac
  unattr    : Frac
  setpoints : SMap Nat
  partW     : SMap Nat
  tenantW   : SMap Nat
  window    : SMap Frac
  whey      : SMap (Nat × Nat)
  deriving DecidableEq, Repr

/-- A CXL port (R479). -/
structure CxlPort where
  state  : Nat
  width  : Nat
  rate   : Nat
  enable : Bool
  ce     : Nat
  poison : Nat
  deriving DecidableEq, Repr

def CxlPort.off : CxlPort := ⟨0, 0, 0, false, 0, 0⟩

/-- A device slot of a CXL port (R479). -/
structure CxlDev where
  pool     : Nat
  kind     : Nat
  state    : Nat
  serial   : Nat
  dcBytes  : Nat
  rejected : Nat
  deriving DecidableEq, Repr

def CxlDev.absent : CxlDev := ⟨0xFFFF, 0, 0, 0, 0, 0⟩

/-- The capability table as last written (R474): the fields that change, the rewrites, the Aux peers. -/
structure Cap where
  seq    : Nat
  fields : List Nat
  aux0   : Nat
  aux1   : Nat
  deriving DecidableEq, Repr

/-- The sixteen states of the TAP controller of IEEE 1149.1 (R494). -/
inductive TapState
  | reset
  | idle
  | selDr
  | capDr
  | shiftDr
  | exit1Dr
  | pauseDr
  | exit2Dr
  | updDr
  | selIr
  | capIr
  | shiftIr
  | exit1Ir
  | pauseIr
  | exit2Ir
  | updIr
  deriving DecidableEq, Repr

/-- Pins and the test port (R487, R490 to R494, R500): the reset inputs, sampled straps, tamper arming, THERMTRIP_N driven low,
VCORE_EN, VCORE rails that have reached their setpoint, VBYP in its band, the TAP with its bypass bit, bits shifted into the
instruction register and whether BYPASS is the instruction. -/
structure Pins where
  pwrgd   : Bool
  perstN  : Bool
  straps  : Nat
  armed   : Bool
  trip    : Bool
  vcoreEn : List Bool
  atSet   : List Bool
  vbyp    : Bool
  tap     : TapState
  bypass  : Bool
  irBits  : List Bool
  isByp   : Bool
  tdo     : Option Bool
  deriving DecidableEq, Repr

/-- The sideband endpoint (R480 to R482): its EID. -/
structure Sideband where
  eid : Nat
  deriving DecidableEq, Repr

/-- A message the package sends (R145, R288, R289, R428, R482): kind, destination, numbers, bytes. -/
structure Msg where
  kind : String
  dest : Nat
  args : List Nat
  body : List Byte
  deriving DecidableEq, Repr

end Sys2Proof.Machine
end

