-- ==== Sys2Proof/Machine/State.lean ====
section
/-! DEFINITION. The state of one package, the reasons a step can stop, the state after reset. -/

namespace Sys2Proof.Machine

/-- Why a step stops with a fault. -/
inductive Fault
  /-- Raised by a register write or read at an offset outside BAR0 of the PF and of the 63 VFs (R464): no register of the package
  stands there. Safe: the model stops where no access reaches the package. -/
  | outsideBar0
  deriving DecidableEq, Repr

/-- Why a command has no meaning. -/
inductive Refusal
  /-- Raised by an arm of `exec` for a command the model does not give a meaning yet. Safe: nothing is claimed of it. -/
  | notModelled (mnemonic : String)
  deriving DecidableEq, Repr

/-- The state of one package. -/
structure State where
  /-- The commands that wait, first in, first out (the model's own). -/
  pending : List Instr
  /-- How many free values have been drawn (the model's own). -/
  fresh : Nat
  /-- Host memory as the device reaches it by bus address; unlisted bytes read 0 (the model's own). -/
  host : List Host.Cell
  /-- The messages the package has sent, oldest first (the model's own). -/
  out : List Msg
  /-- The MSI-X messages sent: function and vector, oldest first (R471). -/
  msix : List (Nat × Nat)
  /-- What the last register read returned (the model's own). -/
  readData : Nat
  /-- Low words written and not yet combined, by BAR0 offset (R4). -/
  lowHeld : SMap Nat
  /-- High words a low-word read latched, by BAR0 offset (R4). -/
  highHeld : SMap Nat
  /-- The last 256 events (R145, R405). -/
  events : List Event
  /-- Sequence numbers of the event sources (R145). -/
  seqs : SMap Nat
  /-- The Tick unit and clock controller (06). -/
  tick : TickUnit
  /-- The gear group at its time master (R149, R427). -/
  gears : GearMaster
  /-- The routers (R154 to R163). -/
  routers : SMap Router
  /-- Soanduo Link (07). -/
  links : Links
  /-- The 544 physical cores (04). -/
  cores : SMap Core
  /-- The vats the package holds, by vat ID (10). -/
  vats : SMap Vat
  /-- What the roles of the package in each vat keep (10, 12, 15). -/
  roles : SMap VatRole
  /-- Slices, HBM and caves (08). -/
  mem : MemTier
  /-- Translation and fault batches (08). -/
  xl : Xlate
  /-- Contexts, queues, commands, fences, memory objects (11). -/
  objs : HostObjs
  /-- Quality of service (12). -/
  qos : Qos
  /-- The control complexes (13). -/
  cc : Complexes
  /-- The key vaults (14). -/
  keys : KeyVault
  /-- Faults and domain resets (15). -/
  flt : Faults
  /-- Power and thermal control (16). -/
  power : Power
  /-- The fuse bank (R439). -/
  fuses : Fuses
  /-- The journal of half 0 (R455). -/
  j0 : Journal
  /-- The journal of half 1 (R455). -/
  j1 : Journal
  /-- Boot and lifecycle registers (17). -/
  boot : Boot
  /-- The host port (18). -/
  hp : HostPort
  /-- The CXL ports (R479). -/
  cxlPorts : SMap CxlPort
  /-- Their device slots, by port × 8 + slot (R479). -/
  cxlDevs : SMap CxlDev
  /-- The capability table (R474). -/
  cap : Cap
  /-- The management sideband (R480). -/
  side : Sideband
  /-- Pins and test port (19). -/
  pins : Pins
  deriving DecidableEq, Repr

def State.onPending (s : State) (f : List Instr → List Instr) : State := { s with pending := f s.pending }
def State.onFresh (s : State) (f : Nat → Nat) : State := { s with fresh := f s.fresh }
def State.onHost (s : State) (f : List Host.Cell → List Host.Cell) : State := { s with host := f s.host }
def State.onOut (s : State) (f : List Msg → List Msg) : State := { s with out := f s.out }
def State.onMsix (s : State) (f : List (Nat × Nat) → List (Nat × Nat)) : State := { s with msix := f s.msix }
def State.onReadData (s : State) (f : Nat → Nat) : State := { s with readData := f s.readData }
def State.onLowHeld (s : State) (f : SMap Nat → SMap Nat) : State := { s with lowHeld := f s.lowHeld }
def State.onHighHeld (s : State) (f : SMap Nat → SMap Nat) : State := { s with highHeld := f s.highHeld }
def State.onEvents (s : State) (f : List Event → List Event) : State := { s with events := f s.events }
def State.onSeqs (s : State) (f : SMap Nat → SMap Nat) : State := { s with seqs := f s.seqs }
def State.onTick (s : State) (f : TickUnit → TickUnit) : State := { s with tick := f s.tick }
def State.onGears (s : State) (f : GearMaster → GearMaster) : State := { s with gears := f s.gears }
def State.onRouters (s : State) (f : SMap Router → SMap Router) : State := { s with routers := f s.routers }
def State.onLinks (s : State) (f : Links → Links) : State := { s with links := f s.links }
def State.onCores (s : State) (f : SMap Core → SMap Core) : State := { s with cores := f s.cores }
def State.onVats (s : State) (f : SMap Vat → SMap Vat) : State := { s with vats := f s.vats }
def State.onRoles (s : State) (f : SMap VatRole → SMap VatRole) : State := { s with roles := f s.roles }
def State.onMem (s : State) (f : MemTier → MemTier) : State := { s with mem := f s.mem }
def State.onXl (s : State) (f : Xlate → Xlate) : State := { s with xl := f s.xl }
def State.onObjs (s : State) (f : HostObjs → HostObjs) : State := { s with objs := f s.objs }
def State.onQos (s : State) (f : Qos → Qos) : State := { s with qos := f s.qos }
def State.onCc (s : State) (f : Complexes → Complexes) : State := { s with cc := f s.cc }
def State.onKeys (s : State) (f : KeyVault → KeyVault) : State := { s with keys := f s.keys }
def State.onFlt (s : State) (f : Faults → Faults) : State := { s with flt := f s.flt }
def State.onPower (s : State) (f : Power → Power) : State := { s with power := f s.power }
def State.onFuses (s : State) (f : Fuses → Fuses) : State := { s with fuses := f s.fuses }
def State.onJ0 (s : State) (f : Journal → Journal) : State := { s with j0 := f s.j0 }
def State.onJ1 (s : State) (f : Journal → Journal) : State := { s with j1 := f s.j1 }
def State.onBoot (s : State) (f : Boot → Boot) : State := { s with boot := f s.boot }
def State.onHp (s : State) (f : HostPort → HostPort) : State := { s with hp := f s.hp }
def State.onCxlPorts (s : State) (f : SMap CxlPort → SMap CxlPort) : State := { s with cxlPorts := f s.cxlPorts }
def State.onCxlDevs (s : State) (f : SMap CxlDev → SMap CxlDev) : State := { s with cxlDevs := f s.cxlDevs }
def State.onCap (s : State) (f : Cap → Cap) : State := { s with cap := f s.cap }
def State.onSide (s : State) (f : Sideband → Sideband) : State := { s with side := f s.side }
def State.onPins (s : State) (f : Pins → Pins) : State := { s with pins := f s.pins }

/-- The Tick unit at reset (R164). -/
def TickUnit.reset : TickUnit where
  lock := .unlocked
  aligned := false
  count := 0
  frames := 0
  sinceFrm := none
  atFrame := false
  edges := false
  slip := false
  loadShad := 0
  pending := none
  alignLoad := none
  refused := false
  gear := 32
  armed := 0
  locking := none
  armVat := 0
  change := none
  lockLost := false
  lostAt := none
  prev := none
  back := none
  stretches := 0
  overrun := false
  lastOver := 0
  nStretch := 0
  nOverrun := 0
  nLoss := 0
  maxStr := 0
  voids := 0
  discards := 0
  fabCe := 0
  fabUe := 0

def GearMaster.reset : GearMaster := ⟨[], 0, 0, [], false, none⟩

/-- The LINK block at reset (R198): every port Off, every by-pass pair closed. -/
def Links.reset : Links where
  node := 0
  root := false
  tx := 16
  ty := 16
  tz := 40
  stalls := 0
  denies := 0
  open' := 0
  pairs := 0
  moving := []
  ports := []
  mcIn := []
  mcOut := []
  mcTags := []
  own := []
  turns := []
  winShad := []
  winAct := []

def MemTier.reset : MemTier where
  cells := []
  keys := []
  keyTags := []
  frames := []
  extents := []
  stackSet := []
  sliceCe := []
  sliceUe := []
  copies := []
  retired := []
  refresh := []
  curd := []
  hbmOut := []

def Xlate.reset : Xlate where
  cache := []
  ringBase := 0
  ringLog := 0
  enable := false
  producer := 0
  done := 0
  timeouts := 0
  walks := 0
  openEnts := []
  openTick := 0
  closed := []
  slots := []
  pos := 0

def HostObjs.reset : HostObjs where
  ctxs := []
  queues := []
  doors := []
  cmds := []
  fences := []
  objs := []
  gens := []
  freeIdx := []
  nextIdx := 0
  bias := []
  swaps := 0
  adminSq := 0
  adminCq := 0
  adminSqL := 0
  adminCqL := 0
  adminEn := false

/-- The QOS fields at reset (R335, R336). -/
def QosCfg.reset : QosCfg where
  prio := [0, 1, 2, 3, 4, 5, 0, 7]
  bursts := 3
  kvLead := 2500
  waitLimit := [0, 0, 0, 0, 0, 0, 0, 0]
  congHi := [192, 192, 192]
  congLo := [128, 128, 128]
  vats := List.replicate 8 (false, 0, 0)
  parts := []
  ctxPart := []

def Qos.reset : Qos where
  shadow := QosCfg.reset
  active := QosCfg.reset
  funcShad := []
  funcAct := []
  refused := false
  missed := false
  missedKv := 0
  missedWt := 0
  buckets := []
  arbs := []
  streams := 0
  congested := []
  overruns := []

def Complexes.reset : Complexes := ⟨Cplx.off, Cplx.off, false, false, false, false, []⟩

/-- The key vaults at reset: every slot Empty (R391, R393). -/
def KeyVault.reset : KeyVault where
  slots := []
  secrets := []
  sls := none
  nonce := []
  ek := []
  dk := []
  inStep0 := true
  inStep1 := true
  reqBus := 0
  reqOp := 0
  busy := false
  status := 0
  arg := 0
  result := 0
  answer := none
  sideReq := none
  report := none
  epoch := 0
  epochNext := 0
  switchNext := 0
  pendSwitch := none
  lifecycle := 0
  verifyFail := 0
  extended := 0
  washes := []

def Faults.reset : Faults where
  reqKind := 0
  reqIndex := 0
  lastCause := 0
  refused := false
  lastTick := 0
  dumpBus := 0
  dumpLen := 0
  dumpSeq := 0
  stalls := 0
  hangs := 0
  cmdHangs := 0
  replays := 0
  logs := []
  resets := []

/-- The PWR block at reset (R436). No sensor has been read. -/
def Power.reset : Power where
  shadow := PwrCfg.reset
  active := PwrCfg.reset
  floorShad := []
  floorNext := []
  floorAct := []
  ests := []
  est := Frac.zero
  dyn := Frac.zero
  cls := 0
  rest := 0
  atMax := 0
  atZero := 0
  halve := false
  wantLower := false
  standing := none
  beforeHot := none
  refit := false
  unmet := false
  conflict := false
  hotSeen := false
  throttled := false
  stale := false
  guardOn := false
  firstCal := false
  frameLow := none
  throttleC := 95
  cals := []
  trims := []
  therm := 0
  temps := ⟨[], [], []⟩
  coolFrom := none
  cellar := .awake
  cellarNo := false
  cellarAt := 0
  energy := Frac.zero
  unattr := Frac.zero
  setpoints := []
  partW := []
  tenantW := []
  window := []
  whey := []

/-- A part whose fuses are unburnt (PRESUMED, log entry 6): Green under R440. -/
def Fuses.blank : Fuses where
  root := zeros 32
  programmed := false
  ripe := [false, false, false]
  opened := [false, false, false]
  spent := [false, false, false]
  senior := false
  minSvn := 0

/-- The BOOT block at reset (R460); stage 0 is the package held in reset. -/
def Boot.reset : Boot where
  state := .preparing
  error := 0
  ifaceReq := 0x0100
  iface := 0
  bus := 0
  len := 0
  param := 0
  count := 0
  measure := zeros 32
  failedPorts := 0
  full := false
  degraded := false
  lcResult := 0
  lcReq := 0
  lcConfirm := 0
  lcAuth := 0
  stage := 0
  svn := 0
  params := []
  bringup := 0
  meterTop := 0
  image := 0
  head := zeros 256

def HostPort.reset : HostPort where
  rate := 0
  width := 0
  flit := false
  below := false
  ce := 0
  ue := 0
  resets := 0
  numVfs := 0
  funcs := []
  posted := []

def Cap.reset : Cap := ⟨0, [], 0xFFFF, 0xFFFF⟩

/-- The pins at power-on (PRESUMED, log entry 6): PWRGD and PERST_N low, every core rail off (R487), the TAP in Test-Logic-Reset. -/
def Pins.reset : Pins where
  pwrgd := false
  perstN := false
  straps := 0
  armed := false
  trip := false
  vcoreEn := [false, false, false, false]
  atSet := [false, false, false, false]
  vbyp := true
  tap := .reset
  bypass := false
  irBits := []
  isByp := true
  tdo := none

/-- The package right after reset, held by PWRGD and PERST_N, with blank fuses and journals. -/
def State.reset : State where
  pending := []
  fresh := 0
  host := []
  out := []
  msix := []
  readData := 0
  lowHeld := []
  highHeld := []
  events := []
  seqs := []
  tick := TickUnit.reset
  gears := GearMaster.reset
  routers := []
  links := Links.reset
  cores := []
  vats := []
  roles := []
  mem := MemTier.reset
  xl := Xlate.reset
  objs := HostObjs.reset
  qos := Qos.reset
  cc := Complexes.reset
  keys := KeyVault.reset
  flt := Faults.reset
  power := Power.reset
  fuses := Fuses.blank
  j0 := Journal.blank
  j1 := Journal.blank
  boot := Boot.reset
  hp := HostPort.reset
  cxlPorts := []
  cxlDevs := []
  cap := Cap.reset
  side := ⟨0⟩
  pins := Pins.reset

end Sys2Proof.Machine
end

