-- ==== Sys2Proof/Machine/Arbs.lean ====
section
/-! DEFINITION. Whey arbiters, regulators and congestion (R325 to R330). Arbiters are numbered stack × 32 + channel, then 512 + 2 × CXL
port + direction, then 520 + direction for the host port; direction 0 reads, 1 writes. -/

namespace Sys2Proof.Machine
open Sys2Proof

/-- The kind of a congestion instance: 0 HBM, 1 CXL, 2 host. -/
def congKind (i : Nat) : Nat := if i < 16 then 0 else if i < 20 then 1 else 2

/-- The congestion instance of an arbiter (R329). -/
def arbInstance (a : Nat) : Nat := if a < 512 then a / 32 else if a < 520 then 16 + (a - 512) / 2 else 20

/-- Bursts of a request at its arbiter, and all that it has left. -/
def ArbReq.waiting (r : ArbReq) : Nat := (r.here.map (·.2)).sum
def ArbReq.left (r : ArbReq) : Nat := r.held + r.waiting

/-- The command whose context a request counts for. -/
def ArbWork.ref : ArbWork → Option CmdRef
  | .command r => some r
  | .walk r _ _ _ => some r
  | .output r => some r
  | _ => none

/-- The command a request belongs to, if any. -/
def ArbReq.ref (r : ArbReq) : Option CmdRef := r.work.ref

/-- The whey requests queued at an instance, over all channels of a stack (R329): each burst at a channel is a request of its own (R325). -/
def Qos.level (q : Qos) (i : Nat) : Nat :=
  ((q.arbs.filter fun a => decide (arbInstance a.1 = i)).map fun a =>
    if a.1 < 512 then (a.2.queue.map ArbReq.waiting).sum else (a.2.queue.filter fun r => decide (r.here ≠ [])).length).sum

/-- CONGESTION_SAMPLE (R329). -/
def Qos.sample (q : Qos) : Qos :=
  { q with congested := (List.range 21).filter fun i =>
      let n := q.level i
      let k := congKind i
      if nth 192 q.active.congHi k ≤ n then true else if n ≤ nth 128 q.active.congLo k then false else q.congested.contains i }

/-- `RATE` and `DEPTH` of a partition for a kind of resource (R336). -/
def PartCfg.bucket (p : PartCfg) (k : Nat) : Nat × Nat :=
  if k = 0 then (p.rateHbm, p.depthHbm) else if k = 1 then (p.rateCxl, p.depthCxl) else (p.rateHost, p.depthHost)

/-- REGULATOR_REFILL (R330): buckets hold sixteenths of a burst under partition × 3 + kind. -/
def Qos.refill (q : Qos) : Qos :=
  { q with buckets := (List.range 48).foldl (fun m i =>
      let b := (mapGet PartCfg.reset q.active.parts (i / 3)).bucket (i % 3)
      mapSet 0 m i (min (mapGet 0 m i + b.1) (16 * b.2))) q.buckets }

/-- The classes the regulators act on (R330). -/
def regulated (cls : Nat) : Bool := decide (1 ≤ cls ∧ cls ≤ 5)

/-- The bursts of a request that its instance's queue, which holds 256 requests, has a place for (R329). -/
def Qos.room (q : Qos) (a : Nat) (r : ArbReq) : Nat :=
  let free := 256 - q.level (arbInstance a)
  if a < 512 then min r.held free else if r.here = [] ∧ free = 0 then 0 else r.held

/-- The bursts of a request that leave their source now: as many as find a place; those of classes 1 to 5 of a command only as its bucket allows while the instance is Congested (R330). What came over the
fabric has left its source before. -/
def Qos.leaving (q : Qos) (a : Nat) (r : ArbReq) : Nat :=
  if regulated r.cls && r.ref.isSome && q.congested.contains (arbInstance a) then
    min (q.room a r) (mapGet 0 q.buckets (3 * r.part + congKind (arbInstance a)) / 16)
  else q.room a r

/-- Release the bursts of one request at a Tick, debiting its bucket (R330); `part` is the partition now in force for a command's context
(R338). -/
def Qos.releaseOne (q : Qos) (part : Nat → Nat) (now a : Nat) (r : ArbReq) : Qos :=
  let r := { r with part := (r.ref.map fun k => part k.ctx).getD r.part }
  let n := q.leaving a r
  let k := 3 * r.part + congKind (arbInstance a)
  let have_ := mapGet 0 q.buckets k
  let r := if n = 0 then r else { r with held := r.held - n, here := r.here ++ [(now, n)] }
  { q with
    buckets := if regulated r.cls && r.ref.isSome then mapSet 0 q.buckets k (have_ - 16 * min n (have_ / 16)) else q.buckets
    arbs := mapModify q.arbs a fun x => { x with queue := x.queue.map fun y => if y.stream = r.stream then r else y } }

/-- Requests with their arbiters in order of their stream numbers. -/
def insertReq (e : Nat × ArbReq) : List (Nat × ArbReq) → List (Nat × ArbReq)
  | [] => [e]
  | x :: l => if e.2.stream < x.2.stream then e :: x :: l else x :: insertReq e l

/-- The requests with bursts at their source, in the order they were made. -/
def Qos.atSource (q : Qos) : List (Nat × ArbReq) :=
  ((q.arbs.flatMap fun a => a.2.queue.map fun r => (a.1, r)).filter fun e => decide (e.2.held ≠ 0)).foldr insertReq []

/-- Release what may leave its source, request by request; a burst that waits holds back the later ones of its own command (R330). -/
def Qos.releaseAll (part : Nat → Nat) (now : Nat) : List (Nat × ArbReq) → List CmdRef → Qos → Qos
  | [], _, q => q
  | (a, r) :: l, stuck, q =>
    if r.ref.any fun k => stuck.contains k then Qos.releaseAll part now l stuck q
    else
      let u := q.releaseOne part now a r
      let waits := (mapGet Arbiter.empty u.arbs a).queue.any fun y => decide (y.stream = r.stream ∧ y.held ≠ 0)
      Qos.releaseAll part now l (if waits then r.ref.toList ++ stuck else stuck) u

def Qos.release (q : Qos) (part : Nat → Nat) (now : Nat) : Qos := Qos.releaseAll part now q.atSource [] q

/-- Enter a request of `n` bursts at an arbiter, at its source. -/
def Qos.request (q : Qos) (a cls part n : Nat) (w : ArbWork) : Qos :=
  if n = 0 then q else
  let x := mapGet Arbiter.empty q.arbs a
  { q with
    streams := q.streams + 1,
    arbs := mapSet Arbiter.empty q.arbs a { x with queue := x.queue ++ [⟨q.streams, cls, part, w, n, [], 0⟩] } }

/-- Enter a request of a class the regulators do not act on: it leaves its source at once where its queue has a place. -/
def Qos.enter (q : Qos) (now a cls n : Nat) (w : ArbWork) : Qos :=
  let u := q.request a cls 0 n w
  (u.atSource.filter fun e => decide (e.2.stream = q.streams)).foldl (fun u e => u.releaseOne (fun _ => 0) now e.1 e.2) u

/-- The bursts of what `p` selects that have not been granted. -/
def Qos.leftOf (q : Qos) (p : ArbWork → Bool) : Nat :=
  (q.arbs.map fun a => ((a.2.queue.filter fun r => p r.work).map ArbReq.left).sum).sum

/-- The bursts that a command still waits for. -/
def Qos.burstsOf (q : Qos) (ref : CmdRef) : Nat := q.leftOf fun w => decide (w = .command ref)

/-- The requests that `p` selects go. -/
def Qos.drop (q : Qos) (p : ArbWork → Bool) : Qos :=
  let keep := fun (x : Arbiter) => { x with queue := x.queue.filter fun r => !p r.work }
  { q with arbs := (q.arbs.map fun a => (a.1, keep a.2)).filter fun a => decide (a.2 ≠ Arbiter.empty) }

/-- The requests of a command that has ended go. -/
def Qos.dropReqs (q : Qos) (ref : CmdRef) : Qos := q.drop fun w => decide (w.ref = some ref ∧ w ≠ .output ref)

/-- The arrival Tick of a request's head burst. -/
def ArbReq.headTick (r : ArbReq) : Nat := (r.here.head?.map (·.1)).getD 0

/-- The request of a list whose head burst arrived first; of equals the first listed. -/
def earliest : List ArbReq → Option ArbReq
  | [] => none
  | r :: rs => some (rs.foldl (fun b x => if x.headTick < b.headTick then x else b) r)

/-- The head burst of a class (R325). -/
def Arbiter.headOf (x : Arbiter) (c : Nat) : Option ArbReq := earliest (x.queue.filter fun r => decide (r.cls = c ∧ r.here ≠ []))

/-- The heads of the classes other than 6, in ascending class order. -/
def Arbiter.heads (x : Arbiter) : List ArbReq := ([0, 1, 2, 3, 4, 5, 7] : List Nat).filterMap x.headOf

/-- The class of equal `PRIO` whose turn it is: ascending, starting after the one granted last (R326). -/
def turnOf (last : Nat) (cs : List Nat) : Option Nat :=
  ((List.range 8).map fun i => (last + 1 + i) % 8).find? fun c => cs.contains c

/-- The burst a decision grants (R326). -/
def Arbiter.decide? (x : Arbiter) (prio : List Nat) : Option ArbReq :=
  match x.headOf 6 with
  | some r => some r
  | none =>
    if (x.grants + 1) % 8 = 0 then earliest x.heads
    else
      let top := maxNat (x.heads.map fun r => nth 0 prio r.cls)
      let cs := (x.heads.filter fun r => Nat.beq (nth 0 prio r.cls) top).map (·.cls)
      (turnOf (mapGet 7 x.last top) cs).bind x.headOf

/-- A request after one of its bursts has been granted. -/
def ArbReq.took (r : ArbReq) : ArbReq :=
  { r with
    here := match r.here with
      | [] => []
      | (t, n) :: l => if n ≤ 1 then l else (t, n - 1) :: l
    late := r.late - 1 }

/-- The grant of a request's head burst: a stream keeps its grant for up to `GRANT_BURSTS` + 1 bursts at a CXL or host port; a new
grant to a class other than 6 is counted (R326, R327; DESIGN CHOICE, log entry 39). -/
def Arbiter.grant (x : Arbiter) (a : Nat) (prio : List Nat) (bursts : Nat) (r : ArbReq) : Arbiter :=
  let r' := r.took
  let goes := x.holder.any fun h => Nat.beq h.1 r.stream
  let more := if goes then (x.holder.map (·.2)).getD 0 - 1 else bursts
  { queue := (x.queue.map fun y => if y.stream = r.stream then r' else y).filter fun y => decide (y.left ≠ 0)
    holder := if a < 512 ∨ more = 0 ∨ r'.left = 0 then none else some (r.stream, more)
    grants := if goes ∨ r.cls = 6 then x.grants else x.grants + 1
    last := if r.cls = 6 then x.last else mapSet 7 x.last (nth 0 prio r.cls) r.cls }

/-- The stream a decision takes the grant from: a holder that was not chosen, with bursts left (R327). -/
def Arbiter.revoked (x : Arbiter) (r : ArbReq) : Option ArbReq :=
  match x.holder with
  | some h => if h.1 = r.stream then none else x.queue.find? fun y => decide (y.stream = h.1)
  | none => none

/-- The requests a piece of memory asks of the arbiters, in the order of its addresses: (arbiter, bursts). An HBM request is one burst of
256 bytes at the channel that holds it (R207, R325), one at a CXL port a stream; a slice has no arbiter. -/
def pieceBursts (write : Bool) (a n : Nat) : List (Nat × Nat) :=
  if n = 0 then []
  else if a < 2 ^ 40 then
    (List.range ((a + n - 1) / 256 + 1 - a / 256)).map fun i => (a / 2 ^ 36 * 32 + (a / 256 + i) % 32, 1)
  else if 2 ^ 48 ≤ a ∧ a < 2 ^ 49 then
    [(512 + 2 * ((a - 2 ^ 48) / 2 ^ 42) + b2n write, (a + n - 1) / 256 + 1 - a / 256)]
  else []

/-- The units of 256 bytes of a range of a stack that fall on a channel (R207). -/
def channelUnits (a n c : Nat) : Nat :=
  let u := a / 256
  let k := if n = 0 then 0 else (a + n - 1) / 256 + 1 - u
  k / 32 + (if (c + 32 - u % 32) % 32 < k % 32 then 1 else 0)

/-- The requests of an engine for a range, channel by channel: (arbiter, bursts). -/
def bulkBursts (write : Bool) (a n : Nat) : List (Nat × Nat) :=
  if a < 2 ^ 40 then (List.range 32).map fun c => (a / 2 ^ 36 * 32 + c, channelUnits (a % 2 ^ 36) n c) else pieceBursts write a n

/-- Enter an engine's requests for a range. -/
def Qos.bulk (q : Qos) (now cls : Nat) (write : Bool) (a n : Nat) (w : ArbWork) : Qos :=
  (bulkBursts write a n).foldl (fun q b => q.enter now b.1 cls b.2 w) q

/-- The bursts of host memory a command asks for. -/
def hostBursts (write : Bool) (n : Nat) : List (Nat × Nat) := [(520 + b2n write, ceilDiv n 256)]

end Sys2Proof.Machine
end

