-- ==== Sys2Proof/Machine/Ops.lean ====
section
/-! DEFINITION. The named operations on memory, events, messages, interrupts, keys, journals and fault logs that the meanings
share. -/

namespace Sys2Proof.Machine
open Sys2Proof

/-! ### Sparse byte memories -/

/-- A sparse byte memory: addresses rising, no entry 0, the value an unlisted address reads as (DESIGN CHOICE, log entry 4). -/
abbrev Memory := List Host.Cell

def Memory.get (m : Memory) (a : Nat) : Byte := mapGet 0 m a

def Memory.set (m : Memory) (a : Nat) (b : Byte) : Memory := mapSet 0 m a b

/-- `n` bytes from an address on. -/
def Memory.read (m : Memory) (a n : Nat) : List Byte := (List.range n).map fun i => Memory.get m (a + i)

/-- Write bytes from an address on. -/
def Memory.write : Memory → Nat → List Byte → Memory
  | m, _, [] => m
  | m, a, b :: bs => Memory.write (Memory.set m a b) (a + 1) bs

/-- Set `n` bytes from an address on to 0. -/
def Memory.clear (m : Memory) (a n : Nat) : Memory := m.filter fun c => !(decide (a ≤ c.1) && decide (c.1 < a + n))

/-- The canonical form. -/
def Memory.wf (m : Memory) : Bool := mapWf 0 m

/-! ### Clock, events, messages, interrupts -/

/-- The Tick Count. -/
def State.now (s : State) : Nat := s.tick.count

/-- Control traffic of the host port takes its bursts there in class 7; its effect does not wait for them (R319; DESIGN CHOICE, log entry 40). -/
def State.hostTraffic (s : State) (write : Bool) (n : Nat) : State :=
  s.onQos fun q => q.enter s.now (520 + b2n write) 7 (ceilDiv n 256) .traffic

/-- Traffic of a class in device memory takes its bursts; its effect does not wait for them (R319; DESIGN CHOICE, log entry 40). -/
def State.traffic (s : State) (cls : Nat) (write : Bool) (a n : Nat) : State := s.onQos fun q => q.bulk s.now cls write a n .traffic

/-- The 24-bit number of a local source (R144). -/
def State.source (s : State) (src : Nat) : Nat := s.links.node * 256 + src

/-- An event takes its place among those recorded: by Tick, then source, then sequence (R145). It is put behind every event of the same
Tick from its own or a lower source; events of other Ticks stay where they are. -/
def insertEvent (e : Event) (es : List Event) : List Event :=
  let after := es.reverse.takeWhile fun x => decide (x.tick = e.tick ∧ e.source < x.source)
  es.take (es.length - after.length) ++ e :: after.reverse

/-- Record an event of a local source (R145); the last 256 are kept. -/
def State.note (s : State) (src : Nat) (what : String) (arg : Nat) : State :=
  let q := mapGet 0 s.seqs src
  (s.onEvents fun es => insertEvent ⟨s.now, s.source src, q, what, arg⟩ (es.drop (es.length - 255))).onSeqs fun m => mapSet 0 m src ((q + 1) % 65536)

/-- Send a message. -/
def State.send (s : State) (kind : String) (dest : Nat) (args : List Nat) (body : List Byte) : State :=
  s.onOut fun o => o ++ [⟨kind, dest, args, body⟩]

/-- The host reaches the blocks other than BOOT (R441). -/
def State.served (s : State) : Bool := decide (s.boot.state = .ready)

/-- A function of the host port. -/
def State.func (s : State) (f : Nat) : Func := mapGet Func.reset s.hp.funcs f

def State.onFunc (s : State) (f : Nat) (g : Func → Func) : State :=
  s.onHp fun h => { h with funcs := mapSet Func.reset h.funcs f (g (mapGet Func.reset h.funcs f)) }

/-- A function answers accesses to its BAR0: it is not in D3hot (R465). -/
def State.barUp (s : State) (f : Nat) : Bool := !(s.func f).d3

/-- The host reaches the blocks of a function's BAR0 other than BOOT (R441, R465). -/
def State.barOpen (s : State) (f : Nat) : Bool := s.served && s.barUp f

/-- The host port resets: it carries no host transaction. -/
def State.hostDown (s : State) : Bool := s.flt.resets.any fun r => decide (r.kind = 7)

/-- The device may issue host requests for a function (R466). -/
def State.hostOpen (s : State) (f : Nat) : Bool := (s.func 0).bme && (s.func f).bme && !s.hostDown

/-- The host port after a training (R462, R463): its rate and width are free values, in service those of R462; one that settles elsewhere
holds the link there and says so. -/
def State.hostTrained (s : State) (inService : Bool) : State :=
  let f := fun (i : Nat) => Config.freeNat (s.fresh + i)
  let rate := if inService then 5 + f 0 % 3 else 1 + f 0 % 7
  let width := if inService then 8 + 8 * (f 1 % 2) else 2 ^ (f 1 % 5)
  let below := decide (rate < 5 ∨ width < 8)
  (s.onHp fun h => { h with rate := rate, width := width, flit := !below, below := below }).onFresh (· + 2)

/-- An MSI-X vector's table entry (R472). -/
def Func.entry (f : Func) (v : Nat) : Nat × Nat × Bool := mapGet (0, 0, true) f.table v

/-- Raise a vector: its message goes out, or its pending bit is set while it is masked or the function may not issue requests
(R466, R472). -/
def State.raise (s : State) (f v : Nat) : State :=
  if ((s.func f).entry v).2.2 || !s.hostOpen f then
    s.onFunc f fun u => { u with pends := if u.pends.contains v then u.pends else u.pends ++ [v] }
  else (s.onMsix fun l => l ++ [(f, v)]).hostTraffic true 4

/-- Send the pending messages of a function whose vectors are unmasked (R466, R472). -/
def State.sendPending (s : State) (f : Nat) : State :=
  if s.hostOpen f then
    let u := s.func f
    let go := u.pends.filter fun v => !(u.entry v).2.2
    ((s.onMsix fun l => l ++ go.map fun v => (f, v)).hostTraffic true (256 * go.length)).onFunc f fun u =>
      { u with pends := u.pends.filter fun v => (u.entry v).2.2 }
  else s

/-- The package is in Cellar: no command runs and its limits stand still (R434). -/
def State.asleep (s : State) : Bool := decide (s.power.cellar = .cellar)

/-! ### Free values -/

/-- The next `n` free bytes. -/
def State.freeBytes (s : State) (n : Nat) : List Byte := (List.range n).map fun i => Config.freeByte (s.fresh + i)

/-- Free values drawn. -/
def State.draw (s : State) (n : Nat) : State := s.onFresh (· + n)

/-! ### Host memory -/

def State.hostRead (s : State) (a n : Nat) : List Byte := Memory.read s.host a n

def State.hostWrite (s : State) (a : Nat) (bs : List Byte) : State := s.onHost fun m => Memory.write m a bs

/-- A control write to host memory. -/
def State.hostPut (s : State) (a : Nat) (bs : List Byte) : State := (s.hostWrite a bs).hostTraffic true bs.length

/-- A posted write to host memory for a function: it issues now, or is held until host requests of the function may issue (R399, R466). -/
def State.hostPost (s : State) (f a : Nat) (bs : List Byte) : State :=
  if s.hostOpen f then s.hostPut a bs else s.onHp fun h => { h with posted := h.posted ++ [(f, a, bs)] }

/-- The held writes that may issue now are written in their order (R399). -/
def State.postHeld (s : State) : State :=
  ((s.hp.posted.filter fun w => s.hostOpen w.1).foldl (fun t w => t.hostPut w.2.1 w.2.2) s).onHp fun h =>
    { h with posted := h.posted.filter fun w => !s.hostOpen w.1 }

/-! ### Device-physical memory (R201, R208, R214) -/

/-- The spaces of R201. -/
inductive Space
  | hbm (stack off : Nat)
  | cave (addr : Nat)
  | slice (die slice off : Nat)
  deriving DecidableEq, Repr

def stackBytes : Nat := 48000000000
def frameBytes : Nat := 2 ^ 25
def stackFrames : Nat := 1430

/-- The space of a device-physical address; none where no address is valid. -/
def dpaSpace (a : Nat) : Option Space :=
  if a < 2 ^ 40 then
    if a % 2 ^ 36 < stackBytes then some (.hbm (a / 2 ^ 36) (a % 2 ^ 36)) else none
  else if 2 ^ 48 ≤ a ∧ a < 2 ^ 48 + 2 ^ 44 then some (.cave (a - 2 ^ 48))
  else if 2 ^ 49 ≤ a ∧ a < 2 ^ 49 + 4 * 2 ^ 31 then
    let o := a - 2 ^ 49
    if o % 2 ^ 31 / 2 ^ 24 < 66 then some (.slice (o / 2 ^ 31) (o % 2 ^ 31 / 2 ^ 24) (o % 2 ^ 24)) else none
  else none

def hbmDpa (stack off : Nat) : Nat := stack * 2 ^ 36 + off
def caveDpa (a : Nat) : Nat := 2 ^ 48 + a
def sliceDpa (die slice off : Nat) : Nat := 2 ^ 49 + die * 2 ^ 31 + slice * 2 ^ 24 + off
/-- A slice named die × 66 + slice. -/
def sliceBase (n : Nat) : Nat := sliceDpa (n / 66) (n % 66) 0
/-- A frame named stack × 1,430 + frame. -/
def frameDpa (n : Nat) : Nat := hbmDpa (n / stackFrames) (n % stackFrames * frameBytes)
/-- The stack offset of a channel and channel address (R207). -/
def chanOff (channel ca : Nat) : Nat := ca / 256 * 2 ^ 13 + channel * 256 + ca % 256
/-- The frame of an HBM address. -/
def dpaFrame (a : Nat) : Nat := a / 2 ^ 36 * stackFrames + a % 2 ^ 36 / frameBytes

def isSlice (a : Nat) : Bool := decide (2 ^ 49 ≤ a)

/-- The key that wrote a block; empty for plaintext. -/
def MemTier.tagKey (m : MemTier) (b : Nat) : List Byte :=
  let t := mapGet 0 m.keys b
  if t = 0 then [] else nth [] m.keyTags (t - 1)

/-- A 16-byte block as another key reads it: the stored bits, under R214. -/
def reKey (frm into : List Byte) (b : Nat) (bs : List Byte) : List Byte :=
  let raw := if frm.isEmpty then bs else xtsEnc frm (b / 16) (b % 16) bs
  if into.isEmpty then raw else xtsDec into (b / 16) (b % 16) raw

/-- A 16-byte block read under a key; the empty key bypasses the cipher. -/
def MemTier.readBlock (m : MemTier) (key : List Byte) (b : Nat) : List Byte :=
  let bs := Memory.read m.cells (16 * b) 16
  if m.tagKey b = key then bs else reKey (m.tagKey b) key b bs

/-- `n` bytes of device memory read under a key. -/
def MemTier.read (m : MemTier) (key : List Byte) (a n : Nat) : List Byte :=
  if n = 0 then [] else
  (((List.range ((a + n - 1) / 16 - a / 16 + 1)).flatMap fun i => m.readBlock key (a / 16 + i)).drop (a % 16)).take n

/-- The tag of a key, entered when it is new. -/
def MemTier.withKey (m : MemTier) (key : List Byte) : MemTier :=
  if key.isEmpty || m.keyTags.contains key then m else { m with keyTags := m.keyTags ++ [key] }

def MemTier.tagOf (m : MemTier) (key : List Byte) : Nat :=
  if key.isEmpty then 0 else ((indexWhere (fun k => decide (k = key)) m.keyTags).map (· + 1)).getD 0

/-- Write a whole 16-byte block under a key. -/
def MemTier.writeBlock (m : MemTier) (key : List Byte) (b : Nat) (bs : List Byte) : MemTier :=
  { m with cells := Memory.write m.cells (16 * b) bs, keys := mapSet 0 m.keys b (m.tagOf key) }

/-- Write the bytes that fall in the blocks from `b` on, `o` bytes into the first. -/
def MemTier.writeFrom (key : List Byte) : Nat → Nat → Nat → List Byte → MemTier → MemTier
  | 0, _, _, _, m => m
  | k + 1, b, o, bs, m =>
    if bs.isEmpty then m else
    let here := bs.take (16 - o)
    let blk := if here.length = 16 then here else
      let old := m.readBlock key b
      old.take o ++ here ++ old.drop (o + here.length)
    MemTier.writeFrom key k (b + 1) 0 (bs.drop (16 - o)) (m.writeBlock key b blk)

/-- An address falls in the slice that a copy reads. -/
def SliceCopy.hit (c : SliceCopy) (a : Nat) : Bool := decide (sliceBase c.src ≤ a ∧ a < sliceBase c.src + 2 ^ 24)

/-- The 8-byte granules of `n` bytes, at least one, at an offset. -/
def granulesAt (o n : Nat) : List Nat := (List.range ((o + n - 1) / 8 + 1 - o / 8)).map (o / 8 + ·)

/-- A write to the slice of a copy also lands on the spare, and its granules are marked (R206). -/
def MemTier.mirrorTo (a : Nat) (bs : List Byte) (m : MemTier) (c : Nat × SliceCopy) : MemTier :=
  if c.2.hit a && !bs.isEmpty then
    { m with
      cells := Memory.write m.cells (sliceBase c.2.spare + (a - sliceBase c.2.src)) bs
      copies := mapModify m.copies c.1 fun x =>
        { x with bitmap := (x.bitmap ++ granulesAt (a - sliceBase c.2.src) bs.length).eraseDups } }
  else m

/-- The copies under way take a write of their slice. -/
def MemTier.mirror (m : MemTier) (a : Nat) (bs : List Byte) : MemTier := m.copies.foldl (MemTier.mirrorTo a bs) m

/-- Write bytes of device memory under a key; a slice holds plaintext (R205, R214). -/
def MemTier.write (m : MemTier) (key : List Byte) (a : Nat) (bs : List Byte) : MemTier :=
  let k := if isSlice a then [] else key
  let m := (m.withKey k).writeFrom k (bs.length / 16 + 2) (a / 16) (a % 16) bs
  if isSlice a then m.mirror a bs else m

/-- Set a range of device memory to plaintext zeros, bypassing the cipher (R218, R384). -/
def MemTier.zero (m : MemTier) (a n : Nat) : MemTier :=
  { m with cells := Memory.clear m.cells a n,
           keys := m.keys.filter fun p => !(decide (a ≤ 16 * p.1) && decide (16 * p.1 < a + n)) }

def State.dpaRead (s : State) (key : List Byte) (a n : Nat) : List Byte := s.mem.read (if isSlice a then [] else key) a n
def State.dpaWrite (s : State) (key : List Byte) (a : Nat) (bs : List Byte) : State := s.onMem fun m => m.write key a bs

/-! ### Key slots (R364 to R367) -/

def State.slot (s : State) (k : Nat) : KeySlot := mapGet KeySlot.none s.keys.slots k

def KeyVault.onSlot (v : KeyVault) (k : Nat) (f : KeySlot → KeySlot) : KeyVault :=
  { v with slots := mapSet KeySlot.none v.slots k (f (mapGet KeySlot.none v.slots k)) }

/-- The key a slot number encrypts with. -/
def State.slotKey (s : State) (k : Nat) : List Byte := (s.slot k).key

/-- The slot of a vat of a kind. -/
def State.vatSlot (s : State) (vat kind : Nat) : Option Nat :=
  (s.keys.slots.find? fun p => decide (p.2.kind = kind ∧ p.2.vat = vat ∧ p.2.state ≠ .empty)).map (·.1)

/-- The key of a region use (R215): weights under the vat's weight key, the rest under its data key. -/
def State.vatKey (s : State) (vat : Nat) (weights : Bool) : List Byte :=
  match s.vatSlot vat (if weights then 0x04 else 0x05) with
  | some k => s.slotKey k
  | none => s.slotKey 1

/-- A slot admits accesses: Active, or Replacing (R367, R368). -/
def KeySlot.usable (k : KeySlot) : Bool := decide (k.state = .active ∨ k.state = .replacing)

/-- A slot begins to retire at a Tick (R367); device slots never do. -/
def KeySlot.startRetire (k : KeySlot) (t : Nat) : KeySlot :=
  if k.usable then { k with state := .retiring, retire := some t } else k

/-- The lowest Empty slots from 2 on (R364). -/
def State.emptySlots (s : State) : List Nat :=
  ((List.range 254).map (· + 2)).filter fun k => decide ((s.slot k).state = .empty)

/-! ### Complexes -/

def State.cplx (s : State) (k : Nat) : Cplx := if k = 0 then s.cc.c0 else s.cc.c1

def State.onCplx (s : State) (k : Nat) (f : Cplx → Cplx) : State :=
  s.onCc fun c => if k = 0 then { c with c0 := f c.c0 } else { c with c1 := f c.c1 }

def State.isSenior (s : State) (k : Nat) : Bool := decide ((s.cplx k).state = .senior)

/-- The complex that is Senior, half 0 where none or both are (R350, R358). -/
def State.senior (s : State) : Nat := if s.isSenior 1 && !s.isSenior 0 then 1 else 0

/-- The inter-half bridges in service (R353). -/
def State.bridgesUp (s : State) : List Nat := (if s.cc.bridge0 then [0] else []) ++ (if s.cc.bridge1 then [1] else [])

/-- A device-physical address of a half: by stack, by CXL port, by base die (R201). -/
def inHalf (h a : Nat) : Bool :=
  decide ((a < 2 ^ 40 ∧ a / 2 ^ 39 = h) ∨ (2 ^ 48 ≤ a ∧ a < 2 ^ 49 ∧ (a - 2 ^ 48) / 2 ^ 43 = h) ∨ (2 ^ 49 ≤ a ∧ (a - 2 ^ 49) / 2 ^ 32 = h))

/-- RESUME left a half out of service (R359). -/
def State.outHalf (s : State) (h : Nat) : Bool := (s.cplx (1 - h)).otherOut

/-- The package as it would be with both halves in reach. -/
def State.bothHalves (s : State) : State :=
  s.onCc fun c => { c with c0 := { c.c0 with split := false, otherOut := false }, c1 := { c.c1 with split := false, otherOut := false } }

/-- Half `h` cannot be reached from the senior complex: the split fence holds there, or RESUME left the half out of service (R358,
R359). -/
def State.halfCut (s : State) (h : Nat) : Bool :=
  decide (h ≠ s.senior) && ((s.cplx s.senior).split || (s.cplx s.senior).otherOut)

/-- A complex runs. -/
def Cplx.runs (c : Cplx) : Bool := decide (c.state = .senior ∨ c.state = .junior ∨ c.state = .booting)

/-! ### Journals (R455 to R459) -/

/-- The 64-byte units of a record (R456): a 32-byte header and its payload. -/
def JData.units : JData → Nat
  | .boot _ _ _ => 2
  | .intent _ => 1
  | .done _ => 1
  | .retireCore _ _ => 1
  | .retireSlice _ _ => 1
  | .retireRouter _ => 1
  | .error _ _ _ _ => 1
  | .routerError _ _ => 1
  | .trim _ => 1
  | .cal _ => 2
  | .meter _ => 3
  | .meterAck _ => 1
  | .tamper _ _ => 1
  | .svn _ => 1

/-- The active bank of a journal (R455). -/
def Journal.bActive (j : Journal) : Bool := j.b.valid && (!j.a.valid || decide (j.a.epoch < j.b.epoch))

def Journal.bank (j : Journal) : JBank := if j.bActive then j.b else j.a

def Journal.recs (j : Journal) : List JRec := j.bank.recs

def Journal.onBank (j : Journal) (f : JBank → JBank) : Journal :=
  if j.bActive then { j with b := f j.b } else { j with a := f j.a }

/-- The JSEQ of the last committed record, 0 for none. -/
def Journal.last (j : Journal) : Nat := (j.recs.getLast?.map (·.jseq)).getD 0

/-- Units of a bank in use, its header among them. -/
def JBank.used (b : JBank) : Nat := b.recs.foldl (fun n r => n + r.data.units) 1

/-- Free bytes of the active bank of 1 MiB. -/
def Journal.free (j : Journal) : Nat := 2 ^ 20 - 64 * j.bank.used

/-- The journal of the half of the senior complex. -/
def State.journal (s : State) : Journal := if s.senior = 0 then s.j0 else s.j1

/-- A half's journal can be reached from the senior complex (R459). -/
def State.jReach (s : State) (k : Nat) : Bool :=
  decide (k = s.senior) || (decide ((s.cplx k).state ≠ .lost) && !(s.cplx k).split && !s.halfCut k)

/-- Append a record to every journal that can be reached, under one JSEQ (R457, R459). -/
def State.journalAdd (s : State) (d : JData) : State :=
  let n := max s.j0.last s.j1.last + 1
  let put : Journal → Journal := fun j => j.onBank fun b => { b with recs := b.recs ++ [⟨n, d⟩] }
  (if s.jReach 0 then s.onJ0 put else s).onJ1 fun j => if s.jReach 1 then put j else j

/-- The records in force. -/
def State.jdata (s : State) : List JData := s.journal.recs.map (·.data)

/-- Cores, slices and routers retired under R409 and R411, as the journal lists them. -/
def State.retiredCores (s : State) : List Nat :=
  firsts (s.jdata.filterMap fun d => match d with | .retireCore c _ => some c | _ => none)
def State.retiredSlices (s : State) : List Nat :=
  firsts (s.jdata.filterMap fun d => match d with | .retireSlice c _ => some c | _ => none)
def State.retiredRouters (s : State) : List Nat :=
  firsts (s.jdata.filterMap fun d => match d with | .retireRouter c => some c | _ => none)

/-- `TAMPER_SEEN` (R390, R454): a tamper record later than the last lifecycle transition. -/
def tamperSeen (l : List JData) : Bool :=
  l.foldl (fun b d => match d with | .tamper _ _ => true | .done _ => false | _ => b) false

/-- The cause of the last tamper record since the last lifecycle transition; 0 if none (R390). -/
def tamperCause (l : List JData) : Nat :=
  l.foldl (fun b d => match d with | .tamper c _ => c | .done _ => 0 | _ => b) 0

/-- Ticks of 24 hours (R409). -/
def dayTicks : Nat := 1080000000000

/-- The errors of one kind of a core or slice in the last 24 hours (R409). -/
def State.errorsIn (s : State) (core : Bool) (unit kind : Nat) : Nat :=
  (s.jdata.filter fun d => match d with
    | .error c u k t => decide (c = core ∧ u = unit ∧ k = kind ∧ s.now < t + dayTicks)
    | _ => false).length

/-- The parity errors of a router in the last 24 hours (R411). -/
def State.routerErrors (s : State) (r : Nat) : Nat :=
  (s.jdata.filter fun d => match d with
    | .routerError u t => decide (u = r ∧ s.now < t + dayTicks)
    | _ => false).length

/-! ### Fault logs (R408, R415) -/

/-- A 32-byte fault log record (R408). -/
def logRecord (status node core d0 d1 stepTick d2 count event : Nat) : List Byte :=
  leBytes 2 0x1000 ++ leBytes 2 status ++ leBytes 2 node ++ leBytes 2 core ++ leBytes 4 d0 ++ leBytes 4 d1 ++
    leBytes 8 stepTick ++ leBytes 2 d2 ++ leBytes 2 (min count 0xFFFE) ++ leBytes 1 event ++ zeros 3

/-- The enabled log entry of a vat. -/
def State.logOf (s : State) (vat : Nat) : Option (Nat × LogEnt) :=
  s.flt.logs.find? fun p => p.2.enable && decide (p.2.vat = vat)

/-- Write a record to the fault log of a vat, or count it lost when the ring is full; a vat with no enabled entry has its records
dropped (R408, R415). -/
def State.faultLog (s : State) (vat : Nat) (r : List Byte) : State :=
  match s.logOf vat with
  | none => s
  | some (v, e) =>
    if (e.producer + 2 ^ 32 - e.consumer) % 2 ^ 32 = 2 ^ e.log2 then
      s.onFlt fun f => { f with logs := mapSet LogEnt.zero f.logs v { e with lost := sat32 e.lost 1 } }
    else
      ((s.hostPost 0 (e.bus + 32 * (e.producer % 2 ^ e.log2)) r).onFlt fun f =>
        { f with logs := mapSet LogEnt.zero f.logs v { e with producer := (e.producer + 1) % 2 ^ 32 } }).raise 0 2

/-! ### Activity of whey traffic -/

/-- Whey slots and HBM accesses of a context in the period (R431). -/
def State.wheyUse (s : State) (ctx slots accesses : Nat) : State :=
  s.onPower fun p =>
    let u := mapGet (0, 0) p.whey ctx
    { p with whey := mapSet (0, 0) p.whey ctx (u.1 + slots, u.2 + accesses) }

/-- The activity of the bursts that move pieces of memory, for a context (R431). -/
def State.pieceActivity (s : State) (ctx : Nat) (ps : Pieces) : State :=
  let bursts := (ps.map fun p => ceilDiv p.2.1 256).sum
  let hbm := ((ps.filter fun p => decide (p.1 < 2 ^ 40)).map fun p => ceilDiv p.2.1 64).sum
  s.wheyUse ctx (3 * bursts) hbm

/-! ### Vats, cores and routers -/

/-- The local source of a core (R144). -/
def coreSource (c : Nat) : Nat := 0x30 + c / 256

def State.vat? (s : State) (v : Nat) : Option Vat := mapFind s.vats v
def State.role (s : State) (v : Nat) : VatRole := mapGet VatRole.empty s.roles v
def State.onVat (s : State) (v : Nat) (f : Vat → Vat) : State := s.onVats fun m => mapModify m v f
def State.onRole (s : State) (v : Nat) (f : VatRole → VatRole) : State :=
  s.onRoles fun m => mapSet VatRole.empty m v (f (mapGet VatRole.empty m v))

def State.core (s : State) (c : Nat) : Core := mapGet Core.off s.cores c
def State.onCore (s : State) (c : Nat) (f : Core → Core) : State :=
  s.onCores fun m => mapSet Core.off m c (f (mapGet Core.off m c))

def State.router (s : State) (r : Nat) : Router := mapGet Router.empty s.routers r
def State.onRouter (s : State) (r : Nat) (f : Router → Router) : State :=
  s.onRouters fun m => mapSet Router.empty m r (f (mapGet Router.empty m r))

def State.port (s : State) (k : Nat) : Port := mapGet Port.off s.links.ports k
def State.onPort (s : State) (k : Nat) (f : Port → Port) : State :=
  s.onLinks fun l => { l with ports := mapSet Port.off l.ports k (f (mapGet Port.off l.ports k)) }

/-! ### Whey by link (R176, R177) -/

/-- The ring position of a node on an axis. -/
def Links.coord (l : Links) (node axis : Nat) : Nat :=
  if axis = 0 then node % l.tx else if axis = 1 then node / l.tx % l.ty else node / (l.tx * l.ty)
def Links.size (l : Links) (axis : Nat) : Nat := if axis = 0 then l.tx else if axis = 1 then l.ty else l.tz

/-- The port a packet for a node leaves by (R176): X, then Y, then Z, the shorter way round, the positive way where both are equal. -/
def Links.route (l : Links) (node : Nat) : Option Nat :=
  ([0, 1, 2].find? fun a => decide (l.coord node a ≠ l.coord l.node a)).map fun a =>
    let n := max 1 (l.size a)
    let d := (l.coord node a + n - l.coord l.node a) % n
    if 2 * d ≤ n then a else a + 4

/-- The next port of a packet for a node is Down or Failed, or Fenced to its class: the packet is dropped (R177). -/
def State.wheyBlocked (s : State) (node cls : Nat) : Bool :=
  (s.links.route node).any fun k =>
    let st := (s.port k).state
    decide (st = .down ∨ st = .failed ∨ (st = .fenced ∧ cls ≠ 7))

/-- Send a message as whey of a class; one its next port does not take is dropped (R177). -/
def State.sendWhey (s : State) (cls : Nat) (kind : String) (dest : Nat) (args : List Nat) (body : List Byte) : State :=
  if s.wheyBlocked dest cls then s else s.send kind dest args body

/-- Send a control message, of `CLASS` 7 (R288), to a node; one its next port does not take is answered with 0x0701 (R177). It leaves whole, not in
flits (R176; DESIGN CHOICE, log entry 141). -/
def State.sendControl (s : State) (node msg vat : Nat) (bytes : List Byte) : State :=
  if s.wheyBlocked node 7 then s.send "WHEY_ERROR" s.links.node [0x0701, msg, vat] []
  else s.send "CONTROL" node [msg, vat] bytes

/-- A core as clearing leaves it (R86): storage zero. -/
def Core.cleared (c : Core) : Core :=
  { c with bank := [], acc := [], tables := [], decTables := [], tblNext := [], stage := [], vregs := [] }

/-- The core begins to clear, over some Ticks, and will then be in a state; one that is off or Retired only loses its contents (R86, R102). -/
def Core.clear (c : Core) (after : CoreState) (last : Nat) : Core :=
  if c.state = .off ∨ c.state = .retired then c.cleared else { c.cleared with state := .clearing, after := after, clearEnd := last }

/-- Clearing that has ended. -/
def Core.settle (c : Core) (now : Nat) : Core :=
  if c.state = .clearing ∧ c.clearEnd ≤ now then { c with state := c.after } else c

/-- A physical core ID names a core (R1). -/
def coreOk (c : Nat) : Bool := decide (c < 1024 ∧ c % 32 < 17)

/-- The 544 physical cores. -/
def allCores : List Nat := (List.range 1024).filter coreOk

/-- The Tick at which a clearing begun now ends: 2,048 cycles at the gear in force (R86). -/
def State.clearUntil (s : State) : Nat := s.now + ceilDiv 2048 (max 1 s.tick.gear)

/-- Cores whose clearing has ended (R86). -/
def State.settleCores (s : State) : State :=
  if s.cores.any fun p => decide (p.2.state = .clearing) then s.onCores fun m => mapAll m fun _ c => c.settle s.now else s

/-- The spare position of a physical cluster: that of the vat it is bound to, else 16 (R155, R275). -/
def State.spareAt (s : State) (k : Nat) : Nat :=
  (((s.vats.filter fun v => decide (v.2.state ≠ .reserved)).map (·.2.place)).findSome? fun pl =>
    (indexWhere (fun x => decide (x = k)) pl.clusters).map fun i => nth 16 pl.spares i).getD 16

/-- What a core serves as when it is neither fenced nor Retired: Bound, or Spare at its cluster's spare position (R16, R17). -/
def State.serves (s : State) (c : Nat) : CoreState :=
  if (s.core c).vat.isSome ∧ c % 32 ≠ s.spareAt (c / 32) then .bound else .spare

/-- A domain reset of this kind and index is in progress: the domain is fenced (R396). -/
def State.fenced (s : State) (kind index : Nat) : Bool := s.flt.resets.any fun r => decide (r.kind = kind ∧ r.index = index)

/-- A core is fenced, by its own domain or its cluster's. -/
def State.coreFenced (s : State) (c : Nat) : Bool :=
  s.fenced 1 c || s.fenced 2 (c / 32) || decide ((s.core c).state = .fenced) || decide ((s.core c).state = .retired)

/-- Add a Failed cause to the step in progress of a vat (R24, R407). -/
def State.failStep (s : State) (vat : Nat) (c : Cause) : State :=
  s.onVat vat fun v => { v with step := v.step.map fun r => { r with causes := r.causes ++ [c] } }

/-- Mark the step in progress of a vat Degraded unless a Failed cause ranks above it (R24). -/
def State.degradeStep (s : State) (vat : Nat) : State :=
  s.onVat vat fun v => { v with step := v.step.map fun r => { r with degraded := true } }

/-- Every vat of the package that runs a step. -/
def State.stepping (s : State) : List Nat := (s.vats.filter fun p => p.2.step.isSome).map (·.1)

/-- Fail the step in progress of every vat with one cause of the Tick unit. -/
def State.failAll (s : State) (status src : Nat) : State :=
  s.stepping.foldl (fun t v => t.failStep v ⟨status, s.now, s.source src, 0⟩) s

/-- The vat a core is bound to. -/
def State.coreVat (s : State) (c : Nat) : Option Nat := (s.core c).vat

end Sys2Proof.Machine
end

