-- ==== Sys2Proof/Machine/Cmds.lean ====
section
/-! DEFINITION. Contexts, queues, commands, fences and memory objects: the operations of 11 and the function limits of 12. -/

namespace Sys2Proof.Machine
open Sys2Proof

/-! ### The command table (R305, R306) -/

/-- A row of the command table: opcode, accepted on the admin queue, accepted on other queues, bits of `TARGET` and `ARG0` used,
body fields as (byte offset, bits used). -/
structure CmdSpec where
  op     : Nat
  admin  : Bool
  other  : Bool
  target : Nat
  arg0   : Nat
  body   : List (Nat × Nat)
  deriving DecidableEq, Repr

def cpBody : List (Nat × Nat) := [(0x10, 64), (0x18, 64), (0x20, 64)]
def keyBody : List (Nat × Nat) := [(0x28, 8), (0x30, 64)]
def mouldBody : List (Nat × Nat) := [(0x10, 64), (0x18, 32), (0x20, 64)]

def cmdSpecsA : List CmdSpec :=
  [⟨0x01, true, true, 0, 0, []⟩, ⟨0x02, true, true, 32, 32, cpBody⟩, ⟨0x03, true, true, 32, 0, cpBody⟩,
   ⟨0x04, true, true, 32, 0, cpBody⟩, ⟨0x05, false, true, 32, 0, cpBody ++ keyBody⟩,
   ⟨0x06, false, true, 32, 0, cpBody ++ keyBody⟩, ⟨0x07, false, true, 0, 0, [(0x10, 64), (0x18, 64)]⟩,
   ⟨0x10, false, true, 32, 12, [(0x10, 64), (0x18, 3)]⟩, ⟨0x11, false, true, 32, 12, []⟩,
   ⟨0x12, false, true, 32, 12, []⟩, ⟨0x13, false, true, 32, 12, []⟩,
   ⟨0x14, false, true, 32, 12, [(0x10, 64), (0x18, 32)]⟩,
   ⟨0x15, false, true, 32, 12, [(0x10, 32), (0x14, 32), (0x18, 32), (0x1C, 16), (0x20, 128)]⟩,
   ⟨0x16, false, true, 32, 12, [(0x10, 64), (0x18, 32), (0x1C, 16)]⟩,
   ⟨0x17, false, true, 32, 12, [(0x10, 64), (0x18, 32), (0x1C, 8)]⟩,
   ⟨0x18, false, true, 32, 12, [(0x10, 64), (0x18, 32), (0x1C, 32), (0x20, 64), (0x28, 32), (0x2C, 32)]⟩]

def cmdSpecsB : List CmdSpec :=
  [⟨0x20, true, false, 32, 0,
     [(0x10, 64), (0x18, 32), (0x1C, 16), (0x1E, 8), (0x1F, 1), (0x20, 64), (0x28, 16), (0x2A, 12), (0x2C, 32)]⟩,
   ⟨0x21, true, false, 32, 0, []⟩,
   ⟨0x22, true, false, 32, 4, [(0x10, 64), (0x18, 64), (0x20, 8), (0x21, 8), (0x22, 16), (0x24, 3)]⟩,
   ⟨0x23, true, false, 32, 4, []⟩,
   ⟨0x24, true, false, 32, 0, [(0x10, 64), (0x18, 64), (0x20, 64), (0x28, 8), (0x29, 8), (0x2A, 8)]⟩,
   ⟨0x25, true, false, 32, 0, []⟩, ⟨0x26, true, false, 32, 0, []⟩, ⟨0x27, true, false, 32, 0, []⟩,
   ⟨0x30, true, false, 32, 0, [(0x10, 64), (0x18, 16), (0x1A, 16), (0x20, 64)]⟩,
   ⟨0x31, true, false, 32, 0, mouldBody⟩,
   ⟨0x32, true, false, 32, 0, [(0x10, 12), (0x18, 64), (0x20, 64)]⟩,
   ⟨0x33, true, false, 32, 0, mouldBody⟩,
   ⟨0x34, true, false, 32, 0, [(0x10, 32), (0x14, 32), (0x18, 32), (0x1C, 16), (0x1E, 16)]⟩,
   ⟨0x35, true, false, 32, 0, []⟩, ⟨0x36, true, false, 32, 0, []⟩, ⟨0x37, true, false, 32, 0, []⟩,
   ⟨0x38, true, false, 32, 0, [(0x10, 8), (0x12, 16)]⟩, ⟨0x39, true, false, 32, 0, [(0x10, 64)]⟩,
   ⟨0x3A, true, false, 0, 0, [(0x10, 32), (0x14, 32), (0x18, 64)]⟩, ⟨0x3B, true, false, 0, 0, [(0x10, 32)]⟩]

def cmdSpecs : List CmdSpec := cmdSpecsA ++ cmdSpecsB

def cmdSpec (op : Nat) : Option CmdSpec := cmdSpecs.find? fun d => decide (d.op = op)

/-- Bits [lo + n - 1 : lo] set. -/
def ones (lo n : Nat) : Nat := (2 ^ n - 1) * 2 ^ lo

/-- The bits of the 64-byte command that a row of the table uses, the header's among them. -/
def CmdSpec.mask (d : CmdSpec) : Nat :=
  ones 0 28 + ones 32 32 + ones 64 d.target + ones 96 d.arg0 +
    (d.body.map fun p => ones (8 * p.1) p.2).foldl (· + ·) 0

def cmdOp (bs : List Byte) : Nat := field bs 2 1
def cmdFlag (bs : List Byte) (i : Nat) : Bool := bit (field bs 3 1) i
def cmdFence (bs : List Byte) : Nat := field bs 4 2
def cmdTarget (bs : List Byte) : Nat := field bs 8 4
def cmdArg0 (bs : List Byte) : Nat := field bs 12 4

/-- Check 2: reserved fields and flags are zero; `FENCE` and `WAIT_FENCE` are 0 without their flags (R305). Of an opcode that is not listed only
the header's reserved bits can be told, so its body is not examined before check 3 refuses it (DESIGN CHOICE, log entry 108). -/
def cmdReservedOk (bs : List Byte) : Bool :=
  (match cmdSpec (cmdOp bs) with
   | some d => decide (leNat bs &&& d.mask = leNat bs)
   | none => decide (field bs 3 1 < 16)) &&
  (cmdFlag bs 0 || decide (cmdFence bs = 0)) && (cmdFlag bs 1 || decide (field bs 6 2 = 0))

def noVal (bs : List Byte) (off n : Nat) : Bool := decide (field bs off n = 2 ^ (8 * n) - 1)

/-- A handle operand: (handle, offset, length, write). -/
abbrev ObjOp := Nat × Nat × Nat × Bool

/-- The memory-object operands of a command, in order (R306). -/
def cmdObjs (bs : List Byte) : List ObjOp :=
  let op := cmdOp bs
  let len := field bs 0x20 8
  if op = 0x02 then [(cmdTarget bs, field bs 0x10 8, len, false), (cmdArg0 bs, field bs 0x18 8, len, true)]
  else if op = 0x03 ∨ op = 0x06 then [(cmdTarget bs, field bs 0x10 8, len, true)]
  else if op = 0x04 ∨ op = 0x05 then [(cmdTarget bs, field bs 0x10 8, len, false)]
  else if op = 0x14 then [(field bs 0x18 4, field bs 0x10 8, 256, true)]
  else if op = 0x16 then [(field bs 0x18 4, field bs 0x10 8, 8 * field bs 0x1C 2, false)]
  else if op = 0x17 then [(field bs 0x18 4, field bs 0x10 8, 8 * field bs 0x1C 1, false)]
  else if op = 0x18 then
    [(field bs 0x18 4, field bs 0x10 8, 4 * field bs 0x1C 4, false),
     (field bs 0x28 4, field bs 0x20 8, 16 + 4 * field bs 0x2C 4, true)]
  else if op = 0x20 then [(field bs 0x18 4, field bs 0x10 8, 0, false)]
  else if op = 0x25 then [(cmdTarget bs, 0, 0, false)]
  else if op = 0x31 ∨ op = 0x33 then [(field bs 0x18 4, field bs 0x10 8, 0, false)]
  else []

/-- The vector of QUEUE_CREATE lies in the table of the context's function (R472). -/
def vectorOk (func v : Nat) : Bool :=
  decide (v = 0xFFFF) || (if func = 0 then decide (16 ≤ v ∧ v ≤ 2047) else decide (1 ≤ v ∧ v ≤ 63))

/-- Check 3: a field holds a reserved value (R8, R294, R306, R308, R310, R320, R380); `func` is the function of the context that
QUEUE_CREATE names. A MEMOBJ_CREATE with a `STACK` above 15 is refused only where `TIER` names an HBM stack, the field meaning nothing for
the other tiers (DESIGN CHOICE, log entry 108); a VAT_REMOULD of `KIND` 3 whose `UNIT` is not 0 holds a reserved value (DEDUCED, log entry
138). -/
def cmdValueBad (bs : List Byte) (func : Nat) : Bool :=
  let op := cmdOp bs
  (cmdSpec op).isNone ||
  (cmdObjs bs).any (fun o => decide (o.1 = 0xFFFFFFFF)) ||
  (decide (op = 0x02 ∨ op = 0x03 ∨ op = 0x04 ∨ op = 0x05 ∨ op = 0x06) && noVal bs 0x20 8) ||
  (decide (op = 0x05 ∨ op = 0x06) && decide (field bs 0x30 8 = 0)) ||
  (decide (op = 0x07) && noVal bs 0x18 8) ||
  (decide (op = 0x10) && decide (bits (field bs 0x18 1) 2 1 = 3)) ||
  (decide (op = 0x16) && noVal bs 0x1C 2) || (decide (op = 0x17) && noVal bs 0x1C 1) ||
  (decide (op = 0x18) && (noVal bs 0x1C 4 || noVal bs 0x2C 4)) ||
  (decide (op = 0x20 ∨ op = 0x21 ∨ op = 0x22 ∨ op = 0x23 ∨ op = 0x24) && decide (4096 ≤ cmdTarget bs)) ||
  (decide (op = 0x20) && (decide (64 ≤ field bs 0x1E 1) || noVal bs 0x2C 4)) ||
  (decide (op = 0x22) && (decide (field bs 0x20 1 < 4 ∨ 12 < field bs 0x20 1 ∨ field bs 0x21 1 < 4 ∨ 12 < field bs 0x21 1) ||
    decide (5 < field bs 0x24 1) || !vectorOk func (field bs 0x22 2))) ||
  (decide (op = 0x24) && (noVal bs 0x10 8 || decide (2 < field bs 0x28 1 ∨ 1 < field bs 0x2A 1) ||
    (decide (field bs 0x28 1 = 1) && decide (15 < field bs 0x29 1)))) ||
  (decide (op = 0x26 ∨ op = 0x27) && decide (1024 ≤ cmdTarget bs)) ||
  (decide (0x30 ≤ op ∧ op ≤ 0x39) && decide (4096 ≤ cmdTarget bs)) ||
  (decide (op = 0x30) && noVal bs 0x1A 2) ||
  (decide (op = 0x34) && (noVal bs 0x10 4 || noVal bs 0x14 4 || noVal bs 0x18 4 || noVal bs 0x1C 2)) ||
  (decide (op = 0x38) && decide (field bs 0x10 1 < 1 ∨ 3 < field bs 0x10 1 ∨ (field bs 0x10 1 = 3 ∧ field bs 0x12 2 ≠ 0))) ||
  (decide (op = 0x3A) && noVal bs 0x14 4)

/-- Check 10 on counts and sizes (R259, R260, R311, R381). -/
def cmdCountBad (bs : List Byte) : Bool :=
  let op := cmdOp bs
  (decide (op = 0x16) && decide (64 < field bs 0x1C 2)) || (decide (op = 0x17) && decide (64 < field bs 0x1C 1)) ||
  (decide (op = 0x06) && decide (2 ^ 26 < field bs 0x20 8)) ||
  (decide (op = 0x24) && decide (field bs 0x10 8 % (if field bs 0x2A 1 = 1 then 2 ^ 30 else 2 ^ 25) ≠ 0))

/-- A zero that makes the command succeed with no effect (R309); a `FENCE_COUNT` or `MOVE_COUNT` of 0 has a meaning (DEDUCED, log entry 140). -/
def cmdZero (bs : List Byte) : Bool :=
  let op := cmdOp bs
  (decide (op = 0x02 ∨ op = 0x03 ∨ op = 0x04 ∨ op = 0x05 ∨ op = 0x06) && decide (field bs 0x20 8 = 0)) ||
  (decide (op = 0x07) && decide (field bs 0x18 8 = 0)) || (decide (op = 0x17) && decide (field bs 0x1C 1 = 0)) ||
  (decide (op = 0x24) && decide (field bs 0x10 8 = 0)) || (decide (op = 0x3A) && decide (field bs 0x14 4 = 0))

/-! ### Contexts, queues, commands -/

def State.ctx (s : State) (c : Nat) : Context := mapGet Context.empty s.objs.ctxs c
def State.onCtx (s : State) (c : Nat) (f : Context → Context) : State :=
  s.onObjs fun o => { o with ctxs := mapSet Context.empty o.ctxs c (f (mapGet Context.empty o.ctxs c)) }

def State.queue? (s : State) (c q : Nat) : Option Queue := mapFind s.objs.queues (16 * c + q)
def State.onQueue (s : State) (c q : Nat) (f : Queue → Queue) : State :=
  s.onObjs fun o => { o with queues := mapModify o.queues (16 * c + q) f }

def State.cmd? (s : State) (r : CmdRef) : Option Cmd := s.objs.cmds.find? fun c => decide (c.ref = r)
def State.onCmd (s : State) (r : CmdRef) (f : Cmd → Cmd) : State :=
  s.onObjs fun o => { o with cmds := o.cmds.map fun c => if c.ref = r then f c else c }

/-- A doorbell slot: `SQ_TAIL` and `CQ_HEAD` (R301). -/
def State.door (s : State) (c q : Nat) : Nat × Nat := mapGet (0, 0) s.objs.doors (16 * c + q)

/-- The committed entry of a function (R337). -/
def State.fn (s : State) (f : Nat) : FuncCfg := mapGet FuncCfg.zero s.qos.funcAct f

/-- The partition in force for a context (R338). -/
def State.partOf (s : State) (c : Nat) : Nat :=
  if (s.ctx c).function ≠ 0 then (s.fn (s.ctx c).function).part else mapGet 0 s.qos.active.ctxPart c

/-- The index of a handle and its generation (R310). -/
def hIdx (h : Nat) : Nat := h / 4096
def hGen (h : Nat) : Nat := h % 4096

def State.obj? (s : State) (i : Nat) : Option MemObj := mapFind s.objs.objs i

/-- The object a handle names now. -/
def State.live (s : State) (h : Nat) : Option MemObj :=
  match s.obj? (hIdx h) with
  | some o => if o.freed || decide (o.gen ≠ hGen h) then none else some o
  | none => none

/-- The generation that follows (R310). -/
def nextGen (g : Nat) : Nat := if 4095 ≤ g then 1 else g + 1

/-- Advance the generation of an index and free its object (R310, R312). -/
def State.freeObj (s : State) (i : Nat) : State :=
  s.onObjs fun o => { o with
    objs := mapModify o.objs i fun m => if m.freed then m else { m with freed := true },
    gens := match mapFind o.objs i with
      | some m => if m.freed then o.gens else mapSet 0 o.gens i (nextGen m.gen)
      | none => o.gens }

/-- A reference to an object is held: by a command past check 8, by an accepted GENERATE, by a context's page-table root (R312). -/
def State.referenced (s : State) (i : Nat) : Bool :=
  s.objs.cmds.any (fun c => c.objs.contains i) ||
  s.vats.any (fun v => v.2.work.any fun w => w.2.objs.contains i) ||
  s.objs.ctxs.any fun c => decide (c.2.state ≠ .free ∧ c.1 ≠ 0 ∧ c.2.ptObj = i)

/-- The pages of an object of `page` bytes each. -/
def MemObj.frames (m : MemObj) : Nat := m.pages.length * (m.page / frameBytes)

/-- The page addresses of an object that lie in HBM, or in caves, in 32 MiB frames (R337). -/
def MemObj.hbmFrames (m : MemObj) : Nat := (m.pages.filter fun a => decide (a < 2 ^ 40)).length * (m.page / frameBytes)

/-- Objects held for the contexts of a function. -/
def State.fnObjs (s : State) (f : Nat) : List MemObj :=
  (s.objs.objs.filter fun p => decide ((s.ctx p.2.ctx).function = f) && !p.2.freed).map (·.2)

/-- The objects that hold frames for a function: those freed too, until their frames are released (R312, R332, R337). -/
def State.fnHeld (s : State) (f : Nat) : List MemObj :=
  (s.objs.objs.filter fun p => decide ((s.ctx p.2.ctx).state ≠ .free ∧ (s.ctx p.2.ctx).function = f)).map (·.2)

def State.fnHbm (s : State) (f : Nat) : Nat := ((s.fnHeld f).map MemObj.hbmFrames).foldl (· + ·) 0
def State.fnCave (s : State) (f : Nat) : Nat := ((s.fnHeld f).map fun m => m.frames - m.hbmFrames).foldl (· + ·) 0

/-! ### Fences (R313 to R315) -/

def State.fence (s : State) (f : Nat) : Fence := mapGet Fence.created s.objs.fences f

/-- A fence lies in a context's range. -/
def Context.owns (c : Context) (f : Nat) : Bool := decide (c.state ≠ .free ∧ c.fenceLo ≤ f ∧ f < c.fenceLo + c.fenceN)

/-- The context whose range holds a fence. -/
def State.fenceOwner (s : State) (f : Nat) : Option Nat :=
  (s.objs.ctxs.find? fun p => decide (p.1 ≠ 0) && p.2.owns f).map (·.1)

/-- The fences a context may signal; context 0 has no range of its own and may name those of Active contexts (DESIGN CHOICE, log entry 9). -/
def State.mayFence (s : State) (c f : Nat) : Bool :=
  if c = 0 then (match s.fenceOwner f with
    | some o => decide ((s.ctx o).state = .active)
    | none => false)
  else (s.ctx c).owns f

/-- The fences a context may wait on (R308, R332). -/
def State.mayWait (s : State) (c f : Nat) : Bool :=
  match s.fenceOwner f with
  | some o => decide ((s.ctx o).function = (s.ctx c).function) && (s.mayFence c f ||
      decide ((s.ctx o).state = .active ∧ (s.ctx c).group ≠ 0 ∧ (s.ctx o).group = (s.ctx c).group))
  | none => false

/-- The 16-byte record of a fence (R313). -/
def Fence.record (f : Fence) : List Byte :=
  leBytes 2 0x1000 ++ leBytes 2 f.status ++ leBytes 4 (f.epoch % 2 ^ 31 + b2n f.signalled * 2 ^ 31) ++ leBytes 8 f.tick

/-- Write a fence and its record in the fence area of its owner. -/
def State.putFence (s : State) (f : Nat) (v : Fence) : State :=
  let t := s.onObjs fun o => { o with fences := mapSet Fence.created o.fences f v }
  match s.fenceOwner f with
  | some o => t.hostPost (s.ctx o).function ((s.ctx o).fenceBus + 16 * (f - (s.ctx o).fenceLo)) v.record
  | none => t

/-- Arm a fence with a pending signaller (R314). -/
def State.armFence (s : State) (f : Nat) (r : CmdRef) : State :=
  s.putFence f { s.fence f with signalled := false, status := 0, tick := s.now, pending := some r }

/-- Signal a fence; every wait on it is met and frees its slot (R314, R315). -/
def State.signalFence (s : State) (f status : Nat) : State :=
  (s.putFence f ⟨status, true, ((s.fence f).epoch + 1) % 2 ^ 31, s.now, none⟩).onObjs fun o =>
    { o with queues := mapAll o.queues fun _ q =>
        if q.waiting.any (fun w => decide (w.1 = f)) then
          { q with waiting := none, asked := none, slotted := false, met := some status } else q }

/-- Signal the fence a command is the pending signaller of. -/
def State.signalFor (s : State) (f : Nat) (r : CmdRef) (status : Nat) : State :=
  if (s.fence f).pending = some r then s.signalFence f status else s

/-- A guarantee is missed (R331): an event, a count, and PF vector 3 where the flag was clear (R471). -/
def State.missGuarantee (s : State) (kv : Bool) (src arg : Nat) : State :=
  let first := !s.qos.missed
  let t := (s.note src "GUARANTEE_MISSED" arg).onQos fun q => { q with
    missed := true
    missedKv := if kv then sat32 q.missedKv 1 else q.missedKv
    missedWt := if kv then q.missedWt else sat32 q.missedWt 1 }
  if first then t.raise 0 3 else t

/-- Wait slots in use of 2,048 (R294). -/
def State.waitsUsed (s : State) : Nat := (s.objs.queues.filter fun q => q.2.slotted).length

/-! ### Queues (R300 to R304) -/

/-- A queue enters Error: commands not dispatched are dropped, the PF error vector and a VF's entry 0 are raised (R302, R472). -/
def State.queueError (s : State) (c q : Nat) : State :=
  match s.queue? c q with
  | none => s
  | some u =>
    if u.error then s else
    let t := ((s.onQueue c q fun u => { u with
        error := true, fetched := [], old := [], waiting := none, asked := none, slotted := false, met := none,
        reserved := u.reserved - u.fetched.length }).onCtx c fun x =>
          { x with qError := if bit x.qError q then x.qError else x.qError + 2 ^ q }).raise 0 0
    let t := t.note 0x24 "QUEUE_ERROR" (16 * c + q)
    if (s.ctx c).function = 0 then t else t.raise (s.ctx c).function 0

/-- The checks a doorbell write makes (R302). -/
def State.doorCheck (s : State) (c q : Nat) : State :=
  match s.queue? c q with
  | none => s
  | some u =>
    let (tail, head) := s.door c q
    if 2 ^ u.sqLog < (tail + 2 ^ 32 - u.sqHead) % 2 ^ 32 ∨ 2 ^ u.cqLog < (u.cqTail + 2 ^ 32 - head) % 2 ^ 32 then
      s.queueError c q else s

def State.setDoor (s : State) (c q : Nat) (f : Nat × Nat → Nat × Nat) : State :=
  s.onObjs fun o => { o with doors := mapSet (0, 0) o.doors (16 * c + q) (f (mapGet (0, 0) o.doors (16 * c + q))) }

/-- A held command stops its queue (R227). -/
def State.queueHeld (s : State) (c q : Nat) : Bool :=
  s.objs.cmds.any fun x => decide (x.ref.ctx = c ∧ x.ref.q = q ∧ x.phase = .held)

/-- Both complexes are Lost, one takes over, or the Senior is Lost and no takeover has begun: the admin queue stands still (R339, R355, R357). -/
def State.adminStopped (s : State) (c : Nat) : Bool :=
  decide (c = 0) && (s.cc.both || (s.cplx s.senior).taking.isSome ||
    ([0, 1] : List Nat).any fun k => decide ((s.cplx k).state = .lost ∧ (s.cplx k).hadSenior = true ∧ (s.cplx (1 - k)).state ≠ .senior))

/-- A queue has commands, its next one needs a wait slot to begin its `WAIT`, and all 2,048 are taken (R294, R315). -/
def State.slotless (s : State) (c : Nat) (u : Queue) : Bool :=
  !u.slotted && u.met.isNone && decide (2048 ≤ s.waitsUsed) &&
    u.fetched.head?.any fun h => cmdFlag h.bytes 1 && s.mayWait c (field h.bytes 6 2)

/-- A queue can dispatch nothing, for one of the reasons R297 lists. -/
def State.queueStuck (s : State) (c q : Nat) (u : Queue) : Bool :=
  u.error || u.waiting.isSome || s.slotless c u || s.queueHeld c q ||
    decide ((u.cqTail + u.reserved + 2 ^ 32 - (s.door c q).2) % 2 ^ 32 = 2 ^ u.cqLog ∧ u.fetched = [])

/-- A queue has a queue slot or may take one: a resident context holds 8, one for each queue with fetched commands that is not stuck
(R294, R303; DESIGN CHOICE, log entry 137). -/
def State.queueSlot (s : State) (c q : Nat) : Bool :=
  decide (((s.objs.queues.filter fun p => decide (p.1 / 16 = c ∧ p.1 ≠ 16 * c + q ∧ p.2.fetched ≠ []) &&
    !s.queueStuck c (p.1 % 16) p.2)).length < 8)

/-- A queue may fetch its next command (R303). -/
def State.canFetch (s : State) (c q : Nat) : Bool :=
  match s.queue? c q with
  | none => false
  | some u =>
    let (tail, head) := s.door c q
    decide (s.boot.state = .ready) && decide ((s.ctx c).state = .active) && (s.ctx c).slot.isSome && !u.error &&
    !s.queueHeld c q && decide (s.power.cellar = .awake) && s.hostOpen (s.ctx c).function && !s.adminStopped c && s.queueSlot c q &&
    decide (tail ≠ u.sqHead) && decide ((u.cqTail + u.reserved + 2 ^ 32 - head) % 2 ^ 32 < 2 ^ u.cqLog)

/-- The Tick a queue's next command was first fetched: the one kept over an eviction, else now (R299, R334). -/
def Queue.firstFetch (u : Queue) (now : Nat) : Nat := ((u.old.find? fun p => decide (p.1 = u.sqHead)).map (·.2)).getD now

/-- Fetch the next command of a queue, reserving a completion entry (R302, R303). -/
def State.fetch (s : State) (c q : Nat) : State :=
  (s.hostTraffic false 64).onQueue c q fun u => { u with
    fetched := u.fetched ++ [⟨u.sqHead, s.hostRead (u.sqBus + 64 * (u.sqHead % 2 ^ u.sqLog)) 64, u.firstFetch s.now⟩],
    old := u.old.filter fun p => decide (p.1 ≠ u.sqHead),
    sqHead := (u.sqHead + 1) % 2 ^ 32,
    reserved := u.reserved + 1 }

/-! ### Finishing commands -/

/-- Mark a command finished with a status; its completion is due. -/
def State.finish (s : State) (r : CmdRef) (status : Nat) : State :=
  s.onCmd r fun c => if c.phase = .done then c else { c with phase := .done, status := status }

/-- Finish a command with a result (R304). -/
def State.finishWith (s : State) (r : CmdRef) (status result : Nat) : State :=
  s.onCmd r fun c => if c.phase = .done then c else { c with phase := .done, status := status, result := result }

/-- A completion entry (R304). -/
def completionEntry (u : Queue) (c : Cmd) : List Byte :=
  leBytes 2 0x1000 ++ leBytes 2 c.status ++ leBytes 4 c.ref.idx ++ leBytes 4 c.result ++
    leBytes 4 ((1 + u.cqTail / 2 ^ u.cqLog) % 2 * 2 ^ 31)

/-- Write the completion entry of a finished command where its queue still writes any (R302, R304, R316). -/
def State.writeCompletion (s : State) (c : Cmd) : State :=
  match s.queue? c.ref.ctx c.ref.q with
  | none => s
  | some u =>
    if u.error || decide ((s.ctx c.ref.ctx).state ≠ .active) || c.orphan then s else
    (s.hostPut (u.cqBus + 16 * (u.cqTail % 2 ^ u.cqLog)) (completionEntry u c)).onQueue c.ref.ctx c.ref.q fun u =>
      { u with cqTail := (u.cqTail + 1) % 2 ^ 32 }

/-- The vector of a queue that wrote a completion. -/
def State.raiseQueue (s : State) (c : Cmd) : State :=
  match s.queue? c.ref.ctx c.ref.q with
  | none => s
  | some u =>
    if u.error || decide ((s.ctx c.ref.ctx).state ≠ .active) || c.orphan || decide (u.vector = 0xFFFF) then s
    else s.raise (s.ctx c.ref.ctx).function u.vector

/-- Zeroise the key of a generation that no command uses any more (R368). -/
def State.dropOldKeys (s : State) : State :=
  s.onKeys fun v => { v with slots := mapAll v.slots fun k u =>
    if u.old.isSome && !(s.objs.cmds.any fun c => decide (cmdOp c.bytes = 5 ∨ cmdOp c.bytes = 6) &&
        decide (field c.bytes 0x28 1 = k) && decide (c.gen + 1 = u.gen)) then { u with old := none } else u }

/-- Complete a finished command: completion entry, fence record, vector, references dropped (R304, R314). -/
def State.complete (s : State) (c : Cmd) : State :=
  let t := s.writeCompletion c
  let t := t.onQueue c.ref.ctx c.ref.q fun u =>
    { u with reserved := if c.orphan then u.reserved else u.reserved - 1 }
  let t := match c.fence with
    | some f => if c.silent then t else t.signalFor f c.ref c.status
    | none => t
  (((t.raiseQueue c).onObjs fun o => { o with cmds := o.cmds.filter fun x => !decide (x.ref = c.ref) }).onQos fun q =>
    q.dropReqs c.ref).dropOldKeys

/-- The Ticks from the fetch of a queue's head to now count for its context, unless it is confidential (R334, R388). -/
def State.countQueueWait (s : State) (c q : Nat) : State :=
  match (s.queue? c q).bind fun u => u.fetched.head? with
  | some h => s.onCtx c fun x => if x.conf then x else { x with queueWait := (x.queueWait + (s.now - h.tick)) % 2 ^ 64 }
  | none => s

/-- The head of a queue leaves it for dispatch. -/
def State.popHead (s : State) (c q : Nat) : State :=
  (s.countQueueWait c q).onQueue c q fun u => { u with fetched := u.fetched.drop 1, waiting := none, asked := none, slotted := false, met := none }

/-- Enter a command in dispatch; the Tick counts for its context (R317). -/
def State.enter (s : State) (c : Cmd) : State :=
  (s.onObjs fun o => { o with cmds := o.cmds ++ [c] }).onCtx c.ref.ctx fun x => { x with acted := true }

/-- Check 4: the opcode is allowed on this queue. -/
def kindOk (c : Nat) (op : Nat) : Bool :=
  match cmdSpec op with
  | some d => if c = 0 then d.admin else d.other
  | none => false

/-- The status of the object operands: checks 7, 8, 9, Lost objects (R399) and 10, in order. -/
def State.objStatus (s : State) (c : Nat) (bs : List Byte) : Nat :=
  let os := cmdObjs bs
  let find := fun o : ObjOp => s.obj? (hIdx o.1)
  if os.any (fun o => (mapFind s.objs.gens (hIdx o.1)).isNone) then 0x0202
  else if os.any (fun o => decide (mapGet 0 s.objs.gens (hIdx o.1) ≠ hGen o.1)) then 0x0201
  else if os.any (fun o => (s.live o.1).isNone) then 0x0202
  else if decide (cmdOp bs ≠ 0x25) && os.any (fun o => (find o).any fun m => decide (m.ctx ≠ c)) then 0x0301
  else if decide (cmdOp bs ≠ 0x25) && os.any (fun o => (find o).any (·.lost)) then 0x0730
  else if os.any (fun o => (find o).any fun m => decide (m.size < o.2.1 + o.2.2.1)) || cmdCountBad bs then 0x0141
  else 0

end Sys2Proof.Machine
end

