-- ==== Sys2Proof/Machine/Xl.lean ====
section
/-! DEFINITION. Regions of a bound vat (R125 to R127), page walks, tiles and fault batches (R219 to R230). -/

namespace Sys2Proof.Machine
open Sys2Proof

/-! ### Pieces of memory -/

/-- Cut the range [o, o + len) at the multiples of `unit`: (offset, length) in order. -/
def cuts (unit o len : Nat) : List (Nat × Nat) :=
  if len = 0 then [] else
  (List.range ((o + len - 1) / unit + 1 - o / unit)).map fun i =>
    let a := if i = 0 then o else (o / unit + i) * unit
    let b := (o / unit + i + 1) * unit
    (a, (if b < o + len then b else o + len) - a)

/-- The device-physical address of byte `o` of a region as binding placed it (R127, R112); a cave region takes the frames of the
placement in the order of the cave regions, `cave0` frames in. -/
def regionDpa (pl : Placement) (r : Region) (cave0 o : Nat) : Nat :=
  if r.kind = 3 then caveDpa (nth 0 pl.cave (cave0 + o / frameBytes) * frameBytes + o % frameBytes)
  else
    let u := interleave r.gran r.first r.count r.base o
    if r.kind = 1 then sliceBase (nth 0 pl.slices u.1) + u.2
    else hbmDpa (nth 0 pl.stackSet (u.1 / 32)) (chanOff (u.1 % 32) u.2)

/-- The cave frames of the cave regions before region `k`. -/
def caveBefore (rs : List Region) (k : Nat) : Nat :=
  ((rs.take k).filter fun r => decide (r.kind = 3)).foldl (fun n r => n + r.bytes / frameBytes) 0

/-- A range of region `k` of a vat as device-physical pieces under a key slot. -/
def Vat.regionPieces (v : Vat) (k o len slot : Nat) : Pieces :=
  match v.mould with
  | none => []
  | some m =>
    let rs := mRegions m v.lpkg
    match rs[k]? with
    | none => []
    | some r =>
      (cuts (if r.kind = 3 then frameBytes else 256) o len).map fun p =>
        (regionDpa v.place r (caveBefore rs k) p.1, p.2, slot)

/-- The bytes of pieces, each under its key slot. -/
def State.readPieces (s : State) (ps : Pieces) : List Byte :=
  ps.flatMap fun p => s.dpaRead (s.slotKey p.2.2) p.1 p.2.1

/-- Write bytes over pieces in order, each under its key slot. -/
def State.writePieces (s : State) : Pieces → List Byte → State
  | [], _ => s
  | p :: ps, bs => (s.dpaWrite (s.slotKey p.2.2) p.1 (bs.take p.2.1)).writePieces ps (bs.drop p.2.1)

/-- The pieces that hold `len` bytes from byte `off` of a range on. -/
def slicePieces : Pieces → Nat → Nat → Pieces
  | [], _, _ => []
  | p :: ps, off, len =>
    if len = 0 then [] else
    if p.2.1 ≤ off then slicePieces ps (off - p.2.1) len else
    let n := if len < p.2.1 - off then len else p.2.1 - off
    (p.1 + off, n, p.2.2) :: slicePieces ps 0 (len - n)

/-- The status of a read that meets one of the uncorrectable granules listed (R212, R219); 0 where it meets none. -/
def readStatus (bad : ReadErrs) (ps : Pieces) : Nat :=
  match bad.ue.find? fun a => ps.any fun p => decide (p.1 < a + 64 ∧ a < p.1 + p.2.1) with
  | some a => if a < 2 ^ 40 then 0x0560 else if isSlice a then 0x0561 else 0x0562
  | none => 0

/-- Count a read of a cave that completes with 0x0562 at its CXL port (R477, R479). -/
def State.poison (s : State) (a : Nat) : State :=
  s.onCxlPorts fun m => let p := (a - 2 ^ 48) / 2 ^ 42
    mapSet CxlPort.off m p (let x := mapGet CxlPort.off m p; { x with poison := sat32 x.poison 1 })

/-- Count a corrected read of an HBM stack with its place (R212, R231). -/
def State.hbmCorrected (s : State) (a : Nat) : State :=
  s.onMem fun m =>
    let q := a / 2 ^ 36
    let o := a % 2 ^ 36
    let r := mapGet ⟨0, 0, 0, 0, 0⟩ m.stackSet q
    { m with stackSet := mapPut m.stackSet q { r with
      ce := sat32 r.ce 1, last := o / 256 % 32 * 2 ^ 27 + (o / 2 ^ 13 * 256 + o % 256) / 64 } }

/-- Count an uncorrectable read of an HBM stack. -/
def State.hbmUncorrectable (s : State) (a : Nat) : State :=
  s.onMem fun m =>
    let q := a / 2 ^ 36
    let r := mapGet ⟨0, 0, 0, 0, 0⟩ m.stackSet q
    { m with stackSet := mapPut m.stackSet q { r with ue := sat32 r.ue 1 } }

/-! ### Page walks (R220 to R223, R365) -/

/-- How a walk ended: status 0 with the leaf and its page size, or the failing entry and its level. -/
structure WalkEnd where
  status : Nat
  level  : Nat
  pte    : Nat
  log2   : Nat
  deriving DecidableEq, Repr

def pteAddr (p : Nat) : Nat := bits p 51 8 * 256
def pteSlot (p : Nat) : Nat := bits p 59 52

/-- A range lies within the valid HBM range of one stack. -/
def inHbm (a n : Nat) : Bool := decide (a + n ≤ 2 ^ 40 ∧ a % 2 ^ 36 + n ≤ stackBytes)

/-- A page lies in frames 0 to 1,429 of one stack, or in cave space (R221). -/
def pageOk (a n : Nat) : Bool :=
  decide (a + n ≤ 2 ^ 40 ∧ a % 2 ^ 36 + n ≤ stackFrames * frameBytes) || decide (2 ^ 48 ≤ a ∧ a + n ≤ 2 ^ 48 + 2 ^ 44)

/-- Condition 2 of R222 for an entry at a level. -/
def pteBad (level p : Nat) : Bool :=
  decide (bits p 63 60 ≠ 0 ∨ bits p 7 4 ≠ 0) ||
  (if bit p 1 then
    decide (level = 2) ||
      let n := if level = 1 then 2 ^ 30 else frameBytes
      decide (pteAddr p % n ≠ 0) || !pageOk (pteAddr p) n
   else
    decide (level = 0 ∨ bits p 59 52 ≠ 0 ∨ bits p 3 2 ≠ 0) ||
      let n := if level = 2 then 65536 else 256
      decide (pteAddr p % n ≠ 0) || !inHbm (pteAddr p) n)

/-- An entry of a page table, read under slot 0 (R215, R220). -/
def State.pteAt (s : State) (a : Nat) : Nat := leNat (s.dpaRead (s.slotKey 0) a 8)

/-- The walk of a virtual address of a context (R220). An address of more than 56 bits fails at the root (DEDUCED, log entry 78). -/
def State.walk (s : State) (c va : Nat) : WalkEnd :=
  if 2 ^ 56 ≤ va then ⟨0x0401, 2, 0, 43⟩ else
  let e2 := s.pteAt ((s.ctx c).ptBase + 8 * bits va 55 43)
  if !bit e2 0 then ⟨0x0401, 2, e2, 43⟩ else
  if pteBad 2 e2 then ⟨0x0403, 2, e2, 43⟩ else
  let e1 := s.pteAt (pteAddr e2 + 8 * bits va 42 30)
  if !bit e1 0 then ⟨0x0401, 1, e1, 30⟩ else
  if pteBad 1 e1 then ⟨0x0403, 1, e1, 30⟩ else
  if bit e1 1 then ⟨0, 1, e1, 30⟩ else
  let e0 := s.pteAt (pteAddr e1 + 8 * bits va 29 25)
  if !bit e0 0 then ⟨0x0401, 0, e0, 25⟩ else
  if pteBad 0 e0 then ⟨0x0403, 0, e0, 25⟩ else ⟨0, 0, e0, 25⟩

/-- The entries a walk reads, down to the level it ends at: level, address, page size (R223). -/
def State.walkReads (s : State) (c va : Nat) : List (Nat × Nat × Nat) :=
  let a2 := (s.ctx c).ptBase + 8 * bits va 55 43
  let a1 := pteAddr (s.pteAt a2) + 8 * bits va 42 30
  [(2, a2, 43), (1, a1, 30), (0, pteAddr (s.pteAt a1) + 8 * bits va 29 25, 25)].filter fun e => decide ((s.walk c va).level ≤ e.1)

/-- The walk as its reads' ECC lets it end: at the first entry read with an uncorrectable error, with 0x0560 (R212; DESIGN CHOICE, log
entry 112). -/
def State.walkEcc (s : State) (c va : Nat) (p : WalkPage) : WalkEnd :=
  match (s.walkReads c va).find? fun e => p.ue.contains e.1 with
  | some e => ⟨0x0560, e.1, s.pteAt e.2.1, e.2.2⟩
  | none => s.walk c va

/-- Count what the ECC of a walk's reads found (R212). -/
def State.walkCount (s : State) (c va : Nat) (p : WalkPage) : State :=
  let w := s.walkEcc c va p
  ((s.walkReads c va).filter fun e => decide (w.level ≤ e.1)).foldl (fun t e =>
    if p.ue.contains e.1 then t.hbmUncorrectable e.2.1 else if p.ce.contains e.1 then t.hbmCorrected e.2.1 else t) s

/-- A context may use a slot in a page-table leaf (R365, R367). -/
def State.leafSlotOk (s : State) (c k : Nat) : Bool :=
  let u := s.slot k
  u.usable && ((decide (u.kind = 0x02) && !(s.ctx c).conf) || decide (u.kind = 0x03 ∧ u.ctx = c))

/-- The extent that covers a cave frame. -/
def State.extentAt (s : State) (fr : Nat) : Option Extent :=
  (s.mem.extents.find? fun p => decide (p.2.state ≠ .free ∧ p.2.base ≤ fr ∧ fr < p.2.base + p.2.frames)).map (·.2)

/-- The status of an access to cave frames: each lies in an Active extent (R219). -/
def State.caveStatus (s : State) (fr n : Nat) : Nat :=
  let xs := (List.range n).map fun i => (s.extentAt (fr + i)).map (·.state)
  if xs.any fun x => decide (x = some .lost) then 0x0710
  else if xs.all fun x => decide (x = some .active) then 0 else 0x0711

/-- A frame of HBM is held by a memory object. -/
def State.heldByObject (s : State) (fr : Nat) : Bool :=
  match mapFind s.mem.frames fr with
  | some (.object _) => true
  | _ => false

/-- Conditions 3 to 5 of R222 on a leaf, and the extent check of R219 on a cave page. -/
def State.leafStatus (s : State) (c : Nat) (w : WalkEnd) (write : Bool) : Nat :=
  let a := pteAddr w.pte
  let n := 2 ^ w.log2 / frameBytes
  if !bit w.pte (if write then 3 else 2) then 0x0402
  else if !s.leafSlotOk c (pteSlot w.pte) then 0x0404
  else if a < 2 ^ 40 then
    if (List.range n).all fun i => s.heldByObject (dpaFrame a + i) then 0 else 0x0407
  else
    let fr := (a - 2 ^ 48) / frameBytes
    let st := s.caveStatus fr n
    if st ≠ 0 then st
    else if (List.range n).all fun i => (s.extentAt (fr + i)).any fun x => match x.owner with
        | .object _ => true
        | _ => false then 0 else 0x0407

/-! ### Tiles (R225, R226) -/

/-- The 32 MiB spans a tile meets. -/
def Tile.spans (t : Tile) : List Nat :=
  if t.len = 0 || !t.virt then [] else (List.range ((t.va + t.len - 1) / frameBytes + 1 - t.va / frameBytes)).map (t.va / frameBytes + ·)

/-- A span of a tile has been answered. -/
def Tile.known (t : Tile) (p : Nat) : Bool := (mapFind t.trans p).isSome || (mapFind t.fails p).isSome

/-- Every span of a tile has been answered. -/
def Tile.settled (t : Tile) : Bool := t.spans.all t.known

/-- Enter the outcome of a walk of a tile's span: every span of the tile that the leaf's page, or the failing entry, covers. -/
def Tile.enter (t : Tile) (p : Nat) (w : WalkEnd) (leafSt : Nat) : Tile :=
  let k := 2 ^ w.log2 / frameBytes
  let mine := t.spans.filter fun q => decide (q / k = p / k)
  if w.status = 0 ∧ leafSt = 0 then
    { t with trans := mine.foldl (fun m q => mapPut m q (w.pte, w.log2)) t.trans }
  else
    let st := if w.status ≠ 0 then w.status else leafSt
    let base := p / k * k * frameBytes
    let first := if w.status ≠ 0 ∧ w.level ≠ 0 ∧ base < t.va then t.va else base
    { t with fails := mine.foldl (fun m q => mapPut m q (st, w.level, w.pte, first)) t.fails }

/-- The cached leaf of a span. -/
def Xlate.cached (x : Xlate) (c p : Nat) : Option (Nat × Nat) :=
  (x.cache.find? fun e => decide (e.1 = c ∧ e.2.1 = p * frameBytes / 2 ^ e.2.2.1 * 2 ^ e.2.2.1)).map fun e => (e.2.2.2, e.2.2.1)

/-- Cache a leaf; which entry a full cache gives up is not specified and no result depends on it: the oldest goes (R223). -/
def Xlate.keep (x : Xlate) (c va log2 pte : Nat) : Xlate :=
  let e := (c, va / 2 ^ log2 * 2 ^ log2, log2, pte)
  let rest := x.cache.filter fun d => !decide (d.1 = c ∧ d.2.1 = e.2.1 ∧ d.2.2.1 = log2)
  let all := rest ++ [e]
  { x with cache := all.drop (all.length - 2048) }

/-- Resolve from the cache every span of a tile that it holds. -/
def State.fromCache (s : State) (c : Nat) (t : Tile) : Tile :=
  t.spans.foldl (fun t p =>
    if t.known p then t else
    match s.xl.cached c p with
    | some (pte, log2) =>
      let w : WalkEnd := ⟨0, if log2 = 30 then 1 else 0, pte, log2⟩
      t.enter p w (s.leafStatus c w t.write)
    | none => t) t

/-- The distinct pages a settled tile was found to touch (R225). -/
def Tile.pages (t : Tile) : Nat :=
  (firsts ((t.trans.map fun e => e.1 * frameBytes / 2 ^ e.2.2 * 2 ^ e.2.2) ++ t.fails.map fun e => e.2.2.2.2)).length

/-- The pieces of a tile all of whose spans resolved. -/
def Tile.resolved (t : Tile) : Pieces :=
  (cuts frameBytes t.va t.len).map fun p =>
    let e := mapGet (0, 25) t.trans (p.1 / frameBytes)
    (pteAddr e.1 + p.1 % 2 ^ e.2, p.2, pteSlot e.1)

/-- The pieces of a range of an object of context 0, from its frame list (R296), under slot 0, the key that page tables
are read with (DEDUCED, log entry 54). -/
def MemObj.piecesOf (m : MemObj) (off len : Nat) : Pieces :=
  (cuts m.page off len).map fun p => (nth 0 m.pages (p.1 / m.page) + p.1 % m.page, p.2, 0)

/-! ### Fault batches (R227 to R230) -/

/-- A fault record (R228). -/
def FaultEnt.bytes (e : FaultEnt) : List Byte :=
  leBytes 2 0x1000 ++ leBytes 2 e.status ++ leBytes 2 e.ref.ctx ++ leBytes 1 e.ref.q ++
    leBytes 1 (e.operand * 4 + e.level) ++ leBytes 4 e.ref.idx ++ leBytes 1 (if e.write then 2 else 1) ++ zeros 3 ++
    leBytes 8 e.vaFirst ++ leBytes 8 e.vaFault ++ leBytes 8 e.pte ++ leBytes 8 e.tick ++ zeros 16

/-- A batch as its ring slot holds it (R228). -/
def Batch.bytes (b : Batch) (seq : Nat) : List Byte :=
  leBytes 2 0x1000 ++ leBytes 2 b.ents.length ++ leBytes 4 seq ++ leBytes 8 b.first ++ leBytes 8 b.close ++ zeros 40 ++
    b.ents.flatMap FaultEnt.bytes

/-- Fault entries that wait in the device. -/
def Xlate.waiting (x : Xlate) : Nat := x.openEnts.length + (x.closed.map fun b => b.ents.length).foldl (· + ·) 0

/-- Commands now held: `FAULT_HELD`. -/
def State.heldCount (s : State) : Nat := (s.objs.cmds.filter fun c => decide (c.phase = .held)).length

/-- Write the first closed batch into the next ring slot if the ring is in use and the slot is free. -/
def State.writeBatch (s : State) : State :=
  match s.xl.closed with
  | [] => s
  | b :: rest =>
    let k := s.xl.pos % 2 ^ s.xl.ringLog
    if s.xl.enable && decide (s.xl.ringLog ≠ 0) && s.hostOpen 0 && (mapFind s.xl.slots k).isNone then
      let seq := if 0xFFFFFFFF ≤ s.xl.producer then 1 else s.xl.producer + 1
      ((s.hostPut (s.xl.ringBase + 8192 * k) (b.bytes seq)).onXl fun x =>
        { x with closed := rest, slots := mapPut x.slots k { b with seq := seq }, pos := x.pos + 1, producer := seq }).raise 0 1
    else s

/-- Write every closed batch that can be written, in order. -/
def State.writeBatches : Nat → State → State
  | 0, s => s
  | n + 1, s => State.writeBatches n s.writeBatch

/-- Close the open batch. -/
def State.closeBatch (s : State) : State :=
  if s.xl.openEnts.isEmpty then s else
  let t := s.onXl fun x =>
    { x with openEnts := [], closed := x.closed ++ [⟨0, x.openTick, s.now, x.openEnts⟩] }
  t.writeBatches t.xl.closed.length

/-- Add the fault entries of one command to one batch, which closes first where they would bring it past 64 (R227; DESIGN CHOICE, log
entry 126). -/
def State.addFaults (s : State) (es : List FaultEnt) : State :=
  let t := if 64 < s.xl.openEnts.length + es.length then s.closeBatch else s
  let t := t.onXl fun x =>
    { x with openTick := if x.openEnts.isEmpty then s.now else x.openTick, openEnts := x.openEnts ++ es }
  let t := es.foldl (fun u e => u.note (4 + u.senior) "FAULT_ENTRY" e.status) t
  if 64 ≤ t.xl.openEnts.length then t.closeBatch else t

/-- The fault entry of a failing tile: its lowest failing page (R226). -/
def Tile.fault (t : Tile) (r : CmdRef) (tick : Nat) : Option FaultEnt :=
  (t.fails.head?).map fun e => ⟨e.2.1, r, min t.operand 1, e.2.2.1, t.write, t.va, e.2.2.2.2, e.2.2.2.1, tick⟩

/-- The bursts a copy between memories asks for, at HBM channels, CXL ports and the host port (R319, R325; DESIGN CHOICE, log entry 40). -/
def Cmd.bursts (c : Cmd) : List (Nat × Nat) :=
  let op := cmdOp c.bytes
  let len := field c.bytes 0x20 8
  if 0x02 ≤ op ∧ op ≤ 0x06 then
    (c.tiles.flatMap fun t => t.pieces.flatMap fun p => pieceBursts t.write p.1 p.2.1) ++
      (if op = 0x03 ∨ op = 0x06 then hostBursts false len else if op = 0x04 ∨ op = 0x05 then hostBursts true len else [])
  else []

/-- A command whose tiles have resolved asks the arbiters for its bursts, in the class of its queue and its context's partition. -/
def State.askBursts (s : State) (r : CmdRef) : State :=
  match s.cmd? r with
  | none => s
  | some c =>
    let cls := (s.queue? r.ctx r.q).elim 0 fun q => q.cls
    s.onQos fun q => (c.bursts.foldl (fun q b => q.request b.1 cls (s.partOf r.ctx) b.2 (.command r)) q).release s.partOf s.now

/-- The bytes of a command reach the half they lie in: what concerns Half 1 crosses an inter-half bridge from the host port (R15). -/
def State.crossesOk (s : State) (c : Cmd) : Bool :=
  decide (s.bridgesUp ≠ []) || c.tiles.all fun t => t.pieces.all fun p => !inHalf 1 p.1

/-- A command has bytes in a half that is out of service. -/
def State.bytesOut (s : State) (c : Cmd) : Bool := c.tiles.any fun t => t.pieces.any fun p => ([0, 1] : List Nat).any fun h => s.outHalf h && inHalf h p.1

/-- A command whose bytes cannot cross waits, an admin command completes with 0x0701, as does any with bytes in a half that is out of service
(R15, R358, R359; DESIGN CHOICE, log entry 113). -/
def State.parkCut (s : State) (r : CmdRef) : State :=
  match s.cmd? r with
  | none => s
  | some c =>
    if c.phase ≠ .ready then s
    else if s.bytesOut c ∨ (r.ctx = 0 ∧ !s.crossesOk c) then s.finish r 0x0701
    else if s.crossesOk c then s else s.onCmd r fun c => { c with phase := .resolving }

/-- A command whose every tile is settled goes on: too many pages, a cave without extent, an entry read with an uncorrectable error (R212, log
entry 112), fault entries, or its effect is due. -/
def State.settle (s : State) (c : Cmd) : State :=
  let cave := (c.tiles.flatMap fun t => t.fails.map (·.2.1)).find? fun st => decide (st = 0x0710 ∨ st = 0x0711 ∨ st = 0x0560)
  let es := c.tiles.filterMap fun t => t.fault c.ref s.now
  if c.tiles.any fun t => decide (16 < t.pages) then s.finish c.ref 0x0140
  else if let some st := cave then s.finish c.ref st
  else if es.isEmpty then
    (s.onCmd c.ref fun c => { c with
      phase := .ready,
      tiles := c.tiles.map fun t => if t.virt then { t with pieces := t.resolved } else t }).askBursts c.ref |>.parkCut c.ref
  else if (s.ctx c.ref.ctx).state ≠ .active then s.finish c.ref (nth 0 (es.map (·.status)) 0)
  else if 4096 < s.xl.waiting + es.length then s.finish c.ref 0x0406
  else
    (s.onCmd c.ref fun c => { c with
      phase := .held, heldAt := s.now, faulted := some (c.faulted.getD s.now) }).addFaults es

/-- A command settles once every tile of it has. -/
def State.trySettle (s : State) (r : CmdRef) : State :=
  match s.cmd? r with
  | some c => if c.phase = .resolving ∧ c.tiles.all Tile.settled then s.settle c else s
  | none => s

/-- The read of a walk at a level, if the walk goes that far (R220). -/
def State.walkRead (s : State) (c va level : Nat) : Option (Nat × Nat × Nat) := (s.walkReads c va).find? fun e => decide (e.1 = level)

/-- The read of a walk at a level queues at the HBM channel of its entry, in the class of the command's queue (R223, R319); a walk that ended
above that level reads no more. -/
def State.walkAsk (s : State) (r : CmdRef) (operand page level : Nat) : State :=
  let cls := (s.queue? r.ctx r.q).elim 0 fun q => q.cls
  (s.walkRead r.ctx (page * frameBytes) level).elim s fun e =>
    s.onQos fun q => ((pieceBursts false e.2.1 8).foldl (fun q b =>
      q.request b.1 cls (s.partOf r.ctx) b.2 (.walk r operand page level)) q).release s.partOf s.now

/-- Reads of a walk wait for their grants, or cannot cross to Half 1 (R15; DESIGN CHOICE, log entry 113). -/
def State.walkWaits (s : State) (r : CmdRef) (operand page : Nat) : Bool :=
  (decide (s.bridgesUp = []) && (s.walkReads r.ctx (page * frameBytes)).any fun e => inHalf 1 e.2.1) ||
  decide (s.qos.leftOf (fun w => match w with
    | .walk k o p _ => decide (k = r ∧ o = operand ∧ p = page)
    | _ => false) ≠ 0)

/-- Every span that the cache did not hold begins its walk with the read of its root entry (R220, R223). -/
def State.askWalks (s : State) (r : CmdRef) : State :=
  match s.cmd? r with
  | none => s
  | some c => c.tiles.foldl (fun t x =>
      if x.virt then (x.spans.filter fun p => !x.known p).foldl (fun t p => t.walkAsk r x.operand p 2) t else t) s

/-- Resolve a command's tiles from the start: what the cache holds at once, the rest by walks to come. -/
def State.resolve (s : State) (r : CmdRef) : State :=
  (s.onCmd r fun c => { c with
    phase := .resolving,
    tiles := c.tiles.map fun t =>
      if t.virt then s.fromCache r.ctx { t with trans := [], fails := [], pieces := [] } else t }).onQos (·.drop fun w => decide (w.ref = some r ∧ w ≠ .command r))
    |>.askWalks r |>.trySettle r

/-- The walk of one span of one tile of a command has ended (R222, R223). -/
def State.walkDone (s : State) (r : CmdRef) (operand : Nat) (page : WalkPage) : State :=
  let p := page.page
  if s.walkWaits r operand p then s else
  match s.cmd? r with
  | none => s
  | some c =>
    match c.tiles.find? fun t => decide (t.operand = operand) && t.spans.contains p && !t.known p with
    | none => s
    | some t =>
      let w := s.walkEcc r.ctx (p * frameBytes) page
      let st := if w.status = 0 then s.leafStatus r.ctx w t.write else 0
      let u := (s.walkCount r.ctx (p * frameBytes) page).onXl fun x =>
        let x := { x with walks := sat32 x.walks 1 }
        if w.status = 0 ∧ st = 0 then x.keep r.ctx (p * frameBytes) w.log2 w.pte else x
      (u.onCmd r fun c => { c with
        tiles := c.tiles.map fun t => if t.operand = operand then t.enter p w st else t }).trySettle r

/-- Drop the cached leaves of a context that overlap a range (R224). -/
def Xlate.drop (x : Xlate) (c va len : Nat) : Xlate :=
  { x with cache := x.cache.filter fun e =>
      !(decide (e.1 = c ∧ e.2.1 < va + len) && decide (va < e.2.1 + 2 ^ e.2.2.1)) }

/-- Answer the batch a `FAULT_DONE` write names (R229): each held command of it by its replies. -/
def State.answerBatch (s : State) (v : Nat) : State :=
  let s := s.onXl fun x => { x with done := v }
  match s.xl.slots.find? fun p => decide (p.2.seq = v) with
  | none => s
  | some (k, b) =>
    let base := s.xl.ringBase + 8192 * k
    let rs := (List.range b.ents.length).zip b.ents |>.map fun p =>
      (p.2, leNat (s.hostRead (base + 64 + 64 * p.1 + 0x30) 1))
    let s := s.onXl fun x => { x with slots := mapDel x.slots k }
    let refs := rs.foldl (fun l p => if l.contains p.1.ref then l else l ++ [p.1.ref]) ([] : List CmdRef)
    let s := refs.foldl (fun t r =>
      match t.cmd? r with
      | none => t
      | some c =>
        if c.phase ≠ .held then t else
        let mine := rs.filter fun p => decide (p.1.ref = r)
        if mine.all fun p => decide (p.2 = 1) then
          (t.onCmd r fun c => { c with excused := c.excused + (t.now - c.heldAt) }).resolve r
        else match mine.find? fun p => decide (p.2 = 2) with
          | some p => t.finish r p.1.status
          | none => t.finish r 0x0103) s
    s.writeBatches s.xl.closed.length

end Sys2Proof.Machine
end

