-- ==== Sys2Proof/Machine/Frames.lean ====
section
/-! DEFINITION. HBM frames (R208, R209), cave extents (R216 to R218), key slots taken and retired, and the Wash (R384, R385). -/

namespace Sys2Proof.Machine
open Sys2Proof

/-! ### HBM frames -/

/-- Frames the device holds: its reserve on every stack and the control memory of stacks 0 and 8 (R209). -/
def deviceFrame (fr : Nat) : Bool :=
  let f := fr % stackFrames
  decide (1426 ≤ f) || (decide (fr / stackFrames = 0 ∨ fr / stackFrames = 8) && decide (1394 ≤ f))

/-- A frame is Free. -/
def State.frameFree (s : State) (fr : Nat) : Bool :=
  !deviceFrame fr && (mapFind s.mem.frames fr).isNone && !s.mem.hbmOut.contains (fr / stackFrames) &&
    !s.halfCut (fr / stackFrames / 8)

/-- First frames of the Free pages of `n` frames on a stack (R208). -/
def State.freePages (s : State) (stack n : Nat) : List Nat :=
  let starts := if n = 1 then List.range stackFrames else (List.range 44).map (· * 32)
  (starts.map (stack * stackFrames + ·)).filter fun fr => (List.range n).all fun i => s.frameFree (fr + i)

/-- Pick `k` entries of a list: which of them is open (DESIGN CHOICE, log entry 10). -/
def pick : Nat → Nat → List Nat → List Nat
  | 0, _, _ => []
  | k + 1, n, l =>
    if l.isEmpty then [] else
    let a := nth 0 l (Config.freeNat n % l.length)
    a :: pick k (n + 1) (l.filter (· ≠ a))

def State.holdFrames (s : State) (frs : List Nat) (u : FrameUse) : State :=
  s.onMem fun m => { m with frames := frs.foldl (fun f k => mapPut f k u) m.frames }

def State.dropFrames (s : State) (frs : List Nat) : State :=
  s.onMem fun m => { m with frames := frs.foldl mapDel m.frames }

/-! ### Cave extents -/

/-- Cave frames of Active, unowned extents in reach (R359). -/
def State.caveFree (s : State) : List (Nat × Nat) :=
  (s.mem.extents.filter fun p => decide (p.2.state = .active ∧ p.2.owner = .none) && !s.halfCut (p.2.port / 2)).map fun p => (p.2.base, p.2.frames)

/-- First frames of the unowned cave pages of `n` frames, each in one extent. -/
def State.cavePages (s : State) (n : Nat) : List Nat :=
  s.caveFree.flatMap fun p =>
    ((List.range (p.2 / n + 1)).map fun i => (ceilDiv p.1 n + i) * n).filter fun fr =>
      decide (p.1 ≤ fr ∧ fr + n ≤ p.1 + p.2)

/-- The lowest Free entries of the extent table. -/
def freeEntries (m : SMap Extent) : List Nat := (List.range 1024).filter fun e => (mapFind m e).isNone

/-- Take frames [fr, fr + n) of the extent that covers them for an owner, splitting it as needed; none where the table is full
(R217). The entry keeps the lowest part; the others take the lowest Free entries (DESIGN CHOICE, log entry 11). -/
def takeExtent (m : SMap Extent) (fr n : Nat) (o : ExtOwner) : Option (SMap Extent) :=
  match m.find? fun p => decide (p.2.state = .active ∧ p.2.owner = .none ∧ p.2.base ≤ fr ∧ fr + n ≤ p.2.base + p.2.frames) with
  | none => none
  | some (e, x) =>
    let parts : List Extent :=
      (if x.base < fr then [{ x with frames := fr - x.base }] else []) ++
      [{ x with base := fr, frames := n, owner := o }] ++
      (if fr + n < x.base + x.frames then [{ x with base := fr + n, frames := x.base + x.frames - (fr + n) }] else [])
    let more := (freeEntries m).take (parts.length - 1)
    if more.length + 1 < parts.length then none
    else some ((parts.zip (e :: more)).foldl (fun m p => mapPut m p.2 p.1) m)

/-- Take several pages of `n` frames. -/
def takeExtents (n : Nat) (o : ExtOwner) : List Nat → SMap Extent → Option (SMap Extent)
  | [], m => some m
  | fr :: frs, m => (takeExtent m fr n o).bind (takeExtents n o frs)

/-- Merge adjacent unowned entries of one device into the lower entry (R217). -/
def mergeExtents : Nat → SMap Extent → SMap Extent
  | 0, m => m
  | k + 1, m =>
    let fits := fun (a b : Nat × Extent) => decide (a.1 ≠ b.1 ∧ a.2.state = .active ∧ b.2.state = .active ∧ a.2.owner = .none ∧
      b.2.owner = .none ∧ a.2.port = b.2.port ∧ a.2.dev = b.2.dev ∧ a.2.base + a.2.frames = b.2.base)
    match m.findSome? fun a => (m.find? fun b => fits a b).map fun b => (a, b) with
    | none => m
    | some (a, b) =>
      let lo := min a.1 b.1
      let hi := max a.1 b.1
      mergeExtents k (mapPut (mapDel m hi) lo { a.2 with frames := a.2.frames + b.2.frames })

/-- Release every extent of an owner to Active, unowned. -/
def State.freeExtents (s : State) (own : ExtOwner → Bool) : State :=
  s.onMem fun m => { m with extents := mergeExtents 1024 (mapAll m.extents fun _ x =>
    if own x.owner then { x with owner := .none } else x) }

/-- The extents of one owner pass to another. -/
def State.moveExtents (s : State) (frm into : ExtOwner) : State :=
  s.onMem fun m => { m with extents := mapAll m.extents fun _ x => if x.owner = frm then { x with owner := into } else x }

/-- The device slot of an extent (R479). -/
def Extent.slot (x : Extent) : Nat := 8 * x.port + x.dev

/-- Answer a cave device that an extent is released (R217). -/
def State.releaseResponse (s : State) (x : Extent) : State :=
  s.send "DC_RELEASE" x.slot [x.base, x.frames] []

/-! ### Memory objects -/

/-- The frames of HBM an object holds. -/
def MemObj.hbmList (m : MemObj) : List Nat :=
  (m.pages.filter fun a => decide (a < 2 ^ 40)).flatMap fun a =>
    (List.range (m.page / frameBytes)).map fun i => dpaFrame a + i

/-- The cave frames an object holds. -/
def MemObj.caveList (m : MemObj) : List Nat :=
  (m.pages.filter fun a => decide (2 ^ 48 ≤ a)).flatMap fun a =>
    (List.range (m.page / frameBytes)).map fun i => (a - 2 ^ 48) / frameBytes + i

/-- The index MEMOBJ_CREATE takes: free longest, the never used in order first (R310). -/
def State.freeIndex (s : State) : Option Nat :=
  if s.objs.nextIdx < 2 ^ 20 then some s.objs.nextIdx else s.objs.freeIdx.head?

/-- Enter an object under an index, with the generation that makes its handle. -/
def State.newObj (s : State) (i : Nat) (o : MemObj) : State :=
  let g := mapGet 0 s.objs.gens i
  let g := if g = 0 ∨ (i = 2 ^ 20 - 1 ∧ g = 4095) then 1 else g
  s.onObjs fun u => { u with
    objs := mapPut u.objs i { o with gen := g },
    gens := mapPut u.gens i g,
    freeIdx := if u.nextIdx < 2 ^ 20 then u.freeIdx else u.freeIdx.drop 1,
    nextIdx := if u.nextIdx < 2 ^ 20 then u.nextIdx + 1 else u.nextIdx }

/-- The handle of an index now. -/
def State.handle (s : State) (i : Nat) : Nat := 4096 * i + mapGet 0 s.objs.gens i

/-! ### Key slots and the Wash -/

/-- Fill an Empty slot (R364). -/
def State.fillSlot (s : State) (k : Nat) (u : KeySlot) : State := s.onKeys fun v => v.onSlot k fun _ => u

/-- Slots begin to retire (R367). -/
def State.retireSlots (s : State) (ks : List Nat) : State :=
  ks.foldl (fun t k => t.onKeys fun v => v.onSlot k fun u => u.startRetire s.now) s

/-- The slots a test picks. -/
def State.slotsWhere (s : State) (p : KeySlot → Bool) : List Nat :=
  (s.keys.slots.filter fun e => decide (2 ≤ e.1) && p e.2).map (·.1)

/-- The largest number of the frames listed on one stack. -/
def mostOnStack (frs : List Nat) : Nat :=
  maxNat ((List.range 16).map fun q => (frs.filter fun f => decide (f / stackFrames = q)).length)

/-- Start a Wash (R384, R385). -/
def State.startWash (s : State) (k : WashKind) (slots frames cave : List Nat) : State :=
  let id := maxNat (s.keys.washes.map (·.1)) + 1
  let span := 8192 * mostOnStack frames + (match k with | .frames => 0 | _ => 5120)
  let t := (s.retireSlots slots).holdFrames frames (.washing id)
  t.onKeys fun v => { v with washes := mapPut v.washes id ⟨k, s.now, span, slots, frames, cave, false⟩ }

/-- The identifier of the Wash started last. -/
def State.lastWash (s : State) : Nat := maxNat (s.keys.washes.map (·.1))

/-- The frames of a freed object that nothing refers to are released to a Wash; its index becomes free (R310, R312). -/
def State.releaseObj (s : State) (i : Nat) : State :=
  match s.obj? i with
  | none => s
  | some o =>
    let t := s.onObjs fun u => { u with objs := mapDel u.objs i, freeIdx := u.freeIdx ++ [i] }
    if o.pages.isEmpty then t else
    let t := t.startWash .frames [] o.hbmList o.caveList
    t.moveExtents (.object i) (.washing t.lastWash)

end Sys2Proof.Machine
end

