-- ==== Sys2Proof/Machine/Contexts.lean ====
section
/-! DEFINITION. Commands that create and remove contexts, queues and memory objects and take or release cave capacity (R295, R300,
R310 to R312, R216 to R218, R332), and residency (R297 to R299, R324). -/

namespace Sys2Proof.Machine
open Sys2Proof

/-! ### The shape of a command's meaning -/

/-- The effect of command `r` is due, its opcode is `op`, every burst it asked for has been granted and the package is not in Cellar: apply
`f`; otherwise the event does not take place (R434; DESIGN CHOICE, log entry 1). -/
def State.onDue (s : State) (r : CmdRef) (op : Nat) (f : Cmd → State) : State :=
  match s.cmd? r with
  | some c => if c.phase = .ready ∧ cmdOp c.bytes = op ∧ s.qos.burstsOf r = 0 ∧ s.asleep = false then f c else s
  | none => s

/-- As `onDue`, with the command's own check first. -/
def State.checked (s : State) (r : CmdRef) (op : Nat) (check : State → Cmd → Nat) (f : Cmd → State) : State :=
  s.onDue r op fun c =>
    let st := check s c
    if st ≠ 0 then s.finish r st else f c

/-! ### Residency -/

/-- A queue of a context has its head ready to make it runnable (R297). -/
def State.queueRuns (s : State) (c q : Nat) (u : Queue) : Bool :=
  !u.error && decide ((s.door c q).1 ≠ u.sqHead)

/-- The queues of a context. -/
def State.queuesOf (s : State) (c : Nat) : List (Nat × Queue) :=
  (s.objs.queues.filter fun p => decide (p.1 / 16 = c)).map fun p => (p.1 % 16, p.2)

/-- A queue recorded as waiting at eviction has seen its fence reach the awaited epoch (R297, R299). -/
def Queue.fenceCame (u : Queue) : Bool := u.met.isSome

/-- A held command of a context has been answered RETRY and goes on (R229, R297). -/
def State.retried (s : State) (c : Nat) : Bool :=
  s.objs.cmds.any fun x => decide (x.ref.ctx = c ∧ x.phase ≠ .held ∧ x.phase ≠ .done) && x.faulted.isSome

/-- A context is runnable: unfetched commands, a command answered RETRY, or a wait that has been met (R297). -/
def State.runnable (s : State) (c : Nat) : Bool :=
  s.retried c || (s.queuesOf c).any fun p => s.queueRuns c p.1 p.2 || (!p.2.error && p.2.fenceCame)

/-- Commands of a context fetched or in dispatch: `IN_FLIGHT` (R317). -/
def State.inFlight (s : State) (c : Nat) : Nat :=
  ((s.queuesOf c).map fun p => p.2.fetched.length).foldl (· + ·) 0 +
    (s.objs.cmds.filter fun x => decide (x.ref.ctx = c)).length

/-- A queue holds no command that has not been dispatched: its ring is empty and it has fetched none. -/
def State.queueEmpty (s : State) (c q : Nat) (u : Queue) : Bool := decide ((s.door c q).1 = u.sqHead ∧ u.fetched = [])

/-- The class of an Active context (R297); a queue with nothing to dispatch keeps no context from being blocked by its others (DEDUCED, log
entry 139). -/
def State.classOf (s : State) (c : Nat) : CtxClass :=
  let l := s.queuesOf c
  if (s.ctx c).slot.isNone then (if s.runnable c then .runnable else .none)
  else if s.inFlight c = 0 ∧ (l.all fun p => s.queueEmpty c p.1 p.2) then .idle
  else if (l.any fun p => s.queueStuck c p.1 p.2) && l.all fun p => s.queueStuck c p.1 p.2 || s.queueEmpty c p.1 p.2 then .blocked
  else .runnable

/-- Classify every Active context, keeping the Tick at which its class began (R297). -/
def State.classify (s : State) : State :=
  s.onObjs fun o => { o with ctxs := mapAll o.ctxs fun c x =>
    if x.state = .active then
      let k := s.classOf c
      if x.cls = k then x else { x with cls := k, since := s.now }
    else x }

/-- Resident contexts of a function other than context 0. -/
def State.residents (s : State) (f : Nat) : List Nat :=
  (s.objs.ctxs.filter fun p => decide (p.1 ≠ 0 ∧ p.2.function = f) && p.2.slot.isSome).map (·.1)

/-- The resident contexts of every function other than context 0. -/
def State.allResidents (s : State) : List Nat :=
  (s.objs.ctxs.filter fun p => decide (p.1 ≠ 0) && p.2.slot.isSome).map (·.1)

/-- `SLOT_MAX` of a function; function 0 has an implicit 47 (R324). -/
def State.slotMax (s : State) (f : Nat) : Nat := if f = 0 then 47 else (s.fn f).slotMax

/-- The candidates for eviction (R324). -/
def State.evictable (s : State) (f : Nat) : List Nat :=
  if s.slotMax f ≤ (s.residents f).length then s.residents f
  else s.allResidents.filter fun c =>
    let g := (s.ctx c).function
    decide (g = f) || decide ((s.fn g).slotMin < (s.residents g).length)

/-- The context of a list that has been in its class longest, ties to the lower ID. -/
def State.longest (s : State) : List Nat → Option Nat
  | [] => none
  | a :: l => some (l.foldl (fun b c => if (s.ctx c).since < (s.ctx b).since then c else b) a)

/-- The context R298 evicts: idle longest, else blocked longest where every candidate is blocked, in the classes of the last Tick (R297). -/
def State.victim (s : State) (f : Nat) : Option Nat :=
  let l := s.evictable f
  let idle := l.filter fun c => decide ((s.ctx c).cls = .idle)
  if !idle.isEmpty then s.longest idle
  else if l.all fun c => decide ((s.ctx c).cls = .blocked) then s.longest l else none

/-- Evict a context: fetch points go back, waits are recorded and their slots released (R299); the first fetch of each command is kept
(R334). -/
def State.evict (s : State) (c : Nat) : State :=
  let t := s.onCtx c fun x => { x with slot := none, evicts := sat32 x.evicts 1, cls := .none, since := s.now }
  t.onObjs fun o => { o with
    swaps := sat32 o.swaps 1,
    queues := mapAll o.queues fun k u =>
      if k / 16 = c then { u with
        sqHead := (u.fetched.head?.map (·.idx)).getD u.sqHead,
        reserved := u.reserved - u.fetched.length,
        old := (u.fetched.map fun h => (h.idx, h.tick)) ++ u.old,
        fetched := [], asked := none, slotted := false }
      else u }

/-- The lowest free context slot (R297). -/
def State.freeSlot (s : State) : Option Nat :=
  ((List.range 48).filter fun k => !(s.objs.ctxs.any fun p => decide (p.2.slot = some k))).head?

/-- A context slot can be had for a context of function `f`: a free one below `SLOT_MAX`, or a candidate's (R298, R324). -/
def State.mayEnter (s : State) (f : Nat) : Bool :=
  (decide ((s.residents f).length < s.slotMax f) && s.freeSlot.isSome) || (s.victim f).isSome

/-- No runnable non-resident context that a slot can be had for became runnable before `c` did (R298, R324). -/
def State.firstRunnable (s : State) (c : Nat) : Bool :=
  s.objs.ctxs.all fun p =>
    !(decide (p.1 ≠ c ∧ p.2.state = .active ∧ p.2.slot = none ∧ p.2.cls = .runnable) && s.mayEnter p.2.function) ||
      decide ((s.ctx c).since < p.2.since ∨ ((s.ctx c).since = p.2.since ∧ c < p.1))

/-- Bring a context in (R298). -/
def State.swapIn (s : State) (c : Nat) : State :=
  let f := (s.ctx c).function
  let t := if s.slotMax f ≤ (s.residents f).length ∨ s.freeSlot = none then
      match s.victim f with
      | some v => s.evict v
      | none => s
    else s
  if t.slotMax f ≤ (t.residents f).length then s else
  match t.freeSlot with
  | some k => t.onCtx c fun x => { x with slot := some k, cls := .runnable, since := s.now }
  | none => s

/-- CONTEXT_SWAP_IN (R298, R299, R324): a runnable context that is not resident becomes resident. -/
def execContextSwapIn (c : Nat) (s : State) : Host.Outcome State Fault Refusal :=
  .next (if (s.ctx c).state = .active ∧ (s.ctx c).slot = none ∧ c ≠ 0 ∧ (s.ctx c).cls = .runnable ∧ s.firstRunnable c then s.swapIn c else s)

/-! ### CONTEXT_CREATE -/

/-- A context ID lies in a function's range. -/
def FuncCfg.hasCtx (u : FuncCfg) (c : Nat) : Bool := decide (u.ctxFirst ≤ c ∧ c < u.ctxFirst + u.ctxCount)

/-- The page-table root lies in an HBM object of context 0 (R295). -/
def rootOk (o : MemObj) (off : Nat) : Bool :=
  decide (off % 65536 = 0 ∧ off + 65536 ≤ o.size) && decide (nth (2 ^ 48) o.pages (off / o.page) < 2 ^ 40)

/-- A reset of a function is still tearing a context of it down (R465). -/
def State.resetting (s : State) (f : Nat) : Bool :=
  s.objs.ctxs.any fun p => decide (p.2.function = f ∧ p.2.state = .tearing ∧ p.2.destroyer = none)

/-- Check 12 of CONTEXT_CREATE (R295, R332, R366). -/
def ownContextCreate (s : State) (c : Cmd) : Nat :=
  let b := c.bytes
  let t := cmdTarget b
  let f := field b 0x1E 1
  let lo := field b 0x28 2
  let n := field b 0x2C 4
  if t = 0 ∨ (s.ctx t).state ≠ .free ∨ (f ≠ 0 ∧ s.resetting f) then 0x0244
  else if field b 0x1C 2 ≠ 0x1000 then 0x0102
  else if !((s.obj? (hIdx (field b 0x18 4))).any fun o => rootOk o (field b 0x10 8)) then 0x0141
  else if f ≠ 0 ∧ !(s.fn f).hasCtx t then 0x0301
  else if f = 0 ∧ (s.qos.funcAct.any fun p => decide (p.1 ≠ 0) && p.2.hasCtx t) then 0x0301
  else if f ≠ 0 ∧ ¬((s.fn f).fenceLo ≤ lo ∧ lo + n ≤ (s.fn f).fenceLo + (s.fn f).fenceN) then 0x0243
  else if 65536 < lo + n ∨ (s.objs.ctxs.any fun p => decide (p.1 ≠ 0 ∧ p.2.state ≠ .free ∧ lo < p.2.fenceLo + p.2.fenceN ∧
      p.2.fenceLo < lo + n ∧ 0 < n ∧ 0 < p.2.fenceN)) then 0x0243
  else if bit (field b 0x1F 1) 0 ∧ s.emptySlots = [] then 0x0821
  else 0

/-- The context CONTEXT_CREATE makes. -/
def newContext (b : List Byte) (o : MemObj) : Context :=
  let off := field b 0x10 8
  { Context.empty with
    state := .active, function := field b 0x1E 1, ptObj := hIdx (field b 0x18 4), ptOff := off,
    ptBase := nth 0 o.pages (off / o.page) + off % o.page, conf := bit (field b 0x1F 1) 0,
    fenceBus := field b 0x20 8, fenceLo := field b 0x28 2, fenceN := field b 0x2C 4, group := field b 0x2A 2 % 4096 }

/-- The fences of a new context: Signalled, status 0, epoch 0, records written (R295). -/
def State.newFences (s : State) (lo n : Nat) : State :=
  (List.range n).foldl (fun t i => t.putFence (lo + i) { Fence.created with tick := s.now }) s

/-- The lowest Empty slot takes the random key of a confidential context (R366). -/
def State.contextKey (s : State) (c : Nat) : State :=
  match s.emptySlots with
  | [] => s
  | k :: _ =>
    (s.fillSlot k { KeySlot.none with state := .active, kind := 3, ctx := c, key := s.freeBytes 64 }).draw 64

/-- CONTEXT_CREATE (R295, R366). -/
def State.createContext (s : State) (c : Cmd) : State :=
  let t := cmdTarget c.bytes
  match s.obj? (hIdx (field c.bytes 0x18 4)) with
  | none => s
  | some o =>
    let x := newContext c.bytes o
    let u := (s.onCtx t fun _ => { x with since := s.now }).newFences x.fenceLo x.fenceN
    let u := if x.conf then u.contextKey t else u
    u.finish c.ref 0

/-- CONTEXT_CREATE. -/
def execContextCreate (r : CmdRef) (s : State) : Host.Outcome State Fault Refusal :=
  .next (s.checked r 0x20 ownContextCreate s.createContext)

/-! ### QUEUE_CREATE and QUEUE_DESTROY -/

/-- Check 12 of QUEUE_CREATE (R300, R320, R332); unaligned rings and `CQ_LOG2` below `SQ_LOG2` give 0x0103 (DESIGN CHOICE, log entry 12). -/
def ownQueueCreate (s : State) (c : Cmd) : Nat :=
  let b := c.bytes
  let t := cmdTarget b
  let sq := field b 0x20 1
  let cq := field b 0x21 1
  let f := (s.ctx t).function
  if t = 0 ∨ (s.ctx t).state ≠ .active then 0x0244
  else if (s.queue? t (cmdArg0 b % 16)).isSome then 0x0245
  else if cq < sq ∨ field b 0x10 8 % (64 * 2 ^ sq) ≠ 0 ∨ field b 0x18 8 % (16 * 2 ^ cq) ≠ 0 then 0x0103
  else if f ≠ 0 ∧ (s.fn f).classMax < field b 0x24 1 then 0x0103
  else 0

/-- A queue as created: empty rings, no command. -/
def newQueue (sqBus cqBus sqLog cqLog vector cls : Nat) : Queue where
  sqBus := sqBus
  cqBus := cqBus
  sqLog := sqLog
  cqLog := cqLog
  vector := vector
  cls := cls
  sqHead := 0
  cqTail := 0
  reserved := 0
  error := false
  fetched := []
  old := []
  waiting := none
  asked := none
  slotted := false
  met := none

/-- Enter a queue with its doorbells at 0 (DEDUCED, log entry 13). -/
def State.putQueue (s : State) (c q : Nat) (u : Queue) : State :=
  s.onObjs fun o => { o with
    queues := mapPut o.queues (16 * c + q) u, doors := mapDel o.doors (16 * c + q) }

def State.createQueue (s : State) (c : Cmd) : State :=
  let b := c.bytes
  (s.putQueue (cmdTarget b) (cmdArg0 b % 16) (newQueue (field b 0x10 8) (field b 0x18 8) (field b 0x20 1) (field b 0x21 1)
    (field b 0x22 2) (field b 0x24 1))).finish c.ref 0

/-- QUEUE_CREATE (R300). -/
def execQueueCreate (r : CmdRef) (s : State) : Host.Outcome State Fault Refusal :=
  .next (s.checked r 0x22 ownQueueCreate s.createQueue)

/-- Check 12 of QUEUE_DESTROY (R300): the queue exists and has no command fetched, in dispatch or held. -/
def ownQueueDestroy (s : State) (c : Cmd) : Nat :=
  let t := cmdTarget c.bytes
  let q := cmdArg0 c.bytes % 16
  match s.queue? t q with
  | none => 0x0245
  | some u =>
    if u.fetched ≠ [] ∨ (s.objs.cmds.any fun x => decide (x.ref.ctx = t ∧ x.ref.q = q)) then 0x0245 else 0

/-- QUEUE_DESTROY (R300). -/
def execQueueDestroy (r : CmdRef) (s : State) : Host.Outcome State Fault Refusal :=
  .next (s.checked r 0x23 ownQueueDestroy fun c =>
    (s.onObjs fun o => { o with
      queues := mapDel o.queues (16 * cmdTarget c.bytes + cmdArg0 c.bytes % 16) }).finish r 0)

/-! ### MEMOBJ_CREATE and MEMOBJ_FREE -/

/-- Pages a MEMOBJ_CREATE may take: page addresses with Free frames (R209, R217, R306). -/
def State.pagePool (s : State) (tier stack n : Nat) : List Nat :=
  if tier = 2 then (s.cavePages n).map fun fr => caveDpa (fr * frameBytes)
  else (if tier = 1 then [stack] else List.range 16).flatMap fun q => (s.freePages q n).map frameDpa

def objPage (b : List Byte) : Nat := if field b 0x2A 1 = 1 then 2 ^ 30 else frameBytes

/-- The pages taken. -/
def State.takePages (s : State) (b : List Byte) : List Nat :=
  let n := field b 0x10 8 / objPage b
  let pool := s.pagePool (field b 0x28 1) (field b 0x29 1) (objPage b / frameBytes)
  pick n s.fresh pool

/-- The extent table after cave pages are taken for an object. -/
def State.takeCave (s : State) (ps : List Nat) (n i : Nat) : Option (SMap Extent) :=
  takeExtents n (.object i) (ps.map fun a => (a - 2 ^ 48) / frameBytes) s.mem.extents

/-- Check 12 of MEMOBJ_CREATE (R311, R332). -/
def ownMemobjCreate (s : State) (c : Cmd) : Nat :=
  let b := c.bytes
  let t := cmdTarget b
  let f := (s.ctx t).function
  let n := field b 0x10 8 / frameBytes
  let k := field b 0x10 8 / objPage b
  let cave := decide (field b 0x28 1 = 2)
  if (s.ctx t).state ≠ .active then 0x0244
  else if f ≠ 0 ∧ (s.fn f).objLimit ≤ (s.fnObjs f).length then 0x0203
  else match s.freeIndex with
    | none => 0x0203
    | some i =>
      if f ≠ 0 ∧ !cave ∧ (s.fn f).hbmFrames < s.fnHbm f + n then 0x0204
      else if f ≠ 0 ∧ cave ∧ (s.fn f).caveFr < s.fnCave f + n then 0x0204
      else if (s.pagePool (field b 0x28 1) (field b 0x29 1) (objPage b / frameBytes)).length < k then 0x0204
      else if cave ∧ s.takeCave (s.takePages b) (objPage b / frameBytes) i = none then 0x0204
      else 0

/-- The result record of MEMOBJ_CREATE (R311). -/
def objRecord (h : Nat) (ps : List Nat) : List Byte :=
  leBytes 2 0x1000 ++ zeros 2 ++ leBytes 4 h ++ leBytes 4 ps.length ++ zeros 4 ++ ps.flatMap (leBytes 8)

/-- MEMOBJ_CREATE (R310, R311). -/
def State.createObj (s : State) (c : Cmd) : State :=
  let b := c.bytes
  match s.freeIndex with
  | none => s
  | some i =>
    let ps := s.takePages b
    let n := objPage b / frameBytes
    let o : MemObj := ⟨0, cmdTarget b, field b 0x10 8, field b 0x18 8, objPage b, ps, false, false, none⟩
    let t := (s.draw ps.length).newObj i o
    let t := if field b 0x28 1 = 2 then
        match t.takeCave ps n i with
        | some x => t.onMem fun m => { m with extents := x }
        | none => t
      else t.holdFrames o.hbmList (.object i)
    (t.hostPost 0 (field b 0x20 8) (objRecord (t.handle i) ps)).finishWith c.ref 0 (t.handle i)

/-- MEMOBJ_CREATE. -/
def execMemobjCreate (r : CmdRef) (s : State) : Host.Outcome State Fault Refusal :=
  .next (s.checked r 0x24 ownMemobjCreate s.createObj)

/-- Check 12 of MEMOBJ_FREE: it does not accept a region object (R139). -/
def ownMemobjFree (s : State) (c : Cmd) : Nat :=
  if (s.obj? (hIdx (cmdTarget c.bytes))).any fun o => o.region.isSome then 0x0301 else 0

/-- MEMOBJ_FREE (R310, R312): the generation has advanced at dispatch; the command ends. -/
def execMemobjFree (r : CmdRef) (s : State) : Host.Outcome State Fault Refusal :=
  .next (s.onDue r 0x25 fun c => (s.freeObj (hIdx (cmdTarget c.bytes))).finish r 0)

/-- MEMOBJ_FRAMES_RELEASE (R312): the last reference to a freed object has ended; its frames are Washed. -/
def execMemobjFramesRelease (i : Nat) (s : State) : Host.Outcome State Fault Refusal :=
  .next (if (s.obj? i).any (·.freed) ∧ !s.referenced i then s.releaseObj i else s)

/-! ### CAVE_ACCEPT and CAVE_RELEASE -/

def State.extent (s : State) (e : Nat) : Extent := mapGet Extent.empty s.mem.extents e

def State.onExtent (s : State) (e : Nat) (f : Extent → Extent) : State :=
  s.onMem fun m => { m with extents := mapModify m.extents e f }

def State.delExtent (s : State) (e : Nat) : State := s.onMem fun m => { m with extents := mapDel m.extents e }

def State.poolId (s : State) (x : Extent) : Nat := (mapGet CxlDev.absent s.cxlDevs x.slot).pool

/-- Check 12 of CAVE_ACCEPT (R217, R478); an entry that is not Offered gives 0x0103 (DESIGN CHOICE, log entry 12). -/
def ownCaveAccept (s : State) (c : Cmd) : Nat :=
  let x := s.extent (cmdTarget c.bytes)
  if x.state ≠ .offered ∨ s.poolId x = 0xFFFF then 0x0103 else 0

/-- CAVE_ACCEPT (R217): the extent becomes Active, unowned. -/
def execCaveAccept (r : CmdRef) (s : State) : Host.Outcome State Fault Refusal :=
  .next (s.checked r 0x26 ownCaveAccept fun c =>
    (s.onExtent (cmdTarget c.bytes) fun x => { x with state := .active, owner := .none }).finish r 0)

/-- Check 12 of CAVE_RELEASE (R217); a Free or Zeroing entry gives 0x0103 (DESIGN CHOICE, log entry 12). -/
def ownCaveRelease (s : State) (c : Cmd) : Nat :=
  let x := s.extent (cmdTarget c.bytes)
  if x.state = .free ∨ x.state = .zeroing then 0x0103
  else if x.state = .active ∧ x.owner ≠ .none then 0x0220 else 0

/-- CAVE_RELEASE (R217, R218). -/
def State.caveRelease (s : State) (c : Cmd) : State :=
  let e := cmdTarget c.bytes
  let x := s.extent e
  if x.state = .offered then ((s.delExtent e).releaseResponse x).finish c.ref 0
  else if x.state = .lost then (s.delExtent e).finish c.ref 0
  else ((s.onExtent e fun x => { x with state := .zeroing }).traffic 0 true (2 ^ 48 + x.base * frameBytes) (x.frames * frameBytes)).onCmd c.ref fun c => { c with phase := .waiting }

/-- CAVE_RELEASE: the command completes once the extent is Free (DEDUCED, log entry 14). -/
def execCaveRelease (r : CmdRef) (s : State) : Host.Outcome State Fault Refusal :=
  .next (s.checked r 0x27 ownCaveRelease s.caveRelease)

/-- Every access admitted to cave frames has completed: no command in dispatch moves bytes there (R218). -/
def State.caveQuiet (s : State) (fr n : Nat) : Bool :=
  !(s.objs.cmds.any fun c => decide (c.phase ≠ .done) && c.tiles.any fun t => t.pieces.any fun p =>
    decide (caveDpa (fr * frameBytes) < p.1 + p.2.1 ∧ p.1 < caveDpa ((fr + n) * frameBytes)))

/-- The zeroing of an extent has written its last byte (R218). -/
def State.zeroed (s : State) (e : Nat) : State :=
  let x := s.extent e
  let t := (s.onMem fun m => m.zero (caveDpa (x.base * frameBytes)) (x.frames * frameBytes))
  let t := (t.delExtent e).releaseResponse x
  (s.objs.cmds.filter fun c => decide (c.phase = .waiting ∧ cmdOp c.bytes = 0x27 ∧ cmdTarget c.bytes = e)).foldl
    (fun t c => t.finish c.ref 0) t

/-- CAVE_ZEROING_DONE (R217, R218). -/
def execCaveZeroingDone (e : Nat) (s : State) : Host.Outcome State Fault Refusal :=
  .next (if (s.extent e).state = .zeroing ∧ s.caveQuiet (s.extent e).base (s.extent e).frames then s.zeroed e else s)

end Sys2Proof.Machine
end

