-- ==== Sys2Proof/Machine/Routes.lean ====
section
/-! DEFINITION. Router tables of a Mould (R122, R132, R154) and what a router's port leads to (R154, R155, R475). -/

namespace Sys2Proof.Machine
open Sys2Proof

/-! ### Router tables -/

/-- The table of a router of a package, of an alternate kind and, for a core position, a spare position (R132). -/
def mRouterSec (m : Mould) (l router alt sp : Nat) : Option Section :=
  m.sections.find? fun x => decide (x.typ = secRouter ∧ instLpkg x.inst = l ∧ bits x.inst 10 0 = router ∧ altKind x.inst = alt ∧
    (1024 ≤ router ∨ secSpare x.inst = sp))

/-- The table in force for a spare position: the primary, else the spare-position alternate (R132, R133); a failed router at the spare
position is avoided where an alternate of kind 2 is there (R411). -/
def mRouterTable (m : Mould) (l router sp : Nat) (avoid : Bool) (step : Nat) : List RouteEnt :=
  let pick := if avoid then
      (mRouterSec m l router 2 sp).or ((mRouterSec m l router 0 sp).or (mRouterSec m l router 1 sp))
    else (mRouterSec m l router 0 sp).or (mRouterSec m l router 1 sp)
  match pick with
  | some x => (recEntries x.bytes step).map routeEntOf
  | none => []

/-- The routers a package has tables for. -/
def mRouters (m : Mould) (l : Nat) : List Nat :=
  firsts ((m.sections.filter fun x => decide (x.typ = secRouter ∧ instLpkg x.inst = l ∧ altKind x.inst = 0)).map fun x => bits x.inst 10 0)

/-! ### The far end of a router port (R154, R155, R475) -/

/-- The spine router and port whose wiring map entry names a router port. -/
def wiredTo (n : Nat) : Option (Nat × Nat) :=
  ((List.range 2048).find? fun e => decide (Config.wiring e % 65536 = n)).map fun e =>
    (1024 + e / 512 * 256 + 0xC0 + e % 512 / 8, e % 8)

/-- The entry of the wiring map for a port of a spine router. -/
def wiringOf (r k : Nat) : Option (Nat × Nat) :=
  let x := Config.wiring (512 * (r / 256 % 4) + 8 * (r % 256 - 0xC0) + k) % 65536
  if x = 0xFFFF then none else some (x / 8 % 2048, x % 8)

/-- The logical position of a physical one and back (R155). -/
def logicalPos (spare p : Nat) : Nat := if p = spare then 16 else if p < spare then p else p - 1
def physicalPos (spare i : Nat) : Nat := if i = 16 then spare else if i < spare then i else i + 1

/-- The far end of a port of a core-position router, by the spare position of each cluster: none for the core's own ports. -/
def coreFar (spare : Nat → Nat) (r k : Nat) : Option (Nat × Nat) :=
  let cl := r / 32
  let p := r % 32
  let lp := logicalPos (spare cl) p
  if k < 2 then none
  else if k < 4 then some (cl * 32 + (p + 1) % 17, k + 2)
  else if k < 6 then some (cl * 32 + (p + 16) % 17, k - 2)
  else some (1024 + cl / 8 * 256 + 0x48 + 9 * (cl % 8) + lp / 2, 2 * (lp % 2) + (k - 6))

/-- The far end of a cluster port of an ingress router; ports 2 and 3 of the ninth are unconnected. -/
def ingressFar (spare : Nat → Nat) (r k : Nat) : Option (Nat × Nat) :=
  let i := r % 256 - 0x48
  let cl := r / 256 % 4 * 8 + i / 9
  let lp := 2 * (i % 9) + k / 2
  if 16 < lp then none else some (cl * 32 + physicalPos (spare cl) lp, 6 + k % 2)

/-- The far end of a router port by the spare position of each cluster: none at an endpoint or an unconnected port. The dies a bridge joins
are the model's reading (log entry 36). -/
def portFar (spare : Nat → Nat) (r k : Nat) : Option (Nat × Nat) :=
  let i := r % 256
  let d := r / 256 % 4
  if r < 1024 then coreFar spare r k
  else if 0xC0 ≤ i then wiringOf r k
  else if 0x48 ≤ i ∧ i < 0x90 then (if k < 4 then ingressFar spare r k else wiredTo (r * 8 + k))
  else if i < 0x42 then (if k < 2 then none else wiredTo (r * 8 + k))
  else if i < 0xA4 then (if k < 4 then none else wiredTo (r * 8 + k))
  else if i < 0xAE then (if k < 2 then none else wiredTo (r * 8 + k))
  else if i < 0xB6 then (if k < 4 then some (1024 + (if d % 2 = 0 then d + 1 else d - 1) * 256 + i, k) else wiredTo (r * 8 + k))
  else if i < 0xBE then (if k < 4 then some (1024 + (d + 2) % 4 * 256 + i, k) else wiredTo (r * 8 + k))
  else if i = 0xBE then (if k = 2 ∨ k = 3 then wiredTo (r * 8 + k) else none)
  else (if k < 4 then none else wiredTo (r * 8 + k))

/-- The default spare position of a logical cluster (die × 8 + cluster) in a package's primary tables (R132). -/
def defaultSpare (m : Mould) (l cl : Nat) : Nat :=
  ((m.sections.find? fun x => decide (x.typ = secRouter ∧ instLpkg x.inst = l ∧ altKind x.inst = 0 ∧ bits x.inst 10 5 = cl)).map
    fun x => secSpare x.inst).getD 0

/-- The routers a package's primary tables send slots to (R132). A Mould's router numbers are taken as the wiring map's; they differ only by
which of the same kind of unit binding chooses (DEDUCED, log entry 107). -/
def routersReached (m : Mould) (l : Nat) : List Nat :=
  firsts ((m.sections.filter fun x => decide (x.typ = secRouter ∧ instLpkg x.inst = l ∧ altKind x.inst = 0)).flatMap fun x =>
    (List.range (mSteps m).length).flatMap fun k => ((recEntries x.bytes k).map routeEntOf).flatMap fun e =>
      (portBits e.outs).filterMap fun q => (portFar (defaultSpare m l) (bits x.inst 10 0) q).map (·.1))

end Sys2Proof.Machine
end

