-- ==== Sys2Proof/Machine/Verify.lean ====
section
/-! DEFINITION. The load-time verification of a Mould: checks 1 to 19, 21, 23 to 25 of R136 and the report of R137. -/

namespace Sys2Proof.Machine

/-! ### What a failing check reports (R137) -/

/-- Where a check fails (R137). `key` is the type and instance of the section concerned; the report gives its directory index. -/
structure MouldFail where
  status  : Nat
  sec     : Nat := 0xFFFFFFFF
  entry   : Nat := 0xFFFFFFFF
  unit    : Nat := 0xFFFF
  cycle   : Nat := 0xFFFFFFFF
  step    : Nat := 0xFF
  iter    : Nat := 0
  key     : Option (Nat × Nat) := none
  deriving DecidableEq, Repr

/-- The failure with the directory index of its section, where the container holds that section. -/
def MouldFail.locate (dir : List DirEnt) (f : MouldFail) : MouldFail :=
  match f.key.bind fun k => indexWhere (fun e => decide (e.typ = k.1 ∧ e.inst = k.2)) dir with
  | some i => { f with sec := i }
  | none => f

/-- The first failure of a list of checks in order. -/
def firstFail : List (Option MouldFail) → Option MouldFail
  | [] => none
  | some f :: _ => some f
  | none :: l => firstFail l

/-- A check that fails with a status. -/
def chk (ok : Bool) (st : Nat) : Option MouldFail := if ok then none else some { status := st }

/-- A check on a section. -/
def chkSec (ok : Bool) (st t i : Nat) : Option MouldFail := if ok then none else some { status := st, key := some (t, i) }

/-- A check on each of `n` entries of a section: the lowest that fails is reported. -/
def chkEntries (n : Nat) (ok : Nat → Bool) (st t i : Nat) : Option MouldFail :=
  ((List.range n).find? fun e => !ok e).map fun e => { status := st, entry := e, key := some (t, i) }

/-! ### Checks 1 to 5: header, directory, layout -/

/-- Checks 1 to 3 on the header. -/
def checkHeader (bs : List Byte) : Option MouldFail :=
  firstFail [chk (field bs 4 4 == 0x444D5843) 0x0110, chk (field bs 0 2 == 0x1000) 0x0102,
    chk (field bs 2 2 == 0x0100) 0x0111]

/-- The reserved bits of an `INSTANCE` by its section type (R107). -/
def instReserved (t i : Nat) : Nat :=
  if t = secMicro then bits i 17 9
  else if t = secLink then b2n (bit i 3)
  else if t = secRegions ∨ t = secTensors ∨ t = secMulticast then bits i 17 0
  else 0

/-- Check 4: reserved fields and values of the header and the directory, reserved bits of `INSTANCE` included. A `SECTION_COUNT` of 0 or 1, below the range of R104, counts as a
reserved value here, and a BASE_CHAIN other than 0 in a full Mould as a reserved field (DESIGN CHOICE, log entry 106). -/
def checkReserved (bs : List Byte) : Option MouldFail :=
  let dir := mouldDir bs
  firstFail ([chk (field bs 0x19 7 == 0 && field bs 0x50 48 == 0 && (field bs 0x18 1 != 0 || field bs 0x30 32 == 0)) 0x0101,
    chk (decide (field bs 0x18 1 ≤ 1) && field bs 0x10 4 != 0xFFFFFFFF && decide (2 ≤ field bs 0x10 4)) 0x0103] ++
    dir.zipIdx.map (fun (e, i) =>
      if e.rsv02 ≠ 0 ∨ e.rsv18 ≠ 0 ∨ instReserved e.typ e.inst ≠ 0 then some { status := 0x0101, sec := i }
      else if !secTypes.contains e.typ then some { status := 0x0103, sec := i } else none))

/-- Ascending order of (type, instance). -/
def dirLt (a b : DirEnt) : Bool := decide (a.typ < b.typ ∨ (a.typ = b.typ ∧ a.inst < b.inst))

def dirSorted : List DirEnt → Bool
  | a :: b :: l => dirLt a b && dirSorted (b :: l)
  | _ => true

/-- Two sections overlap in the container. -/
def secOverlap (a b : DirEnt) : Bool := decide (a.off < b.off + b.len ∧ b.off < a.off + a.len)

/-- The SIGNATURE section is well formed (R109): its length, and `SIG_BYTES`. -/
def signatureOk (bs : List Byte) (e : DirEnt) : Bool :=
  decide (e.typ = secSignature ∧ e.len = 29888 ∧ field (entBytes bs e) 0x50 4 = 29792) && allZero e.digest

/-- Check 5: layout (R104, R105). -/
def checkLayout (bs : List Byte) (objBytes : Nat) : Option MouldFail :=
  let total := field bs 8 8
  let off := field bs 0x14 4
  let n := field bs 0x10 4
  let dir := mouldDir bs
  let dirEnd := off + 64 * n
  firstFail ([chk (decide (total ≤ objBytes ∧ off % 64 = 0 ∧ 0x80 ≤ off ∧ dirEnd ≤ total) && dirSorted dir &&
      (dir.getLast?.map (signatureOk bs)).getD false &&
      decide ((dir.filter fun e => decide (e.typ = secSignature)).length = 1)) 0x0112] ++
    dir.zipIdx.map (fun (e, i) =>
      if e.off % 64 = 0 ∧ 16 ≤ e.len ∧ e.off + e.len ≤ total ∧ (dirEnd ≤ e.off ∨ e.off + e.len ≤ off) ∧ 128 ≤ e.off ∧
          (dir.zipIdx.all fun (f, j) => decide (i = j) || !secOverlap e f) = true then none
      else some { status := 0x0112, sec := i }))

/-! ### Checks 8 and 9: digests, reserved fields and values -/

/-- Check 8: the digest of every section read. -/
def checkDigests (tor : Torus) (bs : List Byte) (base : Option Mould) (l : Nat) : Option MouldFail :=
  let nbs := mouldNeighbours tor bs base l
  firstFail ((mouldDir bs).zipIdx.map fun (e, i) =>
    if e.typ = secSignature ∨ !readsSection l nbs e then none
    else if shake256 (entBytes bs e) 32 = e.digest then none else some { status := 0x0812, sec := i })

/-- The value of a field is among the listed ones. -/
def oneOf (v : Nat) (l : List Nat) : Bool := l.contains v

/-- The first of `n` entries for which a test gives a status: the status and the entry. -/
def firstStatus (n : Nat) (f : Nat → Nat) : Nat × Nat :=
  match (List.range n).find? fun i => f i ≠ 0 with
  | some i => (f i, i)
  | none => (0, 0xFFFFFFFF)

/-- Reserved fields and values of an op entry and of every word it issues (R119, R120): the device verifies each as an ordinary operation. -/
def opEntryReserved (count : Nat) (op : List Byte) : Nat :=
  if field op 5 3 ≠ 0 ∨ field op 0xC 4 ≠ 0 then 0x0101
  else (firstStatus (max 1 count) fun i => ((issueWord op i).map opReserved).getD 0).1

/-- Reserved fields and values of the blocks of a step (R119), the entry counted across the blocks. -/
def blocksReserved : List Block → Nat → Nat × Nat
  | [], _ => (0, 0)
  | b :: bs, e =>
    if b.rsv ≠ 0 then (0x0101, e)
    else if b.count = 0xFFFF ∨ b.ops.length = 0xFFFF then (0x0103, e)
    else
      let r := firstStatus b.ops.length fun i => opEntryReserved b.count (nth [] b.ops i)
      if r.1 ≠ 0 then (r.1, e + r.2) else blocksReserved bs (e + b.ops.length)

/-- The first of a list of (status, entry) with a status. -/
def firstOf (l : List (Nat × Nat)) : Nat × Nat := (l.find? fun x => decide (x.1 ≠ 0)).getD (0, 0)

/-- The reserved bytes of the program index (R118). -/
def indexReserved (bs : List Byte) : Nat × Nat :=
  firstStatus (secCount bs) fun k =>
    let b := bs.drop (0x10 + 16 * k)
    if field b 1 3 = 0 ∧ field b 0xC 4 = 0 then 0 else 0x0101

/-- The reserved fields of a reduction entry and its nodes (R129). -/
def reductionReserved (bs : List Byte) (e : Nat) : Nat :=
  let b := bs.drop (0x10 + 16 * e)
  let nodes := bs.drop (field b 4 4)
  if field b 8 8 ≠ 0 then 0x0101
  else if (List.range (min (field b 0 4) 65536 - 1)).all fun k =>
    let x := nodes.drop (24 * k)
    decide (field x 0x13 5 = 0 ∧ bits (field x 0xA 2) 15 9 = 0) then 0 else 0x0101

/-- The index within its section of the first op entry, or the first record, of step `k` (R137). -/
def opBase (bs : List Byte) (k : Nat) : Nat := ((List.range k).map fun j => ((stepBlocks bs j).map fun b => b.ops.length).sum).sum
def recBase (bs : List Byte) (k : Nat) : Nat := ((List.range k).map fun j => (progIndex bs j).2.2).sum

/-- Reserved fields and values inside a section's body (check 9): the status, 0 for none, and the entry. -/
def bodyReserved (s : Section) : Nat × Nat :=
  let bs := s.bytes
  let n := secCount bs
  let arr (base size : Nat) (f : List Byte → Nat) : Nat × Nat := firstStatus n fun i => f ((bs.drop (base + size * i)).take size)
  let recs (f : List Byte → Nat) : Nat × Nat :=
    firstOf (indexReserved bs :: (List.range n).map fun k =>
      let es := recEntries bs k
      let r := firstStatus es.length fun i => f (nth [] es i)
      (r.1, recBase bs k + r.2))
  if s.typ = secVat then
    if field bs 0x1A 6 ≠ 0 then (0x0101, 0xFFFFFFFF)
    else arr 0x20 32 fun b => if field b 0 1 / 16 = 0 ∧ field b 6 2 = 0 ∧ field b 0x16 10 = 0 then 0 else 0x0101
  else if s.typ = secTiming then
    if field bs 0x16 10 ≠ 0 then (0x0101, 0xFFFFFFFF) else arr 0x20 8 fun b => if field b 2 6 = 0 then 0 else 0x0101
  else if s.typ = secStepTable then
    arr 0x10 16 fun b => if field b 0xA 6 ≠ 0 then 0x0101 else if oneOf (field b 0 1) [1, 2, 3, 4] then 0 else 0x0103
  else if s.typ = secRegions then
    arr 0x10 32 fun b =>
      if field b 3 1 ≠ 0 ∨ field b 0x18 8 ≠ 0 then 0x0101
      else if oneOf (field b 0 1) [1, 2, 3] && oneOf (field b 1 1) [1, 2, 3] then 0 else 0x0103
  else if s.typ = secTensors then arr 0x10 16 fun b =>
      if field b 0xC 4 ≠ 0 then 0x0101 else if oneOf (vaSpace (field b 0 8)) [1, 2, 3] then 0 else 0x0103
  else if s.typ = secReductions then firstStatus n (reductionReserved bs)
  else if s.typ = secLaneRefs then
    arr 0x10 16 fun b =>
      if field b 6 10 ≠ 0 then 0x0101
      else if oneOf (field b 0 1) [1, 2, 3] && decide (field b 1 1 ≤ if field b 0 1 = 3 then 0 else 1) then 0 else 0x0103
  else if s.typ = secDeltaMap then
    arr 0x10 8 fun b => if field b 2 2 ≠ 0 then 0x0101 else if secTypes.contains (field b 0 2) then 0 else 0x0103
  else if s.typ = secMicro then firstOf (indexReserved bs :: (List.range n).map fun k => blocksReserved (stepBlocks bs k) (opBase bs k))
  else if s.typ = secRouter then
    recs fun b => if field b 0xC 4 ≠ 0 then 0x0101 else if field b 8 2 = 0xFFFF ∨ 7 < field b 0xA 1 then 0x0103 else 0
  else if s.typ = secLink then
    recs fun b => if field b 0xB 1 ≠ 0 then 0x0101 else if field b 4 2 = 0xFFFF ∨ 1 < field b 0xA 1 then 0x0103 else 0
  else (0, 0)

/-- Check 9: section headers and contents. An ENTRY_COUNT other than 0 of a SIGNATURE section counts as a reserved field here (DESIGN
CHOICE, log entry 106). -/
def checkSections (tor : Torus) (bs : List Byte) (base : Option Mould) (l : Nat) : Option MouldFail :=
  let nbs := mouldNeighbours tor bs base l
  firstFail ((mouldDir bs).zipIdx.map fun (e, i) =>
    if !readsSection l nbs e then none
    else
      let b := entBytes bs e
      if field b 0 2 ≠ 0x1000 then some { status := 0x0102, sec := i }
      else if field b 2 2 ≠ e.typ then some { status := 0x0113, sec := i }
      else if field b 8 8 ≠ 0 then some { status := 0x0101, sec := i }
      else if secCount b = 0xFFFFFFFF then some { status := 0x0103, sec := i }
      else if e.typ = secSignature then
        (if field b 4 4 ≠ 0 ∨ field b 0x54 12 ≠ 0 then some { status := 0x0101, sec := i } else none)
      else
        let (st, en) := bodyReserved ⟨e.typ, e.inst, b⟩
        if st ≠ 0 then some { status := st, sec := i, entry := en } else none)

/-! ### Checks 10 to 14: the section set, the shape, timing, steps, regions -/

/-- The kind of an edge router by its index (R154): what its instance must lie in. -/
def edgeOk (p : PkgEntry) (d i : Nat) : Bool :=
  if i < 0x42 then bit p.dieMask d && decide (i < p.slices)
  else if 0x48 ≤ i ∧ i < 0x90 then bit p.dieMask d && decide ((i - 0x48) / 9 < p.clusters)
  else if 0x90 ≤ i ∧ i < 0xA4 then bit p.stackSet (4 * d + (i - 0x90) / 5)
  else if 0xA4 ≤ i ∧ i < 0xAE then bit p.ports (2 * d + (i - 0xA4) / 5)
  else true

/-- The `INSTANCE` of a router table lies in the declared shape: die, cluster, position; an edge router has no spare position and no
alternate (R107, R123, R132). -/
def routerInstOk (p : PkgEntry) (i : Nat) : Bool :=
  let d := bits i 9 8
  if bit i 10 then decide (altKind i = 0 ∧ secSpare i = 0) && edgeOk p d (bits i 7 0)
  else decide (altKind i ≤ 2 ∧ secSpare i ≤ 16 ∧ bits i 7 5 < p.clusters) && bit p.dieMask d

/-- The `INSTANCE` of a section lies in the declared shape (R107). -/
def instOk (m : Mould) (t i : Nat) : Bool :=
  if t = secDeltaMap ∨ t = secSignature then i == 0
  else if !perPackage t then i == 0
  else
    let l := instLpkg i
    let p := mPkg m l
    decide (l < mVatPackages m) &&
      (if t = secMicro then decide (bits i 8 0 < pkgCores p)
       else if t = secRouter then routerInstOk p i
       else if t = secLink then
         bit p.ports (bits i 2 0) &&
           (if altKind i = 0 then bits i 15 4 == 0 else decide (altKind i = 1 ∧ 1 ≤ bits i 15 4 ∧ bits i 15 4 ≤ mMoveCount m))
       else true)

/-- The core-position routers of a logical cluster. -/
def clusterRouters (d k : Nat) : List Nat := (List.range 17).map fun pos => d * 256 + k * 32 + pos

/-- The logical clusters of a package: die and cluster. -/
def pkgClusters (p : PkgEntry) : List (Nat × Nat) := (maskBits p.dieMask 4).flatMap fun d => (List.range p.clusters).map fun k => (d, k)

/-- A router of a package has a primary table, for some default spare position (R132), among sections given by type and instance. -/
def hasPrimary (keys : List (Nat × Nat)) (l r : Nat) : Bool :=
  keys.any fun k => decide (k.1 = secRouter ∧ instLpkg k.2 = l ∧ altKind k.2 = 0 ∧ bits k.2 10 0 = r)

/-- The link routers of a port that some step claims (R132). -/
def usedEdges (m : Mould) (l : Nat) : List Nat :=
  let p := mPkg m l
  let busy (port : Nat) : Bool := (List.range (mSteps m).length).any fun k => !(mLinkTable m l port k).isEmpty
  ((maskBits p.ports 8).filter busy).flatMap fun port =>
    (List.range 5).map fun r => 1024 + port / 2 * 256 + 0xA4 + 5 * (port % 2) + r

/-- The sections R107 requires for package `l` are among some, given by type and instance. -/
def pkgSet (m : Mould) (keys : List (Nat × Nat)) (l : Nat) : Bool :=
  let p := mPkg m l
  [secRegions, secTensors, secMulticast].all (fun t => keys.contains (t, l * 2 ^ 18)) &&
    ((List.range (pkgCores p)).all fun c => keys.contains (secMicro, l * 2 ^ 18 + c)) &&
    ((maskBits p.ports 8).all fun k => keys.contains (secLink, l * 2 ^ 18 + k)) &&
    (pkgClusters p).all fun c => (clusterRouters c.1 c.2).all (hasPrimary keys l)

/-- Check 10 (R107, R132, R134). A full Mould's directory shows the sections of every package; of a delta's effective Mould the package knows
its own and the directory's. Missing sections have no directory index and come last. The routers that package `l` uses are the
clusters', those its own tables send slots to, and those of claimed link ports. -/
def checkSet (m : Mould) (dir : List DirEnt) (delta deltaMap : Bool) (l : Nat) : Option MouldFail :=
  let keys := dir.map (fun e => (e.typ, e.inst)) ++ m.sections.map fun s => (s.typ, s.inst)
  firstFail ((dir.map fun e => chkSec (instOk m e.typ e.inst) 0x0114 e.typ e.inst) ++
    (m.sections.map fun s => chkSec (instOk m s.typ s.inst) 0x0114 s.typ s.inst) ++
    [chk ([secVat, secTiming, secStepTable, secReductions, secLaneRefs].all (fun t => keys.contains (t, 0)) && deltaMap) 0x0114,
     chk ((if delta then [l] else List.range (mVatPackages m)).all (pkgSet m keys)) 0x0114,
     chk ((usedEdges m l ++ routersReached m l).all (hasPrimary keys l)) 0x0114])

/-- The gears (R146). -/
def gears : List Nat := [72, 64, 60, 56, 48, 40, 32]

/-- Two numbers of a list are equal. -/
def hasDup : List Nat → Bool
  | [] => false
  | a :: l => l.contains a || hasDup l

/-- The package entries keep the bounds of R111 and the counts of R112. -/
def pkgShapeOk (p : PkgEntry) : Bool :=
  decide (1 ≤ p.clusters ∧ p.clusters ≤ 8 ∧ p.slices ≤ 64 ∧ p.cave % (32 * 2 ^ 20) = 0 ∧ pkgCores p ≤ 512)

/-- The TIMING section (R113 to R115, R153). -/
def timingOk (m : Mould) : Bool :=
  let per := mRefreshPeriod m
  let vs := mVariants m
  decide (16 ≤ per ∧ per ≤ 48 ∧ 1 ≤ mRefreshLen m ∧ mRefreshLen m ≤ 4 ∧ mRefreshPhase m < per ∧
    per ≤ mRefreshLen m * 12 ∧ 1 ≤ vs.length ∧ vs.length ≤ 7) &&
    (vs.all fun v => gears.contains v.1 && decide (2 ≤ v.2 ∧ 4 * v.2 ≤ v.1)) && !hasDup (vs.map (·.1))

/-- Check 12: the VAT section, with its package and move entries within the section, and TIMING (R111 to R115, R153). -/
def checkShape (m : Mould) : Option MouldFail :=
  let n := mVatPackages m
  let bs := secBytes m secVat 0
  firstFail [
    chkSec (decide (1 ≤ n ∧ n ≤ 10240 ∧ secCount bs = n ∧ mHeadLpkg m < n ∧ 2 ≤ mVocab m ∧ mVocab m ≤ 16777216 ∧
      mMoveCount m ≤ 4095 ∧ 0x20 + 32 * n + 8 * mMoveCount m ≤ bs.length)) 0x0116 secVat 0,
    chkEntries n (fun l => pkgShapeOk (mPkg m l)) 0x0116 secVat 0,
    chkSec ((List.range (mMoveCount m)).all fun k => decide ((mMove m (k + 1)).1 < n)) 0x0116 secVat 0,
    chkSec (timingOk m) 0x0116 secTiming 0]

/-- The limits of `TOKENS` by kind (R116). -/
def tokensOk (k t : Nat) : Bool :=
  if k = 1 then t == 1 else if k = 2 then decide (1 ≤ t ∧ t ≤ 4096)
  else if k = 3 then decide (1 ≤ t ∧ t ≤ 16) else decide (1 ≤ t ∧ t ≤ 64)

/-- One entry of the step table (R115 to R117). -/
def stepOk (m : Mould) (s : StepEnt) : Bool :=
  let ss := mSteps m
  let nv := (mVariants m).length
  decide (s.variant < nv ∧ 1 ≤ s.lanes ∧ s.lanes ≤ 512 ∧ 1 ≤ s.length ∧ s.length ≤ 6250 ∧ 16 ≤ s.freeze ∧ s.freeze ≤ 4096 ∧
    s.length % mRefreshPeriod m = 0) && tokensOk s.kind s.tokens &&
  (ss.all fun t => decide (t.variant ≠ s.variant) || decide (s.freeze ≤ t.length)) &&
  ((List.range nv).all fun v => ss.any fun t =>
    decide (t.variant = v ∧ t.kind = s.kind ∧ t.tokens = s.tokens ∧ t.lanes = s.lanes))

/-- Check 13: the step table (R115 to R117). -/
def checkSteps (m : Mould) : Option MouldFail :=
  let ss := mSteps m
  firstFail [
    chkSec (decide (1 ≤ ss.length ∧ ss.length ≤ 256)) 0x0117 secStepTable 0,
    chkEntries ss.length (fun i => stepOk m (mStep m i)) 0x0117 secStepTable 0,
    chkSec ((List.range (mVariants m).length).all fun v => ss.any fun t =>
      decide (t.variant = v ∧ (t.kind = 1 ∨ t.kind = 2))) 0x0117 secStepTable 0]

/-- Where a region ends on its unit `i`, counted from its first (R125, R127): the granules that fall to it, the last one perhaps cut. -/
def regionEnd (r : Region) (i : Nat) : Nat :=
  let g := 2 ^ r.gran
  let n := max 1 r.count
  let full := r.bytes / g
  r.base + (full / n + b2n (decide (i < full % n))) * g + (if i = full % n then r.bytes % g else 0)

/-- Two regions share a byte of a unit (R125). -/
def regionsMeet (a b : Region) : Bool :=
  a.kind == b.kind && a.kind != 3 &&
    (List.range a.count).any fun i =>
      let u := a.first + i
      decide (b.first ≤ u ∧ u < b.first + b.count) &&
        decide (a.base < regionEnd b (u - b.first) ∧ b.base < regionEnd a i ∧ a.base < regionEnd a i ∧ b.base < regionEnd b (u - b.first))

/-- One region (R125, R215). -/
def regionOk (p : PkgEntry) (r : Region) : Bool :=
  decide (r.bytes ≤ 2 ^ 36) &&
    (if r.kind = 3 then
      r.gran == 0 && r.first == 0 && r.count == 0 && r.use == 3 && r.bytes % (32 * 2 ^ 20) == 0
     else
      decide (8 ≤ r.gran ∧ r.gran ≤ 20 ∧ 1 ≤ r.count ∧ r.base % 2 ^ r.gran = 0) &&
        (if r.kind = 1 then
          decide (r.first + r.count ≤ pkgSlices p) && (List.range r.count).all fun i => decide (regionEnd r i ≤ 2 ^ 24)
         else
          decide (r.first + r.count ≤ 512) && (List.range r.count).all fun i =>
            decide (regionEnd r i ≤ 1500000000) && bit p.stackSet ((r.first + i) / 32)))

/-- Check 14: regions (R125, R215). -/
def checkRegions (m : Mould) (l : Nat) : Option MouldFail :=
  let rs := mRegions m l
  let p := mPkg m l
  firstFail [
    chkSec (decide (rs.length ≤ 1024)) 0x0120 secRegions (l * 2 ^ 18),
    chkEntries rs.length (fun i =>
      match rs[i]? with
      | some r => regionOk p r && (rs.take i).all fun q => !regionsMeet q r
      | none => false) 0x0120 secRegions (l * 2 ^ 18),
    chkSec (decide (((rs.filter fun r => decide (r.kind = 3)).map (·.bytes)).sum ≤ p.cave)) 0x0120 secRegions (l * 2 ^ 18)]

/-! ### Checks 15 to 19: programs, operands, references, occupancy -/

/-- The half of a die. -/
def half (d : Nat) : Nat := d / 2

/-- The path latency between two dies (R157). -/
def pathLat (a b : Nat) : Nat := if a = b then 12 else if half a = half b then 20 else 36

/-- No region. -/
def Region.none : Region := ⟨0, 0, 0, 0, 0, 0, 0⟩

/-- The largest path latency from a die to the units of a region, and whether they are HBM channels (R154, R157). -/
def regionPath (p : PkgEntry) (d : Nat) (r : Region) : Nat × Bool :=
  (maxNat ((List.range r.count).map fun k => pathLat d (if r.kind = 2 then (r.first + k) / 32 / 4 else sliceDie p (r.first + k))),
   decide (r.kind = 2))

/-- The regions of a package that hold KV blocks. -/
def kvSpace (m : Mould) (l : Nat) : List Region := (mRegions m l).filter fun r => decide (r.use = 3 ∧ r.kind ≠ 3)

/-- The path latency of an issue of logical core `c` and whether its far end is HBM (R99, R157, R174, R254). A transfer to another package
takes at least a leg to a link router, 7 Ticks a hop and a leg after each; the waits for its transmit Ticks, which the word does not name,
come on top (DEDUCED, log entry 118). -/
def issuePath (tor : Torus) (m : Mould) (l c u : Nat) (w : OpWord) : Nat × Bool :=
  let p := mPkg m l
  let d := (corePlace p c).1
  let code := opCode w
  let a := dmVatAddr w
  if code = 0x18 ∨ code = 0x19 ∨ code = 0x1C then
    if vaLpkg a = l then regionPath p d (nth Region.none (mRegions m l) (vaRegion a))
    else (12 + hops tor m l (vaLpkg a) * (7 * u + 12), decide (vaSpace a = 2))
  else if code = 0x1A then
    let ts := if bit (dmTarget w) 15 then mMulticast m l (bits (dmTarget w) 11 0) else [bits (dmTarget w) 8 0]
    (maxNat (ts.map fun t => pathLat d (corePlace p t).1), false)
  else if code = 0x1D ∨ code = 0x1E then
    if (mLaneRef m (dmDst w)).1 = 3 then (12, false)
    else
      let ps := (kvSpace m l).map (regionPath p d)
      (maxNat (ps.map (·.1)), ps.any (·.2))
  else (12, false)

/-- The latency of an issue. -/
def issueLat (tor : Torus) (m : Mould) (l c u : Nat) (w : OpWord) : Nat :=
  let f := issuePath tor m l c u w
  opLat w f.1 u f.2

/-- The first issue of core `c` in step `k` that fails a test. -/
def issueFail (m : Mould) (l st c k : Nat) (ok : Issue → Bool) : Option MouldFail :=
  ((coreIssues m l c k).find? fun x => !ok x).map fun x =>
    { status := st, entry := opBase (secBytes m secMicro (l * 2 ^ 18 + c)) k + x.entry, unit := c, cycle := x.cycle, step := k, iter := x.iter,
      key := some (secMicro, l * 2 ^ 18 + c) }

/-- For every core and step of a package, the first issue that fails a test. -/
def issueCheck (m : Mould) (l st : Nat) (ok : Nat → Nat → Issue → Bool) : Option MouldFail :=
  firstFail ((List.range (pkgCores (mPkg m l))).map fun c =>
    firstFail ((List.range (mSteps m).length).map fun k => issueFail m l st c k (ok c k)))

/-- A test of the word of an issue; an issue without a word is for check 15. -/
def onWord (ok : OpWord → Bool) (x : Issue) : Bool := (x.word.map ok).getD true

/-- An entry of the program index of a section (R118): `STEP` in order, offset and records within the section. -/
def indexEntOk (s : Section) (k : Nat) : Bool :=
  let (st, off, cnt) := progIndex s.bytes k
  let len := if s.typ = secMicro then blocksLen cnt (s.bytes.drop off) else 16 * cnt
  decide (st = k ∧ off % 16 = 0 ∧ off + len ≤ s.bytes.length)

/-- `PERIOD` of a block or a router entry: 0 when `COUNT` is 1, at least 1 otherwise (R119, R122). -/
def periodOk (count period : Nat) : Bool := if count = 1 then period == 0 else decide (1 ≤ period)

/-- A block (R119, R120). -/
def blockOk (b : Block) : Bool :=
  periodOk b.count b.period && b.ops.all fun op =>
    let a := field op 4 1
    if a = 0xFF then field op 8 4 == 0 else decide (4 ≤ a ∧ a ≤ 0x1C ∧ a % 4 = 0)

/-- The first block of a step that breaks R119: the index of its first op entry, counted within the section. -/
def blockFail : List Block → Nat → Option Nat
  | [], _ => none
  | b :: bs, e => if blockOk b then blockFail bs (e + b.ops.length) else some e

/-- Check 15 of one section: its program index, and of a microprogram its size, its blocks and its issues, step by step (R118 to R121). -/
def programCheck (tor : Torus) (m : Mould) (l : Nat) (s : Section) : Option MouldFail :=
  let n := (mSteps m).length
  let c := bits s.inst 8 0
  firstFail ([chkSec (decide (secCount s.bytes = n)) 0x0118 s.typ s.inst, chkEntries n (indexEntOk s) 0x0118 s.typ s.inst] ++
    if s.typ ≠ secMicro then [] else
    chkSec (decide (bodyLen s ≤ 256 * 1024)) 0x0118 s.typ s.inst :: (List.range n).flatMap fun k =>
      [(blockFail (stepBlocks s.bytes k) (opBase s.bytes k)).map fun e =>
         { status := 0x0118, entry := e, unit := c, step := k, key := some (s.typ, s.inst) },
       issueFail m l 0x0118 c k fun x =>
         match x.word with
         | some w => decide (x.cycle + issueLat tor m l c (stepU m k) w < (mStep m k).length * stepU m k)
         | none => false])

/-- Check 15: program index and blocks (R118 to R121), section by section. -/
def checkPrograms (tor : Torus) (m : Mould) (l : Nat) : Option MouldFail :=
  firstFail ((m.sections.filter fun s => decide (s.typ = secMicro ∨ s.typ = secRouter ∨ s.typ = secLink)).map (programCheck tor m l))

/-- The lane references of GETL and PUTL (R211, R254): kind, sub-index, and multiples of 128 where the KV blocks lie in HBM. -/
def laneWordOk (m : Mould) (l tokens : Nat) (w : OpWord) : Bool :=
  let c := opCode w
  let kind := (mLaneRef m (dmDst w)).1
  let q := bits (dmVatAddr w) 35 16
  if ¬(c = 0x1D ∨ c = 0x1E) ∨ mLaneRefCount m ≤ dmDst w then true
  else
    (if c = 0x1E then kind == 2 else kind != 2) &&
      (if kind = 3 then decide (q < tokens ∨ q = 0xFFFF0 ∨ q = 0xFFFF1)
       else !(kvSpace m l).any (fun r => decide (r.kind = 2)) || decide (bits (dmVatAddr w) 15 0 % 128 = 0 ∧ dmLength w % 128 = 0))

/-- A codebook A in the core bank finds a table of its own `IDX_FMT` in its table register, as far as the step's own TBL_LOADs tell (R89). -/
def tableFmtOk (xs : List Issue) (x : Issue) (w : OpWord) : Bool :=
  if opCode w ≠ 0x01 ∨ mmASrc w = 1 ∨ !isCb (mmFmtA w) then true
  else
    let before := (xs.filterMap fun y => y.word.map fun v => (y.cycle, v)).filter fun y =>
      decide (y.1 < x.cycle ∧ opEngine y.2 = opEngine w) &&
        (decide (opCode y.2 = 0x10) || decide (opCode y.2 = 0x04 ∧ tblReg y.2 = mmTbl w))
    match leastBy (fun a b => decide (b.1 < a.1)) before with
    | some y => decide (opCode y.2 = 0x10) || tblIdxFmt y.2 == mmFmtA w
    | none => true

/-- Check 16: operands. -/
def checkOperands (m : Mould) (l : Nat) : Option MouldFail :=
  issueCheck m l 0x0119 fun c k x =>
    onWord (fun w => operandOk w && laneWordOk m l (mStep m k).tokens w && tableFmtOk (coreIssues m l c k) x w) x

/-- A vat address and length name a region of its package (R126). -/
def vatAddrOk (m : Mould) (a len : Nat) : Bool :=
  let rs := mRegions m (vaLpkg a)
  let r := nth Region.none rs (vaRegion a)
  decide (vaRegion a < rs.length ∧ vaSpace a = r.kind ∧ r.kind ≠ 3 ∧ vaOffset a < r.bytes ∧ vaOffset a + len ≤ r.bytes)

/-- The vat address of a data mover word (R126): of another package only the space and the package are known, its REGIONS section not being
read here (R103). -/
def moverAddrOk (m : Mould) (l a len : Nat) : Bool :=
  if vaLpkg a = l then vatAddrOk m a len else decide (vaLpkg a < mVatPackages m ∧ (vaSpace a = 1 ∨ vaSpace a = 2))

/-- Check 17 of an operation (R126, R128, R130, R131). -/
def refsOk (m : Mould) (l : Nat) (w : OpWord) : Bool :=
  let c := opCode w
  if c = 0x10 then decide (decTensor w < (mTensors m l).length)
  else if c = 0x18 ∨ c = 0x19 then moverAddrOk m l (dmVatAddr w) (dmLength w)
  else if c = 0x1C then moverAddrOk m l (dmVatAddr w) (dmDst w * dmLength w)
  else if c = 0x1A then
    (if bit (dmTarget w) 15 then decide (bits (dmTarget w) 11 0 < secCount (secBytes m secMulticast (l * 2 ^ 18)))
     else decide (bits (dmTarget w) 8 0 < pkgCores (mPkg m l)))
  else if c = 0x1D ∨ c = 0x1E then decide (dmDst w < mLaneRefCount m)
  else true

/-- Check 17: tensors, multicast groups, lane references and what the microprograms name (R126, R128, R130, R131). -/
def checkRefs (m : Mould) (l : Nat) : Option MouldFail :=
  let groups := secCount (secBytes m secMulticast (l * 2 ^ 18))
  firstFail [
    issueCheck m l 0x0122 fun _ _ => onWord (refsOk m l),
    chkEntries (mTensors m l).length (fun i =>
      let t := nth (0, 0) (mTensors m l) i
      decide (t.1 % 256 = 0 ∧ vaLpkg t.1 = l) && vatAddrOk m t.1 t.2 && (nth Region.none (mRegions m l) (vaRegion t.1)).use == 1)
      0x0122 secTensors (l * 2 ^ 18),
    chkSec (decide (groups ≤ 4096)) 0x0122 secMulticast (l * 2 ^ 18),
    chkEntries groups (fun g =>
      let ms := mMulticast m l g
      decide (2 ≤ ms.length) && ms.all fun c => decide (c < pkgCores (mPkg m l))) 0x0122 secMulticast (l * 2 ^ 18),
    chkSec (decide (mLaneRefCount m ≤ 65536)) 0x0122 secLaneRefs 0]

/-- Another issue of the same unit holds it in the cycle of an issue, each for the cycles a function gives its word. -/
def unitBusy (xs : List Issue) (occ : OpWord → Nat) (x : Issue) (w : OpWord) : Bool :=
  xs.any fun y =>
    match y.word with
    | none => false
    | some v => decide ((y.entry, y.iter) ≠ (x.entry, x.iter) ∧ opUnit v = opUnit w ∧ y.cycle ≤ x.cycle ∧ x.cycle < y.cycle + occ v)

/-- Check 18: DECODE (R63, R94). Its segments are held against `SEG_COUNT` when the tensors are there, at BIND_COMPLETE. -/
def checkDecode (m : Mould) (l : Nat) : Option MouldFail :=
  issueCheck m l 0x011D fun c k x => onWord (fun w => decide (opCode w ≠ 0x10) ||
    ((decide (decSegN w ≠ 0) || decide (decBudget w = 0)) && !unitBusy (coreIssues m l c k) opOcc x w)) x

/-- Check 19: no issue to an occupied unit, and no two issues to one unit in a cycle (R75). -/
def checkBusy (m : Mould) (l : Nat) : Option MouldFail :=
  issueCheck m l 0x011A fun c k x => onWord (fun w => !unitBusy (coreIssues m l c k) (fun v => max 1 (opOcc v)) x w) x

/-! ### Checks 21, 23, 24 and 25: routers, links, reductions, alternates -/

/-- The router numbers that exist (R123, R154). -/
def routerOk (r : Nat) : Bool :=
  let d := bits r 9 8
  let i := bits r 7 0
  if bit r 10 then
    decide (i ≤ 0x41 ∨ (0x48 ≤ i ∧ i ≤ 0xBE) ∨ (i = 0xBF ∧ (d = 0 ∨ d = 2)) ∨ 0xC0 ≤ i)
  else decide (bits r 4 0 ≤ 16)

/-- One move of a router table (R122): its entry, iteration, usable cycle, input port, output mask. -/
structure Move where
  entry  : Nat
  iter   : Nat
  cycle  : Nat
  inPort : Nat
  outs   : Nat
  deriving DecidableEq, Repr

/-- Every move of a router table in a step. -/
def routerMoves (s : Section) (k : Nat) : List Move :=
  ((recEntries s.bytes k).map routeEntOf).zipIdx.flatMap fun e =>
    (List.range e.1.count).map fun i => ⟨e.2, i, e.1.start + i * e.1.period, e.1.inPort, e.1.outs⟩

/-- A Tick offset of a step lies in a refresh window of the vat's cadence (R115, R152). -/
def refreshTick (m : Mould) (off : Nat) : Bool :=
  let per := max 1 (mRefreshPeriod m)
  decide ((off + per - mRefreshPhase m % per) % per < mRefreshLen m)

/-- An HBM router (R154). -/
def isHbmRouter (r : Nat) : Bool := bit r 10 && decide (0x90 ≤ bits r 7 0 ∧ bits r 7 0 < 0xA4)

/-- The PHY ports of an HBM router that a move uses: ports 0 to 3, one use in each direction. -/
def phyUses (x : Move) : Nat := b2n (decide (x.inPort < 4)) + (portBits (x.outs % 16)).length

/-- Two moves of one router share a port in a usable cycle (R123). -/
def Move.clash (x y : Move) : Bool :=
  decide ((x.entry, x.iter) ≠ (y.entry, y.iter) ∧ x.cycle = y.cycle) && (x.inPort == y.inPort || Nat.land x.outs y.outs != 0)

/-- The uses of a stack's PHY ports in a step: the Tick offset of each move of its five routers, with its uses. -/
def stackUses (m : Mould) (l q k : Nat) : List (Nat × Nat) :=
  (m.sections.filter fun s => decide (s.typ = secRouter ∧ instLpkg s.inst = l ∧ altKind s.inst = 0) &&
    isHbmRouter (bits s.inst 10 0) && decide (4 * bits s.inst 9 8 + (bits s.inst 7 0 - 0x90) / 5 = q)).flatMap fun s =>
      (routerMoves s k).map fun x => (x.cycle / max 1 (stepU m k), phyUses x)

/-- The PHY ports of the stack of an HBM router carry no more than 20 × U − 64 curd slots in a Tick (R211). -/
def phyCapOk (m : Mould) (l r k tick : Nat) : Bool :=
  let q := 4 * bits r 9 8 + (bits r 7 0 - 0x90) / 5
  decide ((((stackUses m l q k).filter fun y => decide (y.1 = tick)).map (·.2)).sum + 64 ≤ 20 * max 1 (stepU m k))

/-- One move of a router table in one step (R115, R122, R123, R211): a cycle below LENGTH × U, a port used once, and for a router that serves
an HBM PHY no slot in a refresh window, whichever ports it takes. -/
def moveOk (m : Mould) (l r k : Nat) (all : List Move) (x : Move) : Bool :=
  let tick := x.cycle / max 1 (stepU m k)
  decide (x.cycle < (mStep m k).length * stepU m k) && !all.any x.clash &&
    (!isHbmRouter r || (!refreshTick m tick && phyCapOk m l r k tick))

/-- The first failure of a router table in one step: entry counts, then the lowest entry and cycle. -/
def routerStepFail (m : Mould) (l st : Nat) (s : Section) (k : Nat) : Option MouldFail :=
  let r := bits s.inst 10 0
  let es := (recEntries s.bytes k).map routeEntOf
  let all := routerMoves s k
  let at' (e : Nat) : MouldFail := { status := st, unit := r, step := k, entry := recBase s.bytes k + e, key := some (s.typ, s.inst) }
  if (if bit s.inst 10 then 8192 else 4096) < es.length then some { status := st, unit := r, step := k, key := some (s.typ, s.inst) } else
  (List.range es.length).findSome? fun i =>
    match es[i]? with
    | none => none
    | some e =>
      if !periodOk e.count e.period then some (at' i)
      else (all.find? fun x => decide (x.entry = i) && !moveOk m l r k all x).map fun x => { at' i with cycle := x.cycle, iter := x.iter }

/-- A router table by itself (R122, R123, R154): a router that exists, then its steps. -/
def routerTableFail (m : Mould) (l st : Nat) (s : Section) : Option MouldFail :=
  firstFail ((chkSec (routerOk (bits s.inst 10 0)) st s.typ s.inst).map (fun f => { f with unit := bits s.inst 10 0 }) ::
    (List.range (mSteps m).length).map (routerStepFail m l st s))

/-- Check 21, what the tables of a package show by themselves; the traces of R157 also need the cycles at which the data mover places slots,
which no rule gives (log entry 97). -/
def checkRouters (m : Mould) (l : Nat) : Option MouldFail :=
  firstFail ((m.sections.filter fun s => decide (s.typ = secRouter ∧ instLpkg s.inst = l ∧ altKind s.inst = 0)).map (routerTableFail m l 0x011E))

/-- The claims of a link table: direction, Tick offset, slot. -/
def linkClaims (es : List LinkEnt) : List (Nat × Nat × Nat) :=
  es.flatMap fun e => (List.range e.count).flatMap fun i => (List.range e.slots).map fun j => (e.dir, e.start + i * e.period, e.first + j)

/-- One entry of a link table (R124, the third limit of R173), where `es` is the whole table of the port in the step: its slots and Ticks,
no slot claimed twice, no more than 5 × U claims of a direction in a Tick. -/
def linkEntOk (m : Mould) (k : Nat) (es : List LinkEnt) (i : Nat) (e : LinkEnt) : Bool :=
  let mine := linkClaims [e]
  let others := es.zipIdx.flatMap fun x => if x.2 = i then [] else linkClaims [x.1]
  decide (e.first ≤ 283 ∧ 1 ≤ e.slots ∧ e.slots ≤ 284 - e.first) &&
    (mine.all fun c => decide (c.2.1 < (mStep m k).length) && !others.contains c) && decide (mine.eraseDups.length = mine.length) &&
    mine.all fun x => decide (((mine ++ others).filter fun y => decide (y.1 = x.1 ∧ y.2.1 = x.2.1)).length ≤ 5 * stepU m k)

/-- A transmit entry has its receive entry in the facing table of the neighbour (R124), where that table is among those package `l` reads:
its own and its neighbours' towards it. -/
def linkPaired (tor : Torus) (m : Mould) (l n port k : Nat) (e : LinkEnt) : Bool :=
  decide (e.dir ≠ 0) ||
    match neighbourAt tor m n port with
    | none => (portDir port).isNone
    | some nb => decide (n ≠ l ∧ nb ≠ l) || (mLinkTable m nb (facingPort port) k).contains { e with dir := 1 }

/-- The first failure of a link table, step by step and entry by entry. -/
def linkTableFail (tor : Torus) (m : Mould) (l : Nat) (s : Section) : Option MouldFail :=
  let port := bits s.inst 2 0
  let n := instLpkg s.inst
  (List.range (mSteps m).length).findSome? fun k =>
    let es := (recEntries s.bytes k).map linkEntOf
    (es.zipIdx.find? fun x =>
      !(linkEntOk m k es x.2 x.1 && linkPaired tor m l n port k x.1)).map fun x =>
        { status := 0x011F, unit := port, step := k, entry := recBase s.bytes k + x.2, cycle := x.1.start, key := some (s.typ, s.inst) }

/-- Check 23: the link tables in force, the neighbours' included. -/
def checkLinks (tor : Torus) (m : Mould) (l : Nat) : Option MouldFail :=
  firstFail ((m.sections.filter fun s => decide (s.typ = secLink ∧ altKind s.inst = 0)).map (linkTableFail tor m l))

/-- A reduction tree (R129): node `k` names only partials and nodes below it, and each but the root is named once. -/
def reductionOk (m : Mould) (bs : List Byte) (e : Nat) : Bool :=
  let n := field bs (0x10 + 16 * e) 4
  let off := field bs (0x14 + 16 * e) 4
  let node (k : Nat) := (bs.drop (off + 24 * k)).take 24
  let kids := (List.range (n - 1)).flatMap fun k => [field (node k) 0 4, field (node k) 4 4]
  decide (2 ≤ n ∧ n ≤ 65536 ∧ off % 8 = 0 ∧ off + 24 * (n - 1) ≤ bs.length) &&
    ((List.range (n - 1)).all fun k =>
      decide (field (node k) 0 4 < n + k ∧ field (node k) 4 4 < n + k ∧ field (node k) 8 2 < mVatPackages m ∧
        field (node k) 0x12 1 < (mSteps m).length)) &&
    !hasDup kids && ((List.range (2 * n - 2)).all fun x => kids.contains x)

/-- The operation a reduction node names may add (R129): ADD, VATOM or SEND with a floating-point element. -/
def reduces (w : OpWord) : Bool :=
  decide (opCode w = 0x30) || (decide (opCode w = 0x25) && (vFmt w == 1 || vFmt w == 2)) ||
    (decide (opCode w = 0x1A) && (dmAtom w == 2 || dmAtom w == 3))

/-- The operations of a reduction's nodes (R129), on the package's own cores: another package checks its own. -/
def reductionOpsOk (m : Mould) (l : Nat) (bs : List Byte) (e : Nat) : Bool :=
  (List.range (field bs (0x10 + 16 * e) 4 - 1)).all fun k =>
    let node := bs.drop (field bs (0x14 + 16 * e) 4 + 24 * k)
    decide (field node 8 2 ≠ l) ||
      (coreIssues m l (bits (field node 0xA 2) 8 0) (field node 0x12 1)).any fun x =>
        decide (x.entry = field node 0xC 4 ∧ x.iter = field node 0x10 2) && (x.word.map reduces).getD false

/-- Check 24: reduction trees (R129). -/
def checkReductions (m : Mould) (l : Nat) : Option MouldFail :=
  let bs := secBytes m secReductions 0
  chkEntries (secCount bs) (fun e => reductionOk m bs e && reductionOpsOk m l bs e) 0x0121 secReductions 0

/-- A table of a core-position router at position `q` sends nothing to position `p` next to it (R155). -/
def leavesOut (q p : Nat) (es : List RouteEnt) : Bool :=
  es.all fun e => (decide (p ≠ (q + 1) % 17) || decide (e.outs / 4 % 4 = 0)) && (decide (p ≠ (q + 16) % 17) || decide (e.outs / 16 % 4 = 0))

/-- A router-avoiding alternate for spare position p routes no transit slot through the router at p (R132, R155): not through that router's
own table, and, with the tables the switch-over brings into force with it, not from a position next to it. -/
def avoidsOk (m : Mould) (l : Nat) (s : Section) : Bool :=
  let p := secSpare s.inst
  let r := bits s.inst 10 0
  decide (altKind s.inst ≠ 2 ∨ 1024 ≤ r) ||
    (List.range (mSteps m).length).all fun k =>
      (decide (r % 32 ≠ p) || ((recEntries s.bytes k).map routeEntOf).all fun e => decide (e.inPort < 2 ∨ e.outs < 4)) &&
        [(p + 1) % 17, (p + 16) % 17].all fun q => leavesOut q p (mRouterTable m l (r / 32 * 32 + q) p true k)

/-- Check 25 (R132): every bound logical cluster has the spare-position alternates of its 17 routers, for every position but the default, and
each alternate keeps the rules of check 21. -/
def checkAlternates (m : Mould) (l : Nat) : Option MouldFail :=
  let prims := m.sections.filter fun s => decide (s.typ = secRouter ∧ instLpkg s.inst = l ∧ altKind s.inst = 0)
  firstFail ([chk ((pkgClusters (mPkg m l)).all fun c =>
      let rs := clusterRouters c.1 c.2
      let deflt := ((prims.find? fun s => rs.contains (bits s.inst 10 0)).map fun s => secSpare s.inst).getD 0
      rs.all fun r => (List.range 17).all fun sp =>
        hasSec m secRouter (l * 2 ^ 18 + (if sp = deflt then 0 else 2 ^ 16) + sp * 2 ^ 11 + r)) 0x0123] ++
    (m.sections.filter fun s => decide (s.typ = secRouter ∧ instLpkg s.inst = l ∧ altKind s.inst ≠ 0)).map fun s =>
      firstFail [routerTableFail m l 0x0123 s,
        (chkSec (avoidsOk m l s) 0x0123 s.typ s.inst).map fun f => { f with unit := bits s.inst 10 0 }])

/-- The report of R137. -/
def mouldReport (st : Nat) (f : Option MouldFail) (l : Nat) (measure : List Byte) : List Byte :=
  let f := f.getD { status := st }
  leBytes 2 0x1000 ++ leBytes 2 st ++ leBytes 4 f.sec ++ leBytes 4 f.entry ++ leBytes 2 l ++ leBytes 2 f.unit ++
    leBytes 4 f.cycle ++ leBytes 1 f.step ++ leBytes 1 (f.iter / 2 ^ 16) ++ leBytes 2 f.iter ++ fitBytes 32 measure

end Sys2Proof.Machine
end

