-- ==== Sys2Proof/Machine/Hazards.lean ====
section
/-! DEFINITION. Checks 20 and 22 of R136: reads before their producers' writes (R76) and sub-bank port conflicts (R79 to R81, R84); what
BIND_COMPLETE checks of DECODE once the tensors are in place (R59, R64, R78, R89); and all checks of MOULD_LOAD in order. -/

namespace Sys2Proof.Machine

/-! ### Where an operation reads and writes -/

/-- A range of locations: space 0 the core bank, 1 + 2e + b accumulators, 10 + e table registers, 20 + e stage entries, 30 vector registers. -/
structure Loc where
  space : Nat
  first : Nat
  len   : Nat
  deriving DecidableEq, Repr

/-- Two ranges share a location. -/
def Loc.meets (a b : Loc) : Bool := decide (a.space = b.space ∧ a.first < b.first + b.len ∧ b.first < a.first + a.len)

/-- What of a range lies outside another. -/
def Loc.minus (a b : Loc) : List Loc :=
  if !a.meets b then [a] else
  [⟨a.space, a.first, b.first - a.first⟩, ⟨a.space, b.first + b.len, a.first + a.len - (b.first + b.len)⟩].filter fun x => decide (x.len ≠ 0)

/-- Every location of a range lies in one of some others. -/
def Loc.within (a : Loc) (bs : List Loc) : Bool :=
  (bs.foldl (fun rs b => rs.flatMap fun r => r.minus b) (if a.len = 0 then [] else [a])).isEmpty

/-- The ranges of the core bank of a list of (address, bytes). -/
def bankLocs (l : List (Nat × Nat)) : List Loc := l.map fun x => ⟨0, x.1, x.2⟩

/-- A range of weight-stage entries, cut where it wraps (R88). -/
def stageLocs (e base n : Nat) : List Loc :=
  let b := base % 32768
  if b + n ≤ 32768 then [⟨20 + e, b, n⟩] else [⟨20 + e, b, 32768 - b⟩, ⟨20 + e, 0, b + n - 32768⟩]

/-- The accumulators of a tile (log entry 31). -/
def tileLoc (w : OpWord) : Loc := ⟨1 + 2 * opEngine w + opAccBank w, 0, 2 ^ opTmLog2 w * 2 ^ opTnLog2 w⟩

/-- Equal groups of bytes at a stride. -/
def strided (a stride n k : Nat) : List (Nat × Nat) := (List.range n).map fun g => (a + g * stride, k)

/-- The bank ranges of the A and of the B operand of an MM (R88). -/
def mmARanges (w : OpWord) : List (Nat × Nat) :=
  if mmASrc w = 1 then [] else strided (mmAAddr w) (mmAStride w) (mmG w) (packedBytes (codeBits (mmFmtA w)) (2 ^ opTmLog2 w * 32))
def mmBRanges (w : OpWord) : List (Nat × Nat) :=
  strided (mmBAddr w) (mmBStride w) (mmG w) (packedBytes (codeBits (mmFmtB w)) (2 ^ opTnLog2 w * 32))

/-- The bank ranges of the tile of an ACC_STORE or ACC_LOAD (R91): groups in B layout, or the columns of the one group that fewer than 32 rows
leave with gaps; columns in column layout. -/
def tileRanges (w : OpWord) : List (Nat × Nat) :=
  let tm := 2 ^ opTmLog2 w
  let tn := 2 ^ opTnLog2 w
  let width := codeBits (accFmt w)
  if accOrder w = 0 then
    (if tm < 32 then strided (accAddr w) (4 * width) tn (packedBytes width tm)
     else strided (accAddr w) (accStride w) (tm / 32) (packedBytes width (tn * 32)))
  else strided (accAddr w) (accStride w) tn (packedBytes width tm)

/-- The scale arrays an MM reads (R88): byte row × G + group. -/
def mmScales (w : OpWord) : List (Nat × Nat) :=
  (if isMx (mmFmtA w) then [(mmAScale w, 2 ^ opTmLog2 w * mmG w)] else []) ++
    (if isMx (mmFmtB w) then [(mmBScale w, 2 ^ opTnLog2 w * mmG w)] else [])

/-- The bank ranges that the array of a vector memory operation takes (R96). -/
def vecRange (w : OpWord) : Nat × Nat := (vAddr w, vN w * vecBytes w)

/-- The row count of GETX, GETL and PUTL, 1 for the other mover operations. -/
def moverRows (w : OpWord) : Nat :=
  if opCode w = 0x1C then dmTarget w else if opCode w = 0x1D ∨ opCode w = 0x1E then dmLaneCount w else 1

/-- The bank ranges an operation reads through its port, in order; an MM's scale arrays, an atomic's own rows and the ranges of a DECODE, whose
addresses follow from the tensor, are not among them. -/
def bankReads (w : OpWord) : List (Nat × Nat) :=
  match opCode w with
  | 0x01 => mmARanges w ++ mmBRanges w
  | 0x03 => tileRanges w
  | 0x04 => [(tblSrc w, idxEntries (tblIdxFmt w) * (if tblEntryFmt w = 2 then 2 else 1))]
  | 0x19 => [(dmBank w, dmLength w)]
  | 0x1A => [(dmBank w, dmLength w)]
  | 0x1B => [(dmBank w, dmLength w)]
  | 0x1C => [(dmIndexAddr w, 4 * dmTarget w)]
  | 0x1E => [(dmBank w, dmLaneCount w * dmLength w)]
  | 0x20 => [vecRange w]
  | 0x22 => [vecRange w, (vAddr2 w, 4 * vN w)]
  | 0x24 => [(vAddr2 w, 16 * vN w)]
  | _ => []

/-- The bank ranges an operation writes in its own core, in order. -/
def bankWrites (w : OpWord) : List (Nat × Nat) :=
  match opCode w with
  | 0x02 => tileRanges w ++ if isMx (accFmt w) then [(accScale w, 2 ^ opTnLog2 w * (2 ^ opTmLog2 w / 32))] else []
  | 0x18 => [(dmBank w, dmLength w)]
  | 0x1B => [(dmDst w, dmLength w)]
  | 0x1C => [(dmBank w, dmTarget w * dmLength w)]
  | 0x1D => [(dmBank w, dmLaneCount w * dmLength w)]
  | 0x21 => [vecRange w]
  | 0x23 => [vecRange w, (vAddr2 w, 4 * vN w)]
  | 0x25 => [vecRange w]
  | 0x26 => [vecRange w]
  | _ => []

/-- Everything an operation reads (R76). -/
def opReads (w : OpWord) : List Loc :=
  let e := opEngine w
  let u := vecUse (opCode w)
  if opEmpty w then [] else bankLocs (bankReads w) ++
  (match opUnit w with
   | some 4 =>
     (if u.a then [⟨30, vA w, vN w⟩] else []) ++ (if u.b && !vImmB w then [⟨30, vB w, vN w⟩] else []) ++
       (if u.c then [⟨30, vC w, vN w⟩] else [])
   | some 5 => []
   | some 6 => []
   | _ =>
     if opCode w = 0x01 then
       (if mmInit w = 1 then [tileLoc w] else []) ++
         bankLocs (mmScales w) ++
         (if mmASrc w = 1 then stageLocs e (mmAAddr w) (mmG w * 2 ^ opTmLog2 w * 32)
          else if isCb (mmFmtA w) then [⟨10 + e, mmTbl w, 1⟩] else [])
     else if opCode w = 0x02 then [tileLoc w] else [])

/-- Everything an operation writes in its own core. -/
def opWrites (w : OpWord) : List Loc :=
  let e := opEngine w
  if opEmpty w then [] else bankLocs (bankWrites w) ++
  (match opUnit w with
   | some 4 =>
     if (vecUse (opCode w)).d then [⟨30, vD w, if 0x50 ≤ opCode w ∧ opCode w ≤ 0x52 then 1 else vN w⟩] else []
   | some 5 => stageLocs e (decStageBase w) (256 * decSegN w)
   | some 6 => []
   | _ =>
     if opCode w = 0x01 ∨ opCode w = 0x03 then [tileLoc w] else if opCode w = 0x04 then [⟨10 + e, tblReg w, 1⟩] else [])

/-! ### When it does -/

/-- The rows of 64 bytes a range touches (R79). -/
def rowsOf (a n : Nat) : List Nat := if n = 0 then [] else (List.range ((a + n - 1) / 64 + 1 - a / 64)).map (a / 64 + ·)

/-- A range cut at the rows: (address, bytes) each. -/
def rowCuts (a n : Nat) : List (Nat × Nat) :=
  (rowsOf a n).map fun r => (max a (64 * r), min (a + n) (64 * r + 64) - max a (64 * r))

/-- Ranges cut at the rows, in order. -/
def rangeCuts (l : List (Nat × Nat)) : List (Nat × Nat) := l.flatMap fun x => rowCuts x.1 x.2

/-- An access to the core bank in one cycle: the cycle, the address, the bytes, all in one row. -/
abbrev BankUse := Nat × Nat × Nat

/-- Rows taken in order, some a cycle (R80). -/
def streamRows (t0 perCycle : Nat) (l : List (Nat × Nat)) : List BankUse := l.zipIdx.map fun x => (t0 + x.2 / max 1 perCycle, x.1)

/-- Rows in order of which the last falls in a given cycle. -/
def streamEnding (last per : Nat) (l : List (Nat × Nat)) : List BankUse := streamRows (last + 1 - ceilDiv l.length (max 1 per)) per l

/-- Part `i` of `p` equal parts of `n` things: the first and the number. -/
def part (n p i : Nat) : Nat × Nat := (i * n / p, (i + 1) * n / p - i * n / p)

/-- The reads of one operand of an MM: group g over cycles c + 1 + gP to c + (g + 1)P, its rows in ascending order (R90). -/
def mmUses (c p : Nat) (l : List (Nat × Nat)) : List BankUse :=
  l.zipIdx.flatMap fun x => (List.range p).flatMap fun i =>
    let q := part x.1.2 p i
    (rowCuts (x.1.1 + q.1) q.2).map fun r => (c + 1 + x.2 * p + i, r)

/-- The reads of a scale array of an MM, each scale with its row of the group (R88, R90). -/
def scaleUses (c p g rows base : Nat) : List BankUse :=
  (List.range g).flatMap fun k => (List.range rows).map fun r => (c + 1 + k * p + r * p / max 1 rows, base + r * g + k, 1)

/-- The reads of the weight stage of an MM (R88, R90). -/
def stageUses (c p g tm e base : Nat) : List (Nat × Loc) :=
  (List.range g).flatMap fun k => (List.range p).flatMap fun i =>
    let q := part (tm * 32) p i
    (stageLocs e (base + k * tm * 32 + q.1) q.2).map fun r => (c + 1 + k * p + i, r)

/-- Rows a cycle of the port an operation uses (R80, R98). -/
def portRows (w : OpWord) : Nat := if opUnit w = some 6 ∧ opCode w ≠ 0x1B then 2 * dmPorts w else 4

/-- The core-bank reads through an operation's port, where it is issued at cycle `c`. An atomic reads its rows so (R84). -/
def portReads (c : Nat) (w : OpWord) : List BankUse :=
  if opEmpty w then []
  else if opCode w = 0x01 then mmUses c (mmP w) (mmARanges w) ++ mmUses c (mmP w) (mmBRanges w)
  else if opCode w = 0x25 ∨ opCode w = 0x26 then streamRows (c + 1) (portRows w) (rangeCuts [vecRange w])
  else streamRows (c + 1) (portRows w) (rangeCuts (bankReads w))

/-- The core-bank writes of an operation in its own core: the last in cycle c + L (R75); of an atomic one cycle after each read (R84). -/
def portWrites (c lat : Nat) (w : OpWord) : List BankUse :=
  if opEmpty w then []
  else if opCode w = 0x25 ∨ opCode w = 0x26 then streamRows (c + 2) (portRows w) (rangeCuts [vecRange w])
  else streamEnding (c + lat) (portRows w) (rangeCuts (bankWrites w))

/-- What a SEND does to the rows of its target: writes that end at c + L, and for an atomic the reads a cycle before. -/
def arrivalWrites (c lat : Nat) (w : OpWord) : List BankUse := streamEnding (c + lat) (portRows w) (rangeCuts [(dmDst w, dmLength w)])
def arrivalReads (c lat : Nat) (w : OpWord) : List BankUse :=
  if dmAtom w = 0 then [] else streamEnding (c + lat - 1) (portRows w) (rangeCuts [(dmDst w, dmLength w)])

/-- An access to the core bank as a range of it. -/
def BankUse.loc (x : BankUse) : Nat × Loc := (x.1, ⟨0, x.2.1, x.2.2⟩)

/-- Everything an operation reads, with the cycle: rows of the bank and stage entries as its port takes them, all else from c + 1 on (R75, R76;
DESIGN CHOICE, log entry 97). -/
def opReadsAt (c : Nat) (w : OpWord) : List (Nat × Loc) :=
  (portReads c w).map BankUse.loc ++
  (if opCode w = 0x01 then
    ((if isMx (mmFmtA w) then scaleUses c (mmP w) (mmG w) (2 ^ opTmLog2 w) (mmAScale w) else []) ++
      (if isMx (mmFmtB w) then scaleUses c (mmP w) (mmG w) (2 ^ opTnLog2 w) (mmBScale w) else [])).map BankUse.loc ++
    (if mmASrc w = 1 then stageUses c (mmP w) (mmG w) (2 ^ opTmLog2 w) (opEngine w) (mmAAddr w) else [])
   else []) ++
  ((opReads w).filter fun r => decide (r.space ≠ 0 ∧ (r.space < 20 ∨ 30 ≤ r.space))).map fun r => (c + 1, r)

/-- Everything an operation writes in its own core, with the cycle of the write: rows of the bank as its port takes them, all else in cycle
c + L. A DECODE's stage entries are taken as early as any tensor lets them come, 16 weights a cycle and 16 cycles a round (R62, R93): what
its own tensor gives is held against them at BIND_COMPLETE. -/
def opWritesAt (c lat : Nat) (w : OpWord) : List (Nat × Loc) :=
  (portWrites c lat w).map BankUse.loc ++
  if opCode w = 0x10 then
    (List.range (16 * decSegN w)).flatMap fun q =>
      (stageLocs (opEngine w) (decStageBase w + 16 * q) 16).map fun r => (c + 14 + 16 * (q / 1024) + q % 16, r)
  else ((opWrites w).filter fun r => decide (r.space ≠ 0)).map fun r => (c + lat, r)

/-! ### Check 20 -/

/-- A write that other operations may consume: issue cycle, cycle of the write, range. -/
structure WriteEvent where
  issue : Nat
  last  : Nat
  loc   : Loc
  deriving DecidableEq, Repr

/-- The logical cores a SEND word reaches. -/
def sendCores (m : Mould) (l : Nat) (w : OpWord) : List Nat :=
  if bit (dmTarget w) 15 then mMulticast m l (bits (dmTarget w) 11 0) else [bits (dmTarget w) 8 0]

/-- The SENDs of a step that reach a core: sender, issue cycle, word (R99). -/
def arrivals (m : Mould) (l k c : Nat) : List (Nat × Nat × OpWord) :=
  (List.range (pkgCores (mPkg m l))).flatMap fun d => (coreIssues m l d k).filterMap fun x =>
    x.word.bind fun w => if opCode w = 0x1A ∧ (sendCores m l w).contains c then some (d, x.cycle, w) else none

/-- Every write into a core in a step: its own operations' and the SENDs' that reach it. -/
def writeEvents (tor : Torus) (m : Mould) (l k c : Nat) : List WriteEvent :=
  ((coreIssues m l c k).flatMap fun x => match x.word with
    | none => []
    | some w => (opWritesAt x.cycle (issueLat tor m l c (stepU m k) w) w).map fun y => ⟨x.cycle, y.1, y.2⟩) ++
  (arrivals m l k c).flatMap fun a =>
    (arrivalWrites a.2.1 (issueLat tor m l a.1 (stepU m k) a.2.2) a.2.2).map fun y => ⟨a.2.1, y.loc.1, y.loc.2⟩

/-- The DECODEs of a step's issues, with their cycles. -/
def decodesOf (xs : List Issue) : List (Nat × OpWord) :=
  xs.filterMap fun y => y.word.bind fun v => if opCode v = 0x10 then some (y.cycle, v) else none

/-- The rows an atomic of the vector unit reads in the bank (R84). -/
def atomReads (w : OpWord) : List Loc :=
  if !opEmpty w ∧ (opCode w = 0x25 ∨ opCode w = 0x26) then bankLocs [vecRange w] else []

/-- The table registers that the DECODEs of a step may have loaded before a cycle: all eight of their engine. -/
def tablesBefore (xs : List Issue) (cycle : Nat) : List Loc :=
  (decodesOf xs).filterMap fun d => if d.1 < cycle then some ⟨10 + opEngine d.2, 0, 8⟩ else none

/-- Some ranges are written, each location, by operations issued before a cycle of the same step. -/
def produced (tor : Torus) (m : Mould) (l k c cycle : Nat) (rs : List Loc) : Bool :=
  let before := ((writeEvents tor m l k c).filter fun e => decide (e.issue < cycle)).map (·.loc) ++ tablesBefore (coreIssues m l c k) cycle
  rs.all fun r => r.within before

/-- No read of a location comes before the write of an operation issued earlier. Atomics on one row are ordered by the bank itself (R84). -/
def readsWait (es : List WriteEvent) (cycle : Nat) (rs : List (Nat × Loc)) : Bool :=
  rs.all fun r => es.all fun e => decide (cycle ≤ e.issue ∨ e.last ≤ r.1) || !e.loc.meets r.2

/-- Check 20: an operation issued after another that writes what it reads reads it no earlier than the cycle of that write (R76), and what it
reads some earlier operation of the step has written (R280), the rows of atomics too. -/
def checkHazards (tor : Torus) (m : Mould) (l : Nat) : Option MouldFail :=
  issueCheck m l 0x011B fun c k x => onWord (fun w =>
    readsWait (writeEvents tor m l k c) x.cycle (opReadsAt x.cycle w) &&
    produced tor m l k c x.cycle (opReads w ++ atomReads w) &&
    (decide (opCode w ≠ 0x1A ∨ dmAtom w = 0 ∨ opEmpty w = true) || (sendCores m l w).all fun d =>
      produced tor m l k d x.cycle [⟨0, dmDst w, dmLength w⟩])) x

/-! ### Check 22 -/

/-- The cycles and sub-banks of some accesses (R79). -/
def subBanks (l : List BankUse) : List (Nat × Nat) := l.map fun x => (x.1, x.2.1 / 64 % 16)

/-- A cycle and sub-bank occurs twice among those of an operation, or once there and once among the others. -/
def rowClash (mine others : List BankUse) : Bool :=
  let a := subBanks mine
  decide (a.eraseDups.length < a.length) || a.any (subBanks others).contains

/-- Check 22: no sub-bank needs two row reads or two row writes in one cycle, fabric arrivals included (R81). An operand goes through its port
in ascending address order, at the port's full width (DESIGN CHOICE, log entry 97); the reads of MX scales and of the press decoder, whose
ports and cycles no rule gives, are left out. -/
def checkBanks (tor : Torus) (m : Mould) (l : Nat) : Option MouldFail :=
  issueCheck m l 0x011C fun c k x => onWord (fun w =>
    let lat (d : Nat) (v : OpWord) := issueLat tor m l d (stepU m k) v
    let others := (coreIssues m l c k).filterMap fun y =>
      if (y.entry, y.iter) = (x.entry, x.iter) then none else y.word.map fun v => (y.cycle, v)
    let sends := arrivals m l k c
    !rowClash (portReads x.cycle w) ((others.flatMap fun y => portReads y.1 y.2) ++ sends.flatMap fun a => arrivalReads a.2.1 (lat a.1 a.2.2) a.2.2) &&
      !rowClash (portWrites x.cycle (lat c w) w)
        ((others.flatMap fun y => portWrites y.1 (lat c y.2) y.2) ++ sends.flatMap fun a => arrivalWrites a.2.1 (lat a.1 a.2.2) a.2.2)) x

/-! ### DECODE and the tensors, at BIND_COMPLETE -/

/-- What a DECODE reads of the segments that exist lies in the core bank (R78): the tensor as R51 lays it out from `BANK_ADDR` on, up to the end of the last segment named
(DEDUCED, log entry 32). -/
def decodeInBank (w : OpWord) (h : PressHdr) (bs : List Byte) : Bool :=
  let e := dirEntry (bs.drop (h.dirOff + 8 * (decSegFirst w + decSegN w - 1)))
  decSegN w == 0 || decide (h.segCount < decSegFirst w + decSegN w) || inBank (decBank w) (h.dataOff + e.1 + ceilDiv e.2.1 8)

/-- The ranges of the core bank that a DECODE reads for itself (R64, R65): directory entries and data of the segments named. -/
def decodeReads (w : OpWord) (h : PressHdr) (bs : List Byte) : List Loc :=
  bankLocs ((decBank w + h.dirOff + 8 * decSegFirst w, 8 * decSegN w) :: (List.range (decSegN w)).map fun j =>
    let e := dirEntry (bs.drop (h.dirOff + 8 * (decSegFirst w + j)))
    (decBank w + h.dataOff + e.1, ceilDiv e.2.1 8))

/-- A DECODE of a step with its tensor: issue cycle, word, header, and the plan of its segments (R61, R62). -/
structure DecodeRun where
  cycle : Nat
  word  : OpWord
  hdr   : PressHdr
  plan  : List (Nat × Nat × SegDecode)
  deriving DecidableEq, Repr

/-- The DECODEs of a step's issues with their tensors. -/
def decodeRuns (ten : Nat → List Byte) (xs : List Issue) : List DecodeRun :=
  (decodesOf xs).map fun d =>
    let bs := ten (decTensor d.2)
    ⟨d.1, d.2, pressHdr bs, tensorPlan (pressHdr bs) bs (decSegFirst d.2) (decSegN d.2)⟩

/-- The stage entries a DECODE writes, with the cycle of each (R93), within its budget (R63). -/
def DecodeRun.writes (d : DecodeRun) : List WriteEvent :=
  d.plan.flatMap fun p => p.2.2.idxs.zipIdx.flatMap fun x =>
    let t := p.2.1 + x.1.2.1
    if t < decBudget d.word then
      (stageLocs (opEngine d.word) (decStageBase d.word + 256 * p.1 + x.2) 1).map fun r => ⟨d.cycle, d.cycle + t, r⟩
    else []

/-- The table of the segment at a position of the named range, and the register it goes to. -/
def DecodeRun.table (d : DecodeRun) (j : Nat) : Nat := segTable d.hdr (decSegFirst d.word + j)

/-- The tables a DECODE writes into registers: the cycle and the table (R64, R93). -/
def DecodeRun.tables (d : DecodeRun) : List (Nat × Nat) :=
  (firsts (d.plan.map fun p => d.table p.1)).filterMap fun t =>
    (d.plan.find? fun p => decide (d.table p.1 = t)).map fun p => (d.cycle + p.2.1, t)

/-- The bank reads of a DECODE (R64 to R66, R75): directory entries and tables of a round from the first cycle of the round before it on, of
the first round from c + 1 on; the bytes of a code as many cycles before its weights go out as the first ones do, 13 (DESIGN CHOICE,
log entry 97). -/
def DecodeRun.reads (d : DecodeRun) (bs : List Byte) : List (Nat × Loc) :=
  let base := decBank d.word
  d.plan.flatMap fun p =>
    let r := p.1 / 64
    let meta' := if r = 0 then d.cycle + 1 else d.cycle + (((d.plan.find? fun q => decide (q.1 / 64 + 1 = r)).map (·.2.1)).getD 1)
    let e := dirEntry (bs.drop (d.hdr.dirOff + 8 * (decSegFirst d.word + p.1)))
    let ends := 0 :: p.2.2.idxs.map (·.2.2)
    [(meta', ⟨0, base + d.hdr.dirOff + 8 * (decSegFirst d.word + p.1), 8⟩),
     (meta', ⟨0, base + d.hdr.tblOff + d.table p.1 * tableBytes d.hdr, tableBytes d.hdr⟩)] ++
      (p.2.2.idxs.zip ends).map fun x =>
        (d.cycle + p.2.1 + x.1.2.1 - 13, ⟨0, base + d.hdr.dataOff + e.1 + x.2 / 8, (x.1.2.2 - 1) / 8 + 1 - x.2 / 8⟩)

/-- The tables a DECODE reads from the bank: those that no earlier DECODE of the step has read of the same tensor (R64). -/
def DecodeRun.tableReads (d : DecodeRun) (ds : List DecodeRun) : List Loc :=
  ((firsts (d.plan.map fun p => d.table p.1)).filter fun t => !(ds.any fun z =>
    decide (z.cycle < d.cycle ∧ decTensor z.word = decTensor d.word) && z.plan.any fun p => decide (z.table p.1 = t))).map fun t =>
    ⟨0, decBank d.word + d.hdr.tblOff + t * tableBytes d.hdr, tableBytes d.hdr⟩

/-- The part of a range that lies in another. -/
def Loc.common (a b : Loc) : List Loc :=
  if a.meets b then [⟨a.space, max a.first b.first, min (a.first + a.len) (b.first + b.len) - max a.first b.first⟩] else []

/-- The stage entries of a segment of a DECODE. -/
def DecodeRun.entries (d : DecodeRun) (j : Nat) : List Loc := stageLocs (opEngine d.word) (decStageBase d.word + 256 * j) 256

/-- A read of stage entries that a DECODE wrote finds each entry's own table still in its register (R64, R89): since the round that wrote it, no
round of this or of a later DECODE has by then put another table there. Entries a later DECODE wrote again are that one's. -/
def tableStands (ds : List DecodeRun) (issue : Nat) (r : Nat × Loc) (d : DecodeRun) : Bool :=
  let later := (ds.filter fun z => decide (d.cycle < z.cycle ∧ z.cycle < issue ∧ opEngine z.word = opEngine d.word)).flatMap fun z => z.writes.map (·.loc)
  d.plan.all fun p =>
    let mine := ((d.entries p.1).flatMap r.2.common).filter fun a => !a.within later
    mine.isEmpty || ds.all fun z => decide (z.cycle < d.cycle ∨ opEngine z.word ≠ opEngine d.word) || z.tables.all fun t =>
      decide (t.2 % 8 ≠ d.table p.1 % 8 ∨ (t.2 = d.table p.1 ∧ decTensor z.word = decTensor d.word) ∨ t.1 ≤ d.cycle + p.2.1 ∨ r.1 < t.1)

/-- No table register that entries of an MM name takes another table before the MM has read them. -/
def tablesStand (ds : List DecodeRun) (x : Issue) (w : OpWord) : Bool :=
  decide (opCode w ≠ 0x01 ∨ mmASrc w ≠ 1) ||
    (stageUses x.cycle (mmP w) (mmG w) (2 ^ opTmLog2 w) (opEngine w) (mmAAddr w)).all fun r =>
      ds.all fun d => decide (x.cycle ≤ d.cycle ∨ opEngine d.word ≠ opEngine w) || tableStands ds x.cycle r d

/-- The tables that stand in the register of an MM's codebook A in the core bank while it reads: the last one written by its first read, and any
written until its last (R89, R92, R93), each with its `IDX_FMT`. -/
def tablesRead (ds : List DecodeRun) (xs : List Issue) (x : Issue) (w : OpWord) : List Nat :=
  let loads := xs.filterMap fun y => y.word.bind fun v =>
    if opCode v = 0x04 ∧ opEngine v = opEngine w ∧ tblReg v = mmTbl w ∧ y.cycle < x.cycle then some (y.cycle + 3, tblIdxFmt v) else none
  let decs := ds.flatMap fun d =>
    if opEngine d.word = opEngine w ∧ d.cycle < x.cycle then
      d.tables.filterMap fun t => if t.2 % 8 = mmTbl w then some (t.1, d.hdr.idxFmt) else none
    else []
  let all := loads ++ decs
  ((leastBy (fun a b => decide (b.1 < a.1)) (all.filter fun t => decide (t.1 ≤ x.cycle + 1))).toList ++
    all.filter fun t => decide (x.cycle + 1 < t.1 ∧ t.1 ≤ x.cycle + opOcc w)).map (·.2)

/-- A codebook A in the core bank finds tables of its own `IDX_FMT` in its register (R89). -/
def tablesFit (ds : List DecodeRun) (xs : List Issue) (x : Issue) (w : OpWord) : Bool :=
  decide (opCode w ≠ 0x01 ∨ mmASrc w = 1) || !isCb (mmFmtA w) || (tablesRead ds xs x w).all (· == mmFmtA w)

/-- What is checked of DECODE once the tensors are in place: segments within `SEG_COUNT` (R61, check 18), operands within the bank (R78), tables
that stand and fit (R89), a producer for what DECODE reads, and no read before its producer's write (R76, R280); `ten` gives a tensor's
bytes. MOULD_LOAD cannot check these, the tensors not being there (DEDUCED, log entry 117). -/
def checkDecodes (tor : Torus) (m : Mould) (l : Nat) (ten : Nat → List Byte) : Option MouldFail :=
  let hdr (i : Nat) := pressHdr (ten i)
  let runs (c k : Nat) := decodeRuns ten (coreIssues m l c k)
  firstFail [
    issueCheck m l 0x0119 fun c k x => onWord (fun w =>
      (decide (opCode w ≠ 0x10) || decodeInBank w (hdr (decTensor w)) (ten (decTensor w))) && tablesStand (runs c k) x w &&
        tablesFit (runs c k) (coreIssues m l c k) x w) x,
    issueCheck m l 0x011D fun _ _ => onWord fun w =>
      decide (opCode w ≠ 0x10 ∨ decSegN w = 0 ∨ decSegFirst w + decSegN w ≤ (hdr (decTensor w)).segCount),
    issueCheck m l 0x011B fun c k x => onWord (fun w =>
      readsWait ((runs c k).flatMap DecodeRun.writes) x.cycle (opReadsAt x.cycle w) &&
      (decide (opCode w ≠ 0x10 ∨ decSegN w = 0) ||
        ((runs c k).filter fun d => decide (d.cycle = x.cycle ∧ d.word = w)).all fun d =>
          produced tor m l k c x.cycle (decodeReads w d.hdr (ten (decTensor w)) ++ d.tableReads (runs c k)) &&
            readsWait (writeEvents tor m l k c) x.cycle (d.reads (ten (decTensor w))))) x]

/-! ### All checks of MOULD_LOAD -/

/-- The checks of R136 in order. `signers` is the vat's list of signer digests (R373, R375), `sigOk` the outcome of the FIPS 205 verification,
`base` the Mould in force and its chain for a delta, `deep` the statuses among those of checks 21, 22 and 25 that what the tables do not
show by themselves fails: the slots' traces through the wiring map (R157) and the press decoder's reads. -/
def checkMould (tor : Torus) (bs : List Byte) (objBytes l : Nat) (signers : List (List Byte)) (sigOk : Bool)
    (base : Option (Mould × List Byte)) (deep : List Nat) : Option MouldFail :=
  let b := base.map (·.1)
  let m0 := readMould tor bs b l
  let m := inForce b m0
  let deepChk (st : Nat) := chk (!deep.contains st) st
  (firstFail ([checkHeader bs, checkReserved bs, checkLayout bs objBytes,
    chkSec (signers.contains (shake256 (mouldSigner bs) 32)) 0x0810 secSignature 0, chkSec sigOk 0x0811 secSignature 0, checkDigests tor bs b l, checkSections tor bs b l] ++
   [checkSet m (mouldDir bs) m0.delta (hasSec m0 secDeltaMap 0 == m0.delta) l,
    (if m0.delta then
      match base with
      | some (b, chain) => chk (decide (m0.baseChain = chain ∧ m0.modelId = b.modelId)) 0x0115
      | none => chk false 0x0115
     else none),
    checkShape m, checkSteps m, checkRegions m l, checkPrograms tor m l] ++
   [checkOperands m l, checkRefs m l, checkDecode m l, checkBusy m l, checkHazards tor m l,
    checkRouters m l, deepChk 0x011E, checkBanks tor m l, deepChk 0x011C, checkLinks tor m l, checkReductions m l,
    checkAlternates m l, deepChk 0x0123])).map (·.locate (mouldDir bs))

end Sys2Proof.Machine
end

