-- ==== Sys2Proof/Machine/Sess.lean ====
section
/-! DEFINITION. Vats and sessions: member nodes and control messages (R270, R288, R289), KV space (R242, R243), a session's next step
(R239, R244), allocation, offers, and the end of a request (R236, R241, R251). -/

namespace Sys2Proof.Machine
open Sys2Proof

/-! ### Nodes and messages -/

/-- A torus coordinate plus an offset, modulo its size (R270). -/
def wrap (x : Nat) (d : Int) (n : Nat) : Nat := (((x : Int) + d) % (max n 1 : Nat)).toNat

/-- The node at an offset from a node (R196, R270). -/
def Links.at (l : Links) (origin : Nat) (dx dy dz : Int) : Nat :=
  wrap (origin % l.tx) dx l.tx + l.tx * wrap (origin / l.tx % l.ty) dy l.ty + l.tx * l.ty * wrap (origin / (l.tx * l.ty)) dz l.tz

/-- The node of a logical package of a vat (R270, R283). -/
def State.lpkgNode (s : State) (v : Vat) (l : Nat) : Nat :=
  match mapFind v.nodes l with
  | some n => n
  | none => match v.mould with
    | some m => let p := mPkg m l; s.links.at v.desc.origin p.dx p.dy p.dz
    | none => v.desc.origin

/-- The node a move's spare stands at (R270). -/
def State.moveNode (s : State) (v : Vat) (k : Nat) : Nat :=
  match v.mould with
  | some m => let p := mMove m k; s.links.at v.desc.origin p.2.1 p.2.2.1 p.2.2.2
  | none => v.desc.origin

/-- Members of a vat. -/
def Vat.packages (v : Vat) : Nat := v.desc.packages

/-- The head's logical package (R267). -/
def Vat.headLpkg (v : Vat) : Nat := (v.mould.map mHeadLpkg).getD 0

def Vat.isMember (v : Vat) : Bool := decide (v.role = .member)
def Vat.isHead (v : Vat) : Bool := v.isMember && decide (v.lpkg = v.headLpkg)
/-- The logical package that acts as time master (R267, R286). -/
def Vat.masterLpkg (v : Vat) : Nat := v.acting.getD v.desc.tm

def Vat.isMaster (v : Vat) : Bool := v.isMember && decide (v.lpkg = v.masterLpkg)
def Vat.isDeputy (v : Vat) : Bool := v.isMember && decide (v.lpkg = v.desc.deputy ∧ v.desc.deputy ≠ v.masterLpkg)

/-- The 96 payload bytes of a control message (R288). -/
def controlBytes (v : Vat) (msg tick arg : Nat) (body : List Byte) : List Byte :=
  leBytes 2 0x1000 ++ leBytes 1 msg ++ zeros 1 ++ leBytes 2 v.desc.vatId ++
    leBytes 2 (if v.isMember then v.lpkg else 0xFFFF) ++ leBytes 8 tick ++ leBytes 4 arg ++ leBytes 4 v.comp ++ fitBytes 0x48 body

/-- Send a control message to a node. -/
def State.control (s : State) (v : Vat) (msg node tick arg : Nat) (body : List Byte) : State :=
  s.sendControl node msg v.desc.vatId (controlBytes v msg tick arg body)

/-- Send a control message to every member. -/
def State.controlAll (s : State) (v : Vat) (msg tick arg : Nat) (body : List Byte) : State :=
  (List.range v.packages).foldl (fun t l => t.control v msg (s.lpkgNode v l) tick arg body) s

/-! ### Sessions -/

def Vat.sid (v : Vat) (i : Nat) : Nat := v.lpkg * 2 ^ 18 + i
def Vat.sess (v : Vat) (i : Nat) : Session := mapGet Session.free v.sessions i
def Vat.wk (v : Vat) (i : Nat) : SessWork := mapGet SessWork.empty v.work i
def Vat.onSess (v : Vat) (i : Nat) (f : Session → Session) : Vat :=
  { v with sessions := mapSet Session.free v.sessions i (f (v.sess i)) }
def Vat.onWk (v : Vat) (i : Nat) (f : SessWork → SessWork) : Vat :=
  { v with work := mapSet SessWork.empty v.work i (f (v.wk i)) }

def State.onSess (s : State) (vat i : Nat) (f : Session → Session) : State := s.onVat vat fun v => v.onSess i f
def State.onWk (s : State) (vat i : Nat) (f : SessWork → SessWork) : State := s.onVat vat fun v => v.onWk i f

/-! ### KV space (R242, R248) -/

/-- Regions of a package of a kind with `USE` KV blocks: (region number, region). -/
def kvRegions (m : Mould) (l kind : Nat) : List (Nat × Region) :=
  let rs := mRegions m l
  ((List.range rs.length).zip rs).filter fun p => decide (p.2.kind = kind ∧ p.2.use = 3)

def kvBytes (m : Mould) (l kind : Nat) : Nat := ((kvRegions m l kind).map fun p => p.2.bytes).foldl (· + ·) 0

/-- Blocks of 65,536 bytes in a package's HBM KV space. -/
def kvBlocks (m : Mould) (l : Nat) : Nat := kvBytes m l 2 / 65536

/-- Cave slots of a package: each takes a tag of 32 bytes and 65,536 bytes (R248). -/
def kvCaves (m : Mould) (l : Nat) : Nat := kvBytes m l 3 / 65568

/-- The smallest of a number over the members. -/
def leastOf (n : Nat) (f : Nat → Nat) : Nat := (minNat? ((List.range n).map f)).getD 0

/-- Pieces of a range of the concatenated KV regions of a kind. -/
def Vat.kvPieces (v : Vat) (slot : Nat) : List (Nat × Region) → Nat → Nat → Pieces
  | [], _, _ => []
  | (k, r) :: rs, off, len =>
    if len = 0 then [] else
    if r.bytes ≤ off then v.kvPieces slot rs (off - r.bytes) len else
    let n := if len < r.bytes - off then len else r.bytes - off
    v.regionPieces k off n slot ++ v.kvPieces slot rs 0 (len - n)

/-- The pieces of HBM block `b` from byte `f` on (R242), under the vat's data key. -/
def State.blockPieces (s : State) (v : Vat) (b f len : Nat) : Pieces :=
  match v.mould with
  | some m => v.kvPieces ((s.vatSlot v.desc.vatId 5).getD 1) (kvRegions m v.lpkg 2) (65536 * b + f) len
  | none => []

/-- The pieces of cave slot `c`. -/
def State.cavePieces (s : State) (v : Vat) (c : Nat) : Pieces :=
  match v.mould with
  | some m => v.kvPieces ((s.vatSlot v.desc.vatId 5).getD 1) (kvRegions m v.lpkg 3) (32 * kvCaves m v.lpkg + 65536 * c) 65536
  | none => []

/-- The pieces of the tag of cave slot `c` (R248). -/
def State.tagPieces (s : State) (v : Vat) (c : Nat) : Pieces :=
  match v.mould with
  | some m => v.kvPieces ((s.vatSlot v.desc.vatId 5).getD 1) (kvRegions m v.lpkg 3) (32 * c) 32
  | none => []

/-- MAX_BLOCKS of a vat (R234). -/
def SessParams.maxBlocks (p : SessParams) : Nat := p.maxPos / max 1 p.blockPos

/-- Blocks, residency slots or cave slots of this home that no session holds, lowest first (R242). -/
def Vat.freeBlocks (v : Vat) : List Nat :=
  let used := v.sessions.flatMap fun p => p.2.blocks.filterMap (·.block)
  ((List.range v.params.blocksH).map (v.lpkg * v.params.blocksH + ·)).filter fun b => !used.contains b
def Vat.freeSlots (v : Vat) : List Nat :=
  let used := v.sessions.map fun p => p.2.resSlot
  ((List.range v.params.resH).map (v.lpkg * v.params.resH + ·)).filter fun r => !used.contains r
def Vat.freeCaves (v : Vat) : List Nat :=
  let used := v.sessions.flatMap fun p => p.2.blocks.filterMap (·.cave)
  ((List.range v.params.caveH).map (v.lpkg * v.params.caveH + ·)).filter fun c => !used.contains c

/-! ### A session's next step (R239, R244) -/

/-- Step table entries of the gear variant in force: (step ID, entry). -/
def State.variantSteps (s : State) (v : Vat) : List (Nat × StepEnt) :=
  match v.mould with
  | none => []
  | some m => match mVariantOf m s.tick.gear with
    | none => []
    | some k =>
      let es := mSteps m
      ((List.range es.length).zip es).filter fun p => decide (p.2.variant = k)

/-- Inputs of the request still to place: the pending token and the input tokens not committed (R239). -/
def Session.left (r : Session) : Nat := b2n r.pend.isSome + (r.inCount - r.inDone)

/-- The kind and count of a session's next step (R239): 1 DECODE, 2 PREFILL, 3 DRAFT, 4 VERIFY. -/
def State.need (s : State) (v : Vat) (r : Session) : Nat × Nat :=
  let has := fun k => (s.variantSteps v).any fun p => decide (p.2.kind = k)
  let want : Nat × Nat :=
    if 1 < r.left then (2, r.left)
    else if r.spec ≠ 0 ∧ r.tree ≠ [] then (4, r.tree.length)
    else if r.spec = 1 then (3, 1)
    else (1, 1)
  if has want.1 then want
  else if has 1 then (1, 1)
  else (2, 1)

/-- The largest `TOKENS` of a kind in the variant in force. -/
def State.mostTokens (s : State) (v : Vat) (k : Nat) : Nat :=
  maxNat (((s.variantSteps v).filter fun p => decide (p.2.kind = k)).map fun p => p.2.tokens)

/-- The ordinals a session must hold to be offered (R244). -/
def State.ordinals (s : State) (v : Vat) (r : Session) : Nat :=
  let k := s.need v r
  let n := if k.1 = 2 then min k.2 (s.mostTokens v 2) else if k.1 = 3 then s.mostTokens v 3 else k.2
  (min (r.len + n) v.params.maxPos - 1) / max 1 v.params.blockPos + 1

/-- A session is resident (R245). -/
def Session.resident (r : Session) : Bool := decide (r.resSlot ≠ 0xFFFF) && r.blocks.all fun b => b.hbm.isSome

/-- A Ready session may be offered (R252). -/
def State.eligible (s : State) (v : Vat) (i : Nat) : Bool :=
  let r := v.sess i
  decide (r.state = .ready) && r.resident && decide (s.ordinals v r ≤ r.blocks.length) &&
    (v.wk i).paging.isNone && decide ((v.wk i).copies = [])

/-! ### Offers (R252, R289) -/

/-- Send an OFFER to the head. -/
def State.offer (s : State) (vat i : Nat) (withdraw : Bool) : State :=
  match s.vat? vat with
  | none => s
  | some v =>
    let r := v.sess i
    let k := s.need v r
    s.control v 0x0C (s.lpkgNode v v.headLpkg) s.now (b2n withdraw)
      (leBytes 4 (v.sid i) ++ leBytes 2 (min k.2 0xFFFF) ++ leBytes 1 k.1 ++ leBytes 1 (s.partOf r.ctx) ++ leBytes 8 r.eligible)

/-- Withdraw a standing offer. -/
def State.withdraw (s : State) (vat i : Nat) : State :=
  match s.vat? vat with
  | none => s
  | some v => if (v.wk i).offered.isSome then (s.offer vat i true).onWk vat i fun w => { w with offered := none } else s

/-- Send a replacing offer where the step kind or count of a standing offer has changed (R252). -/
def State.reoffer (s : State) (vat i : Nat) : State :=
  match s.vat? vat with
  | none => s
  | some v =>
    match (v.wk i).offered with
    | none => s
    | some o =>
      if !s.eligible v i then s.withdraw vat i
      else if s.need v (v.sess i) ≠ o then
        (s.offer vat i false).onWk vat i fun w => { w with offered := some (s.need v (v.sess i)) }
      else s

/-! ### Ending a request, releasing a session (R236, R241, R251) -/

/-- A buffer's key slots still take writes (R367). -/
def State.piecesOpen (s : State) (ps : Pieces) : Bool :=
  ps.all fun p => isSlice p.1 || (s.slot p.2.2).usable

/-- Write at an offset of a request's output buffer, in the class of its queue (R319). -/
def State.outWrite (s : State) (w : SessWork) (off : Nat) (bs : List Byte) : State :=
  let ps := slicePieces w.outTile off bs.length
  if w.outGap || !s.piecesOpen ps then s
  else match w.req with
    | none => s.writePieces ps bs
    | some r =>
      let cls := (s.queue? r.ctx r.q).elim 0 fun q => q.cls
      (s.writePieces ps bs).onQos fun q => ((ps.flatMap fun p => pieceBursts true p.1 p.2.1).foldl (fun q b =>
        q.request b.1 cls (s.partOf r.ctx) b.2 (.output r)) q).release s.partOf s.now

/-- The header of an output buffer (R241). -/
def outHeader (status count tick : Nat) : List Byte :=
  leBytes 2 0x1000 ++ leBytes 2 status ++ leBytes 4 count ++ leBytes 8 tick

/-- End the request of a session: header with its status, then the fence (R241); the session takes a state. -/
def State.endReq (s : State) (vat i status : Nat) (into : SessState) : State :=
  match s.vat? vat with
  | none => s
  | some v =>
    let w := v.wk i
    let r := v.sess i
    let t := match w.req with
      | none => s
      | some ref =>
        let t := s.outWrite w 0 (outHeader status r.produced s.now)
        match r.fence with
        | some f => t.signalFor f ref status
        | none => t
    (t.onSess vat i fun r => { r with state := into }).onWk vat i fun w =>
      { w with req := none, inTile := [], outTile := [], objs := [], cancel := false, starved := false }

/-- Give back a session's bias set (R259). -/
def State.dropBias (s : State) (vat i : Nat) : State :=
  match s.vat? vat with
  | none => s
  | some v =>
    let b := (v.sess i).biasSet
    if b = 0xFFFF then s else
    (s.onObjs fun o => { o with bias := mapDel o.bias b }).onSess vat i fun r => { r with biasSet := 0xFFFF }

/-- Free a session: withdraw its offer and release blocks, cave slots, residency slot and bias set (R236). -/
def State.freeSess (s : State) (vat i : Nat) : State :=
  ((s.withdraw vat i).dropBias vat i).onVat vat fun v =>
    { v with sessions := mapDel v.sessions i, work := mapDel v.work i }

/-- A session becomes Orphaned: its request completes with the cause (R251). What it holds stays held until it is closed, reset or
opened again (R236, R244). -/
def State.orphan (s : State) (vat i cause : Nat) : State :=
  (((s.withdraw vat i).endReq vat i cause .orphaned).onSess vat i fun r => { r with orphan := cause }).onWk vat i fun w =>
    { w with paging := none, copies := [] }

/-- An entry of the block map whose HBM block is freed. -/
def BlockEnt.freed (b : BlockEnt) : BlockEnt := { b with block := none, hbm := none, dirty := false }

/-- A failed page transfer orphans the session and frees its blocks (R247). -/
def State.orphanFreed (s : State) (vat i cause : Nat) : State :=
  (s.orphan vat i cause).onSess vat i fun r => { r with blocks := r.blocks.map BlockEnt.freed }

/-- Close a session (R236): at once, or at the boundary while it is Placed. -/
def State.closeSess (s : State) (vat i : Nat) : State :=
  match s.vat? vat with
  | none => s
  | some v =>
    if (v.sess i).state = .placed then s.onSess vat i fun r => { r with close := true }
    else (s.endReq vat i 0x0012 (v.sess i).state).freeSess vat i

/-- The sessions of a context: (vat, record index). -/
def State.sessionsOf (s : State) (c : Nat) : List (Nat × Nat) :=
  s.vats.flatMap fun p => (p.2.sessions.filter fun e => decide (e.2.ctx = c ∧ e.2.state ≠ .free)).map fun e => (p.1, e.1)

/-- The bytes of a session record (R235). -/
def Session.bytes (r : Session) (vat : Nat) : List Byte :=
  let st : Nat := match r.state with
    | .free => 0 | .idle => 1 | .ready => 2 | .placed => 3 | .faulted => 4 | .orphaned => 5
  leBytes 2 0x1000 ++ leBytes 1 (st + 16 * b2n r.pend.isSome + 32 * r.spec + 128 * b2n r.close) ++ leBytes 1 r.rule ++
    leBytes 2 r.ctx ++ leBytes 2 vat ++ leBytes 4 r.len ++ leBytes 4 (r.pend.getD 0) ++ leBytes 8 r.seed ++
    leBytes 4 r.temp.toNat ++ leBytes 4 r.topP.toNat ++ leBytes 4 r.minP.toNat ++ leBytes 2 r.topK ++ leBytes 2 r.biasSet ++
    leBytes 2 r.resSlot ++ leBytes 2 r.blocks.length ++ leBytes 2 r.holder ++ leBytes 2 r.orphan ++ leBytes 4 r.epoch ++
    leBytes 2 (r.fence.getD 0) ++ zeros 2 ++ leBytes 8 r.eligible ++ leBytes 8 r.inVa ++ leBytes 8 r.outVa ++
    leBytes 4 r.inCount ++ leBytes 4 r.inDone ++ leBytes 4 r.maxNew ++ leBytes 4 r.produced ++
    r.stop.flatMap (leBytes 4) ++ leBytes 8 r.lastStep ++ leBytes 1 r.tree.length ++ zeros 7 ++ zeros 128

/-! ### Page commands (R244 to R246, R289) -/

/-- A PAGE_CMD message entry. -/
def pageEntryBytes (ordinal flags block slot : Nat) : List Byte :=
  leBytes 2 ordinal ++ leBytes 1 flags ++ zeros 1 ++ leBytes 4 block ++ leBytes 4 slot ++ zeros 4

/-- Send the messages of a page command to every member, three entries each, `LAST` in the last, and await their answers. -/
def State.pageCommand (s : State) (vat i arg epoch holder : Nat) (es : List (List Byte)) : State :=
  match s.vat? vat with
  | none => s
  | some v =>
    let r := v.sess i
    let cs := chunks 3 es.length es
    let t := ((List.range cs.length).zip cs).foldl (fun t p =>
      t.controlAll v 0x0D s.now arg (leBytes 4 (v.sid i) ++ leBytes 2 r.resSlot ++ leBytes 1 p.2.length ++
        leBytes 1 (b2n (decide (p.1 + 1 = cs.length))) ++ leBytes 4 epoch ++ leBytes 2 holder ++ zeros 2 ++ p.2.flatten)) s
    t.onWk vat i fun w => { w with
      paging := some (arg, List.range v.packages)
      pageFrom := if arg = 0 ∧ r.state = .ready then some s.now else w.pageFrom }

/-- The entries of a page-in (R245): copy from the cave slot, zero, or already valid. -/
def pageInEntries (bs : List BlockEnt) : List (List Byte) :=
  ((List.range bs.length).zip bs).map fun p =>
    let flags := if p.2.hbm.isSome then 0 else if p.2.cave.isSome then 1 else 2
    pageEntryBytes p.1 flags (p.2.block.getD 0) (p.2.cave.getD 0)

/-- The blocks that a session's ordinals need cannot all be allocated (R244). -/
def State.lacksBlocks (s : State) (v : Vat) (i : Nat) : Bool :=
  let r := v.sess i
  let n := s.ordinals v r
  let held := (r.blocks.filter fun b => b.block.isSome).length
  decide (v.params.maxBlocks < n ∨ v.freeBlocks.length + held < max n r.blocks.length)

/-- Give a session a residency slot and the blocks of its ordinals; none where they cannot all be had (R244, R245). -/
def State.allocate (s : State) (v : Vat) (i : Nat) : Option Session :=
  let r := v.sess i
  let n := s.ordinals v r
  let bs := r.blocks ++ List.replicate (n - r.blocks.length) ⟨none, none, false, none⟩
  let lack := (bs.filter fun b => b.block.isNone).length
  let free := v.freeBlocks
  let slot := if r.resSlot ≠ 0xFFFF then some r.resSlot else v.freeSlots.head?
  if v.params.maxBlocks < n ∨ free.length < lack then none else
  slot.map fun k =>
    let give := bs.foldl (fun (acc : List BlockEnt × List Nat) b =>
      if b.block.isSome then (acc.1 ++ [b], acc.2) else (acc.1 ++ [{ b with block := acc.2.head? }], acc.2.drop 1)) ([], free)
    { r with resSlot := k, blocks := give.1 }

/-! ### Whey multicast (R193, R289) -/

/-- Send an MC_ message of a multicast to a node (R288, R289): `ARG`, tag and source. -/
def State.mcMsg (s : State) (node msg vat arg tag src : Nat) (body : List Byte) : State :=
  let v := (s.vat? vat).filter Vat.isMember
  s.sendControl node msg vat (leBytes 2 0x1000 ++ leBytes 1 msg ++ zeros 1 ++ leBytes 2 vat ++
    leBytes 2 ((v.map (·.lpkg)).getD 0xFFFF) ++ leBytes 8 s.now ++ leBytes 4 arg ++ leBytes 4 ((v.map (·.comp)).getD 0) ++
    fitBytes 0x48 (leBytes 2 tag ++ leBytes 2 src ++ body))

/-- A multicast is no longer held at its source; its tag rests from now (R289). -/
def State.mcDrop (s : State) (m : McSource) : State :=
  s.onLinks fun l => { l with mcOut := l.mcOut.filter fun x => decide (x ≠ m), mcTags := mapPut l.mcTags m.tag s.now }

/-- A whey multicast ends at its source with a status: every target is told to cancel (R193). -/
def State.mcEnd (s : State) (m : McSource) (st : Nat) : State :=
  let t := s.mcDrop m
  (m.targets.foldl (fun t n => t.mcMsg n 0x14 m.vat st m.tag s.links.node []) t).send
    "MC_END" s.links.node [m.tag, st] []

/-- A target of a multicast is lost (R193). -/
def State.mcLost (s : State) (node : Nat) : State :=
  (s.links.mcOut.filter fun m => m.targets.contains node).foldl (fun t m => t.mcEnd m 0x0701) s

end Sys2Proof.Machine
end

