-- ==== Sys2Proof/Machine/Resets.lean ====
section
/-! DEFINITION. Fencing a reset domain (R395, R396, R399), the error history and the retirement of cores (R409, R410). -/

namespace Sys2Proof.Machine
open Sys2Proof

/-- The cores of a core or cluster domain; a cluster has index die × 8 + cluster. -/
def domainCores (kind index : Nat) : List Nat :=
  if kind = 1 then [index] else if kind = 2 then (List.range 17).map (index * 32 + ·) else []

/-- Mark the step in progress of each vat a core serves Degraded (R399). -/
def State.degradeCore (s : State) (c : Nat) : State :=
  match s.coreVat c with
  | some v => s.degradeStep v
  | none => s

/-- A core is fenced unless it is off or retired. -/
def Core.fence (c : Core) : Core :=
  if c.state = .off ∨ c.state = .retired then c else { c with state := .fenced }

/-- Fence a domain: its reset is in progress from this Tick on (R396); a domain already fenced stays as it is. -/
def State.beginReset (s : State) (kind index cause : Nat) : State :=
  if s.fenced kind index then s else
  let t := s.onFlt fun f => { f with
    resets := f.resets ++ [⟨kind, index, cause, s.now, false, false⟩], lastCause := cause, lastTick := s.now }
  (domainCores kind index).foldl (fun t c => (t.degradeCore c).onCore c Core.fence) t

/-- The logical core a physical core serves as, for a log record. -/
def State.logicalOf (s : State) (c : Nat) : Nat := (s.core c).logical

/-- The start of the step in progress of a vat. -/
def State.stepTick (s : State) (vat : Nat) : Nat := (((s.vat? vat).bind (·.step)).map (·.table.start)).getD 0

/-- Retire a core (R409, R410): journalled, fenced, logged, and the time master of its vat told. -/
def State.retireCore (s : State) (c cause : Nat) : State :=
  if s.retiredCores.contains c then s else
  let t := (s.degradeCore c).journalAdd (.retireCore c cause)
  let t := t.onCore c fun u => { u with state := .retired }
  match s.coreVat c with
  | none => t
  | some vat =>
    let t := t.faultLog vat (logRecord 0 s.links.node (s.logicalOf c) c 0 (s.stepTick vat) cause 0 4)
    match s.vat? vat with
    | some v => t.control v 0x07 (t.lpkgNode v v.masterLpkg) s.now c []
    | none => t

/-- How many errors of a kind retire a core (R409). -/
def coreLimit (kind : Nat) : Nat := if kind = 3 then 1024 else 2

/-- Record an error of a core in its history; the limit of R409 retires it. Kinds: 1 uncorrectable core-bank error, 2 parity error, 3
corrected core-bank error, 4 stall. -/
def State.coreError (s : State) (c kind : Nat) : State :=
  let t := s.journalAdd (.error true c kind s.now)
  if coreLimit kind ≤ t.errorsIn true c kind then t.retireCore c kind else t

end Sys2Proof.Machine
end

