-- ==== Sys2Proof/Machine/VatOps.lean ====
section
/-! DEFINITION. Metering records (R290, R291), halting a vat at a boundary (R272, R277) and its unbinding (R273, R384). -/

namespace Sys2Proof.Machine
open Sys2Proof

/-! ### Metering -/

/-- The distinct (port, direction, slot) triples that a package's link tables claim in any step (R290). -/
def linkSlots (m : Mould) (l : Nat) : List (Nat × Nat × Nat) :=
  ((List.range 8).flatMap fun p => (List.range (mSteps m).length).flatMap fun k =>
    (mLinkTable m l p k).flatMap fun e => (List.range e.slots).map fun i => (p, e.dir, e.first + i)).eraseDups

/-- What a vat holds here, reserved or bound: the Mould, the logical package and its placement, of its own and of each move it stands by for. -/
def Vat.placed (v : Vat) : List (Mould × Nat × Placement) :=
  match v.mould with
  | none => []
  | some m =>
    if v.state = .defined then []
    else (if v.role = .standby then [] else [(m, v.lpkg, v.place)]) ++
      v.reserves.filterMap fun r => if 1 ≤ r.1 ∧ r.1 < 4096 then some (moveLinks m r.1, (mMove m r.1).1, r.2) else none

/-- The logical package of a reservation: of the move that it is for, else the package's own. -/
def Vat.lpkgOf (v : Vat) (k : Nat) : Nat := if k % 4096 = 0 then v.lpkg else (v.mould.map fun m => (mMove m (k % 4096)).1).getD 0

/-- Every placement of a vat here, those that a staged delta asks for included, with its logical package. -/
def Vat.holdings (v : Vat) : List (Nat × Placement) :=
  v.placed.map Prod.snd ++ (v.reserves.filter fun r => decide (4096 ≤ r.1)).map fun r => (v.lpkgOf r.1, r.2)

/-- The units of one package entry (R290): cores, slices, HBM channels, cave frames, link slots. -/
def entryUnits (x : Mould × Nat × Placement) : List Nat :=
  [17 * x.2.2.clusters.length, x.2.2.slices.length, 32 * (x.2.2.stackSet.filter (· < 16)).length, x.2.2.cave.length, (linkSlots x.1 x.2.1).length]

/-- The units of a vat on this package (R290): its package entry's, or those of the entries a standby has reserved. -/
def Vat.units (v : Vat) : List Nat :=
  (if v.role = .standby then v.placed else v.placed.take 1).foldl (fun us x => us.zipWith (· + ·) (entryUnits x)) [0, 0, 0, 0, 0]

def Role.code : Role → Nat
  | .member => 1
  | .standby => 2
  | .departing => 3

def meterSeq (b : List Byte) : Nat := field b 0xC 4

/-- The highest number METER_ACK has released (R292). -/
def State.meterAcked (s : State) : Nat :=
  maxNat (s.jdata.filterMap fun d => match d with | .meterAck n => some n | _ => none)

/-- The metering records that no METER_ACK has released, in `METER_SEQ` order (R292). -/
def State.meters (s : State) : List (List Byte) :=
  s.jdata.filterMap fun d => match d with
    | .meter b => if meterSeq b ≤ s.meterAcked then none else some b
    | _ => none

/-- The number of the next metering record, from 1. -/
def State.nextMeter (s : State) : Nat :=
  maxNat (s.boot.meterTop :: s.meterAcked :: s.meters.map meterSeq) + 1

/-- Ticks of steps and of rest since the last record, up to a Tick. -/
def Vat.stepTicks (v : Vat) (now : Nat) : Nat :=
  v.meter.step + match v.step with
    | some r => now - max r.table.start v.meter.first
    | none => 0
def State.restTicks (s : State) (v : Vat) (now : Nat) : Nat :=
  v.meter.rest + match (s.role v.desc.vatId).restFrom with
    | some x => if v.step.isSome then 0 else now - max x v.meter.first
    | none => 0

/-- What a vat's record is metered by: the composition that a resume ends until the resume comes, else the one in force (R290, R291). -/
def State.metered (s : State) (v : Vat) : OldComp := ((s.role v.desc.vatId).was).getD ⟨v.role, v.lpkg, v.units, v.chain⟩

/-- A metering record (R291). -/
def State.meterRecord (s : State) (v : Vat) (kind seq : Nat) : List Byte :=
  let o := s.metered v
  let span := s.now - v.meter.first
  let st := v.stepTicks s.now
  let rs := s.restTicks v s.now
  leBytes 2 0x1000 ++ leBytes 1 kind ++ leBytes 1 o.role.code ++ leBytes 2 v.desc.vatId ++ leBytes 2 o.lpkg ++
    leBytes 4 v.comp ++ leBytes 4 seq ++ leBytes 8 v.meter.first ++ leBytes 8 s.now ++ fitBytes 8 o.chain ++
    leBytes 8 st ++ leBytes 8 rs ++ leBytes 8 (span - st - rs) ++ o.units.flatMap (fun u => leBytes 8 (u * span)) ++ zeros 24

/-- A metering record has room below the last 64 KiB of the bank (R455, R458). -/
def State.meterFits (s : State) : Bool := decide (65536 + 192 ≤ s.journal.free)

/-- Write a metering record of a vat, or extend its interval where it does not fit (R458); the next period starts now. -/
def State.writeMeter (s : State) (vat kind : Nat) : State :=
  match s.vat? vat with
  | none => s
  | some v =>
    if !s.meterFits then
      if s.boot.full then s else (s.onBoot fun b => { b with full := true }).raise 0 0
    else
    let n := s.nextMeter
    let s := s.onBoot fun b => { b with full := false }
    let t := (s.journalAdd (.meter (s.meterRecord v kind n))).onBoot fun b => { b with meterTop := n }
    t.onVat vat fun v => { v with meter := ⟨s.now, 0, 0⟩ }

/-! ### Halting -/

/-- The Degraded transition of a Placed session (R236, R272): Ready again, then a cancellation or close that waited. -/
def State.degradeSess (s : State) (vat i : Nat) : State :=
  match s.vat? vat with
  | none => s
  | some v =>
    if (v.sess i).state ≠ .placed then s else
    let w := v.wk i
    let t := s.onSess vat i fun r => { r with state := .ready }
    let t := if w.cancel then t.endReq vat i 0x0012 .idle else t
    if (v.sess i).close then (t.endReq vat i 0x0012 .idle).freeSess vat i
    else match w.lateTree with
      | some tr => (t.onSess vat i fun r => { r with tree := tr }).onWk vat i fun w => { w with lateTree := none }
      | none => t

/-- The records of a table's sessions that live on this package. -/
def Vat.homed (v : Vat) (t : LaneTable) : List Nat :=
  (t.lanes.filter fun l => decide (l.session / 2 ^ 18 = v.lpkg)).map fun l => l.session % 2 ^ 18

/-- A frozen step does not start. -/
def State.dropFrozen (s : State) (vat : Nat) : State :=
  match (s.vat? vat).bind fun v => v.frozen.map fun t => (v, t) with
  | none => s
  | some (v, t) => ((v.homed t).foldl (fun u i => u.degradeSess vat i) s).onVat vat fun v => { v with frozen := none }

/-- Rest Ticks up to now enter the meter. -/
def State.closeRest (s : State) (vat : Nat) : State :=
  match s.vat? vat with
  | none => s
  | some _ =>
    (s.onVat vat fun v => { v with meter := { v.meter with rest := s.restTicks v s.now } }).onRole vat fun r =>
      { r with restFrom := none }

/-! ### Unbinding (R273, R384) -/

/-- Every request of the vat's sessions ends with 0x0012 and every record becomes Free. -/
def State.cancelSessions (s : State) (vat : Nat) : State :=
  match s.vat? vat with
  | none => s
  | some v => v.sessions.foldl (fun t p => (t.endReq vat p.1 0x0012 .free).freeSess vat p.1) s

/-- HBM frames that binding took for a vat: its regions, alternate store, block maps and residency table. -/
def State.vatFrames (s : State) (vat : Nat) : List Nat :=
  (s.mem.frames.filter fun p => decide (p.2 = .alt vat ∨ p.2 = .blocked vat)).map (·.1)

/-- The region objects of a vat are freed (R139). -/
def State.freeRegions (s : State) (vat : Nat) : State :=
  match s.vat? vat with
  | none => s
  | some v => v.regionObj.foldl (fun t i => t.freeObj i) s

/-- Slices are written with zeros, and the spares that copies of them fill. -/
def State.zeroSlices (s : State) (ks : List Nat) : State :=
  s.onMem fun m => (ks ++ (m.copies.filter fun c => ks.contains c.2.src).map (·.2.spare)).foldl (fun m k => m.zero (sliceBase k) (2 ^ 24)) m

/-- Every slice that holds bytes of a vat: bound, reserved, retired under it (R205). -/
def Vat.allSlices (v : Vat) : List Nat := v.place.slices ++ v.gone ++ v.reserves.flatMap fun r => r.2.slices

/-- The cores bound to a vat. -/
def State.vatCores (s : State) (vat : Nat) : List Nat :=
  (s.cores.filter fun p => decide (p.2.vat = some vat)).map (·.1)

/-- A core leaves its vat: it clears, then serves as a spare where no fence holds it (R86). -/
def State.freeCore (s : State) (c : Nat) : State :=
  s.onCore c fun u => { u.clear (if s.fenced 1 c || s.fenced 2 (c / 32) then .fenced else .spare) s.clearUntil with
    vat := none, logical := 0, program := [] }

/-- The vat's Wash begins (R384): its slots retire, its session keys go, its cores are cleared, its slices are zeroed. -/
def State.washVat (s : State) (vat : Nat) : State :=
  match s.vat? vat with
  | none => s
  | some v =>
    let slots := s.slotsWhere fun k => decide (k.vat = vat ∧ (k.kind = 4 ∨ k.kind = 5 ∨ k.kind = 6))
    let t := ((s.cancelSessions vat).freeRegions vat).zeroSlices v.allSlices
    let t := (t.vatCores vat).foldl (fun t c => t.onCore c fun u => u.clear (if s.fenced 1 c || s.fenced 2 (c / 32) then .fenced else t.serves c) t.clearUntil) t
    let t := t.onLinks fun l => { l with ports := mapAll l.ports fun _ p =>
      { p with vats := p.vats.filter fun e => decide (e.1 ≠ vat) } }
    let t := t.onKeys fun k => { k with secrets := mapDel k.secrets vat }
    let t := t.startWash (.vat vat) slots (t.vatFrames vat) (v.holdings.flatMap fun h => h.2.cave).eraseDups
    (t.onVat vat fun v => { v with state := .washing, sessions := [], work := [], offers := [], frozen := none }).onRole vat fun r =>
      { r with washId := some t.lastWash, haltAt := none, started := none, restFrom := none, remould := none }

/-- A vat leaves the package; VAT_UNBINDs that await other packages stay (R273). -/
def State.removeVat (s : State) (vat : Nat) : State :=
  let cs := (s.role vat).unbind
  (s.onVats fun m => mapDel m vat).onRoles fun m =>
    if cs = [] then mapDel m vat else mapPut m vat { VatRole.empty with unbind := cs }

/-- VAT_HALTs that have been waiting complete (R272). -/
def State.haltsDone (s : State) (vat : Nat) : State :=
  ((s.role vat).haltCmds.foldl (fun t c => t.finish c 0) s).onRole vat fun r => { r with haltCmds := [], allHalted := false }

/-- The vat halts on this package at a boundary (R272, R277): the frozen step does not start, VAT_HALTs complete where the
other members have halted, and an unbinding that waited for it begins. -/
def State.haltVat (s : State) (vat : Nat) : State :=
  match s.vat? vat with
  | none => s
  | some v =>
    let r := s.role vat
    let t := (s.closeRest vat).dropFrozen vat
    let t := t.onVat vat fun u => { u with state := if r.haltTo then .remoulding else .halted }
    let t := if r.allHalted ∨ v.packages ≤ 1 then t.haltsDone vat else t
    let t := t.onRole vat fun r => { r with
      haltAt := none, haltTo := false, started := none, haltFrom := s.now,
      remould := r.remould.map fun m => { m with halt := r.haltAt, since := s.now, phase := 2, ready := [] } }
    if r.unbound ∧ v.state ≠ .washing then t.washVat vat else t

end Sys2Proof.Machine
end

