-- ==== Sys2Proof/Machine/Slices.lean ====
section
/-! DEFINITION. Errors of memory reads, the retirement of slices and their copies (R204, R206, R212, R409, R410). -/

namespace Sys2Proof.Machine
open Sys2Proof

/-- The 96 payload bytes of a MEMBER_DOWN message (R192). -/
def downBytes (port node reporter first vat : Nat) : List Byte :=
  leBytes 2 0x1000 ++ leBytes 1 0x01 ++ leBytes 1 (port % 8) ++ leBytes 2 node ++ leBytes 2 reporter ++ leBytes 8 first ++
    leBytes 2 vat ++ zeros 78

/-- Send MEMBER_DOWN to the time master of a vat. -/
def State.sendDown (s : State) (vat port node first : Nat) : State :=
  match s.vat? vat with
  | none => s
  | some v => s.sendControl (s.lpkgNode v v.masterLpkg) 0x01 vat (downBytes port node s.links.node first vat)

/-! ### Copies to a spare slice (R206). A slice is named die × 66 + slice. -/

/-- The lowest free spare slice of a die, of physical slices 64 and 65, that no copy fills (R16, R206). -/
def State.spareSlice (s : State) (die : Nat) : Option Nat :=
  [die * 66 + 64, die * 66 + 65].find? fun k =>
    !s.retiredSlices.contains k && !s.halfCut (k / 132) && !(s.mem.copies.any fun c => decide (c.2.spare = k)) &&
    !(s.vats.any fun v => v.2.place.slices.contains k || v.2.reserves.any fun r => r.2.slices.contains k)

/-- The vats with a region in a slice, bound or reserved by a standby. -/
def State.sliceVats (s : State) (k : Nat) : List Nat :=
  (s.vats.filter fun v => v.2.place.slices.contains k || v.2.reserves.any fun r => r.2.slices.contains k).map (·.1)

/-- Begin the copy of a retired slice, or let it wait for the copy its die runs. Without a spare the package reports itself down,
which starts a package move (R410). -/
def State.startCopy (s : State) (k : Nat) : State :=
  let die := k / 66
  if (mapFind s.mem.copies die).isSome then s.onMem fun m => { m with retired := m.retired ++ [k] }
  else match s.spareSlice die with
    | some sp => s.onMem fun m => { m with copies := mapPut m.copies die ⟨k, sp, [], false⟩ }
    | none => (s.sliceVats k).foldl (fun t v => t.sendDown v 0 t.links.node t.now) s

/-- The copy of a die is over: the next slice that waits begins. -/
def State.endCopy (s : State) (die : Nat) : State :=
  let t := s.onMem fun m => { m with copies := mapDel m.copies die, retired := m.retired.filter fun k => decide (k / 66 ≠ die) }
  (s.mem.retired.filter fun k => decide (k / 66 = die)).foldl (fun t k => t.startCopy k) t

/-- Retire a slice (R409, R410): journalled, logged for each vat that uses it, and replaced. -/
def State.retireSlice (s : State) (k cause : Nat) : State :=
  if s.retiredSlices.contains k then s else
  let t := s.journalAdd (.retireSlice k cause)
  let vs := t.sliceVats k
  let t := vs.foldl (fun t v => t.faultLog v (logRecord 0 t.links.node 0 (0x10000 + k / 66 * 0x100 + k % 66) 0 (t.stepTick v) cause 0 4)) t
  if vs = [] then t else t.startCopy k

/-- Record an error of a slice in its history; the limit of R409 retires it. Kinds: 1 uncorrectable read, 3 corrected read. -/
def State.sliceError (s : State) (k kind : Nat) : State :=
  let t := s.journalAdd (.error false k kind s.now)
  if (if kind = 3 then 1024 else 2) ≤ t.errorsIn false k kind then t.retireSlice k kind else t

/-! ### Errors of reads (R163, R204, R212) -/

/-- Count a corrected read of an HBM stack with its place, or of a slice (R231). -/
def State.memCorrected (s : State) (a : Nat) : State :=
  if a < 2 ^ 40 then s.hbmCorrected a
  else if isSlice a then
    let d := (a - 2 ^ 49) / 2 ^ 31
    (s.onMem fun m => { m with sliceCe := mapSet 0 m.sliceCe d (sat32 (mapGet 0 m.sliceCe d) 1) }).sliceError
      (d * 66 + (a - 2 ^ 49) % 2 ^ 31 / 2 ^ 24) 3
  else s

/-- Count an uncorrectable read. -/
def State.memUncorrectable (s : State) (a : Nat) : State :=
  if a < 2 ^ 40 then s.hbmUncorrectable a
  else if isSlice a then
    let d := (a - 2 ^ 49) / 2 ^ 31
    (s.onMem fun m => { m with sliceUe := mapSet 0 m.sliceUe d (sat32 (mapGet 0 m.sliceUe d) 1) }).sliceError
      (d * 66 + (a - 2 ^ 49) % 2 ^ 31 / 2 ^ 24) 1
  else s.poison a

/-- The status of an uncorrectable read and the local source that met it (R144, R204, R212). -/
def memStatus (a : Nat) : Nat := if a < 2 ^ 40 then 0x0560 else if isSlice a then 0x0561 else 0x0562
def memSource (a : Nat) : Nat :=
  if a < 2 ^ 40 then 0x10 + a / 2 ^ 36 else if isSlice a then 0x28 + (a - 2 ^ 49) / 2 ^ 31 else 0x20

/-- Some piece meets a 64-byte granule. -/
def granuleIn (ps : Pieces) (a : Nat) : Bool := ps.any fun p => decide (p.1 < a + 64 ∧ a < p.1 + p.2.1)

/-- An uncorrectable curd read of HBM or a slice fails the step (R204, R212). -/
def State.curdError (s : State) (vat a : Nat) : State :=
  (s.memUncorrectable a).failStep vat ⟨memStatus a, s.now, s.source (memSource a), 0⟩

/-- Count what the ECC of reads of pieces found (R204, R212, R479). -/
def State.readsMet (s : State) (bad : ReadErrs) (ps : Pieces) : State :=
  (bad.ue.filter (granuleIn ps)).foldl (fun t a => t.memUncorrectable a)
    ((bad.ce.filter (granuleIn ps)).foldl (fun t a => t.memCorrected a) s)

/-! ### The end of a copy -/

/-- Bytes [lo, hi) of a slice belong to a bound region of a vat. -/
def Vat.sliceUsed (v : Vat) (k o : Nat) : Bool :=
  match v.mould with
  | none => false
  | some m => v.holdings.any fun h => (mRegions m h.1).any fun r =>
      decide (r.kind = 1) && (List.range r.count).any fun i =>
        decide (h.2.slices[r.first + i]? = some k ∧ r.base ≤ o ∧
          o < r.base + ceilDiv (ceilDiv r.bytes (2 ^ r.gran)) (max 1 r.count) * 2 ^ r.gran)

/-- The copier has been through: every granule of a bound region whose bit is clear is on the spare. -/
def State.copyGranules (s : State) (c : SliceCopy) : State :=
  let vs := s.vats
  let want := fun (o : Nat) => !c.bitmap.contains (o / 8) && vs.any fun v => v.2.sliceUsed c.src o
  s.onMem fun m =>
    let keep := m.cells.filter fun x =>
      !(decide (sliceBase c.spare ≤ x.1 ∧ x.1 < sliceBase c.spare + 2 ^ 24) && want (x.1 - sliceBase c.spare))
    { m with cells := m.cells.foldl (fun cs x =>
        if sliceBase c.src ≤ x.1 ∧ x.1 < sliceBase c.src + 2 ^ 24 ∧ want (x.1 - sliceBase c.src) = true then
          Memory.set cs (sliceBase c.spare + (x.1 - sliceBase c.src)) x.2 else cs) keep }

/-- A copy read met an uncorrectable error: the vats halt at their next boundary and what the slice held is lost, its bytes free values. -/
def State.failCopy (s : State) (die : Nat) (c : SliceCopy) : State :=
  let vs := (s.sliceVats c.src).filter fun v => (s.vat? v).any fun u => decide (u.role ≠ .standby)
  let t := vs.foldl (fun t v => t.onRole v fun r => { r with haltAt := some (r.haltAt.getD t.now) }) s
  let t := t.note (0x28 + die) "SLICE_COPY_FAILED" 0x0563
  let t := (t.dpaWrite [] (sliceBase c.src) (t.freeBytes (2 ^ 24))).draw (2 ^ 24)
  vs.foldl (fun t v => if ((t.vat? v).bind (·.step)).isNone ∧ ((t.vat? v).any fun u => decide (u.state = .running)) then t.haltVat v else t)
    (t.endCopy die)

/-- A placement with a slice replaced. -/
def Placement.swap (p : Placement) (src spare : Nat) : Placement :=
  { p with slices := p.slices.map fun k => if k = src then spare else k }

/-- What standbys reserve in the slice moves at once: no step uses it. -/
def State.swapReserves (s : State) (c : SliceCopy) : State :=
  s.onVats fun m => mapAll m fun _ v => { v with
    reserves := v.reserves.map fun r => (r.1, r.2.swap c.src c.spare),
    gone := if v.reserves.any fun r => r.2.slices.contains c.src then v.gone ++ [c.src] else v.gone }

/-- SLICE_COPY_END (R206). -/
def State.copyEnds (s : State) (die : Nat) (ok : CopyReads) : State :=
  match mapFind s.mem.copies die with
  | none => s
  | some c =>
    if c.done then s else
    let s := ok.ce.foldl (fun t o => t.memCorrected (sliceBase c.src + o)) s
    match ok.ue with
    | some o => (s.memUncorrectable (sliceBase c.src + o)).failCopy die c
    | none =>
      let t := (s.copyGranules c).swapReserves c
      if t.sliceVats c.src = [] then t.endCopy die
      else t.onMem fun m => { m with copies := mapPut m.copies die { c with done := true } }

/-- The slice map switches at a step boundary of the vat that uses the slice. -/
def State.switchSlices (s : State) (vat : Nat) : State :=
  (s.mem.copies.filter fun c => c.2.done && (s.sliceVats c.2.src).contains vat).foldl (fun t c =>
    (t.onVat vat fun v => { v with place := v.place.swap c.2.src c.2.spare, gone := v.gone ++ [c.2.src] }).endCopy c.1) s

end Sys2Proof.Machine
end

