-- ==== Sys2Proof/Machine/Gears.lean ====
section
/-! DEFINITION. Gears (R146, R149, R150, R427): supply setpoints (R423, R424, R486), the gear group, requests, arming and switching. -/

namespace Sys2Proof.Machine
open Sys2Proof

/-- The gears (R146). -/
def gearList : List Nat := [72, 64, 60, 56, 48, 40, 32]

/-- `VTRIM`: the trim steps of gear index i in bits [4i+3:4i] (R436). -/
def vtrim (m : SMap Nat) : Nat := ((List.range 7).map fun i => mapGet 0 m (nth 0 gearList i) % 16 * 16 ^ i).sum

/-- The trims of a `VTRIM`. -/
def trimsOf (v : Nat) : SMap Nat := (List.range 7).foldl (fun m i => mapSet 0 m (nth 0 gearList i) (v / 16 ^ i % 16)) []

/-- The nominal core setpoint of a gear in mV (R423). -/
def nominalMv (g : Nat) : Nat :=
  if g = 72 then 850 else if g = 64 then 780 else if g = 60 then 750 else if g = 56 then 720 else if g = 48 then 670
  else if g = 40 then 620 else 580

/-- The setpoint of a gear with its trim of 6.25 mV steps, rounded to whole mV, halfway up (R424, R486). -/
def State.setpoint (s : State) (g : Nat) : Nat := (4 * nominalMv g + 25 * mapGet 0 s.power.trims g + 2) / 4

/-- Write the core setpoint to the four regulators: the higher of the gear in force and the gear armed (R149, R423, R486). -/
def State.supply (s : State) : State :=
  let mv := max (s.setpoint s.tick.gear) (if s.tick.armed = 0 then 0 else s.setpoint s.tick.armed)
  s.onPower fun p => { p with setpoints := [(0, mv), (1, mv), (2, mv), (3, mv)] }

/-- The step table entries of the variant for a gear. -/
def gearSteps (m : Mould) (gear : Nat) : List (Nat × StepEnt) :=
  match mVariantOf m gear with
  | none => []
  | some k => ((List.range (mSteps m).length).zip (mSteps m)).filter fun p => decide (p.2.variant = k)

/-- The largest freeze lead of a variant (R22, R117; which one where entries differ is the model's choice, DESIGN CHOICE, log entry 15). -/
def freezeLead (es : List (Nat × StepEnt)) : Nat := maxNat (es.map fun p => p.2.freeze)

/-- The next boundary of a vat (R272, R283): of the step in progress, else the next one. -/
def State.nextBoundary (s : State) (v : Vat) : Nat :=
  match v.step with
  | some r => r.table.start + r.length
  | none => max v.boundary s.now

/-! ### The gear group as the package sees it (R149) -/

/-- The vat is bound on this package, which is a member. -/
def Vat.bound (v : Vat) : Bool :=
  v.isMember && decide (v.state = .bound ∨ v.state = .running ∨ v.state = .halted ∨ v.state = .remoulding)

/-- The vats that tie the package to its gear group. -/
def State.gearVats (s : State) : List Vat := (s.vats.map (·.2)).filter Vat.bound

/-- The vat of the lowest ID, whose time master acts for the group (DESIGN CHOICE, log entry 26). -/
def State.gearVat (s : State) : Option Vat := s.gearVats.head?

/-- The packages of the group: the members of the vats this package holds (DESIGN CHOICE, log entry 26). -/
def State.gearNodes (s : State) : List Nat := firsts (s.gearVats.flatMap fun v => (List.range v.packages).map (s.lpkgNode v))

/-- The package holds the acting time master of its group. -/
def State.isGearMaster (s : State) : Bool := s.gearVat.any Vat.isMaster

/-- Every vat of the group has a variant for a gear. -/
def State.groupHas (s : State) (g : Nat) : Bool := s.gearVats.all fun v => v.mould.any fun m => (mVariantOf m g).isSome

/-- The least common multiple of the refresh periods of the group's Moulds. -/
def State.groupPeriod (s : State) : Nat :=
  s.gearVats.foldl (fun n v => Nat.lcm n (max 1 ((v.mould.map mRefreshPeriod).getD 1))) 1

/-- This package heads every vat that runs on it, so that a change Tick chosen here is a boundary of each. -/
def State.headsAll (s : State) : Bool := s.gearVats.all fun v => v.isHead || decide (v.state ≠ .running)

/-- The gear a step that starts at a Tick runs at (R149). A head that no message tells T takes for it the first multiple of the group's period
for which it freezes a step once it has armed (DESIGN CHOICE, log entry 26). -/
def State.gearAt (s : State) (x : Nat) : Nat :=
  if s.tick.armed ≠ 0 ∧ (s.tick.change = some x ∨
      (s.tick.change = none ∧ ¬(s.isGearMaster = true ∧ s.headsAll = true) ∧ x % s.groupPeriod = 0)) then s.tick.armed else s.tick.gear

/-- The gear of a step that a head announces: the armed one where it is of that gear's variant, which tells a member T (R149). -/
def State.stepGear (s : State) (m : Mould) (stepId : Nat) : Nat :=
  let k := some (mStep m stepId).variant
  if s.tick.armed ≠ 0 ∧ mVariantOf m s.tick.armed = k ∧ mVariantOf m s.tick.gear ≠ k then s.tick.armed else s.tick.gear

/-- A table frozen for the armed gear fixes T as its step's start (R149). -/
def State.commitGear (s : State) (m : Mould) (stepId start : Nat) : State :=
  if s.tick.armed ≠ 0 ∧ s.stepGear m stepId = s.tick.armed then s.onTick fun k => { k with change := some start } else s

/-- The change whose Tick is chosen is committed: the freeze Tick of the steps that start then has come (R149). -/
def State.gearCommitted (s : State) : Bool :=
  s.tick.change.any fun x => decide (x ≤ s.now + maxNat (s.gearVats.map fun v =>
    (v.mould.map fun m => freezeLead (gearSteps m s.tick.armed)).getD 0))

/-! ### Arming and switching -/

/-- Start locking the idle PLLs to a gear (R149); a committed change is not withdrawn. -/
def State.armGear (s : State) (vat gear seq : Nat) : State :=
  if s.gearCommitted then s
  else (s.onTick fun k => { k with armed := 0, change := none, locking := some (gear, seq, s.now), armVat := vat, lockLost := false }).supply

/-- Switch the clocks to a gear: the supply follows, the rest fraction is halved at the next update, a frame with the change does not
recalibrate (R149, R422, R423, R427). -/
def State.switchGear (s : State) (g : Nat) : State :=
  ((s.onTick fun k => { k with gear := g, armed := 0, locking := none, change := none, lockLost := false }).onPower fun p =>
    { p with halve := true, frameLow := none }).supply

/-! ### Requests (R427) -/

/-- `ARG` of GEAR_REQ. -/
def GearMsg.arg (m : GearMsg) : Nat :=
  if m.drop then 1024 else m.gear + 256 * b2n m.fixed + 512 * b2n m.hot

/-- The gear the standing requests give: Hot, fixed, else the lowest (R427). -/
def wantedGear (reqs : List Nat) : Option Nat :=
  let hot := reqs.any fun a => bit a 9
  let fixed := (reqs.filter fun a => bit a 8).map (· % 256)
  if reqs.isEmpty then none
  else if hot then some 32
  else if !fixed.isEmpty then minNat? fixed
  else minNat? (reqs.map (· % 256))

/-- Fixed requests name different gears. -/
def fixedDiffer (reqs : List Nat) : Bool :=
  let fixed := (reqs.filter fun a => bit a 8).map (· % 256)
  decide (2 ≤ (firsts fixed).length) && !reqs.any fun a => bit a 9

/-- The acting time master starts a gear change where the standing requests ask for one (R427): a request its Moulds cannot run is refused
with 0x0604; one that returns to the gear in force ends an arm not committed. -/
def State.decideGear (s : State) : State :=
  if s.gearCommitted then s else
  match wantedGear (s.gears.reqs.map (·.2)), s.gearVat with
  | some g, some v =>
    if g = (if s.gears.arming then s.gears.gear else s.tick.gear) then s
    else if g = s.tick.gear then
      (s.onGears fun m => { m with arming := false, change := none, acks := [] }).onTick fun k => { k with change := none }
    else if !s.groupHas g then s.note 0 "GEAR_NO_VARIANT" 0x0604
    else
      let q := s.gears.seq + 1
      let t := s.onGears fun m => { m with arming := true, change := none, gear := g, seq := q, acks := [] }
      s.gearNodes.foldl (fun t n => t.control v 0x0A n s.now g (leBytes 4 q)) t
  | _, _ => s

/-- The package's request goes to the acting time master; a package with no vat bound carries it out itself (R427). -/
def State.requestGear (s : State) (m : GearMsg) : State :=
  let t := s.onPower fun p => { p with standing := if m.drop then none else some m }
  match s.gearVat with
  | some v => t.control v 0x09 (s.lpkgNode v v.masterLpkg) s.now m.arg []
  | none => if m.drop ∨ m.gear = s.tick.gear then t else t.armGear 4096 m.gear 0

/-- The trim of the gear in force rises by one step of 6.25 mV, up to 8; at 8 the next lower gear is wanted (R424). -/
def State.droopPersistent (s : State) : State :=
  let t := s.note 0x00 "DROOP_PERSISTENT" s.tick.gear
  let k := mapGet 0 s.power.trims s.tick.gear
  if k < 8 then
    let t := t.onPower fun p => { p with trims := mapSet 0 p.trims s.tick.gear (k + 1) }
    (t.journalAdd (.trim (vtrim t.power.trims))).supply
  else t.onPower fun p => { p with wantLower := true }

/-! ### The change Tick (R149) -/

/-- The earliest Tick at which a vat's next step can be frozen for another gear. -/
def State.changeFloor (s : State) (v : Vat) (g : Nat) : Nat :=
  match v.mould with
  | none => s.now
  | some m =>
    if v.state ≠ .running ∧ (s.role v.desc.vatId).started.isNone then s.now else
    let b := match v.frozen with
      | some f => f.start + (mStep m f.stepId).length
      | none => s.nextBoundary v
    max b (s.now + freezeLead (gearSteps m g))

/-- The change Tick T: a boundary every vat can reach and a multiple of every refresh period. -/
def State.changeTick (s : State) (g : Nat) : Nat :=
  s.groupPeriod * ceilDiv (maxNat (s.now :: s.gearVats.map fun v => s.changeFloor v g)) s.groupPeriod

end Sys2Proof.Machine
end

