-- ==== Sys2Proof/Machine/Wires.lean ====
section
/-! DEFINITION. Where a placed package's router tables (R122, R123, R132, R154) and link tables (R124, R173, R178) lie on the package. -/

namespace Sys2Proof.Machine
open Sys2Proof

/-! ### Routers -/

/-- The rank of a logical die among those a package uses. -/
def dieRank (p : PkgEntry) (d : Nat) : Nat := ((maskBits p.dieMask 4).filter (· < d)).length

/-- The physical cluster, die × 8 + cluster, of a logical cluster of a logical die. -/
def physCluster (pl : Placement) (p : PkgEntry) (d k : Nat) : Nat := nth 64 pl.clusters (dieRank p d * p.clusters + k)

/-- The physical router of a router a Mould names (R123, R154). -/
def physRouter (pl : Placement) (p : PkgEntry) (r : Nat) : Nat :=
  let d := r / 256 % 4
  let i := r % 256
  if r < 1024 then physCluster pl p d (r / 32 % 8) * 32 + r % 32
  else if i < 0x42 then
    let k := nth 264 pl.slices (dieRank p d * p.slices + i)
    1024 + k / 66 * 256 + k % 66
  else if 0x48 ≤ i ∧ i < 0x90 then
    let k := physCluster pl p d ((i - 0x48) / 9)
    1024 + k / 8 * 256 + 0x48 + 9 * (k % 8) + (i - 0x48) % 9
  else if 0x90 ≤ i ∧ i < 0xA4 then
    let q := nth 16 pl.stackSet (4 * d + (i - 0x90) / 5)
    1024 + q / 4 * 256 + 0x90 + 5 * (q % 4) + (i - 0x90) % 5
  else if 0xC0 ≤ i then 1024 + nth d pl.dies d * 256 + i
  else r

/-- The spare position of the cluster of a core-position router. -/
def routerSpare (pl : Placement) (p : PkgEntry) (r : Nat) : Nat :=
  if r < 1024 then nth 16 pl.spares (dieRank p (r / 256 % 4) * p.clusters + r / 32 % 8) else 0

/-- The router ports (physical router × 8 + port) that a placed package's curd entries name (R158). -/
def curdPorts (m : Mould) (l : Nat) (pl : Placement) : List Nat :=
  let p := mPkg m l
  firsts ((mRouters m l).flatMap fun r => (List.range (mSteps m).length).flatMap fun k =>
    (mRouterTable m l r (routerSpare pl p r) false k).flatMap fun e =>
      (e.inPort :: portBits e.outs).map fun q => physRouter pl p r * 8 + q)

/-- Curd ports the other vats of the package hold, from their BIND_COMPLETE on (R158). -/
def State.heldPorts (s : State) (vat : Nat) : List Nat :=
  s.vats.flatMap fun v => if v.1 = vat ∨ v.2.state = .reserved then [] else v.2.placed.flatMap fun x => curdPorts x.1 x.2.1 x.2.2

/-! ### Links -/

/-- The link ports a package entry uses. -/
def mPorts (m : Mould) (l : Nat) : List Nat := maskBits (mPkg m l).ports 8

/-- The most slots a package claims on a port and direction in one Tick of any step of a gear's variant (R114, R173). -/
def linkPeak (m : Mould) (l port dir gear : Nat) : Nat :=
  maxNat (((List.range (mSteps m).length).filter fun k => decide (some (mStep m k).variant = mVariantOf m gear)).flatMap fun k =>
    let es := (mLinkTable m l port k).filter fun e => decide (e.dir = dir)
    let ticks := firsts (es.flatMap fun e => (List.range e.count).map fun i => e.start + i * e.period)
    ticks.map fun t => (es.map fun e =>
      if (List.range e.count).any fun i => decide (e.start + i * e.period = t) then e.slots else 0).sum)

/-- The most slots of a port and direction the other vats can claim in one Tick at a gear: their steps meet at any offset; a standby takes one
of its moves (R173). -/
def State.linkHeld (s : State) (vat port dir gear : Nat) : Nat :=
  (s.vats.map fun v => if v.1 = vat then 0 else maxNat (v.2.placed.map fun x => linkPeak x.1 x.2.1 port dir gear)).sum

/-- The vats other than one whose tables use a port. -/
def State.portVats (s : State) (vat port : Nat) : Nat :=
  (s.vats.filter fun v => decide (v.1 ≠ vat) && v.2.placed.any fun x => (mPorts x.1 x.2.1).contains port).length

/-- The limits that fail a placement with 0x0211: router ports another vat holds, fewer than 4 whey slots a Tick, an eighth link session
(R158, R173, R178). -/
def State.wiresOk (s : State) (vat : Nat) (m : Mould) (l : Nat) (pl : Placement) : Bool :=
  let held := s.heldPorts vat
  !(curdPorts m l pl).any held.contains && (mPorts m l).all fun k => decide (s.portVats vat k < 7) && gearList.all fun g =>
    decide (linkPeak m l k 0 g + s.linkHeld vat k 0 g ≤ 280 ∧ linkPeak m l k 1 g + s.linkHeld vat k 1 g ≤ 280)

/-- Give a vat a link session on each port its tables use (R178): the lowest free one; a session it holds stays. -/
def State.assignLinks (s : State) (vat : Nat) (m : Mould) (l : Nat) : State :=
  (mPorts m l).foldl (fun t k => t.onPort k fun p =>
    if p.vats.any fun e => decide (e.1 = vat) then p else
    match ((List.range 7).map (· + 1)).find? fun n => !(p.vats.any fun e => decide (e.2 = n)) with
    | some n => { p with vats := p.vats ++ [(vat, n)] }
    | none => p) s

/-- The link session of a vat on a port. -/
def Port.session (p : Port) (vat : Nat) : Option Nat := (p.vats.find? fun e => decide (e.1 = vat)).map (·.2)

end Sys2Proof.Machine
end

