-- ==== Sys2Proof/Machine/Bind.lean ====
section
/-! DEFINITION. Building a vat: VAT_DEFINE, MOULD_LOAD, BIND_RESERVE and BIND_COMPLETE (R111 to R140, R208, R209, R268 to R275,
R285). -/

namespace Sys2Proof.Machine
open Sys2Proof

/-- The vat ID a vat command names. -/
def cmdVatId (b : List Byte) : Nat := cmdTarget b

/-! ### VAT_DEFINE (R268, R269, R285) -/

def spareOf (bs : List Byte) : SpareEnt := ⟨field bs 0 2, field bs 2 1, field bs 8 8⟩

/-- The spare entries of a descriptor. -/
def descSpares (bs : List Byte) : List SpareEnt :=
  (List.range (field bs 6 2)).map fun i => spareOf (bs.drop (64 + 16 * i))

/-- A descriptor from its bytes. -/
def descOf (bs : List Byte) : VatDesc where
  vatId := field bs 2 2 % 4096
  packages := field bs 4 2
  origin := field bs 8 2
  tm := field bs 0xA 2
  deputy := field bs 0xC 2
  measure := (bs.drop 0x10).take 32
  limit := field bs 0x30 4
  spares := descSpares bs

/-- Reserved fields of a descriptor are zero. -/
def descRsvOk (bs : List Byte) : Bool :=
  decide (field bs 2 2 / 4096 = 0 ∧ field bs 0xE 2 = 0 ∧ field bs 0x34 12 = 0) &&
    (List.range (field bs 6 2)).all fun i => decide (field bs (64 + 16 * i + 3) 5 = 0)

/-- Ranges and uniqueness of R268; a node number is below 10,240 (R1). -/
def descOk (d : VatDesc) (vat : Nat) : Bool :=
  decide (d.vatId = vat ∧ 1 ≤ d.packages ∧ d.packages ≤ 10240 ∧ d.spares.length ≤ 256 ∧ d.tm < d.packages ∧
    d.origin < 10240 ∧ d.deputy < d.packages ∧ (d.deputy ≠ d.tm ∨ d.packages = 1) ∧ 12500 ≤ d.limit ∧ d.limit ≤ 125000000) &&
  !hasDup (d.spares.map (·.move)) &&
  d.spares.all fun e => decide (1 ≤ e.move ∧ e.move ≤ 4095 ∧ (e.mode = 0 → e.image = 0))

/-- The role a VAT_DEFINE names exists in its descriptor. -/
def roleOk (d : VatDesc) (lpkg : Nat) (moves : List Nat) : Bool :=
  if lpkg = 0xFFFF then decide (moves ≠ []) && !hasDup moves && moves.all fun m => d.spares.any fun e => decide (e.move = m)
  else decide (lpkg < d.packages ∧ moves = [])

/-- The descriptor in host memory, with its spare entries. -/
def State.descBytes (s : State) (c : Cmd) : List Byte :=
  let a := field c.bytes 0x10 8
  let h := s.hostRead a 64
  h ++ s.hostRead (a + 64) (16 * field h 6 2)

/-- The move numbers a VAT_DEFINE lists. -/
def State.moveList (s : State) (c : Cmd) : List Nat :=
  (List.range (field c.bytes 0x1A 2)).map fun i => leNat (s.hostRead (field c.bytes 0x20 8 + 2 * i) 2)

/-- A remould of the vat is in progress as far as this package knows: its own, one it has staged for, or one it halts for. -/
def State.vatBusy (s : State) (vat : Nat) : Bool :=
  let r := s.role vat
  r.remould.isSome || r.staged.isSome || r.haltTo || (s.vat? vat).any fun v => decide (v.state = .remoulding)

/-- A redefinition keeps everything but the spare entries (R285). -/
def State.redefineStatus (s : State) (v : Vat) (d : VatDesc) (lpkg : Nat) (moves : List Nat) : Nat :=
  if v.state = .washing ∨ s.vatBusy v.desc.vatId then 0x0213
  else if ¬(v.state = .bound ∨ v.state = .running ∨ v.state = .halted ∨ v.state = .standby) then 0x0217
  else if { d with spares := v.desc.spares } ≠ v.desc then 0x0155
  else if ¬(if v.isMember then lpkg = v.lpkg ∧ moves = [] else lpkg = 0xFFFF ∧ moves = v.moves) then 0x0155
  else match v.mould with
    | some m => if d.spares.all fun e => decide (e.move ≤ mMoveCount m) then 0 else 0x0155
    | none => 0x0155

/-- Check 12 of VAT_DEFINE (R269, R285). -/
def ownVatDefine (s : State) (c : Cmd) : Nat :=
  let bs := s.descBytes c
  let d := descOf bs
  let lpkg := field c.bytes 0x18 2
  let moves := s.moveList c
  if field bs 0 2 ≠ 0x1000 then 0x0102
  else if !descRsvOk bs then 0x0101
  else if d.spares.any fun e => decide (1 < e.mode) then 0x0103
  else if !descOk d (cmdVatId c.bytes) || !roleOk d lpkg moves then 0x0155
  else match s.vat? (cmdVatId c.bytes) with
    | none => 0
    | some v => s.redefineStatus v d lpkg moves

/-- A vat just defined. -/
def newVat (d : VatDesc) (lpkg : Nat) (moves : List Nat) : Vat where
  desc := d
  role := if lpkg = 0xFFFF then .standby else .member
  lpkg := lpkg
  moves := moves
  state := .defined
  mould := none
  delta := none
  chain := []
  place := Placement.empty
  gone := []
  reserves := []
  loader := 0
  regionObj := []
  headers := []
  params := SessParams.empty
  sessions := []
  work := []
  resTable := []
  kvFrames := []
  zeroSlot := []
  nodes := []
  acting := none
  comp := 0
  meter := ⟨0, 0, 0⟩
  offers := []
  frozen := none
  step := none
  boundary := 0

/-- The nodes of the spare entries that a redefinition adds: they stand by again, built anew (R284). -/
def State.addedNodes (s : State) (v : Vat) (d : VatDesc) : List Nat :=
  (d.spares.filter fun e => !v.desc.spares.contains e).map fun e => s.moveNode v e.move

/-- Define a vat, or replace the spare entries of its descriptor. -/
def State.defineVat (s : State) (c : Cmd) : State :=
  let d := descOf (s.descBytes c)
  let t := match s.vat? d.vatId with
    | some v => (s.onVat d.vatId fun v => { v with desc := d }).onRole d.vatId fun r => { r with
        downs := r.downs.filter fun x => !(s.addedNodes v d).contains x.1 }
    | none => s.onVats fun m => mapPut m d.vatId (newVat d (field c.bytes 0x18 2) (s.moveList c))
  t.finish c.ref 0

/-- VAT_DEFINE (R269). -/
def execVatDefine (r : CmdRef) (s : State) : Host.Outcome State Fault Refusal :=
  .next (if s.hostOpen 0 then s.checked r 0x30 ownVatDefine s.defineVat else s)

/-! ### MOULD_LOAD (R136) -/

/-- The bytes of a container in an object of context 0, up to the end of its last section. -/
def State.container (s : State) (o : MemObj) (off : Nat) : List Byte :=
  let rd := fun (a n : Nat) => s.readPieces (o.piecesOf (off + a) (min n (o.size - off - a)))
  let h := rd 0 128
  let dir := mouldDir (h ++ zeros (field h 0x14 4 - 128) ++ rd (field h 0x14 4) (64 * field h 0x10 4))
  let last := maxNat (128 :: (field h 0x14 4 + 64 * field h 0x10 4) :: dir.map fun e => e.off + e.len)
  rd 0 last

/-- The bytes of a container that a package reads (R103): header, directory and the sections it reads for the packages it stands for. -/
def MemObj.containerReads (o : MemObj) (off : Nat) (bs : List Byte) (reads : DirEnt → Bool) : Pieces :=
  let at' (a n : Nat) := o.piecesOf (off + a) (min n (o.size - off - a))
  at' 0 128 ++ at' (field bs 0x14 4) (64 * field bs 0x10 4) ++ ((mouldDir bs).filter reads).flatMap fun e => at' e.off e.len

/-- The logical packages whose sections a package reads: its own, or those a standby's moves take over. -/
def Vat.readsFor (v : Vat) (m : Mould) : List Nat :=
  if v.role = .standby then (v.moves.map fun k => (mMove m k).1).eraseDups else [v.lpkg]

/-- The torus sizes the LINK block holds (R196). -/
def State.torus (s : State) : Torus := (s.links.tx, s.links.ty, s.links.tz)

/-- The Mould a package records: the sections it reads for each package it stands for. -/
def readMoulds (tor : Torus) (bs : List Byte) (base : Option Mould) (ls : List Nat) : Mould :=
  { mouldOf bs (fun _ => false) with sections := (ls.flatMap fun l => (readMould tor bs base l).sections).eraseDups }

/-- The first failing check over the packages read: all checks of one package before the next package's (DESIGN CHOICE, log entry 123). -/
def checkMoulds (tor : Torus) (bs : List Byte) (size : Nat) (ls : List Nat) (signers : List (List Byte)) (sigOk : Bool)
    (base : Option (Mould × List Byte)) (deep : List Nat) : Option MouldFail :=
  firstFail (ls.map fun l => checkMould tor bs size l signers sigOk base deep)

/-- The signer digests of a vat (R375). -/
def State.signersOf (s : State) (vat : Nat) : List (List Byte) := ((mapFind s.keys.secrets vat).map (·.signers)).getD []

/-- A MOULD_LOAD of a delta, a BIND_RESERVE or a BIND_COMPLETE dispatched before this command still runs for the same vat (R135). -/
def State.bindBusy (s : State) (c : Cmd) : Bool :=
  (s.objs.cmds.takeWhile fun x => decide (x.ref ≠ c.ref)).any fun x =>
    decide (x.phase ≠ .done ∧ cmdVatId x.bytes = cmdVatId c.bytes) &&
      (decide (cmdOp x.bytes = 0x32 ∨ cmdOp x.bytes = 0x33) ||
        (decide (cmdOp x.bytes = 0x31) && (s.vat? (cmdVatId c.bytes)).any fun v => decide (v.state ≠ .defined)))

/-- Check 12 of MOULD_LOAD: the vat exists, is not washed, and its state takes this kind of container (R135, R271, R274). -/
def ownMouldLoad (s : State) (c : Cmd) : Nat :=
  match s.vat? (cmdVatId c.bytes) with
  | none => 0x0215
  | some v =>
    if v.state = .washing then 0x0213
    else if v.state ≠ .defined ∧ s.bindBusy c then 0x0213
    else if v.state = .reserved ∨ v.state = .remoulding then 0x0216
    else 0

/-- Write the report, then finish with the same status (R137, R314). -/
def State.report (s : State) (c : Cmd) (st : Nat) (f : Option MouldFail) (l : Nat) (measure : List Byte) : State :=
  (s.hostPost 0 (field c.bytes 0x20 8) (mouldReport st f l measure)).finish c.ref st

/-- MOULD_LOAD, BIND_RESERVE and BIND_COMPLETE: the command's own check, whose failure writes a report as any other does (R137, log entry 70),
then its work. -/
def State.reported (s : State) (r : CmdRef) (op : Nat) (check : State → Cmd → Nat) (f : Cmd → State) : State :=
  s.onDue r op fun c =>
    let st := check s c
    if st ≠ 0 then s.report c st none (((s.vat? (cmdVatId c.bytes)).map (·.lpkg)).getD 0xFFFF) [] else f c

/-- MOULD_LOAD verifies a container and records the Mould, or the delta, that it holds (R134, R136); an uncorrectable error in what it reads
ends it with the read's status (R212). -/
def State.loadMould (s : State) (c : Cmd) (sigOk : Bool) (met : LoadMet) : State :=
  match s.vat? (cmdVatId c.bytes), s.obj? (hIdx (field c.bytes 0x18 4)) with
  | some v, some o =>
    let off := field c.bytes 0x10 8
    let bs := s.container o off
    let isDelta := field bs 0x18 1 == 1
    let base := if v.state = .defined then none else v.mould.map fun m => (m, v.chain)
    let ls := v.readsFor ((base.map (·.1)).getD (mouldOf bs fun e => decide (e.typ = secVat)))
    let ps := o.containerReads off bs fun e => ls.any fun l => readsSection l (mouldNeighbours s.torus bs (base.map (·.1)) l) e
    let s := s.readsMet met.bad ps
    if readStatus met.bad ps ≠ 0 then s.report c (readStatus met.bad ps) none v.lpkg []
    else if v.state = .defined ∧ isDelta then s.report c 0x0216 none v.lpkg []
    else if v.state ≠ .defined ∧ !isDelta then s.report c 0x0216 none v.lpkg []
    else match checkMoulds s.torus bs (o.size - off) ls (s.signersOf v.desc.vatId) sigOk base met.fails with
      | some f => s.report c f.status (some f) v.lpkg []
      | none =>
        let m := readMoulds s.torus bs (base.map (·.1)) ls
        (s.onVat v.desc.vatId fun v => if isDelta then { v with delta := some m } else { v with mould := some m }).report c 0 none
          v.lpkg m.measure
  | _, _ => s

/-- MOULD_LOAD. -/
def execMouldLoad (r : CmdRef) (sigOk : Bool) (met : LoadMet) (s : State) : Host.Outcome State Fault Refusal :=
  .next (s.reported r 0x31 ownMouldLoad fun c => s.loadMould c sigOk met)

/-! ### Placement (R112, R138, R209) -/

/-- Every way to give each of some names a different candidate, in the order of the candidates. -/
def assignments (cands : Nat → List Nat) : List Nat → List Nat → List (List (Nat × Nat))
  | [], _ => [[]]
  | q :: qs, used => (cands q).flatMap fun p =>
      if used.contains p then [] else (assignments cands qs (p :: used)).map ((q, p) :: ·)

/-- The die permutations that keep halves, identity first. -/
def diePerms : List (List Nat) :=
  [[0, 1, 2, 3], [1, 0, 2, 3], [0, 1, 3, 2], [1, 0, 3, 2], [2, 3, 0, 1], [3, 2, 0, 1], [2, 3, 1, 0], [3, 2, 1, 0]]

/-- A permutation keeps the dies whose ports a package entry uses, so that every port stays at its distance. -/
def permOk (p : PkgEntry) (perm : List Nat) : Bool :=
  (maskBits p.dieMask 4).all fun d => decide (bits p.ports (2 * d + 1) (2 * d) = 0) || decide (nth 0 perm d = d)

/-- Retired cores of a physical cluster, die × 8 + cluster. -/
def State.retiredIn (s : State) (k : Nat) : List Nat := s.retiredCores.filter fun c => decide (c / 32 = k)

/-- A core-position or ingress router of a physical cluster. -/
def routerCluster (k r : Nat) : Bool :=
  decide (r / 32 = k) ||
    decide (1024 ≤ r ∧ r / 256 % 4 = k / 8 ∧ 0x48 + 9 * (k % 8) ≤ r % 256 ∧ r % 256 < 0x48 + 9 * (k % 8) + 9)

/-- A cluster may be bound: no vat holds a core of it, at most one core is Retired, no router of it has failed (R275, R411). -/
def State.clusterFree (s : State) (k : Nat) : Bool :=
  !(s.cores.any fun p => decide (p.1 / 32 = k) && p.2.vat.isSome) && decide ((s.retiredIn k).length ≤ 1) && !s.halfCut (k / 16) && !s.retiredRouters.any (routerCluster k) &&
  !(s.vats.any fun v => v.2.place.clusters.contains k || v.2.reserves.any fun r => r.2.clusters.contains k)

/-- A physical slice, die × 66 + slice, may be bound. -/
def State.sliceFree (s : State) (k : Nat) : Bool :=
  !s.retiredSlices.contains k && !s.halfCut (k / 132) &&
  !(s.vats.any fun v => v.2.place.slices.contains k || v.2.reserves.any fun r => r.2.slices.contains k)

/-- A physical stack may be bound. -/
def State.stackFree (s : State) (q : Nat) : Bool :=
  !s.mem.hbmOut.contains q && !s.halfCut (q / 8) &&
  !(s.vats.any fun v => v.2.place.stackSet.contains q || v.2.reserves.any fun r => r.2.stackSet.contains q)

/-- Frames a region's share of one logical stack touches (R208). -/
def regionFrames (r : Region) (stack : Nat) : List Nat :=
  if r.kind ≠ 2 then [] else
  let g := 2 ^ r.gran
  let j := ceilDiv r.bytes g
  ((List.range r.count).flatMap fun i =>
    if (r.first + i) / 32 ≠ stack then [] else
    let n := (j + r.count - 1 - i) / max 1 r.count * g
    if n = 0 then [] else (List.range ((r.base + n - 1) / 2 ^ 20 + 1 - r.base / 2 ^ 20)).map (r.base / 2 ^ 20 + ·)).eraseDups

/-- Frames every region of a package touches on a logical stack. -/
def stackNeeds (rs : List Region) (stack : Nat) : List Nat := (rs.flatMap fun r => regionFrames r stack).eraseDups

/-- The physical stacks a logical stack may take under a die permutation: those of the base die that carries its logical die, with the frames
it needs Free (R112, R154). -/
def State.stackCands (s : State) (perm : List Nat) (rs : List Region) (q : Nat) : List Nat :=
  ((List.range 4).map (4 * nth 0 perm (q / 4) + ·)).filter fun p =>
    s.stackFree p && (stackNeeds rs q).all fun f => s.frameFree (p * stackFrames + f)

/-- Spare position of a cluster (R275): its Retired core's position, else the Mould's default. -/
def State.spareOfCluster (s : State) (m : Mould) (l lc k : Nat) : Nat :=
  match s.retiredIn k with
  | c :: _ => c % 32
  | [] => bits ((m.sections.find? fun x => decide (x.typ = secRouter ∧ instLpkg x.inst = l ∧ altKind x.inst = 0 ∧
      bits x.inst 10 5 = lc)).elim 0 (·.inst)) 15 11

/-- The placements of package `l` under one die permutation (R112): the lowest free clusters and slices of each die, the spare slices 64 and 65
left out (R154, R206), and every choice of stacks. -/
def State.placesUnder (s : State) (m : Mould) (l : Nat) (perm : List Nat) : List Placement :=
  let p := mPkg m l
  let dies := maskBits p.dieMask 4
  if !permOk p perm then [] else
  let clus := dies.map fun d => (((List.range 8).map (nth 0 perm d * 8 + ·)).filter s.clusterFree).take p.clusters
  let slis := dies.map fun d => (((List.range 64).map (nth 0 perm d * 66 + ·)).filter s.sliceFree).take p.slices
  if clus.any (fun c => decide (c.length < p.clusters)) ∨ slis.any (fun c => decide (c.length < p.slices)) then [] else
  (assignments (s.stackCands perm (mRegions m l)) (maskBits p.stackSet 16) []).map fun st =>
    let cl := clus.flatten
    { Placement.empty with
      dies := perm, clusters := cl, slices := slis.flatten,
      spares := ((List.range cl.length).zip cl).map fun x =>
        s.spareOfCluster m l (8 * nth 0 dies (x.1 / max 1 p.clusters) + x.1 % max 1 p.clusters) x.2,
      stackSet := (List.range 16).map fun q => ((st.find? fun x => decide (x.1 = q)).map (·.2)).getD 16 }

/-- The placements of R112, in the order they are tried (DESIGN CHOICE, log entry 16). -/
def State.places (s : State) (m : Mould) (l : Nat) : List Placement := diePerms.flatMap (s.placesUnder m l)

/-- Frames (stack × 1,430 + frame) of the regions of a placed package. -/
def placedFrames (pl : Placement) (rs : List Region) : List Nat :=
  (List.range 16).flatMap fun q =>
    if nth 16 pl.stackSet q = 16 then [] else (stackNeeds rs q).map (nth 16 pl.stackSet q * stackFrames + ·)

/-- Whole Free frames of some stacks in ascending order (R133); fewer where not enough are Free. -/
def State.storeFrames (s : State) (stackSet : List Nat) (n : Nat) (not : List Nat) : List Nat :=
  ((stackSet.flatMap fun q => (List.range stackFrames).map (q * stackFrames + ·)).filter fun f =>
    s.frameFree f && !not.contains f).take n

/-- The stacks the alternate store may lie on (R133). -/
def State.storeStacks (s : State) (pl : Placement) : List Nat :=
  let mine := (List.range 16).filter fun q => pl.stackSet.contains q
  if mine.isEmpty then (List.range 16).filter fun q => !s.mem.hbmOut.contains q else mine

/-- Cut `n` cave frames from the unowned extents, lowest first: (base, frames) each. -/
def caveRuns : List (Nat × Nat) → Nat → List (Nat × Nat)
  | [], _ => []
  | (b, k) :: xs, n => if n = 0 then [] else (b, min k n) :: caveRuns xs (n - min k n)

/-- Take runs of cave frames for a vat. -/
def takeRuns (o : ExtOwner) : List (Nat × Nat) → SMap Extent → Option (SMap Extent)
  | [], m => some m
  | (b, n) :: rs, m => (takeExtent m b n o).bind (takeRuns o rs)

/-- The frames of a placed package's alternate store (R133). -/
def State.altStore (s : State) (m : Mould) (l : Nat) (pl : Placement) : List Nat :=
  s.storeFrames (s.storeStacks pl) (altFrames m l) (placedFrames pl (mRegions m l))

/-- The alternate store finds its frames under a placement. -/
def State.storeOk (s : State) (m : Mould) (l : Nat) (pl : Placement) : Bool := decide (altFrames m l ≤ (s.altStore m l pl).length)

/-- The link slots that the other vats of the package claim, bound or reserved (R138). -/
def State.claimed (s : State) (vat : Nat) : List (Nat × Nat × Nat) :=
  s.vats.flatMap fun v => if v.1 = vat then [] else v.2.placed.flatMap fun x => linkSlots x.1 x.2.1

/-- Check 2 of R138: cores, slices, stacks, link slots no other vat here claims, cave capacity, and the alternate store, for which the stacks
of no placement may lack the frames. -/
def State.enough (s : State) (vat : Nat) (m : Mould) (l : Nat) : Bool :=
  let p := mPkg m l
  let nd := (maskBits p.dieMask 4).length
  let claimed := s.claimed vat
  decide (nd * p.clusters ≤ ((List.range 32).filter s.clusterFree).length ∧
    nd * p.slices ≤ ((List.range 256).filter fun k => s.sliceFree (k / 64 * 66 + k % 64)).length ∧
    (maskBits p.stackSet 16).length ≤ ((List.range 16).filter s.stackFree).length ∧
    p.cave / frameBytes ≤ (s.caveFree.map (·.2)).sum) &&
  ((linkSlots m l).all fun x => !claimed.contains x) &&
  ((s.places m l).isEmpty || (s.places m l).any (s.storeOk m l))

/-- The first placement that has room for the alternate store and breaks no limit of the wires. -/
def State.findPlace (s : State) (vat : Nat) (m : Mould) (l : Nat) : Option Placement :=
  (s.places m l).find? fun pl => s.storeOk m l pl && s.wiresOk vat m l pl

/-- Reserve one package entry: its placement with frames blocked, the alternate store and cave frames taken, or the status of R138. -/
def State.reserve (s : State) (vat : Nat) (m : Mould) (l : Nat) : Nat × State × Placement :=
  if !s.enough vat m l then (0x0210, s, Placement.empty) else
  match s.findPlace vat m l with
  | none => (0x0211, s, Placement.empty)
  | some pl =>
    let used := placedFrames pl (mRegions m l)
    let alt := (s.altStore m l pl)
    let runs := caveRuns s.caveFree ((mPkg m l).cave / frameBytes)
    match takeRuns (.vat vat) runs s.mem.extents with
    | none => (0x0210, s, Placement.empty)
    | some x =>
      let t := (s.holdFrames used (.blocked vat)).holdFrames alt (.alt vat)
      (0, t.onMem fun u => { u with extents := x },
        { pl with cave := runs.flatMap fun r => (List.range r.2).map (r.1 + ·), alt := alt.map fun f => (f / stackFrames, f % stackFrames) })

/-! ### The placement of a delta (R134, R277) -/

/-- On each die what a package has there, then what is free: the placements a delta can have that leave a package what it holds, as far as
the delta asks for it (DESIGN CHOICE, log entry 132). -/
def State.grownPlaces (s : State) (e : Mould) (l : Nat) (pl : Placement) : List Placement :=
  let p := mPkg e l
  let dies := maskBits p.dieMask 4
  if !permOk p pl.dies then [] else
  let pick := fun (held cands : List Nat) (n : Nat) => (held ++ cands.filter fun k => !held.contains k).take n
  let clus := dies.map fun d => let x := nth 0 pl.dies d
    pick (pl.clusters.filter fun k => decide (k / 8 = x)) (((List.range 8).map (x * 8 + ·)).filter s.clusterFree) p.clusters
  let slis := dies.map fun d => let x := nth 0 pl.dies d
    pick (pl.slices.filter fun k => decide (k / 66 = x)) (((List.range 64).map (x * 66 + ·)).filter s.sliceFree) p.slices
  if clus.any (fun c => decide (c.length < p.clusters)) ∨ slis.any (fun c => decide (c.length < p.slices)) then [] else
  let rs := mRegions e l
  let cands := fun q =>
    if nth 16 pl.stackSet q = 16 then s.stackCands pl.dies rs q else [nth 16 pl.stackSet q]
  (assignments cands (maskBits p.stackSet 16) []).map fun st =>
    let cl := clus.flatten
    { pl with
      clusters := cl, slices := slis.flatten,
      spares := ((List.range cl.length).zip cl).map fun x =>
        s.spareOfCluster e l (8 * nth 0 dies (x.1 / max 1 p.clusters) + x.1 % max 1 p.clusters) x.2,
      stackSet := (List.range 16).map fun q => ((st.find? fun x => decide (x.1 = q)).map (·.2)).getD 16 }

/-- What the first of two placed package entries takes beyond the second: frames of regions, frames of the alternate store, cave frames. -/
def beyond (a b : Mould × Nat × Placement) : List Nat × List (Nat × Nat) × List Nat :=
  let f := placedFrames b.2.2 (mRegions b.1 b.2.1)
  ((placedFrames a.2.2 (mRegions a.1 a.2.1)).filter fun x => !f.contains x, a.2.2.alt.filter fun x => !b.2.2.alt.contains x,
    a.2.2.cave.filter fun x => !b.2.2.cave.contains x)

/-- A placement that a delta grows gets the frames and cave frames it lacks; a store or share that shrinks keeps its first frames. -/
def State.growInto (s : State) (vat : Nat) (m e : Mould) (l : Nat) (old pl : Placement) : Option (State × Placement) :=
  let new := (placedFrames pl (mRegions e l)).filter fun f => !(placedFrames old (mRegions m l)).contains f
  let more := s.storeFrames (s.storeStacks pl) (altFrames e l - old.alt.length) new
  let n := (mPkg e l).cave / frameBytes
  let runs := caveRuns s.caveFree (n - old.cave.length)
  if new.any (fun f => !s.frameFree f) ∨ more.length < altFrames e l - old.alt.length then none else
  (takeRuns (.vat vat) runs s.mem.extents).bind fun x =>
    let cave := old.cave.take n ++ runs.flatMap fun r => (List.range r.2).map (r.1 + ·)
    if cave.length < n then none else
    some (((s.holdFrames new (.blocked vat)).holdFrames more (.alt vat)).onMem fun u => { u with extents := x },
      { pl with cave := cave, alt := old.alt.take (altFrames e l) ++ more.map fun f => (f / stackFrames, f % stackFrames) })

/-- The package has, free or in an entry's placement, what a delta asks for that entry (R138 check 2). -/
def State.enoughWith (s : State) (vat : Nat) (e : Mould) (l : Nat) (old : Placement) : Bool :=
  let p := mPkg e l
  let nd := (maskBits p.dieMask 4).length
  let claimed := s.claimed vat
  decide (nd * p.clusters ≤ ((List.range 32).filter fun k => s.clusterFree k || old.clusters.contains k).length ∧
    nd * p.slices ≤ ((List.range 264).filter fun k => (s.sliceFree k && decide (k % 66 < 64)) || old.slices.contains k).length ∧
    (maskBits p.stackSet 16).length ≤ ((List.range 16).filter fun k => s.stackFree k || old.stackSet.contains k).length ∧
    p.cave / frameBytes ≤ (s.caveFree.map (·.2)).sum + old.cave.length) &&
  (linkSlots e l).all fun x => !claimed.contains x

/-- Reserve what a delta asks for beyond a package entry's placement, or the status of R138 (R277). -/
def State.regrow (s : State) (vat : Nat) (m e : Mould) (l : Nat) (old : Placement) : Nat × State × Placement :=
  if !s.enoughWith vat e l old then (0x0210, s, Placement.empty) else
  match ((s.grownPlaces e l old).filter (s.wiresOk vat e l)).findSome? (s.growInto vat m e l old) with
  | some r => (0, r)
  | none => (0x0211, s, Placement.empty)

/-! ### BIND_RESERVE (R138, R139, R270) -/

/-- Check 12 of BIND_RESERVE (R271). -/
def ownBindReserve (s : State) (c : Cmd) : Nat :=
  match s.vat? (cmdVatId c.bytes) with
  | none => 0x0215
  | some v =>
    if v.state = .washing ∨ s.bindBusy c = true then 0x0213
    else if v.state ≠ .defined ∨ v.mould = none then 0x0216 else 0

/-- The nodes a package's role gives it (R270). -/
def State.roleNodes (s : State) (v : Vat) : List Nat :=
  if v.role = .standby then v.moves.map (s.moveNode v) else [s.lpkgNode v v.lpkg]

/-- What a package reserves: its own entry (move 0), or the entry of each warm move (R274). -/
def Vat.reserveList (v : Vat) (m : Mould) : List (Nat × Nat) :=
  if v.role = .standby then
    (v.moves.filter fun k => v.desc.spares.any fun e => decide (e.move = k ∧ e.mode = 0)).map fun k => (k, (mMove m k).1)
  else [(0, v.lpkg)]

/-- Reserve every entry, all or none; each sees what those before it took (R138, R274). -/
def State.reserveAll (vat : Nat) (m : Mould) : List (Nat × Nat) → State → SMap Placement → Nat × State × SMap Placement
  | [], s, acc => (0, s, acc)
  | (k, l) :: rest, s, acc =>
    let r := s.reserve vat (mouldFor m k) l
    if r.1 ≠ 0 then (r.1, s, acc)
    else State.reserveAll vat m rest (r.2.1.onVat vat fun v => { v with reserves := mapPut v.reserves k r.2.2 }) (mapPut acc k r.2.2)

/-- The vats of which the package holds a part (R138). -/
def State.boundVats (s : State) : Nat := (s.vats.filter fun p => decide (p.2.state ≠ .defined)).length

/-- The loader a BIND_RESERVE names may use the vat's TRANSPORT slot (R138, R365). -/
def State.loaderOk (s : State) (c vat : Nat) : Bool :=
  let x := s.ctx c
  decide (x.state = .active) && x.conf &&
    (decide (x.function = 0) || decide ((s.fn x.function).vatLo ≤ vat ∧ vat ≤ (s.fn x.function).vatHi))

/-- The weight regions of what was reserved: (move, region number, region). -/
def weightRegions (m : Mould) (es : List (Nat × Nat)) : List (Nat × Nat × Region) :=
  es.flatMap fun e =>
    let rs := mRegions m e.2
    (((List.range rs.length).zip rs).filter fun p => decide (p.2.use = 1)).map fun p => (e.1, p.1, p.2)

/-- Create the region objects (R139). -/
def State.makeRegions (c vat : Nat) : List (Nat × Nat × Region) → State → List Nat → State × List Nat
  | [], s, acc => (s, acc)
  | (k, i, r) :: rs, s, acc =>
    match s.freeIndex with
    | none => (s, acc)
    | some x =>
      let o : MemObj := ⟨0, c, r.bytes, 0, frameBytes, [], false, false, some (vat, 1024 * k + i)⟩
      State.makeRegions c vat rs (s.newObj x o) (acc ++ [x])

/-- Free indices of memory objects. -/
def State.indicesLeft (s : State) : Nat := 2 ^ 20 - s.objs.nextIdx + s.objs.freeIdx.length

/-- The region list (R139). -/
def State.regionList (s : State) (ws : List (Nat × Nat × Region)) (objs : List Nat) : List Byte :=
  leBytes 2 0x1000 ++ leBytes 2 objs.length ++ zeros 12 ++ (ws.zip objs).flatMap fun p =>
    leBytes 2 p.1.2.1 ++ leBytes 1 p.1.2.2.kind ++ zeros 1 ++ leBytes 4 (s.handle p.2) ++ leBytes 8 p.1.2.2.bytes

/-- The checks of BIND_RESERVE before it reserves (R138 check 1, R270): every move of a standby names this node. -/
def State.bindStatus (s : State) (v : Vat) (m : Mould) : Nat :=
  if !(s.roleNodes v).all (· == s.links.node) ∨ m.measure ≠ v.desc.measure then 0x0155
  else if 8 ≤ s.boundVats then 0x0212 else 0

/-- Check 4 of R138. -/
def State.loaderStatus (s : State) (c vat n : Nat) : Nat :=
  if c = 0 then 0
  else if !s.loaderOk c vat then 0x0301
  else
    let f := (s.ctx c).function
    if s.indicesLeft < n ∨ (f ≠ 0 ∧ (s.fn f).objLimit < (s.fnObjs f).length + n) then 0x0203 else 0

/-- BIND_RESERVE (R138, R139); where only a half out of reach lacks, with 0x0701 (R358). -/
def State.bindReserve (s : State) (c : Cmd) : State :=
  match (s.vat? (cmdVatId c.bytes)).bind fun v => v.mould.map fun m => (v, m) with
  | none => s
  | some (v, m) =>
    let vat := v.desc.vatId
    let loader := field c.bytes 0x10 2 % 4096
    let es := v.reserveList m
    let ws := weightRegions m es
    let st := s.bindStatus v m
    if st ≠ 0 then s.report c st none v.lpkg [] else
    let r := State.reserveAll vat m es s []
    if r.1 ≠ 0 then s.report c (if (State.reserveAll vat m es s.bothHalves []).1 = 0 then 0x0701 else r.1) none v.lpkg [] else
    let st := s.loaderStatus loader vat ws.length
    if st ≠ 0 then s.report c st none v.lpkg [] else
    let q := if loader = 0 then (r.2.1, []) else State.makeRegions loader vat ws r.2.1 []
    let t := q.1.onVat vat fun v => { v with
      state := .reserved, place := mapGet Placement.empty r.2.2 0, reserves := if v.role = .standby then r.2.2 else [],
      loader := loader, regionObj := q.2 }
    let t := if loader = 0 then t else t.hostPost 0 (field c.bytes 0x18 8) (t.regionList ws q.2)
    t.report c 0 none v.lpkg []

/-- BIND_RESERVE. -/
def execBindReserve (r : CmdRef) (s : State) : Host.Outcome State Fault Refusal :=
  .next (s.reported r 0x32 ownBindReserve s.bindReserve)

/-! ### BIND_COMPLETE (R140, R275, R276) -/

/-- Check 12 of BIND_COMPLETE (R138, R271). -/
def ownBindComplete (s : State) (c : Cmd) : Nat :=
  match s.vat? (cmdVatId c.bytes) with
  | none => 0x0215
  | some v =>
    if v.state = .washing ∨ s.bindBusy c = true then 0x0213
    else if v.state = .defined then 0x0214 else if v.state ≠ .reserved then 0x0216 else 0

/-- Give back what BIND_RESERVE took (R140). -/
def State.unreserve (s : State) (vat : Nat) : State :=
  let t := (s.dropFrames (s.vatFrames vat)).freeExtents fun o => decide (o = .vat vat)
  t.onVat vat fun v => { v with state := .defined, place := Placement.empty, reserves := [], regionObj := [], loader := 0 }

/-- Where a tensor of a package lies as placed, under the vat's weight key. -/
def State.tensorPieces (s : State) (v : Vat) (l : Nat) (pl : Placement) (i : Nat) : Pieces :=
  (v.mould.map fun m =>
    let t := nth (0, 0) (mTensors m l) i
    ({ v with lpkg := l, place := pl }).regionPieces (vaRegion t.1) (vaOffset t.1) t.2 ((s.vatSlot v.desc.vatId 4).getD 1)).getD []

/-- The bytes of a tensor of a package as placed, and its length. -/
def State.tensorBytes (s : State) (v : Vat) (l : Nat) (pl : Placement) (i : Nat) : List Byte × Nat :=
  (s.readPieces (s.tensorPieces v l pl i), (v.mould.map fun m => (nth (0, 0) (mTensors m l) i).2).getD 0)

/-- The packages whose weights BIND_COMPLETE finds placed: a member's own, or those of a standby's warm moves (R140, R274). -/
def Vat.weightsHere (v : Vat) (m : Mould) : List (Nat × Placement) :=
  if v.isMember then [(v.lpkg, v.place)] else v.reserves.map fun r => ((mMove m r.1).1, r.2)

/-- The first tensor of a placed package that fails the check of R59, else the first DECODE that does not fit the tensors. -/
def State.checkTensors (s : State) (v : Vat) (m : Mould) (l : Nat) (pl : Placement) : Option MouldFail :=
  firstFail [
    (List.range (mTensors m l).length).findSome? fun i =>
      let b := s.tensorBytes v l pl i
      let st := pressCheck b.1 b.2
      if st = 0 then none else some { status := st, entry := i, key := some (secTensors, l * 2 ^ 18) },
    checkDecodes s.torus m l fun i => (s.tensorBytes v l pl i).1]

/-- The physical core of a logical core of a placed package (R112, and the spare positions of R275). -/
def corePhys (pl : Placement) (c : Nat) : Nat :=
  let k := c / 16
  let i := c % 16
  let sp := nth 16 pl.spares k
  nth 0 pl.clusters k * 32 + (if i < sp then i else i + 1)

/-- Bind the cores of a placed package: cleared, their program stores loaded, those at the spare positions Spare, Retired ones left so, link
sessions assigned (R86, R140, R178). -/
def State.bindCores (s : State) (vat : Nat) (m : Mould) (l : Nat) (pl : Placement) : State :=
  let t := pl.clusters.zipIdx.foldl (fun t x => (List.range 17).foldl (fun t p =>
    let sp := nth 16 pl.spares x.2
    let c := 16 * x.2 + (if p < sp then p else p - 1)
    t.onCore (x.1 * 32 + p) fun u =>
      if u.state = .retired then { u.cleared with vat := some vat }
      else if p = sp then { u.clear .spare s.clearUntil with vat := some vat, logical := 0, program := [] }
      else { u.clear .bound s.clearUntil with vat := some vat, logical := c, program := secBytes m secMicro (l * 2 ^ 18 + c) }) t) s
  t.assignLinks vat m l

/-- A placement with the spare positions of R275 as the journal has the cores now. -/
def State.respare (s : State) (m : Mould) (l : Nat) (pl : Placement) : Placement :=
  let p := mPkg m l
  let dies := maskBits p.dieMask 4
  { pl with spares := ((List.range pl.clusters.length).zip pl.clusters).map fun x =>
      s.spareOfCluster m l (8 * nth 0 dies (x.1 / max 1 p.clusters) + x.1 % max 1 p.clusters) x.2 }

/-- The pieces of an alternate store, given by its frames. -/
def storePieces (alt : List (Nat × Nat)) (off len : Nat) : Pieces :=
  (cuts frameBytes off len).map fun x =>
    let f := nth (0, 0) alt (x.1 / frameBytes)
    (hbmDpa f.1 (f.2 * frameBytes + x.1 % frameBytes), x.2, 0)

/-- What the alternate store of a package holds, by offset (R133, R276): the bodies of its alternate sections in the order of the container,
each on a multiple of 64 bytes, then the program-store image of each logical core, 256 KiB apart (DESIGN CHOICE, log entry 130). -/
def storeImage (m : Mould) (l : Nat) : List (Nat × List Byte) :=
  let alts := (altSections m l).foldl (fun a x => (a.1 + 64 * ceilDiv (bodyLen x) 64, a.2 ++ [(a.1, x.bytes.drop 16)])) (0, [])
  alts.2 ++ (List.range (pkgCores (mPkg m l))).map fun c => (alts.1 + 256 * 1024 * c, (secBytes m secMicro (l * 2 ^ 18 + c)).drop 16)

/-- Fill the alternate store of a placed package, under slot 0 (R133, R215). -/
def State.storeAlternates (s : State) (m : Mould) (l : Nat) (pl : Placement) : State :=
  (storeImage m l).foldl (fun t x => t.writePieces (storePieces pl.alt x.1 x.2.length) x.2) s

/-- Everything BIND_COMPLETE reads: the container's header, directory and sections read, and the tensors of what is placed (R140). -/
def State.bindReads (s : State) (v : Vat) (m : Mould) (c : Cmd) (bs : List Byte) : Pieces :=
  ((s.obj? (hIdx (field c.bytes 0x18 4))).map fun o => o.containerReads (field c.bytes 0x10 8) bs fun e =>
    (v.readsFor m).any fun l => readsSection l (mouldNeighbours s.torus bs none l) e).getD [] ++
  (v.weightsHere m).flatMap fun x => (List.range (mTensors m x.1).length).flatMap (s.tensorPieces v x.1 x.2)

/-- BIND_COMPLETE: the container again, the tensors, the cores, the alternate store (R133, R140); an uncorrectable error in what it reads
fails it with the read's status (R204, R212). -/
def State.bindComplete (s : State) (c : Cmd) (met : ReadErrs) : State :=
  match (s.vat? (cmdVatId c.bytes)).bind fun v => v.mould.map fun m => (v, m) with
  | none => s
  | some (v, m) =>
    let vat := v.desc.vatId
    let s := s.freeRegions vat
    let bs := ((s.obj? (hIdx (field c.bytes 0x18 4))).map fun o => s.container o (field c.bytes 0x10 8)).getD []
    let n := (mTensors m v.lpkg).length
    let ps := s.bindReads v m c bs
    let s := s.readsMet met ps
    let bad := (v.readsFor m).findSome? fun l => checkDigests s.torus bs none l
    let fail := fun (st : Nat) (f : Option MouldFail) => (s.unreserve vat).report c st f v.lpkg []
    match (if readStatus met ps ≠ 0 then some { status := readStatus met ps }
      else if mouldMeasure bs ≠ m.measure then some { status := 0x0812 } else bad : Option MouldFail) with
    | some f => fail f.status (some f)
    | none =>
      match firstFail ((v.weightsHere m).map fun x => s.checkTensors v m x.1 x.2) with
      | some f => fail f.status (some (f.locate (mouldDir bs)))
      | none =>
      if (v.place.clusters ++ v.reserves.flatMap fun r => r.2.clusters).any fun k => decide (2 ≤ (s.retiredIn k).length) then
        fail 0x0211 none
      else
        let pl := s.respare m v.lpkg v.place
        let t := if v.isMember then s.bindCores vat m v.lpkg pl else s
        let t := (v.weightsHere m).foldl (fun t x => t.storeAlternates m x.1 x.2) t
        let t := (t.onRole vat fun r => { r with reported := s.now, lastSent := s.now }).onVat vat fun v => { v with
          state := if v.isMember then .bound else .standby, place := pl, chain := m.measure, comp := 1,
          meter := ⟨s.now, 0, 0⟩, regionObj := [],
          headers := if v.isMember then (List.range n).map fun i => pressHdr (s.tensorBytes v v.lpkg v.place i).1 else [] }
        t.report c 0 none v.lpkg []

/-- BIND_COMPLETE starts once every command that holds a reference to a region object has completed (R139). -/
def State.regionsHeld (s : State) (c : Cmd) : Bool :=
  match s.vat? (cmdVatId c.bytes) with
  | none => false
  | some v => s.objs.cmds.any fun x => decide (x.ref ≠ c.ref) && x.objs.any fun i => v.regionObj.contains i

/-- BIND_COMPLETE. -/
def execBindComplete (r : BindRef) (s : State) : Host.Outcome State Fault Refusal :=
  .next (s.reported r.ref 0x33 ownBindComplete fun c => if s.regionsHeld c then s else s.bindComplete c r.bad)

end Sys2Proof.Machine
end

