-- ==== Sys2Proof/Machine/MemTiers.lean ====
section
/-! DEFINITION. The patrol scrubber (R213), the end of a slice copy (R206), Dynamic Capacity extents added and lost (R217, R219, R251,
R477). -/

namespace Sys2Proof.Machine
open Sys2Proof

/-! ### Patrol scrub -/

/-- 64-byte granules of a stack: 32 channels of 1.5 GB. -/
def stackGranules : Nat := 750000000

/-- The scrubber has read one more granule; after the last of a stack a pass is complete (R213, R231). -/
def StackRegs.scrubbed (r : StackRegs) : StackRegs :=
  if r.scrub + 1 = stackGranules then { r with passes := (r.passes + 1) % 2 ^ 32, scrub := 0 } else { r with scrub := r.scrub + 1 }

def State.stackRegs (s : State) (q : Nat) : StackRegs := mapGet ⟨0, 0, 0, 0, 0⟩ s.mem.stackSet q

def State.onStack (s : State) (q : Nat) (f : StackRegs → StackRegs) : State :=
  s.onMem fun m => { m with stackSet := mapPut m.stackSet q (f (mapGet ⟨0, 0, 0, 0, 0⟩ m.stackSet q)) }

/-- A granule of a stack by channel and channel address: channel × 2^31 + channel address. -/
def granuleOk (ca : Nat) : Bool := decide (ca / 2 ^ 31 < 32 ∧ ca % 2 ^ 31 < 1500000000 ∧ ca % 64 = 0)

/-- The effect of one scrub read: counted, its corrected bytes written back as they were (R212, R213). -/
def State.scrubRead (s : State) (q ca : Nat) (e : Ecc) : State :=
  let a := hbmDpa q (chanOff (ca / 2 ^ 31) (ca % 2 ^ 31))
  let t := match e with
    | .clean => s
    | .corrected => s.memCorrected a
    | .uncorrectable => (s.memUncorrectable a).note (memSource a) "HBM_UNCORRECTABLE" (memStatus a)
  (t.traffic 0 false a 64).onStack q StackRegs.scrubbed

/-- PATROL_SCRUB_READ (R213): the scrubber of a stack in service reads a granule. -/
def execPatrolScrubRead (q ca : Nat) (e : Ecc) (s : State) : Host.Outcome State Fault Refusal :=
  .next (if q < 16 ∧ granuleOk ca ∧ !s.mem.hbmOut.contains q ∧ !s.fenced 5 q ∧ 6 ≤ s.boot.stage then s.scrubRead q ca e else s)

/-! ### Slice copies -/

/-- SLICE_COPY_END (R206). -/
def execSliceCopyEnd (die : Nat) (ok : CopyReads) (s : State) : Host.Outcome State Fault Refusal := .next (s.copyEnds die ok)

/-! ### Extents arrive -/

def State.cxlPort (s : State) (p : Nat) : CxlPort := mapGet CxlPort.off s.cxlPorts p
def State.cxlDev (s : State) (k : Nat) : CxlDev := mapGet CxlDev.absent s.cxlDevs k
def State.onCxlPort (s : State) (p : Nat) (f : CxlPort → CxlPort) : State :=
  s.onCxlPorts fun m => mapSet CxlPort.off m p (f (mapGet CxlPort.off m p))
def State.onCxlDev (s : State) (k : Nat) (f : CxlDev → CxlDev) : State :=
  s.onCxlDevs fun m => mapSet CxlDev.absent m k (f (mapGet CxlDev.absent m k))

/-- An extent lies, in whole frames, within the region space of its device that a decoder maps (R477). -/
def addFits (d : CxlDev) (off bytes : Nat) : Bool :=
  decide (0 < bytes ∧ off % frameBytes = 0 ∧ bytes % frameBytes = 0 ∧ off + bytes ≤ d.dcBytes ∧ off + bytes ≤ 2 ^ 39)

/-- The first cave frame of device slot `k` (R477). -/
def slotFrame (k : Nat) : Nat := k * 2 ^ 14

/-- An extent of the table meets frames [fr, fr + n). -/
def State.extentMeets (s : State) (fr n : Nat) : Bool :=
  s.mem.extents.any fun p => decide (p.2.base < fr + n ∧ fr < p.2.base + p.2.frames)

/-- An Add event enters the lowest Free entry as Offered, or is answered as rejected: also where the table is full (DESIGN CHOICE, log entry 38). -/
def State.addExtent (s : State) (p d off bytes : Nat) : State :=
  let k := 8 * p + d
  let fr := slotFrame k + off / frameBytes
  match (freeEntries s.mem.extents).head? with
  | some e =>
    if addFits (s.cxlDev k) off bytes then
      s.onMem fun m => { m with extents := mapPut m.extents e ⟨.offered, fr, bytes / frameBytes, p, d, .none⟩ }
    else (s.onCxlDev k fun x => { x with rejected := sat32 x.rejected 1 }).send "DC_REJECT" k [off, bytes] []
  | none => (s.onCxlDev k fun x => { x with rejected := sat32 x.rejected 1 }).send "DC_REJECT" k [off, bytes] []

/-- DC_ADD_EVENT (R217, R477): a configured device of an Active port adds capacity it has not added yet. -/
def execDcAddEvent (p d off bytes : Nat) (s : State) : Host.Outcome State Fault Refusal :=
  .next (if p < 4 ∧ d < 8 ∧ (s.cxlPort p).state = 2 ∧ (s.cxlDev (8 * p + d)).state = 2 ∧
      !s.extentMeets (slotFrame (8 * p + d) + off / frameBytes) (bytes / frameBytes) then s.addExtent p d off bytes else s)

/-! ### Extents are lost -/

/-- Pieces meet cave frames [fr, fr + n). -/
def piecesMeet (ps : Pieces) (fr n : Nat) : Bool :=
  ps.any fun p => decide (caveDpa (fr * frameBytes) < p.1 + p.2.1 ∧ p.1 < caveDpa ((fr + n) * frameBytes))

/-- What a tile has been admitted to: its pieces, or while it resolves the spans whose leaves are known. -/
def Tile.admitted (t : Tile) : Pieces :=
  t.pieces ++ t.trans.map fun e => (pteAddr e.2.1 + e.1 * frameBytes % 2 ^ e.2.2, frameBytes, 0)

/-- Commands in dispatch whose accesses were admitted to the frames complete with 0x0710 (R219). -/
def State.loseCommands (s : State) (fr n : Nat) : State :=
  (s.objs.cmds.filter fun c => decide (c.phase ≠ .done) && c.tiles.any fun t => piecesMeet t.admitted fr n).foldl
    (fun t c => t.finish c.ref 0x0710) s

/-- A cave slot of a vat meets the frames. -/
def State.slotLost (s : State) (v : Vat) (fr n c : Nat) : Bool := piecesMeet (s.cavePieces v c ++ s.tagPieces v c) fr n

/-- A session homed here that has a cave slot in the frames (R251). -/
def State.loseSession (s : State) (vat fr n i : Nat) : State :=
  match s.vat? vat with
  | none => s
  | some v =>
    let r := v.sess i
    if r.state = .free ∨ r.state = .orphaned ∨ !(r.blocks.any fun b => b.cave.any (s.slotLost v fr n)) then s
    else if r.blocks.any fun b => b.cave.isSome && b.hbm.isNone then s.orphan vat i 0x0710
    else (s.onSess vat i fun r => { r with blocks := r.blocks.map fun b => { b with cave := none }, holder := 0xFFFF }).onWk vat i fun w =>
      { w with paging := w.paging.filter fun p => decide (p.1 ≠ 1) }

/-- Every session homed here that the loss concerns. -/
def State.loseSessions (s : State) (fr n : Nat) : State :=
  s.vats.foldl (fun t p => (p.2.sessions.map (·.1)).foldl (fun t i => t.loseSession p.1 fr n i) t) s

/-- An extent becomes Lost (R217): its accesses and the CAVE_RELEASE that zeroes it complete with 0x0710. -/
def State.loseExtent (s : State) (e : Nat) : State :=
  let x := s.extent e
  if x.state = .free ∨ x.state = .lost then s else
  let t := (s.onExtent e fun x => { x with state := .lost }).loseCommands x.base x.frames
  let t := (t.objs.cmds.filter fun c => decide (c.phase = .waiting ∧ cmdOp c.bytes = 0x27 ∧ cmdTarget c.bytes = e)).foldl
    (fun t c => t.finish c.ref 0x0710) t
  t.loseSessions x.base x.frames

/-- Every extent of a CXL port, or of one device slot, becomes Lost. -/
def State.loseExtents (s : State) (p : Extent → Bool) : State :=
  ((s.mem.extents.filter fun e => p e.2).map (·.1)).foldl (fun t e => t.loseExtent e) s

/-- EXTENT_LOST (R217): a port down, a device failure or a forced removal takes an extent. -/
def execExtentLost (e : Nat) (s : State) : Host.Outcome State Fault Refusal := .next (s.loseExtent e)

end Sys2Proof.Machine
end

