-- ==== Sys2Proof/Machine/Sessions.lean ====
section
/-! DEFINITION. The session commands of 09: opening, closing, parameters, trees and generation (R233 to R241, R259, R260). -/

namespace Sys2Proof.Machine
open Sys2Proof

/-! ### Checks (R233, R236) -/

def cmdVat (b : List Byte) : Nat := cmdArg0 b % 4096
def cmdRec (b : List Byte) : Nat := cmdTarget b % 2 ^ 18

/-- The session record a command names. -/
def State.cmdSess (s : State) (c : Cmd) : Session :=
  match s.vat? (cmdVat c.bytes) with
  | some v => v.sess (cmdRec c.bytes)
  | none => Session.free

/-- A function may use a vat (R332). -/
def State.vatAllowed (s : State) (ctx vat : Nat) : Bool :=
  let f := (s.ctx ctx).function
  decide (f = 0) || decide ((s.fn f).vatLo ≤ vat ∧ vat ≤ (s.fn f).vatHi)

/-- The checks every session command makes (R233), then the cause of an Orphaned session (R236). A record of a moved package has
no context known (DESIGN CHOICE, log entry 20). -/
def State.sessCheck (s : State) (c : Cmd) : Nat :=
  let op := cmdOp c.bytes
  match s.vat? (cmdVat c.bytes) with
  | none => 0x0215
  | some v =>
    let r := v.sess (cmdRec c.bytes)
    if v.role ≠ .member ∨ v.lpkg ≠ cmdTarget c.bytes / 2 ^ 18 then 0x0236
    else if v.params.records ≤ cmdRec c.bytes then 0x0141
    else if r.state ≠ .free ∧ r.ctx ≠ c.ref.ctx ∧ ¬(r.state = .orphaned ∧ r.ctx = 0) then 0x0301
    else if (r.state = SessState.free ∧ op = 0x10 ∨ r.ctx = 0 ∧ (op = 0x10 ∨ op = 0x12)) ∧ !s.vatAllowed c.ref.ctx (cmdVat c.bytes) then 0x0301
    else if r.state = .orphaned ∧ op ≠ 0x10 ∧ op ≠ 0x11 ∧ op ≠ 0x12 ∧ op ≠ 0x14 then r.orphan
    else 0

/-- The shared checks, then the states a command allows. -/
def State.sessIn (s : State) (c : Cmd) (ok : SessState → Bool) (own : Nat) : Nat :=
  let st := s.sessCheck c
  if st ≠ 0 then st else if !ok (s.cmdSess c).state then 0x0232 else own

/-- The pieces of operand `k` of a command. -/
def Cmd.piecesAt (c : Cmd) (k : Nat) : Pieces := ((c.tiles[k]?).map (·.pieces)).getD []

/-- The first virtual address of operand `k`. -/
def Cmd.vaAt (c : Cmd) (k : Nat) : Nat := ((c.tiles[k]?).map (·.va)).getD 0

/-! ### SESSION_OPEN, CLOSE, RESET, CANCEL -/

def ownSessionOpen (s : State) (c : Cmd) : Nat :=
  s.sessIn c (fun t => decide (t = .free ∨ t = .orphaned)) 0

/-- SESSION_OPEN releases what the record held and sets the defaults of R236. -/
def State.openSess (s : State) (c : Cmd) : State :=
  let b := c.bytes
  let fl := field b 0x18 1
  ((s.freeSess (cmdVat b) (cmdRec b)).onSess (cmdVat b) (cmdRec b) fun _ =>
    { Session.free with
      state := .idle, ctx := c.ref.ctx, seed := field b 0x10 8, rule := bits fl 0 0, spec := bits fl 2 1 }).finish c.ref 0

/-- SESSION_OPEN (R236). -/
def execSessionOpen (r : CmdRef) (s : State) : Host.Outcome State Fault Refusal :=
  .next (s.checked r 0x10 ownSessionOpen s.openSess)

def ownSessionClose (s : State) (c : Cmd) : Nat := s.sessIn c (fun t => decide (t ≠ .free)) 0

/-- SESSION_CLOSE (R236). -/
def execSessionClose (r : CmdRef) (s : State) : Host.Outcome State Fault Refusal :=
  .next (s.checked r 0x11 ownSessionClose fun c => (s.closeSess (cmdVat c.bytes) (cmdRec c.bytes)).finish r 0)

def ownSessionReset (s : State) (c : Cmd) : Nat :=
  s.sessIn c (fun t => decide (t = .faulted ∨ t = .orphaned)) 0

/-- A session as SESSION_RESET leaves it (R236). -/
def Session.afterReset (r : Session) : Session :=
  if r.state = .faulted then { r with state := .idle }
  else { r with
    state := .idle, holder := 0xFFFF, epoch := 0, len := 0, pend := none, orphan := 0, blocks := [], resSlot := 0xFFFF, biasSet := 0xFFFF, tree := [] }

/-- SESSION_RESET: a Faulted session keeps its rows; an Orphaned one releases what it held and starts at L = 0. A record of a moved package
becomes the resetting context's (DESIGN CHOICE, log entry 20). -/
def State.resetSess (s : State) (vat i ctx : Nat) : State :=
  let t := match s.vat? vat with
    | some v => if (v.sess i).state = SessState.orphaned then s.dropBias vat i else s
    | none => s
  t.onSess vat i fun r => { r.afterReset with ctx := if r.state = .orphaned ∧ r.ctx = 0 then ctx else r.ctx }

/-- SESSION_RESET (R236). -/
def execSessionReset (r : CmdRef) (s : State) : Host.Outcome State Fault Refusal :=
  .next (s.checked r 0x12 ownSessionReset fun c => (s.resetSess (cmdVat c.bytes) (cmdRec c.bytes) r.ctx).finish r 0)

def ownSessionCancel (s : State) (c : Cmd) : Nat :=
  s.sessIn c (fun t => decide (t = .idle ∨ t = .ready ∨ t = .placed)) 0

/-- SESSION_CANCEL: at once for a Ready session, at the boundary for a Placed one (R23, R236). -/
def State.cancelSess (s : State) (vat i : Nat) : State :=
  match s.vat? vat with
  | none => s
  | some v =>
    if (v.sess i).state = .ready then (s.withdraw vat i).endReq vat i 0x0012 .idle
    else if (v.sess i).state = .placed then s.onWk vat i fun w => { w with cancel := true }
    else s

/-- SESSION_CANCEL (R236). -/
def execSessionCancel (r : CmdRef) (s : State) : Host.Outcome State Fault Refusal :=
  .next (s.checked r 0x13 ownSessionCancel fun c => (s.cancelSess (cmdVat c.bytes) (cmdRec c.bytes)).finish r 0)

/-! ### SESSION_QUERY -/

def ownSessionQuery (s : State) (c : Cmd) : Nat := s.sessIn c (fun _ => true) 0

/-- SESSION_QUERY copies the record (R235). -/
def execSessionQuery (r : CmdRef) (s : State) : Host.Outcome State Fault Refusal :=
  .next (s.checked r 0x14 ownSessionQuery fun c =>
    (s.writePieces (c.piecesAt 0) ((s.cmdSess c).bytes (cmdVat c.bytes))).finish r 0)

/-! ### Sampling parameters and bias -/

def fpFinite (w : Word) : Bool := !fpIsNaN (fp32 w) && !decide (bits w.toNat 30 23 = 255)

/-- The ranges of R235: `TEMPERATURE` +0 or positive finite, `TOP_P` in (0, 1], `MIN_P` in [0, 1), `TOP_K` at most 1,024. -/
def samplingOk (temp topP minP : Word) (topK : Nat) : Bool :=
  decide (temp.toNat < 0x7F800000) && decide (0 < topP.toNat ∧ topP.toNat ≤ 0x3F800000) &&
    decide (minP.toNat < 0x3F800000) && decide (topK ≤ 1024)

def cmdWord (b : List Byte) (off : Nat) : Word := BitVec.ofNat 32 (field b off 4)

def ownSessionSetSampling (s : State) (c : Cmd) : Nat :=
  let b := c.bytes
  s.sessIn c (fun t => decide (t ≠ .free))
    (if samplingOk (cmdWord b 0x10) (cmdWord b 0x14) (cmdWord b 0x18) (field b 0x1C 2) then 0 else 0x0153)

/-- SESSION_SET_SAMPLING (R259). -/
def execSessionSetSampling (r : CmdRef) (s : State) : Host.Outcome State Fault Refusal :=
  .next (s.checked r 0x15 ownSessionSetSampling fun c =>
    let b := c.bytes
    (s.onSess (cmdVat b) (cmdRec b) fun x => { x with
      temp := cmdWord b 0x10, topP := cmdWord b 0x14, minP := cmdWord b 0x18, topK := field b 0x1C 2,
      stop := (List.range 4).map fun i => field b (0x20 + 4 * i) 4 }).finish r 0)

def ownSessionSetBias (s : State) (c : Cmd) : Nat := s.sessIn c (fun t => decide (t ≠ .free)) 0

/-- The entries of a bias set in memory (R259). -/
def biasEntries (bs : List Byte) (n : Nat) : List (Nat × Word) :=
  (List.range n).map fun i => (field bs (8 * i) 4, BitVec.ofNat 32 (field bs (8 * i + 4) 4))

/-- The entries are below `VOCAB`, distinct and finite. -/
def biasOk (es : List (Nat × Word)) (vocab : Nat) : Bool :=
  es.all (fun e => decide (e.1 < vocab) && fpFinite e.2) && !hasDup (es.map (·.1))

/-- The lowest free bias set of 16,384. -/
def State.freeBias (s : State) : Option Nat := (List.range 16384).find? fun k => (mapFind s.objs.bias k).isNone

/-- `VOCAB` of a vat. -/
def State.vocab (s : State) (vat : Nat) : Nat := (((s.vat? vat).bind (·.mould)).map mVocab).getD 0

/-- SESSION_SET_BIAS (R259): the set is loaded, or released by a `COUNT` of 0. -/
def State.setBias (s : State) (c : Cmd) (bad : ReadErrs) : State :=
  let b := c.bytes
  let n := field b 0x1C 2
  let ps := c.piecesAt 0
  let st := readStatus bad ps
  let es := biasEntries (s.readPieces ps) n
  if n = 0 then (s.dropBias (cmdVat b) (cmdRec b)).finish c.ref 0
  else if st ≠ 0 then (s.readsMet bad ps).finish c.ref st
  else
    let s := s.readsMet bad ps
    if !biasOk es (s.vocab (cmdVat b)) then s.finish c.ref 0x0153 else
    let old := (s.cmdSess c).biasSet
    match if old ≠ 0xFFFF then some old else s.freeBias with
    | none => s.finish c.ref 0x0233
    | some k =>
      ((s.onObjs fun o => { o with bias := mapPut o.bias k es }).onSess (cmdVat b) (cmdRec b) fun x =>
        { x with biasSet := k }).finish c.ref 0

/-- SESSION_SET_BIAS. -/
def execSessionSetBias (r : CmdRef) (bad : ReadErrs) (s : State) : Host.Outcome State Fault Refusal :=
  .next (s.checked r 0x16 ownSessionSetBias fun c => s.setBias c bad)

/-! ### SESSION_TREE -/

def ownSessionTree (s : State) (c : Cmd) : Nat :=
  s.sessIn c (fun t => decide (t = .idle ∨ t = .ready ∨ t = .placed)) (if (s.cmdSess c).spec = 2 then 0 else 0x0232)

/-- SESSION_TREE (R260): the tree is staged, for a Placed session at the boundary. -/
def State.setTree (s : State) (c : Cmd) (bad : ReadErrs) : State :=
  let b := c.bytes
  let n := field b 0x1C 1
  let ps := c.piecesAt 0
  let st := readStatus bad ps
  let t := treeOf (s.readPieces ps) n
  let x := s.cmdSess c
  let s := s.readsMet bad ps
  if st ≠ 0 then s.finish c.ref st
  else if !treeOk t (s.vocab (cmdVat b)) (decide (x.rule = 1)) then s.finish c.ref 0x0152
  else if x.state = .placed then
    (s.onWk (cmdVat b) (cmdRec b) fun w => { w with lateTree := some t }).finish c.ref 0
  else
    ((s.onSess (cmdVat b) (cmdRec b) fun x => { x with tree := t }).reoffer (cmdVat b) (cmdRec b)).finish c.ref 0

/-- SESSION_TREE. -/
def execSessionTree (r : CmdRef) (bad : ReadErrs) (s : State) : Host.Outcome State Fault Refusal :=
  .next (s.checked r 0x17 ownSessionTree fun c => s.setTree c bad)

/-! ### GENERATE (R237, R238) -/

/-- Checks 1 to 4 of R237; a count of all ones has failed check 3 of R308. -/
def ownGenerate (s : State) (c : Cmd) : Nat :=
  let st := s.sessCheck c
  let x := s.cmdSess c
  let n := field c.bytes 0x1C 4
  let cap := ((s.vat? (cmdVat c.bytes)).map (·.params.maxPos)).getD 0
  if st ≠ 0 then st
  else if x.state = .ready ∨ x.state = .placed then 0x0230
  else if x.state = .faulted then 0x0231
  else if x.state = .free then 0x0232
  else if n = 0 ∧ 0 < field c.bytes 0x2C 4 ∧ x.pend = none then 0x0234
  else if cap < x.len + b2n x.pend.isSome + n then 0x0150
  else 0

/-- The tokens of an input buffer. -/
def tokensOf (bs : List Byte) (n : Nat) : List Nat := (List.range n).map fun i => field bs (4 * i) 4

/-- An accepted request: the session is Ready, its buffers stay resolved, its fence stays pending (R237, R238, R314). -/
def State.accept (s : State) (c : Cmd) : State :=
  let b := c.bytes
  let t := s.onSess (cmdVat b) (cmdRec b) fun x => { x with
    state := .ready, fence := c.fence, inVa := c.vaAt 0, outVa := c.vaAt 1, inCount := field b 0x1C 4, inDone := 0,
    maxNew := field b 0x2C 4, produced := 0 }
  let t := t.onWk (cmdVat b) (cmdRec b) fun w => { w with
    req := some c.ref, inTile := c.piecesAt 0, outTile := c.piecesAt 1, objs := c.objs, cancel := false, outGap := false }
  (t.onCmd c.ref fun d => { d with silent := true }).finish c.ref 0

/-- GENERATE past its translation: check 6, then acceptance; with nothing to do the header is written and the session stays Idle. -/
def State.generate (s : State) (c : Cmd) (bad : ReadErrs) : State :=
  let b := c.bytes
  let n := field b 0x1C 4
  let ps := c.piecesAt 0
  let st := readStatus bad ps
  let s := s.readsMet bad ps
  if st ≠ 0 then s.finish c.ref st
  else if (tokensOf (s.readPieces ps) n).any fun t => decide (s.vocab (cmdVat b) ≤ t) then s.finish c.ref 0x0151
  else if n = 0 ∧ field b 0x2C 4 = 0 then (s.writePieces (c.piecesAt 1) (outHeader 0 0 s.now)).finish c.ref 0
  else s.accept c

/-- GENERATE. -/
def execGenerate (r : CmdRef) (bad : ReadErrs) (s : State) : Host.Outcome State Fault Refusal :=
  .next (s.checked r 0x18 ownGenerate fun c => s.generate c bad)

end Sys2Proof.Machine
end

