-- ==== Sys2Proof/Machine/Moves.lean ====
section
/-! DEFINITION. Commands that move bytes (R306, R379 to R381), INVALIDATE_TRANSLATION (R224), and the teardown of a context (R316). -/

namespace Sys2Proof.Machine
open Sys2Proof

/-! ### NOP and the copies (R306) -/

/-- NOP. -/
def execNop (r : CmdRef) (s : State) : Host.Outcome State Fault Refusal :=
  .next (s.onDue r 0x01 fun _ => s.finish r 0)

/-- The host can be reached for a command's context (R466). -/
def State.cmdHost (s : State) (c : Cmd) : Bool := s.hostOpen (s.ctx c.ref.ctx).function

/-- COPY reads every byte, then writes every byte; an uncorrectable read moves nothing. -/
def State.copyCmd (s : State) (c : Cmd) (bad : ReadErrs) : State :=
  let src := c.piecesAt 0
  let st := readStatus bad src
  if st ≠ 0 then (s.readsMet bad src).finish c.ref st
  else ((s.readsMet bad src).writePieces (c.piecesAt 1) (s.readPieces src)).finish c.ref 0

/-- COPY. -/
def execCopy (r : CmdRef) (bad : ReadErrs) (s : State) : Host.Outcome State Fault Refusal :=
  .next (s.onDue r 0x02 fun c => s.copyCmd c bad)

/-- COPY_IN. -/
def execCopyIn (r : CmdRef) (s : State) : Host.Outcome State Fault Refusal :=
  .next (s.onDue r 0x03 fun c =>
    if s.cmdHost c then
      (s.writePieces (c.piecesAt 0) (s.hostRead (field c.bytes 0x18 8) (field c.bytes 0x20 8))).finish r 0
    else s)

/-- COPY_OUT. -/
def State.copyOut (s : State) (c : Cmd) (bad : ReadErrs) : State :=
  let src := c.piecesAt 0
  let st := readStatus bad src
  if st ≠ 0 then (s.readsMet bad src).finish c.ref st
  else ((s.readsMet bad src).hostWrite (field c.bytes 0x18 8) (s.readPieces src)).finish c.ref 0

def execCopyOut (r : CmdRef) (bad : ReadErrs) (s : State) : Host.Outcome State Fault Refusal :=
  .next (s.onDue r 0x04 fun c => if s.cmdHost c then s.copyOut c bad else s)

/-! ### SEAL and OPEN (R379 to R381) -/

def cmdSlot (b : List Byte) : Nat := field b 0x28 1
def cmdSeq (b : List Byte) : Nat := field b 0x30 8
def cmdLen (b : List Byte) : Nat := field b 0x20 8

/-- A slot admits a command: it is in force, or began to retire only after the command's dispatch (R367). -/
def KeySlot.admits (u : KeySlot) (since : Nat) : Bool :=
  u.usable || (decide (u.state = .retiring) && u.retire.any fun t => decide (since < t))

/-- The nonce of R380. -/
def sealNonce (dir seq : Nat) : List Byte := leBytes 4 dir ++ leBytes 8 seq

/-- The 32-byte header of a sealed buffer. -/
def sealHeader (dir slot gen seq len : Nat) : List Byte :=
  leBytes 2 0x1000 ++ leBytes 1 dir ++ leBytes 1 slot ++ leBytes 4 gen ++ leBytes 8 seq ++ leBytes 8 len ++ zeros 8

/-- The key and highest sealed `SEQ` of the generation in force at a command's dispatch (R368). -/
def KeySlot.sealKey (u : KeySlot) (gen : Nat) : Option (List Byte × Nat) :=
  if gen = u.gen then some (u.key, u.seqOut)
  else if gen + 1 = u.gen then u.old.map fun k => (k, u.oldOut) else Option.none

/-- Check 12 of SEAL (R365, R381). -/
def ownSeal (s : State) (c : Cmd) : Nat :=
  let u := s.slot (cmdSlot c.bytes)
  if u.kind ≠ 0x07 ∨ u.ctx ≠ c.ref.ctx ∨ !u.admits c.since then 0x0821
  else match u.sealKey c.gen with
    | none => 0x0821
    | some (_, hi) => if cmdSeq c.bytes ≤ hi then 0x0820 else 0

/-- Record a sealed `SEQ` of a generation. -/
def KeySlot.sealed (u : KeySlot) (gen seq : Nat) : KeySlot :=
  if gen = u.gen then { u with seqOut := seq } else { u with oldOut := seq }

/-- SEAL: header, ciphertext and tag go to the host under the generation in force. -/
def State.sealBytes (s : State) (c : Cmd) (bad : ReadErrs) : State :=
  let b := c.bytes
  let k := cmdSlot b
  let src := c.piecesAt 0
  let st := readStatus bad src
  if st ≠ 0 then (s.readsMet bad src).finish c.ref st
  else match (s.slot k).sealKey c.gen with
    | none => s.finish c.ref 0x0821
    | some (key, _) =>
      let h := sealHeader 2 k c.gen (cmdSeq b) (cmdLen b)
      let e := gcmEnc key (sealNonce 2 (cmdSeq b)) h (s.readPieces src)
      (((s.readsMet bad src).hostWrite (field b 0x18 8) (h ++ e.1 ++ e.2)).onKeys fun v => v.onSlot k fun u => u.sealed c.gen (cmdSeq b)).finish c.ref 0

/-- SEAL. -/
def execSealCmd (r : CmdRef) (bad : ReadErrs) (s : State) : Host.Outcome State Fault Refusal :=
  .next (s.checked r 0x05 ownSeal fun c => if s.cmdHost c then s.sealBytes c bad else s)

/-- The vat of the region object an OPEN names as its destination, if it names one (R139). -/
def State.destRegion (s : State) (c : Cmd) : Option (Nat × Nat) := (s.obj? (hIdx (cmdTarget c.bytes))).bind (·.region)

/-- Check 12 of OPEN (R139, R365): the issuing context's SEAL slot, or the TRANSPORT slot of a vat it may use; a region object takes only
its vat's TRANSPORT slot. -/
def ownOpen (s : State) (c : Cmd) : Nat :=
  let u := s.slot (cmdSlot c.bytes)
  let mine := decide (u.kind = 0x07 ∧ u.ctx = c.ref.ctx)
  let vats := decide (u.kind = 0x06) && (s.ctx c.ref.ctx).conf && s.vatAllowed c.ref.ctx u.vat
  let fits := match s.destRegion c with
    | some (v, _) => decide (u.kind = 0x06 ∧ u.vat = v)
    | none => true
  if (mine || vats) && fits && u.admits c.since then 0 else 0x0821

/-- The key and highest accepted `SEQ` of a generation that OPEN accepts (R368). -/
def KeySlot.openKey (u : KeySlot) (kg gen : Nat) : Option (List Byte × Nat) :=
  if kg = u.gen then some (u.key, u.seqIn)
  else if kg = u.gen + 1 then u.standby.map fun k => (k, 0)
  else if kg + 1 = u.gen ∧ kg = gen then u.old.map fun k => (k, u.oldIn)
  else Option.none

/-- Record an accepted `SEQ`; the first under the standby generation makes it current (R368). -/
def KeySlot.accepted (u : KeySlot) (kg seq : Nat) : KeySlot :=
  if kg = u.gen then { u with seqIn := seq }
  else if kg = u.gen + 1 then
    { u with state := .active, gen := kg, key := u.standby.getD [], standby := Option.none, old := some u.key,
             oldOut := u.seqOut, oldIn := u.seqIn, seqOut := 0, seqIn := seq }
  else { u with oldIn := seq }

/-- Steps 1 and 2 of OPEN: the plaintext and its generation, if the buffer is authentic. -/
def State.openBuffer (s : State) (c : Cmd) : Option (Nat × List Byte) :=
  let b := c.bytes
  let k := cmdSlot b
  let len := cmdLen b
  let buf := s.hostRead (field b 0x18 8) (len + 48)
  let h := buf.take 32
  let kg := field h 4 4
  if h ≠ sealHeader 1 k kg (cmdSeq b) len then none else
  match (s.slot k).openKey kg c.gen with
  | none => none
  | some (key, hi) =>
    if cmdSeq b ≤ hi then none
    else (gcmDec key (sealNonce 1 (cmdSeq b)) h ((buf.drop 32).take len) (buf.drop (32 + len))).map fun p => (kg, p)

/-- The write of an OPEN whose destination is resolved and whose bursts are granted (step 3 of R381). -/
def State.openWrite (s : State) (r : CmdRef) : State :=
  match s.cmd? r with
  | some c => match c.phase, c.staged with
    | .ready, some p => if s.qos.burstsOf r = 0 then (s.writePieces (c.piecesAt 0) p).finish r 0 else s
    | _, _ => s
  | none => s

/-- OPEN: authenticate, record `SEQ`, then translate and write; a destination that needs walks is written once they have come. -/
def State.openBytes (s : State) (c : Cmd) : State :=
  if c.staged.isSome then s.openWrite c.ref else
  match s.openBuffer c with
  | none => s.finish c.ref 0x0820
  | some (kg, p) =>
    let t := s.onKeys fun v => v.onSlot (cmdSlot c.bytes) fun u => u.accepted kg (cmdSeq c.bytes)
    let t := t.onCmd c.ref fun d => { d with staged := some p }
    (t.resolve c.ref).openWrite c.ref

/-- OPEN. -/
def execOpenCmd (r : CmdRef) (s : State) : Host.Outcome State Fault Refusal :=
  .next (s.onDue r 0x06 fun c =>
    if c.staged.isSome then s.openBytes c
    else
      let st := ownOpen s c
      if st ≠ 0 then s.finish r st else if s.cmdHost c then s.openBytes c else s)

/-! ### INVALIDATE_TRANSLATION (R224) -/

/-- A tile resolved, or being resolved, through a leaf whose page meets a range (R224). -/
def Tile.through (t : Tile) (va len : Nat) : Bool :=
  t.virt && t.trans.any fun e =>
    let base := e.1 * frameBytes / 2 ^ e.2.2 * 2 ^ e.2.2
    decide (base < va + len ∧ va < base + 2 ^ e.2.2)

/-- A request of a context still moves bytes in a range through its resolved buffers (R238). -/
def State.buffersIn (s : State) (c va len : Nat) : Bool :=
  s.vats.any fun v => v.2.work.any fun w =>
    let x := v.2.sess w.1
    w.2.req.isSome && decide (x.ctx = c) &&
      (decide (x.inCount ≠ 0 ∧ x.inVa < va + len ∧ va < x.inVa + 4 * x.inCount) || decide (x.outVa < va + len ∧ va < x.outVa + 16 + 4 * x.maxNew))

/-- Some tile of the context still moves through the range. -/
def State.movingIn (s : State) (r : CmdRef) (va len : Nat) : Bool :=
  (s.objs.cmds.any fun c => decide (c.ref ≠ r ∧ c.ref.ctx = r.ctx ∧ c.phase ≠ .done ∧ c.phase ≠ .held) &&
    c.tiles.any fun t => t.through va len) || s.buffersIn r.ctx va len

/-- INVALIDATE_TRANSLATION drops the context's entries of the range, and finishes once no tile moves through one. -/
def execInvalidateTranslation (r : CmdRef) (s : State) : Host.Outcome State Fault Refusal :=
  .next (s.onDue r 0x07 fun c =>
    let va := field c.bytes 0x10 8
    let len := field c.bytes 0x18 8
    let t := s.onXl fun x => x.drop r.ctx va len
    if t.movingIn r va len then t else t.finish r 0)

/-! ### CONTEXT_DESTROY (R316) -/

/-- Check 12 of CONTEXT_DESTROY. -/
def ownContextDestroy (s : State) (c : Cmd) : Nat :=
  if cmdTarget c.bytes = 0 ∨ (s.ctx (cmdTarget c.bytes)).state ≠ .active then 0x0244 else 0

/-- Step 1: the queues of a context stop, what they had fetched is dropped. -/
def State.stopQueues (s : State) (c : Nat) : State :=
  s.onObjs fun o => { o with queues := mapAll o.queues fun k u =>
    if k / 16 = c then { u with
      fetched := [], old := [], waiting := none, asked := none, slotted := false, met := none,
      reserved := u.reserved - u.fetched.length }
    else u }

/-- Step 2: every Unsignalled fence of the context is abandoned. -/
def State.abandonFences (s : State) (c : Nat) : State :=
  let x := s.ctx c
  ((s.objs.fences.filter fun p => !p.2.signalled && decide (x.fenceLo ≤ p.1 ∧ p.1 < x.fenceLo + x.fenceN)).map (·.1)).foldl
    (fun t f => t.signalFence f 0x0241) s

/-- Step 3: held commands are dropped; the rest finish without completion entries (step 5). -/
def State.dropHeld (s : State) (c : Nat) : State :=
  s.onObjs fun o => { o with
    cmds := (o.cmds.filter fun x => !decide (x.ref.ctx = c ∧ x.phase = .held)).map fun x =>
      if x.ref.ctx = c then { x with orphan := true } else x }

/-- Step 4: the sessions of the context close; no output header is written any more. -/
def State.closeSessions (s : State) (c : Nat) : State :=
  (s.sessionsOf c).foldl (fun t p => (t.onWk p.1 p.2 fun w => { w with outGap := true }).closeSess p.1 p.2) s

/-- Step 6: the memory objects of the context are freed. -/
def State.freeObjects (s : State) (c : Nat) : State :=
  ((s.objs.objs.filter fun p => decide (p.2.ctx = c) && !p.2.freed).map (·.1)).foldl (fun t i => t.freeObj i) s

/-- A context begins its teardown: steps 1 to 4. -/
def State.teardown (s : State) (c : Nat) (by' : Option CmdRef) : State :=
  let t := s.onCtx c fun x => { x with state := .tearing, destroyer := by' }
  (((t.stopQueues c).abandonFences c).dropHeld c).closeSessions c

/-- CONTEXT_DESTROY (R316): the teardown, which a command that came through its queue began in its cycle of dispatch, goes on until nothing of
the context remains. -/
def execContextDestroy (r : CmdRef) (s : State) : Host.Outcome State Fault Refusal :=
  .next (s.onDue r 0x21 fun c =>
    let k := cmdTarget c.bytes
    let st := ownContextDestroy s c
    if (s.ctx k).destroyer = some r then s.onCmd r fun c => { c with phase := .waiting }
    else if st ≠ 0 then s.finish r st
    else (s.teardown k (some r)).onCmd r fun c => { c with phase := .waiting })

/-- Nothing of a context that is torn down remains. -/
def State.tornDown (s : State) (c : Nat) : Bool :=
  decide ((s.ctx c).state = .tearing) && !(s.objs.cmds.any fun x => decide (x.ref.ctx = c)) && decide (s.sessionsOf c = [])

/-- The context becomes Free: its memory objects are freed (step 6), its slots retire, washed if it was confidential (R367, R384), its queues and fences go, its command
completes. -/
def State.freeContext (s : State) (c : Nat) : State :=
  let s := s.freeObjects c
  let x := s.ctx c
  let slots := s.slotsWhere fun k => decide (k.ctx = c ∧ (k.kind = 0x03 ∨ k.kind = 0x07))
  let t := if x.conf then s.startWash (.ctx c) slots [] [] else s.retireSlots slots
  let t := t.onXl fun u => { u with cache := u.cache.filter fun e => decide (e.1 ≠ c) }
  let t := t.onObjs fun o => { o with
    ctxs := mapDel o.ctxs c,
    queues := o.queues.filter fun q => decide (q.1 / 16 ≠ c),
    doors := o.doors.filter fun q => decide (q.1 / 16 ≠ c),
    fences := o.fences.filter fun f => !decide (x.fenceLo ≤ f.1 ∧ f.1 < x.fenceLo + x.fenceN) }
  match x.destroyer with
  | some r => t.finish r 0
  | none => t

/-- CONTEXT_TEARDOWN_DONE (R316). -/
def execContextTeardownDone (c : Nat) (s : State) : Host.Outcome State Fault Refusal :=
  .next (if s.tornDown c then s.freeContext c else s)

end Sys2Proof.Machine
end

