-- ==== Sys2Proof/Machine/SessFlow.lean ====
section
/-! DEFINITION. Eligibility and offers (R252, R289), residency and paging (R244 to R247), leases (R248 to R250) and row copies
(R264). -/

namespace Sys2Proof.Machine
open Sys2Proof

/-! ### Offers -/

/-- A home offers a session that has become eligible. -/
def State.sessEligible (s : State) (vat i : Nat) : State :=
  match s.vat? vat with
  | none => s
  | some v =>
    if s.eligible v i ∧ (v.wk i).offered = none then
      let t := s.onSess vat i fun r => { r with eligible := s.now }
      (t.offer vat i false).onWk vat i fun w => { w with offered := some (s.need v (v.sess i)) }
    else s

/-- SESSION_ELIGIBLE (R252). -/
def execSessionEligible (vat i : Nat) (s : State) : Host.Outcome State Fault Refusal := .next (s.sessEligible vat i)

/-- The head takes an OFFER: a withdrawal drops the offer it holds, another replaces it (R252, R289). -/
def State.takeOffer (s : State) (m : OfferMsg) : State :=
  s.onVat m.vat fun v =>
    if !v.isHead then v else
    let rest := v.offers.filter fun o => decide (o.session ≠ m.session)
    { v with offers := if m.withdraw then rest
        else rest ++ [⟨m.session, m.count, m.stepKind, m.partition, m.eligibleTick, m.ctx⟩] }

/-- OFFER (R252). -/
def execOffer (m : OfferMsg) (s : State) : Host.Outcome State Fault Refusal := .next (if !m.hdr.ok then s else s.takeOffer m)

/-! ### Page-in (R244, R245) -/

/-- A session needs a page command: rows wait to be copied, whether or not its request goes on (R264), or it is Ready and blocks or rows are
missing for its offer (R244, R245). -/
def State.needsPaging (s : State) (v : Vat) (i : Nat) : Bool :=
  let r := v.sess i
  (v.wk i).paging.isNone && (decide ((r.state = .ready ∨ r.state = .idle) ∧ (v.wk i).copies ≠ []) ||
    (decide (r.state = .ready) && (!r.resident || decide (r.blocks.length < s.ordinals v r))))

/-- The entries of a row copy (R264, R289). -/
def copyEntries (cs : List (Nat × Nat)) : List (List Byte) := cs.map fun c => pageEntryBytes 0 0 c.1 c.2

/-- The home pages a session in, or has rows copied; a session that lacks blocks is counted starved once (R244). -/
def State.pageIn (s : State) (vat i : Nat) : State :=
  match s.vat? vat with
  | none => s
  | some v =>
    if !s.needsPaging v i then s else
    let r := v.sess i
    if (v.wk i).copies ≠ [] then s.pageCommand vat i 2 r.epoch r.holder (copyEntries (v.wk i).copies)
    else match s.allocate v i with
      | none =>
        if (v.wk i).starved ∨ !s.lacksBlocks v i then s
        else (s.onWk vat i fun w => { w with starved := true }).onRole vat fun o => { o with starved := o.starved + 1 }
      | some r =>
        let t := (s.withdraw vat i).onSess vat i fun _ => r
        (t.onWk vat i fun w => { w with starved := false }).pageCommand vat i 0 r.epoch r.holder (pageInEntries r.blocks)

/-- SESSION_PAGE_IN (R244, R245, R264). -/
def execSessionPageIn (vat i : Nat) (s : State) : Host.Outcome State Fault Refusal := .next (s.pageIn vat i)

/-! ### Eviction (R246) -/

/-- Some Ready session of the home waits for blocks or a residency slot. -/
def State.lacksRoom (s : State) (v : Vat) : Bool :=
  v.sessions.any fun p => s.needsPaging v p.1 && decide ((v.wk p.1).copies = []) && (s.allocate v p.1).isNone &&
    decide (s.ordinals v p.2 ≤ v.params.maxBlocks)

/-- The cave slots a session's page-out still needs. -/
def Session.cavesNeeded (r : Session) : Nat := (r.blocks.filter fun b => b.dirty && b.cave.isNone).length

/-- The sessions that may be evicted: Idle and resident, with no rows left to copy. -/
def Vat.evictable (v : Vat) : List Nat :=
  (v.sessions.filter fun p => decide (p.2.state = .idle ∧ p.2.resSlot ≠ 0xFFFF) && p.2.resident && (v.wk p.1).paging.isNone &&
    decide ((v.wk p.1).copies = []) && decide (p.2.cavesNeeded ≤ v.freeCaves.length)).map (·.1)

/-- The session whose last step is oldest, a tie to the lower ID. -/
def Vat.evictFirst (v : Vat) : Option Nat :=
  match v.evictable with
  | [] => none
  | a :: l => some (l.foldl (fun b c => if (v.sess c).lastStep < (v.sess b).lastStep then c else b) a)

/-- Give the dirty ordinals cave slots. -/
def giveCaves : List Nat → List BlockEnt → List BlockEnt
  | _, [] => []
  | free, b :: bs =>
    if b.dirty && b.cave.isNone then { b with cave := free.head? } :: giveCaves (free.drop 1) bs else b :: giveCaves free bs

/-- The blocks of an evicted session: paged-out ordinals keep their cave slots, the rest is dropped (R246). -/
def evictedBlocks (bs : List BlockEnt) : List BlockEnt :=
  bs.map fun b => ⟨none, b.cave, false, none⟩

/-- A session's HBM blocks and residency slot are freed. -/
def Session.evicted (r : Session) : Session := { r with blocks := evictedBlocks r.blocks, resSlot := 0xFFFF }

/-- A session that has left Idle since, or whose page-out a move asked for, keeps its blocks; nothing is dirty (R246, R281). -/
def Session.pagedOut (r : Session) : Session := { r with blocks := r.blocks.map fun b => { b with dirty := false } }

/-- The pool of the cave that holds a cave slot of this package (R249, R478). -/
def State.slotPool (s : State) (v : Vat) (c : Nat) : Nat :=
  match s.tagPieces v c with
  | p :: _ => ((s.extentAt ((p.1 - 2 ^ 48) / frameBytes)).map s.poolId).getD 0xFFFF
  | [] => 0xFFFF

/-- The entries of a page-out: dirty ordinals with their blocks and cave slots. -/
def pageOutEntries (bs : List BlockEnt) : List (List Byte) :=
  ((List.range bs.length).zip bs).filterMap fun p =>
    if p.2.dirty then some (pageEntryBytes p.1 1 (p.2.block.getD 0) (p.2.cave.getD 0)) else none

/-- The lease a page-out runs under: the session's, or the first one, held by the home's cave. -/
def State.leaseFor (s : State) (v : Vat) (r : Session) : Nat × Nat :=
  if r.holder = 0xFFFF then (r.epoch + 1, s.slotPool v (((r.blocks.head?).bind (·.cave)).getD 0)) else (r.epoch, r.holder)

/-- A session's dirty ordinals are paged out on every member, to cave slots allocated where they have none. -/
def State.pageOut (s : State) (vat i : Nat) : State :=
  match s.vat? vat with
  | none => s
  | some v =>
    let r := { v.sess i with blocks := giveCaves v.freeCaves (v.sess i).blocks }
    let l := s.leaseFor v r
    (s.onSess vat i fun _ => r).pageCommand vat i 1 l.1 l.2 (pageOutEntries r.blocks)

/-- The home evicts a session: at once where nothing is dirty, else by a page-out on every member. -/
def State.evictSess (s : State) (vat i : Nat) : State :=
  if (s.vat? vat).any fun v => (v.sess i).blocks.all fun b => !b.dirty then s.onSess vat i Session.evicted else s.pageOut vat i

/-- In the pause of a package move every home has its sessions' dirty shares paged out, the package that departs among the members; in the
prepare phase the package that is to depart begins with the sessions that do not generate (R281; DEDUCED, log entry 111). -/
def State.pausePages (s : State) (vat : Nat) : State :=
  match s.vat? vat with
  | none => s
  | some v =>
    let early := decide (v.state = .running ∨ v.state = .halted)
    if ¬(v.state = .remoulding ∨ early = true) ∨ (s.role vat).moveFor = none then s else
    v.sessions.foldl (fun t p => match t.vat? vat with
      | none => t
      | some u =>
        let r := u.sess p.1
        if early && decide (r.state = .ready) then t
        else if (u.wk p.1).copies ≠ [] then t.pageIn vat p.1
        else if (r.state = .idle ∨ r.state = .ready ∨ r.state = .faulted) ∧ (u.wk p.1).paging = none ∧ r.cavesNeeded ≤ u.freeCaves.length ∧
            (r.blocks.any fun b => b.dirty) = true then (t.withdraw vat p.1).pageOut vat p.1 else t) s

/-- After a package move no block holds every member's share: a session with rows that no cave holds is Orphaned with 0x0720, any other
is paged in before its next step (R251, R280; log entry 111). -/
def State.moveShares (s : State) (vat : Nat) : State :=
  match s.vat? vat with
  | none => s
  | some v => v.sessions.foldl (fun t p => match t.vat? vat with
      | none => t
      | some u =>
        let r := u.sess p.1
        if r.state = .free ∨ r.state = .orphaned then t
        else if r.blocks.any fun b => b.dirty then t.orphan vat p.1 0x0720
        else ((t.withdraw vat p.1).onSess vat p.1 fun r => { r with
          blocks := r.blocks.map fun b => { b with hbm := none } }).onWk vat p.1 fun w => { w with paging := none }) s

/-- SESSION_EVICTION (R246): the home needs room; the Idle resident session stepped longest ago leaves HBM. -/
def State.evictOne (s : State) (vat : Nat) : State :=
  match s.vat? vat with
  | none => s
  | some v =>
    if !s.lacksRoom v then s else
    match v.evictFirst with
    | some i => s.evictSess vat i
    | none => s

def execSessionEviction (vat : Nat) (s : State) : Host.Outcome State Fault Refusal := .next (s.evictOne vat)

/-! ### Leases (R248 to R250) -/

def tagBytes (present session epoch holder vat : Nat) : List Byte :=
  leBytes 2 0x1000 ++ leBytes 1 present ++ zeros 1 ++ leBytes 4 session ++ leBytes 4 epoch ++ leBytes 2 holder ++
    leBytes 2 vat ++ zeros 16

/-- A tag as R248 lays it out, its reserved fields zero (R9). -/
def tagWf (t : List Byte) : Bool :=
  decide (field t 0 2 = 0x1000 ∧ field t 2 1 < 2 ∧ field t 3 1 = 0 ∧ field t 0xE 2 < 4096) && (t.drop 16).all (· == 0)

/-- The tag of a cave slot is one of a session. -/
def State.tagNames (s : State) (v : Vat) (c session : Nat) : Bool :=
  let t := s.readPieces (s.tagPieces v c)
  tagWf t && decide (field t 4 4 = session)

/-- The tag of a cave slot names the session's epoch and this cave as holder (R249). -/
def State.tagOk (s : State) (v : Vat) (c session epoch : Nat) : Bool :=
  let t := s.readPieces (s.tagPieces v c)
  tagWf t && decide (field t 4 4 = session ∧ field t 8 4 = epoch ∧ field t 0xC 2 = s.slotPool v c)

def State.putTag (s : State) (v : Vat) (c present session epoch holder : Nat) : State :=
  s.writePieces (s.tagPieces v c) (tagBytes present session epoch holder v.desc.vatId)

/-- The winner among the claims of a share: the highest epoch, a tie to the lower pool (R250). -/
def claimWinner (tags : List TagClaim) (session : Nat) : Option TagClaim :=
  match tags.filter fun t => t.present && decide (t.session = session) with
  | [] => none
  | a :: l => some (l.foldl (fun b t =>
      if b.epoch < t.epoch ∨ (t.epoch = b.epoch ∧ t.pool < b.pool) then t else b) a)

/-! ### A member's page job (R245, R246, R264) -/

def VatRole.job (r : VatRole) (session : Nat) : Option PageJob := r.pageJobs.find? fun j => decide (j.session = session)

def State.onJob (s : State) (vat session : Nat) (f : PageJob → PageJob) : State :=
  s.onRole vat fun r => { r with pageJobs := r.pageJobs.map fun j => if j.session = session then f j else j }

/-- The first status of a job stays. -/
def State.failJob (s : State) (vat session st : Nat) : State :=
  s.onJob vat session fun j => { j with status := if j.status = 0 then st else j.status }

/-- The cave slots of a member's cave KV space (R248). -/
def Vat.caveSlots (v : Vat) : Nat := (v.mould.map fun m => kvCaves m v.lpkg).getD 0

/-- The claims of a share: every tag of the session in the member's own cave KV space, read from memory, and those found in reachable caves
outside it (R250). -/
def State.claims (s : State) (v : Vat) (session : Nat) (tags : List TagClaim) : List TagClaim :=
  ((List.range v.caveSlots).filter fun c => s.tagNames v c session).map (fun c =>
    let t := s.readPieces (s.tagPieces v c)
    ⟨c, decide (field t 2 1 = 1), session, field t 8 4, s.slotPool v c⟩) ++ tags.filter fun x => decide (v.caveSlots ≤ x.slot)

/-- The lease changes hands (R249): the tags of the old caves first, with `PRESENT` cleared, the new cave's last. A slot whose tag is another
session's by now is left alone. -/
def State.installLease (s : State) (v : Vat) (session epoch pool : Nat) (olds : List Nat) (slot present : Nat) : State :=
  ((olds.filter fun c => decide (c ≠ slot) && s.tagNames v c session).foldl (fun t c => t.putTag v c 0 session epoch pool) s).putTag
    v slot present session epoch pool

/-- A share is resolved from its claims: the winner is installed as holder with its epoch plus 1, no claim ends the job with 0x0720
(R250). The home on the same package learns the lease (log entry 67). -/
def State.resolveShare (s : State) (v : Vat) (session : Nat) (tags : List TagClaim) : State :=
  let vat := v.desc.vatId
  let cs := s.claims v session tags
  match claimWinner cs session with
  | none => s.failJob vat session 0x0720
  | some w =>
    let olds := ((cs.filter fun x => decide (x.session = session)).map (·.slot)) ++ (mapFind v.zeroSlot session).toList
    let t := s.installLease v session (w.epoch + 1) w.pool olds.eraseDups w.slot 1
    let t := (t.onVat vat fun v => { v with zeroSlot := mapPut v.zeroSlot session w.slot }).onRole vat fun r =>
      { r with resolve := r.resolve ++ [session] }
    let t := t.onJob vat session fun j => { j with
      entries := j.entries.map fun e => if e.ordinal = 0 then { e with caveSlot := w.slot } else e }
    if session / 2 ^ 18 = v.lpkg ∧ (v.sess (session % 2 ^ 18)).state ≠ .free then
      t.onSess vat (session % 2 ^ 18) fun r => { r with epoch := w.epoch + 1, holder := w.pool } else t

/-- The tag of a slot is of the session's lease `epoch` or a later one. -/
def State.tagHeld (s : State) (v : Vat) (c session epoch : Nat) : Bool :=
  s.tagNames v c session && decide (epoch ≤ field (s.readPieces (s.tagPieces v c)) 8 4)

/-- The lease check of a member before it moves a session's rows from or to its cave (R245, R249, R250): `old` is the slot of ordinal 0
that the member knew before. A page-out under an epoch that no tag of the session has reached installs a new lease (log entry 67). -/
def State.leaseCheck (s : State) (m : PageCmdMsg) (old : Option Nat) (tags : List TagClaim) : State :=
  match s.vat? m.vat with
  | none => s
  | some v =>
    if m.arg = 2 ∨ !m.entries.any (fun e => e.copy) then s
    else if (s.role m.vat).joined && !(s.role m.vat).resolve.contains m.session then s.resolveShare v m.session tags
    else match mapFind v.zeroSlot m.session with
      | none => s
      | some c =>
        if s.tagOk v c m.session m.epoch then s
        else if m.arg = 1 ∧ !s.tagHeld v c m.session m.epoch then
          s.installLease v m.session m.epoch (s.slotPool v c) old.toList c 0
        else s.resolveShare v m.session tags

/-- Zero the blocks an entry asks to (R244, R245). -/
def State.zeroEntries (s : State) (v : Vat) (es : List PageEntry) : State :=
  es.foldl (fun t e => if e.zero then t.writePieces (t.blockPieces v e.hbmBlock 0 65536) (zeros 65536) else t) s

/-- Enter blocks in a residency table entry. -/
def enterBlocks (l : List Nat) (es : List PageEntry) : List Nat :=
  es.foldl (fun l e => setNth (l ++ List.replicate (e.ordinal + 1 - l.length) 0) e.ordinal e.hbmBlock) l

/-- The rows of one position: (f, `LENGTH`) of every KV_WRITE PUTL of the package's microprograms (R254). -/
def kvRows (m : Mould) (l : Nat) : List (Nat × Nat) :=
  ((List.range (pkgCores (mPkg m l))).flatMap fun c => (List.range (mSteps m).length).flatMap fun k =>
    (coreIssues m l c k).filterMap fun x => match x.word with
      | some w => if opCode w = 0x1E ∧ (mLaneRef m (dmDst w)).1 = 2 then some (bits (dmVatAddr w) 15 0, dmLength w) else none
      | none => none).eraseDups

/-- The pieces of the row of a position: byte f + (p mod KV_BLOCK_POS) × LENGTH of its ordinal's block (R254). -/
def State.rowPieces (s : State) (v : Vat) (resSlot p : Nat) (fl : Nat × Nat) : Pieces :=
  let k := max 1 v.params.blockPos
  match (mapGet [] v.resTable resSlot)[p / k]? with
  | some b => s.blockPieces v b (fl.1 + p % k * fl.2) fl.2
  | none => []

/-- Copy every row of one position to another (R264). -/
def State.copyRows (s : State) (v : Vat) (resSlot frm into : Nat) : State :=
  match v.mould with
  | none => s
  | some m => (kvRows m v.lpkg).foldl (fun t fl =>
      t.writePieces (t.rowPieces v resSlot into fl) (t.readPieces (t.rowPieces v resSlot frm fl))) s

/-- What a page command of a session still waits for at the arbiters (R245, R319). -/
def State.pageWaits (s : State) (vat session : Nat) : Bool :=
  decide (s.qos.leftOf (fun w => match w with
    | .page v i _ => decide (v = vat ∧ i = session)
    | .keep v i => decide (v = vat ∧ i = session)
    | _ => false) ≠ 0)

/-- The requests of a page command that has been answered go. -/
def Qos.dropPage (q : Qos) (vat session : Nat) : Qos :=
  q.drop fun w => match w with
    | .page v i _ => decide (v = vat ∧ i = session)
    | .keep v i => decide (v = vat ∧ i = session)
    | _ => false

/-- A job whose transfers are done answers the home (R289); a page-out that succeeded marks the share complete (R248). -/
def State.jobDone (s : State) (vat session : Nat) : State :=
  match s.vat? vat, (s.role vat).job session with
  | some v, some j =>
    if j.last && (j.status ≠ 0 || (!s.pageWaits vat session && j.entries.all fun e => !e.copy)) then
      let t := match mapFind v.zeroSlot session with
        | some c => if j.arg = 1 ∧ j.status = 0 then
            let g := s.readPieces (s.tagPieces v c)
            s.putTag v c 1 session (field g 8 4) (field g 0xC 2) else s
        | none => s
      ((t.control v 0x0E (s.lpkgNode v (session / 2 ^ 18)) s.now j.status (leBytes 4 session)).onQos (·.dropPage vat session)).onRole vat fun r =>
        { r with pageJobs := r.pageJobs.filter fun j => decide (j.session ≠ session) }
    else s
  | _, _ => s

/-- The KV pull engine's requests for pieces of memory, in class 6 (R319, R326). -/
def State.pullAsk (s : State) (write : Bool) (ps : Pieces) (w : ArbWork) : State :=
  s.onQos fun q => ps.foldl (fun q p => q.bulk s.now 6 write p.1 p.2.1 w) q

/-- What a PAGE_CMD message asks of the arbiters (R245, R319): each share it moves, the tag read with ordinal 0, each block it zeroes, each
row it copies. -/
def State.askPages (s : State) (v : Vat) (m : PageCmdMsg) : State :=
  m.entries.foldl (fun t e =>
    let block := t.blockPieces v e.hbmBlock 0 65536
    if m.arg = 2 then (v.mould.elim [] fun u => kvRows u v.lpkg).foldl (fun t fl =>
      (t.pullAsk false (t.rowPieces v m.resSlot e.hbmBlock fl) (.keep m.vat m.session)).pullAsk true
        (t.rowPieces v m.resSlot e.caveSlot fl) (.keep m.vat m.session)) t
    else if e.copy then
      let t := (t.pullAsk (decide (m.arg = 0)) block (.page m.vat m.session e.ordinal)).pullAsk (decide (m.arg = 1))
        (t.cavePieces v e.caveSlot) (.page m.vat m.session e.ordinal)
      if e.ordinal = 0 then t.pullAsk false (t.tagPieces v e.caveSlot) (.keep m.vat m.session) else t
    else if e.zero then t.pullAsk true block (.keep m.vat m.session) else t) s

/-- A PAGE_CMD message registers its entries; zeroing and row copies take place, transfers follow one by one. -/
def State.takePageCmd (s : State) (m : PageCmdMsg) (tags : List TagClaim) : State :=
  match s.vat? m.vat with
  | none => s
  | some v =>
    if v.role ≠ .member then s else
    let isNew := ((s.role m.vat).job m.session).isNone
    let t := if isNew then
        s.onRole m.vat fun r => { r with pageJobs := r.pageJobs ++ [⟨m.session, m.resSlot, m.arg, [], false, 0⟩] } else s
    let t := t.onJob m.vat m.session fun j => { j with entries := if m.arg = 2 then j.entries else j.entries ++ m.entries, last := m.last }
    let t := if m.arg = 0 then t.onVat m.vat fun v => { v with
        resTable := mapPut v.resTable m.resSlot (enterBlocks (if isNew then [] else mapGet [] v.resTable m.resSlot) m.entries) } else t
    let t := (m.entries.filter fun e => decide (e.ordinal = 0) && e.copy && decide (m.arg ≠ 2)).foldl (fun t e =>
      t.onVat m.vat fun v => { v with zeroSlot := mapPut v.zeroSlot m.session e.caveSlot }) t
    let t := if m.arg = 0 then t.zeroEntries v m.entries else t
    let t := if m.arg = 2 then m.entries.foldl (fun t e => t.copyRows v m.resSlot e.hbmBlock e.caveSlot) t else t
    ((t.leaseCheck m (mapFind v.zeroSlot m.session) tags).askPages v m).jobDone m.vat m.session

/-- PAGE_CMD (R245, R246, R264). -/
def execPageCmd (m : PageCmdMsg) (tags : List TagClaim) (s : State) : Host.Outcome State Fault Refusal :=
  .next (if !m.hdr.ok then s else s.takePageCmd m tags)

/-- The status of the transfer of one share (R247, R367): a retiring slot, a Lost extent, or an uncorrectable read. -/
def State.transferStatus (s : State) (v : Vat) (e : PageEntry) (toCave : Bool) (ecc : Ecc) : Nat :=
  let cs := s.cavePieces v e.caveSlot
  if !s.piecesOpen cs then 0x0821 else
  match (cs.map fun p => s.caveStatus ((p.1 - 2 ^ 48) / frameBytes) 1).find? (· ≠ 0) with
  | some st => st
  | none => if ecc = .uncorrectable then (if toCave then 0x0560 else 0x0562) else 0

/-- One share moves between its block and its cave slot once its bursts have been granted (R245, R246, R326). -/
def State.pageTransfer (s : State) (vat session ordinal : Nat) (toCave : Bool) (ecc : Ecc) : State :=
  match s.vat? vat, (s.role vat).job session with
  | some v, some j =>
    if j.arg ≠ b2n toCave ∨ j.status ≠ 0 ∨ s.qos.leftOf (fun w => decide (w = .page vat session ordinal)) ≠ 0 then s else
    match j.entries.find? fun e => decide (e.ordinal = ordinal) && e.copy with
    | none => s
    | some e =>
      let st := s.transferStatus v e toCave ecc
      let bp := s.blockPieces v e.hbmBlock 0 65536
      let cp := s.cavePieces v e.caveSlot
      let t := if st ≠ 0 then s.failJob vat session st
        else if toCave then s.writePieces cp (s.readPieces bp) else s.writePieces bp (s.readPieces cp)
      let t := if st ≠ 0 ∨ session / 2 ^ 18 ≠ v.lpkg then t else t.pieceActivity (v.sess (session % 2 ^ 18)).ctx (bp ++ cp)
      (t.onJob vat session fun j => { j with
        entries := j.entries.map fun e => if e.ordinal = ordinal then { e with copy := false } else e }).jobDone vat session
  | _, _ => s

/-- KV_PAGE_TRANSFER (R245, R247). -/
def execKvPageTransfer (vat session ordinal : Nat) (toCave : Bool) (ecc : Ecc) (s : State) : Host.Outcome State Fault Refusal :=
  .next (if s.power.cellar = .awake then s.pageTransfer vat session ordinal toCave ecc else s)

/-! ### Acknowledgements at the home (R245 to R247) -/

/-- A page command has been answered by every member. -/
def State.paged (s : State) (vat i arg : Nat) : State :=
  match s.vat? vat with
  | none => s
  | some v =>
    let r := v.sess i
    let t := s.onWk vat i fun w => { w with paging := none, copies := if arg = 2 then [] else w.copies }
    if arg = 0 then t.onSess vat i fun r => { r with blocks := r.blocks.map fun b => { b with hbm := b.block } }
    else if arg = 1 then
      let l := s.leaseFor v r
      t.onSess vat i fun r =>
        { (if r.state = .idle ∧ v.state ≠ .remoulding ∧ (s.role vat).moveFor = none then r.evicted else r.pagedOut) with epoch := l.1, holder := l.2 }
    else if v.state = .remoulding then t.pausePages vat else t

/-- The home takes a PAGE_ACK: a failing member orphans the session (R245, R247). -/
def State.takePageAck (s : State) (vat session lpkg status : Nat) : State :=
  match s.vat? vat with
  | none => s
  | some v =>
    let i := session % 2 ^ 18
    if session / 2 ^ 18 ≠ v.lpkg ∨ v.role ≠ .member then s else
    match (v.wk i).paging with
    | none => s
    | some (arg, left) =>
      if !left.contains lpkg then s
      else if status = 0x0720 then s.orphan vat i status
      else if status ≠ 0 then s.orphanFreed vat i status
      else
        let left := left.filter (· ≠ lpkg)
        if left = [] then s.paged vat i arg else s.onWk vat i fun w => { w with paging := some (arg, left) }

/-- PAGE_ACK (R245, R247). -/
def execPageAck (vat : Headed) (session lpkg status : Nat) (s : State) : Host.Outcome State Fault Refusal :=
  .next (if !vat.ok then s else s.takePageAck vat.val session lpkg status)

end Sys2Proof.Machine
end

