-- ==== Sys2Proof/Machine/Steps.lean ====
section
/-! DEFINITION. Steps (R19 to R24, R151): the lane table at the head (R252, R253, R321 to R323, R403, R426), the start of a step,
the sampler (R256 to R264), the commit (R240, R241), the outcome (R407, R408) and the boundary (R401). -/

namespace Sys2Proof.Machine
open Sys2Proof

/-! ### Choosing a step at the head -/

/-- The package may start steps (R143). -/
def State.canStep (s : State) : Bool := decide (s.tick.lock = .locked) && s.tick.aligned

/-- `a` is the better entry for a count (R252 step 2): the smallest `TOKENS` that suffices, else the largest; then the fewest lanes. -/
def entryBefore (count : Nat) (a b : StepEnt) : Bool :=
  if count ≤ a.tokens then
    decide (b.tokens < count) || decide (a.tokens < b.tokens ∨ (a.tokens = b.tokens ∧ a.lanes < b.lanes))
  else decide (b.tokens < count) && decide (b.tokens < a.tokens ∨ (a.tokens = b.tokens ∧ a.lanes < b.lanes))

/-- The entry of a kind for a count. -/
def chooseEntry (es : List (Nat × StepEnt)) (kind count : Nat) : Option (Nat × StepEnt) :=
  match es.filter fun p => decide (p.2.kind = kind) with
  | [] => none
  | a :: l => some (l.foldl (fun b p => if entryBefore count p.2 b.2 then p else b) a)

/-- Oldest offers first: by `ELIGIBLE_TICK`, then session ID. -/
def offerInsert (x : Offer) : List Offer → List Offer
  | [] => [x]
  | y :: l => if x.eligible < y.eligible ∨ (x.eligible = y.eligible ∧ x.session < y.session) then x :: y :: l
      else y :: offerInsert x l

def offerOrder (l : List Offer) : List Offer := l.foldr offerInsert []

/-- The entry that the oldest of some offers takes. -/
def pickKind (es : List (Nat × StepEnt)) (os : List Offer) : Option (Nat × StepEnt) :=
  os.findSome? fun o => chooseEntry es o.kind o.count

/-- What a head freezes: step ID and entry, the offers that may fill it, the context replayed. -/
structure StepPlan where
  id    : Nat
  entry : StepEnt
  cands : List Offer
  ctx   : Option Nat
  deriving DecidableEq, Repr

/-- A vat's sharing mode: the lowest valid entry that names it (R335). -/
def State.partMode (s : State) (vat : Nat) : Bool :=
  (((s.qos.active.vats.find? fun e => e.1 && decide (e.2.2 = vat)).map (·.2.1)).getD 0) == 1

def State.partCfg (s : State) (p : Nat) : PartCfg := mapGet PartCfg.reset s.qos.active.parts p

/-- Whether the sessions of a replay's suspect are still Placed in the step in progress. -/
def Vat.stillPlaced (v : Vat) (sids : List Nat) : Bool :=
  v.step.any fun r => r.table.lanes.any fun l => sids.contains l.session

/-- The next suspect of a replay (R403): nothing to do, wait for a boundary with rest Ticks, or a plan with the suspects left. -/
inductive ReplayNext
  | past
  | wait
  | run (plan : StepPlan) (left : List Nat)
  deriving DecidableEq, Repr

def nextSuspect (v : Vat) (es : List (Nat × StepEnt)) (os : List Offer) (sess : SMap (List Nat)) : List Nat → ReplayNext
  | [] => .past
  | c :: cs =>
    let sids := mapGet [] sess c
    if v.stillPlaced sids then .wait else
    let mine := os.filter fun o => sids.contains o.session
    match pickKind es mine with
    | some e => .run ⟨e.1, e.2, mine, some c⟩ cs
    | none => nextSuspect v es os sess cs

/-- A replay that ended without a stall counts the stalls that began it (R404). -/
def State.replayEnd (s : State) (vat : Nat) : State :=
  match (s.role vat).replay with
  | none => s
  | some r =>
    let t := if r.stalls = 0 then r.origin.foldl (fun t c => t.coreError c 4) s else s
    t.onRole vat fun o => { o with replay := none }

/-- End a slice with an overrun (R322). -/
def State.endSlice (s : State) (vat : Nat) (past : Nat) : State :=
  match (s.role vat).slice with
  | none => s
  | some sl =>
    (s.onQos fun q => { q with overruns := mapSet 0 q.overruns sl.part past }).onRole vat fun r =>
      { r with slice := none, lastPart := sl.part }

/-- The next partition in rotation that has an eligible offer and a slice. -/
def State.nextPart (s : State) (last : Nat) (parts : List Nat) : Option Nat :=
  ((List.range 16).map fun k => (last + 1 + k) % 16).find? fun p =>
    parts.contains p && decide ((s.partCfg p).sliceTicks ≠ 0)

/-- The slice in force at a freeze (R322, R323). -/
def State.rotate (s : State) (vat : Nat) (os : List Offer) : State :=
  if s.partMode vat then
    let s := if (s.role vat).wasPart then s else s.onRole vat fun r => { r with wasPart := true, slice := none, lastPart := 15 }
    let parts := os.map (·.partition)
    let s := match (s.role vat).slice with
      | some sl =>
        if sl.budget ≤ sl.elapsed then s.endSlice vat (sl.elapsed - sl.budget)
        else if !parts.contains sl.part then s.endSlice vat 0 else s
      | none => s
    match (s.role vat).slice with
    | some _ => s
    | none => match s.nextPart (s.role vat).lastPart parts with
      | none => s
      | some p => s.onRole vat fun r => { r with
          slice := some ⟨p, (s.partCfg p).sliceTicks - mapGet 0 s.qos.overruns p, 0⟩ }
  else if (s.role vat).wasPart then (s.endSlice vat 0).onRole vat fun r => { r with wasPart := false }
  else s

/-- The plan outside replay: the offers of the slice, or all of them. -/
def State.plainPlan (s : State) (vat : Nat) (es : List (Nat × StepEnt)) (os : List Offer) : Option StepPlan :=
  let mine := if s.partMode vat then
      match (s.role vat).slice with
      | some sl => os.filter fun o => decide (o.partition = sl.part)
      | none => []
    else os
  (pickKind es mine).map fun e => ⟨e.1, e.2, mine, none⟩

/-- What the head does at a freeze: the state with its replay and rotation moved on, and the plan if there is one (R252, R322, R403). -/
def State.planStep (s : State) (vat : Nat) (v : Vat) (es : List (Nat × StepEnt)) : State × Option StepPlan :=
  let os := offerOrder v.offers
  let plain := fun (s : State) => let t := s.rotate vat os; (t, t.plainPlan vat es os)
  match (s.role vat).replay with
  | none => plain s
  | some r =>
    if r.closing then plain s else
    match nextSuspect v es os r.sessions r.suspects with
    | .wait => (s, none)
    | .run p left => (s.onRole vat fun o => { o with replay := o.replay.map fun r => { r with suspects := left, frozen := p.ctx } }, some p)
    | .past =>
      if r.running.isSome ∨ r.frozen.isSome then
        plain (s.onRole vat fun o => { o with replay := o.replay.map fun r => { r with suspects := [], closing := true } })
      else plain (s.replayEnd vat)

/-! ### Placing sessions -/

/-- The inputs of a session's next step: the pending token, then input tokens read from the buffer now (R238, R239). -/
def State.inputs (s : State) (r : Session) (w : SessWork) (n : Nat) : List Nat :=
  let head := match r.pend with
    | some t => [t]
    | none => []
  let k := min (n - head.length) (r.inCount - r.inDone)
  (head ++ tokensOf4 (s.readPieces (slicePieces w.inTile (4 * r.inDone) (4 * k))) k).take n
where
  tokensOf4 (bs : List Byte) (n : Nat) : List Nat := (List.range n).map fun i => field bs (4 * i) 4

/-- The count of a lane (R239, R252): the tree's nodes or a PREFILL chunk, each as `TOKENS` allows, else one. -/
def laneCount (r : Session) (kind tokens : Nat) : Nat :=
  if kind = 4 then min r.tree.length tokens else if kind = 2 then min (max r.left 1) tokens else 1

/-- The lane of a session of this package. -/
def State.laneOf (s : State) (v : Vat) (i kind tokens : Nat) : Lane :=
  let r := v.sess i
  let w := v.wk i
  let n := laneCount r kind tokens
  let ins := s.inputs r w (if kind = 4 then 1 else n)
  { session := v.sid i, posBase := r.len, resSlot := r.resSlot, count := n,
    parents := if kind = 4 then (r.tree.take n).map (·.parent) else [],
    tokens := if kind = 4 then ins ++ ((r.tree.take n).drop 1).map (·.token) else ins }

/-- The home's record as a lane freezes it: Placed, its offer gone, the parameters taken, a VERIFY step's tree consumed, of which the lane runs
what it holds (R236, R252, R259, R260). -/
def State.placeSess (s : State) (vat i kind start : Nat) (l : Lane) : State :=
  match s.vat? vat with
  | none => s
  | some v =>
    let r := v.sess i
    let run := if kind = 4 then
        match r.tree.take l.count with
        | a :: tr => { a with token := nth 0 l.tokens 0, parent := 0 } :: tr
        | [] => []
      else []
    (s.onSess vat i fun r => { r with
      state := .placed, lastStep := start, tree := if kind = 4 then [] else r.tree }).onWk vat i fun w => { w with
      offered := none, sampling := some ⟨r.seed, r.temp, r.topP, r.minP, r.topK, r.rule⟩,
      bias := mapGet [] s.objs.bias r.biasSet, stops := r.stop, runTree := run }

/-- A session may be frozen into a lane of a kind. -/
def State.canPlace (s : State) (v : Vat) (i kind : Nat) : Bool :=
  s.eligible v i && (kind != 4 || decide ((v.sess i).tree ≠ []))

/-- Fill the lanes with offers of a kind, oldest first, within the lane limits (R252, R321); a replay overrides the limits. -/
def State.fillLanes (s : State) (v : Vat) (p : StepPlan) : List Offer :=
  (p.cands.foldl (fun (acc : List Offer) o =>
    let lim := (s.partCfg o.partition).laneLimit
    let mine := acc.filter fun x => decide (x.partition = o.partition)
    if p.entry.lanes ≤ acc.length ∨ o.kind ≠ p.entry.kind then acc
    else if p.ctx = none ∧ lim ≠ 0 ∧ lim ≤ mine.length then acc
    else if o.session / 2 ^ 18 = v.lpkg ∧ !s.canPlace v (o.session % 2 ^ 18) p.entry.kind then acc
    else acc ++ [o]) [])

/-- A lane for an offer: this package's own in full. Of another home's the head knows the session and the count; the home sends the rest of
its lanes itself, and the head's message holds 0 there (DESIGN CHOICE, log entry 120). -/
def State.offerLane (s : State) (v : Vat) (p : StepPlan) (o : Offer) : Lane :=
  if o.session / 2 ^ 18 = v.lpkg then s.laneOf v (o.session % 2 ^ 18) p.entry.kind p.entry.tokens
  else ⟨o.session, 0, 0, min o.count p.entry.tokens, [], []⟩

/-- Freeze a lane table that starts at a Tick (R22, R252). -/
def State.freezeTable (s : State) (vat start : Nat) (p : StepPlan) (os : List Offer) : State :=
  match s.vat? vat with
  | none => s
  | some v =>
    let lanes := os.map (s.offerLane v p)
    let gone := os.map (·.session)
    let t := s.onVat vat fun v => { v with
      frozen := some ⟨start, p.id, lanes, p.ctx.isSome⟩, offers := v.offers.filter fun o => !gone.contains o.session }
    let t := t.onRole vat fun r => { r with laneCtx := os.foldl (fun m o => mapPut m o.session o.ctx) r.laneCtx }
    (lanes.filter fun l => decide (l.session / 2 ^ 18 = v.lpkg)).foldl (fun t l =>
      t.placeSess vat (l.session % 2 ^ 18) p.entry.kind start l) t

/-- Rest Ticks cut at a gear change Tick inside them (R149). -/
def State.cutAtChange (s : State) (b r after : Nat) : Nat :=
  match s.tick.change with
  | some t => if b < t ∧ t < b + after then t - b else r
  | none => r

/-- Rest Ticks still owed before a step of length L (R426). -/
def State.restOwed (s : State) (v : Vat) (len : Nat) : Nat :=
  let r := s.role v.desc.vatId
  let nodes := (List.range v.packages).map (s.lpkgNode v)
  let f := maxNat ((r.restReq.filter fun p => nodes.contains p.1).map (·.2))
  let rp := max 1 ((v.mould.map mRefreshPeriod).getD 1)
  if f = 0 then 0 else rp * ceilDiv (len * f) ((64 - f) * rp) - r.credit

/-- The length of the rest Ticks announced in place of a step (R151): the last step's, else the first entry's of the variant. -/
def idleLength (r : VatRole) (es : List (Nat × StepEnt)) : Nat :=
  if r.lastLen ≠ 0 then r.lastLen else ((es.head?).map fun p => p.2.length).getD 1

/-- The next step starts later by rest Ticks, which count toward R (R151, R426). -/
def State.insertRest (s : State) (vat n : Nat) : State :=
  (s.onVat vat fun v => { v with boundary := v.boundary + n }).onRole vat fun r => { r with credit := r.credit + n }

/-- The vat runs steps, or starts at a Tick announced. -/
def State.vatRuns (s : State) (v : Vat) : Bool := decide (v.state = .running) || (s.role v.desc.vatId).started.isSome

/-- A halt is due at or before a boundary. -/
def VatRole.halting (r : VatRole) (b : Nat) : Bool := r.haltAt.any fun h => decide (h ≤ b)

/-- The freeze Tick of the head's next step is now. -/
def State.freezeDue (s : State) (v : Vat) : Bool :=
  match v.mould with
  | none => false
  | some m =>
    let es := gearSteps m (s.gearAt v.boundary)
    v.isHead && s.vatRuns v && v.frozen.isNone && s.canStep && !(s.role v.desc.vatId).halting v.boundary &&
      decide (es ≠ [] ∧ s.now + freezeLead es = v.boundary)

/-- The page-ins of the sessions homed here whose deadline is this freeze Tick (R331): the first at least `KV_LEAD` Ticks after the
page command. -/
def State.checkPageIns (s : State) (vat freeze : Nat) : State :=
  match s.vat? vat with
  | none => s
  | some v => v.work.foldl (fun t p =>
      match p.2.pageFrom with
      | none => t
      | some x =>
        if freeze < x + s.qos.active.kvLead then t else
        let t := t.onWk vat p.1 fun w => { w with pageFrom := none }
        if (v.sess p.1).blocks.all fun b => b.hbm.isSome then t else t.missGuarantee true 0x02 (v.sid p.1)) s

/-! ### The announced table (R19, R253) -/

/-- One entry of the lane table. -/
def laneEntry (l : Lane) : List Byte :=
  leBytes 4 l.session ++ leBytes 4 l.posBase ++ leBytes 2 l.resSlot ++ leBytes 2 l.count ++ leBytes 4 0

/-- A lane's parent row, in VERIFY steps only, and its token row. -/
def laneRows (e : StepEnt) (l : Lane) : List Byte :=
  (if e.kind = 4 then (List.range 64).flatMap fun n => leBytes 1 (nth 0 l.parents n) else []) ++
    (List.range e.tokens).flatMap fun n => leBytes 4 (nth 0 l.tokens n)

/-- The lane table as it reaches every member: `LANES` entries, null lanes past the lanes filled, then the rows. -/
def laneTableBytes (e : StepEnt) (lanes : List Lane) : List Byte :=
  let all := lanes ++ List.replicate (e.lanes - lanes.length) ⟨0xFFFFFFFF, 0, 0, 0, [], []⟩
  all.flatMap laneEntry ++ all.flatMap (laneRows e)

/-- The head announces S with the step's lane table to every other member, and so does a home with lanes in it, which alone reads their token
rows (R19, R238, R253; the message's form is a DESIGN CHOICE, log entry 120); as control traffic it passes Fenced ports (R177). -/
def State.announce (s : State) (vat : Nat) : State :=
  match (s.vat? vat).bind fun v => (v.mould.bind fun m => v.frozen.map fun t => (m, t)).map fun q => (v, q) with
  | none => s
  | some (v, m, t) =>
    ((List.range v.packages).filter fun l => decide (l ≠ v.lpkg)).foldl (fun s l =>
      s.sendWhey 7 "LANE_TABLE" (s.lpkgNode v l) [vat, t.start, t.stepId, b2n t.replay] (laneTableBytes (mStep m t.stepId) t.lanes)) s

/-- What a head does at its freeze Tick. -/
def State.freeze (s : State) (vat : Nat) : State :=
  let s := s.checkPageIns vat s.now
  match (s.vat? vat).bind fun v => v.mould.map fun m => (v, m) with
  | none => s
  | some (v, m) =>
    let b := v.boundary
    let es := gearSteps m (s.gearAt b)
    let q := s.planStep vat v es
    match q.2 with
    | none =>
      let n := idleLength (s.role vat) es
      q.1.insertRest vat (s.cutAtChange b n n)
    | some p =>
      let r := s.restOwed v p.entry.length
      let r := s.cutAtChange b r (r + p.entry.length)
      if r ≠ 0 then s.insertRest vat r
      else
        let os := q.1.fillLanes v p
        if os = [] then
          let n := p.entry.length
          q.1.insertRest vat (s.cutAtChange b n n)
        else (((q.1.freezeTable vat b p os).commitGear m p.id b)).announce vat

/-- Now is the freeze Tick of the step that a member's head announces (R22). -/
def State.announceDue (s : State) (v : Vat) (a : LaneTable) : Bool :=
  match v.mould with
  | none => false
  | some m =>
    let es := gearSteps m (s.stepGear m a.stepId)
    v.isMember && !v.isHead && s.vatRuns v && v.frozen.isNone && s.canStep && !(s.role v.desc.vatId).halting a.start &&
      decide (a.stepId < (mSteps m).length ∧ a.lanes.length ≤ (mStep m a.stepId).lanes ∧ s.now + freezeLead es = a.start)

/-- The sessions homed on a member that is not the head are placed as the announced lanes name them, with the inputs read now. -/
def State.placeAnnounced (s : State) (vat : Nat) (v : Vat) (e : StepEnt) (a : LaneTable) : State × List Lane :=
  a.lanes.foldl (fun (acc : State × List Lane) l =>
    let i := l.session % 2 ^ 18
    if l.session / 2 ^ 18 ≠ v.lpkg ∨ !acc.1.canPlace v i e.kind then (acc.1, acc.2 ++ [l])
    else
      let mine := acc.1.laneOf v i e.kind e.tokens
      (acc.1.placeSess vat i e.kind a.start mine, acc.2 ++ [mine])) (s, [])

/-- The table frozen on a member that is not the head (R22); its own lanes go to every member (R238). -/
def State.freezeAnnounced (s : State) (vat : Nat) (a : LaneTable) : State :=
  let s := s.checkPageIns vat s.now
  match (s.vat? vat).bind fun v => v.mould.map fun m => (v, m) with
  | none => s
  | some (v, m) =>
    let q := s.placeAnnounced vat v (mStep m a.stepId) a
    let t := (q.1.onVat vat fun v => { v with frozen := some { a with lanes := q.2 } }).commitGear m a.stepId a.start
    if a.lanes.any fun l => decide (l.session / 2 ^ 18 = v.lpkg) then t.announce vat else t

/-- A freeze Tick at which a member's head announces rest Ticks in place of a step (R151): deadlines are judged all the same (R331). -/
def State.restDue (s : State) (v : Vat) : Bool := v.isMember && !v.isHead && s.vatRuns v && v.frozen.isNone && s.canStep

/-- LANE_TABLE_FREEZE (R22, R252): the head builds and announces the table; another member freezes its sessions' lanes as announced. -/
def execLaneTableFreeze (vat : Freeze) (s : State) : Host.Outcome State Fault Refusal :=
  .next (if (s.vat? vat.id).any s.freezeDue then s.freeze vat.id
    else match vat.announced with
      | some a => if (s.vat? vat.id).any fun v => s.announceDue v a then s.freezeAnnounced vat.id a else s
      | none => if (s.vat? vat.id).any s.restDue then s.checkPageIns vat.id s.now else s)

/-! ### Starting a step -/

/-- The lanes as they start: those of this package from its own freeze, another home's as announced. -/
def mergeLanes (lpkg : Nat) (frozen announced : List Lane) : List Lane :=
  frozen.map fun l => if l.session / 2 ^ 18 = lpkg then l else (announced.find? fun a => decide (a.session = l.session)).getD l

/-- A member may start the step announced (R19, R143, R401). -/
def State.startDue (s : State) (v : Vat) (a : LaneTable) : Bool :=
  let r := s.role v.desc.vatId
  match v.mould with
  | none => false
  | some m =>
    v.isMember && s.vatRuns v && v.step.isNone && r.hangAt.isNone && s.canStep && decide (s.now = a.start) && !r.halting a.start &&
      decide (a.stepId < (mSteps m).length ∧ a.lanes.length ≤ (mStep m a.stepId).lanes) &&
      decide ((mStep m a.stepId).variant = (mVariantOf m s.tick.gear).getD 256 ∨ s.tick.lostAt = some a.start) &&
      (match v.frozen with
        | some f => decide (f.start = a.start ∧ f.stepId = a.stepId)
        | none => !v.isHead)

/-- The contexts of the lanes of a step, as the head knows them and for sessions homed here. -/
def State.laneContexts (s : State) (vat : Nat) (v : Vat) (lanes : List Lane) : List Nat :=
  firsts (lanes.filterMap fun l =>
    if l.session / 2 ^ 18 = v.lpkg ∧ (v.sess (l.session % 2 ^ 18)).state ≠ .free then some (v.sess (l.session % 2 ^ 18)).ctx
    else mapFind (s.role vat).laneCtx l.session)

/-- The step starts (R19): the vat is Running, its rest Ticks are metered, the slice is charged (R322). -/
def State.startStep (s : State) (vat : Nat) (a : LaneTable) : State :=
  match (s.vat? vat).bind fun v => v.mould.map fun m => (v, m) with
  | none => s
  | some (v, m) =>
    let e := mStep m a.stepId
    let lanes := match v.frozen with
      | some f => mergeLanes v.lpkg f.lanes a.lanes
      | none => a.lanes
    let replay := (v.frozen.map (·.replay)).getD a.replay
    let t := s.closeRest vat
    let t := t.onVat vat fun v => { v with
      state := .running, frozen := none, boundary := a.start + e.length,
      step := some ⟨⟨a.start, a.stepId, lanes, replay⟩, e.kind, e.tokens, e.length, false,
        if s.tick.lostAt = some a.start then [⟨0x0603, s.now, s.source 0, 0⟩] else [], [], [], false, [], 0⟩ }
    t.onRole vat fun r => { r with
      recent := (s.laneContexts vat v lanes :: r.recent).take 2,
      lastStep := ((s.role vat).owed.map fun x => (x.1, (mStep m x.2).length, x.2)).or r.lastStep,
      credit := 0, lastLen := e.length, started := none, owed := none, hangAt := some (a.start + 20 * e.length),
      slice := r.slice.map fun sl => if replay then sl else { sl with elapsed := sl.elapsed + e.length },
      replay := r.replay.map fun x => if replay then { x with running := x.frozen, frozen := none, verdict := 0 } else x }

/-- The package does not start the announced step, having no Tick or a boundary unmarked, and owes its curd slots (R143, R401). -/
def State.owesStep (s : State) (v : Vat) (a : LaneTable) : Bool :=
  v.isMember && s.vatRuns v && v.step.isNone && decide (s.now = a.start) && ((s.role v.desc.vatId).hangAt.isSome || !s.canStep) &&
    v.mould.any fun m => decide (a.stepId < (mSteps m).length)

/-- The package owes the curd slots of a step it does not start; one it owed before is over (R143, R190). -/
def State.owe (s : State) (vat : Nat) (a : LaneTable) : State :=
  let m := (s.vat? vat).bind (·.mould)
  s.onRole vat fun r => { r with
    lastStep := (r.owed.bind fun x => m.map fun m => (x.1, (mStep m x.2).length, x.2)).or r.lastStep
    owed := some (a.start, a.stepId) }

/-- STEP_START (R19). -/
def execStepStart (vat : Nat) (a : LaneTable) (s : State) : Host.Outcome State Fault Refusal :=
  .next (if (s.vat? vat).any fun v => s.startDue v a then s.startStep vat a
    else if (s.vat? vat).any fun v => s.owesStep v a then
      (s.dropFrozen vat).owe vat a
    else s)

/-! ### Stalls and replay (R400, R403, R404) -/

/-- A stall outside a replay starts one, or adds its suspects (R403): the contexts with a session in a lane of the step. -/
def State.replayBegin (s : State) (vat : Nat) (cores : List Nat) : State :=
  match (s.vat? vat).bind (·.step) with
  | none => s
  | some run =>
    let r := s.role vat
    let ctxs := run.table.lanes.map fun l => (mapGet 0 r.laneCtx l.session, l.session)
    if ctxs = [] then s else
    let old := r.replay.getD ⟨[], [], none, none, 0, 0, [], false⟩
    let names := (List.range 4096).filter fun c => ctxs.any fun p => decide (p.1 = c)
    let sess := ctxs.foldl (fun m p => mapPut m p.1 (mapGet [] m p.1 ++ [p.2]).eraseDups) old.sessions
    let t := if r.replay.isSome then s else s.onFlt fun f => { f with replays := sat32 f.replays 1 }
    t.onRole vat fun r => { r with replay := some { old with
      suspects := old.suspects ++ names.filter fun c => !old.suspects.contains c,
      sessions := sess, origin := (old.origin ++ cores).eraseDups, closing := false } }

/-- A stall in a replay step (R404): the first convicts the suspect; the second retires the core and ends the replay. -/
def State.replayStall (s : State) (vat : Nat) (core : Option Nat) : State :=
  match (s.role vat).replay with
  | none => s
  | some r =>
    if 1 ≤ r.stalls then
      let t := s.onRole vat fun o => { o with replay := some { r with
        stalls := r.stalls + 1, verdict := 2, suspects := [], closing := true } }
      match core with
      | some c => t.retireCore c 5
      | none => t
    else s.onRole vat fun o => { o with replay := some { r with stalls := 1, verdict := 1 } }

/-- A core has stalled at a Tick edge of its step (R400). -/
def State.coreStall (s : State) (st : Stall) : State :=
  match s.coreVat st.core with
  | none => s
  | some vat =>
    match (s.vat? vat).bind fun v => v.step.map fun r => (v, r) with
    | none => s
    | some (v, r) =>
      if (s.core st.core).state ≠ .bound then s else
      let t := (s.beginReset 1 st.core 0x0610).onFlt fun f => { f with stalls := sat32 f.stalls 1 }
      let t := t.faultLog vat (logRecord 0x0610 s.links.node (s.logicalOf st.core) st.core st.expected r.table.start st.unit
        (s.errorsIn true st.core 4 + 1) 2)
      let t := t.onVat vat fun v => { v with step := v.step.map fun r => { r with stalled := r.stalled ++ [st.core] } }
      if r.table.replay then
        let t := t.failStep vat ⟨0x0610, s.now, s.source (0x30 + st.core / 256), 0⟩
        if v.isHead then t.replayStall vat (some st.core) else t
      else if v.isHead then t.replayBegin vat [st.core] else t

/-! ### The sampler (R256 to R264) -/

/-- Set `k` of a lane in `CAND_REGION`, and its 8,192 bytes. -/
def Vat.candPieces (v : Vat) (sets lane k : Nat) : Pieces := v.regionPieces v.params.candReg ((lane * sets + k) * 8192) 8192 1
def State.candBytes (s : State) (v : Vat) (sets lane k : Nat) : List Byte := s.readPieces (v.candPieces sets lane k)

/-- The draw of a lane of this package. -/
def State.drawLane (s : State) (v : Vat) (run : StepRun) (idx : Nat) (l : Lane) : LaneDraw :=
  let i := l.session % 2 ^ 18
  let r := v.sess i
  let w := v.wk i
  let p := w.sampling.getD ⟨0, 0, 0, 0, 0, 0⟩
  let vocab := (v.mould.map mVocab).getD 0
  if run.kind = 4 then
    match verifyTree p l.posBase w.runTree (fun k => candSet (s.candBytes v run.tokens idx k) vocab) w.bias with
    | some (ts, path) => if r.produced < r.maxNew then ⟨idx, some ts, path⟩ else ⟨idx, some [], []⟩
    | none => ⟨idx, if r.produced < r.maxNew then none else some [], []⟩
  else if run.kind ≠ 3 ∧ r.left ≤ l.count ∧ r.produced < r.maxNew then
    match drawToken p l.posBase 0 0 (candSet (s.candBytes v 1 idx 0) vocab) w.bias with
    | some t => ⟨idx, some [t], []⟩
    | none => ⟨idx, none, []⟩
  else ⟨idx, some [], []⟩

/-- The lanes of a step whose sessions live on this package and are Placed. -/
def Vat.homeLanes (v : Vat) (run : StepRun) : List (Nat × Lane) :=
  ((List.range run.table.lanes.length).zip run.table.lanes).filter fun p =>
    decide (p.2.session / 2 ^ 18 = v.lpkg ∧ (v.sess (p.2.session % 2 ^ 18)).state = .placed)

/-- The draws of a step: those made already, the rest made now. -/
def State.drawAll (s : State) (v : Vat) (run : StepRun) : List LaneDraw :=
  (v.homeLanes run).map fun p => (run.draws.find? fun d => decide (d.lane = p.1)).getD (s.drawLane v run p.1 p.2)

/-- The candidate sets the sampler reads for the lanes it has not drawn for yet. -/
def Vat.setsRead (v : Vat) (run : StepRun) : Pieces :=
  ((v.homeLanes run).filter fun p => !(run.draws.any fun d => decide (d.lane = p.1))).flatMap fun p =>
    let n := if run.kind = 4 then run.tokens else 1
    (List.range n).flatMap (v.candPieces n p.1)

/-- What the slices' ECC finds in the sampler's reads: counted, and an uncorrectable error fails the step (R24, R204). -/
def State.setsMet (s : State) (vat : Nat) (bad : ReadErrs) (ps : Pieces) : State :=
  (bad.ue.filter (granuleIn ps)).foldl (fun t a => t.curdError vat a) ((bad.ce.filter (granuleIn ps)).foldl (fun t a => t.memCorrected a) s)

/-- SAMPLER_DRAW (R256, R258): the home draws for its lanes of the step in progress. -/
def State.sampleStep (s : State) (vat : Nat) (bad : ReadErrs) : State :=
  match (s.vat? vat).bind fun v => v.step.map fun r => (v, r) with
  | none => s
  | some (v, r) =>
    (s.onVat vat fun v' => { v' with step := some { r with draws := s.drawAll v r } }).setsMet vat bad (v.setsRead r)

/-- SAMPLER_DRAW. -/
def execSamplerDraw (d : Draw) (s : State) : Host.Outcome State Fault Refusal := .next (s.sampleStep d.vat d.bad)

/-! ### The commit (R240, R241, R264) -/

/-- How many candidate tokens are kept (R240 step 2). -/
def keptCount (ts stops : List Nat) (produced maxNew : Nat) : Nat :=
  match indexWhere (fun p => stops.contains p.2 || decide (maxNew ≤ produced + p.1 + 1)) ((List.range ts.length).zip ts) with
  | some i => i + 1
  | none => ts.length

/-- Ordinals of positions [a, b) become dirty (R243). -/
def dirtyBlocks (bs : List BlockEnt) (k a b : Nat) : List BlockEnt :=
  if b ≤ a then bs else
  ((List.range bs.length).zip bs).map fun p =>
    if a / k ≤ p.1 ∧ p.1 ≤ (b - 1) / k then { p.2 with dirty := true } else p.2

/-- The record after a commit: `n` rows, the kept tokens, `used` inputs (R240). -/
def Session.commit (r : Session) (k n used : Nat) (kept : List Nat) : Session :=
  { r with
    len := r.len + n, pend := kept.getLast?, produced := r.produced + kept.length,
    inDone := min r.inCount (r.inDone + (used - b2n r.pend.isSome)),
    blocks := dirtyBlocks r.blocks (max 1 k) r.len (r.len + n) }

/-- How a request stands after a commit (R241): its final status, or none while it goes on. -/
def Session.endStatus (r : Session) (stops kept : List Nat) (maxPos : Nat) : Option Nat :=
  if kept.getLast?.any fun t => stops.contains t then some 0x0010
  else if r.inCount ≤ r.inDone ∧ r.maxNew ≤ r.produced then some 0
  else if maxPos ≤ r.len ∧ r.produced < r.maxNew then some 0x0011
  else none

/-- The commit of a lane of a Completed step (R240); the lane commits nothing where no candidate can be drawn (R259). -/
def State.commitLane (s : State) (vat : Nat) (run : StepRun) (l : Lane) (d : LaneDraw) : State :=
  match s.vat? vat with
  | none => s
  | some v =>
    let i := l.session % 2 ^ 18
    let r := v.sess i
    let w := v.wk i
    let stops := w.stops.filter (· ≠ 0xFFFFFFFF)
    if run.kind = 3 then
      let t := draftChain (s.candBytes v 1 d.lane 0) run.tokens ((v.mould.map mVocab).getD 0) (nth 0 l.tokens 0)
      s.onSess vat i fun r => { r with state := .ready, tree := t }
    else match d.tokens with
      | none => s.endReq vat i 0x0570 .idle
      | some ts =>
        let m := keptCount ts stops r.produced r.maxNew
        let m := if run.kind = 4 then min m (v.params.maxPos - r.len) else m
        let kept := ts.take m
        let n := if run.kind = 4 then (if ts = [] then 1 else m) else l.count
        let moved := if run.kind = 4 then
            ((List.range m).zip d.path).filterMap fun p => if p.1 = p.2 then none else some (r.len + p.2, r.len + p.1)
          else []
        let r' := r.commit v.params.blockPos n (if run.kind = 4 then 1 else l.count) kept
        let t := s.outWrite w (16 + 4 * r.produced) (kept.flatMap (leBytes 4))
        let t := (t.onSess vat i fun _ => { r' with state := .ready }).onWk vat i fun w => { w with copies := moved }
        match r'.endStatus stops kept v.params.maxPos with
        | some st => t.endReq vat i st .idle
        | none => t.outWrite w 0 (outHeader 0 r'.produced s.now)

/-- A session leaves a step by its outcome: 0 Completed, 0x0001 Degraded, else Failed with that status (R24, R236). -/
def State.endLane (s : State) (vat : Nat) (run : StepRun) (p : Nat × Lane) (status : Nat) (d : LaneDraw) : State :=
  let i := p.2.session % 2 ^ 18
  let t := if status = 0 then s.commitLane vat run p.2 d
    else if status = 1 then s.onSess vat i fun r => { r with state := .ready }
    else s.endReq vat i status .faulted
  match t.vat? vat with
  | none => t
  | some v =>
    let w := v.wk i
    let t := if w.cancel ∧ (v.sess i).state = .ready then t.endReq vat i 0x0012 .idle else t
    if (v.sess i).close then (t.endReq vat i 0x0012 .idle).freeSess vat i
    else
      let t := match w.lateTree with
        | some tr => t.onSess vat i fun r => { r with tree := tr }
        | none => t
      t.onWk vat i fun w => { w with
        cancel := false, lateTree := none, sampling := none, bias := [], stops := [], runTree := [] }

/-! ### The outcome (R24, R407, R408) -/

/-- The rank of a Failed cause (R407). -/
def causeRank (st : Nat) : Nat :=
  if st = 0x0602 ∨ st = 0x0605 then 1 else if st = 0x0603 then 2 else if st = 0x0601 then 3 else if st = 0x0610 then 4
  else if st = 0x0730 then 5
  else if st = 0x0540 ∨ st = 0x0541 ∨ st = 0x0550 ∨ st = 0x0560 ∨ st = 0x0561 then 6
  else if (0x0530 ≤ st ∧ st ≤ 0x0534) ∨ st = 0x053B then 7 else 8

/-- `a` decides before `b`: rank, Tick, source, then the finer order of R71. -/
def causeBefore (a b : Cause) : Bool :=
  let x := [causeRank a.status, a.tick, a.source, a.order]
  let y := [causeRank b.status, b.tick, b.source, b.order]
  decide (x < y)

/-- The cause that decides a Failed step. -/
def firstCause : List Cause → Option Cause
  | [] => none
  | a :: l => some (l.foldl (fun b c => if causeBefore c b then c else b) a)

/-- Every Failed cause of a step, other members' among them. -/
def allCauses (run : StepRun) (reps : List MemberReport) : List Cause :=
  run.causes ++ reps.flatMap fun m => m.causes.map fun c => ⟨c.1, c.2.1, c.2.2, 0⟩

/-- The status of a step: 0 Completed, 0x0001 Degraded, else the deciding cause's (R24). -/
def stepStatus (run : StepRun) (reps : List MemberReport) : Nat :=
  match firstCause (allCauses run reps) with
  | some c => c.status
  | none => if run.degraded || reps.any (·.degraded) then 1 else 0

/-- The errors of cores in the order of R145: by Tick, then by source. -/
def insertErr (e : CoreErr) : List CoreErr → List CoreErr
  | [] => [e]
  | d :: ds =>
    if d.tick < e.tick ∨ (d.tick = e.tick ∧ coreSource d.core < coreSource e.core) then d :: insertErr e ds else e :: d :: ds

/-- The records of a step in the fault log (R408): unit errors of this package's cores, and at the head the outcome. -/
def State.logStep (s : State) (vat : Nat) (v : Vat) (run : StepRun) (reps : List MemberReport) (status : Nat) : State :=
  let t := (run.errs.foldr insertErr []).foldl (fun t e =>
    let d := e.first
    t.faultLog vat (logRecord d.1 s.links.node (s.logicalOf e.core) d.2.1 d.2.2.1 run.table.start d.2.2.2 e.count 0)) s
  let mine := if run.degraded ∨ run.causes ≠ [] then 1 else 0
  let others := (reps.filter fun m => m.degraded || decide (m.causes ≠ [])).length
  if v.isHead ∧ status ≠ 0 then
    (t.faultLog vat (logRecord status s.links.node 0 (filledLanes run.table).length run.voids run.table.start
      (if status = 1 then 0 else causeRank status) (mine + others) 1)).note 0x02 "STEP_OUTCOME" status
  else t

/-- The verdict of a replay step at its boundary (R404, R408). -/
def State.replayVerdict (s : State) (vat : Nat) (run : StepRun) : State :=
  match (s.role vat).replay with
  | none => s
  | some r =>
    if !run.table.replay then s else
    let t := s.faultLog vat (logRecord (if r.verdict = 0 then 0 else 0x0610) s.links.node 0 (r.running.getD 0) r.verdict
      run.table.start 0 (filledLanes run.table).length 3)
    let t := t.onRole vat fun o => { o with replay := some { r with running := none } }
    if r.closing then t.replayEnd vat else t

/-- Stalls that other members report reach the head's replay (R403, R404). -/
def State.remoteStalls (s : State) (vat : Nat) (v : Vat) (run : StepRun) (reps : List MemberReport) : State :=
  let n := (reps.map (·.stalls)).foldl (· + ·) 0
  if !v.isHead ∨ n = 0 then s
  else if run.table.replay then (List.range n).foldl (fun t _ => t.replayStall vat none) s
  else s.replayBegin vat []

/-- Lanes of a step counted for their contexts (R334, R388). -/
def State.countLanes (s : State) (v : Vat) (run : StepRun) : State :=
  (v.homeLanes run).foldl (fun t p =>
    let c := (v.sess (p.2.session % 2 ^ 18)).ctx
    if (t.ctx c).conf then t else t.onCtx c fun x => { x with laneSteps := sat32 x.laneSteps 1 }) s

/-- Whether the step that ends recorded an overrun (R148). -/
def State.overrunStep (s : State) (run : StepRun) : State := s.onTick fun k => { k with lastOver := b2n run.overrun }

/-- Cores whose reset is over rejoin at the boundary (R399). -/
def State.rejoin (s : State) (vat : Nat) : State :=
  (s.vatCores vat).foldl (fun t c =>
    if (s.core c).state = .fenced ∧ !(s.fenced 1 c) ∧ !(s.fenced 2 (c / 32)) then t.onCore c fun u => { u with state := s.serves c }
    else t) s

/-- The steps that started at T on this package, of every vat of the group, fail with 0x0603 (R150). -/
def State.failGroup (s : State) (x : Nat) : State :=
  s.gearVats.foldl (fun t v => if v.step.any fun r => decide (r.table.start = x) then
    t.failStep v.desc.vatId ⟨0x0603, t.now, t.source 0, 0⟩ else t) s

/-- A table frozen for a gear that the group leaves again does not start; the head's next step comes after rest Ticks, at the first Tick for
which it can freeze again (DESIGN CHOICE, log entry 26). -/
def State.refreeze (s : State) : State :=
  s.gearVats.foldl (fun t v => match v.mould, v.frozen with
    | some m, some a =>
      if (mVariantOf m t.tick.gear) = some (mStep m a.stepId).variant then t
      else
        let rp := max 1 (mRefreshPeriod m)
        let n := rp * ceilDiv (freezeLead (gearSteps m t.tick.gear)) rp
        let u := t.dropFrozen v.desc.vatId
        if v.isHead then u.insertRest v.desc.vatId n else u
    | _, _ => t) s

/-- A package of the group lost its lock at the change that began the step: every step of the group that began there fails, and this package
returns to the old gear once no step runs (R150). -/
def State.gearBack (s : State) (run : StepRun) (reps : List MemberReport) : State :=
  let t := match s.tick.prev with
    | some (x, g) => if x = run.table.start ∧ (allCauses run reps).any (fun c => decide (c.status = 0x0603)) then
        (s.failGroup x).onTick fun k => { k with back := some g, prev := none } else s
    | none => s
  match t.tick.back with
  | some g => if t.stepping = [] then ((t.switchGear g).onTick fun k => { k with back := none }).refreeze else t
  | none => t

/-- The boundary of a step: outcome, commits or drops, logs, replay, meter, a halt that is due, and eligibility next. -/
def State.endStep (s : State) (vat : Nat) (reps : List MemberReport) : State :=
  match (s.vat? vat).bind fun v => v.step.map fun r => (v, r) with
  | none => s
  | some (v, run) =>
    let st := stepStatus run reps
    let ds := s.drawAll v run
    let t := (s.countLanes v run).remoteStalls vat v run reps
    let t := (v.homeLanes run).foldl (fun t p =>
      t.endLane vat run p st ((ds.find? fun d => decide (d.lane = p.1)).getD ⟨p.1, some [], []⟩)) t
    let t := ((t.logStep vat v run reps st).replayVerdict vat run).overrunStep run
    let x := run.table.start + run.length
    let t := t.onVat vat fun v => { v with
      step := none, meter := { v.meter with step := v.meter.step + (x - max run.table.start v.meter.first) } }
    let t := t.gearBack run reps
    let t := ((t.rejoin vat).switchSlices vat).onRole vat fun r => { r with
      restFrom := some (max x v.meter.first), lastRep := x, lastStep := some (run.table.start, run.length, run.table.stepId) }
    if (t.role vat).halting x then (t.haltVat vat).pausePages vat else t

/-- A member's step has reached its boundary. -/
def State.boundaryDue (s : State) (v : Vat) : Bool :=
  v.step.any fun r => decide (r.table.start + r.length ≤ s.now)

/-- STEP_BOUNDARY (R24). -/
def execStepBoundary (vat : Nat) (reps : List MemberReport) (s : State) : Host.Outcome State Fault Refusal :=
  .next (if (s.vat? vat).any s.boundaryDue then s.endStep vat reps else s)

/-- BOUNDARY_MARK (R401): the commits of the step are applied, so the member marks its boundary. -/
def execBoundaryMark (vat : Nat) (s : State) : Host.Outcome State Fault Refusal :=
  .next (if (s.vat? vat).any (fun v => v.step.isNone) ∧ (s.role vat).hangAt.isSome then
    s.onRole vat fun r => { r with hangAt := none } else s)

end Sys2Proof.Machine
end

