-- ==== Sys2Proof/Machine/Vats.lean ====
section
/-! DEFINITION. Vats in service: SESSIONS_CONFIGURE (R234), starting, halting, unbinding and querying a vat (R271 to R273, R307),
remoulds (R277 to R282), member loss and retirement (R283, R410), the deputy (R286), metering commands (R291, R292). -/

namespace Sys2Proof.Machine
open Sys2Proof

/-- Check 12 of a head command: the vat is defined, not washed, headed here, in a state the command allows (R271). -/
def State.headStatus (s : State) (c : Cmd) (ok : VatState → Bool) : Nat :=
  match s.vat? (cmdVatId c.bytes) with
  | none => 0x0215
  | some v =>
    if v.state = .washing then 0x0213 else if !v.isHead then 0x0218 else if !ok v.state then 0x0216 else 0

/-- The local source of the senior complex (R144). -/
def State.ccSource (s : State) : Nat := 4 + s.senior

/-! ### SESSIONS_CONFIGURE (R234) -/

/-- Every GETL and PUTL issue of a package: (`LANE_REF` kind, offset f, `LENGTH`). -/
def laneIssues (m : Mould) (l : Nat) : List (Nat × Nat × Nat) :=
  (List.range (pkgCores (mPkg m l))).flatMap fun c => (List.range (mSteps m).length).flatMap fun k =>
    (coreIssues m l c k).filterMap fun x => match x.word with
      | some w => if opCode w = 0x1D ∨ opCode w = 0x1E then
          some ((mLaneRef m (dmDst w)).1, bits (dmVatAddr w) 15 0, dmLength w) else none
      | none => none

/-- The bounds of R254 on one issue. -/
def laneBound (blockPos : Nat) (x : Nat × Nat × Nat) : Bool :=
  decide ((x.1 = 2 → x.2.1 + blockPos * x.2.2 ≤ 65536) ∧ (x.1 = 1 → x.2.1 + x.2.2 ≤ 65536))

/-- A value is a power of two up to 1,024. -/
def pow2ok (n : Nat) : Bool := (List.range 11).any fun i => decide (n = 2 ^ i)

/-- The region may hold the candidate sets of every step (R234). -/
def candOk (m : Mould) (l region : Nat) : Bool :=
  match (mRegions m l)[region]? with
  | none => false
  | some r => decide (r.kind = 1 ∧ r.use = 2) && (mSteps m).all fun e =>
      decide (e.lanes * (if e.kind = 4 then e.tokens else 1) * 8192 ≤ r.bytes)

/-- The ranges of R234 as this package sees them. -/
def geometryOk (m : Mould) (l packages records maxPos resSlots blockPos region : Nat) : Bool :=
  decide (1 ≤ records ∧ records ≤ 262144 ∧ maxPos % max 1 blockPos = 0 ∧ 1 ≤ maxPos ∧ maxPos ≤ 2048 * blockPos ∧ maxPos ≤ 524288 ∧
    packages ≤ resSlots ∧ resSlots ≤ 65535) &&
  pow2ok blockPos && candOk m l region && (laneIssues m l).all (laneBound blockPos)

/-- The vat's parameters: NBH and its like from the smallest member (R242). -/
def sessParams (packages records maxPos resSlots blockPos region blocks caves : Nat) : SessParams :=
  ⟨records, blockPos, maxPos, resSlots, region, blocks / max 1 packages, resSlots / max 1 packages, caves / max 1 packages⟩

/-- Frames of the block maps and the residency table: 8 bytes an ordinal of a record and 4 an ordinal of a slot (DESIGN CHOICE, log entry 21). -/
def kvTableFrames (p : SessParams) : Nat := ceilDiv (p.records * p.maxBlocks * 8 + p.resSlots * p.maxBlocks * 4) frameBytes

/-- Session records and residency slots of the other vats of the package (R233, R234). -/
def State.sessSums (s : State) (vat : Nat) : Nat × Nat :=
  s.vats.foldl (fun a v => if v.1 = vat then a else (a.1 + v.2.params.records, a.2 + v.2.params.resSlots)) (0, 0)

/-- Give a vat its parameters and frames, or none where the package lacks them. -/
def State.giveParams (s : State) (vat : Nat) (p : SessParams) : Option State :=
  match s.vat? vat with
  | none => none
  | some v =>
    let t := s.dropFrames v.kvFrames
    let sums := s.sessSums vat
    let fs := t.storeFrames (t.storeStacks v.place) (kvTableFrames p) []
    if fs.length < kvTableFrames p ∨ 262144 < sums.1 + p.records ∨ 65535 < sums.2 + p.resSlots then none
    else some ((t.holdFrames fs (.blocked vat)).onVat vat fun v => { v with
      params := p, kvFrames := fs, sessions := [], work := [], resTable := [], zeroSlot := [] })

/-- Every record of the vat on this package is Free. -/
def Vat.allFree (v : Vat) : Bool := v.sessions.all fun p => decide (p.2.state = .free)

def ownSessionsConfigure (s : State) (c : Cmd) : Nat :=
  s.headStatus c fun t => decide (t = .bound ∨ t = .running ∨ t = .halted)

/-- SESSIONS_CONFIGURE at the head; `members` gives each other member's status, KV blocks and cave slots. -/
def State.configure (s : State) (c : Cmd) (members : List (Nat × Nat × Nat)) : State :=
  let b := c.bytes
  match (s.vat? (cmdVatId b)).bind fun v => v.mould.map fun m => (v, m) with
  | none => s
  | some (v, m) =>
    let ok := geometryOk m v.lpkg v.packages (field b 0x10 4) (field b 0x14 4) (field b 0x18 4) (field b 0x1C 2) (field b 0x1E 2)
    let blocks := (minNat? (kvBlocks m v.lpkg :: members.map (·.2.1))).getD 0
    let caves := (minNat? (kvCaves m v.lpkg :: members.map (·.2.2))).getD 0
    let p := sessParams v.packages (field b 0x10 4) (field b 0x14 4) (field b 0x18 4) (field b 0x1C 2) (field b 0x1E 2) blocks caves
    let other := (members.map (·.1)).find? (· ≠ 0)
    if !ok || other == some 0x0154 then s.finish c.ref 0x0154
    else if !v.allFree || other == some 0x0235 then s.finish c.ref 0x0235
    else match other, s.giveParams v.desc.vatId p with
      | none, some t => t.finish c.ref 0
      | _, _ => s.finish c.ref 0x0210

/-- The head's parameters reach this member: `RECORDS`, `MAX_POS`, `RES_SLOTS`, `KV_BLOCK_POS`, `CAND_REGION`, blocks, cave slots. -/
def State.takeParams (s : State) (vat : Nat) (ps : List Nat) : State :=
  match s.vat? vat with
  | none => s
  | some v =>
    let x := nth 0 ps
    let p := sessParams v.packages (x 0) (x 1) (x 2) (x 3) (x 4) (x 5) (x 6)
    if v.role = .standby then s.onVat vat fun v => { v with params := p }
    else if v.isHead ∨ !v.allFree then s
    else (s.giveParams vat p).getD s

/-- SESSIONS_CONFIGURE (R234). -/
def execSessionsConfigure (r : CmdRef) (members : List (Nat × Nat × Nat)) (remote : Option (Nat × List Nat)) (s : State) :
    Host.Outcome State Fault Refusal :=
  .next (match remote with
    | some (vat, ps) => s.takeParams vat ps
    | none => s.checked r 0x34 ownSessionsConfigure fun c => s.configure c members)

/-! ### VAT_START and VAT_HALT (R272) -/

/-- The resume rule (R277): the smallest multiple of `REFRESH_PERIOD` at least the largest freeze lead of the variant in force and
64 Ticks away. -/
def State.resumeTick (s : State) (m : Mould) : Nat :=
  let rp := max 1 (mRefreshPeriod m)
  rp * ceilDiv (s.now + freezeLead (gearSteps m s.tick.gear) + 64) rp

/-- The vat enters Running at a Tick. -/
def State.startAt (s : State) (vat x : Nat) : State :=
  (s.onVat vat fun v => { v with boundary := x, frozen := none }).onRole vat fun r =>
    { r with started := some x, haltAt := none, credit := 0, restFrom := some x, hangAt := none }

def ownVatStart (s : State) (c : Cmd) : Nat := s.headStatus c fun t => decide (t = .bound ∨ t = .halted)

/-- The Mould has a variant for a gear; 0 is no gear armed. -/
def gearOk (m : Mould) (g : Nat) : Bool := decide (g = 0) || (mVariantOf m g).isSome

/-- VAT_START at the head: `members` gives the other members' states, gears in force and gears armed. -/
def State.startVat (s : State) (c : Cmd) (members : List (Nat × Nat × Nat)) : State :=
  match (s.vat? (cmdVatId c.bytes)).bind fun v => v.mould.map fun m => (v, m) with
  | none => s
  | some (v, m) =>
    if members.any fun x => decide (x.1 ≠ 2 ∧ x.1 ≠ 4) then s.finish c.ref 0x0216
    else if !((s.tick.gear, s.tick.armed) :: members.map (·.2)).all fun g => gearOk m g.1 && gearOk m g.2 then
      s.finish c.ref 0x0604
    else if (s.role v.desc.vatId).started.isSome then s.finish c.ref 0
    else ((s.haltsDone v.desc.vatId).startAt v.desc.vatId (s.resumeTick m)).finish c.ref 0

/-- VAT_START (R272). -/
def execVatStart (r : CmdRef) (members : List (Nat × Nat × Nat)) (remote : Option (Nat × Nat)) (s : State) :
    Host.Outcome State Fault Refusal :=
  .next (match remote with
    | some (vat, x) =>
      if (s.vat? vat).any fun v => v.isMember && !v.isHead && decide (v.state = .bound ∨ v.state = .halted) then s.startAt vat x else s
    | none => s.checked r 0x35 ownVatStart fun c => s.startVat c members)

/-- A vat is halted at a boundary: at once where it has come and no step runs. -/
def State.setHalt (s : State) (vat b : Nat) : State :=
  let t := s.onRole vat fun r => { r with haltAt := some ((r.haltAt.map (min b)).getD b) }
  if b ≤ t.now ∧ (t.vat? vat).any (fun v => v.step.isNone) then (t.haltVat vat).pausePages vat else t

def ownVatHalt (s : State) (c : Cmd) : Nat := s.headStatus c fun t => decide (t = .running ∨ t = .halted)

/-- VAT_HALT at the head: it completes once every member is Halted, at once where the vat already is here. -/
def State.haltCmd (s : State) (c : Cmd) : State :=
  match s.vat? (cmdVatId c.bytes) with
  | none => s
  | some v =>
    if v.state = .halted then s.finish c.ref 0 else
    let t := s.onCmd c.ref fun c => { c with phase := .waiting }
    (t.onRole v.desc.vatId fun r => { r with haltCmds := r.haltCmds ++ [c.ref] }).setHalt v.desc.vatId (s.nextBoundary v)

/-- Every other member has halted: the VAT_HALTs that wait complete, or will once this package has halted (R272, log entry 18). -/
def State.othersHalted (s : State) (vat : Nat) : State :=
  if (s.role vat).haltCmds = [] then s
  else if (s.vat? vat).any fun v => decide (v.state = .running) then s.onRole vat fun r => { r with allHalted := true }
  else s.haltsDone vat

/-- VAT_HALT (R272): issued here, ordered by the head at a boundary, or done on the other members. -/
def execVatHalt (r : CmdRef) (from' : VatOrder) (s : State) : Host.Outcome State Fault Refusal :=
  .next (match from' with
    | .order vat b =>
      if (s.vat? vat).any fun v => v.isMember && !v.isHead && decide (v.state = .running) then s.setHalt vat b else s
    | .others vat => s.othersHalted vat
    | .issued => s.checked r 0x36 ownVatHalt s.haltCmd)

/-! ### Abandoning a remould (R278) -/

/-- A command acts on a vat. -/
def cmdOnVat (b : List Byte) (vat : Nat) : Bool :=
  (decide (0x10 ≤ cmdOp b ∧ cmdOp b ≤ 0x18) && decide (cmdArg0 b % 4096 = vat)) ||
    (decide (0x30 ≤ cmdOp b ∧ cmdOp b ≤ 0x39) && decide (cmdVatId b = vat))

/-- The pause that ends now does not count toward the limits of the vat's commands (R402). -/
def State.excuse (s : State) (vat : Nat) : State :=
  if (s.vat? vat).any fun v => decide (v.state = .remoulding) then
    let put := fun c : Cmd =>
      if cmdOnVat c.bytes vat then { c with excused := c.excused + (s.now - max c.since (s.role vat).haltFrom) } else c
    s.onObjs fun o => { o with cmds := o.cmds.map put }
  else s

/-- Give back what one placement of a vat takes beyond another: its slices are zeroed, its frames and caves go to a Wash. -/
def State.releaseBeyond (s : State) (vat : Nat) (a b : Mould × Nat × Placement) : State :=
  let x := beyond a b
  let fs := x.1 ++ x.2.1.map fun a => a.1 * stackFrames + a.2
  let s := s.zeroSlices (a.2.2.slices.filter fun k => !b.2.2.slices.contains k)
  if fs = [] ∧ x.2.2 = [] then s else
  let t := s.startWash .frames [] fs x.2.2
  t.onMem fun u => { u with extents := mapAll u.extents fun _ e =>
    if e.owner = ExtOwner.vat vat ∧ x.2.2.contains e.base then { e with owner := .washing t.lastWash } else e }

/-- Give back a placement of a vat. -/
def State.releasePlace (s : State) (vat : Nat) (m : Mould) (l : Nat) (pl : Placement) : State :=
  s.releaseBeyond vat (m, l, pl) (m, l, Placement.empty)

/-- The placement that the reservation of a move, or the package's own (0), has. -/
def Vat.placeFor (v : Vat) (k : Nat) : Placement := if k = 0 then v.place else mapGet Placement.empty v.reserves k

/-- What a delta was staged into is given back, beyond what the composition in force holds (R278). -/
def State.unstage (s : State) (vat : Nat) : State :=
  match (s.vat? vat).bind fun v => v.mould.bind fun m => (s.role vat).staged.map fun d => (v, m, d) with
  | none => s
  | some (v, m, d) =>
    let t := (v.reserves.filter fun r => decide (4096 ≤ r.1)).foldl (fun t r =>
      let k := r.1 - 4096
      t.releaseBeyond vat (mouldFor (effective m d) k, v.lpkgOf k, r.2) (mouldFor m k, v.lpkgOf k, v.placeFor k)) s
    (t.onVat vat fun v => { v with reserves := v.reserves.filter fun r => decide (r.1 < 4096) }).onRole vat fun r => { r with staged := none }

/-- The new member of an abandoned move is a standby again (R278): its cores are free, and what a cold move reserved is given back. -/
def State.stepBack (s : State) (vat : Nat) : State :=
  match (s.vat? vat).bind fun v => v.mould.map fun m => (v, m) with
  | none => s
  | some (v, m) =>
    if v.role ≠ .member ∨ v.moves = [] then s else
    let t := (s.vatCores vat).foldl (fun t c => t.freeCore c) (s.dropFrames v.kvFrames)
    let t := if (mapFind v.reserves ((s.role vat).moveFor.getD 0)).isSome then t else t.releasePlace vat m v.lpkg v.place
    (t.onVat vat fun v => { v with
      role := .standby, lpkg := 0xFFFF, state := .standby, place := Placement.empty, nodes := mapDel v.nodes v.lpkg, kvFrames := [],
      sessions := [], work := [], headers := [] }).onRole vat fun r => { r with joined := false, pulled := none }

/-- Every package stays with, or reloads, the old composition and the vat stays Halted, its new member standing by again; the request
completes with the status. -/
def State.abandon (s : State) (vat status : Nat) : State :=
  let s := s.excuse vat
  let t := match (s.role vat).remould with
    | some m => (match m.ref with
        | some r => s.finish r status
        | none => s).note s.ccSource "REMOULD_ABANDONED" status
    | none => s
  ((((t.unstage vat).onVat vat fun v => if v.state = .remoulding then { v with state := .halted } else v).onRole vat fun r =>
    { r with remould := none, haltTo := false, started := none, waitPage := false, was := none, later := [] }).stepBack vat).onRole vat fun r =>
    { r with moveFor := none }

/-! ### VAT_UNBIND (R273) -/

/-- Check 12 of VAT_UNBIND: Defined and Reserved act here alone, Bound onward at the head (R271). -/
def ownVatUnbind (s : State) (c : Cmd) : Nat :=
  match s.vat? (cmdVatId c.bytes) with
  | none => 0x0215
  | some v =>
    if v.state = .washing then 0x0213
    else if v.state = .defined ∨ v.state = .reserved then 0 else if !v.isHead then 0x0218 else 0

/-- Unbind a vat on this package: removed at once, washed, or halted first. -/
def State.unbindVat (s : State) (vat : Nat) (ref : Option CmdRef) : State :=
  match s.vat? vat with
  | none => s
  | some v =>
    if v.state = .defined then
      match ref with
      | some r => (s.removeVat vat).finish r 0
      | none => s.removeVat vat
    else
      let t := s.abandon vat 0x0723
      let t := match ref with
        | some r => t.onCmd r fun c => { c with phase := .waiting }
        | none => t
      let t := t.onRole vat fun r => { r with
        unbind := r.unbind ++ ref.toList, unbound := true, allGone := decide (v.state = .reserved) }
      if v.state = .running then t.setHalt vat (s.nextBoundary v) else t.washVat vat

/-- Every other package has removed the vat: the VAT_UNBINDs that wait complete, or will once it is gone here (R273, log entry 18). -/
def State.othersGone (s : State) (vat : Nat) : State :=
  let r := s.role vat
  if r.unbind = [] then s
  else if r.unbound then s.onRole vat fun r => { r with allGone := true }
  else r.unbind.foldl (fun t c => t.finish c 0) (s.onRole vat fun r => { r with unbind := [] })

/-- VAT_UNBIND (R273): issued here, ordered by the head, or done on the other packages. -/
def execVatUnbind (r : CmdRef) (from' : VatOrder) (s : State) : Host.Outcome State Fault Refusal :=
  .next (match from' with
    | .order vat _ =>
      if (s.vat? vat).any fun v => !v.isHead && decide (v.state ≠ .defined ∧ v.state ≠ .reserved ∧ v.state ≠ .washing) then
        s.unbindVat vat none else s
    | .others vat => s.othersGone vat
    | .issued => s.checked r 0x37 ownVatUnbind fun c => s.unbindVat (cmdVatId c.bytes) (some r))

/-! ### Spares and the time master (R275, R283) -/

/-- The moves of a remould. -/
def Remould.moves (m : Remould) : List Nat :=
  m.kinds.filterMap fun k => match k with
    | .move n => some n
    | _ => none

/-- The moves of the vat's remould in hand. -/
def State.movesNow (s : State) (vat : Nat) : List Nat := ((s.role vat).remould.map Remould.moves).getD []

/-- A node of the vat is down. -/
def State.nodeDown (s : State) (vat node : Nat) : Bool := (s.role vat).downs.any fun d => decide (d.1 = node)

/-- The moves whose standby may take over: not down, not a member already, not taken by the remould in hand (DEDUCED, log entry 19). -/
def State.usableMoves (s : State) (v : Vat) : List Nat :=
  match v.mould with
  | none => []
  | some m =>
    let down := (s.role v.desc.vatId).downs.map (·.1)
    let held := (List.range v.packages).map (s.lpkgNode v) ++ (s.movesNow v.desc.vatId).map (s.moveNode v)
    (v.desc.spares.map (·.move)).filter fun k =>
      decide (k ≤ mMoveCount m) && !down.contains (s.moveNode v k) && !held.contains (s.moveNode v k)

/-- The spare of a logical package: the lowest usable move that names it. -/
def State.spareFor (s : State) (v : Vat) (l : Nat) : Option Nat :=
  minNat? ((s.usableMoves v).filter fun k => decide ((v.mould.map fun m => (mMove m k).1).getD 65535 = l))

/-- The logical package at a node. -/
def State.lpkgAt (s : State) (v : Vat) (node : Nat) : Option Nat :=
  (List.range v.packages).find? fun l => decide (s.lpkgNode v l = node)

/-- Send HALT(B) to the head (R277, R288). -/
def State.sendHalt (s : State) (vat b : Nat) : State :=
  match s.vat? vat with
  | none => s
  | some v =>
    (s.control v 0x02 (s.lpkgNode v v.headLpkg) b 0 []).onRole vat fun r =>
      { r with remould := r.remould.map fun m => { m with phase := 1, halt := some b, ready := [] } }

/-- The first boundary at least `n` Ticks away, boundaries following one another by the last step's length (DESIGN CHOICE, log entry 22). -/
def State.boundaryAfter (s : State) (v : Vat) (n : Nat) : Nat :=
  let b := s.nextBoundary v
  let l := max 1 (s.role v.desc.vatId).lastLen
  if s.now + n ≤ b then b else b + ceilDiv (s.now + n - b) l * l

/-- An automatic remould begins: it skips the prepare phase, so the vat halts at the next boundary (R277, R283). -/
def State.autoFresh (s : State) (vat : Nat) (ks : List RemouldKind) : State :=
  match s.vat? vat with
  | none => s
  | some v =>
    (s.onRole vat fun r => { r with
      remould := some ⟨ks, true, none, 1, [], List.range v.packages, none, none, s.now⟩ }).sendHalt vat (s.nextBoundary v)

/-- What the time master does of a remould once the resume that is out has come (R278). -/
def State.doLater (s : State) (vat : Nat) (x : Later) : State := s.onRole vat fun r => { r with later := r.later ++ [x] }

/-- An automatic remould (R278, R279). It joins an automatic one not yet paused; it goes before a requested one in its prepare phase; a loss
abandons what it interrupts and what was automatic starts again with it; what comes after RESUME is out, and a retirement that no remould
can take up, waits for the resume (DEDUCED, log entry 19). -/
def State.autoRemould (s : State) (vat : Nat) (k : RemouldKind) (loss : Bool) (wait : Later) : State :=
  match (s.role vat).remould with
  | none => s.autoFresh vat [k]
  | some m =>
    if m.resume.isSome then s.doLater vat wait
    else if m.auto then
      if m.phase ≠ 2 then s.onRole vat fun r => { r with remould := some { m with kinds := m.kinds ++ [k] } }
      else if loss then (s.abandon vat 0x0723).autoFresh vat (m.kinds ++ [k])
      else s.doLater vat wait
    else if loss ∨ m.phase = 0 then (s.abandon vat 0x0723).autoFresh vat [k]
    else s.doLater vat wait

/-- No usable spare: the vat halts and stays Halted (R283). -/
def State.noSpare (s : State) (vat : Nat) : State :=
  let t := (s.abandon vat 0x0723).note s.ccSource "VAT_NO_SPARE" 0x0721
  match t.vat? vat with
  | some v => t.sendHalt vat (t.nextBoundary v)
  | none => t

/-- A logical package goes to a spare, or the vat has none. -/
def State.replacePkg (s : State) (vat l : Nat) (loss : Bool) : State :=
  match s.vat? vat with
  | none => s
  | some v =>
    if ((s.role vat).remould.bind (·.resume)).isSome then s.doLater vat (.pkg l loss)
    else match s.spareFor v l with
      | some k => s.autoRemould vat (.move k) loss (.pkg l loss)
      | none => s.noSpare vat

/-- The retirement of a core asks for its cluster's spare position, or joins what is under way (R279, R410). -/
def State.spareRemould (s : State) (vat l core : Nat) : State := s.autoRemould vat (.spare l core) false (.spare l core)

/-- What the remould of a lost new member had beside its move starts again with the move that takes its place (R278, R279). -/
def State.again (s : State) (vat : Nat) (ks : List RemouldKind) : State :=
  if (s.role vat).remould.isNone then s
  else s.onRole vat fun r => { r with remould := r.remould.map fun m => { m with kinds := ks ++ m.kinds } }

/-- A node is lost (R278, R283): the new member of a move abandons it and the package it was to take needs another spare. -/
def State.lose (s : State) (vat node : Nat) : State :=
  match s.vat? vat with
  | none => s
  | some v =>
    let l := fun k => (v.mould.map fun m => (mMove m k).1).getD 0
    match (s.movesNow vat).find? fun k => decide (s.moveNode v k = node) with
    | some k =>
      if ((s.role vat).remould.bind (·.resume)).isSome then s.doLater vat (.pkg (l k) true)
      else
        let rest := (s.role vat).remould.elim [] fun q => if q.auto then q.kinds.filter fun x => decide (x ≠ .move k) else []
        ((s.abandon vat 0x0723).replacePkg vat (l k) true).again vat rest
    | none => match s.lpkgAt v node with
      | some l => (s.onRole vat fun r => { r with lost := r.lost ++ [l] }).replacePkg vat l true
      | none => s

/-- The start of the step in progress, or of the last one where none runs. -/
def State.stepFrom (s : State) (v : Vat) : Nat :=
  match v.step with
  | some r => r.table.start
  | none => (((s.role v.desc.vatId).lastStep).map (·.1)).getD 0

/-- The time master has not yet recorded this node since the step in progress, or the last one, began (R192;
DESIGN CHOICE for the Ticks between two steps, log entry 125). -/
def State.newDown (s : State) (vat node : Nat) : Bool :=
  match s.vat? vat with
  | none => false
  | some v => v.isMaster && decide (node < 10240) && !((s.role vat).downs.any fun d => decide (d.1 = node ∧ s.stepFrom v ≤ d.2.2))

/-- MEMBER_DOWN (R192, R283). -/
def execMemberDown (vat : Headed) (node reporter : Nat) (s : State) : Host.Outcome State Fault Refusal :=
  .next (if !vat.ok then s else if s.newDown vat.val node then
    (((s.note s.ccSource "MEMBER_DOWN" node).onRole vat.val fun r => { r with downs := r.downs ++ [(node, reporter, s.now)] }).mcLost node).lose vat.val node
    else s)

/-- The cluster of a retired core already had a Retired core, as the journal or earlier reports have it (R410). -/
def State.secondRetired (s : State) (v : Vat) (l core : Nat) : Bool :=
  if l = v.lpkg then decide (2 ≤ (s.retiredIn (core / 32)).length)
  else (s.role v.desc.vatId).retired.any fun x => decide (x.1 = l ∧ x.2 ≠ core ∧ x.2 / 32 = core / 32)

/-- CORE_RETIRED (R410). -/
def State.coreRetired (s : State) (vat l core : Nat) : State :=
  match s.vat? vat with
  | none => s
  | some v =>
    if !v.isMaster ∨ !coreOk core then s else
    let t := s.onRole vat fun r => { r with retired := (r.retired ++ [(l, core)]).eraseDups }
    if s.secondRetired v l core then t.replacePkg vat l false else t.spareRemould vat l core

def execCoreRetired (vat : Headed) (lpkg core : Nat) (s : State) : Host.Outcome State Fault Refusal := .next (if !vat.ok then s else s.coreRetired vat.val lpkg core)

/-! ### VAT_REMOULD (R277, R279, R282) -/

/-- Check 12 of VAT_REMOULD (R271, R279). -/
def ownVatRemould (s : State) (c : Cmd) : Nat :=
  match s.vat? (cmdVatId c.bytes) with
  | none => 0x0215
  | some v =>
    if v.state = .washing then 0x0213
    else if !v.isMaster then 0x0219
    else if s.vatBusy v.desc.vatId then 0x0213
    else if v.state ≠ .running ∧ v.state ≠ .halted then 0x0216 else 0

/-- A requested remould begins. -/
def State.requested (s : State) (c : Cmd) (vat : Nat) (k : RemouldKind) (affected : List Nat) : State :=
  let t := s.onCmd c.ref fun c => { c with phase := .waiting }
  let all := List.range (((s.vat? vat).map Vat.packages).getD 0)
  let t := t.onRole vat fun r => { r with
    remould := some ⟨[k], false, some c.ref, 0, [], if affected = [] then all else affected, none, none, s.now⟩ }
  if affected = [] then
    match t.vat? vat with
    | some v => t.sendHalt vat (t.nextBoundary v)
    | none => t
  else t

/-- A spare position named by `UNIT` on this package: the physical core that becomes spare, or a status (DEDUCED, log entry 23). -/
def State.spareUnit (s : State) (v : Vat) (unit : Nat) : Nat × Nat :=
  let pos := unit % 32
  match v.mould with
  | none => (0x0216, 0)
  | some m =>
    let p := mPkg m v.lpkg
    let dies := maskBits p.dieMask 4
    match indexWhere (fun d => decide (d = bits unit 9 8)) dies with
    | none => (0x0141, 0)
    | some i =>
      let k := i * p.clusters + bits unit 7 5
      if 1024 ≤ unit ∨ 17 ≤ pos then (0x0103, 0)
      else if p.clusters ≤ bits unit 7 5 then (0x0141, 0)
      else
        let phys := nth 0 v.place.clusters k
        if (s.retiredIn phys).any fun x => decide (x % 32 ≠ pos) then (0x0216, 0) else (0, phys * 32 + pos)

/-- A delta reshapes the vat (R282): members, KV regions or the head change. -/
def reshapes (m d : Mould) : Bool :=
  let e := effective m d
  decide (mVatPackages e ≠ mVatPackages m ∨ mHeadLpkg e ≠ mHeadLpkg m) || (List.range (mVatPackages m)).any fun l =>
    decide (kvRegions e l 2 ≠ kvRegions m l 2 ∨ kvRegions e l 3 ≠ kvRegions m l 3)

/-- The logical packages of a vat before and after a delta. -/
def eitherPkgs (m d : Mould) : Nat := max (mVatPackages m) (mVatPackages (effective m d))

/-- VAT_REMOULD at the time master; `inUse` and `kvElse` say what the other packages know of records in use and of KV regions changed. -/
def State.remouldCmd (s : State) (inUse kvElse : Bool) (c : Cmd) : State :=
  match (s.vat? (cmdVatId c.bytes)).bind fun v => v.mould.map fun m => (v, m) with
  | none => s
  | some (v, m) =>
    let vat := v.desc.vatId
    let unit := field c.bytes 0x12 2
    let kind := field c.bytes 0x10 1
    if kind = 1 then
      let u := s.spareUnit v unit
      if u.1 ≠ 0 then s.finish c.ref u.1 else s.requested c vat (.spare v.lpkg u.2) []
    else if kind = 2 then
      if (s.usableMoves v).contains unit then s.requested c vat (.move unit) [(mMove m unit).1, 0xFFFF]
      else s.finish c.ref 0x0721
    else match v.delta with
      | none => s.finish c.ref 0x0216
      | some d =>
        if (reshapes m d || kvElse) && (!v.allFree || inUse) then s.finish c.ref 0x0235
        else s.requested c vat .delta (List.range (eitherPkgs m d))

/-- VAT_REMOULD (R277). -/
def execVatRemould (r : RemouldRef) (s : State) : Host.Outcome State Fault Refusal :=
  .next (s.checked r.ref 0x38 ownVatRemould (s.remouldCmd r.inUse r.kvElse))

/-! ### Prepare (R277) -/

/-- The placement a staged delta asks for is needed: its package entry or regions differ. -/
def movesPlace (m e : Mould) (l : Nat) : Bool :=
  decide (mPkg e l ≠ mPkg m l ∨ mRegions e l ≠ mRegions m l)

/-- The entries of a package that a delta stages: a member's own (0), those of a standby's warm moves. -/
def Vat.stageList (v : Vat) : List Nat :=
  if v.role = .standby then (v.reserves.map (·.1)).filter fun k => decide (1 ≤ k ∧ k < 4096) else [0]

/-- Stage one entry of a delta: what it asks for is reserved, and the tensors pass R140's checks where they will lie (R277); the status and
the state with the entry's new placement. -/
def State.stageEntry (s : State) (v : Vat) (m d : Mould) (k : Nat) : Nat × State :=
  let e := effective m d
  let l := v.lpkgOf k
  if mVatPackages e ≤ l then (0, s) else
  let r := if movesPlace m e l then s.regrow v.desc.vatId (mouldFor m k) (mouldFor e k) l (v.placeFor k) else (0, s, v.placeFor k)
  if r.1 ≠ 0 then (r.1, s) else
  match r.2.1.checkTensors { v with mould := some e } e l r.2.2 with
  | some f => (f.status, s)
  | none => (0, r.2.1.onVat v.desc.vatId fun v => { v with reserves := mapPut v.reserves (4096 + k) r.2.2 })

/-- Stage the entries of a delta one after the other; the first failure leaves nothing staged. -/
def State.stageAll (v : Vat) (m d : Mould) : List Nat → State → Nat × State
  | [], s => (0, s)
  | k :: ks, s =>
    let r := s.stageEntry v m d k
    if r.1 ≠ 0 then r else State.stageAll v m d ks r.2

/-- Bind the delta's sections into the alternate store: the status and the state with what it asks for reserved (R277). -/
def State.stageDelta (s : State) (v : Vat) (m d : Mould) : Nat × State :=
  let r := State.stageAll v m d v.stageList s
  if r.1 ≠ 0 then (r.1, s) else (0, r.2.onRole v.desc.vatId fun r => { r with staged := some d })

/-- A new package of a reshape binds by itself in the prepare phase: the checks of BIND_COMPLETE on the tensors it was given (R140, R282). -/
def State.stageNew (s : State) (v : Vat) (m : Mould) : Nat × State :=
  match s.checkTensors v m v.lpkg v.place with
  | some f => (f.status, s)
  | none => (0, s.onRole v.desc.vatId fun r => { r with staged := some m })

/-- A package's staging has ended with a status of its own work (R277): MEMBER_READY goes to the time master. At the time master a status
other than 0 stands for any affected package's failure and abandons the remould (DESIGN CHOICE, log entry 133). A standby keeps the weights
it pulled for a cold move (R280); the package that a move takes away begins its page-outs (R281). -/
def State.stageDone (s : State) (vat : Nat) (e : StageEnd) : State :=
  match (s.vat? vat).bind fun v => v.mould.map fun m => (v, m) with
  | none => s
  | some (v, m) =>
    let new := decide (v.state = .reserved ∧ v.role = .member)
    if !(new || decide (v.state = .running ∨ v.state = .halted ∨ v.state = .standby)) then s else
    let s := s.unstage vat
    let q := match v.delta with
      | some d => if new then s.stageNew v m else s.stageDelta v m d
      | none => if new then s.stageNew v m else (0, s)
    let st := if e.status ≠ 0 then e.status else q.1
    if st ≠ 0 then (if v.isMaster ∧ (s.role vat).remould.isSome then s.abandon vat st else s)
    else
      let t := if v.role = .standby ∧ v.moves.contains e.move = true then q.2.onRole vat fun r => { r with pulled := some e.weights }
        else if v.isMember ∧ e.move ≤ mMoveCount m ∧ (mMove m e.move).1 = v.lpkg then
          (q.2.onRole vat fun r => { r with moveFor := some e.move }).pausePages vat
        else q.2
      t.control v 0x04 (s.lpkgNode v v.masterLpkg) s.now 0 []

/-- REMOULD_STAGE_DONE. -/
def execRemouldStageDone (vat : Nat) (done : StageEnd) (s : State) : Host.Outcome State Fault Refusal := .next (s.stageDone vat done)

/-! ### HALT and the pause (R277) -/

/-- Write zeros over the working regions of a placed package (R280). -/
def State.zeroWorking (s : State) (vat : Nat) : State :=
  match (s.vat? vat).bind fun v => v.mould.map fun m => (v, m) with
  | none => s
  | some (v, m) =>
    let rs := mRegions m v.lpkg
    ((List.range rs.length).zip rs).foldl (fun t p =>
      if p.2.use = 2 then t.writePieces (v.regionPieces p.1 0 p.2.bytes ((s.vatSlot vat 5).getD 1)) (zeros p.2.bytes) else t) s

/-- The records of a package that has moved read Orphaned with 0x0720 (R251); their contexts are not known (DESIGN CHOICE, log entry 20). -/
def orphanRecords (n : Nat) : SMap Session :=
  (List.range n).map fun i => (i, { Session.free with state := .orphaned, orphan := 0x0720 })

/-- Tensor headers of a package (DEDUCED, log entry 24). -/
def State.readHeaders (s : State) (vat : Nat) : State :=
  match (s.vat? vat).bind fun v => v.mould.map fun m => (v, m) with
  | none => s
  | some (v, m) =>
    let hs := (List.range (mTensors m v.lpkg).length).map fun i => pressHdr (s.tensorBytes v v.lpkg v.place i).1
    s.onVat vat fun v => { v with headers := hs }

/-- A placed package's weight regions, in region-number order, as pieces of their regions. -/
def State.weightPieces (s : State) (vat : Nat) : Pieces :=
  match (s.vat? vat).bind fun v => v.mould.map fun m => (v, m) with
  | none => []
  | some (v, m) =>
    let rs := mRegions m v.lpkg
    (((List.range rs.length).zip rs).filter fun p => decide (p.2.use = 1)).flatMap fun p =>
      v.regionPieces p.1 0 p.2.bytes ((s.vatSlot vat 4).getD 1)

def Pieces.bytes (ps : Pieces) : Nat := (ps.map fun p => p.2.1).foldl (· + ·) 0

/-- The image of a cold move in the cave (R268). -/
def Vat.imageOf (v : Vat) (k : Nat) : Nat := ((v.desc.spares.find? fun e => decide (e.move = k)).map (·.image)).getD 0

/-- The weights of a cold move cannot be pulled: the old package gave none, and no Active extent holds the image (R280). -/
def State.imageLost (s : State) (v : Vat) (k bytes : Nat) : Bool :=
  let a := v.imageOf k
  decide (a < 2 ^ 48) || (cuts frameBytes (a - 2 ^ 48) bytes).any fun c => decide (s.caveStatus (c.1 / frameBytes) 1 ≠ 0)

/-- The weights of a cold move are placed: the bytes that the old package gave during prepare, else the image in the cave under the vat's
weight key (R280). -/
def State.pullWeights (s : State) (vat k : Nat) : State :=
  match s.vat? vat with
  | none => s
  | some v =>
    let ps := s.weightPieces vat
    match (s.role vat).pulled with
    | some w => s.writePieces ps (fitBytes ps.bytes w)
    | none => s.writePieces ps (s.dpaRead (s.slotKey ((s.vatSlot vat 4).getD 1)) (v.imageOf k) ps.bytes)

/-- A standby takes a move (R271, R274, R280): it enters Remoulding as member, warm as reserved or reserving now. -/
def State.takeMove (s : State) (vat k : Nat) : State :=
  match (s.vat? vat).bind fun v => v.mould.map fun m => (v, m) with
  | none => s
  | some (v, m) =>
    let l := (mMove m k).1
    let r := match mapFind v.reserves k with
      | some p => (0, s, p)
      | none => s.reserve vat (mouldFor m k) l
    let bytes := (((mRegions m l).filter fun r => decide (r.use = 1)).map (·.bytes)).foldl (· + ·) 0
    let cold := (mapFind v.reserves k).isNone
    if decide (r.1 ≠ 0) || cold && (s.role vat).pulled.isNone && s.imageLost v k bytes then s.note s.ccSource "VAT_NO_SPARE" 0x0721 else
    let pl := r.2.1.respare m l r.2.2
    let t := r.2.1.onRole vat fun r => { r with was := some (s.metered v) }
    let t := (t.onVat vat fun v => { v with
      role := .member, lpkg := l, state := .remoulding, place := pl,
      nodes := mapPut v.nodes l (s.moveNode v k) }).bindCores vat m l pl
    let t := if cold then t.pullWeights vat k else t
    let t := ((t.giveParams vat v.params).getD t).onVat vat fun v => { v with sessions := orphanRecords v.params.records }
    ((t.zeroWorking vat).readHeaders vat).onRole vat fun r => { r with
      joined := true, resolve := [], remould := none, haltAt := none, haltFrom := s.now, moveFor := some k, pulled := none }

/-- A new package of a reshape joins in the pause (R282): bound like a member that BIND_COMPLETE binds, its alternate store filled, in
Remoulding until the resume. -/
def State.joinNew (s : State) (vat : Nat) : State :=
  match (s.vat? vat).bind fun v => v.mould.map fun m => (v, m) with
  | none => s
  | some (v, m) =>
    let pl := s.respare m v.lpkg v.place
    let t := ((s.freeRegions vat).bindCores vat m v.lpkg pl).storeAlternates m v.lpkg pl
    let t := t.onVat vat fun v => { v with
      state := .remoulding, place := pl, chain := m.measure, comp := 0, meter := ⟨s.now, 0, 0⟩, regionObj := [] }
    (t.readHeaders vat).onRole vat fun r => { r with
      joined := true, staged := none, haltAt := none, haltFrom := s.now, reported := s.now, lastSent := s.now }

/-- HALT reaches this package (R277): a member halts at B and enters Remoulding, a standby waits for B to take its move, a new package of
a reshape to join. A HALT to stop alone leaves the vat Halted (R283; DESIGN CHOICE, log entry 134). -/
def State.takeHalt (s : State) (vat b : Nat) (what : HaltFor) : State :=
  match s.vat? vat with
  | none => s
  | some v =>
    let r := s.role vat
    let k := match what with
      | .move k => k
      | _ => 0xFFFF
    if v.state = .reserved then
      if r.staged.isNone ∨ what = .stop then s
      else if b ≤ s.now then s.joinNew vat else s.onRole vat fun r => { r with haltAt := some b }
    else if v.role = .standby then
      if v.state ≠ .standby ∨ !v.moves.contains k then s
      else if b ≤ s.now then s.takeMove vat k
      else s.onRole vat fun r => { r with
        haltAt := some b, remould := some ⟨[RemouldKind.move k], true, none, 1, [], [], some b, none, s.now⟩ }
    else
      let on := decide (what ≠ .stop) && (!v.isMaster || r.remould.isSome)
      let s := s.onRole vat fun r => { r with moveFor := if k = 0xFFFF then none else some k }
      if v.state = .running ∨ r.started.isSome then
        (s.onRole vat fun r => { r with haltTo := r.haltTo || on }).setHalt vat b
      else if v.state = .halted ∧ on then
        ((s.onVat vat fun v => { v with state := .remoulding }).onRole vat fun r => { r with
          haltFrom := s.now, remould := r.remould.map fun m => { m with phase := 2, since := s.now } }).pausePages vat
      else s

/-- HALT. -/
def execHalt (vat : Headed) (tick : Nat) (what : HaltFor) (s : State) : Host.Outcome State Fault Refusal :=
  .next (if !vat.ok then s else s.takeHalt vat.val tick what)

/-- What a Tick brings to the vats: halts that fall due, standbys that take their moves (R272, R277). -/
def State.haltDue (s : State) : State :=
  (s.roles.filter fun p => p.2.haltAt.any fun b => decide (b ≤ s.now)).foldl (fun t p =>
    match t.vat? p.1 with
    | none => t
    | some v =>
      if v.state = .reserved then t.joinNew p.1
      else if v.role = .standby then
        match t.movesNow p.1 with
        | k :: _ => t.takeMove p.1 k
        | [] => t
      else if v.step.isNone then (t.haltVat p.1).pausePages p.1 else t) s

/-- Nothing keeps a member from MEMBER_READY for the pause: no page-out is under way (R281), and where the move changes this package's link
tables every port that they name is Active (R283). -/
def State.pauseReady (s : State) (v : Vat) : Bool :=
  decide ((s.role v.desc.vatId).pageJobs = []) && match v.mould, (s.role v.desc.vatId).moveFor with
    | some m, some k =>
      let e := moveLinks m k
      (List.range 8).all fun p =>
        let es := fun (m : Mould) => (List.range (mSteps m).length).map fun i => mLinkTable m v.lpkg p i
        decide (es e = es m ∨ (es e).all (fun l => l.isEmpty) = true ∨ (s.port p).state = .active)
    | _, _ => true

/-- What a Tick brings to members whose MEMBER_READY waits. -/
def State.readyDue (s : State) : State :=
  (s.roles.filter fun p => p.2.waitPage).foldl (fun t p =>
    match t.vat? p.1 with
    | none => t
    | some v => if t.pauseReady v then
        (t.control v 0x04 (t.lpkgNode v v.masterLpkg) t.now 1 []).onRole p.1 fun r => { r with waitPage := false } else t) s

/-- The package has loaded its new tables and program stores (R277, R283): MEMBER_READY for the pause, which waits for page-outs and ports
(R281, R283). A status ends the remould here, 0x0812 at the time master where a digest check failed (R278); it also tells a package that
has staged that the time master abandoned the remould (DESIGN CHOICE, log entry 133). -/
def State.pauseLoaded (s : State) (vat status : Nat) : State :=
  match s.vat? vat with
  | none => s
  | some v =>
    if (s.role vat).started.isSome then s
    else if v.state ≠ .remoulding then (if status ≠ 0 ∧ !v.isMaster then s.unstage vat else s)
    else if status ≠ 0 then s.abandon vat 0x0812
    else if !s.pauseReady v then s.onRole vat fun r => { r with waitPage := true }
    else s.control v 0x04 (s.lpkgNode v v.masterLpkg) s.now 1 []

/-- PAUSE_LOAD_DONE. -/
def execPauseLoadDone (vat status : Nat) (s : State) : Host.Outcome State Fault Refusal := .next (s.pauseLoaded vat status)

/-- The Mould that a remould leads to: with the delta it carries, where it carries one. -/
def State.nextMould (s : State) (v : Vat) (m : Mould) : Mould :=
  match (s.role v.desc.vatId).remould, (s.role v.desc.vatId).staged with
  | some q, some d => if q.kinds.contains .delta then effective m d else m
  | _, _ => m

/-- The nodes of the vat's standbys that are not down. -/
def State.standbyNodes (s : State) (v : Vat) : List Nat :=
  (v.desc.spares.map fun e => s.moveNode v e.move).filter fun n => !s.nodeDown v.desc.vatId n

/-- The nodes that a RESUME goes to: every member of the new composition, every package that leaves it, every standby, none that is down
(R110, R277, R290, log entry 131). -/
def State.resumeNodes (s : State) (v : Vat) (m : Mould) : List Nat :=
  let e := s.nextMould v m
  let ms := s.movesNow v.desc.vatId
  let new := (List.range (mVatPackages e)).map fun l =>
    match ms.find? fun k => decide ((mMove m k).1 = l) with
    | some k => s.moveNode v k
    | none => if l < v.packages then s.lpkgNode v l else let p := mPkg e l; s.links.at v.desc.origin p.dx p.dy p.dz
  let old := ((List.range v.packages).map (s.lpkgNode v)).filter fun n => !s.nodeDown v.desc.vatId n
  (new ++ old ++ s.standbyNodes v).eraseDups

/-- The time master sends RESUME(R) (R277). -/
def State.sendResume (s : State) (vat : Nat) : State :=
  match (s.vat? vat).bind fun v => v.mould.map fun m => (v, m) with
  | none => s
  | some (v, m) =>
    let x := s.resumeTick m
    ((s.resumeNodes v m).foldl (fun t n => t.control v 0x03 n x 0 []) s).onRole vat fun r =>
      { r with remould := r.remould.map fun q => { q with resume := some x } }

/-- The packages whose MEMBER_READY a phase awaits, by logical package: in the pause of a move also the package that it leaves, where that
is not down (R277, R281). -/
def State.awaited (s : State) (v : Vat) (m : Mould) (q : Remould) : List Nat :=
  q.affected ++ if q.phase = 0 then [] else (q.moves.map fun k => (mMove m k).1).filter fun l => !s.nodeDown v.desc.vatId (s.lpkgNode v l)

/-- MEMBER_READY at the time master (R277): when all are ready, B or R is chosen. -/
def State.memberReady (s : State) (vat l phase : Nat) : State :=
  match s.vat? vat, (s.role vat).remould with
  | some v, some m =>
    if !v.isMaster ∨ !m.affected.contains l ∨ m.resume.isSome ∨ ¬((phase = 0 ∧ m.phase = 0) ∨ (phase = 1 ∧ 1 ≤ m.phase)) then s else
    let rd := m.ready ++ [l]
    let need := (v.mould.map fun o => s.awaited v o m).getD m.affected
    let t := s.onRole vat fun r => { r with remould := some { m with ready := rd } }
    if !need.all fun a => decide (need.count a ≤ rd.count a) then t
    else if phase = 0 then
      let all := (v.mould.map fun o => max v.packages (mVatPackages (s.nextMould v o))).getD v.packages
      (t.onRole vat fun r => { r with remould := some { m with ready := [], affected := List.range all } }).sendHalt vat
        (s.boundaryAfter v 256)
    else t.sendResume vat
  | _, _ => s

/-- MEMBER_READY. -/
def execMemberReady (vat : Headed) (lpkg phase : Nat) (s : State) : Host.Outcome State Fault Refusal := .next (if !vat.ok then s else s.memberReady vat.val lpkg phase)

/-- RECOVERY_TIMEOUT (R278): the pause has lasted longer than `RECOVERY_LIMIT` and no resume has come. -/
def execRecoveryTimeout (vat : Nat) (s : State) : Host.Outcome State Fault Refusal :=
  .next (if (s.vat? vat).any fun v => decide (v.state = .remoulding ∧ v.role = .member ∧
      (s.role vat).haltFrom + v.desc.limit < s.now ∧ (s.role vat).started = none) &&
      ((s.role vat).remould.all fun m => m.resume.isNone) then s.abandon vat 0x0722 else s)

/-! ### RESUME (R277, R287, R290) -/

/-- A package move takes effect (R283, R286): the logical package stands at its new node; roles exchanged by a takeover settle. -/
def State.applyMove (s : State) (vat k : Nat) : State :=
  s.onVat vat fun v => match v.mould with
    | none => v
    | some m =>
      let l := (mMove m k).1
      let v := { v with nodes := mapPut v.nodes l (s.moveNode v k), mould := some (moveLinks m k) }
      if v.acting.isSome ∧ l = v.desc.tm then
        { v with acting := none, desc := { v.desc with tm := v.desc.deputy, deputy := v.desc.tm } }
      else v

/-- Spare positions for the composition to come: a Retired core's place, a place asked for, else as before (R275, R277). -/
def State.newSpares (s : State) (pl : Placement) (asked : List Nat) : List Nat :=
  ((List.range pl.clusters.length).zip pl.clusters).map fun x =>
    match s.retiredIn x.2, asked.filter fun c => decide (c / 32 = x.2) with
    | c :: _, _ => c % 32
    | [], c :: _ => c % 32
    | [], [] => nth 16 pl.spares x.1

/-- The spare positions a remould asks for on this package. -/
def Remould.spares (m : Remould) (l : Nat) : List Nat :=
  m.kinds.filterMap fun k => match k with
    | .spare x c => if x = l then some c else none
    | _ => none

/-- An entry takes the placement that a delta staged for it: what the old one had beyond it is given back, its alternate store filled anew. -/
def State.applyEntry (s : State) (vat : Nat) (m e : Mould) (l : Nat) (old pl : Placement) : State :=
  let t := s.releaseBeyond vat (m, l, old) (e, l, pl)
  let cs := (old.clusters.filter fun k => !pl.clusters.contains k).flatMap fun k => (List.range 17).map (k * 32 + ·)
  ((cs.filter fun c => decide ((t.core c).vat = some vat)).foldl (fun t c => t.freeCore c) t).storeAlternates e l pl

/-- The entries of a vat take their staged placements; a package that joined by a move was staged under that move's number. -/
def State.applyEntries (s : State) (vat : Nat) (v : Vat) (m e : Mould) : State :=
  let t := v.stageList.foldl (fun t k =>
    let q := if k = 0 ∧ (mapFind v.reserves 4096).isNone then (s.role vat).moveFor.getD 0 else k
    match mapFind v.reserves (4096 + q) with
    | none => t
    | some pl =>
      let t := t.applyEntry vat (mouldFor m k) (mouldFor e k) (v.lpkgOf k) (v.placeFor k) pl
      t.onVat vat fun v => if k = 0 then { v with place := pl } else { v with reserves := mapPut v.reserves k pl }) s
  t.onVat vat fun v => { v with reserves := v.reserves.filter fun r => decide (r.1 < 4096) }

/-- The delta staged on this package takes effect (R110, R134). -/
def State.applyDelta (s : State) (vat : Nat) : State :=
  match (s.vat? vat).bind fun v => v.mould.bind fun m => (s.role vat).staged.map fun d => (v, m, d) with
  | none => s
  | some (v, m, d) =>
    let e := effective m d
    let n := mVatPackages e
    ((s.applyEntries vat v m e).onVat vat fun v =>
      let p := v.params
      { v with
        mould := some e, delta := if v.delta = some d then none else v.delta, chain := shake256 (v.chain ++ d.measure) 32,
        desc := { v.desc with packages := n },
        params := if p.records = 0 then p else { p with
          blocksH := leastOf n (kvBlocks e) / max 1 n, resH := p.resSlots / max 1 n, caveH := leastOf n (kvCaves e) / max 1 n } }).onRole vat fun r =>
      { r with staged := none }

/-- Every eligible session is offered again, keeping its `ELIGIBLE_TICK` (R287). -/
def State.reofferAll (s : State) (vat : Nat) : State :=
  match s.vat? vat with
  | none => s
  | some v => v.sessions.foldl (fun t p =>
      match t.vat? vat with
      | none => t
      | some v =>
        if !t.eligible v p.1 then t
        else if (v.wk p.1).offered.isSome then
          (t.offer vat p.1 false).onWk vat p.1 fun w => { w with offered := some (t.need v (v.sess p.1)) }
        else t.sessEligible vat p.1) s

/-- A package leaves the vat at a resume: its logical package has moved, or the delta has removed it (R281, R282). -/
def State.leaves (s : State) (v : Vat) (m : Mould) (moved : List Nat) : Bool :=
  (moved.any fun k => decide ((mMove m k).1 = v.lpkg ∧ s.moveNode v k ≠ s.links.node)) ||
    (s.role v.desc.vatId).staged.any fun d => decide (mVatPackages (effective m d) ≤ v.lpkg)

/-- RESUME on a member (R277): the composition changes in the pause and the vat runs from R. -/
def State.resumeMember (s : State) (v : Vat) (m : Mould) (vat x : Nat) (moved : List Nat) : State :=
  let asked := ((s.role vat).remould.map fun q => q.spares v.lpkg).getD []
  let t := (moved.foldl (fun t k => t.applyMove vat k) s).applyDelta vat
  let t := match t.vat? vat with
    | some u =>
      let sp := t.newSpares u.place asked
      if sp = v.place.spares ∧ u.mould = some m ∧ u.place = v.place then t
      else
        let pl := { u.place with spares := sp }
        ((t.onVat vat fun u => { u with place := pl }).bindCores vat (u.mould.getD m) u.lpkg pl).readHeaders vat
    | none => t
  let t := t.onLinks fun l => { l with ports := mapAll l.ports fun _ p => { p with stale := p.stale.filter (· ≠ vat) } }
  let t := if moved = [] then t else t.moveShares vat
  let t := if v.moves = [] then t else
    ((v.reserves.filter fun p => decide (p.1 < 4096 ∧ some p.1 ≠ (s.role vat).moveFor)).foldl (fun t p => t.releasePlace vat m (mMove m p.1).1 p.2) t).onVat
      vat fun v => { v with moves := [], reserves := [] }
  ((t.startAt vat x).onRole vat fun r => { r with moveFor := none, waitPage := false }).reofferAll vat

/-- RESUME (R277): a member changes with the composition and runs from R; a standby changes with it and stands by on (R110, log entry 131);
the package that leaves is Departing until R, then Washing (R266, R281, DEDUCED, log entry 25). -/
def State.resumeVat (s : State) (vat x : Nat) (moved : List Nat) : State :=
  match (s.vat? vat).bind fun v => v.mould.map fun m => (v, m) with
  | none => s
  | some (v, m) =>
    let t := s.onRole vat fun r => { r with was := some (s.metered v) }
    if v.role = .standby ∧ v.state = .standby then
      ((moved.foldl (fun t k => t.applyMove vat k) t).applyDelta vat).onRole vat fun r => { r with started := some x }
    else if v.state ≠ .remoulding ∨ v.role ≠ .member then s
    else if s.leaves v m moved then
      (t.onVat vat fun v => { v with role := .departing }).onRole vat fun r => { r with started := some x, waitPage := false }
    else t.resumeMember v m vat x moved

/-- RESUME. A package that has just joined takes the composition's number from it. -/
def execResume (vat : Headed) (tick compSeq : Nat) (moved : List Nat) (s : State) : Host.Outcome State Fault Refusal :=
  .next (if !vat.ok then s else
    let new := ((s.vat? vat.val).map (·.comp)).getD 0 = 0
    if new ∨ compSeq ≤ ((s.vat? vat.val).map (·.comp)).getD 0 + 1 then
      (if new then s.onVat vat.val fun v => { v with comp := compSeq } else s).resumeVat vat.val tick moved
    else s)

/-- What waited for the resume begins (R278). -/
def State.lateRemoulds (s : State) (vat : Nat) : State :=
  (s.role vat).later.foldl (fun t x => match x with
    | .pkg l loss => t.replacePkg vat l loss
    | .spare l c => t.spareRemould vat l c) (s.onRole vat fun r => { r with later := [] })

/-- A vat enters Running at its Tick; a resume ends the composition before it, whose record is written (R271, R290, R291). A standby stands
by on, a package that has left is washed. -/
def State.enterRunning (s : State) : State :=
  (s.roles.filter fun p => p.2.started.any fun x => decide (x ≤ s.now)).foldl (fun t p =>
    match t.vat? p.1 with
    | none => t
    | some v =>
      let t := if v.state = .remoulding ∨ v.state = .standby then
          (((t.excuse p.1).writeMeter p.1 1).onVat p.1 fun v => { v with comp := v.comp + 1 }).onRole p.1 fun r => { r with was := none } else t
      let t := match (t.role p.1).remould.bind (·.ref) with
        | some r => t.finish r 0
        | none => t
      if v.role = .departing then t.washVat p.1
      else if v.state = .standby then t.onRole p.1 fun r => { r with started := none }
      else
        ((t.onVat p.1 fun v => { v with state := .running }).onRole p.1 fun r => { r with
          started := none, remould := if v.state = .remoulding then none else r.remould }).lateRemoulds p.1) s

/-! ### The deputy (R286) -/

/-- BOUNDARY_REPORT: the deputy records the report and restarts its wait. -/
def execBoundaryReport (vat : Headed) (_tick : Nat) (s : State) : Host.Outcome State Fault Refusal :=
  .next (if !vat.ok then s else if (s.vat? vat.val).any Vat.isDeputy then s.onRole vat.val fun r => { r with reported := s.now } else s)

/-- A report is due: a boundary since the last one, or 4,096 Ticks gone. -/
def State.reportDue (s : State) (vat : Nat) : Bool :=
  let r := s.role vat
  (s.vat? vat).any fun v => v.isMaster && decide (v.desc.tm ≠ v.desc.deputy) && s.canStep &&
    decide (v.state ≠ .defined ∧ v.state ≠ .reserved ∧ v.state ≠ .washing) &&
    (decide (r.lastSent < r.lastRep ∧ r.lastRep ≤ s.now) || decide (r.lastSent + 4096 ≤ s.now))

/-- BOUNDARY_REPORT_TIMER: the time master sends the most recent boundary to the deputy. -/
def State.sendReport (s : State) (vat : Nat) : State :=
  match s.vat? vat with
  | none => s
  | some v =>
    (s.control v 0x05 (s.lpkgNode v v.desc.deputy) (s.role vat).lastRep 0 []).onRole vat fun r => { r with lastSent := s.now }

def execBoundaryReportTimer (vat : Nat) (s : State) : Host.Outcome State Fault Refusal :=
  .next (if s.reportDue vat then s.sendReport vat else s)

/-- The deputy has had no report for 8,192 Ticks. -/
def State.silent (s : State) (vat : Nat) : Bool :=
  (s.vat? vat).any fun v => v.isDeputy && decide (v.acting = none ∧ (s.role vat).reported + 8192 ≤ s.now) &&
    decide (v.state = .bound ∨ v.state = .running ∨ v.state = .halted ∨ v.state = .remoulding)

/-- The deputy becomes time master and replaces the old one's package; in Bound, where no halt can come, that waits until the vat runs
(DEDUCED, log entry 135). Standbys hear of it too (log entry 131). -/
def State.deputyTakes (s : State) (vat : Nat) : State :=
  match s.vat? vat with
  | none => s
  | some v =>
    let t := (s.note s.ccSource "TAKEOVER" v.desc.tm).controlAll v 0x06 s.now 0 []
    let t := (s.standbyNodes v).foldl (fun t n => t.control v 0x06 n s.now 0 []) t
    let t := t.onVat vat fun v => { v with acting := some v.lpkg }
    let node := s.lpkgNode v v.desc.tm
    let t := t.onRole vat fun r => { r with downs := r.downs ++ [(node, s.links.node, s.now)] }
    if v.state = .bound then t.doLater vat (.pkg v.desc.tm true) else t.lose vat node

/-- DEPUTY_TAKEOVER (R286). -/
def execDeputyTakeover (vat : Nat) (s : State) : Host.Outcome State Fault Refusal :=
  .next (if s.silent vat then s.deputyTakes vat else s)

/-- A member learns of the new time master and repeats the MEMBER_DOWN messages of the last 16,384 Ticks. -/
def State.takeTakeover (s : State) (vat sender : Nat) : State :=
  match s.vat? vat with
  | none => s
  | some v =>
    if ¬(v.isMember = true ∨ v.state = .standby) ∨ sender ≠ v.desc.deputy then s else
    let t := s.onVat vat fun v => { v with acting := some sender }
    ((s.role vat).sentDown.filter fun d => decide (s.now ≤ d.2.2.2 + 16384)).foldl (fun t d => t.sendDown vat d.1 d.2.1 d.2.2.1) t

/-- TAKEOVER (R286). -/
def execTakeover (vat : Headed) (sender : Nat) (s : State) : Host.Outcome State Fault Refusal := .next (if !vat.ok then s else s.takeTakeover vat.val sender)

/-! ### VAT_QUERY (R307) -/

def VatState.code : VatState → Nat
  | .defined => 0
  | .reserved => 1
  | .bound => 2
  | .running => 3
  | .halted => 4
  | .remoulding => 5
  | .washing => 6
  | .standby => 7

/-- VAT_QUERY is accepted in every state, Washing included (R271; DEDUCED, log entry 136). -/
def ownVatQuery (s : State) (c : Cmd) : Nat := if (s.vat? (cmdVatId c.bytes)).isNone then 0x0215 else 0

/-- Spare cores of a vat's bound clusters that are not Retired (R275). -/
def State.spareCores (s : State) (v : Vat) : Nat :=
  (s.cores.filter fun p => decide (p.2.vat = some v.desc.vatId ∧ p.2.state = .spare)).length

/-- The free spare slices of the base dies that carry the vat's slices (R16, R275). -/
def State.spareSlices (s : State) (v : Vat) : Nat :=
  let dies := (List.range 4).filter fun d => v.place.slices.any fun k => decide (k / 66 = d)
  (dies.flatMap fun d => [d * 66 + 64, d * 66 + 65].filter fun k =>
    s.sliceFree k && !(s.mem.copies.any fun c => decide (c.2.spare = k))).length

/-- The record of VAT_QUERY. -/
def State.vatRecord (s : State) (v : Vat) : List Byte :=
  leBytes 2 0x1000 ++ leBytes 1 v.state.code ++ leBytes 1 v.role.code ++ leBytes 2 v.lpkg ++ leBytes 2 (s.spareCores v) ++
    leBytes 4 v.comp ++ leBytes 2 (s.spareSlices v) ++ leBytes 2 (s.usableMoves v).length ++ fitBytes 32 v.chain ++ zeros 16

/-- VAT_QUERY (R307). -/
def execVatQuery (r : CmdRef) (s : State) : Host.Outcome State Fault Refusal :=
  .next (s.checked r 0x39 ownVatQuery fun c =>
    match s.vat? (cmdVatId c.bytes) with
    | some v => (s.hostPost 0 (field c.bytes 0x10 8) (s.vatRecord v)).finish r 0
    | none => s)

/-! ### Metering (R291, R292) -/

def meterPeriod : Nat := 16777216

/-- METER_INTERVAL (R291): an interim record each 16,777,216 Ticks of a composition's life. -/
def execMeterInterval (vat : Nat) (s : State) : Host.Outcome State Fault Refusal :=
  .next (if (s.vat? vat).any fun v => decide (1 ≤ v.comp ∧ v.state ≠ .washing ∧ v.meter.first + meterPeriod ≤ s.now) then
    s.writeMeter vat 1 else s)

/-- METER_READ (R292): records in `METER_SEQ` order from a number on. -/
def execMeterRead (r : CmdRef) (s : State) : Host.Outcome State Fault Refusal :=
  .next (s.onDue r 0x3A fun c =>
    let rs := (s.meters.filter fun b => decide (field c.bytes 0x10 4 ≤ meterSeq b)).take (field c.bytes 0x14 4)
    (s.hostPost 0 (field c.bytes 0x18 8) rs.flatten).finish r 0)

/-- METER_ACK (R292): records up to a number are released. -/
def execMeterAck (r : CmdRef) (s : State) : Host.Outcome State Fault Refusal :=
  .next (s.onDue r 0x3B fun c => (s.journalAdd (.meterAck (min (field c.bytes 0x10 4) s.boot.meterTop))).finish r 0)

end Sys2Proof.Machine
end

