-- ==== Sys2Proof/Machine/Queues.lean ====
section
/-! DEFINITION. Doorbells, fetch, dispatch and completion (R302 to R305, R308, R309, R314, R315), page walks (R223) and fault batches
(R227 to R230). -/

namespace Sys2Proof.Machine
open Sys2Proof

/-! ### Doorbells and fetch -/

/-- A doorbell slot is reached through BAR0 of the PF or of the context's function (R441, R465, R470). -/
def State.doorOpen (s : State) (ctx : Nat) : Bool := s.barOpen 0 || s.barOpen (s.ctx ctx).function

/-- SQ_TAIL (R301, R302). -/
def State.regSqTail (s : State) (ctx q value : Nat) : State :=
  (s.setDoor ctx q fun d => (value % 2 ^ 32, d.2)).doorCheck ctx q

/-- SQ_TAIL, which the host reaches once the package is Ready (R441). -/
def execSqTail (ctx q value : Nat) (s : State) : Host.Outcome State Fault Refusal :=
  .next (if s.doorOpen ctx then s.regSqTail ctx q value else s)

/-- CQ_HEAD (R301, R302). -/
def State.regCqHead (s : State) (ctx q value : Nat) : State :=
  (s.setDoor ctx q fun d => (d.1, value % 2 ^ 32)).doorCheck ctx q

/-- CQ_HEAD, which the host reaches once the package is Ready (R441). -/
def execCqHead (ctx q value : Nat) (s : State) : Host.Outcome State Fault Refusal :=
  .next (if s.doorOpen ctx then s.regCqHead ctx q value else s)

/-- COMMAND_FETCH (R303). -/
def execCommandFetch (ctx q : Nat) (s : State) : Host.Outcome State Fault Refusal :=
  .next (if s.canFetch ctx q then s.fetch ctx q else s)

/-! ### Waiting (R315) -/

/-- What the `WAIT` of a head command comes to: nothing to wait on, still waiting, or met with a status. -/
inductive WaitEnd
  | pass
  | stay (s : State)
  | refuse
  | met (status : Nat)

/-- A queue that finds every wait slot taken asks for one at this Tick, unless it holds one or has asked already (R315). -/
def Queue.asks (u : Queue) (now : Nat) : Queue := if u.slotted then u else { u with asked := u.asked.or (some now) }

/-- A queue that has asked for a wait slot and could take one. -/
def State.asking (s : State) (k : Nat) (u : Queue) : Bool :=
  u.asked.isSome && !u.slotted && !u.error && (s.ctx (k / 16)).slot.isSome && decide (u.fetched ≠ [])

/-- No other queue has asked before: slots go in the order of R145, by Tick, then by context and queue number (R315). -/
def State.slotTurn (s : State) (c q : Nat) : Bool :=
  let mine := ((s.queue? c q).bind (·.asked)).getD s.now
  !(s.objs.queues.any fun p => decide (p.1 ≠ 16 * c + q) && s.asking p.1 p.2 &&
    decide (p.2.asked.getD 0 < mine ∨ (p.2.asked.getD 0 = mine ∧ p.1 < 16 * c + q)))

/-- The wait of the head command of a queue. -/
def State.waitHead (s : State) (c q : Nat) (u : Queue) (b : List Byte) : WaitEnd :=
  let f := field b 6 2
  if !cmdFlag b 1 then .pass
  else match u.met with
    | some st => .met st
    | none =>
      if !s.mayWait c f then .refuse
      else match u.waiting with
        | some _ =>
          if u.slotted ∨ 2048 ≤ s.waitsUsed ∨ !s.slotTurn c q then .stay (s.onQueue c q fun u => u.asks s.now)
          else .stay (s.onQueue c q fun u => { u with slotted := true })
        | none =>
          if 2048 ≤ s.waitsUsed ∨ !s.slotTurn c q then .stay (s.onQueue c q fun u => u.asks s.now)
          else if (s.fence f).signalled then .met (s.fence f).status
          else .stay (s.onQueue c q fun u => { u with waiting := some (f, (s.fence f).epoch), slotted := true })

/-! ### The checks of R308 -/

/-- A command as it enters dispatch. -/
def newCmd (r : CmdRef) (b : List Byte) (since gen : Nat) : Cmd where
  ref := r
  bytes := b
  phase := .ready
  status := 0
  result := 0
  tiles := []
  objs := []
  fence := none
  since := since
  silent := false
  orphan := false
  gen := gen
  faulted := none
  heldAt := 0
  excused := 0
  staged := none

/-- A command that fails a check is finished with its status, its fence armed or none (R308, R314). -/
def State.reject (s : State) (c : Cmd) (status : Nat) (fence : Option Nat) : State :=
  (s.popHead c.ref.ctx c.ref.q).enter { c with phase := .done, status := status, fence := fence }

/-- A command that fails its own check: MOULD_LOAD, BIND_RESERVE and BIND_COMPLETE write their report first (R137, log entry 70). -/
def State.rejectOwn (s : State) (c : Cmd) (status : Nat) : State :=
  let t := if [0x31, 0x32, 0x33].contains (cmdOp c.bytes) then
      s.hostPost 0 (field c.bytes 0x20 8) (mouldReport status none (((s.vat? (cmdVatId c.bytes)).map (·.lpkg)).getD 0xFFFF) [])
    else s
  t.reject c status c.fence

/-- A command that fails before check 5 signals its fence where the context may and nothing is pending on it. -/
def State.rejectArmed (s : State) (c : Cmd) (status : Nat) : State :=
  let f := cmdFence c.bytes
  if cmdFlag c.bytes 0 ∧ s.mayFence c.ref.ctx f ∧ (s.fence f).pending = none then
    (s.armFence f c.ref).reject c status (some f)
  else s.reject c status none

/-- A command past the checks 1 to 6: its fence is armed. -/
def State.armCmd (s : State) (c : Cmd) : State × Cmd :=
  if cmdFlag c.bytes 0 then (s.armFence (cmdFence c.bytes) c.ref, { c with fence := some (cmdFence c.bytes) }) else (s, c)

/-- Checks 1 to 3. -/
def State.formStatus (s : State) (b : List Byte) : Nat :=
  if field b 0 2 ≠ 0x1000 then 0x0102
  else if !cmdReservedOk b then 0x0101
  else if cmdValueBad b (s.ctx (cmdTarget b)).function then 0x0103 else 0

/-- A region object stands only as the destination of an OPEN (R139). -/
def State.regionMisused (s : State) (b : List Byte) : Bool :=
  decide (cmdOp b ≠ 0x06) && (cmdObjs b).any fun o => (s.obj? (hIdx o.1)).any fun m => m.region.isSome

/-- Check 12 by opcode, the first half of the table. -/
def ownCheckA (s : State) (c : Cmd) : Nat :=
  let op := cmdOp c.bytes
  if op = 0x05 then ownSeal s c
  else if op = 0x06 then ownOpen s c
  else if op = 0x10 then ownSessionOpen s c
  else if op = 0x11 then ownSessionClose s c
  else if op = 0x12 then ownSessionReset s c
  else if op = 0x13 then ownSessionCancel s c
  else if op = 0x14 then ownSessionQuery s c
  else if op = 0x15 then ownSessionSetSampling s c
  else if op = 0x16 then ownSessionSetBias s c
  else if op = 0x17 then ownSessionTree s c
  else if op = 0x18 then ownGenerate s c
  else if op = 0x20 then ownContextCreate s c
  else if op = 0x21 then ownContextDestroy s c
  else if op = 0x22 then ownQueueCreate s c
  else if op = 0x23 then ownQueueDestroy s c
  else 0

/-- Check 12 by opcode, the second half. -/
def ownCheckB (s : State) (c : Cmd) : Nat :=
  let op := cmdOp c.bytes
  if op = 0x24 then ownMemobjCreate s c
  else if op = 0x25 then ownMemobjFree s c
  else if op = 0x26 then ownCaveAccept s c
  else if op = 0x27 then ownCaveRelease s c
  else if op = 0x30 then ownVatDefine s c
  else if op = 0x31 then ownMouldLoad s c
  else if op = 0x32 then ownBindReserve s c
  else if op = 0x33 then ownBindComplete s c
  else if op = 0x34 then ownSessionsConfigure s c
  else if op = 0x35 then ownVatStart s c
  else if op = 0x36 then ownVatHalt s c
  else if op = 0x37 then ownVatUnbind s c
  else if op = 0x38 then ownVatRemould s c
  else if op = 0x39 then ownVatQuery s c
  else 0

/-- Check 12. -/
def ownCheck (s : State) (c : Cmd) : Nat :=
  if s.regionMisused c.bytes then 0x0301
  else if cmdOp c.bytes < 0x24 then ownCheckA s c else ownCheckB s c

/-! ### Tiles (R225, R226) -/

/-- The pieces of a range of a region object, under the vat's weight key (R139). -/
def State.regionTile (s : State) (vat code off len : Nat) : Pieces :=
  match s.vat? vat with
  | none => []
  | some v =>
    let k := code / 1024
    let slot := (s.vatSlot vat 4).getD 1
    if k = 0 then v.regionPieces (code % 1024) off len slot
    else
      let u := { v with
        place := mapGet Placement.empty v.reserves k,
        lpkg := (v.mould.map fun m => (mMove m k).1).getD 0 }
      u.regionPieces (code % 1024) off len slot

/-- The tile of operand `i`. -/
def State.tileOf (s : State) (ctx i : Nat) (o : ObjOp) : Tile :=
  match s.obj? (hIdx o.1) with
  | none => ⟨i, o.1, o.2.1, 0, o.2.2.2, false, 0, [], [], []⟩
  | some m =>
    match m.region with
    | some (v, k) => ⟨i, o.1, o.2.1, o.2.2.1, o.2.2.2, false, 0, [], [], s.regionTile v k o.2.1 o.2.2.1⟩
    | none =>
      if ctx = 0 then ⟨i, o.1, o.2.1, o.2.2.1, o.2.2.2, false, 0, [], [], m.piecesOf o.2.1 o.2.2.1⟩
      else ⟨i, o.1, o.2.1, o.2.2.1, o.2.2.2, true, m.vaBase + o.2.1, [], [], []⟩

def State.tilesOf (s : State) (ctx : Nat) (b : List Byte) : List Tile :=
  let os := cmdObjs b
  ((List.range os.length).zip os).map fun p => s.tileOf ctx p.1 p.2

/-- The page count at dispatch exceeds 16 for some operand (R225). -/
def State.tooLarge (s : State) (b : List Byte) : Bool :=
  (cmdObjs b).any fun o => (s.obj? (hIdx o.1)).any fun m =>
    m.region.isNone && decide (0 < o.2.2.1 ∧ 16 < (m.vaBase + o.2.1 + o.2.2.1 - 1) / m.page + 1 - (m.vaBase + o.2.1) / m.page)

/-! ### Dispatch -/

/-- What a command does in its dispatch cycle: MEMOBJ_FREE and BIND_COMPLETE advance generations (R139, R312), CONTEXT_DESTROY begins the
teardown (R316). -/
def State.atDispatch (s : State) (c : Cmd) : State :=
  if cmdOp c.bytes = 0x25 then s.freeObj (hIdx (cmdTarget c.bytes))
  else if cmdOp c.bytes = 0x33 then s.freeRegions (cmdVatId c.bytes)
  else if cmdOp c.bytes = 0x21 then s.teardown (cmdTarget c.bytes) (some c.ref)
  else s

/-- A command that has passed every check enters dispatch and its tiles resolve; OPEN translates only after it has authenticated its
buffer (R381). -/
def State.enrol (s : State) (c : Cmd) : State :=
  let b := c.bytes
  let t := s.popHead c.ref.ctx c.ref.q
  if s.tooLarge b then t.enter { c with phase := .done, status := 0x0140, objs := (cmdObjs b).map fun o => hIdx o.1 }
  else
    let c := { c with tiles := s.tilesOf c.ref.ctx b, objs := (cmdObjs b).map fun o => hIdx o.1 }
    let t := (t.enter c).atDispatch c
    if cmdOp b = 0x06 then t else if c.tiles.any (·.virt) then t.resolve c.ref else (t.askBursts c.ref).parkCut c.ref

/-- A vat holds dies, slices or stacks of a half. -/
def Vat.inHalf (v : Vat) (h : Nat) : Bool :=
  (v.place :: v.reserves.map (·.2)).any fun p => p.clusters.any (fun k => decide (k / 16 = h)) || p.slices.any (fun k => decide (k / 132 = h)) ||
    p.stackSet.any fun q => decide (q / 8 = h)

/-- MEMOBJ_CREATE lacks pages that a half out of reach has (R358). -/
def State.pagesCut (s : State) (b : List Byte) : Bool :=
  let pool := fun (t : State) => (t.pagePool (field b 0x28 1) (field b 0x29 1) (objPage b / frameBytes)).length
  decide (pool s < field b 0x10 8 / objPage b ∧ field b 0x10 8 / objPage b ≤ pool s.bothHalves)

/-- An admin command needs a resource of a half: pages of its objects, the stack MEMOBJ_CREATE names or pages that only this half has, the
CXL port of an extent, or what a vat holds (R358). -/
def State.needsHalf (s : State) (b : List Byte) (h : Nat) : Bool :=
  let op := cmdOp b
  ((cmdObjs b).any fun o => (s.obj? (hIdx o.1)).any fun m => m.pages.any (inHalf h)) ||
  (decide (op = 0x24 ∧ field b 0x28 1 = 1) && decide (field b 0x29 1 / 8 = h)) ||
  (decide (op = 0x24 ∧ field b 0x28 1 ≠ 1) && s.halfCut h && s.pagesCut b) ||
  (decide (op = 0x26 ∨ op = 0x27) && decide ((s.extent (cmdTarget b)).port / 2 = h)) ||
  (decide (0x32 ≤ op ∧ op ≤ 0x38) && (s.vat? (cmdVatId b)).any fun v => v.inHalf h)

/-- The status of an admin command that needs a half out of reach, of the senior complex or of the host port (R15, R358). -/
def State.cutStatus (s : State) (c : Cmd) : Nat :=
  if c.ref.ctx = 0 && ((s.halfCut 0 && s.needsHalf c.bytes 0) || ((s.halfCut 1 || decide (s.bridgesUp = [])) && s.needsHalf c.bytes 1)) then
    0x0701 else 0

/-- The checks of R308 on the head command. -/
def State.check (s : State) (c : Cmd) : State :=
  let b := c.bytes
  let ctx := c.ref.ctx
  let st := s.formStatus b
  if st ≠ 0 then s.reject c st none
  else if !kindOk ctx (cmdOp b) then s.rejectArmed c 0x0302
  else if cmdFlag b 0 && !s.mayFence ctx (cmdFence b) then s.reject c 0x0303 none
  else if cmdFlag b 0 && (s.fence (cmdFence b)).pending.isSome then s.reject c 0x0240 none
  else
    let q := s.armCmd c
    let st := q.1.objStatus ctx b
    let st := if st ≠ 0 then st
      else if (s.ctx ctx).conf ∧ (cmdOp b = 0x03 ∨ cmdOp b = 0x04) then 0x0304 else 0
    if st ≠ 0 then q.1.reject q.2 st q.2.fence
    else if cmdZero b then q.1.reject q.2 0 q.2.fence
    else
      let st := ownCheck q.1 q.2
      let st := if st ≠ 0 then st else q.1.cutStatus q.2
      if st ≠ 0 then q.1.rejectOwn q.2 st else q.1.enrol q.2

/-- A queue's head may come to dispatch: a command held by a fault holds back the later ones (R297, R303). -/
def State.canDispatch (s : State) (c q : Nat) : Bool :=
  match s.queue? c q with
  | none => false
  | some u => decide ((s.ctx c).state = .active) && (s.ctx c).slot.isSome && !u.error && decide (u.fetched ≠ []) && !s.queueHeld c q && !s.asleep &&
    !s.adminStopped c

/-- Every earlier command of the queue has completed, where `BARRIER` asks so (R305). -/
def State.barrierMet (s : State) (c q : Nat) (b : List Byte) : Bool :=
  !cmdFlag b 3 || !(s.objs.cmds.any fun x => decide (x.ref.ctx = c ∧ x.ref.q = q))

/-- The head of a queue comes to dispatch: wait, barrier, checks. -/
def State.dispatch (s : State) (c q : Nat) : State :=
  match (s.queue? c q).bind fun u => u.fetched.head?.map fun h => (u, h) with
  | none => s
  | some (u, h) =>
    let x := newCmd ⟨c, q, h.idx⟩ h.bytes s.now (s.slot (cmdSlot h.bytes)).gen
    let go := fun (t : State) => if t.barrierMet c q h.bytes then t.check x else t
    match s.waitHead c q u h.bytes with
    | .pass => go s
    | .stay t => t
    | .refuse => s.rejectArmed x 0x0303
    | .met st => if cmdFlag h.bytes 2 ∧ 256 ≤ st then s.rejectArmed x 0x0242
        else go (s.onQueue c q fun u => { u with met := some st })

/-- COMMAND_DISPATCH (R308). -/
def execCommandDispatch (ctx q : Nat) (s : State) : Host.Outcome State Fault Refusal :=
  .next (if s.canDispatch ctx q then s.dispatch ctx q else s)

/-! ### Completion -/

/-- COMMAND_COMPLETE (R304): the command has finished and the host can be reached (R466). -/
def execCommandComplete (r : CmdRef) (s : State) : Host.Outcome State Fault Refusal :=
  .next (match s.cmd? r with
    | some c => if c.phase = .done ∧ (s.cmdHost c ∨ c.orphan) then s.complete c else s
    | none => s)

/-! ### Walks and faults -/

/-- PAGE_WALK_DONE (R223). -/
def execPageWalkDone (r : CmdRef) (operand : Nat) (page : WalkPage) (s : State) : Host.Outcome State Fault Refusal :=
  .next (s.walkDone r operand page)

/-- The open batch is due: full, or 1,250 Ticks after its first entry (R227). -/
def State.batchDue (s : State) : Bool :=
  decide (s.xl.openEnts ≠ [] ∧ (64 ≤ s.xl.openEnts.length ∨ s.xl.openTick + 1250 ≤ s.now))

/-- FAULT_BATCH_CLOSE (R227). -/
def execFaultBatchClose (s : State) : Host.Outcome State Fault Refusal := .next (if s.batchDue then s.closeBatch else s)

/-- FAULT_DONE (R229). -/
def State.regFaultDone (s : State) (value : Nat) : State :=
  s.answerBatch (value % 2 ^ 32)

/-- FAULT_DONE, which the host reaches once the package is Ready (R441). -/
def execFaultDone (value : Nat) (s : State) : Host.Outcome State Fault Refusal :=
  .next (if s.barOpen 0 then s.regFaultDone value else s)

/-- FAULT_ENABLE (R227): setting it writes the waiting batches in order. -/
def State.regFaultEnable (s : State) (value : Nat) : State :=
  let t := s.onXl fun x => { x with enable := decide (value % 2 = 1) }
  t.writeBatches t.xl.closed.length

/-- FAULT_ENABLE, which the host reaches once the package is Ready (R441). -/
def execFaultEnable (value : Nat) (s : State) : Host.Outcome State Fault Refusal :=
  .next (if s.barOpen 0 then s.regFaultEnable value else s)

/-- FAULT_TIMEOUT (R230). -/
def execFaultTimeout (r : CmdRef) (s : State) : Host.Outcome State Fault Refusal :=
  .next (match s.cmd? r with
    | some c =>
      if c.phase = .held ∧ c.faulted.any fun t => decide (t + 12500000 ≤ s.now) then
        (s.finish r 0x0405).onXl fun x => { x with timeouts := sat32 x.timeouts 1 }
      else s
    | none => s)

end Sys2Proof.Machine
end

