-- ==== Sys2Proof/Machine/Security.lean ====
section
/-! DEFINITION. The key vault: roots and derivation (R361 to R363), capsules (R371 to R375), the Rind Report (R376 to R378), requests
(R391, R392), retiring slots (R367), the Wash (R384, R385), the wipe of R389. -/

namespace Sys2Proof.Machine
open Sys2Proof

/-! ### Roots and the identity -/

/-- The test root (R361). -/
def testRoot : List Byte := shake256 (ascii "KAMVY-CX1-TEST-ROOT") 32

/-- The root of a lifecycle state (R361): 0 Green, 1 Ripe, 2 Opened; Spent has none. -/
def State.root (s : State) : Option (List Byte) :=
  if s.keys.lifecycle = 1 then some s.fuses.root else if s.keys.lifecycle = 3 then none else some testRoot

/-- The identity public key of a root: PK.seed and PK.root (R363). -/
def devicePub (root : List Byte) : List Byte :=
  let seeds := derive root "KMV.IDENT" [] 96
  (seeds.drop 64).take 32 ++ (List.range 32).map fun i => Config.slhRoot seeds i

/-- `DEVICE_PUB`; in Spent its seeds come from the random source and are free values (DESIGN CHOICE, log entry 3). -/
def State.pub (s : State) : List Byte :=
  match s.root with
  | some r => devicePub r
  | none => devicePub ((List.range 32).map fun i => Config.freeByte (2 ^ 64 * (s.boot.count + 1) + i))

def State.deviceId (s : State) : List Byte := shake256 s.pub 16

/-! ### Slots 0 and 1 and the wipe -/

/-- A root key for the boot: derived, or in Spent drawn from the random source (R361, R363). -/
def State.bootKey (s : State) (label : String) (n : Nat) : List Byte :=
  match s.root with
  | some r => derive r label s.keys.nonce n
  | none => s.freeBytes n

/-- A device slot, Active from boot (R364). -/
def deviceSlot (kind : Nat) (key : List Byte) : KeySlot := { KeySlot.none with state := .active, kind := kind, key := key }

/-- The vault at a boot (R363, R370): a boot nonce, slots 0 and 1, a new key pair. -/
def State.bootKeys (s : State) : State :=
  let t := (s.onKeys fun v => { v with nonce := s.freeBytes 32 }).draw 32
  let t := (t.fillSlot 0 (deviceSlot 0x01 (t.bootKey "KMV.MEM0" 64))).draw 64
  let t := (t.fillSlot 1 (deviceSlot 0x02 (t.bootKey "KMV.MEM1" 64))).draw 64
  let t := (t.onKeys fun v => { v with ek := t.freeBytes 1568 }).draw 1568
  (t.onKeys fun v => { v with dk := t.freeBytes 3168 }).draw 3168

/-- The wipe of R389: secure SRAM, every cipher key and link key, every slot Empty. -/
def State.wipeKeys (s : State) : State :=
  (s.onKeys fun v => { v with slots := [], secrets := [], sls := none, ek := [], dk := [], washes := [] }).onLinks fun l =>
    { l with ports := mapAll l.ports fun _ p => { p with vats := [], verifying := [] } }

/-! ### Requests (R391, R392) -/

/-- A vault serves requests: its half's complex has not been lost, or the other one's (R369). -/
def State.vaultRuns (s : State) : Bool := s.keys.inStep0 || s.keys.inStep1

/-- The request in progress is `op` and has no answer yet. -/
def State.kvDue (s : State) (op : Nat) : Bool := s.vaultRuns && s.keys.busy && decide (s.keys.reqOp = op) && s.keys.answer.isNone

/-- The vault answers the request with a status and a result. -/
def State.kvAnswer (s : State) (status result : Nat) : State := s.onKeys fun v => { v with answer := some (status, result) }

/-- A write of `KV_REQ_OP` starts a request; one while `KV_BUSY` is 1 is ignored; a reserved code ends with 0x0103 (R391, R392). -/
def State.kvStart (s : State) (op : Nat) : State :=
  if s.keys.busy then s
  else s.onKeys fun v => { v with
    reqOp := op, busy := true, answer := if op = 0 ∨ 5 < op then some (0x0103, 0) else none }

/-- KV_REQUEST_END (R391, R471). -/
def execKvRequestEnd (s : State) : Host.Outcome State Fault Refusal :=
  .next (match s.keys.answer with
    | none => s
    | some (st, r) =>
      if !s.keys.busy then s else
      (s.onKeys fun v => { v with reqOp := 0, busy := false, status := st, result := r, answer := none }).raise 0 4)

/-! ### The Rind Report -/

/-- A vat entry (R377). -/
def State.reportVat (s : State) (v : Vat) : List Byte :=
  leBytes 2 v.desc.vatId ++ leBytes 1 v.role.code ++ leBytes 1 v.state.code ++
    leBytes 2 (if v.role = .standby then 0xFFFF else v.lpkg) ++ zeros 2 ++ leBytes 4 v.comp ++ zeros 4 ++
    fitBytes 16 (v.mould.elim [] (·.modelId)) ++ fitBytes 32 v.chain ++ fitBytes 32 (v.mould.elim [] (·.signer)) ++
    fitBytes 16 ((mapFind s.keys.secrets v.desc.vatId).elim [] (·.tag)) ++ zeros 16

/-- The report up to its signature (R376). -/
def State.reportBody (s : State) (nonce : List Byte) : List Byte :=
  let vs := s.vats.map (·.2)
  leBytes 2 0x1000 ++ leBytes 1 s.keys.lifecycle ++ leBytes 1 (b2n s.keys.sls.isSome + 2 * b2n (tamperSeen s.jdata)) ++
    leBytes 1 vs.length ++ zeros 3 ++ leBytes 2 s.links.node ++ leBytes 2 0x0100 ++
    leBytes 4 (1808 + 128 * vs.length + 29792) ++ s.deviceId ++ fitBytes 32 nonce ++ leBytes 8 s.now ++ leBytes 8 s.boot.count ++
    ((List.range 32).map fun i => Config.romDigest 3 i) ++ fitBytes 32 s.boot.measure ++ s.pub ++
    fitBytes 16 (s.keys.sls.elim [] (·.2)) ++ leBytes 8 s.keys.epoch ++ zeros 8 ++ fitBytes 1568 s.keys.ek ++ vs.flatMap s.reportVat

/-- The report with its signature, whose bytes FIPS 205 gives (DESIGN CHOICE, log entry 2). -/
def State.rindReport (s : State) (nonce sig : List Byte) : List Byte := s.reportBody nonce ++ fitBytes 29792 sig

/-- REPORT (R376, R392): for the host, else for the sideband (R481); in Spent it ends with 0x0821 (R454). -/
def State.reportFor (s : State) (sig : List Byte) : State :=
  let spent := decide (s.keys.lifecycle = 3)
  if s.kvDue 0x01 && (spent || s.hostOpen 0) then
    if spent then s.kvAnswer 0x0821 0
    else (s.hostWrite (s.keys.reqBus + 64) (s.rindReport (s.hostRead s.keys.reqBus 32) sig)).kvAnswer 0 0
  else match s.keys.sideReq with
    | some n => if s.vaultRuns then
        s.onKeys fun v => { v with report := if spent then v.report else some (s.rindReport n sig), sideReq := none } else s
    | none => s

def execReport (sig : List Byte) (s : State) : Host.Outcome State Fault Refusal := .next (s.reportFor sig)

/-! ### Capsules (R371 to R374) -/

def capKind (b : List Byte) : Nat := field b 2 1
def capReplace (b : List Byte) : Bool := bit (field b 3 1) 0
def capVat (b : List Byte) : Nat := field b 4 2
def capCtx (b : List Byte) : Nat := field b 6 2
def capSlot (b : List Byte) : Nat := field b 8 1

/-- The reserved fields of a capsule are zero, and so are those its kind does not use (R371). -/
def capReservedOk (b : List Byte) : Bool :=
  let k := capKind b
  decide (field b 3 1 < 2 ∧ field b 9 7 = 0 ∧ field b 0x78 8 = 0 ∧ capVat b < 4096 ∧ capCtx b < 4096) &&
    (decide (k = 1 ∨ k = 4) || decide (capVat b = 0)) && (decide (k = 2) || decide (capCtx b = 0)) &&
    (capReplace b || decide (capSlot b = 0)) && (decide (k = 1) || allZero ((b.drop 0x40).take 32))

/-- The capsule key (R363, R372): for SIGNER the vat's secret is the ctx, and a vat without one has no key. -/
def State.capsuleKey (s : State) (b ss : List Byte) : Option (List Byte) :=
  if capKind b = 4 then (mapFind s.keys.secrets (capVat b)).map fun x => derive ss "KMV.CAPSULE" x.secret 32
  else some (derive ss "KMV.CAPSULE" [] 32)

/-- The payload, where the GCM tag verifies (R372). -/
def State.capsulePayload (s : State) (b ss : List Byte) : Option (List Byte) :=
  (s.capsuleKey b ss).bind fun k => gcmDec k (zeros 12) (b.take 0x6A0) ((b.drop 0x6A0).take 64) ((b.drop 0x6E0).take 16)

/-- Check 9 of R374. -/
def State.capsuleFits (s : State) (b p : List Byte) : Bool :=
  let k := capKind b
  if k = 1 then (mapFind s.keys.secrets (capVat b)).isNone
  else if k = 4 then (mapFind s.keys.secrets (capVat b)).any fun x =>
    decide (x.signers.length < 4) && !x.signers.contains (shake256 p 32)
  else if k = 2 then
    decide ((s.ctx (capCtx b)).state = .active) && (s.ctx (capCtx b)).conf &&
      (!capReplace b || decide ((s.slot (capSlot b)).kind = 7 ∧ (s.slot (capSlot b)).state = .active ∧ (s.slot (capSlot b)).ctx = capCtx b))
  else true

/-- Empty slots a capsule takes (R366). -/
def capSlots (b : List Byte) : Nat := if capKind b = 1 then 3 else if capKind b = 2 && !capReplace b then 1 else 0

/-- The checks of R374 in order. -/
def State.capsuleStatus (s : State) (b ss : List Byte) : Nat :=
  let k := capKind b
  if field b 0 2 ≠ 0x1000 then 0x0102
  else if !capReservedOk b then 0x0101
  else if k = 0 ∨ 4 < k ∨ (capReplace b ∧ k ≠ 2) then 0x0103
  else if (b.drop 0x10).take 16 ≠ s.deviceId ∨ (b.drop 0x20).take 32 ≠ shake256 s.keys.ek 32 then 0x0820
  else match s.capsulePayload b ss with
    | none => 0x0820
    | some p =>
      if (b.drop 0x70).take 8 ≠ shake256 (ascii "KMVKCV" ++ p) 8 then 0x0820
      else if 3 ≤ s.keys.lifecycle then 0x0821
      else if (k = 1 ∨ k = 4) ∧ (s.vat? (capVat b)).isNone then 0x0215
      else if !s.capsuleFits b p then 0x0821
      else if s.emptySlots.length < capSlots b then 0x0821
      else 0

/-- A slot of a vat with a key derived from its secret. -/
def vatKeySlot (kind vat : Nat) (key : List Byte) : KeySlot := { KeySlot.none with state := .active, kind := kind, vat := vat, key := key }

/-- Fill the three slots of a vat: weight, data, transport (R366). -/
def State.fillVatSlots (s : State) (vat : Nat) (x : List Byte) : State :=
  match s.emptySlots with
  | a :: b :: c :: _ =>
    ((s.fillSlot a (vatKeySlot 4 vat (derive x "KMV.WEIGHT" [] 64))).fillSlot b (vatKeySlot 5 vat (derive x "KMV.DATA" [] 64))).fillSlot
      c (vatKeySlot 6 vat (derive x "KMV.XPORT" [] 32))
  | _ => s

/-- A SEAL key: a new slot of generation 1, or the standby of a slot (R368, R373). -/
def State.loadSeal (s : State) (b key : List Byte) : State :=
  if capReplace b then s.onKeys fun v => v.onSlot (capSlot b) fun u => { u with state := .replacing, standby := some key }
  else match s.emptySlots with
    | k :: _ => s.fillSlot k { KeySlot.none with state := .active, kind := 7, ctx := capCtx b, key := key, gen := 1 }
    | [] => s

/-- The effect of an accepted capsule (R373). -/
def State.applyCapsule (s : State) (b p : List Byte) : State :=
  let k := capKind b
  let key := p.take 32
  if k = 1 then
    (s.fillVatSlots (capVat b) key).onKeys fun v => { v with
      secrets := mapPut v.secrets (capVat b) ⟨key, (b.drop 0x60).take 16, [(b.drop 0x40).take 32]⟩ }
  else if k = 2 then s.loadSeal b key
  else if k = 3 then s.onKeys fun v => { v with sls := some (key, (b.drop 0x60).take 16) }
  else s.onKeys fun v => { v with
    secrets := mapModify v.secrets (capVat b) fun x => { x with signers := x.signers ++ [shake256 p 32] } }

/-- `KV_RESULT` of a capsule: the lowest slot it fills, 0 if none. -/
def State.capsuleResult (s : State) (b : List Byte) : Nat :=
  if capKind b = 2 ∧ capReplace b then capSlot b
  else if capKind b ≤ 2 then s.emptySlots.headD 0 else 0

/-- KEY_LOAD (R373, R374): `ss` is the shared secret ML-KEM decapsulates from `KEM_CT` (DESIGN CHOICE, log entry 2). -/
def execKeyLoad (ss : Nat) (s : State) : Host.Outcome State Fault Refusal :=
  .next (if s.kvDue 0x02 && s.hostOpen 0 then
      let b := s.hostRead s.keys.reqBus 1776
      let x := leBytes 32 ss
      let st := s.capsuleStatus b x
      if st ≠ 0 then s.kvAnswer st 0
      else (s.applyCapsule b ((s.capsulePayload b x).getD [])).kvAnswer 0 (s.capsuleResult b)
    else s)

/-- KEY_RETIRE (R367, R392). -/
def execKeyRetire (s : State) : Host.Outcome State Fault Refusal :=
  .next (if s.kvDue 0x03 then
      let u := s.slot s.keys.arg
      if u.kind = 7 ∧ u.usable then (s.retireSlots [s.keys.arg]).kvAnswer 0 0 else s.kvAnswer 0x0821 0
    else s)

/-- KEM_ROTATE (R370): a new key pair from the random source; the old decapsulation key goes. -/
def execKemRotate (s : State) : Host.Outcome State Fault Refusal :=
  .next (if s.kvDue 0x04 then
      let t := (s.onKeys fun v => { v with ek := s.freeBytes 1568 }).draw 1568
      ((t.onKeys fun v => { v with dk := t.freeBytes 3168 }).draw 3168).kvAnswer 0 0
    else s)

/-- IDENT_EXPORT (R392): the public key of the fuse root, in Green only. -/
def execIdentExport (s : State) : Host.Outcome State Fault Refusal :=
  .next (if s.kvDue 0x05 then
      if s.keys.lifecycle ≠ 0 then s.kvAnswer 0x0821 0
      else if s.hostOpen 0 then (s.hostWrite s.keys.reqBus (devicePub s.fuses.root)).kvAnswer 0 0 else s
    else s)

/-! ### Retiring slots (R367) -/

/-- Pieces are under a slot. -/
def underSlot (k : Nat) (ps : Pieces) : Bool := ps.any fun p => decide (p.2.2 = k) && !isSlice p.1

/-- A command still moves bytes under a slot. -/
def Cmd.uses (c : Cmd) (k : Nat) : Bool :=
  decide (c.phase ≠ .done ∧ c.phase ≠ .held) &&
    ((decide (cmdOp c.bytes = 5 ∨ cmdOp c.bytes = 6) && decide (cmdSlot c.bytes = k)) || c.tiles.any fun t => underSlot k t.pieces)

/-- What is still in flight under a slot is aborted with 0x0821: commands, and the page transfers of the vat whose data key it is. -/
def State.abortSlot (s : State) (k : Nat) : State :=
  let t := (s.objs.cmds.filter fun c => c.uses k).foldl (fun t c => t.finish c.ref 0x0821) s
  let u := s.slot k
  if u.kind ≠ 5 then t
  else (s.role u.vat).pageJobs.foldl (fun t j => (t.failJob u.vat j.session 0x0821).jobDone u.vat j.session) t

/-- SLOT_QUIET (R367): at Tr + 1,024 the key is zeroised. -/
def execSlotQuiet (k : Nat) (s : State) : Host.Outcome State Fault Refusal :=
  .next (if (s.slot k).state = .retiring ∧ (s.slot k).retire.any fun t => decide (t + 1024 ≤ s.now) then
      (s.abortSlot k).onKeys fun v => v.onSlot k fun u => { u with state := .quiet, key := [], standby := none, old := none }
    else s)

/-- SLOT_EMPTY (R367): at Tr + 5,120 the slot can be allocated again. -/
def execSlotEmpty (k : Nat) (s : State) : Host.Outcome State Fault Refusal :=
  .next (if (s.slot k).state = .quiet ∧ (s.slot k).retire.any fun t => decide (t + 5120 ≤ s.now) then
      s.onKeys fun v => v.onSlot k fun _ => KeySlot.none
    else s)

/-! ### The Wash (R384, R385) -/

/-- Fill a frame with the pattern byte, bypassing the cipher. -/
def State.patternFrame (s : State) (fr : Nat) : State :=
  (s.dpaWrite [] (frameDpa fr) (List.replicate frameBytes 0xA5)).traffic 0 true (frameDpa fr) frameBytes

/-- WASH_PATTERN_START (R384, R385). -/
def execWashPatternStart (w : Nat) (s : State) : Host.Outcome State Fault Refusal :=
  .next (match mapFind s.keys.washes w with
    | none => s
    | some x =>
      if x.pattern ∨ s.now < x.start + 1024 then s
      else (x.frames.foldl (fun t fr => t.patternFrame fr) s).onKeys fun v => { v with
        washes := mapModify v.washes w fun x => { x with pattern := true } })

/-- A core given back by its vat is a cleared spare, unless it is fenced or Retired (R86, R102). -/
def Core.released (c : Core) : Core :=
  let c := { c.cleared with vat := none, logical := 0, program := [] }
  if c.state = .bound then { c with state := .spare } else if c.state = .clearing then { c with after := .spare } else c

/-- The vat leaves the package: final record, cores, frames, cave frames; the VAT_UNBIND completes where every other package has
removed it (R273, R384). -/
def State.washedVat (s : State) (vat : Nat) : State :=
  let t := s.writeMeter vat 2
  let t := (t.vatCores vat).foldl (fun t c => t.onCore c Core.released) t
  let t := t.freeExtents fun o => decide (o = .vat vat)
  let t := t.haltsDone vat
  let r := t.role vat
  let alone := (t.vat? vat).any fun v => decide (v.packages ≤ 1 ∧ v.desc.spares = [])
  if r.allGone ∨ alone then
    r.unbind.foldl (fun t c => t.finish c 0) ((t.onRole vat fun r => { r with unbind := [] }).removeVat vat)
  else t.removeVat vat

/-- The Wash is over: what it covered is released. -/
def State.washDone (s : State) (w : Nat) (x : Wash) : State :=
  let t := (s.onKeys fun v => { v with washes := mapDel v.washes w }).dropFrames x.frames
  match x.kind with
  | .vat v => t.washedVat v
  | .ctx _ => t
  | .frames => t.freeExtents fun o => decide (o = .washing w)

/-- WASH_END (R385): at the end of W, or of an extension of 8,192 Ticks while writes remain. -/
def execWashEnd (w : Nat) (writesRemain : Bool) (s : State) : Host.Outcome State Fault Refusal :=
  .next (match mapFind s.keys.washes w with
    | none => s
    | some x =>
      if s.now < x.start + x.span ∨ (!x.pattern ∧ x.frames ≠ []) then s
      else if writesRemain && !x.frames.isEmpty then s.onKeys fun v => { v with
        extended := sat32 v.extended 1, washes := mapModify v.washes w fun x => { x with span := x.span + 8192 } }
      else match x.kind with
        | .vat v => if s.meterFits then s.washDone w x else s.writeMeter v 2
        | .ctx _ => s.washDone w x
        | .frames => s.washDone w x)

end Sys2Proof.Machine
end

