-- ==== Sys2Proof/Machine/Flags.lean ====
section
/-! DEFINITION. Register access forms (R3, R5): fields of a register word, sticky flags cleared by writing 1, fields that a
reserved value leaves unchanged. -/

namespace Sys2Proof.Machine

/-- Place a field value at a bit position. -/
def at' (v lo : Nat) : Nat := v * 2 ^ lo

/-- A W1C flag after software writes its bit (R5). -/
def w1c (flag written : Bool) : Bool := flag && !written

/-- A field after a write: the value, or the old one where the value is reserved (R8). -/
def fieldWrite (ok : Nat → Bool) (old new : Nat) : Nat := if ok new then new else old

/-- Replace the 4 bytes of a 64-bit value that a 32-bit access at word 0 or 1 writes (R4). -/
def putWord (old word v : Nat) : Nat :=
  if word = 0 then old / 2 ^ 32 * 2 ^ 32 + v % 2 ^ 32 else old % 2 ^ 32 + v % 2 ^ 32 * 2 ^ 32

/-- Word 0 or 1 of a 64-bit value. -/
def getWord (v word : Nat) : Nat := v / 2 ^ (32 * word) % 2 ^ 32

end Sys2Proof.Machine
end

