-- ==== Sys2Proof/Machine/Ports.lean ====
section
/-! DEFINITION. Soanduo Link ports (R166 to R192): training, alignment, flits, markers, port down, the by-pass, link keys (R382, R383). -/

namespace Sys2Proof.Machine
open Sys2Proof

/-! ### Ports -/

/-- The local source of a port (R144). -/
def portSource (k : Nat) : Nat := 0x08 + k

/-- The facing port number (R166). -/
def facing (k : Nat) : Nat := (k + 4) % 8

/-- The base die of a port (R166). -/
def portDie (k : Nat) : Nat := k / 2

def isAux (k : Nat) : Bool := decide (k % 4 = 3)

/-- A link router of a port (R154). -/
def linkRouter (k r : Nat) : Nat := 1024 + portDie k * 256 + 0xA4 + 5 * (k % 2) + r % 5

def PortState.code : PortState → Nat
  | .off => 0
  | .detect => 1
  | .equalise => 2
  | .lock => 3
  | .measure => 4
  | .align => 5
  | .verify => 6
  | .active => 7
  | .fenced => 8
  | .down => 9
  | .failed => 10

/-- A port in a training stage. -/
def PortState.training (p : PortState) : Bool := decide (1 ≤ p.code ∧ p.code ≤ 6)

/-- A port that sends a framed stream: training has left Lock (R168). -/
def PortState.framed (p : PortState) : Bool := decide (4 ≤ p.code ∧ p.code ≤ 8)

/-- A port that carries no service: Off, Down or Failed. -/
def PortState.dark (p : PortState) : Bool := decide (p.code = 0 ∨ 9 ≤ p.code)

/-- A port enters a state now. -/
def Port.enter (p : Port) (st : PortState) (now : Nat) : Port := { p with state := st, entered := now }

/-- A Tick Count of 64 bits. -/
def tick64 (i : Int) : Nat := (i % (2 ^ 64 : Nat)).toNat

/-- Ticks since a port entered its state. -/
def Port.since (p : Port) (now : Nat) : Nat := tick64 ((now : Int) - p.entered)

/-- The Tick Count was set `d` Ticks further: what a port measures from its Ticks goes on unchanged (R180). -/
def Port.shift (p : Port) (d : Nat) : Port :=
  { p with entered := (p.entered + d) % 2 ^ 64, fromTick := (p.fromTick + d) % 2 ^ 64, measFrom := (p.measFrom + d) % 2 ^ 64 }

/-- The flits that a channel's receive buffer holds at the other end of a link (R176). -/
def wheyBuffer : Nat := 512

/-- The credits of a port whose training begins: the empty buffers of its peer (R176). -/
def freshCredits : SMap Nat := [(2, wheyBuffer), (3, wheyBuffer)]

/-- A training begins: Detect, nothing of the training before it kept (R180, R199). -/
def Port.startTrain (p : Port) (now : Nat) : Port :=
  { p.enter .detect now with
    trains := sat32 p.trains 1, echoes := [], offset := none, sent := false, badTicks := 0, lost := 0, dead := [], degraded := false,
    landing := [], whey := [], held := [], txq := [], credits := freshCredits, voidFrom := none, verifying := [], full := false }

/-- A port fails with a status (R180). -/
def Port.fail (p : Port) (st now : Nat) : Port :=
  { p.enter .failed now with last := st, landing := [], whey := [], held := [] }

/-- Send a flit by a port. -/
def State.sendFlit (s : State) (k : Nat) (f : Flit) : State :=
  (s.send "FLIT" k [f.format, f.kind, f.session, f.cls, f.sub, f.srcNode, f.dst, f.flow, f.txTick, f.arg] f.payload).onPort k fun p =>
    { p with used := p.used + 1 }

/-- Send a flit by a port in the next Tick. -/
def State.sendAhead (s : State) (k : Nat) (f : Flit) : State :=
  (s.send "FLIT" k [f.format, f.kind, f.session, f.cls, f.sub, f.srcNode, f.dst, f.flow, f.txTick, f.arg] f.payload).onPort k fun p =>
    { p with ahead := p.ahead + 1 }

/-- A link-control flit of this package (R170, R181). -/
def State.controlFlit (s : State) (type : Nat) (payload : List Byte) : Flit :=
  ⟨0x1000, 3, 0, 0, 0, s.links.node, 0, 0, s.now % 65536, type, fitBytes 256 payload, false⟩

/-- A flit is discarded and counted (R171). -/
def State.discardFlit (s : State) (k : Nat) : State := s.onPort k fun p => { p with discards := sat32 p.discards 1 }

/-- TRAIN is set on a port: from Off or Failed it begins a training (R199). -/
def State.trainPort (s : State) (k : Nat) : State :=
  s.onPort k fun p => if p.state = .off ∨ p.state = .failed then p.startTrain s.now else p

/-- The Starter's steps 4 and 5 of R449: ports that failed with 0x0606 train again; once no port trains and the package is not Hot, gear 64
is armed. -/
def State.bringup (s : State) : State :=
  if s.boot.state ≠ .starting ∨ s.boot.bringup ≠ 1 then s else
  let t := (List.range 8).foldl (fun t k =>
    if (t.port k).state = .failed ∧ (t.port k).last = 0x0606 then t.trainPort k else t) s
  if ((List.range 8).any fun k => (t.port k).state.training) ∨ t.power.therm = 2 then t
  else (t.armGear 4096 64 0).onBoot fun b => { b with bringup := 2 }

/-- TRAIN (R199): bit 8 of the port's word. -/
def State.regTrain (s : State) (port value : Nat) : State :=
  if bit value 8 ∧ port < 8 then s.trainPort port else s

/-- TRAIN, which the host reaches once the package is Ready (R441). -/
def execTrain (port value : Nat) (s : State) : Host.Outcome State Fault Refusal :=
  .next (if s.barOpen 0 then s.regTrain port value else s)

/-- The complex of a port's half holds the split fence (R358). -/
def State.portSplit (s : State) (k : Nat) : Bool := (s.cplx (portDie k / 2)).split

/-- UNFENCE (R199, R358): bit 9 of the port's word; ignored while the half's complex holds the split fence. -/
def State.regUnfence (s : State) (port value : Nat) : State :=
  if bit value 9 ∧ (s.port port).state = .fenced ∧ !s.portSplit port then s.onPort port fun p => p.enter .active s.now else s

/-- UNFENCE, which the host reaches once the package is Ready (R441). -/
def execUnfence (port value : Nat) (s : State) : Host.Outcome State Fault Refusal :=
  .next (if s.barOpen 0 then s.regUnfence port value else s)

/-- LIGHT_DETECT (R180): light on at least 63 lanes. -/
def execLightDetect (port lanes : Nat) (s : State) : Host.Outcome State Fault Refusal :=
  .next (if (s.port port).state = .detect ∧ 63 ≤ lanes ∧ lanes ≤ 64 then
    s.onPort port fun p => { p.enter .equalise s.now with lanes := lanes, degraded := decide (lanes = 63) } else s)

/-- LIGHT_LOSS (R180): a port in training returns to Detect. -/
def execLightLoss (port lanes : Nat) (codewordLock : Bool) (s : State) : Host.Outcome State Fault Refusal :=
  .next (if 2 ≤ (s.port port).state.code ∧ (s.port port).state.code ≤ 6 ∧ (lanes < 63 ∨ codewordLock = false) then
    s.onPort port fun p => p.startTrain s.now else s)

/-- LIGHT_RETURN (R180): a Down port trains again once light returns. -/
def execLightReturn (port : Nat) (s : State) : Host.Outcome State Fault Refusal :=
  .next (if (s.port port).state = .down then s.onPort port fun p => p.startTrain s.now else s)

/-- DEAD_LANE (R167): a lane dies while the port is in use. -/
def execDeadLane (port lane : Nat) (s : State) : Host.Outcome State Fault Refusal :=
  .next (if 2 ≤ (s.port port).state.code ∧ (s.port port).state.code ≤ 8 ∧ lane < 64 ∧ lane ∉ (s.port port).dead then
    s.onPort port fun p => { p with dead := p.dead ++ [lane], degraded := true } else s)

/-- LINK_EQUALISE_DONE (R180): the port enters Lock and sends its PEER_ID (R181). -/
def execLinkEqualiseDone (port : Nat) (s : State) : Host.Outcome State Fault Refusal :=
  .next (if (s.port port).state = .equalise then
    (s.onPort port fun p => p.enter .lock s.now).sendFlit port (s.controlFlit 1
      (leBytes 2 s.links.node ++ leBytes 1 port ++ zeros 1 ++ leBytes 1 s.links.tx ++ leBytes 1 s.links.ty ++ leBytes 1 s.links.tz))
    else s)

/-- The nodes a port may face (R197): the next three in its direction. -/
def Links.neighbours (l : Links) (k : Nat) : List Nat :=
  [1, 2, 3].map fun n =>
    let d : Int := if k < 4 then (n : Int) else -(n : Int)
    l.at l.node (if k % 4 = 0 then d else 0) (if k % 4 = 1 then d else 0) (if k % 4 = 2 then d else 0)

/-- The check of R197; equal torus sizes are asked of the peer (DEDUCED, log entry 27). -/
def Links.peerOk (l : Links) (k node peerPort tx ty tz : Nat) : Bool :=
  decide (peerPort = facing k ∧ tx = l.tx ∧ ty = l.ty ∧ tz = l.tz ∧ node < l.tx * l.ty * l.tz) &&
    (isAux k || (l.neighbours k).contains node)

/-- The check of PEER_ID (R197, R382): the port goes on to Measure, with the port key of this peer, or fails. Link tables of vats on a port
that finds another peer than before wait for a remould (R187). -/
def Port.meet (p : Port) (ok : Bool) (node peerPort now : Nat) : Port :=
  let q := { p with peer := node, peerPort := peerPort % 8, stale := if p.peer = node then p.stale else p.vats.map Prod.fst }
  if ok then { q.enter .measure now with echoes := [], fromTick := now, measFrom := now, used := 0, ahead := 0 } else q.fail 0x0706 now

/-- The marker of a Tick (R169): format and kind, `FENCED` and `ALIGNED`, `TICK_LOW`, credits returned, key phases, tags. -/
def State.markerArgs (s : State) (p : Port) : List Nat :=
  let mask := ((0 :: p.vats.map (·.2)).map fun n => 2 ^ n).sum
  [0x1000, 0x80, b2n (decide (p.state = .fenced)), b2n s.tick.aligned, s.now % 2 ^ 32, mapGet 0 p.credits 0, mapGet 0 p.credits 1,
    if p.txPhase = 1 then mask else 0, mask]

/-- The first FEC period starts in the Tick in which training leaves Lock: with that Tick's marker (R168). -/
def State.firstMarker (s : State) (k : Nat) : State :=
  let p := s.port k
  if p.state.framed then
    (s.send "MARKER" k (s.markerArgs p) []).onPort k fun p => { p with credits := mapSet 0 (mapSet 0 p.credits 0 0) 1 0 }
  else s

/-- PEER_ID. -/
def execPeerId (port : Headed) (node peerPort tx ty tz : Nat) (s : State) : Host.Outcome State Fault Refusal :=
  .next (if !port.ok then s.discardFlit port.val else if (s.port port.val).state = .lock then
    (s.onPort port.val fun p => p.meet (s.links.peerOk port.val node peerPort tx ty tz) node peerPort s.now).firstMarker port.val
    else s)

/-- ECHO_REQ (R182): answered in slot 0 of the next Tick with its hold time. -/
def execEchoReq (port : Headed) (seq holdQ : Nat) (s : State) : Host.Outcome State Fault Refusal :=
  .next (if !port.ok then s.discardFlit port.val else if (s.port port.val).state.framed then
    s.sendAhead port.val { s.controlFlit 3 (leBytes 2 seq ++ zeros 2 ++ leBytes 4 holdQ) with txTick := (s.now + 1) % 65536 } else s)

/-- The largest D of a port in units of 0.25 ns: 440 ns (R175). -/
def maxDelayQ : Nat := 1760

/-- What the 64 samples r − h of a port give: none while they spread over more than 2 ns, else D in units of 0.25 ns, rounded to nearest
(R182; the rounding is the model's choice, DESIGN CHOICE, log entry 28). -/
def meanDelay (es : List Nat) : Option Nat :=
  if maxNat es - (minNat? es).getD 0 ≤ 16 then some ((es.sum + es.length) / (2 * max 1 es.length)) else none

/-- A sample is recorded; at the 64th D is taken, or the round repeats (R182). -/
def Port.echo (p : Port) (d now : Nat) : Port :=
  let es := p.echoes ++ [d]
  if es.length < 64 then { p with echoes := es } else
  match meanDelay es with
  | none => { p with echoes := [], measFrom := now }
  | some q => if maxDelayQ < q then { p with delayQ := q }.fail 0x0704 now
      else { p.enter .align now with delayQ := q, echoes := [] }

/-- ECHO_RESP (R182). -/
def execEchoResp (port : Headed) (_seq roundTripQ holdQ : Nat) (s : State) : Host.Outcome State Fault Refusal :=
  .next (if !port.ok then s.discardFlit port.val else if (s.port port.val).state = .measure then s.onPort port.val fun p => p.echo (roundTripQ - holdQ) s.now else s)

/-! ### Alignment (R183) -/

/-- k = round((D − φ) / 80 ns), halfway up. -/
def alignOffset (delayQ phiQ : Nat) : Int := (2 * ((delayQ : Int) - (phiQ : Int)) + 320) / 640

/-- A port leaves Align once it holds k, the package is aligned and it has sent an aligned ALIGN. -/
def State.leaveAlign (s : State) (k : Nat) : State :=
  s.onPort k fun p =>
    if p.state = .align ∧ p.offset.isSome ∧ s.tick.aligned ∧ p.sent then p.enter .verify s.now else p

/-- An ALIGN with `ALIGNED` set, carrying sender Tick `t`: an aligned package checks its count, another loads it at the next TICK_FRAME,
the lowest port of a Tick deciding; the root takes its count under R142 alone. -/
def State.takeAlign (s : State) (k t phiQ : Nat) : State :=
  let off := alignOffset (s.port k).delayQ phiQ
  let here := tick64 ((t : Int) + off)
  if s.tick.aligned then
    if here = s.now then (s.onPort k fun p => { p with offset := some off }).leaveAlign k
    else s.onPort k fun p => p.fail 0x0606 s.now
  else
    let u := s.onPort k fun p => { p with offset := some off }
    if s.links.root then u else
    let d := tick64 ((here : Int) - (s.now : Int))
    match u.tick.alignLoad with
    | some (_, j, x) => if x = u.now ∧ k < j then u.onTick fun c => { c with alignLoad := some (d, k, u.now) } else u
    | none => u.onTick fun c => { c with alignLoad := some (d, k, u.now) }

/-- ALIGN (R183). -/
def execAlign (port : Headed) (tick : Nat) (aligned : Bool) (phiQ : Nat) (s : State) : Host.Outcome State Fault Refusal :=
  .next (if !port.ok then s.discardFlit port.val else if (s.port port.val).state = .align ∧ aligned then (s.takeAlign port.val tick phiQ).bringup else s)

/-! ### Limits and verification (R180, R181) -/

/-- The limit of a training stage in Ticks and the status past it (R180). -/
def PortState.limit : PortState → Option (Nat × Nat)
  | .detect => some (125000, 0x0703)
  | .equalise => some (18750000, 0x0703)
  | .lock => some (250000, 0x0703)
  | .measure => some (1048576, 0x0704)
  | .align => some (262144, 0x0606)
  | .off => none
  | .verify => none
  | .active => none
  | .fenced => none
  | .down => none
  | .failed => none

/-- LINK_STAGE_TIMEOUT (R180). -/
def execLinkStageTimeout (port : Nat) (s : State) : Host.Outcome State Fault Refusal :=
  .next (match (s.port port).state.limit with
    | some (n, st) => if n < (s.port port).since s.now then (s.onPort port fun p => p.fail st s.now).bringup else s
    | none => s)

/-- The conditions of R181. -/
def verifyOk (p : Port) (r : VerifyResult) : Bool :=
  decide (r.uncorrectable = 0 ∧ r.corrected * 1000000 < r.received ∧ r.delayQ ≤ p.delayQ + 8 ∧ p.delayQ ≤ r.delayQ + 8) && r.markersOk

/-- LINK_VERIFY_END (R181, R358): after 4 frames the port is Active, or Fenced in a split, with the calibration load tag
Full, or fails. -/
def execLinkVerifyEnd (port : Nat) (r : VerifyResult) (s : State) : Host.Outcome State Fault Refusal :=
  .next (if (s.port port).state = .verify ∧ 262144 ≤ (s.port port).since s.now then
    (s.onPort port fun p =>
      let q := { p with feCe := sat32 p.feCe r.corrected, feUe := sat32 p.feUe r.uncorrectable }
      if verifyOk p r then { q.enter (if s.portSplit port then .fenced else .active) s.now with full := true } else q.fail 0x0705 s.now).bringup
    else s)

/-- The Tick that ends carried, in every slot without another flit, an idle flit, or in Verify the test pattern; a FEC period of 17 Ticks ends
with 176 zero bytes (R168, R172, R181). -/
def State.fillTick (s : State) (k : Nat) : State :=
  let p := s.port k
  let n := tick64 ((s.now : Int) - p.fromTick)
  if n = 0 then s else
  let t := s.send (if p.state = .verify then "PRBS31" else "IDLE") k [284 - p.used] []
  if n % 17 = 0 then t.send "FILL" k [] (zeros 176) else t

/-- What a Tick sends on the ports (R168, R169, R182, R183): the rest of the Tick before, markers with the credits returned, ECHO_REQ in
Measure, ALIGN in Align. -/
def State.sendMarkers (s : State) : State :=
  (List.range 8).foldl (fun t k =>
    let p := t.port k
    if !p.state.framed then t else
    let t := (t.fillTick k).send "MARKER" k (t.markerArgs p) []
    let t := t.onPort k fun p => { p with
      credits := mapSet 0 (mapSet 0 p.credits 0 0) 1 0, sentSlots := [], doneSlots := [], used := p.ahead, ahead := 0 }
    let n := tick64 ((t.now : Int) - p.measFrom)
    let t := if p.state = .measure ∧ 1 ≤ n ∧ n ≤ 64 then t.sendFlit k (t.controlFlit 2 (leBytes 2 n)) else t
    if p.state = .align then
      ((t.sendFlit k (t.controlFlit 4 (leBytes 8 t.now ++ leBytes 1 (b2n t.tick.aligned)))).onPort k fun p =>
        { p with sent := p.sent || t.tick.aligned }).leaveAlign k
    else t) s

/-! ### Port down (R191) -/

/-- An Active or Fenced port goes Down: every claimed slot is void from now on, the first void being that of a flit a bad marker left without
its tag, or one of this Tick where that comes first; `PORT_DOWN` is raised and each vat with a curd session on
the port has its time master told. -/
def State.portDown (s : State) (k : Nat) : State :=
  let p := s.port k
  let first := min (p.voidFrom.getD s.now) s.now
  let t := (s.onPort k fun p =>
    { p.enter .down s.now with landing := [], whey := [], held := [], txq := [], badTicks := 0, lost := 0 }).note (portSource k)
    "PORT_DOWN" k
  (p.vats.foldl (fun t e =>
    if (t.vat? e.1).any Vat.isMember then
      (t.sendDown e.1 k p.peer first).onRole e.1 fun r => { r with sentDown := r.sentDown ++ [(k, p.peer, first, s.now)] }
    else t) t).mcLost p.peer

/-- PORT_DOWN. -/
def execPortDown (port : Nat) (lockLost : Bool) (s : State) : Host.Outcome State Fault Refusal :=
  .next (if ((s.port port).state = .active ∨ (s.port port).state = .fenced) ∧ (lockLost ∨ 2 ≤ (s.port port).badTicks) then
    s.portDown port else s)

/-! ### Curd flits (R170 to R174, R188 to R190) -/

/-- The step of a vat that a Tick lies in, start and ID: the one in progress or owed, or the one before it (R190). -/
def State.stepAt (s : State) (v : Vat) (t : Nat) : Option (Nat × Nat) :=
  let r := s.role v.desc.vatId
  let old := (r.lastStep.filter fun x => decide (x.1 ≤ t ∧ t < x.1 + x.2.1)).map fun x => (x.1, x.2.2)
  match (v.step.map fun r => (r.table.start, r.table.stepId)).or r.owed with
  | some x => if x.1 ≤ t then some x else old
  | none => old

/-- The claim of a vat's step on a slot of a port in a Tick: the vat, its flow. -/
def State.claimAt (s : State) (k dir slot t : Nat) : Option (Nat × LinkEnt) :=
  (s.port k).vats.findSome? fun e =>
    match s.vat? e.1 with
    | none => none
    | some v =>
      match v.mould, s.stepAt v t with
      | some m, some (start, id) => (linkClaim (mLinkTable m v.lpkg k id) dir (t - start) slot).map fun x => (e.1, x)
      | _, _ => none

/-- The bytes of a void that names a node (R188). -/
def voidBytes (node : Nat) : List Byte := leBytes 2 node ++ zeros 126

/-- Which halves of a flit are void (R170). -/
def voidMask (h0 h1 : Slot) : Nat := b2n h0.void + 2 * b2n h1.void

/-- The node a curd flit names: the sender, or the owing node of its void where that names one (R1, R170, R189, R396). -/
def owingNode (own : Nat) (h0 h1 : Slot) : Nat :=
  let n := if h0.void then field h0.data 0 2 else if h1.void then field h1.data 0 2 else own
  if n < 10240 then n else own

/-- The queue of a link router's port from which half `h` of a slot leaves (DESIGN CHOICE, log entry 29). -/
def txKey (slot h : Nat) : Nat := slot % 5 * 2 + h

/-- Half `h` of a slot that leaves: what the link router was handed by the router tables (R174), else what this package's own transfers give. -/
def State.halfOut (s : State) (k slot h : Nat) (x : Slot) : Slot := ((mapGet [] (s.port k).txq (txKey slot h)).head?).getD x

/-- LINK_SLOT_TRANSMIT (R170, R174, R189): the claimed slot leaves with the two fabric slots, or with voids naming this node in a step the
package does not start and through a Fenced port (R143, R358). A claim whose table waits for a remould is not served (R187). -/
def State.transmit (s : State) (k slot : Nat) (h0 h1 : Slot) : State :=
  match s.claimAt k 0 slot s.now with
  | none => s
  | some (vat, x) =>
    if (s.port k).sentSlots.contains (s.now, slot) ∨ (s.port k).stale.contains vat then s else
    let own := s.links.node
    let dead := ((s.vat? vat).bind (·.step)).isNone || decide ((s.port k).state = .fenced)
    let a := if dead then ⟨voidBytes own, true⟩ else s.halfOut k slot 0 h0
    let b := if dead then ⟨voidBytes own, true⟩ else s.halfOut k slot 1 h1
    let drop (h : Nat) (q : SMap (List Slot)) := mapSet [] q (txKey slot h) ((mapGet [] q (txKey slot h)).drop 1)
    (s.sendFlit k ⟨0x1000, 1, ((s.port k).session vat).getD 0, 0, voidMask a b, owingNode own a b, 0, x.flow, s.now % 65536, slot,
      fitBytes 128 a.data ++ fitBytes 128 b.data, false⟩).onPort k fun p =>
        { p with sentSlots := p.sentSlots ++ [(s.now, slot)], txq := drop 1 (drop 0 p.txq) }

def execLinkSlotTransmit (port slot : Nat) (h0 h1 : Slot) (s : State) : Host.Outcome State Fault Refusal :=
  .next (if (s.port port).state = .active ∨ (s.port port).state = .fenced then s.transmit port slot h0 h1 else s)

/-- The sender's Tick of what a port receives now. -/
def State.rxTick (s : State) (k : Nat) : Nat := tick64 ((s.now : Int) - ((s.port k).offset.getD 0))

/-- A curd flit's header holds no reserved value (R170, R171). -/
def curdFlitOk (fl : Flit) : Bool :=
  decide (fl.format = 0x1000 ∧ fl.kind = 1 ∧ fl.cls = 0 ∧ fl.sub < 4 ∧ fl.srcNode < 10240 ∧ fl.dst = 0 ∧ fl.session < 8)

/-- CURD_FLIT_RECEIVE (R171): kept for its delivery Tick, or discarded and counted; one that its codewords lost is not kept (R188). A flit may arrive within the Tick after its
marker's. One of a session that is not the vat's, and a second one for a slot, are discarded and counted as one that differs (DESIGN CHOICE,
log entry 124). -/
def State.curdArrives (s : State) (k slot : Nat) (fl : Flit) : State :=
  let now := s.rxTick k
  let t := if 1 ≤ now ∧ fl.txTick = (now - 1) % 65536 then now - 1 else now
  let good := curdFlitOk fl && decide (fl.arg = slot ∧ fl.txTick = t % 65536) &&
    (match s.claimAt k 1 slot t with
     | some (vat, x) => decide (x.flow = fl.flow ∧ (s.port k).session vat = some fl.session)
     | none => false)
  if fl.bad then s else s.onPort k fun p =>
    if good && !(p.landing.any fun e => decide (e.1 = t + 7 ∧ e.2.1 = slot)) then { p with landing := p.landing ++ [(t + 7, slot, fl)] }
    else { p with discards := sat32 p.discards 1 }

def execCurdFlitReceive (port slot : Nat) (fl : Flit) (s : State) : Host.Outcome State Fault Refusal :=
  .next (if (s.port port).state = .active then s.curdArrives port slot fl else s)

/-- A void lands on the package of the time master: the loss is recorded (R192). -/
def State.voidLands (s : State) (vat node : Nat) : State :=
  if s.newDown vat node then
    ((s.note s.ccSource "MEMBER_DOWN" node).onRole vat fun r => { r with downs := r.downs ++ [(node, s.links.node, s.now)] }).lose vat node
  else s

/-- Half `h` of a flit becomes a slot at a link router (R174; which router takes which slot is the model's choice, DESIGN CHOICE, log entry 29). -/
def State.landSlot (s : State) (k slot h : Nat) (x : Slot) : State :=
  s.onRouter (linkRouter k slot) fun r => { r with landing := mapPut r.landing h (mapGet [] r.landing h ++ [x]) }

/-- CURD_FLIT_DELIVER (R174, R188, R190): in the slot's delivery Tick the flit, or a void naming the owing node, once. -/
def State.deliver (s : State) (k slot : Nat) : State :=
  if s.now < 7 ∨ (s.port k).doneSlots.contains (s.now, slot) then s else
  match s.claimAt k 1 slot (s.now - 7) with
  | none => s
  | some (vat, _) =>
    let p := s.port k
    let hit := if p.state = .active ∧ !p.stale.contains vat then p.landing.find? fun e => decide (e.1 = s.now ∧ e.2.1 = slot) else none
    let t := s.onPort k fun p => { p with
      doneSlots := p.doneSlots ++ [(s.now, slot)], landing := p.landing.filter fun e => !decide (e.1 = s.now ∧ e.2.1 = slot),
      voidIns := if hit.isSome then p.voidIns else sat32 p.voidIns 1 }
    match hit with
    | some e =>
      let fl := e.2.2
      let a : Slot := ⟨fitBytes 128 (fl.payload.take 128), bit fl.sub 0⟩
      let b : Slot := ⟨fitBytes 128 (fl.payload.drop 128), bit fl.sub 1⟩
      let t := (t.landSlot k slot 0 a).landSlot k slot 1 b
      let t := if a.void then t.voidLands vat (field a.data 0 2) else t
      if b.void then t.voidLands vat (field b.data 0 2) else t
    | none =>
      let x : Slot := ⟨voidBytes p.peer, true⟩
      ((t.landSlot k slot 0 x).landSlot k slot 1 x).voidLands vat p.peer

def execCurdFlitDeliver (port slot : Nat) (s : State) : Host.Outcome State Fault Refusal := .next (s.deliver port slot)

/-- IDLE_FLIT_RECEIVE (R171, R172): discarded without counting, unless its header holds a reserved value. -/
def execIdleFlitReceive (port : Headed) (s : State) : Host.Outcome State Fault Refusal :=
  .next (if port.ok then s else s.discardFlit port.val)

/-! ### Whey on links (R176, R177) -/

/-- A whey packet from the bytes of its slots (R160). -/
def wheyOf (b : List Byte) : WheyPacket where
  format := field b 0 2
  kind := field b 2 1
  dataSlots := field b 3 1 / 64
  cls := field b 3 1 % 8
  rsv := decide (bits (field b 3 1) 5 3 ≠ 0 ∨ field b 4 2 / 2 ^ 14 ≠ 0 ∨ field b 6 2 / 2 ^ 14 ≠ 0 ∨ field b 0xA 2 / 4096 ≠ 0 ∨ field b 0x18 8 ≠ 0)
  dest := field b 4 2
  src := field b 6 2
  tag := field b 8 2
  vat := field b 0xA 2
  arg := field b 0xC 4
  addr := field b 0x10 8
  data := (b.drop 32).take (96 + 128 * (field b 3 1 / 64))

/-- The virtual channel on the next hop (R176): 1 after the wrap link of a ring, 0 again at a change of dimension. -/
def Links.nextVc (l : Links) (inPort out vc : Nat) : Nat :=
  let a := out % 4
  let c := l.coord l.node a
  let wraps := if out < 4 then decide (c = l.size a - 1) else decide (c = 0)
  if wraps then 1 else if inPort % 4 = a then vc else 0

/-- The packets that wait in a receive buffer or for a link, by class: input × 2 + channel, this package's own as 16 (R176). -/
def State.heldIn (s : State) (c : Nat) : List (List Flit) :=
  if c < 16 then mapGet [] (s.port (c / 2)).held (c % 2) else if c = 16 then s.links.own else []

/-- The packet at the head of a class leaves its buffer; a receive port's credits return. -/
def State.popHeld (s : State) (c : Nat) : State :=
  let rest := (s.heldIn c).drop 1
  if c < 16 then s.onPort (c / 2) fun p => { p with
    held := mapSet [] p.held (c % 2) rest
    credits := mapSet 0 p.credits (c % 2) (mapGet 0 p.credits (c % 2) + (((s.heldIn c).head?).map List.length).getD 0) }
  else s.onLinks fun l => { l with own := rest }

/-- Where a packet goes next: 8 is this package's fabric, else the port. -/
def Links.nextHop (l : Links) (f : Flit) : Option Nat := if f.dst = l.node then some 8 else l.route f.dst

/-- The channel a packet of a class takes on its next link. -/
def Links.vcOf (l : Links) (c out : Nat) : Nat := l.nextVc (if c < 16 then c / 2 else 9) out (c % 2)

/-- Flit slots of a port that curd still claims in the Tick at hand. -/
def State.claimsNow (s : State) (k : Nat) : Nat := ((List.range 284).filter fun n =>
  (s.claimAt k 0 n s.now).isSome && !(s.port k).sentSlots.contains (s.now, n)).length

/-- The packet at the head of a class can leave by an output: its link router has room, or the port serves its class, with credits on its
channel and whey slots left in the Tick (R161, R173, R176, R177). -/
def State.canLeave (s : State) (out c : Nat) : Bool :=
  match (s.heldIn c).head?.bind fun fs => fs.head?.map fun f => (fs, f) with
  | none => false
  | some (fs, f) =>
    decide (s.links.nextHop f = some out) &&
      if out = 8 then decide ((mapGet [] (s.router (linkRouter (c / 2) 0)).whey 0).length < 2)
      else
        let p := s.port out
        decide ((p.state = .active ∨ (p.state = .fenced ∧ f.cls = 7)) ∧
          fs.length ≤ mapGet 0 p.credits (2 + s.links.vcOf c out) ∧ p.used + s.claimsNow out + fs.length ≤ 284)

/-- The bytes of a packet as its flits carry them. -/
def packetBytes (fs : List Flit) : List Byte := fs.flatMap (·.payload)

/-- The packet at the head of a class leaves by an output. -/
def State.wheyLeave (s : State) (out c : Nat) : State :=
  let fs := ((s.heldIn c).head?).getD []
  let t := (s.popHeld c).onLinks fun l => { l with turns := mapPut l.turns out c }
  if out = 8 then
    t.onRouter (linkRouter (c / 2) 0) fun r => { r with whey := mapPut r.whey 0 (mapGet [] r.whey 0 ++ [wheyOf (packetBytes fs)]) }
  else
    let v := 2 + s.links.vcOf c out
    let t := fs.foldl (fun t f => t.sendFlit out { f with txTick := t.now % 65536 }) t
    t.onPort out fun p => { p with credits := mapSet 0 p.credits v (mapGet 0 p.credits v - fs.length) }

/-- An output takes the next packet in round-robin order of inputs and channels (R176). -/
def State.wheyServe (s : State) (out : Nat) : State :=
  let last := mapGet 16 s.links.turns out
  match ((List.range 17).map fun i => (last + 1 + i) % 17).find? (s.canLeave out) with
  | some c => s.wheyLeave out c
  | none => s

/-- Packets at the head of a class whose next port is Down, Failed, or Fenced to them: dropped, and answered with 0x0701 (R177). -/
def State.wheyDrops (s : State) (c : Nat) : State :=
  match (s.heldIn c).head?.bind List.head? with
  | none => s
  | some f =>
    if f.dst ≠ s.links.node ∧ s.wheyBlocked f.dst f.cls then (s.popHeld c).send "WHEY_ERROR" f.srcNode [0x0701, f.flow] [] else s

/-- Let waiting packets move, as often as told. -/
def State.wheyRounds : Nat → State → State
  | 0, s => s
  | n + 1, s =>
    let t := (List.range 17).foldl (fun t c => t.wheyDrops c) s
    State.wheyRounds n ((List.range 9).foldl (fun t out => t.wheyServe out) t)

/-- Let every waiting packet move that can. -/
def State.wheyMove (s : State) : State := State.wheyRounds ((List.range 17).map fun c => (s.heldIn c).length).sum s

/-- A packet of this package's fabric waits for its link (R176). -/
def State.wheyOwn (s : State) (fs : List Flit) : State := (s.onLinks fun l => { l with own := l.own ++ [fs] }).wheyMove

/-- The whole packets at the front of a buffer, and what stays. -/
def splitPackets : Nat → List Flit → List (List Flit) × List Flit
  | 0, l => ([], l)
  | n + 1, l =>
    match indexWhere (fun f => bit f.sub 0) l with
    | none => ([], l)
    | some i =>
      let r := splitPackets n (l.drop (i + 1))
      (l.take (i + 1) :: r.1, r.2)

/-- Authenticated packets of a channel are whole: they move on, or wait in the buffer until they can. -/
def State.drainWhey (s : State) (k vc : Nat) : State :=
  let l := mapGet [] (s.port k).whey vc
  let r := splitPackets l.length l
  (s.onPort k fun p => { p with
    whey := mapSet [] p.whey vc r.2, held := mapSet [] p.held vc (mapGet [] p.held vc ++ r.1) }).wheyMove

/-- A whey flit's header holds no reserved value. -/
def wheyFlitOk (fl : Flit) : Bool :=
  decide (fl.format = 0x1000 ∧ fl.kind = 2 ∧ fl.session = 0 ∧ fl.cls < 8 ∧ fl.sub < 4 ∧ fl.srcNode < 10240 ∧ fl.dst < 10240 ∧
    fl.arg = 0 ∧ bits fl.flow 15 12 = 0)

/-- The flits in the receive buffer of a channel. -/
def Port.buffered (p : Port) (vc : Nat) : Nat := (mapGet [] p.whey vc).length + ((mapGet [] p.held vc).map List.length).sum

/-- WHEY_FLIT_RECEIVE (R176): buffered on its channel; a Fenced port takes `CLASS` 7 alone (R177, R180); an Aux port takes none. One
that its codewords lost is dropped. A flit at an Aux port, on a channel above 1 or for a full buffer is discarded and counted (DESIGN CHOICE,
log entry 124). -/
def State.wheyArrives (s : State) (k vc : Nat) (fl : Flit) : State :=
  s.onPort k fun p =>
    if fl.bad then { p with credits := mapSet 0 p.credits (vc % 2) (mapGet 0 p.credits (vc % 2) + 1) }
    else if !wheyFlitOk fl || isAux k || decide (1 < vc ∨ wheyBuffer ≤ p.buffered vc) then { p with discards := sat32 p.discards 1 }
    else { p with whey := mapPut p.whey vc (mapGet [] p.whey vc ++ [fl]) }

def execWheyFlitReceive (port vc : Nat) (fl : Flit) (s : State) : Host.Outcome State Fault Refusal :=
  .next (if (s.port port).state = .active ∨ ((s.port port).state = .fenced ∧ fl.cls = 7) then s.wheyArrives port vc fl else s)

/-! ### Markers (R169, R179, R184) -/

/-- The tag of a session in a marker verifies. -/
def markerOk (m : Marker) (n : Nat) : Bool := m.present && m.hdr.ok && bit m.tagValid n && nth false m.authOk n

/-- The sessions with flits of a Tick in a port's buffers. -/
def Port.heard (p : Port) (t : Nat) : List Nat :=
  firsts ((if p.whey.any fun w => w.2.any fun f => decide (f.txTick = t % 65536) then [0] else []) ++
    (p.landing.filter fun e => decide (e.1 = t + 7)).map fun e => e.2.2.session)

/-- The flits of the Tick before that the marker does not authenticate are rejected: curd will be void, whey is dropped with its credits
returned (R179). -/
def Port.authenticate (p : Port) (m : Marker) (t : Nat) : Port :=
  let bad := (p.heard t).filter fun n => !markerOk m n
  let drop := fun (vc : Nat) => if bad.contains 0 then
      ((mapGet [] p.whey vc).filter fun f => decide (f.txTick = t % 65536)).length else 0
  { p with
    authFail := sat32 p.authFail bad.length,
    landing := p.landing.filter fun e => !(decide (e.1 = t + 7) && bad.contains e.2.2.session),
    whey := if bad.contains 0 then
        p.whey.filterMap fun w =>
          let l := w.2.filter fun f => decide (f.txTick ≠ t % 65536)
          if l.isEmpty then none else some (w.1, l)
      else p.whey,
    credits := mapSet 0 (mapSet 0 p.credits 0 (mapGet 0 p.credits 0 + drop 0)) 1 (mapGet 0 p.credits 1 + drop 1) }

/-- The credits of a marker, counted under 2 and 3 for what may be sent on channels 0 and 1. -/
def Port.takeCredits (p : Port) (m : Marker) : Port :=
  { p with credits := mapSet 0 (mapSet 0 p.credits 2 (mapGet 0 p.credits 2 + m.creditVc0)) 3 (mapGet 0 p.credits 3 + m.creditVc1) }

/-- TICK_MARKER on an Active or Fenced port; one with a reserved value is as one missing (R7, R179), and its codewords' errors are counted
(R199). -/
def State.marker (s : State) (k : Nat) (m : Marker) : State :=
  let t := s.rxTick k
  let u := s.onPort k fun p => { p.authenticate m (t - 1) with
    feCe := sat32 p.feCe m.corrected, feUe := sat32 p.feUe m.lostWords }
  if !m.present || !m.hdr.ok then
    u.onPort k fun p => { p with badTicks := p.badTicks + 1, voidFrom := some (p.voidFrom.getD (t + 6)) }
  else
    let u := u.onPort k fun p => { p.takeCredits m with
      badTicks := 0, voidFrom := none, lost := if m.tickLow = t % 2 ^ 32 then 0 else p.lost + 1 }
    let u := if markerOk m 0 then (u.drainWhey k 0).drainWhey k 1 else u.wheyMove
    if 2 ≤ (u.port k).lost then (u.portDown k).onPort k fun p => { p with last := 0x0606 } else u

def execTickMarker (port : Nat) (m : Marker) (s : State) : Host.Outcome State Fault Refusal :=
  .next (match (s.port port).state with
    | .active | .fenced => s.marker port m
    | .measure | .align => s.onPort port fun p => { p with feCe := sat32 p.feCe m.corrected, feUe := sat32 p.feUe m.lostWords }
    | .off | .detect | .equalise | .lock | .verify | .down | .failed => s)

/-! ### The by-pass (R185, R187) -/

/-- The pairs begin to move to the positions of a write. -/
def Links.movePairs (l : Links) (v : Nat) : Links :=
  { l with open' := v % 16, moving := (List.range 4).foldl (fun m p =>
      if bit v p = bit l.pairs p then mapDel m p else mapPut m p (bit v p)) l.moving }

/-- A write moves the pairs; without VBYP none opens (R500). -/
def State.movePairs (s : State) (v : Nat) : State :=
  s.onLinks fun l => if s.pins.vbyp then l.movePairs v else
    let m := l.movePairs v
    { m with moving := m.moving.filter fun e => !e.2 }

/-- BYPASS_OPEN (R185, R198): ignored while the package is not Awake. -/
def State.regBypassOpen (s : State) (value : Nat) : State :=
  if s.power.cellar = .awake then s.movePairs value else s

/-- BYPASS_OPEN, which the host reaches once the package is Ready (R441). -/
def execBypassOpen (value : Nat) (s : State) : Host.Outcome State Fault Refusal :=
  .next (if s.barOpen 0 then s.regBypassOpen value else s)

/-- A pair reaches its position; closing, it takes the light from the package's own two ports (R185). -/
def State.pairDone (s : State) (p : Nat) : State :=
  match mapFind s.links.moving p with
  | none => s
  | some b =>
    let t := s.onLinks fun l => { l with
      moving := mapDel l.moving p, pairs := if bit l.pairs p = b then l.pairs else if b then l.pairs + 2 ^ p else l.pairs - 2 ^ p }
    if b then t else [p, p + 4].foldl (fun t k =>
      if (t.port k).state = .active ∨ (t.port k).state = .fenced then t.portDown k else t) t

/-- BYPASS_SWITCH_DONE (R185, R187). -/
def execBypassSwitchDone (pair : Nat) (s : State) : Host.Outcome State Fault Refusal := .next (s.pairDone pair)

/-! ### Link keys (R382, R383) -/

/-- LINK_COMMIT (R383, R391): at once where no port is in use, else at the switch Tick. -/
def State.regLinkCommit (s : State) (value : Nat) : State :=
  if !bit value 0 then s
    else if (List.range 8).all fun k => (s.port k).state.dark then
      s.onKeys fun v => { v with epoch := v.epochNext, pendSwitch := none }
    else s.onKeys fun v => { v with pendSwitch := some (v.epochNext, v.switchNext) }

/-- LINK_COMMIT, which the host reaches once the package is Ready (R441). -/
def execLinkCommit (value : Nat) (s : State) : Host.Outcome State Fault Refusal :=
  .next (if s.barOpen 0 then s.regLinkCommit value else s)

/-- LINK_KEY_SWITCH (R383): from the switch Tick each sender uses the new phase; each session in use awaits its verify round. -/
def State.keySwitch (s : State) : State :=
  match s.keys.pendSwitch with
  | none => s
  | some (e, x) =>
    if s.now < x then s else
    (s.onKeys fun v => { v with epoch := e, pendSwitch := none }).onLinks fun l =>
      { l with ports := mapAll l.ports fun _ p =>
          if p.state = .active ∨ p.state = .fenced then { p with txPhase := 1 - p.txPhase, verifying := 0 :: p.vats.map (·.2) } else p }

def execLinkKeySwitch (s : State) : Host.Outcome State Fault Refusal := .next s.keySwitch

/-- LINK_KEY_VERIFY_ROUND (R383): a whole frame authenticated zeroises the old key; a failure is counted and puts the port Down. -/
def execLinkKeyVerifyRound (port session : Nat) (ok : Bool) (s : State) : Host.Outcome State Fault Refusal :=
  .next (if !(s.port port).verifying.contains session then s else
    let t := s.onPort port fun p => { p with verifying := p.verifying.filter (· ≠ session) }
    if ok then t else
    (t.onKeys fun v => { v with verifyFail := sat32 v.verifyFail 1 }).portDown port)

end Sys2Proof.Machine
end

