-- ==== Sys2Proof/Machine/Units.lean ====
section
/-! DEFINITION. What the units of a core share: when they act (R75), reads and writes of the core bank and the unit state (R79 to R87,
R95), and the errors an operation meets (R85, R101, R162, R163). -/

namespace Sys2Proof.Machine
open Sys2Proof

/-! ### When a unit acts -/

/-- The vat whose step a core's units serve: the core is Bound and not fenced, and the step is in progress (R19, R75). -/
def State.coreActs (s : State) (c : Nat) : Option Nat :=
  if s.coreFenced c ∨ (s.core c).state ≠ .bound then none
  else (s.coreVat c).bind fun v => if ((s.vat? v).bind (·.step)).isSome then some v else none

/-! ### Storage of a core -/

def Core.rd (u : Core) (a n : Nat) : List Byte := Memory.read u.bank a n
def Core.wr (u : Core) (a : Nat) (bs : List Byte) : Core := { u with bank := Memory.write u.bank a bs }

/-- A byte of the core bank as a number. -/
def Core.byte (u : Core) (a : Nat) : Nat := (Memory.get u.bank a).toNat

/-- Accumulator `i` of a bank of an engine (R87). -/
def Core.getAcc (u : Core) (engine bank i : Nat) : Word := mapGet 0 u.acc ((engine * 2 + bank) * 2048 + i)
def Core.setAcc (u : Core) (engine bank : Nat) (xs : List (Nat × Word)) : Core :=
  { u with acc := xs.foldl (fun m x => mapSet 0 m ((engine * 2 + bank) * 2048 + x.1) x.2) u.acc }

def Table.zero : Table := ⟨0, 0, []⟩

/-- A table register of an engine (R87). -/
def Core.table (u : Core) (engine r : Nat) : Table := mapGet Table.zero u.tables (engine * 8 + r)
def Core.setTable (u : Core) (engine r : Nat) (t : Table) : Core :=
  { u with tables := mapSet Table.zero u.tables (engine * 8 + r) t }

/-- Tables whose round has begun by a usable cycle of a Tick stand in their registers (R64, R93). -/
def Core.settleTables (u : Core) (tick cycle : Nat) : Core :=
  let due (x : LateTable) := decide (x.tick < tick ∨ (x.tick = tick ∧ x.cycle ≤ cycle))
  { u with tables := (u.tblNext.filter due).foldl (fun m x => mapSet Table.zero m x.reg x.table) u.tables,
           tblNext := u.tblNext.filter fun x => !due x }

/-- A weight-stage entry of an engine (R87). -/
def Core.stageEnt (u : Core) (engine i : Nat) : Nat := mapGet 0 u.stage (engine * 32768 + i % 32768)
def Core.setStage (u : Core) (engine : Nat) (xs : List (Nat × Nat)) : Core :=
  { u with stage := xs.foldl (fun m x => mapSet 0 m (engine * 32768 + x.1 % 32768) x.2) u.stage }

/-- The 128 lanes of a vector register (R95). -/
def Core.vec (u : Core) (r : Nat) : List Word := (List.range 128).map fun l => mapGet 0 u.vregs (r * 128 + l)
def Core.setVec (u : Core) (r : Nat) (xs : List Word) : Core :=
  { u with vregs := xs.zipIdx.foldl (fun m x => mapSet 0 m (r * 128 + x.2) x.1) u.vregs }

/-- `n` registers from one on, and their writing. -/
def Core.vecs (u : Core) (r n : Nat) : List (List Word) := (List.range n).map fun v => u.vec (r + v)
def Core.setVecs (u : Core) (r : Nat) (xs : List (List Word)) : Core :=
  xs.zipIdx.foldl (fun u x => u.setVec (r + x.2) x.1) u

/-! ### Errors of the step in progress (R101, R407, R408) -/

/-- The errors of a core join its record for the step: the earliest by Tick and lane is described (R71, R72), all are counted. An error that
is no press error counts as of lane 0 (DESIGN CHOICE, log entry 105). -/
def addErr (e : CoreErr) : List CoreErr → List CoreErr
  | [] => [e]
  | d :: ds =>
    if d.core ≠ e.core then d :: addErr e ds
    else if e.tick < d.tick ∨ (e.tick = d.tick ∧ e.lane < d.lane) then { e with count := d.count + e.count } :: ds
    else { d with count := d.count + e.count } :: ds

/-- Errors of a core fail the step (R101). `order` ranks press errors of one Tick (R71). -/
def State.unitError (s : State) (vat : Nat) (e : CoreErr) (order : Nat) : State :=
  (s.failStep vat ⟨e.first.1, e.tick, s.source (coreSource e.core), order⟩).onVat vat fun v =>
    { v with step := v.step.map fun r => { r with errs := addErr e r.errs } }

/-- A core-bank read found an uncorrectable granule (R85). -/
def State.bankError (s : State) (vat c a : Nat) : State :=
  let t := s.onCore c fun u => { u with ue := sat32 u.ue 1 }
  (t.unitError vat ⟨c, s.now, 0, (0x0540, a, 0, 0), 1⟩ 0).coreError c 1

/-- A core-bank read corrected a granule (R85, R102). -/
def State.bankCorrected (s : State) (c a : Nat) : State :=
  (s.onCore c fun u => { u with ce := sat32 u.ce 1, ceLast := a }).coreError c 3

/-- A parity error in engine or vector state (R101). -/
def State.parityError (s : State) (vat c : Nat) : State :=
  let t := s.onCore c fun u => { u with parity := sat32 u.parity 1 }
  (t.unitError vat ⟨c, s.now, 0, (0x0541, 0, 0, 0), 1⟩ 0).coreError c 2

/-- An uncorrectable fabric slot at its endpoint (R163). -/
def State.slotError (s : State) (vat c : Nat) : State :=
  (s.onTick fun k => { k with fabUe := sat32 k.fabUe 1 }).failStep vat ⟨0x0550, s.now, s.source (0x28 + c / 256), 0⟩

/-- What an event of R162 names: router, and logical core, 0xFFFF where no core sits at the router. -/
def State.atRouter (s : State) (r : Nat) : Nat := r * 65536 + (if r < 1024 then s.logicalOf r else 0xFFFF)

/-- A void slot arrived for a core: it wrote nothing, and the step is Degraded (R162). -/
def State.voidArrives (s : State) (vat c : Nat) : State :=
  let t := (s.onTick fun k => { k with voids := sat32 k.voids 1 }).note (0x28 + c / 256) "VOID_ARRIVAL" (s.atRouter c)
  (t.degradeStep vat).onVat vat fun v => { v with step := v.step.map fun r => { r with voids := r.voids + 1 } }

/-- A curd slot bound for a fenced core is discarded by the core's router (R162). -/
def State.slotDiscarded (s : State) (vat c : Nat) : State :=
  let t := (s.onTick fun k => { k with discards := sat32 k.discards 1 }).note (0x28 + c / 256) "FENCED_CORE_DISCARD" (s.atRouter c)
  (t.degradeStep vat).onVat vat fun v => { v with step := v.step.map fun r => { r with voids := r.voids + 1 } }

/-- The errors an operation of a core met, with those that the reads of its atomics met at their target cores (R85); those of HBM reads come
with the reads themselves (R210). -/
def State.unitFaults (s : State) (vat c : Nat) (f : UnitFault) : State :=
  let t := f.ce.foldl (fun t a => t.bankCorrected c a) s
  let t := f.ue.foldl (fun t a => t.bankError vat c a) t
  let t := if f.parity then t.parityError vat c else t
  let t := (f.memCe.filter isSlice).foldl (fun t a => t.memCorrected a) t
  let t := (f.memUe.filter isSlice).foldl (fun t a => t.curdError vat a) t
  let t := if f.slotCe = 0 then t else t.onTick fun k => { k with fabCe := sat32 k.fabCe f.slotCe }
  let t := (List.range f.slotUe).foldl (fun t _ => t.slotError vat c) t
  let t := f.voids.foldl (fun t _ => t.voidArrives vat c) t
  let t := f.atCe.foldl (fun t x => t.bankCorrected x.1 x.2) t
  f.atUe.foldl (fun t x => t.bankError vat x.1 x.2) t

/-- A word a verified microprogram may hold for an operation (R77, R136): its opcode, nothing reserved, its operands in bounds. -/
def opFits (code : Nat) (w : OpWord) : Bool := decide (opCode w = code ∧ opReserved w = 0) && operandOk w

/-- An issue of this word in the Tick at hand by the microprogram that the core's vat runs (R75, R114, R120): the usable cycle within the Tick
and U; none where the program issues no such word now. -/
def State.issued (s : State) (vat c : Nat) (w : OpWord) : Option (Nat × Nat) :=
  (s.vat? vat).bind fun v => v.mould.bind fun m => v.step.bind fun r =>
    let n := max 1 (stepU m r.table.stepId)
    ((progIssues (s.core c).program r.table.stepId).find? fun x =>
      decide (x.word = some w ∧ r.table.start + x.cycle / n = s.now)).map fun x => (x.cycle % n, n)

/-- The vat whose step runs an operation on a core: the core acts, and its microprogram issues the word now. -/
def State.opRuns (s : State) (c code : Nat) (w : OpWord) : Option Nat :=
  if opFits code w then (s.coreActs c).filter fun v => (s.issued v c w).isSome else none

/-- The Tick and usable cycle that lies some cycles after an operation's issue. -/
def State.cycleOf (s : State) (c : Nat) (w : OpWord) (after : Nat) : Nat × Nat :=
  let ph := ((s.coreActs c).bind fun v => s.issued v c w).getD (0, 1)
  (s.now + (ph.1 + after) / ph.2, (ph.1 + after) % ph.2)

/-- The core with the table registers as they stand some cycles after an operation's issue. -/
def State.tabled (s : State) (c : Nat) (w : OpWord) (after : Nat) (u : Core) : Core :=
  u.settleTables (s.cycleOf c w after).1 (s.cycleOf c w after).2

/-- An operation that touches only its core: its effect and the errors it met. -/
def State.unitOp (s : State) (c code : Nat) (w : OpWord) (f : UnitFault) (g : Core → Core) : State :=
  match s.opRuns c code w with
  | none => s
  | some vat => (s.onCore c g).unitFaults vat c f

/-- The rows of the core bank an atomic may not write: a read of it found an uncorrectable error (R85). -/
def badRow (f : UnitFault) (a : Nat) : Bool := f.ue.any fun x => decide (x / 64 = a / 64)

end Sys2Proof.Machine
end

