-- ==== Sys2Proof/Machine/Vector.lean ====
section
/-! DEFINITION. The vector unit: loads, stores, atomics, lane-wise, elementary, cross-lane and composite operations (R84, R95 to R97). -/

namespace Sys2Proof.Machine
open Sys2Proof

/-! ### Loads and stores -/

/-- A vector in memory, 128 elements of a format packed from an address on, widened to FP32 (R37, R504). -/
def Core.loadVec (u : Core) (code a : Nat) : List Word :=
  (List.range 128).map fun l =>
    (fmtKind code).elim 0 fun k => toFp32 (elemVal k (bankElem u.rd (codeBits code) a l))

/-- The packed elements of a vector converted to a format (R36, R504). -/
def vecElems (code mode : Nat) (xs : List Word) : List Byte :=
  packElems (codeBits code) (xs.map fun x => (fmtKind code).elim 0 fun k => cvtElem k mode (fp32 x))

/-- VLD. -/
def vldEffect (w : OpWord) (u : Core) : Core :=
  u.setVecs (vD w) ((List.range (vN w)).map fun v => u.loadVec (vFmt w) (vAddr w + v * vecBytes w))

def execVld (core : Nat) (w : OpWord) (f : UnitFault) (s : State) : Host.Outcome State Fault Refusal :=
  .next (s.unitOp core 0x20 w f (vldEffect w))

/-- VST. -/
def vstEffect (w : OpWord) (u : Core) : Core :=
  u.wr (vAddr w) ((u.vecs (vA w) (vN w)).flatMap fun x => vecElems (vFmt w) (vCvt w) x)

def execVst (core : Nat) (w : OpWord) (f : UnitFault) (s : State) : Host.Outcome State Fault Refusal :=
  .next (s.unitOp core 0x21 w f (vstEffect w))

/-- Block `b` of 32 MX elements with its scale, as FP32 (R31, R32). -/
def Core.loadBlock (u : Core) (w : OpWord) (b : Nat) : List Word :=
  let width := codeBits (vFmt w)
  let sc := e8m0 (u.byte (vAddr2 w + b))
  (List.range 32).map fun j =>
    (fmtKind (vFmt w)).elim 0 fun k => toFp32 (fpMul (elemVal k (bankElem u.rd width (vAddr w + b * packedBytes width 32) j)) sc)

/-- VLDMX: lanes 32b to 32b + 31 of a register are one block. -/
def vldmxEffect (w : OpWord) (u : Core) : Core :=
  u.setVecs (vD w) ((List.range (vN w)).map fun v => (List.range 4).flatMap fun b => u.loadBlock w (4 * v + b))

def execVldmx (core : Nat) (w : OpWord) (f : UnitFault) (s : State) : Host.Outcome State Fault Refusal :=
  .next (s.unitOp core 0x22 w f (vldmxEffect w))

/-- The MX blocks of the registers a VSTMX names: scale and elements (R33). -/
def Core.vecBlocks (u : Core) (w : OpWord) : List (Nat × List Nat) :=
  (u.vecs (vA w) (vN w)).flatMap fun x => (List.range 4).map fun b =>
    (fmtKind (vFmt w)).elim (0, []) fun k => mxQuantise k (vCvt w) (((x.drop (32 * b)).take 32).map fp32)

/-- VSTMX. -/
def vstmxEffect (w : OpWord) (u : Core) : Core :=
  let bs := u.vecBlocks w
  (u.wr (vAddr w) (packElems (codeBits (vFmt w)) (bs.flatMap (·.2)))).wr (vAddr2 w) (bs.map fun b => BitVec.ofNat 8 b.1)

def execVstmx (core : Nat) (w : OpWord) (f : UnitFault) (s : State) : Host.Outcome State Fault Refusal :=
  .next (s.unitOp core 0x23 w f (vstmxEffect w))

/-- Negative infinity. -/
def fp32NegInf : Word := 0xFF800000#32

/-- VMSK: a lane whose mask bit is 0 becomes −infinity, any other keeps the value of VA. -/
def vmskEffect (w : OpWord) (u : Core) : Core :=
  u.setVecs (vD w) ((u.vecs (vA w) (vN w)).zipIdx.map fun x =>
    x.1.zipIdx.map fun y => if bit (u.byte (vAddr2 w + 16 * x.2 + y.2 / 8)) (y.2 % 8) then y.1 else fp32NegInf)

def execVmsk (core : Nat) (w : OpWord) (f : UnitFault) (s : State) : Host.Outcome State Fault Refusal :=
  .next (s.unitOp core 0x24 w f (vmskEffect w))

/-! ### Bank-side atomics (R84, R85) -/

/-- The element an atomic ADD leaves (R84): INT32, FP32 or BF16. -/
def atomicAdd (code old x : Nat) : Nat :=
  if code = 0x20 then (old + x) % 2 ^ 32
  else if code = 0x01 then (fAdd (BitVec.ofNat 32 old) (BitVec.ofNat 32 x)).toNat
  else fpEncode fmtBf16 false false (fpAdd (fpDecode fmtBf16 old) (fpDecode fmtBf16 x))

/-- Apply atomic ADDs of elements from an address on; a row whose read failed is not written. -/
def Core.addElems (u : Core) (code : Nat) (f : UnitFault) (a : Nat) (xs : List Nat) : Core :=
  let esize := codeBits code / 8
  xs.zipIdx.foldl (fun u x =>
    let p := a + esize * x.2
    if badRow f p then u else u.wr p (leBytes esize (atomicAdd code (leNat (u.rd p esize)) x.1))) u

/-- A lane of an atomic's operand as an element of its format: its bits for FP32, else converted with RNE (R36, R37), the word holding no
`CVT_MODE` (DESIGN CHOICE, log entry 33). -/
def atomicElem (code : Nat) (x : Word) : Nat :=
  if code = 0x02 then fpEncode fmtBf16 false false (fp32 x) else if code = 0x20 then fpToInt32 false (fp32 x) else x.toNat

/-- VATOM. -/
def vatomEffect (w : OpWord) (f : UnitFault) (u : Core) : Core :=
  u.addElems (vFmt w) f (vAddr w) ((u.vecs (vA w) (vN w)).flatten.map (atomicElem (vFmt w)))

def execVatom (core : Nat) (w : OpWord) (f : UnitFault) (s : State) : Host.Outcome State Fault Refusal :=
  .next (s.unitOp core 0x25 w f (vatomEffect w f))

/-- VSWAP: the operand replaces the element, the old value returns to VD. -/
def vswapEffect (w : OpWord) (f : UnitFault) (u : Core) : Core :=
  let old := (List.range (vN w)).map fun v => u.loadVec (vFmt w) (vAddr w + v * vecBytes w)
  let u' := ((u.vecs (vA w) (vN w)).flatten.zipIdx).foldl (fun u x =>
    let p := vAddr w + 4 * x.2
    if badRow f p then u else u.wr p (leBytes 4 (atomicElem (vFmt w) x.1))) u
  u'.setVecs (vD w) old

def execVswap (core : Nat) (w : OpWord) (f : UnitFault) (s : State) : Host.Outcome State Fault Refusal :=
  .next (s.unitOp core 0x26 w f (vswapEffect w f))

/-! ### Lane-wise operations -/

/-- The second operand: VB, or the immediate in every lane. -/
def Core.opB (u : Core) (w : OpWord) : List (List Word) :=
  if vImmB w then List.replicate (vN w) (List.replicate 128 (vImm w)) else u.vecs (vB w) (vN w)

/-- A lane-wise operation of one operand. -/
def lane1 (g : Word → Word) (w : OpWord) (u : Core) : Core := u.setVecs (vD w) ((u.vecs (vA w) (vN w)).map fun x => x.map g)

/-- A lane-wise operation of two operands. -/
def lane2 (g : Word → Word → Word) (w : OpWord) (u : Core) : Core :=
  u.setVecs (vD w) (List.zipWith (List.zipWith g) (u.vecs (vA w) (vN w)) (u.opB w))

def execAdd (core : Nat) (w : OpWord) (f : UnitFault) (s : State) : Host.Outcome State Fault Refusal :=
  .next (s.unitOp core 0x30 w f (lane2 fAdd w))
def execSub (core : Nat) (w : OpWord) (f : UnitFault) (s : State) : Host.Outcome State Fault Refusal :=
  .next (s.unitOp core 0x31 w f (lane2 fSub w))
def execMul (core : Nat) (w : OpWord) (f : UnitFault) (s : State) : Host.Outcome State Fault Refusal :=
  .next (s.unitOp core 0x32 w f (lane2 fMul w))
def execDiv (core : Nat) (w : OpWord) (f : UnitFault) (s : State) : Host.Outcome State Fault Refusal :=
  .next (s.unitOp core 0x33 w f (lane2 fDiv w))

/-- FMA: VA × VB + VC with one rounding. -/
def fmaEffect (w : OpWord) (u : Core) : Core :=
  u.setVecs (vD w) (List.zipWith (fun ab c => List.zipWith (fun (p : Word × Word) z => fFma p.1 p.2 z) ab c)
    (List.zipWith List.zip (u.vecs (vA w) (vN w)) (u.opB w)) (u.vecs (vC w) (vN w)))

def execFma (core : Nat) (w : OpWord) (f : UnitFault) (s : State) : Host.Outcome State Fault Refusal :=
  .next (s.unitOp core 0x34 w f (fmaEffect w))
def execMin (core : Nat) (w : OpWord) (f : UnitFault) (s : State) : Host.Outcome State Fault Refusal :=
  .next (s.unitOp core 0x35 w f (lane2 fMin w))
def execMax (core : Nat) (w : OpWord) (f : UnitFault) (s : State) : Host.Outcome State Fault Refusal :=
  .next (s.unitOp core 0x36 w f (lane2 fMax w))
def execAbs (core : Nat) (w : OpWord) (f : UnitFault) (s : State) : Host.Outcome State Fault Refusal :=
  .next (s.unitOp core 0x37 w f (lane1 fAbs w))
def execNeg (core : Nat) (w : OpWord) (f : UnitFault) (s : State) : Host.Outcome State Fault Refusal :=
  .next (s.unitOp core 0x38 w f (lane1 fNeg w))
def execMov (core : Nat) (w : OpWord) (f : UnitFault) (s : State) : Host.Outcome State Fault Refusal :=
  .next (s.unitOp core 0x39 w f (lane1 id w))

/-- BCAST: lane `IMM` of each register in every lane. -/
def bcastEffect (w : OpWord) (u : Core) : Core :=
  u.setVecs (vD w) ((u.vecs (vA w) (vN w)).map fun x => List.replicate 128 (nth 0 x (opF w 0x10 4)))

def execBcast (core : Nat) (w : OpWord) (f : UnitFault) (s : State) : Host.Outcome State Fault Refusal :=
  .next (s.unitOp core 0x3A w f (bcastEffect w))

/-- RND: to the format under the mode and back. -/
def rndLane (code mode : Nat) (x : Word) : Word :=
  (fmtKind code).elim 0 fun k => toFp32 (elemVal k (cvtElem k mode (fp32 x)))

def execRnd (core : Nat) (w : OpWord) (f : UnitFault) (s : State) : Host.Outcome State Fault Refusal :=
  .next (s.unitOp core 0x3B w f (lane1 (rndLane (vFmt w) (vCvt w)) w))

def execRcp (core : Nat) (w : OpWord) (f : UnitFault) (s : State) : Host.Outcome State Fault Refusal :=
  .next (s.unitOp core 0x40 w f (lane1 fRcp w))
def execSqrt (core : Nat) (w : OpWord) (f : UnitFault) (s : State) : Host.Outcome State Fault Refusal :=
  .next (s.unitOp core 0x41 w f (lane1 fSqrt w))
def execRsqrt (core : Nat) (w : OpWord) (f : UnitFault) (s : State) : Host.Outcome State Fault Refusal :=
  .next (s.unitOp core 0x42 w f (lane1 fRsqrt w))
def execExp (core : Nat) (w : OpWord) (f : UnitFault) (s : State) : Host.Outcome State Fault Refusal :=
  .next (s.unitOp core 0x43 w f (lane1 fExp w))
def execExp2 (core : Nat) (w : OpWord) (f : UnitFault) (s : State) : Host.Outcome State Fault Refusal :=
  .next (s.unitOp core 0x44 w f (lane1 fExp2 w))
def execLog2 (core : Nat) (w : OpWord) (f : UnitFault) (s : State) : Host.Outcome State Fault Refusal :=
  .next (s.unitOp core 0x45 w f (lane1 fLog2 w))
def execSinpi (core : Nat) (w : OpWord) (f : UnitFault) (s : State) : Host.Outcome State Fault Refusal :=
  .next (s.unitOp core 0x46 w f (lane1 fSinPi w))
def execCospi (core : Nat) (w : OpWord) (f : UnitFault) (s : State) : Host.Outcome State Fault Refusal :=
  .next (s.unitOp core 0x47 w f (lane1 fCosPi w))
def execTanh (core : Nat) (w : OpWord) (f : UnitFault) (s : State) : Host.Outcome State Fault Refusal :=
  .next (s.unitOp core 0x48 w f (lane1 fTanh w))

/-! ### Cross-lane reductions (R49) -/

/-- A reduction of VA.. in every lane of VD; nothing for no registers. -/
def reduceEffect (g : Word → Word → Word) (w : OpWord) (u : Core) : Core :=
  if vN w = 0 then u else u.setVec (vD w) (List.replicate 128 (laneReduce g (u.vecs (vA w) (vN w))))

def execRsum (core : Nat) (w : OpWord) (f : UnitFault) (s : State) : Host.Outcome State Fault Refusal :=
  .next (s.unitOp core 0x50 w f (reduceEffect fAdd w))
def execRmax (core : Nat) (w : OpWord) (f : UnitFault) (s : State) : Host.Outcome State Fault Refusal :=
  .next (s.unitOp core 0x51 w f (reduceEffect fMax w))
def execRmin (core : Nat) (w : OpWord) (f : UnitFault) (s : State) : Host.Outcome State Fault Refusal :=
  .next (s.unitOp core 0x52 w f (reduceEffect fMin w))

/-! ### Composite operations (R97) -/

/-- The sum of squares: squares lane by lane with one rounding each, then the tree. -/
def sumSq : List (List Word) → Word
  | [] => 0
  | x :: xs => laneTree fAdd (xs.foldl (fun a y => List.zipWith (fun p q => fFma q q p) a y) (x.map fun v => fMul v v))

/-- 1 / sqrt(sum × inv + ε). -/
def rmsScale (sq inv eps : Word) : Word := fRsqrt (fAdd (fMul sq inv) eps)

/-- RMSNORM. -/
def rmsnormVecs (xs gs : List (List Word)) (eps inv : Word) : List (List Word) :=
  let r := rmsScale (sumSq xs) inv eps
  List.zipWith (List.zipWith fun x g => fMul (fMul x r) g) xs gs

def execRmsnorm (core : Nat) (w : OpWord) (f : UnitFault) (s : State) : Host.Outcome State Fault Refusal :=
  .next (s.unitOp core 0x58 w f fun u =>
    u.setVecs (vD w) (rmsnormVecs (u.vecs (vA w) (vN w)) (u.opB w) (vImm w) (vImm2 w)))

/-- LAYERNORM. -/
def layernormVecs (xs gs bs : List (List Word)) (eps inv : Word) : List (List Word) :=
  let mu := fMul (laneReduce fAdd xs) inv
  let ds := xs.map fun x => x.map fun v => fSub v mu
  let r := rmsScale (sumSq ds) inv eps
  List.zipWith (fun (p : List Word × List Word) b => List.zipWith (fun (q : Word × Word) z => fFma (fMul q.1 r) q.2 z)
    (List.zip p.1 p.2) b) (List.zip ds gs) bs

def execLayernorm (core : Nat) (w : OpWord) (f : UnitFault) (s : State) : Host.Outcome State Fault Refusal :=
  .next (s.unitOp core 0x59 w f fun u =>
    u.setVecs (vD w) (layernormVecs (u.vecs (vA w) (vN w)) (u.opB w) (u.vecs (vC w) (vN w)) (vImm w) (vImm2 w)))

/-- SOFTMAX (R97): the sequence as written, which gives +0 where every lane that holds no NaN holds −∞; the sentence after it gives such a
row NaN (DESIGN CHOICE, log entry 122). -/
def softmaxVecs (xs : List (List Word)) : List (List Word) :=
  let m := laneReduce fMax xs
  if m = fp32NegInf then xs.map fun x => x.map fun _ => 0
  else
    let es := xs.map fun x => x.map fun v => fExp (fSub v m)
    let r := fRcp (laneReduce fAdd es)
    es.map fun e => e.map fun v => fMul v r

def execSoftmax (core : Nat) (w : OpWord) (f : UnitFault) (s : State) : Host.Outcome State Fault Refusal :=
  .next (s.unitOp core 0x5A w f fun u => u.setVecs (vD w) (softmaxVecs (u.vecs (vA w) (vN w))))

/-- ROPE of one register: lanes 2i and 2i + 1 turn by the angle π t, t from lane 2i of VB. -/
def ropeVec (x ts : List Word) : List Word :=
  (List.range 64).flatMap fun i =>
    let a := nth 0 x (2 * i)
    let b := nth 0 x (2 * i + 1)
    let c := fCosPi (nth 0 ts (2 * i))
    let sn := fSinPi (nth 0 ts (2 * i))
    [fSub (fMul a c) (fMul b sn), fAdd (fMul a sn) (fMul b c)]

def execRope (core : Nat) (w : OpWord) (f : UnitFault) (s : State) : Host.Outcome State Fault Refusal :=
  .next (s.unitOp core 0x5B w f fun u =>
    u.setVecs (vD w) (List.zipWith ropeVec (u.vecs (vA w) (vN w)) (u.opB w)))

/-- SILU of a lane. -/
def siluLane (x : Word) : Word := fMul x (fRcp (fAdd fp32One (fExp (fNeg x))))

def execSilu (core : Nat) (w : OpWord) (f : UnitFault) (s : State) : Host.Outcome State Fault Refusal :=
  .next (s.unitOp core 0x5C w f (lane1 siluLane w))

/-- The FP32 values nearest √(2/π) and 0.044715. -/
def geluK0 : Word := 0x3F4C422A#32
def geluK1 : Word := 0x3D372713#32

/-- GELU of a lane. -/
def geluLane (x : Word) : Word :=
  let u := fFma (fMul geluK1 x) (fMul x x) x
  fMul (fMul 0x3F000000#32 x) (fAdd fp32One (fTanh (fMul geluK0 u)))

def execGelu (core : Nat) (w : OpWord) (f : UnitFault) (s : State) : Host.Outcome State Fault Refusal :=
  .next (s.unitOp core 0x5D w f (lane1 geluLane w))

def execSwiglu (core : Nat) (w : OpWord) (f : UnitFault) (s : State) : Host.Outcome State Fault Refusal :=
  .next (s.unitOp core 0x5E w f fun u =>
    u.setVecs (vD w) (List.zipWith (List.zipWith fun x g => fMul (siluLane x) g) (u.vecs (vA w) (vN w)) (u.opB w)))

end Sys2Proof.Machine
end

