-- ==== Sys2Proof/Machine/Mover.lean ====
section
/-! DEFINITION. The data mover: GET, PUT, SEND, COPY, GETX, GETL, PUTL, and curd reads of HBM (R98 to R100, R162, R210, R254). -/

namespace Sys2Proof.Machine
open Sys2Proof

/-! ### The far side -/

/-- A range of a vat address as device-physical pieces, under the key its region's use asks for (R127, R215). -/
def State.vaPieces (s : State) (v : Vat) (a len : Nat) : Pieces :=
  let rs := (v.mould.map fun m => mRegions m v.lpkg).getD []
  let use : Nat := (rs[vaRegion a]?.elim 0 fun r => r.use : Nat)
  v.regionPieces (vaRegion a) (vaOffset a) len ((s.vatSlot v.desc.vatId (if use = 1 then 4 else 5)).getD 1)

/-- A piece lies in a fenced HBM stack (R407). -/
def State.pieceFenced (s : State) (p : Nat × Nat × Nat) : Bool := decide (p.1 < 2 ^ 40) && s.fenced 5 (p.1 / 2 ^ 36)

/-- What a curd read returns: zeros from a fenced stack. -/
def State.curdRead (s : State) (ps : Pieces) : List Byte :=
  ps.flatMap fun p => if s.pieceFenced p then zeros p.2.1 else s.dpaRead (s.slotKey p.2.2) p.1 p.2.1

/-- A curd write; a fenced stack takes none. -/
def State.curdWrite (s : State) : Pieces → List Byte → State
  | [], _ => s
  | p :: ps, bs =>
    (if s.pieceFenced p then s else s.dpaWrite (s.slotKey p.2.2) p.1 (bs.take p.2.1)).curdWrite ps (bs.drop p.2.1)

/-- A curd access to a fenced stack fails the step with 0x0730 (R407). -/
def State.curdFence (s : State) (vat : Nat) (ps : Pieces) : State :=
  match ps.find? s.pieceFenced with
  | some p => s.failStep vat ⟨0x0730, s.now, s.source (0x10 + p.1 / 2 ^ 36), 0⟩
  | none => s

/-- The curd reads of HBM an operation begins; each is ready two Ticks and 8 cycles later (R210). -/
def State.beginReads (s : State) (ps : Pieces) : State :=
  s.onMem fun m => { m with
    curd := (m.curd.filter fun e => decide (s.now ≤ e.2 + 3)) ++
      ((ps.filter fun p => decide (p.1 < 2 ^ 40)).flatMap fun p => (cuts 128 p.1 p.2.1).map fun c => (c.1 / 128 * 128, s.now)) }

/-- Bytes with those of void slots left as they were (R162); `first` is the number of the first slot. -/
def keepVoids (voids : List Nat) (first : Nat) (old new : List Byte) : List Byte :=
  (List.zip old new).zipIdx.map fun x => if voids.contains (first + x.2 / 128) then x.1.1 else x.1.2

/-- Write a row of the core bank but for its void slots. -/
def Core.land (u : Core) (voids : List Nat) (first a : Nat) (bs : List Byte) : Core :=
  u.wr a (keepVoids voids first (u.rd a bs.length) bs)

/-- Slots of a transfer. -/
def slotsOf (len : Nat) : Nat := ceilDiv len 128

/-- The vat and step an operation of the mover serves. -/
def State.moverRuns (s : State) (c code : Nat) (w : OpWord) : Option (Vat × StepRun) :=
  (s.opRuns c code w).bind fun vat => (s.vat? vat).bind fun v => v.step.map fun r => (v, r)

/-! ### GET and PUT -/

/-- The bytes a range of a vat address holds for a read: this package's, or those a remote package sent. -/
def State.curdBytes (s : State) (v : Vat) (a len : Nat) (far : List Byte) : List Byte :=
  if vaLpkg a = v.lpkg then s.curdRead (s.vaPieces v a len) else fitBytes len far

/-- The local pieces of a range; none for a remote package's. -/
def State.nearPieces (s : State) (v : Vat) (a len : Nat) : Pieces := if vaLpkg a = v.lpkg then s.vaPieces v a len else []

/-- GET (R99). -/
def State.moverGet (s : State) (c : Nat) (w : OpWord) (far : List Byte) (f : UnitFault) : State :=
  match s.moverRuns c 0x18 w with
  | none => s
  | some (v, _) =>
    let ps := s.nearPieces v (dmVatAddr w) (dmLength w)
    let bs := s.curdBytes v (dmVatAddr w) (dmLength w) far
    (((s.onCore c fun u => u.land f.voids 0 (dmBank w) bs).beginReads ps).curdFence v.desc.vatId ps).unitFaults v.desc.vatId c f

def execGet (core : Nat) (w : OpWord) (far : List Byte) (f : UnitFault) (s : State) : Host.Outcome State Fault Refusal :=
  .next (s.moverGet core w far f)

/-- Write a range of this package's memory but for void slots. -/
def State.store (s : State) (ps : Pieces) (voids : List Nat) (first : Nat) (bs : List Byte) : State :=
  s.curdWrite ps (keepVoids voids first (s.readPieces ps) bs)

/-- PUT (R99); what goes to a remote package is that package's to write. -/
def State.moverPut (s : State) (c : Nat) (w : OpWord) (f : UnitFault) : State :=
  match s.moverRuns c 0x19 w with
  | none => s
  | some (v, _) =>
    let ps := s.nearPieces v (dmVatAddr w) (dmLength w)
    ((s.store ps f.voids 0 ((s.core c).rd (dmBank w) (dmLength w))).curdFence v.desc.vatId ps).unitFaults v.desc.vatId c f

def execPut (core : Nat) (w : OpWord) (f : UnitFault) (s : State) : Host.Outcome State Fault Refusal :=
  .next (s.moverPut core w f)

/-! ### SEND and COPY -/

/-- The logical cores a SEND reaches (R98, R130). -/
def Vat.sendTargets (v : Vat) (w : OpWord) : List Nat :=
  if bit (dmTarget w) 15 then (v.mould.map fun m => mMulticast m v.lpkg (bits (dmTarget w) 11 0)).getD []
  else [bits (dmTarget w) 8 0]

/-- The element format of a SEND's atomic (R98). -/
def atomCode (w : OpWord) : Nat := if dmAtom w = 1 then 0x20 else if dmAtom w = 2 then 0x01 else 0x02

/-- The elements of a slot's bytes. -/
def elemsOf (esize : Nat) (bs : List Byte) : List Nat := (chunks esize bs.length bs).map leNat

/-- What arrives at a target core: plain bytes, or bank-side ADDs slot by slot (R84, R99). -/
def sendEffect (w : OpWord) (f : UnitFault) (bs : List Byte) (u : Core) : Core :=
  if dmAtom w = 0 then u.land f.voids 0 (dmDst w) bs
  else ((chunks 128 bs.length bs).zipIdx).foldl (fun u x =>
    if f.voids.contains x.2 then u
    else u.addElems (atomCode w) f (dmDst w + 128 * x.2) (elemsOf (codeBits (atomCode w) / 8) x.1)) u

/-- SEND to one target: written, or discarded by the router of a fenced core. A row whose read by an atomic failed at this target is not
written there (R85). -/
def State.sendTo (s : State) (vat : Nat) (w : OpWord) (f : UnitFault) (bs : List Byte) (c : Nat) : State :=
  if s.coreFenced c then (List.range (slotsOf bs.length)).foldl (fun t _ => t.slotDiscarded vat c) s
  else s.onCore c (sendEffect w { f with ue := (f.atUe.filter fun x => decide (x.1 = c)).map (·.2) } bs)

/-- SEND (R99). -/
def State.moverSend (s : State) (c : Nat) (w : OpWord) (f : UnitFault) : State :=
  match s.moverRuns c 0x1A w with
  | none => s
  | some (v, _) =>
    let bs := (s.core c).rd (dmBank w) (dmLength w)
    let t := ((v.sendTargets w).map (corePhys v.place)).foldl (fun t d => t.sendTo v.desc.vatId w f bs d) s
    t.unitFaults v.desc.vatId c f

def execSend (core : Nat) (w : OpWord) (f : UnitFault) (s : State) : Host.Outcome State Fault Refusal :=
  .next (s.moverSend core w f)

/-- COPY (R99): the source is read, then the destination written. -/
def copyEffect (w : OpWord) (u : Core) : Core := u.wr (dmDst w) (u.rd (dmBank w) (dmLength w))

def execMoverCopy (core : Nat) (w : OpWord) (f : UnitFault) (s : State) : Host.Outcome State Fault Refusal :=
  .next (s.unitOp core 0x1B w f (copyEffect w))

/-! ### GETX -/

/-- Index `k` of a GETX. -/
def Core.index (u : Core) (w : OpWord) (k : Nat) : Nat := leNat (u.rd (dmIndexAddr w + 4 * k) 4)

/-- The vat address of row `i`. -/
def rowAddr (w : OpWord) (i : Nat) : Nat := dmVatAddr w + i * dmLength w

/-- The rows of a GETX, zeros where the index is not below `LIMIT` (R100). -/
def State.indexRows (s : State) (v : Vat) (u : Core) (w : OpWord) (far : List Byte) : List (List Byte) :=
  (List.range (dmTarget w)).map fun k =>
    let i := u.index w k
    if i < dmDst w then s.curdBytes v (rowAddr w i) (dmLength w) (far.drop (k * dmLength w)) else zeros (dmLength w)

/-- Indices at or above `LIMIT`. -/
def Core.badIndices (u : Core) (w : OpWord) : List Nat := (List.range (dmTarget w)).filter fun k => decide (dmDst w ≤ u.index w k)

/-- GETX (R99, R100). -/
def State.moverGetx (s : State) (c : Nat) (w : OpWord) (far : List Byte) (f : UnitFault) : State :=
  match s.moverRuns c 0x1C w with
  | none => s
  | some (v, _) =>
    let u := s.core c
    let rows := s.indexRows v u w far
    let bad := u.badIndices w
    let ps := (List.range (dmTarget w)).flatMap fun k =>
      if bad.contains k then [] else s.nearPieces v (rowAddr w (u.index w k)) (dmLength w)
    let t := s.onCore c fun u => rows.zipIdx.foldl (fun u x =>
      u.land f.voids (x.2 * slotsOf (dmLength w)) (dmBank w + x.2 * dmLength w) x.1) u
    let t := ((t.beginReads ps).curdFence v.desc.vatId ps).unitFaults v.desc.vatId c f
    match bad with
    | k :: _ => t.unitError v.desc.vatId ⟨c, t.now, 0, (0x0542, dmIndexAddr w + 4 * k, 0, 0), bad.length⟩ 0
    | [] => t

def execGetx (core : Nat) (w : OpWord) (far : List Byte) (f : UnitFault) (s : State) : Host.Outcome State Fault Refusal :=
  .next (s.moverGetx core w far f)

/-! ### The lane address table: GETL and PUTL (R99, R131, R254) -/

/-- The sub-index q and the offset f of a lane-relative address. -/
def laneQ (w : OpWord) : Nat := bits (dmVatAddr w) 35 16
def laneF (w : OpWord) : Nat := bits (dmVatAddr w) 15 0

/-- The lane numbers of a GETL or PUTL. -/
def laneRange (w : OpWord) : List Nat := (List.range (dmLaneCount w)).map (dmLaneFirst w + ·)

/-- Lane `l` of the step; none for a null lane (R20). -/
def StepRun.lane (r : StepRun) (l : Nat) : Option Lane := r.table.lanes[l]?.bind fun x => if x.session = 0xFFFFFFFF then none else some x

/-- A row of the lane input space (R253 to R255), filled with zeros. -/
def laneRow (v : Vat) (r : StepRun) (x : Lane) (q : Nat) : List Byte :=
  if q = 0xFFFF0 then x.tokens.flatMap (leBytes 4)
  else if q = 0xFFFF1 then posRow x.posBase x.count (r.kind == 4) x.parents
  else maskRow v.params.maxPos x.posBase x.count q (r.kind == 4) x.parents

/-- What lane `x` reaches by a lane reference: pieces of this package's blocks, none where the lane has nothing there. -/
def State.lanePieces (s : State) (v : Vat) (w : OpWord) (x : Lane) : Pieces :=
  let kind := (v.mould.map fun m => (mLaneRef m (dmDst w)).1).getD 0
  let blocks := mapGet [] v.resTable x.resSlot
  if kind = 1 then (blocks[laneQ w]?.map fun b => s.blockPieces v b (laneF w) (dmLength w)).getD []
  else if kind = 2 then
    let k := max 1 v.params.blockPos
    let p := x.posBase + laneQ w
    if laneQ w < x.count ∧ p < v.params.maxPos then
      (blocks[p / k]?.map fun b => s.blockPieces v b (laneF w + p % k * dmLength w) (dmLength w)).getD []
    else []
  else []

/-- What a GETL brings for lane `l`: zeros for a null lane and past the lane's range. -/
def State.laneBytes (s : State) (v : Vat) (r : StepRun) (w : OpWord) (l : Nat) : List Byte :=
  match r.lane l with
  | none => zeros (dmLength w)
  | some x =>
    if (v.mould.map fun m => (mLaneRef m (dmDst w)).1).getD 0 = 3 then fitBytes (dmLength w) ((laneRow v r x (laneQ w)).drop (laneF w))
    else fitBytes (dmLength w) (s.curdRead (s.lanePieces v w x))

/-- The pieces every lane of a GETL or PUTL reaches. -/
def State.allPieces (s : State) (v : Vat) (r : StepRun) (w : OpWord) : Pieces :=
  (laneRange w).flatMap fun l => ((r.lane l).map (s.lanePieces v w)).getD []

/-- GETL. -/
def State.moverGetl (s : State) (c : Nat) (w : OpWord) (f : UnitFault) : State :=
  match s.moverRuns c 0x1D w with
  | none => s
  | some (v, r) =>
    let rows := (laneRange w).map (s.laneBytes v r w)
    let ps := s.allPieces v r w
    let t := s.onCore c fun u => rows.zipIdx.foldl (fun u x =>
      u.land f.voids (x.2 * slotsOf (dmLength w)) (dmBank w + x.2 * dmLength w) x.1) u
    ((t.beginReads ps).curdFence v.desc.vatId ps).unitFaults v.desc.vatId c f

def execGetl (core : Nat) (w : OpWord) (f : UnitFault) (s : State) : Host.Outcome State Fault Refusal :=
  .next (s.moverGetl core w f)

/-- PUTL: each lane's row, nothing for a null lane or past the lane's range. The rows lie past the session's length until the commit of
R240 counts them. -/
def State.moverPutl (s : State) (c : Nat) (w : OpWord) (f : UnitFault) : State :=
  match s.moverRuns c 0x1E w with
  | none => s
  | some (v, r) =>
    let u := s.core c
    let t := (laneRange w).zipIdx.foldl (fun t x =>
      match r.lane x.1 with
      | none => t
      | some y => t.store (s.lanePieces v w y) f.voids (x.2 * slotsOf (dmLength w)) (u.rd (dmBank w + x.2 * dmLength w) (dmLength w))) s
    (t.curdFence v.desc.vatId (s.allPieces v r w)).unitFaults v.desc.vatId c f

def execPutl (core : Nat) (w : OpWord) (f : UnitFault) (s : State) : Host.Outcome State Fault Refusal :=
  .next (s.moverPutl core w f)

/-! ### Curd reads of HBM (R210, R212) -/

/-- The vat whose step reads a stack. -/
def State.stackVat (s : State) (q : Nat) : Option Nat :=
  (s.vats.find? fun v => v.2.place.stackSet.contains q && v.2.step.isSome).map (·.1)

/-- CURD_HBM_READ_READY: the read that has been under way two Ticks delivers its data, with what its ECC found. -/
def State.readReady (s : State) (dpa : Nat) (ecc : Ecc) : State :=
  match s.mem.curd.find? fun e => decide (e.1 = dpa ∧ e.2 + 2 ≤ s.now) with
  | none => s
  | some e =>
    let t := s.onMem fun m => { m with curd := m.curd.erase e }
    match ecc with
    | .clean => t
    | .corrected => t.memCorrected dpa
    | .uncorrectable => match t.stackVat (dpa / 2 ^ 36) with
      | some v => t.curdError v dpa
      | none => t.memUncorrectable dpa

def execCurdHbmReadReady (dpa : Nat) (ecc : Ecc) (s : State) : Host.Outcome State Fault Refusal :=
  .next (s.readReady dpa ecc)

end Sys2Proof.Machine
end

