-- ==== Sys2Proof/Machine/Fabric.lean ====
section
/-! DEFINITION. The static fabric and whey traffic: router slots (R122, R155, R156, R162, R163), whey packets (R160, R161), remote
windows (R194, R195, R202) and whey multicast (R193). -/

namespace Sys2Proof.Machine
open Sys2Proof

/-- The far end of a router port (R154, R155, R475). -/
def State.farEnd (s : State) (r k : Nat) : Option (Nat × Nat) := portFar s.spareAt r k

/-! ### Curd slots (R122, R156, R162, R163) -/

/-- A step in progress on the package whose tables move a slot of this router so in this Tick (R122): the vat. -/
def State.moveDue (s : State) (router inPort outMask : Nat) : Option Nat :=
  (s.vats.find? fun v =>
    match v.2.mould, v.2.step with
    | some m, some run =>
      let p := mPkg m v.2.lpkg
      let u := max 1 (stepU m run.table.stepId)
      (mRouters m v.2.lpkg).any fun r => decide (physRouter v.2.place p r = router) &&
        (mRouterTable m v.2.lpkg r (routerSpare v.2.place p r) false run.table.stepId).any fun e =>
          decide (e.inPort = inPort ∧ e.outs = outMask) &&
            (List.range e.count).any fun i => decide ((e.start + i * e.period) / u = s.now - run.table.start)
    | _, _ => false).map (·.1)

/-- The void slot a fenced core, or a router that has failed, sends (R396, R411). -/
def fencedVoid (n : Nat) : Slot := ⟨leBytes 2 0xFFFF ++ leBytes 2 n ++ zeros 124, true⟩

/-- The slot at the head of a landing queue as it leaves: a void in place of one that a fenced core owes or a failed router names. -/
def State.slotOut (s : State) (router inPort : Nat) : Option Slot :=
  if (s.router router).faulted then some (fencedVoid router)
  else if router < 1024 ∧ inPort < 2 ∧ s.coreFenced router then some (fencedVoid router)
  else (mapGet [] (s.router router).landing inPort).head?

/-- The die of a router. -/
def routerDie (r : Nat) : Nat := r / 256 % 4

/-- A slot reaches an endpoint: a fenced core's router discards it, a void writes nothing, and its ECC is counted (R162, R163). -/
def State.slotLands (s : State) (vat router port : Nat) (x : Slot) (ecc : Ecc) : State :=
  let core := decide (router < 1024 ∧ port < 2)
  if core && s.coreFenced router then s.slotDiscarded vat router
  else if x.void then
    let t := (s.onTick fun k => { k with voids := sat32 k.voids 1 }).note (0x28 + routerDie router) "VOID_ARRIVAL" (s.atRouter router)
    (t.degradeStep vat).onVat vat fun v => { v with step := v.step.map fun r => { r with voids := r.voids + 1 } }
  else match ecc with
    | .clean => s
    | .corrected => s.onTick fun k => { k with fabCe := sat32 k.fabCe 1 }
    | .uncorrectable => (s.onTick fun k => { k with fabUe := sat32 k.fabUe 1 }).failStep vat
        ⟨0x0550, s.now, s.source (0x28 + routerDie router), 0⟩

/-- The link port behind ports 0 and 1 of a link router (R154). -/
def linkEnd (router port : Nat) : Option Nat :=
  let i := router % 256
  if 1024 ≤ router ∧ 0xA4 ≤ i ∧ i < 0xAE ∧ port < 2 then some (2 * (router / 256 % 4) + (i - 0xA4) / 5) else none

/-- A router port leads over an inter-half bridge that is not in service (R154, R353): it passes no slot. -/
def State.bridgeCut (s : State) (r k : Nat) : Bool :=
  decide (1024 ≤ r ∧ 0xB6 ≤ r % 256 ∧ r % 256 < 0xBE ∧ k < 4) && !s.bridgesUp.contains (r / 256 % 2)

/-- A slot leaves by one port: to the far router's landing queue, to a link port, where it waits for its transmit Tick (R174), or to the
endpoint. One scheduled over an inter-half bridge out of service is lost there, and nothing comes in its place (DESIGN CHOICE, log entry
121). -/
def State.slotBy (s : State) (vat router : Nat) (x : Slot) (ecc : Ecc) (port : Nat) : State :=
  if s.bridgeCut router port then s else
  match s.farEnd router port with
  | some (r, k) => s.onRouter r fun u => { u with landing := mapPut u.landing k (mapGet [] u.landing k ++ [x]) }
  | none => match linkEnd router port with
    | some k => s.onPort k fun p =>
        { p with txq := mapPut p.txq (txKey (router % 256 - 0xA4) port) (mapGet [] p.txq (txKey (router % 256 - 0xA4) port) ++ [x]) }
    | none => s.slotLands vat router port x ecc

/-- ROUTER_SLOT_MOVE. -/
def State.slotMove (s : State) (router inPort outMask : Nat) (ecc : Ecc) : State :=
  match s.moveDue router inPort outMask, s.slotOut router inPort with
  | some vat, some x =>
    let t := s.onRouter router fun u =>
      { u with landing := mapSet [] u.landing inPort ((mapGet [] u.landing inPort).drop 1) }
    (portBits outMask).foldl (fun t k => t.slotBy vat router x ecc k) t
  | _, _ => s

def execRouterSlotMove (router inPort outMask : Nat) (ecc : Ecc) (s : State) : Host.Outcome State Fault Refusal :=
  .next (s.slotMove router inPort outMask ecc)

/-! ### Whey packets (R160, R161) -/

/-- A router number that R154 lists. -/
def routerListed (r : Nat) : Bool :=
  let i := r % 256
  if r < 1024 then decide (r % 32 < 17)
  else decide (r < 2048 ∧ (i < 0x42 ∨ (0x48 ≤ i ∧ i ≠ 0xBF) ∨ (i = 0xBF ∧ r / 256 % 2 = 0)))

/-- A whey header holds no reserved value (R154, R160). -/
def wheyOk (p : WheyPacket) : Bool :=
  decide (p.format = 0x1000 ∧ 1 ≤ p.kind ∧ p.kind ≤ 7 ∧ p.dataSlots ≤ 2 ∧ p.cls < 8 ∧ p.dest < 2 ^ 14 ∧ p.src < 2 ^ 14 ∧
    p.vat < 4096 ∧ p.rsv = false) && routerListed (p.dest / 8) && routerListed (p.src / 8)

/-- A whey packet is dropped for its header (R160). -/
def State.wheyDrop (s : State) : State := s.onTick fun k => { k with discards := sat32 k.discards 1 }

/-- The requester of a packet: where a response is bound for, where a request comes from (R160). -/
def wheyRequester (p : WheyPacket) : Nat := if p.kind = 0x02 ∨ p.kind = 0x04 then p.dest else p.src

/-- A whey packet with an uncorrectable granule is dropped and counted, as an error and as a dropped packet; its requester receives an error
(R163, R164). -/
def State.wheyBad (s : State) (p : WheyPacket) : State :=
  (s.onTick fun k => { k with fabUe := sat32 k.fabUe 1, discards := sat32 k.discards 1 }).send "WHEY_ERROR" (wheyRequester p) [0x0550, p.tag] []

/-- What becomes of a packet at a router or unit: dropped for its header or its ECC, or taken. -/
def State.wheyTake (s : State) (p : WheyPacket) (ecc : Ecc) (f : State → State) : State :=
  if !wheyOk p then s.wheyDrop
  else match ecc with
    | .clean => f s
    | .corrected => f (s.onTick fun k => { k with fabCe := sat32 k.fabCe 1 })
    | .uncorrectable => s.wheyBad p

/-- The output port a packet leaves a router by: its destination's port at the destination (R160, R161). -/
def wheyPort (router : Nat) (p : WheyPacket) : Nat :=
  if p.dest / 8 = router then p.dest % 8 else Config.wheyRoute router (p.dest / 8) % 8

/-- The input port whose turn it is at an output port (R161). -/
def Router.turnOf (u : Router) (router out : Nat) : Option Nat :=
  let last := mapGet 7 u.turn out
  ((List.range 8).map fun i => (last + 1 + i) % 8).find? fun i =>
    match (mapGet [] u.whey i).head? with
    | some p => decide (wheyPort router p = out)
    | none => false

/-- The bytes of a whey packet's slots (R160). -/
def wheyBytes (p : WheyPacket) : List Byte :=
  fitBytes (128 + 128 * p.dataSlots) (leBytes 2 p.format ++ leBytes 1 p.kind ++ leBytes 1 (64 * p.dataSlots + p.cls) ++ leBytes 2 p.dest ++
    leBytes 2 p.src ++ leBytes 2 p.tag ++ leBytes 2 p.vat ++ leBytes 4 p.arg ++ leBytes 8 p.addr ++ zeros 8 ++ p.data)

/-- The flits a packet crosses a link as (R170, R176): one with at most one data slot, else two. -/
def packetFlits (own dst : Nat) (p : WheyPacket) : List Flit :=
  let fl (sub : Nat) (b : List Byte) : Flit :=
    ⟨0x1000, 2, 0, p.cls, sub, own, dst, p.vat + 2 ^ 16 * p.tag, 0, 0, fitBytes 256 b, false⟩
  let b := wheyBytes p
  if p.dataSlots ≤ 1 then [fl 3 b] else [fl 2 (b.take 256), fl 1 (b.drop 256)]

/-- The control complex behind ports 2 and 3 of its router 0xBF is Lost (R154, R349). -/
def State.deadComplex (s : State) (p : WheyPacket) : Bool :=
  let r := p.dest / 8
  decide (1024 ≤ r ∧ r % 256 = 0xBF ∧ (p.dest % 8 = 2 ∨ p.dest % 8 = 3)) && decide ((s.cplx (r / 512 % 2)).state = .lost)

/-- A packet is at its destination: a link, which takes it to another node, or a unit of this package. A request to a Lost complex is
answered with 0x0730 (R349). -/
def State.wheyDeliver (s : State) (p : WheyPacket) : State :=
  if s.deadComplex p then
    (if p.kind = 0x02 ∨ p.kind = 0x04 then s else s.send "WHEY_ERROR" p.src [0x0730, p.tag] []) else
  match linkEnd (p.dest / 8) (p.dest % 8) with
  | some _ => s.wheyOwn (packetFlits s.links.node (Config.wheyNode p.dest p.src p.tag % 10240) p)
  | none => s.send "WHEY_DELIVERED" p.dest [p.kind, p.src, p.tag, p.vat, p.arg, p.addr] p.data

/-- The packet at the head of an input leaves: onward where the next input has room for it, or delivered at its destination; packets that
wait for room may then move (R161, R176). -/
def State.wheyForward (s : State) (router inPort : Nat) (ecc : Ecc) : State :=
  let u := s.router router
  match (mapGet [] u.whey inPort).head? with
  | none => s
  | some p =>
    let pop := fun (t : State) => t.onRouter router fun u => { u with
      whey := mapSet [] u.whey inPort ((mapGet [] u.whey inPort).drop 1), turn := mapSet 7 u.turn (wheyPort router p) inPort }
    if !wheyOk p then (pop s).wheyDrop else
    let out := wheyPort router p
    if u.turnOf router out ≠ some inPort ∨ (p.dest / 8 ≠ router ∧ s.bridgeCut router out) then s else
    let far := if p.dest / 8 = router then none else s.farEnd router out
    match far with
    | some (r, k) =>
      if 2 ≤ (mapGet [] (s.router r).whey k).length then s
      else (pop s).wheyTake p ecc fun t => t.onRouter r fun u => { u with whey := mapPut u.whey k (mapGet [] u.whey k ++ [p]) }
    | none => (pop s).wheyTake p ecc fun t => t.wheyDeliver p

def execWheyPacketForward (router inPort : Nat) (ecc : Ecc) (s : State) : Host.Outcome State Fault Refusal :=
  .next (s.wheyForward router inPort ecc).wheyMove

/-- The fence a device-physical address lies behind: its HBM stack, or its CXL port. -/
def State.dpaFenced (s : State) (a : Nat) : Bool :=
  if a < 2 ^ 40 then s.fenced 5 (a / 2 ^ 36)
  else if 2 ^ 48 ≤ a ∧ a < 2 ^ 49 then
    match s.extentAt ((a - 2 ^ 48) / frameBytes) with
    | some x => s.fenced 6 x.port
    | none => false
  else false

/-- The slot a whey access of a vat uses (R215): the data key of the vat its header names, else slot 0, the device memory key
(DEDUCED, log entry 37). -/
def State.wheySlot (s : State) (vat : Nat) : Nat := (s.vatSlot vat 5).getD 0

/-- The bytes a read asks for: `ARG` [31:16], as R195 has it for windows (DEDUCED, log entry 37). -/
def wheyLen (p : WheyPacket) : Nat := p.arg / 2 ^ 16

/-- The extents a range of cave addresses lies in let it through (R219); a range elsewhere needs none. -/
def State.caveRange (s : State) (a len : Nat) : Nat :=
  if 2 ^ 48 ≤ a ∧ a < 2 ^ 49 ∧ 0 < len then
    s.caveStatus ((a - 2 ^ 48) / frameBytes) ((a + len - 1 - 2 ^ 48) / frameBytes + 1 - (a - 2 ^ 48) / frameBytes)
  else 0

/-- An access of device memory by a whey packet: the status of its address, its fence, its cave extents or its ECC (R219). -/
def State.wheyStatus (s : State) (a len : Nat) (ecc : Ecc) : Nat :=
  if (dpaSpace a).isNone then 0x0312
  else if s.dpaFenced a then 0x0730
  else if s.caveRange a (max 1 len) ≠ 0 then s.caveRange a (max 1 len)
  else if ecc = .uncorrectable then memStatus a else 0

/-- The target memory answers a read with data or a status; what its ECC found is counted (R163, R204, R212). -/
def State.wheyRead (s : State) (p : WheyPacket) (ecc : Ecc) : State :=
  if !wheyOk p ∨ p.kind ≠ 0x01 then s.wheyDrop else
  let st := s.wheyStatus p.addr (wheyLen p) ecc
  let moves := decide (st = 0 ∨ st = memStatus p.addr ∧ ecc = .uncorrectable)
  let t := if !moves then s
    else match ecc with
      | .clean => s
      | .corrected => s.memCorrected p.addr
      | .uncorrectable => s.memUncorrectable p.addr
  t.send "WHEY" p.src [0x02, p.tag, p.vat, st]
    (if !moves then [] else s.dpaRead (s.slotKey (s.wheySlot p.vat)) p.addr (wheyLen p))

/-- The arbiter a packet meets at the memory it is bound for: an HBM channel or a CXL port; a slice has none (R325). -/
def wheyArb (write : Bool) (a : Nat) : Option Nat :=
  match dpaSpace a with
  | some (.hbm q o) => some (q * 32 + o / 256 % 32)
  | some (.cave c) => some (512 + 2 * (c / 2 ^ 42) + b2n write)
  | _ => none

/-- A packet arrives at its target memory: it queues at the arbiter there, and acts at once where there is none (R325). -/
def State.wheyArrive (s : State) (write : Bool) (p : WheyPacket) (ecc : Ecc) (f : State → State) : State :=
  match wheyArb write p.addr with
  | some a => s.onQos fun q => q.enter s.now a p.cls 1 (.packet p ecc)
  | none => f s

/-- WHEY_READ_REQUEST (R160); one to a Lost complex is answered with 0x0730 (R349). -/
def execWheyReadRequest (p : WheyPacket) (ecc : Ecc) (s : State) : Host.Outcome State Fault Refusal :=
  .next (if !wheyOk p ∨ p.kind ≠ 0x01 then s.wheyDrop
    else if s.deadComplex p then s.send "WHEY" p.src [0x02, p.tag, p.vat, 0x0730] []
    else s.wheyArrive false p ecc fun t => t.wheyRead p ecc)

/-- WHEY_READ_DATA: the data reaches its requester. -/
def execWheyReadData (p : WheyPacket) (ecc : Ecc) (s : State) : Host.Outcome State Fault Refusal :=
  .next (if p.kind ≠ 0x02 then s.wheyDrop else
    s.wheyTake p ecc fun t => t.send "WHEY_DELIVERED" p.dest [p.kind, p.src, p.tag, p.vat, p.arg, p.addr] p.data)

/-- The target memory takes the bytes of the data slots and acknowledges with a status. -/
def State.wheyWrite (s : State) (p : WheyPacket) : State :=
  let bs := (p.data.drop 96).take (128 * p.dataSlots)
  let st := s.wheyStatus p.addr bs.length .clean
  let t := if st = 0 then s.dpaWrite (s.slotKey (s.wheySlot p.vat)) p.addr bs else s
  t.send "WHEY" p.src [0x04, p.tag, p.vat, st] []

/-- WHEY_WRITE (R160); one to a Lost complex is answered with 0x0730 (R349). -/
def execWheyWrite (p : WheyPacket) (ecc : Ecc) (s : State) : Host.Outcome State Fault Refusal :=
  .next (if p.kind ≠ 0x03 then s.wheyDrop else s.wheyTake p ecc fun t =>
    if t.deadComplex p then t.send "WHEY" p.src [0x04, p.tag, p.vat, 0x0730] [] else t.wheyArrive true p ecc fun u => u.wheyWrite p)

/-- WHEY_WRITE_ACK: the acknowledgement reaches its requester. -/
def execWheyWriteAck (p : WheyPacket) (ecc : Ecc) (s : State) : Host.Outcome State Fault Refusal :=
  .next (if p.kind ≠ 0x04 then s.wheyDrop else
    s.wheyTake p ecc fun t => t.send "WHEY_DELIVERED" p.dest [p.kind, p.src, p.tag, p.vat, p.arg, p.addr] [])

/-! ### Remote windows (R194, R195, R202, R367) -/

/-- WIN_COMMIT. -/
def State.regWinCommit (s : State) (window value : Nat) : State :=
  if window < 256 ∧ bit value 0 then
    s.onLinks fun l => { l with winAct := mapSet Window.zero l.winAct window (mapGet Window.zero l.winShad window) } else s

/-- WIN_COMMIT, which the host reaches once the package is Ready (R441). -/
def execWinCommit (window value : Nat) (s : State) : Host.Outcome State Fault Refusal :=
  .next (if s.barOpen 0 then s.regWinCommit window value else s)

def State.window (s : State) (w : Nat) : Window := mapGet Window.zero s.links.winAct w

/-- A window's range lies within one stack's valid HBM or within cave space (R202). -/
def Window.placed (w : Window) : Bool := inHbm w.base w.size || decide (2 ^ 48 ≤ w.base ∧ w.base + w.size ≤ 2 ^ 48 + 2 ^ 44)

/-- The checks of R195 in order, then those of R202, R367, R396 and R219 on the range. -/
def State.windowStatus (s : State) (src vat n off len : Nat) (write : Bool) : Nat :=
  let w := s.window n
  if !w.valid then 0x0310
  else if w.vat ≠ vat ∨ src < w.lo ∨ w.hi < src ∨ !bit w.perm (b2n write) then 0x0311
  else if w.size < off + len ∨ !w.placed then 0x0312
  else match s.vatSlot vat 5 with
    | none => 0x0821
    | some k =>
      if !(s.slot k).usable then 0x0821
      else if len = 0 then 0
      else if s.dpaFenced (w.base + off) then 0x0730
      else s.caveRange (w.base + off) len

/-- Answer a requester; a refusal is counted, an answer that its next port does not take is dropped (R177). -/
def State.windowAnswer (s : State) (src tag st : Nat) (bs : List Byte) : State :=
  let t := if st = 0 then s else s.onLinks fun l => { l with denies := sat32 l.denies 1 }
  t.sendWhey 0 "WINDOW_ANSWER" src [tag, st] bs

/-- Write a range of a window, its base given, under the vat's data key. -/
def State.windowWrite (s : State) (vat base off : Nat) (bs : List Byte) : State :=
  s.dpaWrite (s.vatKey vat false) (base + off) bs

/-! ### Whey multicast at a target (R193) -/

/-- Pool flits a length takes, and those reserved. -/
def mcFlits (len : Nat) : Nat := ceilDiv len 256
def State.mcHeld (s : State) : Nat := ((s.links.mcIn.filter (·.granted)).map fun m => mcFlits m.len).sum

/-- Grant the requests that wait, in arrival order, while the pool has room. -/
def State.mcGrants (s : State) : Nat → State
  | 0 => s
  | n + 1 =>
    match s.links.mcIn.find? fun m => !m.granted with
    | none => s
    | some m =>
      if 2048 < s.mcHeld + mcFlits m.len then s
      else ((s.onLinks fun l => { l with mcIn := l.mcIn.map fun x => if x = m then { x with granted := true } else x }).mcMsg
        m.src 0x11 m.vat 0 m.tag m.src []).mcGrants n

/-- Let the pool's waiting requests move on. -/
def State.mcPool (s : State) : State := s.mcGrants s.links.mcIn.length

/-- MC_RESERVE: the checks of R195 on the whole range, then room in the pool. -/
def State.mcReserve (s : State) (src vat tag len window off : Nat) : State :=
  let st := s.windowStatus src vat window off len true
  if st ≠ 0 then s.mcMsg src 0x11 vat st tag src []
  else (s.onLinks fun l => { l with
    mcIn := l.mcIn ++ [⟨src, tag, vat, len, window, off, false, [], (s.window window).base⟩] }).mcPool

def execMcReserve (srcNode : Headed) (vat tag len window offset : Nat) (s : State) : Host.Outcome State Fault Refusal :=
  .next (if !srcNode.ok then s else if 1 ≤ len ∧ len ≤ 65536 ∧ !(s.links.mcIn.any fun m => decide (m.src = srcNode.val ∧ m.tag = tag)) then
    s.mcReserve srcNode.val vat tag len window offset else s)

/-- The granted multicast a write belongs to. -/
def State.mcOf (s : State) (src tag : Nat) : Option McTarget :=
  s.links.mcIn.find? fun m => decide (m.src = src ∧ m.tag = tag) && m.granted

/-- The bytes of a copy that have arrived, in order of offset. -/
def McTarget.covered (m : McTarget) : Nat := ((List.range m.len).filter fun i =>
  m.data.any fun d => decide (d.1 ≤ m.off + i ∧ m.off + i < d.1 + d.2.length)).length

/-- Data of a multicast is held in the pool; the complete copy is acknowledged. -/
def State.mcData (s : State) (m : McTarget) (off : Nat) (bs : List Byte) : State :=
  let m' := { m with data := m.data ++ [(off, bs)] }
  let t := s.onLinks fun l => { l with mcIn := l.mcIn.map fun x => if x = m then m' else x }
  if m.covered ≠ m.len ∧ m'.covered = m.len then t.mcMsg m.src 0x12 m.vat 0 m.tag m.src []
  else t

/-- MC_COMMIT: the complete copy is written; the reservation ends. -/
def State.mcCommit (s : State) (src tag : Nat) : State :=
  match s.mcOf src tag with
  | none => s
  | some m =>
    if m.covered ≠ m.len then s else
    let t := m.data.foldl (fun t d => t.windowWrite m.vat m.base d.1 d.2) s
    (t.onLinks fun l => { l with mcIn := l.mcIn.filter fun x => decide (x ≠ m) }).mcPool

def execMcCommit (srcNode : Headed) (tag : Nat) (s : State) : Host.Outcome State Fault Refusal := .next (if !srcNode.ok then s else s.mcCommit srcNode.val tag)

/-- MC_CANCEL: the copy and the reservation go. -/
def execMcCancel (srcNode : Headed) (tag _status : Nat) (s : State) : Host.Outcome State Fault Refusal :=
  .next (if !srcNode.ok then s else
    (s.onLinks fun l => { l with mcIn := l.mcIn.filter fun m => !decide (m.src = srcNode.val ∧ m.tag = tag) }).mcPool)

/-! ### Whey multicast at its source (R193) -/

/-- What a source may begin (R193, R289): 1 to 64 targets, 1 byte to 64 KiB, a tag not in use nor ended in the last 2,048 Ticks. -/
def State.mcMay (s : State) (m : McSource) : Bool :=
  decide (1 ≤ m.targets.length ∧ m.targets.length ≤ 64 ∧ 1 ≤ m.data.length ∧ m.data.length ≤ 65536) &&
    !(s.links.mcOut.any fun x => decide (x.tag = m.tag)) && (mapFind s.links.mcTags m.tag).all fun x => decide (x + 2048 ≤ s.now)

/-- A multicast begins at its source: RESERVE goes to every target. No command and no rule of the spec starts one (log entry 110). -/
def State.mcStart (s : State) (m : McSource) : State :=
  if !s.mcMay m then s else
  m.targets.foldl (fun t n => t.mcMsg n 0x10 m.vat m.data.length m.tag s.links.node (leBytes 1 m.window ++ zeros 3 ++ leBytes 8 m.off))
    (s.onLinks fun l => { l with mcOut := l.mcOut ++ [{ m with grants := [], acks := [], first := s.now, sent := false }] })

/-- The data of a multicast leaves for a target as remote-window writes of two data slots at most, tagged with its number (R193, R195, R289). -/
def State.mcSend (s : State) (node : Nat) (m : McSource) : State :=
  (List.range (mcFlits m.data.length)).foldl (fun t i =>
    t.send "WINDOW_WRITE" node [m.vat, m.tag, m.window, m.off + 256 * i] ((m.data.drop (256 * i)).take 256)) s

/-- MC_GRANT: a refusal cancels; once every target has granted the data leaves, or a target its next port does not reach ends it (R177). -/
def State.mcGrant (s : State) (target tag status : Nat) : State :=
  match s.links.mcOut.find? fun m => decide (m.tag = tag) && m.targets.contains target with
  | none => s
  | some m =>
    if status ≠ 0 then s.mcEnd m status
    else if m.targets.any fun n => s.wheyBlocked n 0 then s.mcEnd m 0x0701
    else
      let m' := { m with grants := (m.grants ++ [target]).eraseDups }
      let all := m'.targets.all fun x => m'.grants.contains x
      let t := s.onLinks fun l => { l with mcOut := l.mcOut.map fun x => if x = m then { m' with sent := m.sent || all } else x }
      if all && !m.sent then m.targets.foldl (fun t n => t.mcSend n m) t else t

def execMcGrant (target : Headed) (tag status : Nat) (s : State) : Host.Outcome State Fault Refusal := .next (if !target.ok then s else s.mcGrant target.val tag status)

/-- MC_ACK: once every target has its complete copy, COMMIT goes out and the operation completes. -/
def State.mcAck (s : State) (target tag : Nat) : State :=
  match s.links.mcOut.find? fun m => decide (m.tag = tag) && m.targets.contains target && m.sent with
  | none => s
  | some m =>
    let m' := { m with acks := (m.acks ++ [target]).eraseDups }
    if m'.targets.all fun x => m'.acks.contains x then
      let t := s.mcDrop m
      (m.targets.foldl (fun t n => t.mcMsg n 0x13 m.vat 0 m.tag s.links.node []) t).send
        "MC_END" s.links.node [m.tag, 0] []
    else s.onLinks fun l => { l with mcOut := l.mcOut.map fun x => if x = m then m' else x }

def execMcAck (target : Headed) (tag : Nat) (s : State) : Host.Outcome State Fault Refusal := .next (if !target.ok then s else s.mcAck target.val tag)

/-- MULTICAST_STALL: 1,024 Ticks after the first RESERVE without every grant and acknowledgement. -/
def State.mcStall (s : State) (tag : Nat) : State :=
  match s.links.mcOut.find? fun m => decide (m.tag = tag ∧ m.first + 1024 ≤ s.now) with
  | none => s
  | some m => ((s.onLinks fun l => { l with stalls := sat32 l.stalls 1 }).note s.ccSource "MULTICAST_STALL" tag).mcEnd m 0x0702

def execMulticastStall (tag : Nat) (s : State) : Host.Outcome State Fault Refusal := .next (s.mcStall tag)

/-! ### REMOTE_WINDOW_ACCESS -/

/-- The offset and the length of an access: a write's data slots, a read's `ARG` [31:16]. -/
def accessLen (write : Bool) (p : WheyPacket) : Nat := if write then 128 * p.dataSlots else p.arg / 2 ^ 16

/-- A remote-window access whose bursts have been granted moves its bytes (R195): a read that meets an uncorrectable error answers its
status and the bytes as stored (R212), one that meets poison or a lost extent its status alone (R219). -/
def State.windowServe (s : State) (src vat tag dpa len : Nat) (data : Option (List Byte)) (bad : ReadErrs) : State :=
  let gone := if s.dpaFenced dpa then 0x0730 else s.caveRange dpa len
  if gone ≠ 0 then s.windowAnswer src tag gone [] else
  match data with
  | some bs => (s.windowWrite vat dpa 0 bs).windowAnswer src tag 0 []
  | none =>
    let ps : Pieces := [(dpa, len, 0)]
    let st := readStatus bad ps
    (s.readsMet bad ps).windowAnswer src tag st (if st = 0x0562 then [] else s.dpaRead (s.vatKey vat false) dpa len)

/-- A range of device memory is asked for at the arbiters in its way, under a number that tells the access from others (R325). -/
def State.windowAsk (s : State) (cls src vat tag dpa len : Nat) (data : Option (List Byte)) (bad : ReadErrs) : State :=
  s.onQos fun q => (pieceBursts data.isSome dpa len).foldl (fun u b =>
    u.enter s.now b.1 cls b.2 (.window q.streams src vat tag dpa len data bad)) q

/-- REMOTE_WINDOW_ACCESS: checked, then queued at the arbiters of its range, or served where none is in the way; a write of a granted
multicast, whose whole range was checked when it was admitted, waits in the pool. -/
def State.windowAccess (s : State) (src : Nat) (write : Bool) (p : WheyPacket) (bad : ReadErrs) : State :=
  let n := p.arg % 256
  let len := accessLen write p
  let st := s.windowStatus src p.vat n p.addr len write
  let bs := (p.data.drop 96).take len
  match (s.mcOf src p.tag).filter fun m => write && decide (m.off ≤ p.addr ∧ p.addr + len ≤ m.off + m.len) with
  | some m => s.mcData m p.addr bs
  | none =>
    if st ≠ 0 then s.windowAnswer src p.tag st []
    else
      let a := (s.window n).base + p.addr
      let d := if write then some bs else none
      if pieceBursts write a len = [] then s.windowServe src p.vat p.tag a len d bad else s.windowAsk p.cls src p.vat p.tag a len d bad

def execRemoteWindowAccess (srcNode : Asker) (write : Bool) (p : WheyPacket) (s : State) : Host.Outcome State Fault Refusal :=
  .next (if !wheyOk p ∨ p.kind ≠ 0x07 then s.wheyDrop else s.windowAccess srcNode.node write p srcNode.bad)

end Sys2Proof.Machine
end

