-- ==== Sys2Proof/Machine/Sharing.lean ====
section
/-! DEFINITION. Whey arbiters at work (R325 to R328, R334), the wait limit (R331), the commits of the QOS block (R323, R328 to R330,
R333, R335 to R338). -/

namespace Sys2Proof.Machine
open Sys2Proof

/-! ### Arbiters -/

def State.arb (s : State) (a : Nat) : Arbiter := mapGet Arbiter.empty s.qos.arbs a

/-! ### Refresh windows (R152, R153) -/

/-- The default cadence: period, length, phase. -/
def defaultCadence : Nat × Nat × Nat := (16, 2, 0)

/-- The cadence a channel follows. -/
def State.cadence (s : State) (stack channel : Nat) : Nat × Nat × Nat := mapGet defaultCadence s.mem.refresh (stack * 32 + channel)

/-- A Tick lies in a window of a cadence. -/
def inWindow (c : Nat × Nat × Nat) (t : Nat) : Bool := decide ((t + c.1 - c.2.2) % max 1 c.1 < c.2.1)

/-- The channel of an arbiter is in its refresh window: whey requests wait it out (R153). -/
def State.arbRefreshes (s : State) (a : Nat) : Bool := decide (a < 512) && inWindow (s.cadence (a / 32) (a % 32)) s.now

/-- The domain behind an arbiter is fenced: it decides nothing (R396). -/
def State.arbFenced (s : State) (a : Nat) : Bool :=
  if a < 512 then s.fenced 5 (a / 32) else if a < 520 then s.fenced 6 ((a - 512) / 2) else s.hostDown

/-- The holder of a revoked grant is counted for its context, but not for a confidential one (R327, R334). -/
def State.preempt (s : State) (r : ArbReq) : State :=
  match r.ref with
  | some k => s.onCtx k.ctx fun x => if x.conf then x else { x with preempts := sat32 x.preempts 1 }
  | none => s

/-- A granted burst of 256 bytes is activity of its context (R431): three whey slots, a header and two of data, and at a channel four
64-byte accesses of HBM (DEDUCED, log entry 119). -/
def State.wheyActivity (s : State) (a : Nat) (r : ArbReq) : State :=
  match r.ref with
  | some k => s.wheyUse k.ctx 3 (if a < 512 then 4 else 0)
  | none => s

/-- What the grant of a burst brings: a packet acts at its memory, a window access with its last burst, a walk reads its next level, a page
command is answered where nothing of it is left. -/
def State.workActs (s : State) (w : ArbWork) : State :=
  match w with
  | .packet p e => if p.kind = 0x01 then s.wheyRead p e else s.wheyWrite p
  | .window _ src vat tag dpa len d bad => if s.qos.leftOf (fun x => decide (x = w)) = 0 then s.windowServe src vat tag dpa len d bad else s
  | .walk r o p l => if l = 0 then s else s.walkAsk r o p (l - 1)
  | .page v i _ => s.jobDone v i
  | .keep v i => s.jobDone v i
  | .command _ => s
  | .output _ => s
  | .traffic => s

/-- One decision of an arbiter (R326, R327). -/
def State.arbDecide (s : State) (a : Nat) : State :=
  let x := s.arb a
  match x.decide? s.qos.active.prio with
  | none => s
  | some r =>
    let t := match x.revoked r with
      | some h => s.preempt h
      | none => s
    let t := t.onQos fun q => { q with
      arbs := mapSet Arbiter.empty q.arbs a (x.grant a q.active.prio q.active.bursts r) }
    ((t.wheyActivity a r).workActs r.work).onQos fun q => q.release s.partOf s.now

/-- ARBITER_DECISION (R325, R326, R327); a channel in its refresh window grants nothing (R153). -/
def execArbiterDecision (a : Nat) (s : State) : Host.Outcome State Fault Refusal :=
  .next (if a < 522 ∧ !s.arbFenced a ∧ !s.arbRefreshes a then s.arbDecide a else s)

/-- The local source of an arbiter (R144, R331). -/
def arbSource (a : Nat) : Nat := if a < 512 then 0x10 + a / 32 else if a < 520 then 0x20 + (a - 512) / 2 else 0x24

/-- The arrival Tick of burst `i` of a request at its arbiter. -/
def burstTick : List (Nat × Nat) → Nat → Option Nat
  | [], _ => none
  | (t, n) :: l, i => if i < n then some t else burstTick l (i - n)

/-- The first burst of a request that its wait limit has not been counted for is past it. -/
def ArbReq.pastLimit (r : ArbReq) (now limit : Nat) : Bool :=
  (burstTick r.here r.late).any fun t => decide (limit ≠ 0 ∧ t + limit < now)

/-- WAIT_LIMIT_MISS (R331): a burst of a class has waited at an arbiter beyond its limit. -/
def execWaitLimitMiss (a cls : Nat) (s : State) : Host.Outcome State Fault Refusal :=
  .next (
    match (s.arb a).queue.find? fun r => decide (r.cls = cls) && r.pastLimit s.now (nth 0 s.qos.active.waitLimit cls) with
    | none => s
    | some r =>
      (s.onQos fun q => { q with arbs := mapModify q.arbs a fun x => { x with
        queue := x.queue.map fun y => if y.stream = r.stream then { y with late := y.late + 1 } else y } }).missGuarantee false
        (arbSource a) a)

/-! ### QOS_COMMIT -/

/-- The thresholds a commit puts in force for a kind; a pair with `CONG_LO` not below `CONG_HI` keeps its old values (R329). -/
def congBad (c : QosCfg) (k : Nat) : Bool := decide (nth 192 c.congHi k ≤ nth 128 c.congLo k)

/-- The shadow set with refused threshold pairs replaced by those in force. -/
def QosCfg.mended (c old : QosCfg) : QosCfg :=
  { c with
    congHi := (List.range 3).map fun k => if congBad c k then nth 192 old.congHi k else nth 192 c.congHi k
    congLo := (List.range 3).map fun k => if congBad c k then nth 128 old.congLo k else nth 128 c.congLo k }

/-- QOS_COMMIT (R6, R328, R329, R335): every shadow field of the block but those of FUNC entries takes effect together. -/
def State.regQosCommit (s : State) (value : Nat) : State :=
  if bit value 0 then s.onQos fun q => { q with
      active := q.shadow.mended q.active
      refused := q.refused || (List.range 3).any fun k => congBad q.shadow k }
    else s

/-- QOS_COMMIT, which the host reaches once the package is Ready (R441). -/
def execQosCommit (value : Nat) (s : State) : Host.Outcome State Fault Refusal :=
  .next (if s.barOpen 0 then s.regQosCommit value else s)

/-! ### FUNC_COMMIT (R333) -/

/-- Two ranges meet. -/
def rangesMeet (a n b m : Nat) : Bool := decide (0 < n ∧ 0 < m ∧ a < b + m ∧ b < a + n)

/-- What a commit of entry `f` would put in force; entry 0 holds `SLOT_MIN` only. -/
def funcEntry (f : Nat) (u : FuncCfg) : FuncCfg := if f = 0 then { FuncCfg.zero with slotMin := u.slotMin } else u

/-- The device refuses the commit (R333); `SLOT_MAX` of entry 0 is the implicit 47 of R324. -/
def State.funcRefused (s : State) (f : Nat) (u : FuncCfg) : Bool :=
  (decide (f ≠ 0) && s.objs.ctxs.any fun p => decide (p.2.state ≠ .free ∧ p.2.function = f)) ||
  (decide (f = 0) && s.objs.ctxs.any fun p => decide (p.1 ≠ 0 ∧ p.2.state ≠ .free ∧ p.2.function = 0)) ||
  (decide (f ≠ 0 ∧ 0 < u.ctxCount) && decide (u.ctxFirst = 0 ∨ 4096 < u.ctxFirst + u.ctxCount)) ||
  (s.qos.funcAct.any fun p => decide (p.1 ≠ f) &&
    (rangesMeet u.ctxFirst u.ctxCount p.2.ctxFirst p.2.ctxCount || rangesMeet u.fenceLo u.fenceN p.2.fenceLo p.2.fenceN)) ||
  decide ((if f = 0 then 47 else u.slotMax) < u.slotMin ∨ 47 < u.slotMax) ||
  decide (47 < u.slotMin + ((s.qos.funcAct.filter fun p => decide (p.1 ≠ f)).map fun p => p.2.slotMin).sum) ||
  decide (5 < u.classMax ∨ u.vatHi < u.vatLo)

/-- FUNC_COMMIT (R333, R337). -/
def State.regFuncCommit (s : State) (f value : Nat) : State :=
  if f < 64 ∧ bit value 0 = true then
      let u := funcEntry f (mapGet FuncCfg.zero s.qos.funcShad f)
      if s.funcRefused f u then s.onQos fun q => { q with refused := true }
      else s.onQos fun q => { q with funcAct := mapPut q.funcAct f u }
    else s

/-- FUNC_COMMIT, which the host reaches once the package is Ready (R441). -/
def execFuncCommit (f value : Nat) (s : State) : Host.Outcome State Fault Refusal :=
  .next (if s.barOpen 0 then s.regFuncCommit f value else s)

end Sys2Proof.Machine
end

