-- ==== Sys2Proof/Machine/Cap.lean ====
section
/-! DEFINITION. The capability table (R474). -/

namespace Sys2Proof.Machine
open Sys2Proof

/-- Clusters with at most one Retired core. -/
def State.clustersUsable (s : State) : Nat := ((List.range 32).filter fun k => decide ((s.retiredIn k).length ≤ 1)).length

/-- A mask of the numbers below `n` that pass a test. -/
def maskOf (n : Nat) (p : Nat → Bool) : Nat := ((List.range n).map fun i => b2n (p i) * 2 ^ i).sum

/-- The values of the fields that change: interface, node, torus, clusters, slices, stacks, CXL ports, link ports, gears. -/
def State.capNow (s : State) : List Nat :=
  [s.boot.iface, s.links.node, s.links.tx + 256 * s.links.ty + 65536 * s.links.tz, s.clustersUsable, 264 - s.retiredSlices.length,
   maskOf 16 fun q => !s.mem.hbmOut.contains q, maskOf 4 fun p => decide ((mapGet CxlPort.off s.cxlPorts p).state = 2),
   maskOf 8 fun k => decide ((s.port k).state = .active), maskOf 7 fun i => (mapFind s.power.cals (nth 0 gearList i)).isSome]

/-- The Starter rewrites each field whose value has changed; each rewrite counts (DEDUCED, log entry 45). -/
def State.refreshCap (s : State) : State :=
  if !s.served then s else
  let now := s.capNow
  let n := ((now.zip s.cap.fields).filter fun p => decide (p.1 ≠ p.2)).length
  if n = 0 then s else s.onCap fun c => { c with seq := (c.seq + n) % 2 ^ 32, fields := now }

end Sys2Proof.Machine
end

