-- ==== Sys2Proof/Machine/Complex.lean ====
section
/-! DEFINITION. The control complexes (13): heartbeat and seniority (R350 to R354), loss (R348, R349), takeover (R355 to R357), the
split fence (R358, R359), coherence of the data caches and the L2 (R342 to R347). -/

namespace Sys2Proof.Machine
open Sys2Proof

/-! ### Bridges and heartbeats -/

/-- The value of a state in its register. -/
def CcState.code : CcState → Nat
  | .off => 0
  | .booting => 1
  | .junior => 2
  | .senior => 3
  | .lost => 4

/-- A complex is Junior or Senior. -/
def Cplx.serves (c : Cplx) : Bool := decide (c.state = .junior ∨ c.state = .senior)

/-- The heartbeat a complex sends (R351). -/
def heartbeatBytes (c : Cplx) (k : Nat) : List Byte :=
  leBytes 2 0x1000 ++ leBytes 1 (b2n (decide (c.state = .senior))) ++ leBytes 1 k ++ leBytes 4 c.epoch ++ leBytes 4 c.hbSeq ++ zeros 4

/-- HEARTBEAT_SEND (R351): every 16 Ticks, on each inter-half bridge in service. -/
def execHeartbeatSend (k : Nat) (s : State) : Host.Outcome State Fault Refusal :=
  .next (if k < 2 ∧ (s.cplx k).serves ∧ (s.cplx k).hbSent + 16 ≤ s.now then
      (s.bridgesUp.foldl (fun t b => t.send "HEARTBEAT" b [k] (heartbeatBytes (s.cplx k) k)) s).onCplx k fun c =>
        { c with hbSent := s.now }
    else s)

/-- Settle competing claims (R354): the higher epoch wins, then the lower half. -/
def Cplx.yield (c : Cplx) (k epoch : Nat) : Cplx :=
  if c.state = .senior ∧ (c.epoch < epoch ∨ (c.epoch = epoch ∧ k = 1)) then { c with state := .junior, epoch := epoch } else c

/-- A complex receives a heartbeat on a bridge. -/
def Cplx.hear (c : Cplx) (bridge epoch seq now : Nat) : Cplx :=
  let fresh := c.heard.any fun h => decide (now ≤ h.2 + 64)
  { c with
    heard := mapPut c.heard bridge now
    hbSince := if fresh ∧ c.hbSince.isSome then c.hbSince else some now
    peerSeq := seq % 2 ^ 32
    peerEpoch := epoch % 2 ^ 32 }

/-- HEARTBEAT (R353, R354). -/
def execHeartbeat (k : Headed) (claim : Bool) (epoch seq bridge : Nat) (s : State) : Host.Outcome State Fault Refusal :=
  .next (if !k.ok then s else if k.val < 2 ∧ (s.cplx k.val).serves ∧ s.bridgesUp.contains bridge then
      s.onCplx k.val fun c => let c := c.hear bridge epoch seq s.now; if claim then c.yield k.val epoch else c
    else s)

/-- HB_SEQ (R352): a write by the harts restarts the watchdog. -/
def execHbSeq (k value : Nat) (s : State) : Host.Outcome State Fault Refusal :=
  .next (if k < 2 ∧ (s.cplx k).runs then s.onCplx k fun c => { c with hbSeq := value % 2 ^ 32, wdTick := s.now } else s)

/-- The 16-Tick intervals without a heartbeat that end at this Tick on the bridges in service (R360). -/
def Cplx.missedNow (c : Cplx) (bridges : List Nat) (now : Nat) : Nat :=
  (bridges.filter fun b => (mapFind c.heard b).any fun t => decide (t + 16 < now ∧ (now - t) % 16 = 1)).length

/-- Every Tick counts the intervals without a heartbeat. -/
def State.countBeats (s : State) : State :=
  [0, 1].foldl (fun t k => t.onCplx k fun c =>
    if c.serves then { c with hbMiss := sat32 c.hbMiss (c.missedNow s.bridgesUp s.now) } else c) s

/-! ### The loss of a complex (R348, R349, R369) -/

/-- The vault of a half holds the slot table, or not. -/
def State.setVault (s : State) (k : Nat) (b : Bool) : State :=
  s.onKeys fun v => if k = 0 then { v with inStep0 := b } else { v with inStep1 := b }

/-- A complex stops (R349): its caches and requests go, ALIVE falls, its vault is wiped; where both are Lost the PF is told (R357). -/
def State.loseComplex (s : State) (k cause : Nat) : State :=
  let t := s.onCplx k fun c => { c with
    state := .lost, cause := cause, lossTick := s.now, alive := false, lowFrom := some s.now, hadSenior := decide (c.state = .senior)
    lines := [], waiters := [], taking := none, harts := [], plic := Plic.reset }
  let t := t.setVault k false
  if (t.cplx (1 - k)).state = .lost then (t.onCc fun c => { c with both := true }).raise 0 0 else t

/-- The complex is running and becomes Lost with a cause. -/
def State.failComplex (s : State) (k cause : Nat) : State :=
  if k < 2 ∧ (s.cplx k).runs then s.loseComplex k cause else s

/-- WATCHDOG_EXPIRY (R352). -/
def execWatchdogExpiry (k : Nat) (s : State) : Host.Outcome State Fault Refusal :=
  .next (if (s.cplx k).serves ∧ (s.cplx k).wdTick + 1250 ≤ s.now then s.failComplex k 0x05 else s)

/-- The first byte of a complex's control memory (R341). -/
def ctrlBase (k : Nat) : Nat := hbmDpa (8 * k) (1394 * frameBytes)

/-- COMPLEX_ERROR (R212, R348): cause 0 is a corrected error; 1 to 4 make the complex Lost. -/
def execComplexError (k cause : Nat) (s : State) : Host.Outcome State Fault Refusal :=
  .next (if k < 2 ∧ (s.cplx k).runs then
      if cause = 0 then s.onCplx k fun c => { c with ce := sat32 c.ce 1 }
      else if cause = 4 then (s.memUncorrectable (ctrlBase k)).failComplex k 4
      else if cause < 4 then s.failComplex k cause
      else s
    else s)

/-- SELF_FAIL (R348): bit 1 of the word, written by a hart of the complex. -/
def execSelfFail (k value : Nat) (s : State) : Host.Outcome State Fault Refusal :=
  .next (if bit value 1 then s.failComplex k 0x06 else s)

/-! ### Takeover (R355) -/

/-- The admin commands a lost Senior had dispatched complete with 0x0730; fetching resumes from the oldest not dispatched (R299). -/
def State.adminLost (s : State) : State :=
  let t := (s.objs.cmds.filter fun c => decide (c.ref.ctx = 0)).foldl (fun t c => t.finish c.ref 0x0730) s
  t.onQueue 0 0 fun u => { u with
    sqHead := (u.fetched.head?.map (·.idx)).getD u.sqHead, reserved := u.reserved - u.fetched.length, fetched := [], slotted := false }

/-- The peer is lost (R353): the survivor is Senior from now on. -/
def State.takeover (s : State) (k : Nat) : State :=
  let t := s.onCplx k fun c => { c with
    epoch := if c.state = .junior then (c.epoch + 1) % 2 ^ 32 else c.epoch, state := .senior, taking := some s.now, peerGone := true }
  if (s.cplx (1 - k)).hadSenior then t.adminLost else t

/-- The peer of a complex has been without ALIVE for 2 Ticks. -/
def State.peerDead (s : State) (k : Nat) : Bool :=
  !(s.cplx (1 - k)).alive && (s.cplx (1 - k)).lowFrom.any fun t => decide (t + 2 ≤ s.now)

/-- PEER_ALIVE_LOSS (R353 row 2, R355). -/
def execPeerAliveLoss (k : Nat) (s : State) : Host.Outcome State Fault Refusal :=
  .next (if k < 2 ∧ (s.cplx k).serves ∧ !(s.cplx k).split ∧ !(s.cplx k).peerGone ∧ s.bridgesUp ≠ [] ∧ s.peerDead k then s.takeover k
    else s)

/-- Link ports of a half. -/
def halfPorts (k : Nat) : List Nat := (List.range 8).filter fun p => decide (portDie p / 2 = k)

/-- The half a local source belongs to (R144): complexes and vaults, link ports as their half has them, stacks, CXL ports, base and compute
dies; the sources of the whole package count to half 0, with the host port. -/
def sourceHalf (src : Nat) : Nat :=
  if src = 0x05 ∨ src = 0x07 then 1
  else if 0x08 ≤ src ∧ src < 0x10 then (if (halfPorts 1).contains (src - 8) then 1 else 0)
  else if 0x10 ≤ src ∧ src < 0x20 then (src - 0x10) / 8
  else if 0x20 ≤ src ∧ src < 0x24 then (src - 0x20) / 2
  else if 0x28 ≤ src ∧ src < 0x2C then (src - 0x28) / 2
  else if 0x30 ≤ src ∧ src < 0x34 then (src - 0x30) / 2 else 0

/-- The events of a lost complex's half that its firmware has not acknowledged, in the order of R145: those recorded since the Tick it was lost in
(R355; DESIGN CHOICE, log entry 127). -/
def State.unacked (s : State) (k : Nat) : List Event :=
  s.events.filter fun e => decide ((s.cplx k).lossTick ≤ e.tick ∧ e.source / 256 = s.links.node ∧ sourceHalf (e.source % 256) = k)

/-- They are delivered again to the survivor. -/
def State.redeliver (s : State) (k : Nat) : State :=
  (s.unacked (1 - k)).foldl (fun t e => t.send "EVENT" k [e.tick, e.source, e.seq, e.arg] []) s

/-- TAKEOVER_DONE (R355 steps 3 and 4): the lost half's events are delivered again; an event of the lost complex, a count, the PF error
vector. -/
def execTakeoverDone (k : Nat) (s : State) : Host.Outcome State Fault Refusal :=
  .next (if k < 2 ∧ (s.cplx k).taking.isSome then
      (((s.redeliver k).note (0x04 + (1 - k)) "TAKEOVER" k).onCplx k fun c => { c with takeovers := sat32 c.takeovers 1, taking := none }).raise 0 0
    else s)

/-! ### The split fence (R358, R359) -/

/-- Word `w` of the group of complex `k` (R360). -/
def State.ccWord (s : State) (k w : Nat) : Nat :=
  let c := s.cplx k
  if w = 0 then c.state.code + 4096 * (b2n s.cc.bridge0 + 2 * b2n s.cc.bridge1) + 16384 * b2n (s.cplx (1 - k)).alive +
    32768 * b2n c.split + 2 ^ 24 * c.cause
  else if w = 1 then c.epoch
  else if w = 2 then c.hbSeq
  else if w = 5 then c.ce
  else if w = 6 then c.hbMiss
  else if w = 7 then c.takeovers
  else if w = 8 then c.lossTick % 2 ^ 32
  else if w = 9 then c.lossTick / 2 ^ 32 % 2 ^ 32
  else 0

/-- The fence of complex 0 keeps what it last received of group 1 (R360, DEDUCED, log entry 46). -/
def State.keepSeen (s : State) (k : Nat) : State :=
  if k = 0 then s.onCc fun c => { c with seen := (List.range 10).map (s.ccWord 1) } else s

/-- An admin command that needs a half now out of reach completes with 0x0701 (R358). -/
def State.cutAdmin (s : State) (r : CmdRef) : State :=
  match s.cmd? r with
  | none => s
  | some c => if s.cutStatus c ≠ 0 then s.finish r (s.cutStatus c) else s

/-- A complex fences its half; the other vault falls out of step, and admin commands that need the other half end (R358, R369). -/
def State.splitFence (s : State) (k : Nat) : State :=
  let t := (halfPorts k).foldl (fun t p => t.onPort p fun x => if x.state = .active then x.enter .fenced s.now else x) (s.keepSeen k)
  let t := (t.onCplx k fun c => { c with split := true, hbSince := none }).setVault (1 - s.senior) false
  ((t.objs.cmds.filter fun c => decide (c.ref.ctx = 0)).map (·.ref)).foldl (fun t r => t.cutAdmin r) t

/-- A complex classifies the path as lost; one in the fence already does nothing. -/
def State.pathLost (s : State) (k : Nat) : State :=
  if (s.cplx k).serves && !(s.cplx k).split then s.splitFence k else s

/-- Row 1 of R353 at a Tick: a complex that runs without a bridge in service fences its half. -/
def State.classifyPaths (s : State) : State := if s.bridgesUp = [] then (s.pathLost 0).pathLost 1 else s

/-- BRIDGE_DOWN (R353 row 1): without a bridge, commands that concern Half 1 wait (R15). -/
def execBridgeDown (bridge : Nat) (s : State) : Host.Outcome State Fault Refusal :=
  .next (if s.bridgesUp.contains bridge then
      let t := s.onCc fun c => if bridge = 0 then { c with bridge0 := false } else { c with bridge1 := false }
      if t.bridgesUp = [] then
        (t.objs.cmds.map (·.ref)).foldl (fun t r => t.parkCut r) t.classifyPaths else t
    else s)

/-- No heartbeat has come on any bridge in service for 64 Ticks. -/
def State.beatsGone (s : State) (k : Nat) : Bool :=
  s.bridgesUp.all fun b => (mapFind (s.cplx k).heard b).all fun t => decide (t + 64 ≤ s.now)

/-- HEARTBEAT_TIMEOUT (R353 row 3). -/
def execHeartbeatTimeout (k : Nat) (s : State) : Host.Outcome State Fault Refusal :=
  .next (if k < 2 ∧ s.bridgesUp ≠ [] ∧ !s.peerDead k ∧ s.beatsGone k then s.pathLost k else s)

/-- A command of the CC block is refused. -/
def State.ccRefuse (s : State) : State := s.onCc fun c => { c with refused := true }

/-- The Fenced ports of a half return to Active. -/
def State.unfenceHalf (s : State) (k : Nat) : State :=
  (halfPorts k).foldl (fun t p => t.onPort p fun x => if x.state = .fenced then x.enter .active s.now else x) s

/-- What a half out of service leaves (R359): its stacks are out, the copies of its slices end, commands with bytes there complete with 0x0701,
and the package reports itself down for every vat that holds something there (DESIGN CHOICE, log entry 128). -/
def State.leaveHalf (s : State) (h : Nat) : State :=
  let t := s.onMem fun m => { m with
    hbmOut := m.hbmOut ++ ((List.range 8).map (8 * h + ·)).filter (!m.hbmOut.contains ·)
    copies := m.copies.filter fun c => decide (c.1 / 2 ≠ h) }
  let t := ((t.objs.cmds.filter fun c => decide (c.phase ≠ .done) && t.bytesOut c).map (·.ref)).foldl (fun t r => t.finish r 0x0701) t
  ((t.vats.filter fun v => v.2.inHalf h).map (·.1)).foldl (fun t v => t.sendDown v 0 t.links.node t.now) t

/-- The effect of RESUME: the Senior half serves alone. -/
def State.resumeHalf (s : State) (k : Nat) : State :=
  if (s.cplx k).split ∧ (s.cplx k).state = .senior then
    ((s.unfenceHalf k).onCplx k fun c => { c with split := false, otherOut := true }).leaveHalf (1 - k)
  else s.ccRefuse

/-- The split fence of complex 0 hides group 1 from BAR0. -/
def State.groupHidden (s : State) (k : Nat) : Bool := decide (k = 1) && s.cc.c0.split

/-- SPLIT_RESUME (R359). -/
def State.regSplitResume (s : State) (k : Nat) : State :=
  if k < 2 then s.resumeHalf k else s

/-- A write to the group of a complex through BAR0, which the host reaches once the package is Ready (R360, R441). -/
def State.groupWrite (s : State) (k : Nat) (f : State → State) : State :=
  if !s.barOpen 0 then s else if s.groupHidden k then s.ccRefuse else f s

/-- SPLIT_RESUME through BAR0 (R359, R360). -/
def execSplitResume (k : Nat) (s : State) : Host.Outcome State Fault Refusal :=
  .next (s.groupWrite k fun t => t.regSplitResume k)

/-- Bring a journal up to date: the authoritative records go into its inactive bank (R459). -/
def Journal.rebuilt (j : Journal) (recs : List JRec) : Journal :=
  let e := max j.a.epoch j.b.epoch + 1
  if j.bActive then ⟨⟨e, true, recs⟩, j.b⟩ else ⟨j.a, ⟨e, true, recs⟩⟩

/-- The half that was out of reach is brought up to date with the running one: its vault and its journal (R369, R459). -/
def State.syncHalf (s : State) (k : Nat) : State :=
  let rs := s.journal.recs
  (if k = 0 then s.onJ0 fun j => j.rebuilt rs else s.onJ1 fun j => j.rebuilt rs).setVault k true

/-- REJOIN is allowed in a complex (R359). -/
def State.mayRejoin (s : State) (k : Nat) : Bool :=
  (s.cplx k).split && decide (s.bridgesUp ≠ []) && (s.cplx (1 - k)).alive && !s.beatsGone k &&
    (s.cplx k).hbSince.any fun t => decide (t + 1250 ≤ s.now)

/-- The effect of REJOIN. -/
def State.rejoinHalves (s : State) (k : Nat) : State :=
  if s.mayRejoin k then
    let t := (s.unfenceHalf 0).unfenceHalf 1
    let t := (t.onCplx 0 fun c => { c with split := false }).onCplx 1 fun c => { c with split := false }
    t.syncHalf (1 - t.senior)
  else s.ccRefuse

/-- SPLIT_REJOIN (R359). -/
def State.regSplitRejoin (s : State) (k : Nat) : State :=
  if k < 2 then s.rejoinHalves k else s

/-- SPLIT_REJOIN through BAR0 (R359, R360). -/
def execSplitRejoin (k : Nat) (s : State) : Host.Outcome State Fault Refusal :=
  .next (s.groupWrite k fun t => t.regSplitRejoin k)

/-! ### Coherence (R341 to R347) -/

/-- Lines of 64 bytes in the control memory of a complex. -/
def ctrlLines : Nat := 2 ^ 24

def Cplx.line (c : Cplx) (l : Nat) : Line := mapGet ⟨[], none, 0⟩ c.lines l
def Cplx.onLine (c : Cplx) (l : Nat) (f : Line → Line) : Cplx :=
  { c with lines := mapSet ⟨[], none, 0⟩ c.lines l (f (c.line l)) }

/-- A line of control memory (R215, R341). -/
def State.ctrlLine (s : State) (k l : Nat) : Nat := leNat (s.dpaRead (s.slotKey 0) (ctrlBase k + 64 * l) 64)

/-- The holder that supplies data: D, E or F (R342). -/
def Line.supplier (x : Line) : Option CopyLine := x.copies.find? fun c => decide (c.state ≠ .shared)

/-- The copy of a hart. -/
def Line.copyOf (x : Line) (h : Nat) : Option CopyLine := x.copies.find? fun c => decide (c.hart = h)

/-- A holder keeps the line at a cycle (R344): it entered E or D less than 64 cycles before. -/
def Line.kept (x : Line) (cycle : Nat) : Bool :=
  x.copies.any fun c => decide ((c.state = .exclusive ∨ c.state = .dirty) ∧ cycle < c.hold)

/-- The line with a D holder's data written back to the L2. -/
def Line.back (x : Line) : Line :=
  match x.copies.find? fun c => decide (c.state = .dirty) with
  | some c => { x with l2 := some c.data }
  | none => x

/-- The line with the L2 filled from control memory where it lacked it. -/
def Line.filled (x : Line) (mem : Nat) : Line := { x with l2 := some (x.l2.getD mem) }

/-- A read miss is served (R343). -/
def Line.readMiss (x : Line) (h cycle mem : Nat) : Line :=
  match x.supplier with
  | some g =>
    let y := x.back
    { y with copies := (y.copies.map fun c => if c.hart = g.hart then { c with state := .shared } else c) ++ [⟨h, .forward, g.data, 0⟩] }
  | none =>
    let y := x.filled mem
    let d := y.l2.getD 0
    if y.copies = [] then { y with copies := [⟨h, .exclusive, d, cycle + 64⟩] }
    else { y with copies := y.copies ++ [⟨h, .forward, d, 0⟩] }

/-- An ownership request is served: every other copy goes, `h` takes D (R343). -/
def Line.owned (x : Line) (h data cycle mem : Nat) : Line :=
  { (x.back.filled mem) with copies := [⟨h, .dirty, data, cycle + 64⟩] }

/-- An LR is served: every other copy goes, `h` takes the line in E (R344). -/
def Line.reserved (x : Line) (h cycle mem : Nat) : Line :=
  let y := x.back.filled mem
  { y with copies := [⟨h, .exclusive, y.l2.getD 0, cycle + 64⟩] }

/-- Byte granules of 8 in a 64-byte line: those of the mask from `new`, the rest from `old`. -/
def mergeLine (mask new old : Nat) : Nat :=
  ((List.range 8).map fun i => (if bit mask i then bits new (64 * i + 63) (64 * i) else bits old (64 * i + 63) (64 * i)) * 2 ^ (64 * i)).sum

/-- An invalidating write is served: the granules merge over the line in the L2 and no cache holds it (R346). -/
def Line.merged (x : Line) (mask data mem : Nat) : Line :=
  let y := x.back.filled mem
  { y with copies := [], l2 := some (mergeLine mask data (y.l2.getD 0)) }

/-- What a request does to its line. -/
def Line.act (x : Line) (w : Waiter) (mem cycle : Nat) : Line :=
  match w.req with
  | .read => if (x.copyOf w.agent).isSome then x else x.readMiss w.agent cycle mem
  | .own d => x.owned w.agent (d % 2 ^ 512) cycle mem
  | .lr => x.reserved w.agent cycle mem
  | .place h d => x.owned h (d % 2 ^ 512) cycle mem
  | .merge m d => x.merged m (d % 2 ^ 512) mem

/-- A request is served on its line, in the first cycle from `cycle` on in which the directory serves none of the line (R345). -/
def Line.serve (x : Line) (w : Waiter) (mem cycle : Nat) : Line :=
  let at_ := max cycle x.free
  { x.act w mem at_ with free := at_ + 1 }

/-- A request must wait (R344, R345): others wait on the line, or a hart other than the requester keeps it. -/
def Cplx.mustWait (c : Cplx) (w : Waiter) (cycle : Nat) : Bool :=
  (c.line w.line).kept cycle && !((c.line w.line).copyOf w.agent).any fun x => decide (x.state = .exclusive ∨ x.state = .dirty)

/-- A request arrives at the directory of a complex. -/
def State.lineRequest (s : State) (k : Nat) (w : Waiter) : State :=
  s.onCplx k fun c =>
    if (c.waiters.any fun x => decide (x.line = w.line)) || c.mustWait w w.cycle then { c with waiters := c.waiters ++ [w] }
    else c.onLine w.line fun x => x.serve w (s.ctrlLine k w.line) w.cycle

/-- A complex runs and a line is one of its control memory. -/
def State.lineOk (s : State) (k l : Nat) : Bool := decide (k < 2 ∧ l < ctrlLines) && (s.cplx k).runs

/-- A hart's access outside its address map raises the access fault of its kind: 5 for a load or an LR, 7 for a store or an AMO (R341). -/
def State.accessFault (s : State) (k hart line : Nat) (store : Bool) : State :=
  s.onCplx k fun c => { c with harts := mapSet Hart.reset c.harts hart { mapGet Hart.reset c.harts hart with
    machine := true, cause := if store then 7 else 5, tval := 0x40000000 + 64 * line } }

/-- A line lies beyond the 1 GiB of control memory and below the device-physical window, where a complex's map has nothing (R341). -/
def State.lineOutside (s : State) (k l : Nat) : Bool :=
  decide (k < 2 ∧ ctrlLines ≤ l ∧ 0x40000000 + 64 * l < 0x10000000000000) && (s.cplx k).runs

/-- A hart's data cache of 32 KiB holds 512 lines: a miss waits for an eviction (R340). -/
def Cplx.cacheFull (c : Cplx) (hart : Nat) : Bool := decide (512 ≤ (c.lines.filter fun l => (l.2.copyOf hart).isSome).length)

/-- HART_READ_MISS (R343). -/
def execHartReadMiss (k hart line cycle : Nat) (s : State) : Host.Outcome State Fault Refusal :=
  .next (if s.lineOk k line ∧ hart < 16 ∧ (((s.cplx k).line line).copyOf hart).isNone ∧ !(s.cplx k).cacheFull hart then
      s.lineRequest k ⟨line, hart, cycle, .read⟩
    else if s.lineOutside k line ∧ hart < 16 then s.accessFault k hart line false else s)

/-- OWNERSHIP_REQUEST (R343, R344): a store or AMO, or an LR, to a line the hart does not hold in E or D. -/
def execOwnershipRequest (k hart line : Nat) (data : OwnReq) (cycle : Nat) (s : State) : Host.Outcome State Fault Refusal :=
  .next (if s.lineOk k line ∧ hart < 16 ∧
      ((((s.cplx k).line line).copyOf hart).all fun c => decide (c.state = .shared ∨ c.state = .forward)) ∧
      ((((s.cplx k).line line).copyOf hart).isSome || !(s.cplx k).cacheFull hart) then
      s.lineRequest k ⟨line, hart, cycle, match data with
        | .store d => .own d
        | .lr => .lr⟩
    else if s.lineOutside k line ∧ hart < 16 then s.accessFault k hart line (decide (data ≠ .lr)) else s)

/-- STORE_TO_EXCLUSIVE_LINE (R342, R343): silently to D; the hold is not renewed (R344). -/
def execStoreToExclusiveLine (k hart line data : Nat) (s : State) : Host.Outcome State Fault Refusal :=
  .next (if s.lineOk k line then
      s.onCplx k fun c => c.onLine line fun x => { x with copies := x.copies.map fun y =>
        if y.hart = hart ∧ (y.state = .exclusive ∨ y.state = .dirty) then { y with state := .dirty, data := data % 2 ^ 512 } else y }
    else s)

/-- LINE_EVICTION (R343): a D line is written back; the directory forgets the copy. A hart keeps a line it holds (R344). -/
def execLineEviction (k hart line cycle : Nat) (s : State) : Host.Outcome State Fault Refusal :=
  .next (if s.lineOk k line ∧ !(s.cplx k).mustWait ⟨line, 31, cycle, .read⟩ cycle then
      s.onCplx k fun c => c.onLine line fun x =>
        match x.copyOf hart with
        | some y =>
          { x with
            copies := x.copies.filter fun z => decide (z.hart ≠ hart)
            l2 := if y.state = .dirty then some y.data else x.l2 }
        | none => x
    else s)

/-- The waiter on a line that is served next: in arrival order, then by agent number (R345). -/
def nextWaiter (l : Nat) (ws : List Waiter) : Option Waiter :=
  match ws.filter fun w => decide (w.line = l) with
  | [] => none
  | w :: rest => some (rest.foldl (fun b x =>
      if x.cycle < b.cycle ∨ (x.cycle = b.cycle ∧ x.agent < b.agent) then x else b) w)

/-- Serve the waiters of a line one by one until one has to wait on a hold. -/
def Cplx.serveWaiters (mem l cycle : Nat) : Nat → Cplx → Cplx
  | 0, c => c
  | n + 1, c =>
    match nextWaiter l c.waiters with
    | none => c
    | some w =>
      if c.mustWait w cycle then c
      else
        let rest := c.waiters.filter fun x => decide (x ≠ w)
        Cplx.serveWaiters mem l cycle n ({ c with waiters := rest }.onLine l fun x => x.serve w mem cycle)

/-- HOLD_EXPIRY (R344, R345): what waited on the line proceeds. -/
def execHoldExpiry (k line cycle : Nat) (s : State) : Host.Outcome State Fault Refusal :=
  .next (if s.lineOk k line then
      s.onCplx k fun c => Cplx.serveWaiters (s.ctrlLine k line) line cycle c.waiters.length c
    else s)

/-- PLACING_WRITE (R346): `wayHeld` tells that the way it would evict in the target's cache holds a line still within its hold; then, or
without a target hart, it is an invalidating write of the whole line. Writes to a complex that does not run are dropped (R349). -/
def execPlacingWrite (k agent hart line data cycle : Nat) (wayHeld : Bool) (s : State) : Host.Outcome State Fault Refusal :=
  .next (if s.lineOk k line ∧ 16 ≤ agent ∧ agent < 20 then
      s.lineRequest k ⟨line, agent, cycle, if 16 ≤ hart ∨ wayHeld then .merge 255 data else .place hart data⟩
    else s)

/-- INVALIDATING_WRITE (R346). -/
def execInvalidatingWrite (k agent line mask data cycle : Nat) (s : State) : Host.Outcome State Fault Refusal :=
  .next (if s.lineOk k line ∧ 16 ≤ agent ∧ agent < 20 then s.lineRequest k ⟨line, agent, cycle, .merge mask data⟩ else s)

/-- What an I/O read returns (R347): from a D, E or F holder, else from the L2, else from control memory. -/
def State.lineData (s : State) (k l : Nat) : Nat :=
  match ((s.cplx k).line l).supplier with
  | some g => g.data
  | none => (((s.cplx k).line l).l2).getD (s.ctrlLine k l)

/-- IO_READ (R347, R349). -/
def execIoRead (k agent line : Nat) (s : State) : Host.Outcome State Fault Refusal :=
  .next (if s.lineOk k line ∧ 16 ≤ agent ∧ agent < 20 then s.onCplx k fun c => { c with lastRead := s.lineData k line }
    else if k < 2 ∧ (s.cplx k).state = .lost then s.send "WHEY" agent [0x02, line, 0x0730] [] else s)

/-! ### Peer restart (R356) -/

/-- The peer of complex `k` may be restarted: `k` serves, the peer is Lost, no split holds. -/
def State.mayRestart (s : State) (k : Nat) : Bool :=
  (s.cplx k).serves && decide ((s.cplx (1 - k)).state = .lost) && !(s.cplx k).split && !s.fenced 3 (1 - k)

/-- PEER_RESTART (R356): bit 0 of the word in the group of complex `k`; the lost peer goes through a control-complex domain reset. -/
def State.regPeerRestart (s : State) (k value : Nat) : State :=
  if k < 2 ∧ bit value 0 = true then
      if s.mayRestart k then s.beginReset 3 (1 - k) 0x0730 else s.ccRefuse
    else s

/-- PEER_RESTART through BAR0 (R356, R360). -/
def execPeerRestart (k value : Nat) (s : State) : Host.Outcome State Fault Refusal :=
  .next (s.groupWrite k fun t => t.regPeerRestart k value)

/-- The 32 bytes of a digest the boot ROM holds. -/
def romDigest (k : Nat) : List Byte := (List.range 32).map (Config.romDigest k)

/-- The digests of the boot ROM's two keys that R444 accepts in a lifecycle state. -/
def keyOk (d : List Byte) (lc : Nat) : Bool := decide (d = romDigest 0) || (decide (lc = 0 ∨ lc = 2) && decide (d = romDigest 1))

/-- The boot ROM of a restarted complex verifies the survivor's copy (R445): header and signature are those of the Starter that runs, so what
may fail is the key in the lifecycle state of now, the digest of the body and the security version. -/
def State.copyVerified (s : State) (body : List Byte) : Bool :=
  let h := s.boot.head
  keyOk (shake256 ((h.drop 0x40).take 64) 32) s.keys.lifecycle && decide (shake256 body 32 = (h.drop 0x20).take 32 ∧ s.fuses.minSvn ≤ field h 0x0C 1)

/-- The restarted complex has booted the survivor's Starter, which it takes from the survivor's control memory and verifies: it is Junior
whatever the fuse says, its journal and vault are brought up to date (R356, R369, R459). Where the copy does not verify it stays Lost. -/
def State.complexBack (s : State) (k : Nat) : State :=
  let body := s.dpaRead (s.slotKey 0) (ctrlBase (1 - k)) s.boot.image
  if !s.copyVerified body then s else
  let t := s.dpaWrite (s.slotKey 0) (ctrlBase k) body
  let t := t.onCplx k fun c => { Cplx.off with
    state := .junior, alive := true, wdTick := s.now, hbSent := s.now, ce := c.ce, hbMiss := c.hbMiss, takeovers := c.takeovers
    heard := s.bridgesUp.map fun b => (b, s.now) }
  let t := t.onCplx (1 - k) fun c => { c with peerGone := false, heard := s.bridgesUp.map fun b => (b, s.now), hbSince := none }
  (t.onCc fun c => { c with both := false }).syncHalf k

end Sys2Proof.Machine
end

