-- ==== Sys2Proof/Machine/Tick.lean ====
section
/-! DEFINITION. The Tick unit (R141 to R143), what every Tick does (R148, R168, R272, R297, R329, R330, R400), the Tick Count load, droop
stretches (R147, R148), gear changes (R149, R150, R427), rest requests (R426) and refresh windows (R152). -/

namespace Sys2Proof.Machine
open Sys2Proof

/-! ### What every Tick does -/

/-- A Tick edge counts for every burst that waits at an arbiter (R334) and for every context that had a command in
dispatch in the Tick that ends (R317). -/
def State.countWaits (s : State) : State :=
  s.onObjs fun o => { o with ctxs := mapAll o.ctxs fun c x =>
    let w := (s.qos.arbs.map fun a => ((a.2.queue.filter fun r => r.ref.any fun k => decide (k.ctx = c)).map ArbReq.left).sum).sum
    { x with
      arbWait := if x.conf then x.arbWait else x.arbWait + w,
      activeT := if x.acted then x.activeT + 1 else x.activeT
      acted := o.cmds.any fun d => decide (d.ref.ctx = c) } }

/-- The commands that read or write host memory: the copies with the host, SEAL, OPEN, and the admin commands with a buffer there. -/
def needsHost (op : Nat) : Bool := ([0x03, 0x04, 0x05, 0x06, 0x24, 0x30, 0x31, 0x32, 0x33, 0x39, 0x3A] : List Nat).contains op

/-- A Tick that does not count toward a command's limits: one in Cellar (R434), or one a command needs the host in while the host cannot
be reached (R466). -/
def State.excuseTick (s : State) : State :=
  s.onObjs fun o => { o with cmds := o.cmds.map fun c =>
    let shut := s.asleep || (needsHost (cmdOp c.bytes) && !s.hostOpen (s.ctx c.ref.ctx).function)
    { c with
      excused := if shut ∧ c.phase ≠ .held then c.excused + 1 else c.excused
      faulted := if s.asleep then c.faulted.map (· + 1) else c.faulted } }

/-- What a new Tick brings: clearing that ends, markers, halts and starts that fall due, regulators, congestion, contexts. -/
def State.newTick (s : State) : State :=
  let t := s.onTick fun k => { k with stretches := 0, overrun := false }
  let t := t.settleCores.haltDue.readyDue.enterRunning.classifyPaths
  let t := (t.onQos fun q => (q.refill.sample).release s.partOf s.now).countWaits.excuseTick.classify.countBeats.refreshCap
  if t.tick.lock = .locked ∨ t.tick.lock = .holdover then t.sendMarkers else t

/-! ### The Tick unit (R141, R143) -/

/-- The unit is in Holdover: the alignment is lost, running steps fail at their boundaries, the head of a vat freezes no step (R143). -/
def State.enterHoldover (s : State) (status : Nat) : State :=
  let t := s.onTick fun k => { k with
    lock := .holdover, aligned := false, nLoss := sat32 k.nLoss 1, slip := decide (status = 0x0605), edges := decide (status = 0x0605),
    frames := 0, sinceFrm := none, atFrame := false }
  (t.failAll status 0x00).note 0x00 (if status = 0x0605 then "TICK_FRAME_SLIP" else "HOLDOVER_ENTRY") status

/-- The frame counter of an edge: Ticks since the last TICK_FRAME with every edge within tolerance. -/
def TickUnit.edge (k : TickUnit) (frame inTol : Bool) : TickUnit :=
  let k := { k with count := (k.count + 1) % 2 ^ 64, edges := true }
  let full := decide (k.sinceFrm = some 65535)
  let k := { k with atFrame := frame, sinceFrm := if frame then some 0 else if inTol then k.sinceFrm.map (· + 1) else none }
  match k.lock with
  | .unlocked => { k with lock := .acquiring, frames := 0 }
  | .acquiring =>
    let k := if frame then { k with count := k.count / 65536 * 65536 } else k
    if !inTol then { k with frames := 0, sinceFrm := none }
    else if frame then
      if full then (if 1 ≤ k.frames then { k with lock := .locked, frames := 0 } else { k with frames := k.frames + 1 })
      else { k with frames := 0 }
    else k
  | .locked => k
  | .holdover => k

/-- TICK_EDGE (R142): a rising edge on TICK_IN; `frame` tells TICK_FRAME, `inTol` an edge within tolerance, `stalls` the cores that
stalled (R400). Where a TICK_FRAME sets the count, what the ports measure in Ticks goes on (R180). -/
def State.tickEdge (s : State) (frame inTol : Bool) (stalls : List Stall) : State :=
  let was := s.tick.lock
  let t := s.onTick fun k => k.edge frame inTol
  let d := tick64 ((t.tick.count : Int) - s.tick.count - 1)
  let t := if d = 0 then t else t.onLinks fun l => { l with ports := mapAll l.ports fun _ p => p.shift d }
  let t := if was ≠ .locked ∧ t.tick.lock = .locked then t.note 0x00 "LOCK_ACQUIRED" 0 else t
  let t := if was = .locked ∧ frame ∧ t.tick.count % 65536 ≠ 0 then t.enterHoldover 0x0605 else t
  (stalls.foldl (fun t c => t.coreStall c) t).newTick

def execTickEdge (frame inTol : Bool) (stalls : List Stall) (s : State) : Host.Outcome State Fault Refusal :=
  .next (s.tickEdge frame inTol stalls)

/-- TICK_EDGE_MISSING (R141): no edge within 120 ns of the last. A Locked unit enters Holdover; in Holdover the internal oscillator counts
the Tick; in Acquiring the frame count restarts. -/
def State.tickMissing (s : State) : State :=
  match s.tick.lock with
  | .unlocked => s
  | .acquiring => s.onTick fun k => { k with frames := 0, sinceFrm := none, atFrame := false, edges := false }
  | .locked => ((s.enterHoldover 0x0602).onTick fun k => { k with count := (k.count + 1) % 2 ^ 64 }).newTick
  | .holdover => (s.onTick fun k => { k with count := (k.count + 1) % 2 ^ 64, edges := false, sinceFrm := none, atFrame := false }).newTick

def execTickEdgeMissing (s : State) : Host.Outcome State Fault Refusal := .next s.tickMissing

/-- HOLDOVER_EXIT (R141): edges are present and no step is in progress. -/
def execHoldoverExit (s : State) : Host.Outcome State Fault Refusal :=
  .next (if s.tick.lock = .holdover ∧ s.tick.edges ∧ s.stepping = [] then
    s.onTick fun k => { k with lock := .acquiring, frames := 0, sinceFrm := none, slip := false } else s)

/-- A vat of the package has completed BIND_COMPLETE. -/
def State.anyBound (s : State) : Bool := s.vats.any fun p => decide (p.2.state ≠ .defined ∧ p.2.state ≠ .reserved)

/-- LOAD_COMMIT (R142). -/
def State.regLoadCommit (s : State) (value : Nat) : State :=
  if !bit value 0 then s
    else if s.anyBound then s.onTick fun k => { k with refused := true }
    else s.onTick fun k => { k with pending := some k.loadShad }

/-- LOAD_COMMIT, which the host reaches once the package is Ready (R441). -/
def execLoadCommit (value : Nat) (s : State) : Host.Outcome State Fault Refusal :=
  .next (if s.barOpen 0 then s.regLoadCommit value else s)

/-- The Tick Count takes a value: it is aligned, and what the ports measure in Ticks goes on. -/
def State.setCount (s : State) (v : Nat) : State :=
  let d := tick64 ((v : Int) - s.tick.count)
  (s.onTick fun k => { k with count := v, aligned := true, pending := none, alignLoad := none }).onLinks fun l =>
    { l with ports := mapAll l.ports fun _ p => p.shift d }

/-- TICK_COUNT_LOAD_APPLY (R142, R183): at a TICK_FRAME the committed load, or the count alignment gives, takes effect; a count that
alignment would put at a frame with low bits other than 0 fails the port that gave it. -/
def State.applyLoad (s : State) : State :=
  match s.tick.pending, s.tick.alignLoad with
  | some v, _ => (List.range 8).foldl (fun t k => t.leaveAlign k) (s.setCount v)
  | none, some (d, port, _) =>
    let v := (s.tick.count + d) % 2 ^ 64
    if v % 65536 = 0 then
      (List.range 8).foldl (fun t k => t.leaveAlign k) (s.setCount v)
    else ((s.onPort port fun p => if p.state = .align then p.fail 0x0606 s.now else p).onTick fun k => { k with alignLoad := none }).bringup
  | none, none => s

def execTickCountLoadApply (s : State) : Host.Outcome State Fault Refusal :=
  .next (if s.tick.atFrame ∧ s.tick.lock ≠ .unlocked then s.applyLoad else s)

/-! ### Droop (R147, R148) -/

/-- Stretches a Tick admits: the smallest SLACK of the vats that run a step (DEDUCED, log entry 30). -/
def State.slack (s : State) : Option Nat :=
  minNat? (s.stepping.filterMap fun v => (s.vat? v).bind fun v => v.mould.map fun m => mSlack m s.tick.gear)

/-- A Tick overrun (R148): once for the Tick, every step in progress fails; after a step with one, `DROOP_PERSISTENT`. -/
def State.overrun (s : State) : State :=
  if s.tick.overrun then s else
  let again := decide (s.tick.lastOver = 1) && s.stepping.any fun v => ((s.vat? v).bind (·.step)).any fun r => !r.overrun
  let t := (s.onTick fun k => { k with overrun := true, nOverrun := sat32 k.nOverrun 1 }).failAll 0x0601 0x00
  let t := t.stepping.foldl (fun t v => t.onVat v fun u => { u with step := u.step.map fun r => { r with overrun := true } }) t
  if again then t.droopPersistent else t

/-- DROOP_STRETCH (R147): a usable cycle of a step is stretched, up to SLACK of them in a Tick. -/
def State.stretch (s : State) (cycle : Nat) : State :=
  match s.slack with
  | none => s
  | some k =>
    if s.tick.gear - k ≤ cycle then s
    else if s.tick.stretches < k then
      s.onTick fun u => { u with
        stretches := u.stretches + 1, nStretch := sat32 u.nStretch 1, maxStr := max u.maxStr (u.stretches + 1) }
    else s.overrun

def execDroopStretch (cycle : Nat) (s : State) : Host.Outcome State Fault Refusal := .next (s.stretch cycle)

/-! ### Gear changes (R149, R150, R427) -/

/-- GEAR_ARM (R149) from the acting time master of a vat bound here. -/
def execGearArm (vat : Headed) (gear seq : Nat) (s : State) : Host.Outcome State Fault Refusal :=
  .next (if !vat.ok then s else if gearList.contains gear && (s.vat? vat.val).any Vat.bound then s.armGear vat.val gear seq else s)

/-- The idle PLLs are locked and the supply is ready: the package acknowledges, or with no vat bound switches (R149, R427). -/
def State.pllLocked (s : State) : State :=
  match s.tick.locking with
  | none => s
  | some (g, q, x) =>
    if x + 250 < s.now then s else
    let t := ((s.onTick fun k => { k with armed := g, locking := none }).supply).onPins fun p => { p with atSet := [true, true, true, true] }
    match t.gearVat with
    | none =>
      let t := t.switchGear g
      (if t.boot.state = .starting ∧ t.boot.bringup = 2 then t.onBoot fun b => { b with bringup := 3 } else t).bringup
    | some v => match t.vat? s.tick.armVat with
      | some u => t.control u 0x0B (t.lpkgNode u u.masterLpkg) s.now g (leBytes 4 q)
      | none => t.control v 0x0B (t.lpkgNode v v.masterLpkg) s.now g (leBytes 4 q)

def execGearPllLocked (s : State) : Host.Outcome State Fault Refusal := .next s.pllLocked

/-- GEAR_ARM_FAIL (R149): not locked within 250 Ticks; the supply returns to the gear in force. -/
def execGearArmFail (s : State) : Host.Outcome State Fault Refusal :=
  .next (match s.tick.locking with
    | some (g, _, x) =>
      if x + 250 < s.now then ((s.onTick fun k => { k with locking := none }).note 0x00 "GEAR_ARM_FAIL" g).supply else s
    | none => s)

/-- GEAR_ACK at the acting time master (R149): when every package of the group has acknowledged, T is chosen; a time master that does not head
each vat here learns T from the tables announced (DESIGN CHOICE, log entry 26). -/
def State.gearAck (s : State) (node gear seq : Nat) : State :=
  let m := s.gears
  if !s.isGearMaster ∨ !m.arming ∨ m.change.isSome ∨ gear ≠ m.gear ∨ seq ≠ m.seq then s else
  let acks := (m.acks ++ [node]).eraseDups
  let t := s.onGears fun m => { m with acks := acks }
  if !(s.gearNodes.all fun n => acks.contains n) || !s.headsAll then t else
  let x := s.changeTick gear
  (t.onGears fun m => { m with change := some x }).onTick fun k => { k with change := some x }

def execGearAck (node : Headed) (gear seq : Nat) (s : State) : Host.Outcome State Fault Refusal := .next (if !node.ok then s else s.gearAck node.val gear seq)

/-- The change Tick has come: the one chosen here or that a table fixed; where no vat runs and none was chosen, a multiple of the group's period
(DESIGN CHOICE, log entry 26). -/
def State.changeDue (s : State) : Bool :=
  s.gearVat.isSome && decide (s.tick.armed ≠ 0) && match s.tick.change with
    | some x => decide (s.now = x)
    | none => (!s.isGearMaster || s.gearNodes.all fun n => s.gears.acks.contains n) && decide (s.now % s.groupPeriod = 0) &&
        s.gearVats.all fun v => decide (v.state ≠ .running)

/-- GEAR_CHANGE_TICK (R149, R150): the clocks switch, or a package that lost its lock keeps the old gear and its step at T fails. -/
def State.gearChange (s : State) : State :=
  let t := if s.tick.lockLost then
      (s.onTick fun k => { k with armed := 0, change := none, lockLost := false, lostAt := some s.now }).supply
    else (s.switchGear s.tick.armed).onTick fun k => { k with prev := some (s.now, s.tick.gear) }
  if t.isGearMaster then (t.onGears fun m => { m with arming := false, change := none, acks := [] }).decideGear else t

def execGearChangeTick (s : State) : Host.Outcome State Fault Refusal := .next (if s.changeDue then s.gearChange else s)

/-- GEAR_LOCK_LOST (R150): the armed PLL loses lock before T. -/
def execGearLockLost (s : State) : Host.Outcome State Fault Refusal :=
  .next (if s.tick.armed ≠ 0 then s.onTick fun k => { k with lockLost := true } else s)

/-- GEAR_REQ at the acting time master (R427): recorded, withdrawn, or refused for want of a variant (R149). -/
def State.gearReq (s : State) (node arg : Nat) : State :=
  if !s.isGearMaster ∨ !s.gearNodes.contains node then s else
  if bit arg 10 then (s.onGears fun m => { m with reqs := mapDel m.reqs node }).decideGear
  else if !gearList.contains (arg % 256) then s
  else if !s.groupHas (arg % 256) then s.note 0x00 "GEAR_NO_VARIANT" 0x0604
  else
    let t := s.onGears fun m => { m with reqs := mapPut m.reqs node (arg % 1024) }
    let t := if fixedDiffer (t.gears.reqs.map (·.2)) then
        (t.note 0x00 "FIXED_CONFLICT" node).onPower fun p => if p.active.fixed then { p with conflict := true } else p
      else t
    t.decideGear

def execGearReq (node : Headed) (arg : Nat) (s : State) : Host.Outcome State Fault Refusal := .next (if !node.ok then s else s.gearReq node.val arg)

/-- REST_REQ at the head (R426). -/
def execRestReq (vat : Headed) (node f : Nat) (s : State) : Host.Outcome State Fault Refusal :=
  .next (if !vat.ok then s else if (s.vat? vat.val).any Vat.isHead ∧ f < 64 then s.onRole vat.val fun r => { r with restReq := mapSet 0 r.restReq node f } else s)

/-! ### Refresh windows (R152) -/

/-- The cadence of a channel's owner. -/
def State.ownerCadence (s : State) (stack : Nat) : Nat × Nat × Nat :=
  match (s.vats.map (·.2)).find? fun v => v.bound && v.place.stackSet.contains stack with
  | some v => (v.mould.map fun m => (mRefreshPeriod m, mRefreshLen m, mRefreshPhase m)).getD defaultCadence
  | none => defaultCadence

/-- A window of a cadence starts at a Tick. -/
def windowStarts (c : Nat × Nat × Nat) (t : Nat) : Bool := decide (t % max 1 c.1 = c.2.2)

/-- REFRESH_WINDOW_START: at the first window start of the owner's cadence the channel follows it. -/
def execRefreshWindowStart (stack channel : Nat) (s : State) : Host.Outcome State Fault Refusal :=
  .next (if stack < 16 ∧ channel < 32 ∧ windowStarts (s.ownerCadence stack) s.now then
    s.onMem fun m => { m with refresh := mapSet defaultCadence m.refresh (stack * 32 + channel) (s.ownerCadence stack) } else s)

end Sys2Proof.Machine
end

