-- ==== Sys2Proof/Machine/Faults.lean ====
section
/-! DEFINITION. Dumps (R405, R406), the reset of the device and of each domain (R395 to R399, R413), hangs (R401, R402), router faults
(R411), tamper (R390, R492, R493). -/

namespace Sys2Proof.Machine
open Sys2Proof

/-! ### Dumps (R405, R406). Contents whose layout R405 does not give are free bytes (DESIGN CHOICE, log entry 41). -/

/-- The queues of the Active contexts. -/
def State.activeQueues (s : State) : Nat := (s.objs.queues.filter fun q => decide ((s.ctx (q.1 / 16)).state = .active)).length

/-- The records of the fences of the Active contexts, each with free bytes for its signaller. -/
def State.fenceDump (s : State) : List Byte :=
  (s.objs.ctxs.filter fun c => decide (c.2.state = .active)).flatMap fun c =>
    (List.range c.2.fenceN).flatMap fun i =>
      (s.fence (c.2.fenceLo + i)).record ++ (List.range 8).map fun k => Config.freeByte (s.fresh + 8 * (c.2.fenceLo + i) + k)

/-- The cores a dump describes: those of the domain, or for a device every bound one. -/
def State.dumpCores (s : State) (kind index : Nat) : List Nat :=
  if kind = 0xF then (s.cores.filter fun c => c.2.vat.isSome).map (·.1) else domainCores kind index

/-- R406 lets the data of a vat into a dump: no secret, no confidential context in its last two steps. -/
def State.dumpVat (s : State) (vat : Nat) : Bool :=
  (mapFind s.keys.secrets vat).isNone && !((s.role vat).recent.flatten.any fun c => (s.ctx c).conf)

/-- The base dies of a domain. -/
def dumpDies (kind index : Nat) : List Nat :=
  if kind = 1 then [index / 256] else if kind = 2 then [index / 8] else if kind = 0xF then [0, 1, 2, 3] else []

/-- The start of each working region of a vat, where it lies in slices of the dies. -/
def State.sliceDump (s : State) (v : Vat) (dies : List Nat) : List Byte :=
  match v.mould with
  | none => []
  | some m =>
    let rs := mRegions m v.lpkg
    (List.range rs.length).flatMap fun k =>
      match rs[k]? with
      | none => []
      | some r =>
        if r.kind ≠ 1 ∨ r.use ≠ 2 then [] else
        ((v.regionPieces k 0 (min r.bytes 65536) 0).filter fun p => dies.contains ((p.1 - 2 ^ 49) / 2 ^ 31)).flatMap fun p =>
          s.dpaRead [] p.1 p.2.1

/-- The sections of a dump: type and contents. -/
def State.dumpSections (s : State) (kind index : Nat) : List (Nat × List Byte) :=
  let cores := s.dumpCores kind index
  let units := decide (kind = 1 ∨ kind = 2 ∨ kind = 0xF)
  let open' := cores.filter fun c => (s.coreVat c).any s.dumpVat
  let vs := s.vats.filter fun v => s.dumpVat v.1
  [(1, s.freeBytes (32 * s.activeQueues)), (2, s.fenceDump)] ++ (if units then [(3, s.freeBytes (256 * cores.length))] else []) ++
    [(4, s.freeBytes (16 * s.events.length))] ++
    (if open'.isEmpty then [] else [(5, open'.flatMap fun c => (s.core c).rd 0 bankSize)]) ++
    (if units && !vs.isEmpty then [(6, vs.flatMap fun v => s.sliceDump v.2 (dumpDies kind index))] else [])

/-- Section entries and contents, the contents one after the other behind the entries. -/
def dumpBody : List (Nat × List Byte) → Nat → List Byte × List Byte
  | [], _ => ([], [])
  | x :: l, off =>
    let r := dumpBody l (off + x.2.length)
    (leBytes 2 x.1 ++ zeros 2 ++ leBytes 4 off ++ leBytes 8 x.2.length ++ r.1, x.2 ++ r.2)

/-- A dump of sections, the header with `TRUNCATED` or not. -/
def dumpBytes (cause kind index seq tick : Nat) (secs : List (Nat × List Byte)) (cut : Bool) : List Byte :=
  let b := dumpBody secs (64 + 16 * secs.length)
  let samples := secs.any fun x => decide (x.1 = 5 ∨ x.1 = 6)
  leBytes 2 0x1000 ++ leBytes 2 cause ++ leBytes 1 kind ++ zeros 1 ++ leBytes 2 index ++ leBytes 4 seq ++
    leBytes 4 (2 * b2n samples + b2n cut) ++ leBytes 8 tick ++ leBytes 8 (64 + b.1.length + b.2.length) ++ leBytes 2 secs.length ++
    zeros 30 ++ b.1 ++ b.2

/-- Write a dump of the trigger at `tick`, as many bytes as the buffer takes (DESIGN CHOICE, log entry 41); `cut` leaves out the sections that
collection has not reached, whose number is a free value. -/
def State.dump (s : State) (cause kind index tick : Nat) (cut : Bool) : State :=
  if s.flt.dumpLen = 0 ∨ !s.hostOpen 0 then s else
  let all := s.dumpSections kind index
  let secs := if cut then all.take (Config.freeNat s.fresh % (all.length + 1)) else all
  let t := (s.hostWrite s.flt.dumpBus ((dumpBytes cause kind index (s.flt.dumpSeq + 1) tick secs cut).take s.flt.dumpLen)).draw
    (2 ^ 20 + 16 * 256)
  t.onFlt fun f => { f with dumpSeq := f.dumpSeq + 1 }

/-! ### The reset of the device (R395, R413) -/

/-- The inputs that hold the device in reset are inactive (R430, R490). -/
def Pins.released (p : Pins) : Bool := p.pwrgd && p.perstN && !p.trip

/-- The pins over a device reset: the core rails go off (R487). -/
def Pins.afterReset (p : Pins) : Pins :=
  { p with vcoreEn := [false, false, false, false], atSet := [false, false, false, false] }

/-- The by-pass pairs that stood open begin to close (R500). -/
def Links.afterReset (l : Links) : Links :=
  { Links.reset with
    pairs := l.pairs
    moving := ((List.range 4).filter fun p => bit l.pairs p).map fun p => (p, false) }

/-- Everything at its reset value but what no reset clears: fuses and journals, `LC_RESULT` (R395, R453), pins and the sides of the model
that are not the device's. -/
def State.cleared (s : State) : State :=
  { State.reset with
    pending := s.pending, fresh := s.fresh, host := s.host, out := s.out, msix := s.msix, readData := s.readData
    fuses := s.fuses, j0 := s.j0, j1 := s.j1, pins := s.pins.afterReset, links := s.links.afterReset
    boot := { Boot.reset with lcResult := s.boot.lcResult } }

/-- A lifecycle bit reads as burnt (R439). -/
def burnt (l : List Bool) : Bool := decide (2 ≤ (l.filter id).length)

/-- The lifecycle state of the fuses (R440): 0 Green, 1 Ripe, 2 Opened, 3 Spent. -/
def Fuses.state (f : Fuses) : Nat := if burnt f.spent then 3 else if burnt f.opened then 2 else if burnt f.ripe then 1 else 0

/-- Burn all three copies of the bit of a state. -/
def Fuses.burn (f : Fuses) (k : Nat) : Fuses :=
  let all := [true, true, true]
  if k = 1 then { f with ripe := all } else if k = 2 then { f with opened := all } else if k = 3 then { f with spent := all } else f

/-- The third copy of a bit with two burnt is burnt (R454). -/
def Fuses.mended (f : Fuses) : Fuses :=
  let fix := fun (l : List Bool) => if burnt l then [true, true, true] else l
  { f with ripe := fix f.ripe, opened := fix f.opened, spent := fix f.spent }

/-- The intent record without a matching done record, if there is one. -/
def openIntent (l : List JData) : Option Nat :=
  l.foldl (fun x d => match d with
    | .intent k => some k
    | .done _ => none
    | _ => x) none

/-- The repair of R454: an interrupted transition is completed. -/
def State.repair (s : State) : State :=
  match openIntent s.jdata with
  | some k => (s.onFuses fun f => (f.burn k).mended).journalAdd (.done k)
  | none => s.onFuses Fuses.mended

/-- `BOOT_COUNT` of the last boot record (R456). -/
def bootsIn (l : List JData) : Nat :=
  l.foldl (fun n d => match d with
    | .boot c _ _ => c
    | _ => n) 0

/-- Boot begins at stage 1 when nothing holds the device in reset: the journal is repaired, the lifecycle state is read once, both boot
ROMs start (R440, R441, R454). -/
def State.release (s : State) : State :=
  if !s.pins.released then s else
  let t := s.repair
  let t := t.onBoot fun b => { b with stage := 1, count := bootsIn t.jdata }
  let t := t.onKeys fun v => { v with lifecycle := t.fuses.state }
  (t.onCplx 0 fun c => { c with state := .booting, alive := true }).onCplx 1 fun c => { c with state := .booting, alive := true }

/-- A device reset with its dump (R405, R413). -/
def State.deviceReset (s : State) (cause : Nat) : State := (s.dump cause 0xF 0 s.now false).cleared.release

/-! ### Starting a domain reset (R396, R398, R399) -/

/-- The vats with a region, alternate store, block map or residency table on a stack. -/
def State.stackVats (s : State) (q : Nat) : List Nat :=
  (s.vats.filter fun v => (s.vatFrames v.1).any fun f => decide (f / stackFrames = q)).map (·.1)

/-- Memory objects with a frame on a stack are Lost. -/
def State.loseObjects (s : State) (q : Nat) : State :=
  s.onObjs fun o => { o with objs := mapAll o.objs fun _ m =>
    if (m.hbmList.any fun f => decide (f / stackFrames = q)) = true then { m with lost := true } else m }

/-- A command moves bytes of a stack or of a CXL port. -/
def State.cmdIn (s : State) (kind index : Nat) (c : Cmd) : Bool :=
  c.tiles.any fun t => t.pieces.any fun p =>
    if kind = 5 then decide (p.1 < 2 ^ 40 ∧ p.1 / 2 ^ 36 = index)
    else decide (2 ^ 48 ≤ p.1 ∧ p.1 < 2 ^ 49) && (s.extentAt ((p.1 - 2 ^ 48) / frameBytes)).any fun x => decide (x.port = index)

/-- Commands that wait on transactions of the host port. -/
def hostCmd (c : Cmd) : Bool := decide (3 ≤ cmdOp c.bytes ∧ cmdOp c.bytes ≤ 6)

/-- Commands that a test picks and that have not finished complete with 0x0730. -/
def State.giveUp (s : State) (p : Cmd → Bool) : State :=
  (s.objs.cmds.filter fun c => decide (c.phase ≠ .done) && p c).foldl (fun t c => t.finish c.ref 0x0730) s

/-- What the fence of a domain brings with it (R399). -/
def State.fenceEffect (s : State) (kind index : Nat) : State :=
  if kind = 4 then
    if (s.port index).state = .active ∨ (s.port index).state = .fenced then s.portDown index
    else s.onPort index fun p => p.enter .down s.now
  else if kind = 5 then
    (s.stackVats index).foldl (fun t v => t.sendDown v 0 t.links.node t.now) (s.loseObjects index)
  else if kind = 6 then
    let t := (s.onCxlPort index fun p => { p with state := 3, width := 0, rate := 0 }).loseExtents fun e => decide (e.port = index)
    (List.range 8).foldl (fun t d => t.onCxlDev (8 * index + d) fun x => { x with state := 0, kind := 0, serial := 0, dcBytes := 0 }) t
  else if kind = 7 then
    let t := s.objs.queues.foldl (fun t q => t.queueError (q.1 / 16) (q.1 % 16)) s
    (t.giveUp hostCmd).onHp fun h => { h with
      resets := sat32 h.resets 1, rate := 0, width := 0, flit := false, below := false, numVfs := 0, funcs := [] }
  else s

/-- A domain reset starts (R396): kinds 5 of stacks 0 and 8 and 0xF are resets of the device. -/
def State.startReset (s : State) (kind index cause : Nat) : State :=
  if kind = 0xF ∨ (kind = 5 ∧ (index = 0 ∨ index = 8)) then s.deviceReset cause
  else if s.fenced kind index then s
  else if kind = 7 then
    let t := s.fenceEffect 7 0
    t.beginReset 7 0 cause
  else (s.beginReset kind index cause).fenceEffect kind index

/-! ### Requests (R397) -/

/-- A kind and index of R395. -/
def domainOk (kind index : Nat) : Bool :=
  (decide (kind = 1) && coreOk index) || decide (kind = 2 ∧ index < 32) || decide (kind = 3 ∧ index < 2) || decide (kind = 4 ∧ index < 8) ||
    decide (kind = 5 ∧ index < 16) || decide (kind = 6 ∧ index < 4) || decide (kind = 7 ∧ index = 0)

/-- A vat is Running. -/
def State.runs (s : State) (vat : Nat) : Bool := (s.vat? vat).any fun v => decide (v.state = .running)

/-- The device refuses the request. -/
def State.resetRefused (s : State) (kind index : Nat) : Bool :=
  !domainOk kind index ||
    (decide (kind = 4) && (s.port index).vats.any fun e => s.runs e.1) ||
    (decide (kind = 5) && (s.stackVats index).any s.runs) ||
    (decide (kind = 3) && (decide ((s.cplx (1 - index)).state = .lost) || (s.cplx 0).split || (s.cplx 1).split))

/-- A request of a domain reset; one of the device is never refused, and any other needs a complex (R357, R397). -/
def State.requestReset (s : State) (kind index : Nat) : State :=
  let t := s.onFlt fun f => { f with reqKind := kind % 16, reqIndex := index % 65536 }
  if kind = 0xF then t.deviceReset 0x0730
  else if s.cc.both then t
  else if s.resetRefused kind index then t.onFlt fun f => { f with refused := true }
  else if kind = 3 then (t.failComplex index 0x07).startReset 3 index 0x0730
  else t.startReset kind index 0x0730

/-- DOMAIN_RESET_REQUEST (R397). -/
def execDomainResetRequest (kind index : Nat) (s : State) : Host.Outcome State Fault Refusal :=
  .next (if s.barOpen 0 then s.requestReset kind index else s)

/-- DEVICE_RESET_REQUEST (R397). -/
def execDeviceResetRequest (s : State) : Host.Outcome State Fault Refusal :=
  .next (if s.barOpen 0 then s.requestReset 0xF s.flt.reqIndex else s)

/-- SPLIT_DEVICE_RESET (R359, R398). -/
def State.regSplitDeviceReset (s : State) (k : Nat) : State :=
  if k < 2 then if (s.cplx k).split then s.deviceReset 0x0730 else s.ccRefuse else s

/-- SPLIT_DEVICE_RESET through BAR0 (R359, R360). -/
def execSplitDeviceReset (k : Nat) (s : State) : Host.Outcome State Fault Refusal :=
  .next (s.groupWrite k fun t => t.regSplitDeviceReset k)

/-! ### Draining, collecting, resetting (R396, R405) -/

def State.onReset (s : State) (kind index : Nat) (f : DomReset → DomReset) : State :=
  s.onFlt fun u => { u with resets := u.resets.map fun r => if r.kind = kind ∧ r.index = index then f r else r }

def State.resetOf (s : State) (kind index : Nat) : Option DomReset :=
  s.flt.resets.find? fun r => decide (r.kind = kind ∧ r.index = index)

/-- The arbiters of a domain. -/
def domainArbs (kind index : Nat) : List Nat :=
  if kind = 5 then (List.range 32).map (index * 32 + ·)
  else if kind = 6 then [512 + 2 * index, 513 + 2 * index]
  else if kind = 7 then [520, 521] else []

/-- What waits at an arbiter of a fenced domain is answered; nothing waits there any more. -/
def State.emptyArb (s : State) (a : Nat) : State :=
  ((s.arb a).queue.map (·.work)).eraseDups.foldl (fun t w => if w.ref.isSome then t else t.workActs w)
    (s.onQos fun q => { q with arbs := mapDel q.arbs a })

/-- Requests are outstanding in a domain. -/
def State.outstanding (s : State) (kind index : Nat) : Bool :=
  (domainArbs kind index).any (fun a => !(s.arb a).queue.isEmpty) ||
    (decide (kind = 5 ∨ kind = 6) && s.objs.cmds.any fun c => decide (c.phase ≠ .done) && s.cmdIn kind index c)

/-- What is outstanding in a domain is answered with 0x0730. -/
def State.drain (s : State) (kind index : Nat) : State :=
  let t := if kind = 5 ∨ kind = 6 then s.giveUp (s.cmdIn kind index) else if kind = 7 then s.giveUp hostCmd else s
  ((domainArbs kind index).foldl (fun t a => t.emptyArb a) t).onReset kind index fun r => { r with drained := true }

/-- DOMAIN_DRAIN_TIMEOUT (R396). -/
def execDomainDrainTimeout (kind index : Nat) (s : State) : Host.Outcome State Fault Refusal :=
  .next (match s.resetOf kind index with
    | some r => if r.fence + 1250 ≤ s.now ∧ !r.drained then s.drain kind index else s
    | none => s)

/-- A dump is due before a reset of this kind. -/
def dumpKind (kind : Nat) : Bool := decide (kind = 1 ∨ kind = 2 ∨ kind = 3 ∨ kind = 5)

/-- The Ticks collection may take. -/
def dumpTicks (kind : Nat) : Nat := if kind = 1 ∨ kind = 2 then 12500 else 125000

/-- DUMP_LIMIT (R405). -/
def execDumpLimit (kind index : Nat) (s : State) : Host.Outcome State Fault Refusal :=
  .next (match s.resetOf kind index with
    | some r =>
      if dumpKind kind ∧ !r.dumped ∧ r.fence + dumpTicks kind ≤ s.now then
        (s.dump r.cause kind index r.fence true).onReset kind index fun r => { r with dumped := true }
      else s
    | none => s)

/-- A core that has been reset: cleared, its program store loaded again (R86, R399); one of a vat stays fenced until the boundary. -/
def Core.rebooted (c : Core) (last : Nat) : Core := c.clear (if c.vat.isSome then .fenced else .spare) last

/-- The routers of a cluster: 17 at core positions, 9 at the ingress. -/
def routersOfCluster (k : Nat) : List Nat :=
  (List.range 17).map (k * 32 + ·) ++ (List.range 9).map (1024 + k / 8 * 256 + 0x48 + 9 * (k % 8) + ·)

/-- A router with its queues empty and its tables loaded again; a faulted one never returns (R411). -/
def Router.reloaded (r : Router) : Router := { Router.empty with faulted := r.faulted }

/-- The contents of a stack are cleared (R395). -/
def State.clearStack (s : State) (q : Nat) : State :=
  s.onMem fun m => { m.zero (hbmDpa q 0) stackBytes with stackSet := mapDel m.stackSet q }

/-- The domain is reset and brought back (R399). -/
def State.resetDomain (s : State) (kind index : Nat) : State :=
  if kind = 1 then s.onCore index fun c => c.rebooted s.clearUntil
  else if kind = 2 then
    let t := (domainCores 2 index).foldl (fun t c => t.onCore c fun u => u.rebooted s.clearUntil) s
    (routersOfCluster index).foldl (fun t r => t.onRouter r Router.reloaded) t
  else if kind = 3 then s.complexBack index
  else if kind = 4 then s.onPort index fun p => { Port.off.startTrain s.now with
    vats := p.vats, feCe := p.feCe, feUe := p.feUe, authFail := p.authFail, voidIns := p.voidIns, discards := p.discards
    trains := sat32 p.trains 1 }
  else if kind = 5 then s.clearStack index
  else if kind = 6 then s.onCxlPort index fun p => if p.enable then { p with state := 1 } else p
  else if kind = 7 then s.hostTrained false
  else s

/-- The conditions under which a complex comes back (R356): its peer serves and has taken over. -/
def State.peerReady (s : State) (kind index : Nat) : Bool :=
  decide (kind ≠ 3) || ((s.cplx (1 - index)).serves && (s.cplx (1 - index)).peerGone && (s.cplx (1 - index)).taking.isNone)

/-- Host requests may issue again: held writes, pending messages and waiting fault batches go out (R227, R399, R466). -/
def State.hostBack (s : State) : State :=
  let t := (s.hp.funcs.map (·.1)).foldl (fun t f => t.sendPending f) s.postHeld
  t.writeBatches t.xl.closed.length

/-- DOMAIN_RESET_DONE (R396): nothing is outstanding any more; the dump is written, the domain is reset and the fence is lifted. -/
def State.finishReset (s : State) (r : DomReset) : State :=
  let t := if dumpKind r.kind && !r.dumped then s.dump r.cause r.kind r.index r.fence false else s
  let t := t.resetDomain r.kind r.index
  let t := t.onFlt fun f => { f with resets := f.resets.filter fun x => decide (x ≠ r) }
  if r.kind = 7 then t.hostBack else t

def execDomainResetDone (kind index : Nat) (s : State) : Host.Outcome State Fault Refusal :=
  .next (match s.resetOf kind index with
    | some r => if !s.outstanding kind index ∧ s.peerReady kind index then s.finishReset r else s
    | none => s)

/-! ### Hangs (R401, R402) -/

/-- STEP_HANG (R401): the boundary is unmarked at S + 20 L. -/
def execStepHang (vat : Nat) (s : State) : Host.Outcome State Fault Refusal :=
  .next (if (s.role vat).hangAt.any fun t => decide (t ≤ s.now) then
      ((s.onFlt fun f => { f with hangs := sat32 f.hangs 1 }).note 0x00 "STEP_HANG" vat).deviceReset 0x0610
    else s)

/-- The limit of a command in Ticks; none for CAVE_RELEASE. -/
def State.cmdLimit (s : State) (c : Cmd) : Option Nat :=
  let op := cmdOp c.bytes
  if op = 0x27 then none
  else if op ≤ 0x18 then some 12500000
  else if op = 0x31 ∨ op = 0x32 ∨ op = 0x33 then some 3750000000
  else if op = 0x37 then some 1250000000
  else if op = 0x38 then some (((s.vat? (cmdVatId c.bytes)).elim 0 fun v => v.desc.limit) + 125000000)
  else some 125000000

/-- The vat of a command waits for a remould. -/
def State.cmdPaused (s : State) (c : Cmd) : Bool :=
  s.vats.any fun v => cmdOnVat c.bytes v.1 && decide (v.2.state = .remoulding)

/-- The command has hung. -/
def State.cmdHung (s : State) (c : Cmd) : Bool :=
  decide (c.phase ≠ .held ∧ c.phase ≠ .done) && !s.cmdPaused c && (s.cmdLimit c).any fun n => decide (c.since + c.excused + n < s.now)

/-- The domain of an arbiter. -/
def arbDomain (a : Nat) : Nat × Nat := if a < 512 then (5, a / 32) else if a < 520 then (6, (a - 512) / 2) else (7, 0)

/-- The oldest request of a command at an arbiter: (Tick, arbiter). -/
def State.oldestReq (s : State) (r : CmdRef) : Option (Nat × Nat) :=
  (s.qos.arbs.flatMap fun a => (a.2.queue.filter fun x => decide (x.ref = some r)).map fun x => (x.headTick, a.1)).foldl
    (fun b x => match b with
      | none => some x
      | some y => if x.1 < y.1 then some x else some y) none

/-- The domain a hung command's reset falls on (R402). -/
def State.culprit (s : State) (r : CmdRef) : Nat × Nat :=
  match s.oldestReq r with
  | some (_, a) => arbDomain a
  | none => if r.ctx = 0 then (3, s.senior) else (7, 0)

/-- COMMAND_HANG (R402, R405). -/
def State.hang (s : State) (c : Cmd) : State :=
  let d := s.culprit c.ref
  let t := (s.finish c.ref 0x0611).onFlt fun f => { f with cmdHangs := sat32 f.cmdHangs 1 }
  let t := t.dump 0x0611 d.1 d.2 t.now false
  if d.1 = 3 then (t.failComplex d.2 0x07).onFlt fun f => { f with lastCause := 0x0611, lastTick := t.now }
  else (t.startReset d.1 d.2 0x0611).onReset d.1 d.2 fun r => { r with dumped := true }

def execCommandHang (r : CmdRef) (s : State) : Host.Outcome State Fault Refusal :=
  .next (match s.cmd? r with
    | some c => if s.cmdHung c then s.hang c else s
    | none => s)

/-! ### Routers (R411) -/

/-- A router of a cluster: at a core position, or one of its ingress routers. -/
def clusterOf (r : Nat) : Option Nat :=
  if r < 1024 then some (r / 32)
  else if 0x48 ≤ r % 256 ∧ r % 256 < 0x90 then some (r / 256 % 4 * 8 + (r % 256 - 0x48) / 9) else none

/-- The vats whose tables use a router. -/
def State.routerVats (s : State) (r : Nat) : List Nat :=
  (s.vats.filter fun v => match v.2.mould with
    | some _ => v.2.placed.any fun x => (mRouters x.1 x.2.1).any fun q => decide (physRouter x.2.2 (mPkg x.1 x.2.1) q = r)
    | none => false).map (·.1)

/-- A vat holds an alternate of kind 2 for a core-position router as the spare. -/
def State.altFor (s : State) (vat r : Nat) : Bool :=
  (s.vat? vat).any fun v => v.mould.any fun m => (mRouters m v.lpkg).any fun q =>
    decide (q < 1024 ∧ physRouter v.place (mPkg m v.lpkg) q = r) && (mRouterSec m v.lpkg q 2 (r % 32)).isSome

/-- The recovery of a router fault for a vat: 1 an alternate, 2 a package move, 3 none. -/
def State.routerPlan (s : State) (vat r : Nat) : Nat :=
  if r < 1024 ∧ s.altFor vat r ∧ s.retiredIn (r / 32) = [] then 1
  else if (s.vat? vat).any fun v => !v.desc.spares.isEmpty then 2 else 3

/-- A router fault: journalled, out of service, logged, recovered from. -/
def State.routerFault (s : State) (r : Nat) : State :=
  let vs := s.routerVats r
  let plans := vs.map fun v => (v, s.routerPlan v r)
  let t := (s.journalAdd (.retireRouter r)).onRouter r fun u => { u with faulted := true }
  let t := plans.foldl (fun t p => t.faultLog p.1 (logRecord 0 t.links.node 0 r p.2 (t.stepTick p.1) 0 0 5)) t
  plans.foldl (fun t p =>
    if p.2 = 1 then t.retireCore r 0 else t.sendDown p.1 0 t.links.node t.now) t

/-- ROUTER_PARITY_ERROR (R398, R411). -/
def State.routerParity (s : State) (r : Nat) : State :=
  let t := s.journalAdd (.routerError r s.now)
  match clusterOf r with
  | some k => if t.routerErrors r ≤ 1 then t.startReset 2 k 0x0730 else t.routerFault r
  | none => t.routerFault r

def execRouterParityError (r : Nat) (s : State) : Host.Outcome State Fault Refusal :=
  .next (if routerOk r ∧ !(s.router r).faulted ∧ 7 ≤ s.boot.stage then s.routerParity r else s)

/-- HBM_PHY_TRAINING_LOSS (R398). -/
def execHbmPhyTrainingLoss (q : Nat) (s : State) : Host.Outcome State Fault Refusal :=
  .next (if q < 16 ∧ !s.mem.hbmOut.contains q ∧ 5 ≤ s.boot.stage then s.startReset 5 q 0x0730 else s)

/-- CXL_LINK_DOWN (R398): a link down, or a fatal error. -/
def execCxlLinkDown (p : Nat) (s : State) : Host.Outcome State Fault Refusal :=
  .next (if p < 4 ∧ (s.cxlPort p).state = 2 then s.startReset 6 p 0x0730 else s)

/-! ### Tamper (R389, R390) -/

/-- A tamper event: the dump of the reset is written, the vaults are wiped, the event is journalled, the device is reset. -/
def State.tamper (s : State) (cause : Nat) : State :=
  (((s.dump 0x0730 0xF 0 s.now false).wipeKeys).journalAdd (.tamper cause s.now)).cleared.release

/-- TAMPER_PIN (R492). -/
def execTamperPin (lowNs : Nat) (s : State) : Host.Outcome State Fault Refusal :=
  .next (if s.pins.armed ∧ 1000 ≤ lowNs then s.tamper 1 else s)

/-- The rails watched, 0 VCC_CTL, 1 VIO_1V8, 2 to 5 VCORE_C0 to C3, 6 to 9 VBASE_B0 to B3, with their limits in mV (R493). -/
def railLimits (rail : Nat) : Option (Nat × Nat) :=
  if rail = 0 then some (720, 900) else if rail = 1 then some (1600, 2000)
  else if rail < 6 then some (500, 1000) else if rail < 10 then some (680, 830) else none

/-- A rail is watched now. -/
def Pins.watched (p : Pins) (rail : Nat) : Bool :=
  p.armed && (!decide (2 ≤ rail ∧ rail < 6) || (nth false p.vcoreEn (rail - 2) && nth false p.atSet (rail - 2)))

/-- SUPPLY_TAMPER (R493). -/
def execSupplyTamper (rail milliVolt ns : Nat) (s : State) : Host.Outcome State Fault Refusal :=
  .next (match railLimits rail with
    | some (lo, hi) => if s.pins.watched rail ∧ (milliVolt < lo ∨ hi < milliVolt) ∧ 1000 ≤ ns then s.tamper 2 else s
    | none => s)

/-- TICK_GLITCH (R390): a pulse under 20 ns, or rising edges under 60 ns apart (R497). -/
def execTickGlitch (pulseNs gapNs : Nat) (s : State) : Host.Outcome State Fault Refusal :=
  .next (if s.pins.armed ∧ (pulseNs < 20 ∨ gapNs < 60) then s.tamper 3 else s)

/-- COLD_TAMPER (R390): a die below −20 °C. -/
def execColdTamper (deg : Int) (s : State) : Host.Outcome State Fault Refusal :=
  .next (if s.pins.armed ∧ deg < -20 then s.tamper 4 else s)

end Sys2Proof.Machine
end

