-- ==== Sys2Proof/Machine/Power.lean ====
section
/-! DEFINITION. Power, clocks and thermal control (16): the estimate and its calibration (R417 to R422), the cap and gear requests (R425
to R429), thermal limits (R430), energy attribution (R387, R431, R432), Cellar (R433 to R435), the commit of the PWR block. -/

namespace Sys2Proof.Machine
open Sys2Proof

/-! ### Temperatures (R430), in units of 0.125 °C -/

/-- The largest number of a list of readings, if any. -/
def maxInt? : List Int → Option Int
  | [] => none
  | a :: l => some (l.foldl (fun x y => if x < y then y else x) a)

/-- `TEMP_MAX`; 0 before any reading (R436). -/
def tempMax (t : Temps) : Int := (maxInt? (t.die ++ t.base ++ t.stack)).getD 0

/-- The hottest compute die. -/
def tempDie (t : Temps) : Int := (maxInt? t.die).getD 0

/-- `HOT_SENSOR`: the lowest encoding among equal readings. -/
def tempSensor (t : Temps) : Nat :=
  match indexWhere (fun x => decide (x = (tempMax t))) t.die with
  | some i => i
  | none => match indexWhere (fun x => decide (x = (tempMax t))) t.base with
    | some i => 0x40 + i
    | none => match indexWhere (fun x => decide (x = (tempMax t))) t.stack with
      | some i => 0x80 + i
      | none => 0

def tempTrip (t : Temps) : Bool := t.die.any fun x => decide (115 * 8 ≤ x)
def tempHot (t : Temps) : Bool := (t.die.any fun x => decide (105 * 8 ≤ x)) || t.stack.any fun x => decide (100 * 8 ≤ x)
/-- Every reading is at least 5 °C below the Hot threshold. -/
def tempCool (t : Temps) : Bool := (t.die.all fun x => decide (x ≤ 100 * 8)) && t.stack.all fun x => decide (x ≤ 95 * 8)
def tempOver (t : Temps) (c : Nat) : Bool := decide (8 * (c : Int) ≤ (tempMax t))

/-! ### Calibration records (R419 to R422) -/

/-- The class of a dynamic term in W (R420). -/
def loadClass (p : Frac) : Nat := if Frac.lt p (Frac.nat 150) then 0 else if Frac.lt p (Frac.nat 1500) then 1 else 2

/-- The 64 bytes of a record (R419). -/
def CalRec.bytes (r : CalRec) : List Byte :=
  leBytes 2 0x1000 ++ leBytes 1 r.tag ++ leBytes 1 r.gear ++ leBytes 2 r.vcal ++ zeros 2 ++ leBytes 8 r.tick ++ leBytes 2 r.statDw ++
    leBytes 2 r.statTc ++ zeros 4 ++ ((List.range 8).flatMap fun i => leBytes 4 (nth 0 r.weight i)) ++ zeros 8

/-- A record read back from its bytes. -/
def calOf (b : List Byte) : CalRec where
  tag := field b 2 1 % 4
  gear := field b 3 1
  vcal := field b 4 2
  tick := field b 8 8
  statDw := field b 0x10 2
  statTc := field b 0x12 2
  weight := (List.range 8).map fun i => field b (0x18 + 4 * i) 4

/-- The record of the nearest gear at or above one. -/
def calAbove (m : SMap CalRec) (g : Nat) : Option CalRec := (m.find? fun p => decide (g ≤ p.1)).map (·.2)

/-- The record in force for a gear (R420): its own, the nearest higher one read as Idle, or with no record at all 900 W and the largest
weights, its tc and VCAL free values. -/
def State.calFor (s : State) (g : Nat) : CalRec :=
  match mapFind s.power.cals g with
  | some r => r
  | none => match calAbove s.power.cals g with
    | some r => { r with tag := 0 }
    | none => ⟨0, g, 1 + Config.freeNat s.fresh % 65535, 0, 9000, Config.freeNat (s.fresh + 1) % 65536, List.replicate 8 (2 ^ 32 - 1)⟩

/-- The setpoint in force in mV. -/
def State.milliVolt (s : State) : Nat := (mapFind s.power.setpoints 0).getD (s.setpoint s.tick.gear)

/-- (V / Vcal)^2. -/
def State.vScale (s : State) (r : CalRec) : Frac := Frac.of ((s.milliVolt * s.milliVolt : Nat) : Int) (max 1 (r.vcal * r.vcal))

/-- Σ w[i] n[i] in pJ. -/
def CalRec.picojoules (r : CalRec) (counts : List Nat) : Nat := ((List.range 8).map fun i => nth 0 r.weight i * nth 0 counts i).sum

/-- The static term in W: 0.1 W units, tc in 2^−16 per °C, T in eighths of a degree (R417). -/
def CalRec.staticW (r : CalRec) (t : Int) : Frac :=
  Frac.mul (Frac.of (r.statDw : Int) 10) (Frac.add (Frac.nat 1) (Frac.of ((r.statTc : Int) * (t - 480)) (8 * 65536)))

/-- The dynamic term in W over 2.56 µs, scaled to the setpoint. -/
def State.dynamicW (s : State) (r : CalRec) (counts : List Nat) : Frac :=
  Frac.mul (s.vScale r) (Frac.of (r.picojoules counts : Int) 2560000)

/-- The journal record and the table entry of a new calibration record. -/
def State.putCal (s : State) (r : CalRec) : State :=
  (s.onPower fun p => { p with cals := mapPut p.cals r.gear r }).journalAdd (.cal r.bytes)

/-! ### Energy (R431) -/

/-- Credit energy in µJ to a context: the window of its tenant reading, and its energy unless it is confidential (R388, R432). -/
def State.creditCtx (s : State) (c : Nat) (e : Frac) : State :=
  (s.onPower fun p => { p with window := mapSet Frac.zero p.window c (Frac.add (mapGet Frac.zero p.window c) e) }).onObjs fun o =>
    { o with ctxs := mapModify o.ctxs c fun x => if x.conf then x else { x with energy := Frac.add x.energy e } }

/-- Weight of the vat numbered `i` of `n` that run a step, in 2^16ths: all of it for one, else a free value (DESIGN CHOICE, log entry 42). -/
def State.vatShare (s : State) (n i : Nat) : Nat := if n = 1 then 65536 else Config.freeNat (s.fresh + 2 + i) % 65536

/-- The homed lanes of a step, each with its context. -/
def Vat.laneCtxs (v : Vat) (r : StepRun) : List Nat :=
  r.table.lanes.filterMap fun l =>
    if l.session / 2 ^ 18 = v.lpkg then some (v.sess (l.session % 2 ^ 18)).ctx else none

/-- Credit the lanes homed here of a vat with the dynamic energy `e` of its step (R431). -/
def State.creditVat (s : State) (v : Vat) (r : StepRun) (e : Frac) : State :=
  let n := (filledLanes r.table).length
  if n = 0 then s else
  let share := (Frac.mul e (Frac.nat v.packages)).divNat n
  (v.laneCtxs r).foldl (fun t c => t.creditCtx c share) s

/-- Attribute the energy of a period: whey bursts to their contexts, what is left of the dynamic term to lanes, the rest to nothing. -/
def State.attributeEnergy (s : State) (r : CalRec) (total dyn : Frac) : State :=
  let micro := fun (pj : Nat) => Frac.mul (s.vScale r) (Frac.of (pj : Int) 1000000)
  let whey := s.power.whey.map fun w => (w.1, micro (nth 0 r.weight 4 * w.2.1 + nth 0 r.weight 6 * w.2.2))
  let wheyE := Frac.sum (whey.map (·.2))
  let stepE := Frac.sub (Frac.mul dyn (Frac.of 256 100)) wheyE
  let runs := s.vats.filterMap fun v => v.2.step.map fun x => (v.2, x)
  let ws := (List.range runs.length).map (s.vatShare runs.length)
  let all := max 1 ws.sum
  let t := whey.foldl (fun t w => t.creditCtx w.1 w.2) s
  let parts := (runs.zip ws).map fun p => (p.1, (Frac.mul stepE (Frac.nat p.2)).divNat all)
  let t := parts.foldl (fun t p => t.creditVat p.1.1 p.1.2 p.2) t
  let used := Frac.add wheyE (Frac.sum ((parts.filter fun p => !p.1.2.table.lanes.isEmpty).map (·.2)))
  t.onPower fun p => { p with
    energy := Frac.add p.energy (Frac.mul total (Frac.of 256 100))
    unattr := Frac.add p.unattr (Frac.sub (Frac.mul total (Frac.of 256 100)) used)
    whey := [] }

/-! ### POWER_ESTIMATE -/

/-- The guard band over one period of a class (R422). -/
def State.guard (s : State) (cls tag : Nat) : State :=
  if tag < cls then
    let t := if s.power.refit then s else s.note 0x01 "CAL_STALE" tag
    t.onPower fun p => { p with guardOn := true, stale := true, refit := true }
  else if s.power.refit then s
  else s.onPower fun p => { p with guardOn := false, stale := false }

/-- The lowest class of the frame so far, while every period of it lies above the tag (R422). -/
def frameClass (due : Bool) (first : Bool) (low : Option Nat) (cls tag : Nat) : Option Nat :=
  if cls ≤ tag then none
  else if first then (if due then some cls else none)
  else low.map fun l => min l cls

/-- The estimate of a period (R417), of its class, guard band and energies. -/
def State.estimate (s : State) (counts : List Nat) : State :=
  let r := s.calFor s.tick.gear
  let dyn := s.dynamicW r counts
  let cls := loadClass dyn
  let due := s.power.refit
  let t := s.guard cls r.tag
  let p := Frac.add (Frac.mul (s.vScale r) (r.staticW (tempDie s.power.temps))) dyn
  let p := if t.power.guardOn then Frac.mul p (Frac.of 112 100) else p
  let first := decide (s.now % 65536 = 32)
  let t := t.onPower fun u => { u with
    est := p, dyn := dyn, cls := cls
    ests := (u.ests ++ [p]).drop (u.ests.length + 1 - 1024)
    frameLow := frameClass due first u.frameLow cls r.tag }
  (t.attributeEnergy r p dyn).draw (2 + s.vats.length)

/-- POWER_ESTIMATE (R417): a period of 32 Ticks has ended. -/
def execPowerEstimate (counts : List Nat) (s : State) : Host.Outcome State Fault Refusal :=
  .next (if s.now % 32 = 0 then s.estimate counts else s)

/-- A trim of a gear returns to 0 (R424). -/
def State.clearTrim (s : State) (g : Nat) : State :=
  if mapGet 0 s.power.trims g = 0 then s else
  let t := s.onPower fun p => { p with trims := mapSet 0 p.trims g 0 }
  (t.journalAdd (.trim (vtrim t.power.trims))).supply

/-- RECALIBRATION (R422): a frame qualified; the complex fits a record. -/
def execRecalibration (statDw statTc : Nat) (weights : List Nat) (s : State) : Host.Outcome State Fault Refusal :=
  .next (match s.power.frameLow with
    | some l =>
      if s.now % 65536 = 0 ∧ s.power.refit then
        let r : CalRec := ⟨l, s.tick.gear, s.milliVolt, s.now, statDw % 65536, statTc % 65536, (weights.take 8).map (· % 2 ^ 32)⟩
        let t := (s.putCal r).onPower fun p => { p with refit := false, frameLow := none }
        if l = 2 then t.clearTrim s.tick.gear else t
      else s
    | none => s)

/-! ### The cap and gear requests (R425 to R429) -/

/-- A: the average of the last 1,024 estimates, of those there are (DEDUCED, log entry 43). -/
def Power.average (p : Power) : Frac := (Frac.sum p.ests).divNat p.ests.length

/-- The next lower gear the group can run. -/
def State.lowerGear (s : State) : Option Nat := gearList.find? fun g => decide (g < s.tick.gear) && s.groupHas g

/-- The next higher gear the group can run, up to a target. -/
def State.higherGear (s : State) (target : Nat) : Option Nat :=
  gearList.reverse.find? fun g => decide (s.tick.gear < g ∧ g ≤ target) && s.groupHas g

/-- The target gear (R428). -/
def State.targetGear (s : State) : Nat :=
  let c := s.power.active
  if c.boost ∧ !c.fixed ∧ s.groupHas 72 ∧ (tempMax s.power.temps) + 80 ≤ 8 * (s.power.throttleC : Int) then 72 else 64

/-- The rest fraction after an update (R425, R427). -/
def State.restUpdate (s : State) (a : Frac) : Nat :=
  let p := s.power
  let f := if p.halve then p.rest / 2 else p.rest
  let cap := Frac.nat p.active.cap
  let fmax := if p.active.fixed ∨ s.lowerGear = none then 60 else p.active.restMax
  if Frac.lt cap a || tempOver p.temps p.throttleC then
    min (f + max 1 ((Frac.mul (Frac.sub a cap) (Frac.nat 64)).divNat p.active.cap).ceil) fmax
  else if Frac.lt a (Frac.mul cap (Frac.of 97 100)) && decide (0 < f) then f - 1 else f

/-- f changed: each head of a vat with a member here is told (R426). -/
def State.sendRest (s : State) : State :=
  s.vats.foldl (fun t v => if v.2.bound then t.control v.2 0x08 (t.lpkgNode v.2 v.2.headLpkg) t.now t.power.rest [] else t) s

/-- A request that differs from the one standing is sent. -/
def State.askGear (s : State) (m : GearMsg) : State := if s.power.standing = some m then s else s.requestGear m

/-- The request an update makes, if any (R427, R428, R429); leaving fixed-frequency mode restates the gear in force without its bit (log
entry 44). -/
def State.updateGear (s : State) : State :=
  let p := s.power
  let req := fun (g : Nat) => s.askGear ⟨g, false, false, false⟩
  if p.therm = 2 ∨ !p.firstCal then s
  else if p.active.fixed then s.askGear ⟨p.active.gear, true, false, false⟩
  else if p.standing.any (·.fixed) then req s.tick.gear
  else match s.lowerGear with
    | some g =>
      if 8 ≤ p.atMax ∨ p.wantLower ∨ s.targetGear < s.tick.gear then
        (req g).onPower fun p => { p with atMax := 0, wantLower := false }
      else if 16 ≤ p.atZero then
        match s.higherGear s.targetGear with
        | some g => (req g).onPower fun p => { p with atZero := 0 }
        | none => s
      else s
    | none =>
      if 16 ≤ p.atZero then
        match s.higherGear s.targetGear with
        | some g => (req g).onPower fun p => { p with atZero := 0 }
        | none => s
      else s

/-- The thermal state of readings other than Hot and Trip. -/
def thermOf (t : Temps) (c : Nat) : Nat := if tempOver t c then 1 else 0

/-- Enter a state below Hot. -/
def State.setTherm (s : State) (k : Nat) : State :=
  s.onPower fun p => { p with therm := k, throttled := p.throttled || decide (k = 1 ∧ p.therm ≠ 1) }

/-- The update of the rest fraction (R425). -/
def State.capUpdate (s : State) : State :=
  let s := s.onPower fun p => { p with throttleC := p.active.throttle }
  let s := if s.power.therm < 2 then s.setTherm (thermOf s.power.temps s.power.throttleC) else s
  let a := s.power.average
  let f := s.restUpdate a
  let cap := Frac.nat s.power.active.cap
  let unmet := decide (60 ≤ f) && Frac.lt cap a
  let t := if unmet && decide (s.power.rest < 60) then s.note 0x01 "CAP_UNMET" f else s
  let t := t.onPower fun p => { p with
    rest := f, halve := false, unmet := p.unmet || unmet
    atMax := if f = p.active.restMax ∧ !p.active.fixed then p.atMax + 1 else 0
    atZero := if f = 0 ∧ Frac.lt a (Frac.mul cap (Frac.of 85 100)) then p.atZero + 1 else 0 }
  let t := if f = s.power.rest then t else t.sendRest
  t.updateGear

/-- CAP_UPDATE (R425). -/
def execCapUpdate (s : State) : Host.Outcome State Fault Refusal := .next (if s.now % 32768 = 0 then s.capUpdate else s)

/-! ### Thermal limits (R430) -/

/-- Hot is entered: the flag, the event, a Hot request at once. -/
def State.enterHot (s : State) : State :=
  let t := (s.note 0x01 "HOT" (tempSensor s.power.temps)).onPower fun p => { p with
    therm := 2, hotSeen := true, beforeHot := p.standing, coolFrom := none }
  t.requestGear ⟨32, false, true, false⟩

/-- New readings of a package in service. -/
def State.readTemps (s : State) (t : Temps) : State :=
  let u := s.onPower fun p => { p with temps := t }
  if (tempTrip t) then
    ((u.note 0x01 "TRIP" (tempSensor t)).onPins fun p => { p with trip := true }).deviceReset 0x0730
  else if (tempHot t) then
    if u.power.therm = 2 then u.onPower fun p => { p with coolFrom := none } else u.enterHot
  else if u.power.therm = 2 then
    u.onPower fun p => { p with coolFrom := if (tempCool t) then some (p.coolFrom.getD u.now) else none }
  else u.setTherm (thermOf t u.power.throttleC)

/-- TEMPERATURE_CHANGE (R430): a tripped package is released once every die is below 100 °C. -/
def execTemperatureChange (t : Temps) (s : State) : Host.Outcome State Fault Refusal :=
  .next (if s.pins.trip then
      if t.die.all fun x => decide (x < 100 * 8) then (s.onPins fun p => { p with trip := false }).release else s
    else if s.pins.released then s.readTemps t else s)

/-- HOT_EXIT (R430): every reading has stayed cool for 65,536 Ticks; the Hot request is withdrawn. -/
def execHotExit (s : State) : Host.Outcome State Fault Refusal :=
  .next (if s.power.therm = 2 ∧ s.power.coolFrom.any fun t => decide (t + 65536 ≤ s.now) then
      let t := (s.onPower fun p => { p with coolFrom := none }).setTherm (thermOf s.power.temps s.power.throttleC)
      (t.requestGear (t.power.beforeHot.getD ⟨0, false, false, true⟩)).bringup
    else s)

/-! ### Tenant readings (R387, R432) -/

/-- Partitions that had a session, in its last two steps, in a vat that is being washed. -/
def State.washedParts (s : State) : List Nat :=
  firsts ((s.vats.filter fun v => decide (v.2.state = .washing)).flatMap fun v =>
    (s.role v.1).recent.flatten.map s.partOf)

/-- `TENANT_W` of a window of 100 ms: W rounded down to a multiple of 50. -/
def tenantWatts (e : Frac) : Nat := (e.divNat 100000).floor / 50 * 50

/-- The readings at the end of a window. -/
def State.tenantWindow (s : State) : State :=
  let held := s.washedParts
  let t := s.onPower fun p => { p with
    floorAct := p.floorNext
    tenantW := s.objs.ctxs.foldl (fun m c =>
      if held.contains (s.partOf c.1) then m
      else mapSet 0 m c.1 (min 65535 (tenantWatts (mapGet Frac.zero p.window c.1)))) p.tenantW
    window := [] }
  t.onPower fun p => { p with
    partW := (List.range 16).foldl (fun m k =>
      let sum := ((s.objs.ctxs.filter fun c => decide (s.partOf c.1 = k)).map fun c => mapGet 0 p.tenantW c.1).sum
      mapSet 0 m k (max (mapGet 0 p.floorAct k) sum)) [] }

/-- TENANT_POWER_WINDOW (R387, R432). -/
def execTenantPowerWindow (s : State) : Host.Outcome State Fault Refusal :=
  .next (if s.now % 1250000 = 0 then s.tenantWindow else s)

/-- `PART_W` as it reads: the floor alone during a Wash of a vat that the partition used (R432). -/
def State.partReading (s : State) (k : Nat) : Nat :=
  if s.washedParts.contains k then mapGet 0 s.power.floorAct k else mapGet 0 s.power.partW k

/-- PWR_COMMIT (R6, R436, R437). -/
def State.regPwrCommit (s : State) (value : Nat) : State :=
  if bit value 0 then s.onPower fun p => { p with active := p.shadow, floorNext := p.floorShad } else s

/-- PWR_COMMIT, which the host reaches once the package is Ready (R441). -/
def execPwrCommit (value : Nat) (s : State) : Host.Outcome State Fault Refusal :=
  .next (if s.barOpen 0 then s.regPwrCommit value else s)

/-! ### Cellar (R433 to R435) -/

/-- A Cellar request is refused. -/
def State.cellarBusy (s : State) : Bool :=
  (s.vats.any fun v => decide (v.2.state = .running ∨ v.2.state = .remoulding ∨ v.2.state = .washing)) ||
    (s.keys.washes.any fun w => decide (w.2.kind = .frames)) || !s.flt.resets.isEmpty || decide (s.power.cellar ≠ .awake)

/-- The package begins to enter Cellar: every link port goes Off, the pairs close. -/
def State.enterCellar (s : State) : State :=
  let t := s.onPower fun p => { p with cellar := .entering, cellarAt := s.now }
  let t := (List.range 8).foldl (fun t k => t.onPort k fun p => { p.enter .off t.now with landing := [], whey := [] }) t
  t.movePairs 0

/-- CELLAR_REQ (R433, R434); one written while Waking is ignored. -/
def State.regCellarReq (s : State) (value : Nat) : State :=
  if !bit value 0 ∨ s.power.cellar = .waking then s
    else if s.cellarBusy then s.onPower fun p => { p with cellarNo := true }
    else s.enterCellar

/-- CELLAR_REQ, which the host reaches once the package is Ready (R441). -/
def execCellarReq (value : Nat) (s : State) : Host.Outcome State Fault Refusal :=
  .next (if s.barOpen 0 then s.regCellarReq value else s)

/-- A core as the package powers its die off. -/
def Core.powerOff (c : Core) : Core := if c.state = .retired then c.cleared else { c.cleared with state := .off, program := [] }

/-- CELLAR_ENTRY_DONE (R434): commands in dispatch have completed and the pairs are closed; HBM refreshes itself, the dies are off. -/
def execCellarEntryDone (s : State) : Host.Outcome State Fault Refusal :=
  .next (if s.power.cellar = .entering ∧ (s.objs.cmds.all fun c => decide (c.phase = .held)) ∧ s.links.pairs = 0 ∧ s.links.moving = [] then
      let t := s.onPower fun p => { p with cellar := .cellar }
      let t := t.onCores fun m => mapAll m fun _ c => c.powerOff
      t.onPins Pins.afterReset
    else s)

/-- The package begins to wake (R435). -/
def State.wake (s : State) : State :=
  if s.power.cellar = .cellar then
    (s.onPower fun p => { p with cellar := .waking, cellarAt := s.now }).onPins fun p => { p with vcoreEn := [true, true, true, true] }
  else s

/-- CELLAR_EXIT (R435). -/
def State.regCellarExit (s : State) (value : Nat) : State :=
  if bit value 0 then s.wake else s

/-- CELLAR_EXIT, which the host reaches once the package is Ready (R441). -/
def execCellarExit (value : Nat) (s : State) : Host.Outcome State Fault Refusal :=
  .next (if s.barOpen 0 then s.regCellarExit value else s)

/-- A core after the wake: it clears and is then of its vat again, or spare (R86, R435). -/
def Core.woken (c : Core) (after : CoreState) (last : Nat) : Core :=
  if c.state = .retired then c else { c.cleared with state := .clearing, after := after, clearEnd := last }

/-- The program a core's logical core runs under its vat's Mould (R276). -/
def State.coreProgram (s : State) (c : Core) : List Byte :=
  match c.vat.bind s.vat? with
  | some v => v.mould.elim [] fun m => secBytes m secMicro (v.lpkg * 2 ^ 18 + c.logical)
  | none => []

/-- CELLAR_WAKE_DONE (R435). -/
def execCellarWakeDone (s : State) : Host.Outcome State Fault Refusal :=
  .next (if s.power.cellar = .waking then
      let t := s.onPower fun p => { p with cellar := .awake }
      let t := t.onCores fun m => allCores.foldl (fun m c =>
        let u := (mapGet Core.off m c).woken (s.serves c) s.clearUntil
        mapSet Core.off m c { u with program := s.coreProgram u }) m
      (t.onPins fun p => { p with atSet := [true, true, true, true] }).supply
    else s)

end Sys2Proof.Machine
end

