-- ==== Sys2Proof/Machine/Boot.lean ====
section
/-! DEFINITION. Boot (R441 to R450), lifecycle transitions (R451 to R454), the journal's compactions (R292,
R458). -/

namespace Sys2Proof.Machine
open Sys2Proof

/-! ### Stages 1 to 4 (R441, R442) -/

/-- A failure of a stage: the package stays Failed. -/
def State.bootFail (s : State) (e : Nat) : State := s.onBoot fun b => { b with state := .failed, error := e }

/-- The package goes on to a stage. -/
def State.toStage (s : State) (k : Nat) : State := s.onBoot fun b => { b with stage := k }

/-- The journal whose last record has the higher JSEQ is authoritative; the other, or one that cannot be read, is rebuilt from it (R459). -/
def State.bootJournals (s : State) (lost : List Nat) : State :=
  if lost.contains 0 then s.onJ0 fun j => j.rebuilt s.j1.recs
  else if lost.contains 1 then s.onJ1 fun j => j.rebuilt s.j0.recs
  else if s.j0.last < s.j1.last then s.onJ0 fun j => j.rebuilt s.j1.recs
  else if s.j1.last < s.j0.last then s.onJ1 fun j => j.rebuilt s.j0.recs
  else s

/-- Stage 1 ends: the host port has trained at a rate and width of R462, or the boot fails (R463). -/
def State.stage1 (s : State) (r : StageResult) : State :=
  if !r.ok ∨ (r.journalLost.contains 0 ∧ r.journalLost.contains 1) then (s.hostTrained r.ok).bootFail 0x13 else
  let t := s.bootJournals r.journalLost
  let t := t.onBoot fun b => { b with degraded := decide (r.journalLost ≠ []), count := bootsIn t.jdata }
  (t.hostTrained true |>.onPins fun p => { p with vcoreEn := [true, true, true, true] }).toStage 2

/-- Stage 4 ends: stacks that failed are out of service; stacks 0 and 8 must pass. -/
def State.stage4 (s : State) (r : StageResult) : State :=
  if !r.ok ∨ r.hbmFailed.contains 0 ∨ r.hbmFailed.contains 8 then s.bootFail 0x12 else
  ((s.onMem fun m => { m with hbmOut := firsts (r.hbmFailed.filter (· < 16)) }).onBoot fun b => { b with state := .awaitStarter }).toStage 5

/-- BOOT_STAGE_DONE (R441). -/
def execBootStageDone (r : StageResult) (s : State) : Host.Outcome State Fault Refusal :=
  .next (if s.boot.state ≠ .preparing then s
    else match s.boot.stage with
      | 1 => s.stage1 r
      | 2 => if !r.ok then s.bootFail 0x10
        else if s.tick.lock = .locked then ((s.onPins fun p => { p with atSet := [true, true, true, true] }).supply).toStage 3
        else s
      | 3 => if !r.ok then s.bootFail 0x11 else (s.onCc fun c => { c with bridge0 := true, bridge1 := true }).toStage 4
      | 4 => s.stage4 r
      | _ => s)

/-- The Starter may be downloaded again after a failure (R445, R448). -/
def State.awaitAgain (s : State) (e : Nat) : State := s.onBoot fun b => { b with state := .awaitStarter, error := e, stage := 5, bringup := 0 }

/-- BOOT_STAGE_TIMEOUT (R441, R445, R450). -/
def execBootStageTimeout (s : State) : Host.Outcome State Fault Refusal :=
  .next (match s.boot.state, s.boot.stage with
    | .preparing, 1 => s.bootFail 0x13
    | .preparing, 2 => s.bootFail 0x10
    | .preparing, 3 => s.bootFail 0x11
    | .preparing, 4 => s.bootFail 0x12
    | .verifying, _ => s.awaitAgain 0x14
    | .starting, _ => s.bootFail (if s.tick.aligned then 0x17 else 0x16)
    | _, _ => s)

/-! ### The Starter image (R443 to R447) -/

/-- STARTER_GO (R445, R460). -/
def State.regStarterGo (s : State) (value : Nat) : State :=
  if bit value 0 ∧ s.boot.state = .awaitStarter then s.onBoot fun b => { b with state := .verifying, stage := 6 } else s

/-- STARTER_GO. -/
def execStarterGo (value : Nat) (s : State) : Host.Outcome State Fault Refusal :=
  .next (if s.barUp 0 then s.regStarterGo value else s)

/-- The reserved fields of a header are zero. -/
def headReservedOk (b : List Byte) : Bool :=
  decide (field b 0x0A 2 = 0 ∧ field b 0x0D 3 = 0 ∧ field b 0x18 8 = 0 ∧ field b 0x0C 1 ≤ 64) && allZero ((b.drop 0x80).take 128)

/-- The lengths of a header agree with R443. -/
def headSizesOk (b : List Byte) (len : Nat) : Bool :=
  let n := field b 0x10 4
  decide (64 ≤ n ∧ n ≤ 268435456 ∧ n % 64 = 0 ∧ field b 0x14 4 % 4 = 0 ∧ field b 0x14 4 < n ∧ len = 256 + n + 29792)

/-- The checks of R445 in order: the `BOOT_ERROR` of the first failure, 0 for none. -/
def State.starterError (s : State) (h body : List Byte) (sigOk equal : Bool) : Nat :=
  let n := s.boot.len
  let req := s.boot.ifaceReq
  if n < 30112 ∨ 268465504 < n then 0x01
  else if field h 0 2 ≠ 0x1000 then 0x02
  else if field h 4 4 ≠ 0x54535843 then 0x03
  else if !headReservedOk h then 0x04
  else if !headSizesOk h n then 0x05
  else if !keyOk (shake256 ((h.drop 0x40).take 64) 32) s.keys.lifecycle then 0x06
  else if !sigOk then 0x07
  else if shake256 body 32 ≠ (h.drop 0x20).take 32 then 0x08
  else if field h 0x0C 1 < s.fuses.minSvn then 0x09
  else if req / 256 ≠ 1 ∨ 0x0100 < req ∨ req < field h 2 2 ∨ field h 8 2 < req then 0x0A
  else if !equal then 0x15
  else 0

/-- The conditions of R448 on the parameter block. -/
def paramsOk (b : List Byte) : Bool :=
  let x := field b 4 1
  let y := field b 5 1
  let z := field b 6 1
  let root := bit (field b 7 1) 0
  decide (field b 0 2 = 0x1000 ∧ field b 7 1 < 2 ∧ field b 8 1 < 16 ∧ field b 9 7 = 0 ∧ 1 ≤ x ∧ x ≤ 64 ∧ 1 ≤ y ∧ y ≤ 64 ∧ 1 ≤ z ∧ z ≤ 64 ∧
    x * y * z ≤ 10240 ∧ field b 2 2 < x * y * z ∧ field b 0x10 8 % 65536 = 0) &&
    (root || decide (field b 0x10 8 = 0)) && allZero ((b.drop 0x18).take 40)

/-- The trims and calibration records that the journal holds (R424, R456). -/
def State.loadStored (s : State) : State :=
  s.jdata.foldl (fun t d => match d with
    | .trim v => t.onPower fun p => { p with trims := trimsOf v }
    | .cal b => t.onPower fun p => { p with cals := mapPut p.cals (calOf b).gear (calOf b) }
    | _ => t) s

/-- Every core is cleared and then a spare, those of the journal's retirements are Retired; a router with a fault stays out (R86, R409, R411). -/
def State.bootUnits (s : State) : State :=
  let bad := s.retiredCores
  let t := allCores.foldl (fun t c => t.onCore c fun _ => if bad.contains c then { Core.off with state := .retired }
    else { Core.off with state := .clearing, after := .spare, clearEnd := s.clearUntil }) s
  s.retiredRouters.foldl (fun t r => t.onRouter r fun u => { u with faulted := true }) t

/-- A complex whose Starter runs enters the seniority the fuse gives it (R350); one Lost by now stays so (R349). -/
def Cplx.started (c : Cplx) (k : Nat) (senior1 : Bool) (bridges : List Nat) (now : Nat) : Cplx :=
  if c.state = .lost then c else { c with
    state := if b2n senior1 = k then .senior else .junior, epoch := 0, wdTick := now, hbSent := now
    heard := bridges.map fun b => (b, now) }

/-- The image stands in the control memory of both complexes (R341, R445). -/
def State.placeImage (s : State) (body : List Byte) : State :=
  ((s.dpaWrite (s.slotKey 0) (ctrlBase 0) body).dpaWrite (s.slotKey 0) (ctrlBase 1) body).onBoot fun b => { b with image := body.length }

/-- The first three steps of R449: keys, cores and retirements, whey routes and trims, node, torus, root, by-pass pairs and training. The
image, which the ROM brought before, is enciphered under the boot's slot 0 (R341). -/
def State.bringUp (s : State) (b body : List Byte) : State :=
  let t := (s.bootKeys.placeImage body).bootUnits.loadStored
  let t := t.onLinks fun l => { l with
    node := field b 2 2, tx := field b 4 1, ty := field b 5 1, tz := field b 6 1, root := bit (field b 7 1) 0 }
  let t := if bit (field b 7 1) 0 then t.onTick fun k => { k with pending := some (field b 0x10 8) } else t
  let pairs := field b 8 1 % 16
  let t := t.movePairs pairs
  let t := ((List.range 4).filter fun p => bit pairs p).foldl (fun t p => (t.trainPort p).trainPort (p + 4)) t
  let t := (t.onCplx 0 fun c => c.started 0 t.fuses.senior t.bridgesUp t.now).onCplx 1 fun c => c.started 1 t.fuses.senior t.bridgesUp t.now
  (t.onBoot fun u => { u with bringup := 1, params := b }).bringup

/-- The Starter starts: measured, recorded, and it reads its parameter block once (R445, R448). -/
def State.startStarter (s : State) (h body : List Byte) : State :=
  let m := shake256 h 32
  let n := s.boot.count + 1
  let t := s.journalAdd (.boot n s.now m)
  let t := t.onBoot fun b => { b with
    measure := m, count := n, svn := field h 0x0C 1, iface := b.ifaceReq, state := .starting, stage := 7, error := 0, head := h }
  let p := t.hostRead t.boot.param 64
  if paramsOk p then t.bringUp p body else t.awaitAgain 0x0B

/-- STARTER_DOWNLOAD_DONE (R445): `sigOk` is the verdict of FIPS 205 (DESIGN CHOICE, log entry 2), `equal` that both complexes measured the same. -/
def execStarterDownloadDone (sigOk equal : Bool) (s : State) : Host.Outcome State Fault Refusal :=
  .next (if s.boot.state = .verifying ∧ s.hostOpen 0 then
      let h := s.hostRead s.boot.bus 256
      let body := s.hostRead (s.boot.bus + 256) (field h 0x10 4)
      let e := s.starterError h body sigOk equal
      if e = 0 then s.startStarter h body else if e = 0x15 then s.bootFail e else s.awaitAgain e
    else s)

/-! ### Ready (R449, R450) -/

/-- The conditions of R450 but the record. -/
def State.readyOk (s : State) : Bool :=
  decide (s.boot.state = .starting ∧ s.boot.bringup = 3) && s.tick.aligned && (s.cplx 0).serves && (s.cplx 1).serves &&
    (List.range 8).all fun k => !bit (field s.boot.params 8 1) (k % 4) || decide ((s.port k).state = .active ∨ (s.port k).state = .failed)

/-- Context 0 with its slot; its queue 0 is in use once `ADMIN_ENABLE` is set (R294). -/
def State.openAdmin (s : State) : State := s.onCtx 0 fun x => { x with state := .active, slot := some 0, since := s.now }

/-- STARTER_READY: the frame of the calibration microprogram is over; its record is Light (R421, R449 steps 5 and 6). -/
def execStarterReady (statDw statTc : Nat) (weights : List Nat) (s : State) : Host.Outcome State Fault Refusal :=
  .next (if s.readyOk then
      let t := s.putCal ⟨1, s.tick.gear, s.milliVolt, s.now, statDw % 65536, statTc % 65536, (weights.take 8).map (· % 2 ^ 32)⟩
      let t := t.onPower fun p => { p with firstCal := true }
      let t := t.openAdmin.onBoot fun b => { b with
        state := .ready, stage := 8, failedPorts := maskOf 8 fun k => decide ((s.port k).state = .failed) }
      t.onCap fun c => { c with seq := 1, fields := t.capNow }
    else s)

/-- SVN_COMMIT (R446). -/
def State.regSvnCommit (s : State) (value : Nat) : State :=
  if bit value 0 ∧ s.served ∧ s.keys.lifecycle = 1 then
      let n := max s.fuses.minSvn s.boot.svn
      (s.onFuses fun f => { f with minSvn := n }).journalAdd (.svn n)
    else s

/-- SVN_COMMIT, which the host reaches once the package is Ready (R441). -/
def execSvnCommit (value : Nat) (s : State) : Host.Outcome State Fault Refusal :=
  .next (if s.barOpen 0 then s.regSvnCommit value else s)

/-! ### Lifecycle transitions (R451 to R454) -/

/-- A transition exists from a state. -/
def transitionOk (frm into : Nat) : Bool := decide ((frm = 0 ∧ into = 1) ∨ (frm = 1 ∧ into = 2) ∨ ((frm = 1 ∨ frm = 2) ∧ into = 3))

/-- The fields of an opening authorisation that the device checks beside its signature (R452). -/
def State.authOk (s : State) (b : List Byte) : Bool :=
  decide (field b 0 2 = 0x1000 ∧ field b 2 6 = 0 ∧ field b 8 8 = s.boot.count ∧ (b.drop 0x10).take 16 = s.deviceId) &&
    allZero ((b.drop 0x20).take 32)

/-- The authorisation of R451. -/
def State.authorised (s : State) (into : Nat) (sigOk : Bool) : Bool :=
  if into = 1 then s.fuses.programmed
  else if into = 2 then s.hostOpen 0 && sigOk && s.authOk (s.hostRead s.boot.lcAuth 64)
  else true

/-- The `LC_RESULT` of a request (R453). -/
def State.lcCheck (s : State) (into confirm : Nat) (sigOk : Bool) : Nat :=
  if !s.served then 0x06
  else if !transitionOk s.keys.lifecycle into then 0x02
  else if s.vats ≠ [] then 0x03
  else if confirm ≠ field s.deviceId 0 4 then 0x04
  else if !s.authorised into sigOk then 0x05 else 0x01

/-- A request: refused with its result, or carried out up to the device reset (R389, R453). -/
def State.lcRequest (s : State) (into confirm : Nat) (sigOk : Bool) : State :=
  let e := s.lcCheck into confirm sigOk
  let t := s.onBoot fun b => { b with lcResult := e }
  if e ≠ 1 then t else
  let t := ((t.dump 0x0730 0xF 0 t.now false).journalAdd (.intent into)).wipeKeys
  (((t.onFuses fun f => f.burn into).journalAdd (.done into)).cleared).release

/-- A host request keeps its code in `LC_REQ`. -/
def State.lcWrite (s : State) (into : Nat) (sigOk : Bool) : State :=
  (s.onBoot fun b => { b with lcReq := into }).lcRequest into s.boot.lcConfirm sigOk

/-- TO_RIPE (R451). -/
def execToRipe (s : State) : Host.Outcome State Fault Refusal := .next (if s.barUp 0 then s.lcWrite 1 false else s)

/-- TO_OPENED (R451, R452): `sigOk` is the verdict of FIPS 205 (DESIGN CHOICE, log entry 2). -/
def execToOpened (sigOk : Bool) (s : State) : Host.Outcome State Fault Refusal :=
  .next (if s.barUp 0 then s.lcWrite 2 sigOk else s)

/-- TO_SPENT (R451). -/
def execToSpent (s : State) : Host.Outcome State Fault Refusal := .next (if s.barUp 0 then s.lcWrite 3 false else s)

/-! ### Compactions (R292, R456, R458) -/

/-- Two metering records merge: equal vat, package, role and composition, adjacent, neither final (R292). -/
def meterJoins (a b : List Byte) : Bool :=
  decide (field a 2 1 ≠ 2 ∧ field b 2 1 ≠ 2 ∧ field a 4 4 = field b 4 4 ∧ field a 3 1 = field b 3 1 ∧ field a 8 4 = field b 8 4 ∧
    field a 0x18 8 = field b 0x10 8)

/-- Their compacted record, which keeps the lower number. -/
def meterJoin (a b : List Byte) : List Byte :=
  a.take 2 ++ [3] ++ (a.drop 3).take 21 ++ (b.drop 0x18).take 8 ++ (a.drop 0x20).take 8 ++
    ((List.range 8).flatMap fun i => leBytes 8 (field a (0x28 + 8 * i) 8 + field b (0x28 + 8 * i) 8)) ++ zeros 24

/-- A record joins the first one before it that it merges with. -/
def meterInto : List (List Byte) → List Byte → List (List Byte)
  | [], b => [b]
  | a :: l, b => if meterJoins a b then meterJoin a b :: l else a :: meterInto l b

/-- The unacknowledged records, merged, in order. -/
def mergeMeters (l : List (List Byte)) : List (List Byte) := l.foldl meterInto []

/-- A record of another kind, or an unacknowledged metering record, is the last of its kind. -/
def JData.later (d : JData) (rest : List JData) : Bool :=
  match d with
  | .boot _ _ _ => rest.any fun e => match e with | .boot _ _ _ => true | _ => false
  | .done _ => rest.any fun e => match e with | .done _ => true | _ => false
  | .intent _ => rest.any fun e => match e with | .done _ => true | _ => false
  | .trim _ => rest.any fun e => match e with | .trim _ => true | _ => false
  | .cal b => rest.any fun e => match e with | .cal c => decide (field b 3 1 = field c 3 1) | _ => false
  | .meterAck _ => rest.any fun e => match e with | .meterAck _ => true | _ => false
  | .tamper _ _ => rest.any fun e => match e with | .done _ => true | _ => false
  | .svn _ => rest.any fun e => match e with | .svn _ => true | _ => false
  | .retireCore _ _ => false
  | .retireSlice _ _ => false
  | .retireRouter _ => false
  | .error _ _ _ _ => false
  | .routerError _ _ => false
  | .meter _ => false

/-- An error is older than 24 hours. -/
def JData.stale (d : JData) (now : Nat) : Bool :=
  match d with
  | .error _ _ _ t => decide (t + dayTicks ≤ now)
  | .routerError _ t => decide (t + dayTicks ≤ now)
  | _ => false

/-- What compaction keeps of a record: a metering record is replaced by the merged record of its number, or goes where it was acknowledged
or merged into an earlier one (R292, R456). -/
def JData.merged (ms : List (List Byte)) (d : JData) : List JData :=
  match d with
  | .meter b => ((ms.find? fun m => Nat.beq (meterSeq m) (meterSeq b)).map JData.meter).toList
  | _ => [d]

/-- The records of R456 that compaction keeps, in order, but for what it does to metering records. -/
def keptSet (now : Nat) : List JData → List JData
  | [] => []
  | d :: l => if d.later l || d.stale now then keptSet now l else d :: keptSet now l

/-- Records under new numbers from `n` on. -/
def numbered (n : Nat) (l : List JData) : List JRec := l.zipIdx.map fun p => ⟨n + p.2, p.1⟩

/-- Put records into the inactive bank of every journal in reach. -/
def State.compact (s : State) (l : List JData) : State :=
  let rs := numbered (max s.j0.last s.j1.last + 1) l
  let t := if s.jReach 0 then s.onJ0 fun j => j.rebuilt rs else s
  t.onJ1 fun j => if s.jReach 1 then j.rebuilt rs else j

/-- The free space calls for compaction. -/
def State.journalLow (s : State) : Bool := decide (s.journal.free < 262144)

/-- JOURNAL_COMPACTION (R456, R458). -/
def execJournalCompaction (s : State) : Host.Outcome State Fault Refusal :=
  .next (if s.journalLow then s.compact ((keptSet s.now s.jdata).flatMap (JData.merged (mergeMeters s.meters))) else s)

/-- METER_COMPACTION (R292): every other record stays. -/
def execMeterCompaction (s : State) : Host.Outcome State Fault Refusal :=
  .next (if s.journalLow then s.compact (s.jdata.flatMap (JData.merged (mergeMeters s.meters))) else s)

end Sys2Proof.Machine
end

