-- ==== Sys2Proof/Machine/Engines.lean ====
section
/-! DEFINITION. The tensor engines and the press decoder: MM, ACC_STORE, ACC_LOAD, TBL_LOAD, DECODE (R61 to R72, R87 to R94). -/

namespace Sys2Proof.Machine
open Sys2Proof

/-! ### Operands of MM (R88) -/

/-- The value of a codebook index under a table register (R34). -/
def Table.value (t : Table) (i : Nat) : FpVal :=
  match fmtKind t.entryFmt with
  | some k => elemVal k (nth 0 t.entries i)
  | none => .fin false 0 0

/-- The value of an element of a format in the core bank before any scale. -/
def codeVal (code x : Nat) : FpVal :=
  match fmtKind code with
  | some k => elemVal k x
  | none => .fin false 0 0

/-- Element (m, k) of A: none for a stage entry with ZERO set. -/
def Core.aElem (u : Core) (w : OpWord) (m k : Nat) : Option FpVal :=
  let e := opEngine w
  if mmASrc w = 1 then
    let x := u.stageEnt e (stageIndex (mmAAddr w) (2 ^ opTmLog2 w) m k)
    if bit x 7 then none else some ((u.table e (bits x 6 4)).value (bits x 3 0))
  else
    let x := operandElem u.rd (codeBits (mmFmtA w)) (mmAAddr w) (mmAStride w) m k
    if isCb (mmFmtA w) then some ((u.table e (mmTbl w)).value x) else some (codeVal (mmFmtA w) x)

/-- Element (k, n) of B. -/
def Core.bElem (u : Core) (w : OpWord) (n k : Nat) : FpVal :=
  codeVal (mmFmtB w) (operandElem u.rd (codeBits (mmFmtB w)) (mmBAddr w) (mmBStride w) n k)

/-- The exponent of the scale of (row, group) of an operand: 0 for an operand that is not MX, none for 0xFF (R32, R40). -/
def Core.scaleExp (u : Core) (code base row g i : Nat) : Option Int :=
  if isMx code then
    let b := u.byte (base + row * g + i)
    if b = 0xFF then none else some ((b : Int) - 127)
  else some 0

/-- The product of element k of row m of A and column n of B: exact +0 where ZERO is set (R87). -/
def Core.product (u : Core) (w : OpWord) (m n k : Nat) : FpVal :=
  match u.aElem w m k with
  | some a => fpMul a (u.bElem w n k)
  | none => .fin false 0 0

/-- The value of group `i` for (m, n) (R40, R41). -/
def Core.mmGroup (u : Core) (w : OpWord) (m n i : Nat) : Word :=
  groupValue ((List.range 32).map fun j => u.product w m n (32 * i + j))
    (u.scaleExp (mmFmtA w) (mmAScale w) m (mmG w) i) (u.scaleExp (mmFmtB w) (mmBScale w) n (mmG w) i)

/-- The accumulator that holds element (m, n) of a tile (DESIGN CHOICE, log entry 31). -/
def tileIndex (w : OpWord) (m n : Nat) : Nat := m * 2 ^ opTnLog2 w + n

/-- The positions of a tile. -/
def tilePlaces (w : OpWord) : List (Nat × Nat) :=
  (List.range (2 ^ opTmLog2 w)).flatMap fun m => (List.range (2 ^ opTnLog2 w)).map fun n => (m, n)

/-- Tile element (m, n) after MM: the initial value and the groups in order (R42, R89). -/
def Core.mmElem (u : Core) (w : OpWord) (m n : Nat) : Word :=
  let init := if mmInit w = 0 then 0 else u.getAcc (opEngine w) (opAccBank w) (tileIndex w m n)
  accumulate init ((List.range (mmG w)).map fun i => u.mmGroup w m n i)

/-- MM (R89): every accumulator of the tile. -/
def mmEffect (w : OpWord) (u : Core) : Core :=
  u.setAcc (opEngine w) (opAccBank w) ((tilePlaces w).map fun p => (tileIndex w p.1 p.2, u.mmElem w p.1 p.2))

/-- MM on a core, with the table registers as its first read finds them (R64, R75). -/
def execMm (core : Nat) (w : OpWord) (f : UnitFault) (s : State) : Host.Outcome State Fault Refusal :=
  .next (s.unitOp core 0x01 w f fun u => mmEffect w (s.tabled core w 1 u))

/-! ### ACC_STORE and ACC_LOAD (R91) -/

/-- The address of tile element (m, n) for elements of whole bytes: B layout or column layout. -/
def tileAddr (w : OpWord) (esize m n : Nat) : Nat :=
  if accOrder w = 0 then
    let b := bLayout m n
    accAddr w + b.1 * accStride w + b.2 * esize
  else accAddr w + n * accStride w + m * esize

/-- An FP32 accumulator as an element of a format: unchanged for FP32, else converted (R36, R91). -/
def storeElem (code mode : Nat) (x : Word) : Nat :=
  if code = 0x01 then x.toNat else (fmtKind code).elim 0 fun k => cvtElem k mode (fp32 x)

/-- The MX block of column n and group g of a tile: scale and elements (R33, R91). -/
def Core.tileBlock (u : Core) (w : OpWord) (n g : Nat) : Nat × List Nat :=
  (fmtKind (accFmt w)).elim (0, []) fun k =>
    mxQuantise k (accCvt w) ((List.range 32).map fun j =>
      fp32 (u.getAcc (opEngine w) (opAccBank w) (tileIndex w (32 * g + j) n)))

/-- Store a tile in an MX format: each group's elements packed column by column, each block's scale. -/
def Core.storeMx (u : Core) (w : OpWord) : Core :=
  let tn := 2 ^ opTnLog2 w
  let gs := 2 ^ opTmLog2 w / 32
  (List.range gs).foldl (fun u' g =>
    let bs := (List.range tn).map fun n => u.tileBlock w n g
    let u' := u'.wr (accAddr w + g * accStride w) (packElems (codeBits (accFmt w)) (bs.flatMap (·.2)))
    bs.zipIdx.foldl (fun u' b => u'.wr (accScale w + b.2 * gs + g) [BitVec.ofNat 8 b.1.1]) u') u

/-- Store a tile in a format of whole bytes. -/
def Core.storePlain (u : Core) (w : OpWord) : Core :=
  let esize := codeBits (accFmt w) / 8
  (tilePlaces w).foldl (fun u' p =>
    u'.wr (tileAddr w esize p.1 p.2)
      (leBytes esize (storeElem (accFmt w) (accCvt w) (u.getAcc (opEngine w) (opAccBank w) (tileIndex w p.1 p.2))))) u

/-- ACC_STORE. -/
def accStoreEffect (w : OpWord) (u : Core) : Core := if isMx (accFmt w) then u.storeMx w else u.storePlain w

def execAccStore (core : Nat) (w : OpWord) (f : UnitFault) (s : State) : Host.Outcome State Fault Refusal :=
  .next (s.unitOp core 0x02 w f (accStoreEffect w))

/-- ACC_LOAD: FP32 values, a NaN read as the canonical NaN (R28). -/
def accLoadEffect (w : OpWord) (u : Core) : Core :=
  u.setAcc (opEngine w) (opAccBank w) ((tilePlaces w).map fun p =>
    (tileIndex w p.1 p.2, toFp32 (fp32 (BitVec.ofNat 32 (leNat (u.rd (tileAddr w 4 p.1 p.2) 4))))))

def execAccLoad (core : Nat) (w : OpWord) (f : UnitFault) (s : State) : Host.Outcome State Fault Refusal :=
  .next (s.unitOp core 0x03 w f (accLoadEffect w))

/-! ### Culture tables (R57, R92) -/

/-- The table of `n` entries that stands at an address of the core bank. -/
def Core.readTable (u : Core) (idxFmt entryFmt a : Nat) : Table :=
  let n := idxEntries idxFmt
  let bs := u.rd a (n * (if entryFmt = 0x02 then 2 else 1))
  ⟨idxFmt, entryFmt, (List.range n).map fun i => tableEntry entryFmt bs i⟩

/-- The table of a TBL_LOAD. -/
def Core.loadedTable (u : Core) (w : OpWord) : Table := u.readTable (tblIdxFmt w) (tblEntryFmt w) (tblSrc w)

/-- Every entry of a table obeys R58. -/
def Table.ok (t : Table) : Bool := t.entries.all fun v => entryOk t.entryFmt v

/-- TBL_LOAD (R92): the register takes the table three cycles after the issue, over what a DECODE has put there by then; one that breaks R58 fails the step. R92 does not say whether the register still takes such a
table: here it does (DESIGN CHOICE, log entry 105). -/
def State.tblLoad (s : State) (c : Nat) (w : OpWord) (f : UnitFault) : State :=
  let tb := (s.core c).loadedTable w
  let t := s.unitOp c 0x04 w f fun u => (s.tabled c w 3 u).setTable (opEngine w) (tblReg w) (u.loadedTable w)
  match s.opRuns c 0x04 w with
  | some vat => if tb.ok then t else t.unitError vat ⟨c, s.now, 0, (0x053B, tblSrc w, 0, 0), 1⟩ 0
  | none => t

def execTblLoad (core : Nat) (w : OpWord) (f : UnitFault) (s : State) : Host.Outcome State Fault Refusal :=
  .next (s.tblLoad core w f)

/-! ### DECODE (R61 to R72, R93, R94) -/

/-- Byte `o` of a pressed tensor as the data mover placed it: `BANK_ADDR` is where byte 0 would lie (DEDUCED, log entry 32). BIND_COMPLETE has
checked that what a DECODE names lies in the bank. -/
def Core.tensorRd (u : Core) (w : OpWord) (o n : Nat) : List Byte :=
  (List.range n).map fun i => Memory.get u.bank ((decBank w + o + i) % bankSize)

/-- What a DECODE of a tensor puts out. -/
def Core.decoded (u : Core) (w : OpWord) (h : PressHdr) : DecodeOut :=
  decodeOp h (fun s => dirEntry (u.tensorRd w (h.dirOff + 8 * s) 8)) (fun off len => u.tensorRd w (h.dataOff + off) len)
    (decSegFirst w) (decSegN w) (decBudget w)

/-- Culture table `t` of a tensor as the decoder reads it. -/
def Core.pressTable (u : Core) (w : OpWord) (h : PressHdr) (t : Nat) : Table :=
  let n := idxEntries h.idxFmt
  let bs := u.tensorRd w (h.tblOff + t * tableBytes h) (tableBytes h)
  ⟨h.idxFmt, h.entryFmt, (List.range n).map fun i => tableEntry h.entryFmt bs i⟩

/-- The decoder has table `t` of the tensor for a round: as it already holds it, else read from the bank into its own register (R64). -/
def Core.fetchTable (u : Core) (w : OpWord) (h : PressHdr) (t : Nat) : Core × Table :=
  match (mapGet none u.decTables (t % 8)).filter fun x => decide (x.tensor = decTensor w ∧ x.num = t) with
  | some x => (u, x.table)
  | none =>
    let tb := u.pressTable w h t
    ({ u with decTables := mapSet none u.decTables (t % 8) (some ⟨decTensor w, t, tb⟩) }, tb)

/-- The core after a DECODE: the tables its rounds name stand in the decoder's registers, and each goes to the engine's register in the first
cycle of the first round that names it, so that an operation before that cycle still finds the table before it (R64, R93); then the
stage entries. `at'` gives the Tick and usable cycle a number of cycles after the issue. -/
def decodeEffect (w : OpWord) (h : PressHdr) (at' : Nat → Nat × Nat) (u : Core) : Core :=
  let o := u.decoded w h
  let e := opEngine w
  let u' := o.tables.foldl (fun x t =>
    let p := x.fetchTable w h t.1
    { p.1 with tblNext := p.1.tblNext ++ [⟨(at' t.2).1, (at' t.2).2, e * 8 + t.1 % 8, p.2⟩] }) u
  u'.setStage e (o.stage.map fun p => (decStageBase w + p.1, p.2))

/-- The press errors of a DECODE reach the step (R71, R72): the first by Tick and lane is described, all are counted. -/
def State.pressErrors (s : State) (vat c : Nat) (w : OpWord) (errs : List PressErr) : State :=
  let ph := (s.issued vat c w).getD (0, 1)
  let es := errs.map fun e => { e with cycle := (ph.1 + e.cycle) / ph.2 }
  match firstPressErr es with
  | none => s
  | some e => s.unitError vat ⟨c, s.now + e.cycle, e.lane, (e.status, decTensor w, e.seg, e.bitOff), errs.length⟩
      (64 * (s.core c).logical + e.lane)

/-- DECODE on a core. -/
def State.decode (s : State) (c : Nat) (w : OpWord) (f : UnitFault) : State :=
  match (s.opRuns c 0x10 w).bind fun vat => ((s.vat? vat).bind fun v => v.headers[decTensor w]?).map fun h => (vat, h) with
  | none => s
  | some (vat, h) =>
    if decSegN w = 0 then s else
    (s.unitOp c 0x10 w f (decodeEffect w h (s.cycleOf c w))).pressErrors vat c w ((s.core c).decoded w h).errs

def execDecode (core : Nat) (w : OpWord) (f : UnitFault) (s : State) : Host.Outcome State Fault Refusal :=
  .next (s.decode core w f)

end Sys2Proof.Machine
end

