-- ==== Sys2Proof/Machine/HostPort.lean ====
section
/-! DEFINITION. The host port's resets, functions and MSI-X (R398, R462 to R466, R471, R472), the CXL ports (R476 to R479). -/

namespace Sys2Proof.Machine
open Sys2Proof

/-! ### Resets of the host port and its functions (R465) -/

/-- The host port serves: its boot has ended. -/
def State.portUp (s : State) : Bool := decide (2 ≤ s.boot.stage)

/-- PCIE_HOST_RESET (R398): a hot reset or a link down. -/
def execPcieHostReset (s : State) : Host.Outcome State Fault Refusal := .next (if s.portUp then s.startReset 7 0 0x0730 else s)

/-- PF_FLR (R465). -/
def execPfFlr (s : State) : Host.Outcome State Fault Refusal := .next (if s.portUp then s.startReset 7 0 0x0730 else s)

/-- The Active contexts of a function. -/
def State.ctxsOf (s : State) (f : Nat) : List Nat :=
  (s.objs.ctxs.filter fun p => decide (p.1 ≠ 0 ∧ p.2.function = f ∧ p.2.state = .active)).map (·.1)

/-- A VF is reset: its Active contexts are torn down, then its MSI-X table is cleared. -/
def State.vfReset (s : State) (f : Nat) : State :=
  ((s.ctxsOf f).foldl (fun t c => t.teardown c none) s).onFunc f fun _ => Func.reset

/-- VF_FLR (R465): a reset of VF `f`, or its end under NumVFs or VF Enable. -/
def execVfFlr (f : Nat) (s : State) : Host.Outcome State Fault Refusal := .next (if 1 ≤ f ∧ f < 64 then s.vfReset f else s)

/-- D3HOT_ENTRY (R465). -/
def execD3hotEntry (f : Nat) (s : State) : Host.Outcome State Fault Refusal :=
  .next (if f < 64 then s.onFunc f fun u => { u with d3 := true } else s)

/-- D3HOT_EXIT (R465): the return to D0 acts as an FLR. -/
def execD3hotExit (f : Nat) (s : State) : Host.Outcome State Fault Refusal :=
  .next (if f < 64 ∧ (s.func f).d3 then
      let t := s.onFunc f fun u => { u with d3 := false }
      if f = 0 then t.startReset 7 0 0x0730 else t.vfReset f
    else s)

/-- BUS_MASTER_ENABLE (R466). -/
def execBusMasterEnable (f value : Nat) (s : State) : Host.Outcome State Fault Refusal :=
  .next (if f < 64 then (s.onFunc f fun u => { u with bme := bit value 0 }).hostBack else s)

/-- HOST_PORT_ERROR (R466): counted; an uncorrectable one resets the port. -/
def execHostPortError (uncorrectable : Bool) (s : State) : Host.Outcome State Fault Refusal :=
  .next (if !s.portUp then s
    else if uncorrectable then (s.onHp fun h => { h with ue := sat32 h.ue 1 }).startReset 7 0 0x0730
    else s.onHp fun h => { h with ce := sat32 h.ce 1 })

/-- Vectors of a function: 2,048 of the PF, 64 of a VF (R462). -/
def vectorsOf (f : Nat) : Nat := if f = 0 then 2048 else 64

/-- Write the mask of a vector; an unmasked vector that is pending sends its message (R472). -/
def State.setMask (s : State) (f v : Nat) (m : Bool) : State :=
  (s.onFunc f fun u => { u with table := mapSet (0, 0, true) u.table v ((u.entry v).1, (u.entry v).2.1, m) }).sendPending f

/-- MSIX_UNMASK (R472). -/
def State.regMsixUnmask (s : State) (f vector : Nat) : State :=
  if f < 64 ∧ vector < vectorsOf f then s.setMask f vector false else s

/-- MSIX_UNMASK, which the host reaches once the package is Ready (R441). -/
def execMsixUnmask (f vector : Nat) (s : State) : Host.Outcome State Fault Refusal :=
  .next (if s.barOpen f then s.regMsixUnmask f vector else s)

/-! ### CXL ports (R476 to R479) -/

/-- Extents of a port, or of a device slot, that are Offered, Active or Zeroing. -/
def State.extentsLive (s : State) (p : Extent → Bool) : Bool :=
  s.mem.extents.any fun e => p e.2 && decide (e.2.state = .offered ∨ e.2.state = .active ∨ e.2.state = .zeroing)

/-- The devices of a port are gone; their `POOL_ID` stays as written. -/
def State.dropDevices (s : State) (p : Nat) : State :=
  (List.range 8).foldl (fun t d => t.onCxlDev (8 * p + d) fun x => { x with state := 0, kind := 0, serial := 0, dcBytes := 0 }) s

/-- A write of `PORT_ENABLE`. -/
def State.portEnable (s : State) (p : Nat) (on : Bool) : State :=
  if on then s.onCxlPort p fun x => { x with
      enable := true, state := if (x.state = 0 ∨ x.state = 3) ∧ !s.fenced 6 p then 1 else x.state }
  else if s.extentsLive fun e => decide (e.port = p) then s
  else (s.onCxlPort p fun x => { x with enable := false, state := 0, width := 0, rate := 0 }).dropDevices p

/-- PORT_ENABLE (R479): bit 0 of the word. -/
def State.regPortEnable (s : State) (port value : Nat) : State :=
  if port < 4 then s.portEnable port (bit value 0) else s

/-- PORT_ENABLE, which the host reaches once the package is Ready (R441). -/
def execPortEnable (port value : Nat) (s : State) : Host.Outcome State Fault Refusal :=
  .next (if s.barOpen 0 then s.regPortEnable port value else s)

/-- A write of `POOL_ID` (R478). -/
def State.setPool (s : State) (p d v : Nat) : State :=
  if s.extentsLive fun e => decide (e.port = p ∧ e.dev = d) then s
  else s.onCxlDev (8 * p + d) fun x => { x with pool := v % 65536 }

/-- POOL_ID (R478, R479): bits [31:16] of the word. -/
def State.regPoolId (s : State) (port dev value : Nat) : State :=
  if port < 4 ∧ dev < 8 then s.setPool port dev (value / 65536) else s

/-- POOL_ID, which the host reaches once the package is Ready (R441). -/
def execPoolId (port dev value : Nat) (s : State) : Host.Outcome State Fault Refusal :=
  .next (if s.barOpen 0 then s.regPoolId port dev value else s)

/-- A device as its complex finds it: slot, kind, serial number, Dynamic Capacity space. A device of no supported kind stays Enumerated
without capacity (R476, R477). -/
def State.addDevice (s : State) (p : Nat) (d : Nat × Nat × Nat × Nat) : State :=
  if 8 ≤ d.1 then s
  else s.onCxlDev (8 * p + d.1) fun x =>
    if 1 ≤ d.2.1 ∧ d.2.1 ≤ 3 then { x with kind := d.2.1, state := 2, serial := d.2.2.1 % 2 ^ 64, dcBytes := min d.2.2.2 (2 ^ 39) }
    else { x with kind := 0, state := 1, serial := d.2.2.1 % 2 ^ 64, dcBytes := 0 }

/-- CXL_PORT_TRAINED (R476, R477, R479). -/
def execCxlPortTrained (port width rate : Nat) (devices : List (Nat × Nat × Nat × Nat)) (s : State) :
    Host.Outcome State Fault Refusal :=
  .next (if (s.cxlPort port).state = 1 then
      let t := s.onCxlPort port fun x => { x with state := 2, width := width % 256, rate := rate % 16 }
      devices.foldl (fun t d => t.addDevice port d) t
    else s)

end Sys2Proof.Machine
end

