-- ==== Sys2Proof/Machine/RegRead.lean ====
section
/-! DEFINITION. What the registers of BAR0 read as, block by block of R469, and of the BAR0 of a VF (R470). A word is named by its
offset in its block; reserved bits and offsets read 0 (R3, R468). -/

namespace Sys2Proof.Machine
open Sys2Proof

/-- A power or energy as a whole number; how the device rounds one that is not whole is a free value (DESIGN CHOICE, log entry 47). -/
def State.whole (s : State) (x : Frac) : Nat := if x.den = 1 then x.floor else x.floor + Config.freeNat s.fresh % 2

/-- A number in a field of `w` bits; what a larger one reads as is a free value (DESIGN CHOICE, log entry 47). -/
def State.fits (s : State) (w n : Nat) : Nat := if n < 2 ^ w then n else Config.freeNat s.fresh % 2 ^ w

/-! ### BOOT, TICK, CORE (R460, R164, R102) -/

def BootState.code : BootState → Nat
  | .preparing => 0
  | .awaitStarter => 1
  | .verifying => 2
  | .starting => 3
  | .ready => 4
  | .failed => 5

def State.bootWord (s : State) (o : Nat) : Nat :=
  let b := s.boot
  if o = 0x00 then at' b.error 24 + b.state.code
  else if o = 0x04 then at' 0x0100 16 + b.ifaceReq
  else if o = 0x08 then b.iface
  else if o / 8 = 2 then getWord b.bus (o / 4 % 2)
  else if o = 0x18 then b.len
  else if o / 8 = 4 then getWord b.param (o / 4 % 2)
  else if o / 8 = 5 then getWord b.count (o / 4 % 2)
  else if 0x30 ≤ o ∧ o < 0x50 then field b.measure (o - 0x30) 4
  else if o = 0x50 then at' b.failedPorts 24 + maskOf 16 s.mem.hbmOut.contains
  else if o = 0x54 then s.fuses.minSvn
  else if o = 0x58 then at' (b2n b.full) 2 + at' (b2n b.degraded) 1
  else if o = 0x5C then at' b.lcResult 24 + b.lcReq
  else if o = 0x60 then b.lcConfirm
  else if o / 8 = 0xD then getWord b.lcAuth (o / 4 % 2)
  else 0

def LockState.code : LockState → Nat
  | .unlocked => 0
  | .acquiring => 1
  | .locked => 2
  | .holdover => 3

def State.tickWord (s : State) (o : Nat) : Nat :=
  let t := s.tick
  if o = 0x00 then t.lock.code + at' (b2n t.aligned) 3 + at' (b2n t.pending.isSome) 4 + at' (b2n t.refused) 5
  else if o / 8 = 1 then getWord t.count (o / 4 % 2)
  else if o / 8 = 2 then getWord t.loadShad (o / 4 % 2)
  else if o = 0x1C then t.gear + at' t.armed 8
  else if o = 0x20 then t.nStretch
  else if o = 0x24 then t.nOverrun
  else if o = 0x28 then t.nLoss
  else if o = 0x2C then t.maxStr
  else if o = 0x30 then t.voids
  else if o = 0x34 then t.discards
  else if o = 0x38 then t.fabCe
  else if o = 0x3C then t.fabUe
  else 0

def CoreState.code : CoreState → Nat
  | .off => 0
  | .clearing => 1
  | .spare => 2
  | .bound => 3
  | .fenced => 4
  | .retired => 5

/-- Core `p`'s group; a reserved ID has none. -/
def State.coreWord (s : State) (o : Nat) : Nat :=
  let c := s.core (o / 0x20)
  if !coreOk (o / 0x20) then 0
  else if o % 0x20 = 0x00 then c.state.code + at' (if c.state = .bound ∨ c.state = .fenced then c.logical else 0) 12
  else if o % 0x20 = 0x04 then c.ce
  else if o % 0x20 = 0x08 then c.ue
  else if o % 0x20 = 0x0C then c.parity
  else if o % 0x20 = 0x10 then c.ceLast
  else 0

/-! ### LINK (R194, R198, R199) -/

def State.portWord (s : State) (k o : Nat) : Nat :=
  let p := s.port k
  if o = 0x00 then p.state.code + at' (b2n p.degraded) 10 + at' p.peer 16
  else if o = 0x04 then p.peerPort + at' p.delayQ 16
  else if o = 0x08 then p.feCe
  else if o = 0x0C then p.feUe
  else if o = 0x10 then p.authFail
  else if o = 0x14 then p.voidIns
  else if o = 0x18 then p.discards
  else if o = 0x1C then p.trains
  else if o = 0x20 then p.last
  else 0

/-- A window's entry, from its shadow (R5). -/
def State.winWord (s : State) (w o : Nat) : Nat :=
  let x := mapGet Window.zero s.links.winShad w
  if o = 0x00 then x.vat + at' x.perm 13 + at' (b2n x.valid) 31
  else if o = 0x04 then x.lo + at' x.hi 16
  else if o / 8 = 1 then getWord x.base (o / 4 % 2)
  else if o / 8 = 2 then getWord x.size (o / 4 % 2)
  else 0

def State.linkWord (s : State) (o : Nat) : Nat :=
  let l := s.links
  if o = 0x000 then l.node
  else if o = 0x004 then l.tx + at' l.ty 8 + at' l.tz 16 + at' (b2n l.root) 24
  else if o = 0x008 then l.stalls
  else if o = 0x00C then l.denies
  else if o = 0x010 then l.open' + at' l.pairs 8
  else if 0x100 ≤ o ∧ o < 0x300 then s.portWord ((o - 0x100) / 0x40) (o % 0x40)
  else if 0x1000 ≤ o ∧ o < 0x3000 then s.winWord ((o - 0x1000) / 0x20) (o % 0x20)
  else 0

/-! ### MEM (R231) -/

def ExtState.code : ExtState → Nat
  | .free => 0
  | .offered => 1
  | .active => 2
  | .zeroing => 3
  | .lost => 4

/-- Entry `e` of the extent table; a Free entry reads 0. -/
def State.extentWord (s : State) (e o : Nat) : Nat :=
  let x := mapGet Extent.empty s.mem.extents e
  if x.state = .free then 0
  else if o = 0 then x.base
  else if o = 4 then x.frames
  else if o = 8 then at' (s.cxlDev x.slot).pool 16 + at' x.port 12 +
    (match x.owner with
      | .vat v => at' 1 14 + v
      | .object _ => 0
      | .washing _ => 0
      | .none => 0)
  else x.state.code

/-- `SLICE_COPY` of a base die: the slice being copied (R206). -/
def State.sliceCopyReg (s : State) (d : Nat) : Nat :=
  match mapFind s.mem.copies d with
  | some c => if c.done then 0x7F else c.src % 66
  | none => 0x7F

def State.stackWord (s : State) (q o : Nat) : Nat :=
  let r := s.stackRegs q
  if o = 0 then r.ce else if o = 4 then r.ue else if o = 8 then r.last else r.passes

def State.memWord (s : State) (o : Nat) : Nat :=
  let x := s.xl
  if o / 8 = 0 then getWord x.ringBase (o / 4 % 2)
  else if o = 0x008 then x.ringLog
  else if o = 0x00C then b2n x.enable
  else if o = 0x010 then x.producer
  else if o = 0x014 then x.done
  else if o = 0x018 then (s.objs.cmds.filter fun c => decide (c.phase = .held)).length
  else if o = 0x01C then x.timeouts
  else if o = 0x020 then x.walks
  else if 0x100 ≤ o ∧ o < 0x200 then s.stackWord ((o - 0x100) / 0x10) (o % 0x10)
  else if 0x200 ≤ o ∧ o < 0x240 then
    if o % 0x10 = 0 then mapGet 0 s.mem.sliceCe ((o - 0x200) / 0x10)
    else if o % 0x10 = 4 then mapGet 0 s.mem.sliceUe ((o - 0x200) / 0x10)
    else if o % 0x10 = 8 then s.sliceCopyReg ((o - 0x200) / 0x10)
    else 0
  else if 0x1000 ≤ o ∧ o < 0x5000 then s.extentWord ((o - 0x1000) / 0x10) (o % 0x10)
  else 0

/-! ### CTX and doorbells (R301, R317) -/

def CtxState.code : CtxState → Nat
  | .free => 0
  | .active => 1
  | .tearing => 2

/-- 32 MiB frames that a context's memory objects hold. -/
def State.ctxFrames (s : State) (c : Nat) : Nat :=
  ((s.objs.objs.filter fun m => decide (m.2.ctx = c)).map fun m => m.2.hbmList.length + m.2.caveList.length).sum

def State.ctxEntryWord (s : State) (c o : Nat) : Nat :=
  let x := s.ctx c
  if o = 0x00 then x.state.code + at' (b2n x.slot.isSome) 2 + at' (b2n x.conf) 11 + at' (x.slot.getD 0) 12 + at' x.function 24
  else if o = 0x04 then s.ctxFrames c
  else if o = 0x08 then s.inFlight c
  else if o = 0x0C then x.evicts
  else if o / 8 = 2 then getWord x.activeT (o / 4 % 2)
  else if o = 0x18 then x.qError
  else 0

def State.ctxWord (s : State) (o : Nat) : Nat :=
  let b := s.objs
  if o / 8 = 0 then getWord b.adminSq (o / 4 % 2)
  else if o / 8 = 1 then getWord b.adminCq (o / 4 % 2)
  else if o = 0x010 then b.adminSqL + at' b.adminCqL 8
  else if o = 0x014 then b2n b.adminEn
  else if o = 0x018 then (b.ctxs.filter fun x => x.2.slot.isSome).length
  else if o = 0x01C then b.swaps
  else if 0x1_0000 ≤ o ∧ o < 0x3_0000 then s.ctxEntryWord ((o - 0x1_0000) / 0x20) (o % 0x20)
  else 0

/-- Slot 16 × context + queue; one whose queue does not exist reads 0 (R469). -/
def State.doorWord (s : State) (n o : Nat) : Nat :=
  if (mapFind s.objs.queues n).isNone then 0
  else if o = 0 then (mapGet (0, 0) s.objs.doors n).1 else (mapGet (0, 0) s.objs.doors n).2

/-! ### QOS (R335 to R338) -/

def State.partEntryWord (s : State) (p o : Nat) : Nat :=
  let x := mapGet PartCfg.reset s.qos.shadow.parts p
  if o = 0x00 then x.sliceTicks
  else if o = 0x04 then x.laneLimit + at' (mapGet 0 s.qos.overruns p) 16
  else if o = 0x08 then x.rateHbm + at' x.depthHbm 16
  else if o = 0x0C then x.rateCxl + at' x.depthCxl 16
  else if o = 0x10 then x.rateHost + at' x.depthHost 16
  else 0

/-- Entry `f`; the shadowed fields of entry 0 other than `SLOT_MIN` read 0 (R333). -/
def State.funcWord (s : State) (f o : Nat) : Nat :=
  let x := funcEntry f (mapGet FuncCfg.zero s.qos.funcShad f)
  if o = 0x00 then x.ctxFirst + at' x.ctxCount 16
  else if o = 0x04 then x.slotMin + at' x.slotMax 8 + at' x.part 16 + at' x.classMax 24
  else if o = 0x08 then x.fenceLo
  else if o = 0x0C then x.fenceN
  else if o = 0x10 then x.objLimit
  else if o = 0x14 then x.hbmFrames
  else if o = 0x18 then x.caveFr
  else if o = 0x1C then x.vatLo + at' x.vatHi 16
  else if o = 0x24 then (s.residents f).length + (if f = 0 then b2n (s.ctx 0).slot.isSome else 0)
  else if o = 0x28 then (s.fnObjs f).length
  else if o = 0x2C then s.fnHbm f
  else if o = 0x30 then s.fnCave f
  else 0

def State.qosCtxWord (s : State) (c o : Nat) : Nat :=
  let x := s.ctx c
  if o = 0x00 then mapGet 0 s.qos.shadow.ctxPart c + at' (s.partOf c) 8
  else if o = 0x04 then x.laneSteps
  else if o / 8 = 1 then getWord x.queueWait (o / 4 % 2)
  else if o / 8 = 2 then getWord x.arbWait (o / 4 % 2)
  else if o = 0x18 then x.preempts
  else 0

def State.qosWord (s : State) (o : Nat) : Nat :=
  let q := s.qos
  let c := q.shadow
  if o = 0x004 then b2n q.missed + at' (b2n q.refused) 1
  else if o = 0x008 then q.missedKv
  else if o = 0x00C then q.missedWt
  else if o = 0x010 then ((List.range 6).map fun i => at' (nth 0 c.prio i) (4 * i)).sum + at' 8 24 + at' (nth 0 c.prio 7) 28
  else if o = 0x014 then c.bursts
  else if o = 0x018 then c.kvLead
  else if 0x020 ≤ o ∧ o < 0x030 then
    nth 0 c.waitLimit ((o - 0x020) / 2) + at' (nth 0 c.waitLimit ((o - 0x020) / 2 + 1)) 16
  else if 0x030 ≤ o ∧ o < 0x03C then nth 0 c.congLo ((o - 0x030) / 4) + at' (nth 0 c.congHi ((o - 0x030) / 4)) 16
  else if 0x040 ≤ o ∧ o < 0x080 ∧ o % 8 = 0 then
    let v := nth (false, 0, 0) c.vats ((o - 0x040) / 8)
    v.2.2 + at' v.2.1 16 + at' (b2n v.1) 31
  else if 0x100 ≤ o ∧ o < 0x300 then s.partEntryWord ((o - 0x100) / 0x20) (o % 0x20)
  else if 0x1000 ≤ o ∧ o < 0x2000 then s.funcWord ((o - 0x1000) / 0x40) (o % 0x40)
  else if 0x1_0000 ≤ o ∧ o < 0x3_0000 then s.qosCtxWord ((o - 0x1_0000) / 0x20) (o % 0x20)
  else 0

/-! ### CC (R360) -/

/-- A word of a group through BAR0: that of group 1, while complex 0 holds the fence, as last received (DEDUCED, log entry 46). -/
def State.ccGroupWord (s : State) (k w : Nat) : Nat :=
  if s.groupHidden k then
    if w = 1 then s.cc.c0.peerEpoch else if w = 2 then s.cc.c0.peerSeq else nth 0 s.cc.seen w
  else s.ccWord k w

def State.ccBlockWord (s : State) (o : Nat) : Nat :=
  if o = 0x000 then b2n s.fuses.senior + at' (b2n s.cc.both) 1
  else if o = 0x004 then b2n s.cc.refused
  else if 0x100 ≤ o ∧ o < 0x200 then s.ccGroupWord ((o - 0x100) / 0x80) (o % 0x80 / 4)
  else 0

/-! ### KEY (R391, R393) -/

def SlotState.code : SlotState → Nat
  | .empty => 0
  | .active => 1
  | .replacing => 2
  | .retiring => 3
  | .quiet => 4

def State.slotWord (s : State) (k o : Nat) : Nat :=
  let u := s.slot k
  if u.state = .empty then 0
  else if o = 0 then u.vat + at' u.kind 16 + at' u.state.code 24
  else if o = 4 then u.ctx
  else if o = 8 then u.gen
  else u.retire.getD 0 % 2 ^ 32

def State.keyWord (s : State) (o : Nat) : Nat :=
  let v := s.keys
  if o / 8 = 0 then getWord v.reqBus (o / 4 % 2)
  else if o = 0x008 then v.reqOp
  else if o = 0x00C then v.status + at' (b2n v.busy) 16
  else if o = 0x010 then v.arg
  else if o = 0x014 then v.result
  else if o / 8 = 3 then getWord v.epoch (o / 4 % 2)
  else if o / 8 = 4 then getWord v.epochNext (o / 4 % 2)
  else if o / 8 = 5 then getWord v.switchNext (o / 4 % 2)
  else if o = 0x034 then v.lifecycle + at' (b2n v.sls.isSome) 2 + at' (b2n (tamperSeen s.jdata)) 3 + at' (tamperCause s.jdata) 8
  else if o = 0x038 then v.verifyFail
  else if o = 0x03C then v.extended
  else if o = 0x040 then s.emptySlots.length
  else if 0x1000 ≤ o ∧ o < 0x2000 then s.slotWord ((o - 0x1000) / 0x10) (o % 0x10)
  else 0

/-! ### FLT (R414, R415) -/

def State.logWord (s : State) (v o : Nat) : Nat :=
  let e := mapGet LogEnt.zero s.flt.logs v
  if o = 0x00 then e.vat + at' e.log2 16 + at' (b2n e.enable) 31
  else if o / 8 = 1 then getWord e.bus (o / 4 % 2)
  else if o = 0x10 then e.producer
  else if o = 0x14 then e.consumer
  else if o = 0x18 then e.lost
  else 0

def State.fltWord (s : State) (o : Nat) : Nat :=
  let f := s.flt
  if o = 0x000 then f.reqIndex + at' f.reqKind 16
  else if o = 0x004 then b2n f.refused + at' f.lastCause 16
  else if o / 8 = 1 then getWord f.lastTick (o / 4 % 2)
  else if o / 8 = 2 then getWord f.dumpBus (o / 4 % 2)
  else if o / 8 = 3 then getWord f.dumpLen (o / 4 % 2)
  else if o = 0x020 then f.dumpSeq
  else if o = 0x024 then f.stalls
  else if o = 0x028 then f.hangs
  else if o = 0x02C then f.cmdHangs
  else if o = 0x030 then f.replays
  else if o = 0x034 then s.fits 8 s.retiredCores.length + at' (s.fits 8 s.retiredSlices.length) 8
  else if 0x100 ≤ o ∧ o < 0x200 then s.logWord ((o - 0x100) / 0x20) (o % 0x20)
  else 0

/-! ### PWR (R436 to R438) -/

def Cellar.code : Cellar → Nat
  | .awake => 0
  | .entering => 1
  | .cellar => 2
  | .waking => 3

/-- `PWR_AVG_W`. -/
def State.avgWatts (s : State) : Nat := s.fits 16 (s.whole s.power.average)

/-- `TEMP_MAX` as its 16 bits. -/
def State.tempBits (s : State) : Nat := ((tempMax s.power.temps) % 65536).toNat

/-- A word of the calibration record of gear index `i`; zero where none exists. -/
def State.calWord (s : State) (i o : Nat) : Nat := ((mapFind s.power.cals (nth 0 gearList i)).map fun r => field r.bytes o 4).getD 0

def State.pwrWord (s : State) (o : Nat) : Nat :=
  let p := s.power
  let c := p.shadow
  if o = 0x000 then c.cap
  else if o = 0x004 then b2n c.fixed + at' (b2n c.boost) 1 + at' c.gear 8
  else if o = 0x008 then c.restMax + at' c.throttle 8
  else if o = 0x010 then s.fits 16 (s.whole p.est) + at' s.avgWatts 16
  else if o = 0x014 then p.rest + at' p.cls 8 + at' (s.calFor s.tick.gear).tag 10 + at' (b2n p.guardOn) 12 + at' s.targetGear 16
  else if o = 0x018 then s.tempBits + at' (tempSensor p.temps) 24
  else if o = 0x01C then
    b2n p.unmet + at' (b2n p.stale) 1 + at' (b2n p.throttled) 2 + at' (b2n p.hotSeen) 3 + at' (b2n p.conflict) 4 +
      at' (b2n p.cellarNo) 5 + at' p.therm 8
  else if o / 8 = 4 then getWord (s.whole p.energy) (o / 4 % 2)
  else if o = 0x028 then vtrim p.trims
  else if o = 0x02C then at' p.cellar.code 4
  else if o / 8 = 6 then getWord (s.whole p.unattr) (o / 4 % 2)
  else if 0x100 ≤ o ∧ o < 0x140 then
    mapGet 0 p.floorShad ((o - 0x100) / 4) + at' (s.fits 16 (s.partReading ((o - 0x100) / 4))) 16
  else if 0x200 ≤ o ∧ o < 0x3C0 then s.calWord ((o - 0x200) / 0x40) (o % 0x40)
  else if 0x1_0000 ≤ o ∧ o < 0x2_0000 then
    if o % 0x10 / 8 = 0 then getWord (s.whole (s.ctx ((o - 0x1_0000) / 0x10)).energy) (o / 4 % 2)
    else if o % 0x10 = 8 then mapGet 0 p.tenantW ((o - 0x1_0000) / 0x10) else 0
  else 0

/-! ### HP, CAP, CXL and MSI-X (R472 to R475, R479) -/

def State.hpWord (s : State) (o : Nat) : Nat :=
  let h := s.hp
  if o = 0x00 then h.rate + at' h.width 8
  else if o = 0x04 then b2n h.below + at' (b2n h.flit) 1
  else if o = 0x08 then h.ce
  else if o = 0x0C then h.ue
  else if o = 0x10 then h.resets
  else if o = 0x14 then h.numVfs
  else 0

def State.capWord (s : State) (o : Nat) : Nat :=
  let v := fun (i : Nat) => nth 0 s.cap.fields i
  if o = 0x00 then 0x1000 + at' (v 0) 16
  else if o = 0x04 then s.cap.seq
  else if o = 0x08 then v 1
  else if o = 0x0C then v 2
  else if o = 0x10 then v 4 + at' (v 3) 16
  else if o = 0x14 then v 5
  else if o = 0x18 then 4 + at' 32 8
  else if o = 0x1C then v 8 + at' (v 7) 8 + at' (v 6) 16
  else if o = 0x20 then s.cap.aux0 + at' s.cap.aux1 16
  else if o = 0x24 then 0x1000 + at' 2048 16
  else if 0x1000 ≤ o ∧ o < 0x2000 then
    Config.wiring ((o - 0x1000) / 2) % 65536 + at' (Config.wiring ((o - 0x1000) / 2 + 1) % 65536) 16
  else 0

def State.cxlWord (s : State) (o : Nat) : Nat :=
  if o < 0x400 then
    let p := s.cxlPort (o / 0x100)
    if o % 0x100 = 0x00 then p.rate + at' p.width 8 + at' p.state 16
    else if o % 0x100 = 0x04 then b2n p.enable
    else if o % 0x100 = 0x08 then p.ce
    else if o % 0x100 = 0x0C then p.poison
    else 0
  else if 0x1000 ≤ o ∧ o < 0x1400 then
    let d := s.cxlDev ((o - 0x1000) / 0x20)
    if o % 0x20 = 0x00 then d.state + at' d.kind 8 + at' d.pool 16
    else if o % 0x20 / 8 = 1 then getWord d.serial (o / 4 % 2)
    else if o % 0x20 / 8 = 2 then getWord d.dcBytes (o / 4 % 2)
    else if o % 0x20 = 0x18 then d.rejected
    else 0
  else 0

/-- A word of a function's MSI-X table: message address, data, vector control. -/
def Func.tableWord (u : Func) (v w : Nat) : Nat :=
  let e := u.entry v
  if w = 0 then e.1 % 2 ^ 32 else if w = 1 then e.1 / 2 ^ 32 % 2 ^ 32 else if w = 2 then e.2.1 else b2n e.2.2

/-- A word of its pending bits. -/
def Func.pbaWord (u : Func) (w : Nat) : Nat := maskOf 32 fun i => u.pends.contains (32 * w + i)

def State.msixWord (s : State) (o : Nat) : Nat :=
  if o < 0x8000 then (s.func 0).tableWord (o / 16) (o / 4 % 4)
  else if o < 0x8100 then (s.func 0).pbaWord ((o - 0x8000) / 4) else 0

/-! ### The maps -/

/-- A word of BAR0 of the PF (R469). -/
def State.pfWord (s : State) (o : Nat) : Nat :=
  if o < 0x1000 then s.bootWord o
  else if !s.served then 0
  else if o < 0x2000 then s.ccBlockWord (o - 0x1000)
  else if o < 0x3000 then s.fltWord (o - 0x2000)
  else if o < 0x4000 then s.tickWord (o - 0x3000)
  else if o < 0x5000 then s.hpWord (o - 0x4000)
  else if o < 0x6000 then 0
  else if o < 0x8000 then s.keyWord (o - 0x6000)
  else if o < 0x1_0000 then s.coreWord (o - 0x8000)
  else if o < 0x1_4000 then s.linkWord (o - 0x1_0000)
  else if o < 0x1_8000 then s.cxlWord (o - 0x1_4000)
  else if o < 0x2_0000 then s.memWord (o - 0x1_8000)
  else if o < 0x3_0000 then s.capWord (o - 0x2_0000)
  else if o < 0x4_0000 then s.msixWord (o - 0x3_0000)
  else if o < 0x6_0000 then s.pwrWord (o - 0x4_0000)
  else if o < 0x8_0000 then 0
  else if o < 0xC_0000 then s.ctxWord (o - 0x8_0000)
  else if o < 0x10_0000 then s.qosWord (o - 0xC_0000)
  else if 0x80_0000 ≤ o ∧ o < 0x88_0000 then s.doorWord ((o - 0x80_0000) / 8) (o % 8)
  else 0

/-- The context at position `j` of a VF's range, if the range holds one there (R470). -/
def State.vfCtx (s : State) (f j : Nat) : Option Nat := if j < (s.fn f).ctxCount then some ((s.fn f).ctxFirst + j) else none

/-- A word of a context's view entry (R470). -/
def State.viewWord (s : State) (c o : Nat) : Nat :=
  let x := s.ctx c
  if o = 0x0 then x.state.code + at' (b2n x.slot.isSome) 2 + at' x.qError 16
  else if o = 0x4 then mapGet 0 s.power.tenantW c
  else if o = 0x8 then s.inFlight c
  else 0

/-- A word of BAR0 of VF `f` (R470). -/
def State.vfWord (s : State) (f o : Nat) : Nat :=
  if !s.served then 0
  else if o = 0x00 then (s.fn f).ctxFirst + at' (s.fn f).ctxCount 16
  else if o = 0x04 then f + at' (s.fits 16 (s.partReading (s.fn f).part)) 16
  else if 0x1000 ≤ o ∧ o < 0x1400 then (s.func f).tableWord ((o - 0x1000) / 16) (o / 4 % 4)
  else if 0x1800 ≤ o ∧ o < 0x1808 then (s.func f).pbaWord ((o - 0x1800) / 4)
  else if 0x1_0000 ≤ o ∧ o < 0x2_0000 then
    match s.vfCtx f ((o - 0x1_0000) / 0x10) with
    | some c => s.viewWord c (o % 0x10)
    | none => 0
  else if 0x8_0000 ≤ o then
    match s.vfCtx f ((o - 0x8_0000) / 0x80) with
    | some c => s.doorWord (16 * c + o % 0x80 / 8) (o % 8)
    | none => 0
  else 0

/-- The function and the offset in its BAR0 of a model offset: the PF's 16 MiB, then the VFs' 1 MiB each (R464, DESIGN CHOICE, log entry 48). -/
def barPlace (o : Nat) : Option (Nat × Nat) :=
  if o < 2 ^ 24 then some (0, o)
  else if o < 2 ^ 24 + 63 * 2 ^ 20 then some ((o - 2 ^ 24) / 2 ^ 20 + 1, (o - 2 ^ 24) % 2 ^ 20)
  else none

/-- A word at a place. -/
def State.word (s : State) (f o : Nat) : Nat := if f = 0 then s.pfWord o else s.vfWord f o

/-- The low word of a 64-bit register of the PF stands at an offset (R3, R4). -/
def wideReg (o : Nat) : Bool :=
  if o < 0x1000 then decide (o = 0x10 ∨ o = 0x20 ∨ o = 0x28 ∨ o = 0x68)
  else if o < 0x2000 then decide (o = 0x1120 ∨ o = 0x11A0)
  else if o < 0x3000 then decide (o = 0x2008 ∨ o = 0x2010 ∨ o = 0x2018 ∨ (0x2100 ≤ o ∧ o < 0x2200 ∧ o % 0x20 = 8))
  else if o < 0x4000 then decide (o = 0x3008 ∨ o = 0x3010)
  else if o < 0x8000 then decide (o = 0x6000 ∨ o = 0x6018 ∨ o = 0x6020 ∨ o = 0x6028)
  else if o < 0x1_4000 then decide (0x1_1000 ≤ o ∧ o < 0x1_3000 ∧ (o % 0x20 = 8 ∨ o % 0x20 = 0x10))
  else if o < 0x1_8000 then decide (0x1_5000 ≤ o ∧ o < 0x1_5400 ∧ (o % 0x20 = 8 ∨ o % 0x20 = 0x10))
  else if o < 0x2_0000 then decide (o = 0x1_8000)
  else if o < 0x4_0000 then false
  else if o < 0x6_0000 then decide (o = 0x4_0020 ∨ o = 0x4_0030 ∨ (0x5_0000 ≤ o ∧ o % 16 = 0))
  else if o < 0xC_0000 then decide (o = 0x8_0000 ∨ o = 0x8_0008 ∨ (0x9_0000 ≤ o ∧ o < 0xB_0000 ∧ o % 0x20 = 0x10))
  else decide (0xD_0000 ≤ o ∧ o < 0xF_0000 ∧ (o % 0x20 = 8 ∨ o % 0x20 = 0x10))

/-- The same of any function's BAR0: a VF has none; the two words of an MSI-X message address are registers of their own, no map marking them
64-bit. -/
def wideAt (f o : Nat) : Bool := decide (f = 0) && wideReg o

/-! ### Reading (R4, R5, R468) -/

/-- The RC counters a read of a word clears. -/
def State.clearPort (s : State) (k o : Nat) : State := s.onPort k fun p =>
  if o = 0x08 then { p with feCe := 0 } else if o = 0x0C then { p with feUe := 0 } else if o = 0x10 then { p with authFail := 0 }
  else if o = 0x14 then { p with voidIns := 0 } else if o = 0x18 then { p with discards := 0 }
  else if o = 0x1C then { p with trains := 0 } else p

def State.clearTick (s : State) (o : Nat) : State := s.onTick fun t =>
  if o = 0x20 then { t with nStretch := 0 } else if o = 0x24 then { t with nOverrun := 0 } else if o = 0x28 then { t with nLoss := 0 }
  else if o = 0x2C then { t with maxStr := 0 } else if o = 0x30 then { t with voids := 0 } else if o = 0x34 then { t with discards := 0 }
  else if o = 0x38 then { t with fabCe := 0 } else if o = 0x3C then { t with fabUe := 0 } else t

def State.clearCore (s : State) (o : Nat) : State :=
  if !coreOk (o / 0x20) then s else s.onCore (o / 0x20) fun c =>
    if o % 0x20 = 0x04 then { c with ce := 0 } else if o % 0x20 = 0x08 then { c with ue := 0 }
    else if o % 0x20 = 0x0C then { c with parity := 0 } else c

def State.clearLink (s : State) (o : Nat) : State :=
  if o = 0x008 then s.onLinks fun l => { l with stalls := 0 }
  else if o = 0x00C then s.onLinks fun l => { l with denies := 0 }
  else if 0x100 ≤ o ∧ o < 0x300 then s.clearPort ((o - 0x100) / 0x40) (o % 0x40)
  else s

def State.clearMem (s : State) (o : Nat) : State :=
  if o = 0x01C then s.onXl fun x => { x with timeouts := 0 }
  else if o = 0x020 then s.onXl fun x => { x with walks := 0 }
  else if 0x100 ≤ o ∧ o < 0x200 then
    let q := (o - 0x100) / 0x10
    s.onMem fun m =>
      let r := mapGet ⟨0, 0, 0, 0, 0⟩ m.stackSet q
      if o % 0x10 = 0 then { m with stackSet := mapSet ⟨0, 0, 0, 0, 0⟩ m.stackSet q { r with ce := 0 } }
      else if o % 0x10 = 4 then { m with stackSet := mapSet ⟨0, 0, 0, 0, 0⟩ m.stackSet q { r with ue := 0 } } else m
  else if 0x200 ≤ o ∧ o < 0x240 then
    let d := (o - 0x200) / 0x10
    s.onMem fun m =>
      if o % 0x10 = 0 then { m with sliceCe := mapDel m.sliceCe d }
      else if o % 0x10 = 4 then { m with sliceUe := mapDel m.sliceUe d } else m
  else s

def State.clearCtx (s : State) (o : Nat) : State :=
  if o = 0x01C then s.onObjs fun b => { b with swaps := 0 }
  else if 0x1_0000 ≤ o ∧ o < 0x3_0000 ∧ o % 0x20 = 0x0C then s.onCtx ((o - 0x1_0000) / 0x20) fun x => { x with evicts := 0 }
  else s

def State.clearQos (s : State) (o : Nat) : State :=
  if o = 0x008 then s.onQos fun q => { q with missedKv := 0 }
  else if o = 0x00C then s.onQos fun q => { q with missedWt := 0 }
  else if 0x1_0000 ≤ o ∧ o < 0x3_0000 then s.onCtx ((o - 0x1_0000) / 0x20) fun x =>
    if o % 0x20 = 0x04 then { x with laneSteps := 0 } else if o % 0x20 = 0x18 then { x with preempts := 0 } else x
  else s

def State.clearCc (s : State) (o : Nat) : State :=
  let k := (o - 0x100) / 0x80
  if 0x100 ≤ o ∧ o < 0x200 ∧ !s.groupHidden k then s.onCplx k fun c =>
    if o % 0x80 = 0x14 then { c with ce := 0 } else if o % 0x80 = 0x18 then { c with hbMiss := 0 }
    else if o % 0x80 = 0x1C then { c with takeovers := 0 } else c
  else s

def State.clearKey (s : State) (o : Nat) : State := s.onKeys fun v =>
  if o = 0x038 then { v with verifyFail := 0 } else if o = 0x03C then { v with extended := 0 } else v

def State.clearFlt (s : State) (o : Nat) : State := s.onFlt fun f =>
  if o = 0x024 then { f with stalls := 0 } else if o = 0x028 then { f with hangs := 0 } else if o = 0x02C then { f with cmdHangs := 0 }
  else if o = 0x030 then { f with replays := 0 }
  else if 0x100 ≤ o ∧ o < 0x200 ∧ o % 0x20 = 0x18 then
    { f with logs := mapSet LogEnt.zero f.logs ((o - 0x100) / 0x20) { mapGet LogEnt.zero f.logs ((o - 0x100) / 0x20) with lost := 0 } }
  else f

def State.clearHp (s : State) (o : Nat) : State := s.onHp fun h =>
  if o = 0x08 then { h with ce := 0 } else if o = 0x0C then { h with ue := 0 } else if o = 0x10 then { h with resets := 0 } else h

def State.clearCxl (s : State) (o : Nat) : State :=
  if o < 0x400 then s.onCxlPort (o / 0x100) fun p =>
    if o % 0x100 = 0x08 then { p with ce := 0 } else if o % 0x100 = 0x0C then { p with poison := 0 } else p
  else if 0x1000 ≤ o ∧ o < 0x1400 ∧ o % 0x20 = 0x18 then s.onCxlDev ((o - 0x1000) / 0x20) fun d => { d with rejected := 0 }
  else s

/-- A read of a word of BAR0 of the PF clears its RC field (R5); a VF's BAR0 has none. -/
def State.rcClear (s : State) (o : Nat) : State :=
  if !s.served then s
  else if o < 0x1000 then s
  else if o < 0x2000 then s.clearCc (o - 0x1000)
  else if o < 0x3000 then s.clearFlt (o - 0x2000)
  else if o < 0x4000 then s.clearTick (o - 0x3000)
  else if o < 0x5000 then s.clearHp (o - 0x4000)
  else if o < 0x6000 then s
  else if o < 0x8000 then s.clearKey (o - 0x6000)
  else if o < 0x1_0000 then s.clearCore (o - 0x8000)
  else if o < 0x1_4000 then s.clearLink (o - 0x1_0000)
  else if o < 0x1_8000 then s.clearCxl (o - 0x1_4000)
  else if o < 0x2_0000 then s.clearMem (o - 0x1_8000)
  else if 0x8_0000 ≤ o ∧ o < 0xC_0000 then s.clearCtx (o - 0x8_0000)
  else if 0xC_0000 ≤ o ∧ o < 0x10_0000 then s.clearQos (o - 0xC_0000)
  else s

/-- A place is reached: before Ready, BOOT alone (R441). -/
def State.reached (s : State) (f o : Nat) : Bool := s.served || decide (f = 0 ∧ o < 0x1000)

/-- What a read returned. -/
def State.answer (s : State) (v : Nat) : State := s.onReadData fun _ => v

/-- A 4-byte read: a low word latches its high word, which the next read of the high word returns (R4). `key` is the model offset. -/
def State.read4 (s : State) (f o key : Nat) : State :=
  let t := if f = 0 then s.rcClear o else s
  if wideAt f o then (t.answer (s.word f o)).onHighHeld fun m => mapPut m key (s.word f (o + 4))
  else match mapFind s.highHeld (key - 4) with
    | some v => if o % 8 = 4 ∧ wideAt f (o - 4) then (t.answer v).onHighHeld fun m => mapDel m (key - 4) else t.answer (s.word f o)
    | none => t.answer (s.word f o)

/-- An 8-byte read. -/
def State.read8 (s : State) (f o : Nat) : State :=
  let t := if f = 0 then (s.rcClear o).rcClear (o + 4) else s
  t.answer (s.word f o + at' (s.word f (o + 4)) 32)

/-- A read of a function's BAR0: one of another size or not aligned is an Unsupported Request without effect (R468); a function in D3hot
answers none (R465). The capability table is up to date when it is read (R474). -/
def State.barRead (s : State) (f o key size : Nat) : State :=
  if !s.barUp f then s
  else
    let s := if f = 0 ∧ 0x2_0000 ≤ o ∧ o < 0x3_0000 then s.refreshCap else s
    if (size = 4 ∨ size = 8) ∧ o % size = 0 then
      if !s.reached f o then s.answer 0 else if size = 4 then s.read4 f o key else s.read8 f o
    else s

/-- RC_REGISTER_READ (R4, R5, R464, R468): the model's offset runs over BAR0 of the PF and then of each VF (DESIGN CHOICE, log entry 48). -/
def execRcRegisterRead (offset size : Nat) (s : State) : Host.Outcome State Fault Refusal :=
  match barPlace offset with
  | some p => .next (s.barRead p.1 p.2 offset size)
  | none => .fault .outsideBar0

end Sys2Proof.Machine
end

