-- ==== Sys2Proof/Machine/RegWrite.lean ====
section
/-! DEFINITION. What a write to a register does (R3 to R8, R468), block by block of R469, and in the BAR0 of a VF (R470). A reserved
value leaves its field as it was (R8); the fields that act call what their own commands call. -/

namespace Sys2Proof.Machine
open Sys2Proof

/-- A node number, and not a reserved value (R1). -/
def nodeOk (n : Nat) : Bool := decide (n < 10240)

/-- A 64-bit value with its reserved low bits dropped. -/
def dropLow (v n : Nat) : Nat := v / 2 ^ n * 2 ^ n % 2 ^ 64

/-! ### BOOT (R460) -/

/-- `LC_REQ` (R453): code 2 waits for TO_OPENED, which brings the verdict on the authorisation's signature. -/
def State.writeLcReq (s : State) (v : Nat) : State :=
  if v = 1 ∨ v = 3 then s.lcWrite v false
  else if v = 2 then s.onBoot fun b => { b with lcReq := 2 }
  else s

def State.writeBoot (s : State) (o v : Nat) : State :=
  if o = 0x04 then s.onBoot fun b => { b with ifaceReq := bits v 15 0 }
  else if o = 0x0C then s.regStarterGo v
  else if o = 0x10 then s.onBoot fun b => { b with bus := dropLow v 6 }
  else if o = 0x18 then s.onBoot fun b => { b with len := v }
  else if o = 0x20 then s.onBoot fun b => { b with param := dropLow v 6 }
  else if o = 0x58 then s.regSvnCommit v
  else if o = 0x5C then s.writeLcReq (bits v 7 0)
  else if o = 0x60 then s.onBoot fun b => { b with lcConfirm := v }
  else if o = 0x68 then s.onBoot fun b => { b with lcAuth := dropLow v 6 }
  else s

/-! ### TICK (R164) -/

def State.writeTick (s : State) (o v : Nat) : State :=
  if o = 0x00 then s.onTick fun t => { t with refused := w1c t.refused (bit v 5) }
  else if o = 0x10 then s.onTick fun t => { t with loadShad := fieldWrite (fun x => decide (x % 65536 = 0)) t.loadShad v }
  else if o = 0x18 then s.regLoadCommit v
  else s

/-! ### LINK (R194, R198, R199) -/

/-- The torus sizes of a write, each from 1 to 64; a product above 10,240 is no torus (R196). -/
def Links.sizes (l : Links) (v : Nat) : Links :=
  let ok := fun (x : Nat) => decide (1 ≤ x ∧ x ≤ 64)
  let x := fieldWrite ok l.tx (bits v 7 0)
  let y := fieldWrite ok l.ty (bits v 15 8)
  let z := fieldWrite ok l.tz (bits v 23 16)
  if x * y * z ≤ 10240 then { l with tx := x, ty := y, tz := z } else l

/-- Every port is Off, Down or Failed. -/
def State.portsDark (s : State) : Bool := (List.range 8).all fun k => (s.port k).state.dark

def Window.put (w : Window) (o v : Nat) : Window :=
  if o = 0x00 then { w with valid := bit v 31, perm := bits v 14 13, vat := bits v 11 0 }
  else if o = 0x04 then { w with hi := fieldWrite nodeOk w.hi (bits v 31 16), lo := fieldWrite nodeOk w.lo (bits v 15 0) }
  else if o = 0x08 then { w with base := fieldWrite (fun x => decide (x % 256 = 0)) w.base (v % 2 ^ 52) }
  else if o = 0x10 then { w with size := fieldWrite (fun x => decide (x % 256 = 0 ∧ x ≤ 2 ^ 40)) w.size (v % 2 ^ 41) }
  else w

def State.writeWin (s : State) (n o v : Nat) : State :=
  if o = 0x18 then s.regWinCommit n v
  else s.onLinks fun l =>
    { l with winShad := mapSet Window.zero l.winShad n ((mapGet Window.zero l.winShad n).put o v) }

def State.writeLink (s : State) (o v : Nat) : State :=
  if o = 0x000 then if s.portsDark then s.onLinks fun l => { l with node := fieldWrite nodeOk l.node (bits v 15 0) } else s
  else if o = 0x004 then
    let t := s.onLinks fun l => { l with root := bit v 24 }
    if s.portsDark then t.onLinks fun l => l.sizes v else t
  else if o = 0x010 then s.regBypassOpen v
  else if 0x100 ≤ o ∧ o < 0x300 ∧ o % 0x40 = 0 then (s.regTrain ((o - 0x100) / 0x40) v).regUnfence ((o - 0x100) / 0x40) v
  else if 0x1000 ≤ o ∧ o < 0x3000 then s.writeWin ((o - 0x1000) / 0x20) (o % 0x20) v
  else s

/-! ### MEM (R231) -/

def State.writeMem (s : State) (o v : Nat) : State :=
  if o = 0x000 then s.onXl fun x => if x.enable then x else { x with ringBase := dropLow v 13 }
  else if o = 0x008 then s.onXl fun x => if x.enable then x else
    { x with ringLog := fieldWrite (fun n => decide (1 ≤ n ∧ n ≤ 6)) x.ringLog (bits v 3 0) }
  else if o = 0x00C then s.regFaultEnable v
  else if o = 0x014 then s.regFaultDone v
  else s

/-! ### CTX and doorbells (R301, R317) -/

/-- The admin queue as `ADMIN_ENABLE` puts it in use: no vector, class 0 (DEDUCED, log entry 49). -/
def HostObjs.adminQueue (b : HostObjs) : Queue := newQueue b.adminSq b.adminCq b.adminSqL b.adminCqL 0xFFFF 0

/-- `ADMIN_ENABLE` (R317): 1 puts the admin queue in use, 0 takes it out of use; its commands in dispatch then end without a completion
entry (DEDUCED, log entry 49). -/
def State.writeAdminEnable (s : State) (on : Bool) : State :=
  if on = s.objs.adminEn then s
  else if on then (s.onObjs fun b => { b with adminEn := true }).putQueue 0 0 s.objs.adminQueue
  else s.onObjs fun b => { b with
    adminEn := false
    queues := mapDel b.queues 0
    cmds := b.cmds.map fun c => if c.ref.ctx = 0 then { c with orphan := true } else c }

/-- A ring size of the admin queue. -/
def adminLogOk (n : Nat) : Bool := decide (4 ≤ n ∧ n ≤ 12)

/-- Flags of `QUEUE_ERROR` cleared by writing 1. -/
def clearBits (old v n : Nat) : Nat := maskOf n fun i => w1c (bit old i) (bit v i)

def State.writeQueueError (s : State) (c v : Nat) : State := s.onCtx c fun x => { x with qError := clearBits x.qError v 16 }

def State.writeCtx (s : State) (o v : Nat) : State :=
  if o = 0x014 then s.writeAdminEnable (bit v 0)
  else if o < 0x014 then s.onObjs fun b =>
    if b.adminEn then b
    else if o = 0x000 then { b with adminSq := dropLow v 12 }
    else if o = 0x008 then { b with adminCq := dropLow v 12 }
    else if o = 0x010 then { b with
      adminSqL := fieldWrite adminLogOk b.adminSqL (bits v 7 0), adminCqL := fieldWrite adminLogOk b.adminCqL (bits v 15 8) }
    else b
  else if 0x1_0000 ≤ o ∧ o < 0x3_0000 ∧ o % 0x20 = 0x18 then s.writeQueueError ((o - 0x1_0000) / 0x20) v
  else s

/-- A doorbell; a write to one whose queue does not exist is ignored (R469). -/
def State.writeDoor (s : State) (n o v : Nat) : State :=
  if (mapFind s.objs.queues n).isNone then s
  else if o = 0 then s.regSqTail (n / 16) (n % 16) v else s.regCqHead (n / 16) (n % 16) v

/-! ### QOS (R335 to R338) -/

def State.onQosShadow (s : State) (f : QosCfg → QosCfg) : State := s.onQos fun q => { q with shadow := f q.shadow }

/-- Entry `i` of a list replaced. -/
def setAt {α : Type} (l : List α) (i : Nat) (x : α) : List α := l.set i x

/-- The priorities of a write; class 6 has none (R335). -/
def QosCfg.putPrio (c : QosCfg) (v : Nat) : QosCfg :=
  [0, 1, 2, 3, 4, 5, 7].foldl (fun c i => { c with
    prio := setAt c.prio i (fieldWrite (fun x => decide (x < 8)) (nth 0 c.prio i) (bits v (4 * i + 3) (4 * i))) }) c

def PartCfg.put (p : PartCfg) (o v : Nat) : PartCfg :=
  if o = 0x00 then { p with sliceTicks := fieldWrite (fun x => decide (x = 0 ∨ (6250 ≤ x ∧ x < 0xFFFFFFFF))) p.sliceTicks v }
  else if o = 0x04 then { p with laneLimit := fieldWrite (fun x => decide (x ≤ 512)) p.laneLimit (bits v 15 0) }
  else if o = 0x08 then { p with rateHbm := bits v 15 0, depthHbm := bits v 31 16 }
  else if o = 0x0C then { p with rateCxl := bits v 15 0, depthCxl := bits v 31 16 }
  else if o = 0x10 then { p with rateHost := bits v 15 0, depthHost := bits v 31 16 }
  else p

def FuncCfg.put (u : FuncCfg) (o v : Nat) : FuncCfg :=
  if o = 0x00 then { u with ctxFirst := bits v 11 0, ctxCount := bits v 28 16 }
  else if o = 0x04 then { u with
    slotMin := bits v 5 0
    slotMax := bits v 13 8
    part := bits v 19 16
    classMax := bits v 26 24 }
  else if o = 0x08 then { u with fenceLo := bits v 15 0 }
  else if o = 0x0C then { u with fenceN := fieldWrite (fun x => decide (x ≤ 65536)) u.fenceN (bits v 16 0) }
  else if o = 0x10 then { u with objLimit := fieldWrite (fun x => decide (x ≤ 2 ^ 20)) u.objLimit (bits v 20 0) }
  else if o = 0x14 then { u with hbmFrames := bits v 15 0 }
  else if o = 0x18 then { u with caveFr := bits v 19 0 }
  else if o = 0x1C then { u with vatLo := bits v 11 0, vatHi := bits v 27 16 }
  else u

/-- FUNC entry `f`; of entry 0 only `SLOT_MIN` can be written (R333). -/
def State.writeFunc (s : State) (f o v : Nat) : State :=
  if o = 0x20 then s.regFuncCommit f v
  else s.onQos fun q => { q with
    funcShad := mapSet FuncCfg.zero q.funcShad f (funcEntry f ((mapGet FuncCfg.zero q.funcShad f).put o v)) }

def State.writeQosGlobal (s : State) (o v : Nat) : State :=
  if o = 0x000 then s.regQosCommit v
  else if o = 0x004 then s.onQos fun q => { q with missed := w1c q.missed (bit v 0), refused := w1c q.refused (bit v 1) }
  else if o = 0x010 then s.onQosShadow fun c => c.putPrio v
  else if o = 0x014 then s.onQosShadow fun c => { c with bursts := bits v 3 0 }
  else if o = 0x018 then s.onQosShadow fun c =>
    { c with kvLead := fieldWrite (fun x => decide (16 ≤ x ∧ x ≤ 0xFFFE)) c.kvLead (bits v 15 0) }
  else if 0x020 ≤ o ∧ o < 0x030 then
    let i := (o - 0x020) / 2
    s.onQosShadow fun c => { c with waitLimit := setAt (setAt c.waitLimit i (bits v 15 0)) (i + 1) (bits v 31 16) }
  else if 0x030 ≤ o ∧ o < 0x03C then
    let i := (o - 0x030) / 4
    s.onQosShadow fun c => { c with
      congHi := setAt c.congHi i (fieldWrite (fun x => decide (1 ≤ x ∧ x ≤ 256)) (nth 192 c.congHi i) (bits v 31 16))
      congLo := setAt c.congLo i (fieldWrite (fun x => decide (x ≤ 255)) (nth 128 c.congLo i) (bits v 15 0)) }
  else if 0x040 ≤ o ∧ o < 0x080 ∧ o % 8 = 0 then
    s.onQosShadow fun c => { c with vats := setAt c.vats ((o - 0x040) / 8) (bit v 31, b2n (bit v 16), bits v 11 0) }
  else s

def State.writeQos (s : State) (o v : Nat) : State :=
  if o < 0x100 then s.writeQosGlobal o v
  else if o < 0x300 then
    let p := (o - 0x100) / 0x20
    s.onQosShadow fun c => { c with parts := mapSet PartCfg.reset c.parts p ((mapGet PartCfg.reset c.parts p).put (o % 0x20) v) }
  else if 0x1000 ≤ o ∧ o < 0x2000 then s.writeFunc ((o - 0x1000) / 0x40) (o % 0x40) v
  else if 0x1_0000 ≤ o ∧ o < 0x3_0000 ∧ o % 0x20 = 0 then
    s.onQosShadow fun c => { c with ctxPart := mapSet 0 c.ctxPart ((o - 0x1_0000) / 0x20) (bits v 3 0) }
  else s

/-! ### CC (R359, R360) -/

/-- A write of `SPLIT_RESOLVE` at complex `k`; a value not listed is refused (R359). -/
def State.writeSplit (s : State) (k v : Nat) : State :=
  if v = 1 then s.regSplitResume k
  else if v = 2 then s.regSplitRejoin k
  else if v = 3 then s.regSplitDeviceReset k
  else s.ccRefuse

/-- The group of complex `k` through BAR0; `HB_SEQ` and `SELF_FAIL` belong to the harts. -/
def State.writeGroup (s : State) (k o v : Nat) : State :=
  if s.groupHidden k then s.ccRefuse
  else if o = 0x0C then s.writeSplit k (bits v 7 0)
  else if o = 0x10 then s.regPeerRestart k v
  else s

def State.writeCc (s : State) (o v : Nat) : State :=
  if o = 0x004 then s.onCc fun c => { c with refused := w1c c.refused (bit v 0) }
  else if 0x100 ≤ o ∧ o < 0x200 then s.writeGroup ((o - 0x100) / 0x80) (o % 0x80) v
  else s

/-! ### KEY (R391) -/

def State.writeKey (s : State) (o v : Nat) : State :=
  if o = 0x000 then s.onKeys fun k => { k with reqBus := dropLow v 6 }
  else if o = 0x008 then s.kvStart (bits v 7 0)
  else if o = 0x010 then s.onKeys fun k => { k with arg := bits v 7 0 }
  else if o = 0x020 then s.onKeys fun k => { k with epochNext := v }
  else if o = 0x028 then s.onKeys fun k => { k with switchNext := fieldWrite (fun x => decide (x % 65536 = 0)) k.switchNext v }
  else if o = 0x030 then s.regLinkCommit v
  else s

/-! ### FLT (R414, R415) -/

/-- A log entry; while it is enabled its ring fields stay as they are. -/
def LogEnt.put (e : LogEnt) (o v : Nat) : LogEnt :=
  if o = 0x00 then
    let e' := { e with enable := bit v 31 }
    if e.enable then e' else { e' with
      log2 := fieldWrite (fun n => decide (6 ≤ n ∧ n ≤ 16)) e.log2 (bits v 20 16), vat := bits v 11 0 }
  else if o = 0x08 then if e.enable then e else { e with bus := dropLow v 5 }
  else if o = 0x14 then { e with consumer := v }
  else e

def State.writeFlt (s : State) (o v : Nat) : State :=
  if o = 0x000 then s.requestReset (bits v 19 16) (bits v 15 0)
  else if o = 0x004 then s.onFlt fun f => { f with refused := w1c f.refused (bit v 0) }
  else if o = 0x010 then s.onFlt fun f => { f with dumpBus := dropLow v 12 }
  else if o = 0x018 then s.onFlt fun f => { f with dumpLen := fieldWrite (fun n => decide (n % 4096 = 0)) f.dumpLen v }
  else if 0x100 ≤ o ∧ o < 0x200 then
    let n := (o - 0x100) / 0x20
    s.onFlt fun f => { f with logs := mapSet LogEnt.zero f.logs n ((mapGet LogEnt.zero f.logs n).put (o % 0x20) v) }
  else s

/-! ### PWR (R436, R437) -/

def State.onPwrShadow (s : State) (f : PwrCfg → PwrCfg) : State := s.onPower fun p => { p with shadow := f p.shadow }

/-- The gears of `FIXED_GEAR`. -/
def fixedGearOk (g : Nat) : Bool := [64, 60, 56, 48, 40, 32].contains g

def State.writePwr (s : State) (o v : Nat) : State :=
  if o = 0x000 then s.onPwrShadow fun c => { c with cap := fieldWrite (fun x => decide (500 ≤ x ∧ x ≤ 3300)) c.cap (bits v 15 0) }
  else if o = 0x004 then s.onPwrShadow fun c => { c with
    gear := fieldWrite fixedGearOk c.gear (bits v 15 8), boost := bit v 1, fixed := bit v 0 }
  else if o = 0x008 then s.onPwrShadow fun c => { c with
    throttle := fieldWrite (fun x => decide (70 ≤ x ∧ x ≤ 100)) c.throttle (bits v 15 8)
    restMax := fieldWrite (fun x => decide (x ≤ 48)) c.restMax (bits v 5 0) }
  else if o = 0x00C then s.regPwrCommit v
  else if o = 0x01C then s.onPower fun p => { p with
    unmet := w1c p.unmet (bit v 0), throttled := w1c p.throttled (bit v 2), hotSeen := w1c p.hotSeen (bit v 3)
    conflict := w1c p.conflict (bit v 4), cellarNo := w1c p.cellarNo (bit v 5) }
  else if o = 0x02C then (s.regCellarReq v).regCellarExit v
  else if 0x100 ≤ o ∧ o < 0x140 then
    let k := (o - 0x100) / 4
    s.onPower fun p => { p with
      floorShad := mapSet 0 p.floorShad k (fieldWrite (fun x => decide (x % 50 = 0)) (mapGet 0 p.floorShad k) (bits v 15 0)) }
  else s

/-! ### CAP, CXL and MSI-X (R472, R474, R479) -/

def State.writeCap (s : State) (o v : Nat) : State :=
  if o = 0x20 then s.onCap fun c => { c with aux0 := bits v 15 0, aux1 := bits v 31 16 } else s

def State.writeCxl (s : State) (o v : Nat) : State :=
  if o < 0x400 ∧ o % 0x100 = 0x04 then s.regPortEnable (o / 0x100) v
  else if 0x1000 ≤ o ∧ o < 0x1400 ∧ o % 0x20 = 0 then s.regPoolId ((o - 0x1000) / 0x100) (o % 0x100 / 0x20) v
  else s

/-- A write in a function's MSI-X table: a word of the message address, the data, the vector control with its mask bit. -/
def State.writeVector (s : State) (f n o v : Nat) : State :=
  if vectorsOf f ≤ n then s
  else if o = 0 ∨ o = 4 then s.onFunc f fun u =>
    let a := (u.entry n).1
    let a := if o = 0 then a / 2 ^ 32 * 2 ^ 32 + v % 2 ^ 32 else a % 2 ^ 32 + v % 2 ^ 32 * 2 ^ 32
    { u with table := mapSet (0, 0, true) u.table n (a, (u.entry n).2.1, (u.entry n).2.2) }
  else if o = 8 then s.onFunc f fun u => { u with table := mapSet (0, 0, true) u.table n ((u.entry n).1, v, (u.entry n).2.2) }
  else if o = 12 then s.setMask f n (bit v 0)
  else s

/-! ### The maps -/

/-- The effect of a write on the register at an offset of BAR0 of the PF: `v` has 64 bits at a 64-bit register, else 32 (R469). -/
def State.pfWrite (s : State) (o v : Nat) : State :=
  if o < 0x1000 then s.writeBoot o v
  else if !s.served then s
  else if o < 0x2000 then s.writeCc (o - 0x1000) v
  else if o < 0x3000 then s.writeFlt (o - 0x2000) v
  else if o < 0x4000 then s.writeTick (o - 0x3000) v
  else if o < 0x6000 then s
  else if o < 0x8000 then s.writeKey (o - 0x6000) v
  else if o < 0x1_0000 then s
  else if o < 0x1_4000 then s.writeLink (o - 0x1_0000) v
  else if o < 0x1_8000 then s.writeCxl (o - 0x1_4000) v
  else if o < 0x2_0000 then s.writeMem (o - 0x1_8000) v
  else if o < 0x3_0000 then s.writeCap (o - 0x2_0000) v
  else if o < 0x3_8000 then s.writeVector 0 ((o - 0x3_0000) / 16) (o % 16) v
  else if o < 0x4_0000 then s
  else if o < 0x6_0000 then s.writePwr (o - 0x4_0000) v
  else if o < 0x8_0000 then s
  else if o < 0xC_0000 then s.writeCtx (o - 0x8_0000) v
  else if o < 0x10_0000 then s.writeQos (o - 0xC_0000) v
  else if 0x80_0000 ≤ o ∧ o < 0x88_0000 then s.writeDoor ((o - 0x80_0000) / 8) (o % 8) v
  else s

/-- The effect of a write at an offset of BAR0 of VF `f` (R470). -/
def State.vfWrite (s : State) (f o v : Nat) : State :=
  if !s.served then s
  else if 0x1000 ≤ o ∧ o < 0x1400 then s.writeVector f ((o - 0x1000) / 16) (o % 16) v
  else if 0x1_0000 ≤ o ∧ o < 0x2_0000 then
    match s.vfCtx f ((o - 0x1_0000) / 0x10) with
    | some c => if o % 0x10 = 0 then s.writeQueueError c (bits v 31 16) else s
    | none => s
  else if 0x8_0000 ≤ o then
    match s.vfCtx f ((o - 0x8_0000) / 0x80) with
    | some c => s.writeDoor (16 * c + o % 0x80 / 8) (o % 8) v
    | none => s
  else s

/-- The register at a place takes a value. -/
def State.put (s : State) (f o v : Nat) : State := if f = 0 then s.pfWrite o v else s.vfWrite f o v

/-- A 4-byte write: the low word of a 64-bit register is held, its high word brings the whole value, with the low word held or else the
current one (R4). `key` is the model offset. -/
def State.write4 (s : State) (f o key v : Nat) : State :=
  if wideAt f o then s.onLowHeld fun m => mapPut m key v
  else if o % 8 = 4 ∧ wideAt f (o - 4) then
    let low := (mapFind s.lowHeld (key - 4)).getD (s.word f (o - 4))
    (s.put f (o - 4) (low + at' v 32)).onLowHeld fun m => mapDel m (key - 4)
  else s.put f o v

/-- An 8-byte write. -/
def State.write8 (s : State) (f o key v : Nat) : State :=
  if wideAt f o then (s.put f o v).onLowHeld fun m => mapDel m key
  else (s.write4 f o key (v % 2 ^ 32)).write4 f (o + 4) (key + 4) (v / 2 ^ 32)

/-- A write to a function's BAR0: one of another size or not aligned has no effect (R468); a function in D3hot answers none (R465). -/
def State.barWrite (s : State) (f o key size v : Nat) : State :=
  if !s.barUp f ∨ !s.reached f o then s
  else if size = 4 ∧ o % 4 = 0 then s.write4 f o key (v % 2 ^ 32)
  else if size = 8 ∧ o % 8 = 0 then s.write8 f o key (v % 2 ^ 64)
  else s

/-- REGISTER_WRITE (R3 to R8, R464, R468): the model's offset runs over BAR0 of the PF and then of each VF (DESIGN CHOICE, log entry 48). -/
def execRegisterWrite (offset size value : Nat) (s : State) : Host.Outcome State Fault Refusal :=
  match barPlace offset with
  | some p => .next (s.barWrite p.1 p.2 offset size value)
  | none => .fault .outsideBar0

end Sys2Proof.Machine
end

