-- ==== Sys2Proof/Machine/Pins.lean ====
section
/-! DEFINITION. The reset inputs and straps (R441, R488, R490, R492), the by-pass supply (R500) and the test access port (R494). -/

namespace Sys2Proof.Machine
open Sys2Proof

/-! ### Reset inputs -/

/-- RESET_RELEASE (R441, R488, R490, R492): PWRGD and PERST_N are both high; the straps are sampled, the tamper pin is armed, and boot
begins unless Trip holds the reset (R430). By then VBYP is in its band (R488). -/
def State.resetRelease (s : State) (sbAddr : Nat) : State :=
  if s.pins.pwrgd && s.pins.perstN then s
  else (s.onPins fun p =>
    { p with pwrgd := true, perstN := true, armed := true, straps := sbAddr % 16, vbyp := true }).release

def execResetRelease (sbAddr : Nat) (s : State) : Host.Outcome State Fault Refusal := .next (s.resetRelease sbAddr)

/-- PWRGD_FALL (R490, R492): the device is held in device reset, tamper detection is disarmed. It acts within 1 µs, so no dump is
collected (DEDUCED, log entry 50). -/
def State.pwrgdFall (s : State) : State := (s.onPins fun p => { p with pwrgd := false, armed := false }).cleared

def execPwrgdFall (s : State) : Host.Outcome State Fault Refusal := .next s.pwrgdFall

/-- PERST_N_ASSERT (R398, R490): a device reset, held while the pin is low; the host port is not in service, so no dump is written
(DEDUCED, log entry 50). -/
def State.perstAssert (s : State) : State := (s.onPins fun p => { p with perstN := false }).cleared

def execPerstNAssert (s : State) : Host.Outcome State Fault Refusal := .next s.perstAssert

/-! ### The by-pass supply (R500) -/

/-- Every open pair closes, and none opens. -/
def Links.closePairs (l : Links) : Links :=
  { l with moving := ((List.range 4).filter fun p => bit l.pairs p).map fun p => (p, false) }

/-- VBYP_OUT_OF_BAND (R500). -/
def execVbypOutOfBand (s : State) : Host.Outcome State Fault Refusal :=
  .next ((s.onPins fun p => { p with vbyp := false }).onLinks Links.closePairs)

/-! ### The test access port (R494; IEEE 1149.1, PRESUMED, log entry 51) -/

/-- The state that follows at a rising edge of TCK. -/
def TapState.next (t : TapState) (tms : Bool) : TapState :=
  match t, tms with
  | .reset, true => .reset
  | .reset, false => .idle
  | .idle, true => .selDr
  | .idle, false => .idle
  | .selDr, true => .selIr
  | .selDr, false => .capDr
  | .capDr, true => .exit1Dr
  | .capDr, false => .shiftDr
  | .shiftDr, true => .exit1Dr
  | .shiftDr, false => .shiftDr
  | .exit1Dr, true => .updDr
  | .exit1Dr, false => .pauseDr
  | .pauseDr, true => .exit2Dr
  | .pauseDr, false => .pauseDr
  | .exit2Dr, true => .updDr
  | .exit2Dr, false => .shiftDr
  | .updDr, true => .selDr
  | .updDr, false => .idle
  | .selIr, true => .reset
  | .selIr, false => .capIr
  | .capIr, true => .exit1Ir
  | .capIr, false => .shiftIr
  | .shiftIr, true => .exit1Ir
  | .shiftIr, false => .shiftIr
  | .exit1Ir, true => .updIr
  | .exit1Ir, false => .pauseIr
  | .pauseIr, true => .exit2Ir
  | .pauseIr, false => .pauseIr
  | .exit2Ir, true => .updIr
  | .exit2Ir, false => .shiftIr
  | .updIr, true => .selDr
  | .updIr, false => .idle

/-- Bits the instruction register captures: 01, the 1 first, then free ones. -/
def captureIr (fresh : Nat) : List Bool :=
  (List.range (Config.irBits + 2)).map fun i => if i = 0 then true else if i = 1 then false else bit (Config.freeNat fresh) i

/-- What the controller does at a rising edge of TCK in the state it stands in. -/
def Pins.tapAct (p : Pins) (tdi : Bool) (fresh : Nat) : Pins :=
  match p.tap with
  | .capIr => { p with irBits := captureIr fresh }
  | .shiftIr => { p with irBits := p.irBits.drop 1 ++ [tdi] }
  | .updIr => p
  | .capDr => if p.isByp then { p with bypass := false } else p
  | .shiftDr => if p.isByp then { p with bypass := tdi } else p
  | .reset => p
  | .idle => p
  | .selDr => p
  | .exit1Dr => p
  | .pauseDr => p
  | .exit2Dr => p
  | .updDr => p
  | .selIr => p
  | .exit1Ir => p
  | .pauseIr => p
  | .exit2Ir => p

/-- The controller enters a state: Test-Logic-Reset selects BYPASS, Update-IR the instruction shifted in, BYPASS being all ones; TDO is
driven in the shift states alone, with a free bit for the data register of another instruction. -/
def Pins.tapEnter (p : Pins) (t : TapState) (fresh : Nat) : Pins :=
  let p := { p with tap := t }
  if t = .reset then { p with isByp := true, tdo := none }
  else if t = .updIr then { p with isByp := p.irBits.all id, tdo := none }
  else if t = .shiftIr then { p with tdo := some (nth false p.irBits 0) }
  else if t = .shiftDr then { p with tdo := some (if p.isByp then p.bypass else bit (Config.freeNat fresh) 0) }
  else { p with tdo := none }

/-- The TAP is usable in Green and Opened alone. -/
def Fuses.testable (f : Fuses) : Bool := decide (f.state = 0 ∨ f.state = 2)

/-- JTAG_TCK_EDGE (R494): TRST_N low, Ripe and Spent hold Test-Logic-Reset. -/
def State.tckEdge (s : State) (tms tdi trstN : Bool) : State :=
  if s.fuses.testable && trstN then
    (s.onPins fun p => (p.tapAct tdi s.fresh).tapEnter (p.tap.next tms) (s.fresh + 1)).draw 2
  else s.onPins fun p => p.tapEnter .reset s.fresh

def execJtagTckEdge (tms tdi trstN : Bool) (s : State) : Host.Outcome State Fault Refusal := .next (s.tckEdge tms tdi trstN)

end Sys2Proof.Machine
end

