-- ==== Sys2Proof/Machine/Side.lean ====
section
/-! DEFINITION. The management sideband (R480 to R482). Each answer is a message the package sends: `MSG`, `HALF`, `RESULT` and the
body's numbers, then the body's bytes (DESIGN CHOICE, log entry 52). -/

namespace Sys2Proof.Machine
open Sys2Proof

/-- The endpoint is in service from stage 1 on, while a complex can answer (R480). -/
def State.sideUp (s : State) : Bool := decide (1 ≤ s.boot.stage) && !s.cc.both

/-- An answer of the endpoint: FORMAT, MSG, HALF, RESULT, then its body (R481). -/
def State.sideAnswer (s : State) (msg half result : Nat) (nums : List Nat) (body : List Byte) : State :=
  s.send "SIDEBAND" 0 ([0x1000, msg, half, result] ++ nums) body

/-- MCTP control messages of DSP0236 (R480): 0x01 Set Endpoint ID, 0x02 Get Endpoint ID, 0x05 Get Message Type Support; any other
command code is answered as unsupported, 0x05 (PRESUMED, log entry 53). -/
def State.mctp (s : State) (command data : Nat) : State :=
  if !s.sideUp then s
  else if command = 0x01 then
    if 8 ≤ data % 256 ∧ data % 256 < 255 then (s.onSide fun _ => ⟨data % 256⟩).send "MCTP" 0 [0x01, 0x00, data % 256] []
    else s.send "MCTP" 0 [0x01, 0x02] []
  else if command = 0x02 then s.send "MCTP" 0 [0x02, 0x00, s.side.eid] []
  else if command = 0x05 then s.send "MCTP" 0 [0x05, 0x00, 0x00, 0x7E] []
  else s.send "MCTP" 0 [command, 0x05] []

/-- MCTP_CONTROL (R480). -/
def execMctpControl (command data : Nat) (s : State) : Host.Outcome State Fault Refusal := .next (s.mctp command data)

/-- The header of a request is well formed (R481). -/
def sideHeadOk (format half rsv : Nat) : Bool := decide (format = 0x1000 ∧ half < 2 ∧ rsv = 0)

/-- A request that is answered before Ready (R482). -/
def State.sideEarly (s : State) (msg format half rsv : Nat) (f : State → State) : State :=
  if !s.sideUp then s else if !sideHeadOk format half rsv then s.sideAnswer msg half 0x03 [] [] else f s

/-- Any other request: before Ready it is answered with 0x01 (R482). -/
def State.sideLate (s : State) (msg format half rsv : Nat) (f : State → State) : State :=
  if !s.sideUp then s
  else if !s.served then s.sideAnswer msg half 0x01 [] []
  else if !sideHeadOk format half rsv then s.sideAnswer msg half 0x03 [] [] else f s

/-- PKG_TELEMETRY (R482). -/
def execPkgTelemetry (format half rsv : Nat) (s : State) : Host.Outcome State Fault Refusal :=
  .next (s.sideEarly 0x01 format half rsv fun s =>
    s.sideAnswer 0x01 half 0x00 [s.avgWatts, s.tempBits, s.power.therm, s.boot.state.code, s.power.cellar.code] [])

/-- PARTITION_POWER (R482): one partition's reading. -/
def execPartitionPower (format half rsv partition : Nat) (s : State) : Host.Outcome State Fault Refusal :=
  .next (s.sideLate 0x02 format half rsv fun s =>
    if 16 ≤ partition then s.sideAnswer 0x02 half 0x03 [] []
    else s.sideAnswer 0x02 half 0x00 [s.fits 16 (s.partReading partition)] [])

/-- REPORT_START (R392, R482): a second request while one runs gets 0x01. -/
def execReportStart (format half rsv : Nat) (nonce : List Byte) (s : State) : Host.Outcome State Fault Refusal :=
  .next (s.sideLate 0x03 format half rsv fun s =>
    if s.keys.sideReq.isSome then s.sideAnswer 0x03 half 0x01 [] []
    else (s.onKeys fun v => { v with sideReq := some (fitBytes 32 nonce), report := none }).sideAnswer 0x03 half 0x00 [] [])

/-- LIFECYCLE_GET (R482). -/
def execLifecycleGet (format half rsv : Nat) (s : State) : Host.Outcome State Fault Refusal :=
  .next (s.sideEarly 0x04 format half rsv fun s =>
    s.sideAnswer 0x04 half 0x00 [s.keys.lifecycle, b2n (tamperSeen s.jdata), s.boot.count] [])

/-- REPORT_READ (R482): 0x01 before a report has ended. -/
def execReportRead (format half rsv offset len : Nat) (s : State) : Host.Outcome State Fault Refusal :=
  .next (s.sideLate 0x05 format half rsv fun s =>
    if 1000 < len then s.sideAnswer 0x05 half 0x03 [] []
    else match s.keys.report with
      | some r => s.sideAnswer 0x05 half 0x00 [] ((r.drop offset).take len)
      | none => s.sideAnswer 0x05 half 0x01 [] [])

/-- SB_METER_READ (R292, R482): records in `METER_SEQ` order; none is released. -/
def execSbMeterRead (format half rsv fromSeq count : Nat) (s : State) : Host.Outcome State Fault Refusal :=
  .next (s.sideLate 0x06 format half rsv fun s =>
    if count = 0 ∨ 7 < count then s.sideAnswer 0x06 half 0x03 [] []
    else s.sideAnswer 0x06 half 0x00 [] ((s.meters.filter fun b => decide (fromSeq ≤ meterSeq b)).take count).flatten)

/-- CELLAR_WAKE (R435, R482). -/
def execCellarWake (format half rsv : Nat) (s : State) : Host.Outcome State Fault Refusal :=
  .next (s.sideLate 0x07 format half rsv fun s =>
    if s.power.cellar = .cellar then s.wake.sideAnswer 0x07 half 0x00 [] [] else s.sideAnswer 0x07 half 0x01 [] [])

/-- The 128 bytes of a group of the CC block. -/
def State.ccGroup (s : State) (k : Nat) : List Byte := (List.range 32).flatMap fun w => leBytes 4 (s.ccWord k w)

/-- CC_STATUS (R360, R482). -/
def execCcStatus (format half rsv : Nat) (s : State) : Host.Outcome State Fault Refusal :=
  .next (s.sideLate 0x08 format half rsv fun s => s.sideAnswer 0x08 half 0x00 [] (s.ccGroup half))

/-- SPLIT_RESOLVE (R359, R482): complex `half` takes the write and answers with what it made of it. -/
def State.sideSplit (s : State) (half value : Nat) : State :=
  if !(s.cplx half).serves then s else
  let ok := (s.cplx half).split && (decide (value = 1 ∧ (s.cplx half).state = .senior) || (decide (value = 2) && s.mayRejoin half) ||
    decide (value = 3))
  (s.writeSplit half value).sideAnswer 0x09 half (if ok then 0x00 else 0x02) [] []

def execSplitResolve (format half rsv value : Nat) (s : State) : Host.Outcome State Fault Refusal :=
  .next (s.sideLate 0x09 format half rsv fun s => s.sideSplit half (value % 256))

/-- LC_SPENT (R453, R482): acts as TO_SPENT; a request that R453 refuses is answered as refused. -/
def execLcSpent (format half rsv confirm : Nat) (s : State) : Host.Outcome State Fault Refusal :=
  .next (s.sideLate 0x0A format half rsv fun s =>
    let t := s.lcRequest 3 confirm false
    t.sideAnswer 0x0A half (if t.boot.lcResult = 0x01 then 0x00 else 0x02) [t.boot.lcResult] [])

end Sys2Proof.Machine
end

