-- ==== Sys2Proof/Machine/Dispatch.lean ====
section
/-! DEFINITION. The meaning of each command: one arm per constructor of `Instr`. -/

namespace Sys2Proof.Machine
open Sys2Proof

def exec (i : Instr) (s : State) : Host.Outcome State Fault Refusal :=
  match i with
  | .tickEdge frame inTol stalls => Sys2Proof.Machine.execTickEdge frame inTol stalls s
  | .loadCommit value => Sys2Proof.Machine.execLoadCommit value s
  | .droopStretch cycle => Sys2Proof.Machine.execDroopStretch cycle s
  | .gearArm vat gear seq => Sys2Proof.Machine.execGearArm vat gear seq s
  | .gearAck node gear seq => Sys2Proof.Machine.execGearAck node gear seq s
  | .gearReq node arg => Sys2Proof.Machine.execGearReq node arg s
  | .restReq vat node f => Sys2Proof.Machine.execRestReq vat node f s
  | .laneTableFreeze vat => Sys2Proof.Machine.execLaneTableFreeze vat s
  | .stepStart vat announced => Sys2Proof.Machine.execStepStart vat announced s
  | .stepBoundary vat reports => Sys2Proof.Machine.execStepBoundary vat reports s
  | .boundaryMark vat => Sys2Proof.Machine.execBoundaryMark vat s
  | .stepHang vat => Sys2Proof.Machine.execStepHang vat s
  | .samplerDraw vat => Sys2Proof.Machine.execSamplerDraw vat s
  | .refreshWindowStart stack channel => Sys2Proof.Machine.execRefreshWindowStart stack channel s
  | .mm core w f => Sys2Proof.Machine.execMm core w f s
  | .accStore core w f => Sys2Proof.Machine.execAccStore core w f s
  | .accLoad core w f => Sys2Proof.Machine.execAccLoad core w f s
  | .tblLoad core w f => Sys2Proof.Machine.execTblLoad core w f s
  | .decode core w f => Sys2Proof.Machine.execDecode core w f s
  | .get core w far f => Sys2Proof.Machine.execGet core w far f s
  | .put core w f => Sys2Proof.Machine.execPut core w f s
  | .send core w f => Sys2Proof.Machine.execSend core w f s
  | .moverCopy core w f => Sys2Proof.Machine.execMoverCopy core w f s
  | .getx core w far f => Sys2Proof.Machine.execGetx core w far f s
  | .getl core w f => Sys2Proof.Machine.execGetl core w f s
  | .putl core w f => Sys2Proof.Machine.execPutl core w f s
  | .curdHbmReadReady dpa ecc => Sys2Proof.Machine.execCurdHbmReadReady dpa ecc s
  | .vld core w f => Sys2Proof.Machine.execVld core w f s
  | .vst core w f => Sys2Proof.Machine.execVst core w f s
  | .vldmx core w f => Sys2Proof.Machine.execVldmx core w f s
  | .vstmx core w f => Sys2Proof.Machine.execVstmx core w f s
  | .vmsk core w f => Sys2Proof.Machine.execVmsk core w f s
  | .vatom core w f => Sys2Proof.Machine.execVatom core w f s
  | .vswap core w f => Sys2Proof.Machine.execVswap core w f s
  | .add core w f => Sys2Proof.Machine.execAdd core w f s
  | .sub core w f => Sys2Proof.Machine.execSub core w f s
  | .mul core w f => Sys2Proof.Machine.execMul core w f s
  | .div core w f => Sys2Proof.Machine.execDiv core w f s
  | .fma core w f => Sys2Proof.Machine.execFma core w f s
  | .min core w f => Sys2Proof.Machine.execMin core w f s
  | .max core w f => Sys2Proof.Machine.execMax core w f s
  | .abs core w f => Sys2Proof.Machine.execAbs core w f s
  | .neg core w f => Sys2Proof.Machine.execNeg core w f s
  | .mov core w f => Sys2Proof.Machine.execMov core w f s
  | .bcast core w f => Sys2Proof.Machine.execBcast core w f s
  | .rnd core w f => Sys2Proof.Machine.execRnd core w f s
  | .rcp core w f => Sys2Proof.Machine.execRcp core w f s
  | .sqrt core w f => Sys2Proof.Machine.execSqrt core w f s
  | .rsqrt core w f => Sys2Proof.Machine.execRsqrt core w f s
  | .exp core w f => Sys2Proof.Machine.execExp core w f s
  | .exp2 core w f => Sys2Proof.Machine.execExp2 core w f s
  | .log2 core w f => Sys2Proof.Machine.execLog2 core w f s
  | .sinpi core w f => Sys2Proof.Machine.execSinpi core w f s
  | .cospi core w f => Sys2Proof.Machine.execCospi core w f s
  | .tanh core w f => Sys2Proof.Machine.execTanh core w f s
  | .rsum core w f => Sys2Proof.Machine.execRsum core w f s
  | .rmax core w f => Sys2Proof.Machine.execRmax core w f s
  | .rmin core w f => Sys2Proof.Machine.execRmin core w f s
  | .rmsnorm core w f => Sys2Proof.Machine.execRmsnorm core w f s
  | .layernorm core w f => Sys2Proof.Machine.execLayernorm core w f s
  | .softmax core w f => Sys2Proof.Machine.execSoftmax core w f s
  | .rope core w f => Sys2Proof.Machine.execRope core w f s
  | .silu core w f => Sys2Proof.Machine.execSilu core w f s
  | .gelu core w f => Sys2Proof.Machine.execGelu core w f s
  | .swiglu core w f => Sys2Proof.Machine.execSwiglu core w f s
  | .routerSlotMove router inPort outMask ecc => Sys2Proof.Machine.execRouterSlotMove router inPort outMask ecc s
  | .wheyPacketForward router inPort ecc => Sys2Proof.Machine.execWheyPacketForward router inPort ecc s
  | .wheyReadRequest p ecc => Sys2Proof.Machine.execWheyReadRequest p ecc s
  | .wheyReadData p ecc => Sys2Proof.Machine.execWheyReadData p ecc s
  | .wheyWrite p ecc => Sys2Proof.Machine.execWheyWrite p ecc s
  | .wheyWriteAck p ecc => Sys2Proof.Machine.execWheyWriteAck p ecc s
  | .kvPageTransfer vat session ordinal toCave ecc => Sys2Proof.Machine.execKvPageTransfer vat session ordinal toCave ecc s
  | .remoteWindowAccess srcNode write p => Sys2Proof.Machine.execRemoteWindowAccess srcNode write p s
  | .linkSlotTransmit port slot h0 h1 => Sys2Proof.Machine.execLinkSlotTransmit port slot h0 h1 s
  | .curdFlitReceive port slot fl => Sys2Proof.Machine.execCurdFlitReceive port slot fl s
  | .curdFlitDeliver port slot => Sys2Proof.Machine.execCurdFlitDeliver port slot s
  | .wheyFlitReceive port vc fl => Sys2Proof.Machine.execWheyFlitReceive port vc fl s
  | .tickMarker port m => Sys2Proof.Machine.execTickMarker port m s
  | .portDown port lockLost => Sys2Proof.Machine.execPortDown port lockLost s
  | .train port value => Sys2Proof.Machine.execTrain port value s
  | .unfence port value => Sys2Proof.Machine.execUnfence port value s
  | .lightDetect port lanes => Sys2Proof.Machine.execLightDetect port lanes s
  | .lightLoss port lanes codewordLock => Sys2Proof.Machine.execLightLoss port lanes codewordLock s
  | .linkEqualiseDone port => Sys2Proof.Machine.execLinkEqualiseDone port s
  | .linkStageTimeout port => Sys2Proof.Machine.execLinkStageTimeout port s
  | .peerId port node peerPort tx ty tz => Sys2Proof.Machine.execPeerId port node peerPort tx ty tz s
  | .echoReq port seq holdQ => Sys2Proof.Machine.execEchoReq port seq holdQ s
  | .echoResp port seq roundTripQ holdQ => Sys2Proof.Machine.execEchoResp port seq roundTripQ holdQ s
  | .align port tick aligned phiQ => Sys2Proof.Machine.execAlign port tick aligned phiQ s
  | .linkVerifyEnd port r => Sys2Proof.Machine.execLinkVerifyEnd port r s
  | .bypassOpen value => Sys2Proof.Machine.execBypassOpen value s
  | .bypassSwitchDone pair => Sys2Proof.Machine.execBypassSwitchDone pair s
  | .linkCommit value => Sys2Proof.Machine.execLinkCommit value s
  | .linkKeyVerifyRound port session ok => Sys2Proof.Machine.execLinkKeyVerifyRound port session ok s
  | .winCommit window value => Sys2Proof.Machine.execWinCommit window value s
  | .mcReserve srcNode vat tag len window offset => Sys2Proof.Machine.execMcReserve srcNode vat tag len window offset s
  | .mcGrant target tag status => Sys2Proof.Machine.execMcGrant target tag status s
  | .mcAck target tag => Sys2Proof.Machine.execMcAck target tag s
  | .mcCommit srcNode tag => Sys2Proof.Machine.execMcCommit srcNode tag s
  | .mcCancel srcNode tag status => Sys2Proof.Machine.execMcCancel srcNode tag status s
  | .multicastStall tag => Sys2Proof.Machine.execMulticastStall tag s
  | .memberDown vat node reporter => Sys2Proof.Machine.execMemberDown vat node reporter s
  | .halt vat tick move => Sys2Proof.Machine.execHalt vat tick move s
  | .resume vat tick compSeq moved => Sys2Proof.Machine.execResume vat tick compSeq moved s
  | .memberReady vat lpkg phase => Sys2Proof.Machine.execMemberReady vat lpkg phase s
  | .remouldStageDone vat status => Sys2Proof.Machine.execRemouldStageDone vat status s
  | .pauseLoadDone vat status => Sys2Proof.Machine.execPauseLoadDone vat status s
  | .recoveryTimeout vat => Sys2Proof.Machine.execRecoveryTimeout vat s
  | .boundaryReport vat tick => Sys2Proof.Machine.execBoundaryReport vat tick s
  | .boundaryReportTimer vat => Sys2Proof.Machine.execBoundaryReportTimer vat s
  | .deputyTakeover vat => Sys2Proof.Machine.execDeputyTakeover vat s
  | .takeover vat sender => Sys2Proof.Machine.execTakeover vat sender s
  | .coreRetired vat lpkg core => Sys2Proof.Machine.execCoreRetired vat lpkg core s
  | .offer m => Sys2Proof.Machine.execOffer m s
  | .sessionEligible vat session => Sys2Proof.Machine.execSessionEligible vat session s
  | .sessionPageIn vat session => Sys2Proof.Machine.execSessionPageIn vat session s
  | .sessionEviction vat => Sys2Proof.Machine.execSessionEviction vat s
  | .pageCmd m tags => Sys2Proof.Machine.execPageCmd m tags s
  | .pageAck vat session lpkg status => Sys2Proof.Machine.execPageAck vat session lpkg status s
  | .patrolScrubRead stack ca ecc => Sys2Proof.Machine.execPatrolScrubRead stack ca ecc s
  | .sliceCopyEnd die ok => Sys2Proof.Machine.execSliceCopyEnd die ok s
  | .dcAddEvent port dev off bytes => Sys2Proof.Machine.execDcAddEvent port dev off bytes s
  | .extentLost entry => Sys2Proof.Machine.execExtentLost entry s
  | .caveZeroingDone entry => Sys2Proof.Machine.execCaveZeroingDone entry s
  | .pageWalkDone ref operand page => Sys2Proof.Machine.execPageWalkDone ref operand page s
  | .faultDone value => Sys2Proof.Machine.execFaultDone value s
  | .faultEnable value => Sys2Proof.Machine.execFaultEnable value s
  | .faultTimeout ref => Sys2Proof.Machine.execFaultTimeout ref s
  | .sqTail ctx q value => Sys2Proof.Machine.execSqTail ctx q value s
  | .cqHead ctx q value => Sys2Proof.Machine.execCqHead ctx q value s
  | .commandFetch ctx q => Sys2Proof.Machine.execCommandFetch ctx q s
  | .commandDispatch ctx q => Sys2Proof.Machine.execCommandDispatch ctx q s
  | .commandComplete ref => Sys2Proof.Machine.execCommandComplete ref s
  | .commandHang ref => Sys2Proof.Machine.execCommandHang ref s
  | .contextSwapIn ctx => Sys2Proof.Machine.execContextSwapIn ctx s
  | .contextTeardownDone ctx => Sys2Proof.Machine.execContextTeardownDone ctx s
  | .memobjFramesRelease index => Sys2Proof.Machine.execMemobjFramesRelease index s
  | .nop ref => Sys2Proof.Machine.execNop ref s
  | .copy ref bad => Sys2Proof.Machine.execCopy ref bad s
  | .copyIn ref => Sys2Proof.Machine.execCopyIn ref s
  | .copyOut ref bad => Sys2Proof.Machine.execCopyOut ref bad s
  | .sealCmd ref bad => Sys2Proof.Machine.execSealCmd ref bad s
  | .openCmd ref => Sys2Proof.Machine.execOpenCmd ref s
  | .invalidateTranslation ref => Sys2Proof.Machine.execInvalidateTranslation ref s
  | .sessionOpen ref => Sys2Proof.Machine.execSessionOpen ref s
  | .sessionClose ref => Sys2Proof.Machine.execSessionClose ref s
  | .sessionReset ref => Sys2Proof.Machine.execSessionReset ref s
  | .sessionCancel ref => Sys2Proof.Machine.execSessionCancel ref s
  | .sessionQuery ref => Sys2Proof.Machine.execSessionQuery ref s
  | .sessionSetSampling ref => Sys2Proof.Machine.execSessionSetSampling ref s
  | .sessionSetBias ref bad => Sys2Proof.Machine.execSessionSetBias ref bad s
  | .sessionTree ref bad => Sys2Proof.Machine.execSessionTree ref bad s
  | .generate ref bad => Sys2Proof.Machine.execGenerate ref bad s
  | .contextCreate ref => Sys2Proof.Machine.execContextCreate ref s
  | .contextDestroy ref => Sys2Proof.Machine.execContextDestroy ref s
  | .queueCreate ref => Sys2Proof.Machine.execQueueCreate ref s
  | .queueDestroy ref => Sys2Proof.Machine.execQueueDestroy ref s
  | .memobjCreate ref => Sys2Proof.Machine.execMemobjCreate ref s
  | .memobjFree ref => Sys2Proof.Machine.execMemobjFree ref s
  | .caveAccept ref => Sys2Proof.Machine.execCaveAccept ref s
  | .caveRelease ref => Sys2Proof.Machine.execCaveRelease ref s
  | .vatDefine ref => Sys2Proof.Machine.execVatDefine ref s
  | .mouldLoad ref sigOk deep => Sys2Proof.Machine.execMouldLoad ref sigOk deep s
  | .bindReserve ref => Sys2Proof.Machine.execBindReserve ref s
  | .bindComplete ref => Sys2Proof.Machine.execBindComplete ref s
  | .sessionsConfigure ref members remote => Sys2Proof.Machine.execSessionsConfigure ref members remote s
  | .vatStart ref members remote => Sys2Proof.Machine.execVatStart ref members remote s
  | .vatHalt ref frm => Sys2Proof.Machine.execVatHalt ref frm s
  | .vatUnbind ref frm => Sys2Proof.Machine.execVatUnbind ref frm s
  | .vatRemould ref => Sys2Proof.Machine.execVatRemould ref s
  | .vatQuery ref => Sys2Proof.Machine.execVatQuery ref s
  | .meterRead ref => Sys2Proof.Machine.execMeterRead ref s
  | .meterAck ref => Sys2Proof.Machine.execMeterAck ref s
  | .arbiterDecision arb => Sys2Proof.Machine.execArbiterDecision arb s
  | .waitLimitMiss arb cls => Sys2Proof.Machine.execWaitLimitMiss arb cls s
  | .qosCommit value => Sys2Proof.Machine.execQosCommit value s
  | .funcCommit f value => Sys2Proof.Machine.execFuncCommit f value s
  | .heartbeat k claim epoch seq bridge => Sys2Proof.Machine.execHeartbeat k claim epoch seq bridge s
  | .heartbeatSend k => Sys2Proof.Machine.execHeartbeatSend k s
  | .hbSeq k value => Sys2Proof.Machine.execHbSeq k value s
  | .watchdogExpiry k => Sys2Proof.Machine.execWatchdogExpiry k s
  | .complexError k cause => Sys2Proof.Machine.execComplexError k cause s
  | .selfFail k value => Sys2Proof.Machine.execSelfFail k value s
  | .peerAliveLoss k => Sys2Proof.Machine.execPeerAliveLoss k s
  | .takeoverDone k => Sys2Proof.Machine.execTakeoverDone k s
  | .bridgeDown bridge => Sys2Proof.Machine.execBridgeDown bridge s
  | .heartbeatTimeout k => Sys2Proof.Machine.execHeartbeatTimeout k s
  | .peerRestart k value => Sys2Proof.Machine.execPeerRestart k value s
  | .splitResume k => Sys2Proof.Machine.execSplitResume k s
  | .splitRejoin k => Sys2Proof.Machine.execSplitRejoin k s
  | .splitDeviceReset k => Sys2Proof.Machine.execSplitDeviceReset k s
  | .hartReadMiss k hart line cycle => Sys2Proof.Machine.execHartReadMiss k hart line cycle s
  | .ownershipRequest k hart line data cycle => Sys2Proof.Machine.execOwnershipRequest k hart line data cycle s
  | .lineEviction k hart line cycle => Sys2Proof.Machine.execLineEviction k hart line cycle s
  | .placingWrite k agent hart line data cycle wayHeld => Sys2Proof.Machine.execPlacingWrite k agent hart line data cycle wayHeld s
  | .invalidatingWrite k agent line mask data cycle => Sys2Proof.Machine.execInvalidatingWrite k agent line mask data cycle s
  | .ioRead k agent line => Sys2Proof.Machine.execIoRead k agent line s
  | .report sig => Sys2Proof.Machine.execReport sig s
  | .keyLoad ss => Sys2Proof.Machine.execKeyLoad ss s
  | .slotQuiet slot => Sys2Proof.Machine.execSlotQuiet slot s
  | .slotEmpty slot => Sys2Proof.Machine.execSlotEmpty slot s
  | .washPatternStart wash => Sys2Proof.Machine.execWashPatternStart wash s
  | .washEnd wash writesRemain => Sys2Proof.Machine.execWashEnd wash writesRemain s
  | .tamperPin lowNs => Sys2Proof.Machine.execTamperPin lowNs s
  | .supplyTamper rail milliVolt ns => Sys2Proof.Machine.execSupplyTamper rail milliVolt ns s
  | .tickGlitch pulseNs gapNs => Sys2Proof.Machine.execTickGlitch pulseNs gapNs s
  | .coldTamper deg => Sys2Proof.Machine.execColdTamper deg s
  | .domainResetRequest kind index => Sys2Proof.Machine.execDomainResetRequest kind index s
  | .domainDrainTimeout kind index => Sys2Proof.Machine.execDomainDrainTimeout kind index s
  | .dumpLimit kind index => Sys2Proof.Machine.execDumpLimit kind index s
  | .domainResetDone kind index => Sys2Proof.Machine.execDomainResetDone kind index s
  | .routerParityError router => Sys2Proof.Machine.execRouterParityError router s
  | .hbmPhyTrainingLoss stack => Sys2Proof.Machine.execHbmPhyTrainingLoss stack s
  | .cxlLinkDown port => Sys2Proof.Machine.execCxlLinkDown port s
  | .vfFlr f => Sys2Proof.Machine.execVfFlr f s
  | .d3hotExit f => Sys2Proof.Machine.execD3hotExit f s
  | .busMasterEnable f value => Sys2Proof.Machine.execBusMasterEnable f value s
  | .hostPortError uncorrectable => Sys2Proof.Machine.execHostPortError uncorrectable s
  | .msixUnmask f vector => Sys2Proof.Machine.execMsixUnmask f vector s
  | .portEnable port value => Sys2Proof.Machine.execPortEnable port value s
  | .poolId port dev value => Sys2Proof.Machine.execPoolId port dev value s
  | .powerEstimate counts => Sys2Proof.Machine.execPowerEstimate counts s
  | .recalibration statDw statTc weights => Sys2Proof.Machine.execRecalibration statDw statTc weights s
  | .temperatureChange t => Sys2Proof.Machine.execTemperatureChange t s
  | .pwrCommit value => Sys2Proof.Machine.execPwrCommit value s
  | .cellarReq value => Sys2Proof.Machine.execCellarReq value s
  | .cellarExit value => Sys2Proof.Machine.execCellarExit value s
  | .meterInterval vat => Sys2Proof.Machine.execMeterInterval vat s
  | .resetRelease sbAddr => Sys2Proof.Machine.execResetRelease sbAddr s
  | .bootStageDone r => Sys2Proof.Machine.execBootStageDone r s
  | .starterGo value => Sys2Proof.Machine.execStarterGo value s
  | .starterDownloadDone sigOk equal => Sys2Proof.Machine.execStarterDownloadDone sigOk equal s
  | .starterReady statDw statTc weights => Sys2Proof.Machine.execStarterReady statDw statTc weights s
  | .svnCommit value => Sys2Proof.Machine.execSvnCommit value s
  | .toOpened sigOk => Sys2Proof.Machine.execToOpened sigOk s
  | .pkgTelemetry format half rsv => Sys2Proof.Machine.execPkgTelemetry format half rsv s
  | .partitionPower format half rsv partition => Sys2Proof.Machine.execPartitionPower format half rsv partition s
  | .sbMeterRead format half rsv fromSeq count => Sys2Proof.Machine.execSbMeterRead format half rsv fromSeq count s
  | .cellarWake format half rsv => Sys2Proof.Machine.execCellarWake format half rsv s
  | .ccStatus format half rsv => Sys2Proof.Machine.execCcStatus format half rsv s
  | .splitResolve format half rsv value => Sys2Proof.Machine.execSplitResolve format half rsv value s
  | .lcSpent format half rsv confirm => Sys2Proof.Machine.execLcSpent format half rsv confirm s
  | .rcRegisterRead offset size => Sys2Proof.Machine.execRcRegisterRead offset size s
  | .registerWrite offset size value => Sys2Proof.Machine.execRegisterWrite offset size value s
  | .tickEdgeMissing => Sys2Proof.Machine.execTickEdgeMissing s
  | .holdoverExit => Sys2Proof.Machine.execHoldoverExit s
  | .tickCountLoadApply => Sys2Proof.Machine.execTickCountLoadApply s
  | .gearPllLocked => Sys2Proof.Machine.execGearPllLocked s
  | .gearArmFail => Sys2Proof.Machine.execGearArmFail s
  | .gearChangeTick => Sys2Proof.Machine.execGearChangeTick s
  | .gearLockLost => Sys2Proof.Machine.execGearLockLost s
  | .linkKeySwitch => Sys2Proof.Machine.execLinkKeySwitch s
  | .faultBatchClose => Sys2Proof.Machine.execFaultBatchClose s
  | .keyRetire => Sys2Proof.Machine.execKeyRetire s
  | .kemRotate => Sys2Proof.Machine.execKemRotate s
  | .identExport => Sys2Proof.Machine.execIdentExport s
  | .kvRequestEnd => Sys2Proof.Machine.execKvRequestEnd s
  | .deviceResetRequest => Sys2Proof.Machine.execDeviceResetRequest s
  | .pcieHostReset => Sys2Proof.Machine.execPcieHostReset s
  | .pfFlr => Sys2Proof.Machine.execPfFlr s
  | .capUpdate => Sys2Proof.Machine.execCapUpdate s
  | .hotExit => Sys2Proof.Machine.execHotExit s
  | .tenantPowerWindow => Sys2Proof.Machine.execTenantPowerWindow s
  | .cellarEntryDone => Sys2Proof.Machine.execCellarEntryDone s
  | .cellarWakeDone => Sys2Proof.Machine.execCellarWakeDone s
  | .journalCompaction => Sys2Proof.Machine.execJournalCompaction s
  | .meterCompaction => Sys2Proof.Machine.execMeterCompaction s
  | .pwrgdFall => Sys2Proof.Machine.execPwrgdFall s
  | .perstNAssert => Sys2Proof.Machine.execPerstNAssert s
  | .bootStageTimeout => Sys2Proof.Machine.execBootStageTimeout s
  | .toRipe => Sys2Proof.Machine.execToRipe s
  | .toSpent => Sys2Proof.Machine.execToSpent s
  | .vbypOutOfBand => Sys2Proof.Machine.execVbypOutOfBand s
  | .jtagTckEdge tms tdi trstN => Sys2Proof.Machine.execJtagTckEdge tms tdi trstN s
  | .d3hotEntry f => Sys2Proof.Machine.execD3hotEntry f s
  | .mctpControl command data => Sys2Proof.Machine.execMctpControl command data s
  | .lifecycleGet format half rsv => Sys2Proof.Machine.execLifecycleGet format half rsv s
  | .reportStart format half rsv nonce => Sys2Proof.Machine.execReportStart format half rsv nonce s
  | .reportRead format half rsv offset len => Sys2Proof.Machine.execReportRead format half rsv offset len s
  | .deadLane port lane => Sys2Proof.Machine.execDeadLane port lane s
  | .lightReturn port => Sys2Proof.Machine.execLightReturn port s
  | .storeToExclusiveLine k hart line data => Sys2Proof.Machine.execStoreToExclusiveLine k hart line data s
  | .holdExpiry k line cycle => Sys2Proof.Machine.execHoldExpiry k line cycle s
  | .cxlPortTrained port width rate devices => Sys2Proof.Machine.execCxlPortTrained port width rate devices s
  | .idleFlitReceive port => Sys2Proof.Machine.execIdleFlitReceive port s

end Sys2Proof.Machine
end

