-- ==== Sys2Proof/Safety.lean ====
section
/-! DEFINITION. The terms the statements use: when a core, a command or a register write acts, and what a command leaves alone. -/

namespace Sys2Proof.Safety
open Sys2Proof Sys2Proof.Machine

/-- The units of a core act for the step of a vat (R19, R75): the core is Bound to it, no reset fences the core or its cluster, a step of
the vat is in progress. -/
abbrev CoreRuns (s : State) (core vat : Nat) : Prop :=
  (s.core core).state = .bound ∧ (s.core core).vat = some vat ∧ s.fenced 1 core = false ∧ s.fenced 2 (core / 32) = false ∧
    ((s.vat? vat).bind (·.step)).isSome = true

/-- A word a verified Mould can hold for an operation (R77, R136): its opcode, reserved fields zero, operands in bounds. -/
abbrev WordFits (code : Nat) (w : OpWord) : Prop := opCode w = code ∧ opReserved w = 0 ∧ operandOk w = true

/-- The units of a core run an operation word for the step of a vat: they act, a verified Mould can hold the word, and the microprogram of
the core issues it in the Tick at hand (R75, R114, R120). -/
abbrev UnitRuns (s : State) (core vat code : Nat) (w : OpWord) : Prop :=
  CoreRuns s core vat ∧ WordFits code w ∧ (s.issued vat core w).isSome = true

/-- A core is as another but for its state and its error counts, which the errors an operation meets may mark (R101, R102, R409). -/
abbrev Marked (u u' : Core) : Prop :=
  u' = { u with state := u'.state, ce := u'.ce, ue := u'.ue, parity := u'.parity, ceLast := u'.ceLast }

/-- Only one core of the package changes, and of it only what `same` leaves open. -/
abbrev OnlyCore (s t : State) (core : Nat) : Prop :=
  t = { s with cores := t.cores } ∧ ∀ c, c ≠ core → t.core c = s.core c

/-- An operation leaves its core as `u`, and every other core as it was, but for what the errors it met mark; with no error met the core is
`u` and nothing else of the package changes. -/
abbrev UnitDone (s t : State) (core : Nat) (f : UnitFault) (u : Core) : Prop :=
  Marked u (t.core core) ∧ (∀ c, c ≠ core → Marked (s.core c) (t.core c)) ∧ (f = UnitFault.none → t.core core = u ∧ OnlyCore s t core)

/-- What a core keeps when an operation writes its vector registers: its bank, accumulators, tables, weight stage, program, place. -/
abbrev VectorOnly (u u' : Core) : Prop := u' = { u with vregs := u'.vregs }

/-- Only one link port changes. -/
abbrev OnlyPort (s t : State) (k : Nat) : Prop :=
  t = { s with links := { s.links with ports := t.links.ports } } ∧ ∀ j, j ≠ k → t.port j = s.port j

/-- The host reaches the blocks other than BOOT (R441, R465): the package is Ready and the PF is not in D3hot. -/
abbrev HostServed (s : State) : Prop := s.boot.state = .ready ∧ (s.func 0).d3 = false

/-- A dispatched host command whose effect is due: it stands in dispatch, Ready, with this opcode and no burst waiting at an arbiter,
the package awake. -/
abbrev CmdDue (s : State) (r : CmdRef) (op : Nat) (c : Cmd) : Prop :=
  s.cmd? r = some c ∧ c.phase = .ready ∧ cmdOp c.bytes = op ∧ s.qos.burstsOf r = 0 ∧ s.asleep = false

/-- A device reset (R395, R413): units, memory, vats, host objects, faults and links are at their reset values; `LC_RESULT`, the fuses that
are burnt, the queue and the host side of the model stay. -/
abbrev DeviceCleared (s t : State) : Prop :=
  t.vats = [] ∧ t.roles = [] ∧ t.cores = [] ∧ t.routers = [] ∧ t.mem = State.reset.mem ∧ t.xl = State.reset.xl ∧
    t.objs = State.reset.objs ∧ t.qos = State.reset.qos ∧ t.tick = State.reset.tick ∧ t.gears = State.reset.gears ∧
    t.keys.slots = State.reset.keys.slots ∧ t.keys.washes = [] ∧ t.flt.resets = [] ∧ t.flt.hangs = 0 ∧ t.power = State.reset.power ∧
    t.hp = State.reset.hp ∧ t.cxlPorts = [] ∧ t.cxlDevs = [] ∧ t.events = [] ∧ t.links.ports = [] ∧ t.boot.lcResult = s.boot.lcResult ∧
    t.fuses.minSvn = s.fuses.minSvn ∧ t.pending = s.pending ∧ t.out = s.out ∧ t.msix = s.msix

/-- The line states of R342 in both complexes: at most one cache holds a line in F, E or D; a line in E or D has no other copy. -/
abbrev LinesLegal (s : State) : Prop :=
  ∀ k l, (((s.cplx k).line l).copies.filter fun c => decide (c.state ≠ .shared)).length ≤ 1 ∧
    ((∃ c ∈ ((s.cplx k).line l).copies, c.state = .exclusive ∨ c.state = .dirty) → ((s.cplx k).line l).copies.length = 1)

/-- The fuse bank of R439 keeps three copies of each lifecycle bit, 64 MIN_SVN bits and a root of 32 bytes. -/
abbrev FuseBank (f : Fuses) : Prop :=
  f.ripe.length = 3 ∧ f.opened.length = 3 ∧ f.spent.length = 3 ∧ f.minSvn ≤ 64 ∧ f.root.length = 32

/-- Every fuse bit burnt in one bank is burnt in the other. -/
abbrev FusesKept (f g : Fuses) : Prop :=
  (∀ k : Nat, nth false f.ripe k = true → nth false g.ripe k = true) ∧ (∀ k : Nat, nth false f.opened k = true → nth false g.opened k = true) ∧
    (∀ k : Nat, nth false f.spent k = true → nth false g.spent k = true) ∧ f.minSvn ≤ g.minSvn ∧ f.root = g.root ∧
    f.programmed = g.programmed ∧ f.senior = g.senior
/-- The commands that are writes of a register, or doorbell writes, of a block other than BOOT (R441). -/
def hostRegister : Instr → Bool
  | .loadCommit _ | .train _ _ | .unfence _ _ | .bypassOpen _ | .linkCommit _ | .winCommit _ _ | .faultDone _ | .faultEnable _
  | .sqTail _ _ _ | .cqHead _ _ _ | .qosCommit _ | .funcCommit _ _ | .peerRestart _ _ | .splitResume _ | .splitRejoin _
  | .splitDeviceReset _ | .domainResetRequest _ _ | .deviceResetRequest | .portEnable _ _ | .poolId _ _ _ | .pwrCommit _
  | .cellarReq _ | .cellarExit _ | .msixUnmask _ _ => true
  | _ => false

end Sys2Proof.Safety
end

