-- ==== Sys2Proof/Certificates/Slice0/Obligations.lean ====
section
/-! DEFINITION. The statements of this row, for the provers: what each command does, by family, what stands at reset, and what every step keeps.

A clause says which states it speaks of by its hypotheses on the state and the operands alone; its conclusion is that `exec` answers a next
state, and what that state holds. -/

section
open Sys2Proof Sys2Proof.Machine
open Sys2Proof.Safety

/-- TICK_EDGE (R141, R142): every rising edge adds 1 to the Tick Count, modulo 2^64; in Acquiring each TICK_FRAME then rounds it down to a
multiple of 65,536. The first edge takes the unit from Unlocked to Acquiring; in Acquiring the second frame that comes 65,536 in-tolerance
edges after the one before locks it. In Locked a TICK_FRAME at a count whose low 16 bits are not 0 is a slip: Holdover, the alignment lost.

TICK_EDGE_MISSING and HOLDOVER_EXIT (R141, R143): with no edge within 120 ns a Locked unit enters Holdover, where the internal oscillator
counts the Tick: the alignment is lost, and every step in progress takes the Failed cause 0x0602 (said where no halt and no start of a vat is
awaited); in Acquiring the frame count restarts. Holdover ends once edges are present and no vat runs a step.

LOAD_COMMIT and TICK_COUNT_LOAD_APPLY (R142): the host's commit is refused once any vat is bound, else the loaded value becomes the count
at the next TICK_FRAME, which it marks aligned. A write of 0 commits nothing.

DROOP_STRETCH (R147, R148): while a step runs, the usable cycles of a Tick are the first GEAR − SLACK, and each stretch of one is counted
until the Tick has taken SLACK of them; one more is a Tick overrun, counted once for the Tick, with the Failed cause 0x0601 for every step in
progress. A stretch with no step in progress, or past the usable cycles, changes nothing. SLACK is that of the one vat that runs a step (of
several the smallest: log entry 30).

It rests on choices of the model: log entries 28, 65. -/
def Obligations.TickEdgesLockTheClock : Prop :=
  (∀ (frame inTol : Bool) (stalls : List Stall) (s : State), ∃ t, exec (.tickEdge frame inTol stalls) s = .next t ∧
    (¬(s.tick.lock = .acquiring ∧ frame = true) → t.tick.count = (s.tick.count + 1) % 2 ^ 64) ∧
    (s.tick.lock = .acquiring → frame = true → t.tick.count = (s.tick.count + 1) % 2 ^ 64 / 65536 * 65536) ∧
    (s.tick.lock = .unlocked → t.tick.lock = .acquiring) ∧
    (s.tick.lock = .acquiring → frame = true → inTol = true → s.tick.sinceFrm = some 65535 → 1 ≤ s.tick.frames → t.tick.lock = .locked) ∧
    (s.tick.lock = .acquiring → inTol = false → t.tick.lock = .acquiring ∧ t.tick.frames = 0) ∧
    (s.tick.lock = .locked → frame = true → (s.tick.count + 1) % 65536 ≠ 0 →
      t.tick.lock = .holdover ∧ t.tick.aligned = false ∧ t.tick.slip = true) ∧
    (s.tick.lock = .locked → ¬(frame = true ∧ (s.tick.count + 1) % 65536 ≠ 0) → t.tick.lock = .locked ∧ t.tick.aligned = s.tick.aligned) ∧
    t.pending = s.pending ∧ t.fuses = s.fuses) ∧
  ((∀ s : State, s.tick.lock = .locked → ∃ t, exec .tickEdgeMissing s = .next t ∧
    t.tick.lock = .holdover ∧ t.tick.aligned = false ∧ t.tick.count = (s.tick.count + 1) % 2 ^ 64 ∧
    t.tick.nLoss = min (s.tick.nLoss + 1) (2 ^ 32 - 1) ∧ t.pending = s.pending ∧ t.fuses = s.fuses ∧
    ((∀ p ∈ s.roles, p.2.haltAt = none ∧ p.2.started = none) → ∀ v u r, s.vat? v = some u → u.step = some r →
      ∃ u' r', t.vat? v = some u' ∧ u'.step = some r' ∧ ⟨0x0602, s.tick.count, s.links.node * 256, 0⟩ ∈ r'.causes)) ∧
  (∀ s : State, s.tick.lock = .acquiring →
    exec .tickEdgeMissing s = .next { s with tick := { s.tick with frames := 0, sinceFrm := none, atFrame := false, edges := false } }) ∧
  (∀ s : State, s.tick.lock = .holdover → s.tick.edges = true → (∀ p ∈ s.vats, p.2.step = none) →
    exec .holdoverExit s = .next { s with tick := { s.tick with lock := .acquiring, frames := 0, sinceFrm := none, slip := false } })) ∧
  ((∀ (s : State) (value : Nat), s.boot.state = .ready → (s.func 0).d3 = false → value % 2 = 1 →
    (∀ p ∈ s.vats, p.2.state = .defined ∨ p.2.state = .reserved) →
    exec (.loadCommit value) s = .next { s with tick := { s.tick with pending := some s.tick.loadShad } }) ∧
  (∀ (s : State) (value : Nat), s.boot.state = .ready → (s.func 0).d3 = false → value % 2 = 1 →
    (∃ p ∈ s.vats, p.2.state ≠ .defined ∧ p.2.state ≠ .reserved) →
    exec (.loadCommit value) s = .next { s with tick := { s.tick with refused := true } }) ∧
  (∀ (s : State) (value : Nat), value % 2 = 0 → exec (.loadCommit value) s = .next s) ∧
  (∀ (s : State) (x : Nat), s.tick.atFrame = true → s.tick.lock ≠ .unlocked → s.tick.pending = some x →
    ∃ t, exec .tickCountLoadApply s = .next t ∧
      t.tick = { s.tick with count := x, aligned := true, pending := none, alignLoad := none } ∧
      t = { s with tick := t.tick, links := t.links })) ∧
  ((∀ (s : State) (cycle v : Nat) (u : Vat) (m : Mould), s.vats = [(v, u)] → u.step.isSome = true → u.mould = some m →
    cycle < s.tick.gear - mSlack m s.tick.gear → s.tick.stretches < mSlack m s.tick.gear →
    exec (.droopStretch cycle) s = .next { s with tick := { s.tick with
      stretches := s.tick.stretches + 1, nStretch := min (s.tick.nStretch + 1) (2 ^ 32 - 1),
      maxStr := max s.tick.maxStr (s.tick.stretches + 1) } }) ∧
  (∀ (s : State) (cycle v : Nat) (u : Vat) (r : StepRun) (m : Mould), s.vats = [(v, u)] → u.step = some r → u.mould = some m →
    cycle < s.tick.gear - mSlack m s.tick.gear → mSlack m s.tick.gear ≤ s.tick.stretches → s.tick.overrun = false → s.tick.lastOver = 0 →
    exec (.droopStretch cycle) s = .next { s with
      tick := { s.tick with overrun := true, nOverrun := min (s.tick.nOverrun + 1) (2 ^ 32 - 1) },
      vats := [(v, { u with step := some { r with
        causes := r.causes ++ [⟨0x0601, s.tick.count, s.links.node * 256, 0⟩], overrun := true } })] }) ∧
  (∀ (s : State) (cycle : Nat), (∀ p ∈ s.vats, p.2.step = none) → exec (.droopStretch cycle) s = .next s))

/-- Arming a gear (R149, R150): GEAR_ARM starts locking the idle PLLs, with the core supply at the setpoint of the gear in force; GEAR_PLL_LOCKED
within 250 Ticks arms the gear, with the supply at the higher of the two setpoints, and acknowledges to the time master; after 250 Ticks
GEAR_ARM_FAIL gives the arm up and is recorded; GEAR_LOCK_LOST marks an armed gear.

Gear group (R149, R150, R426, R427): GEAR_REQ records a request at the acting time master, a later one of the node replaces it; the last
GEAR_ACK chooses the change Tick where the package heads its vats, and is kept where another package does (log entry 26); GEAR_CHANGE_TICK switches the clocks there, or keeps the old gear where the lock was lost; REST_REQ records
the fraction of a node at the head. -/
def Obligations.GearsChangeTogether : Prop :=
  ((∀ (s : State) (vat gear seq : Nat) (u : Vat), gear ∈ [72, 64, 60, 56, 48, 40, 32] → s.vat? vat = some u → u.role = .member →
    u.state = .running → s.tick.change = none → ∃ t, exec (.gearArm (.good vat) gear seq) s = .next t ∧
    t.tick = { s.tick with armed := 0, locking := some (gear, seq, s.tick.count), armVat := vat, lockLost := false } ∧
    t = { s with tick := t.tick, power := { s.power with setpoints := t.power.setpoints } } ∧
    ∀ k < 4, (k, s.setpoint s.tick.gear) ∈ t.power.setpoints) ∧
  (∀ (s : State) (gear seq x v : Nat) (u : Vat), s.tick.locking = some (gear, seq, x) → s.tick.count ≤ x + 250 →
    s.vats = [(v, u)] → u.role = .member → u.state = .running → s.tick.armVat = v →
    s.wheyBlocked (s.lpkgNode u u.masterLpkg) 7 = false → ∃ t, exec .gearPllLocked s = .next t ∧
    t.tick = { s.tick with armed := gear, locking := none } ∧ t.pins.atSet = [true, true, true, true] ∧
    (∀ k < 4, (k, max (s.setpoint s.tick.gear) (if gear = 0 then 0 else s.setpoint gear)) ∈ t.power.setpoints) ∧
    (∃ m, t.out = s.out ++ [m] ∧ m.kind = "CONTROL" ∧ m.args = [0x0B, u.desc.vatId] ∧ m.dest = s.lpkgNode u u.masterLpkg) ∧
    t.vats = s.vats ∧ t.fuses = s.fuses ∧ t.pending = s.pending) ∧
  (∀ (s : State) (gear seq x : Nat), s.tick.locking = some (gear, seq, x) → x + 250 < s.tick.count → ∃ t, exec .gearArmFail s = .next t ∧
    t.tick = { s.tick with locking := none } ∧ (∃ e ∈ t.events, e.what = "GEAR_ARM_FAIL" ∧ e.tick = s.tick.count ∧ e.arg = gear) ∧
    t.vats = s.vats ∧ t.out = s.out) ∧
  (∀ s : State, s.tick.armed ≠ 0 → exec .gearLockLost s = .next { s with tick := { s.tick with lockLost := true } })) ∧
  ((∀ (s : State) (node arg v : Nat) (u : Vat), s.vats = [(v, u)] → u.role = .member → u.state = .running → u.lpkg = u.masterLpkg →
    node ∈ s.gearNodes → arg / 1024 % 2 = 0 → arg % 256 ∈ [72, 64, 60, 56, 48, 40, 32] → s.groupHas (arg % 256) = true →
    s.tick.change = none → ∃ t, exec (.gearReq (.good node) arg) s = .next t ∧ mapGet 0 t.gears.reqs node = arg % 1024 ∧
      (∀ n, n ≠ node → mapGet 0 t.gears.reqs n = mapGet 0 s.gears.reqs n) ∧
      t.tick = s.tick ∧ t.vats = s.vats ∧ t.fuses = s.fuses) ∧
  (∀ (s : State) (node gear seq v : Nat) (u : Vat), s.vats = [(v, u)] → u.role = .member → u.state = .running → u.lpkg = u.masterLpkg →
    u.lpkg ≠ u.headLpkg → s.gears.arming = true → s.gears.change = none → gear = s.gears.gear → seq = s.gears.seq →
    ∃ t, exec (.gearAck (.good node) gear seq) s = .next t ∧ node ∈ t.gears.acks ∧ t.gears.change = none ∧ t = { s with gears := t.gears }) ∧
  (∀ (s : State) (node gear seq v : Nat) (u : Vat), s.vats = [(v, u)] → u.role = .member → u.state = .running → u.lpkg = u.masterLpkg →
    u.lpkg = u.headLpkg → s.gears.arming = true → s.gears.change = none → gear = s.gears.gear → seq = s.gears.seq →
    (∀ n ∈ s.gearNodes, n = node ∨ n ∈ s.gears.acks) → ∃ t x, exec (.gearAck (.good node) gear seq) s = .next t ∧
      s.tick.count ≤ x ∧ t.tick = { s.tick with change := some x } ∧ t.gears.change = some x ∧ node ∈ t.gears.acks ∧
      t = { s with tick := t.tick, gears := t.gears }) ∧
  (∀ (s : State) (v : Nat) (u : Vat), s.vats = [(v, u)] → u.role = .member → u.state = .running → u.lpkg ≠ u.masterLpkg →
    s.tick.armed ≠ 0 → s.tick.change = some s.tick.count → s.tick.lockLost = false → ∃ t, exec .gearChangeTick s = .next t ∧
      t.tick.gear = s.tick.armed ∧ t.tick.armed = 0 ∧ t.tick.change = none ∧ t.tick.prev = some (s.tick.count, s.tick.gear) ∧
      t.tick.count = s.tick.count ∧ t.vats = s.vats ∧ t.cores = s.cores) ∧
  (∀ (s : State) (v : Nat) (u : Vat), s.vats = [(v, u)] → u.role = .member → u.state = .running → u.lpkg ≠ u.masterLpkg →
    s.tick.armed ≠ 0 → s.tick.change = some s.tick.count → s.tick.lockLost = true → ∃ t, exec .gearChangeTick s = .next t ∧
      t.tick.gear = s.tick.gear ∧ t.tick.armed = 0 ∧ t.tick.change = none ∧ t.tick.lostAt = some s.tick.count ∧ t.vats = s.vats) ∧
  (∀ (s : State) (vat node f : Nat) (u : Vat), s.vat? vat = some u → u.role = .member → u.lpkg = u.headLpkg → f < 64 →
    ∃ t, exec (.restReq (.good vat) node f) s = .next t ∧ mapGet 0 (t.role vat).restReq node = f ∧ t = { s with roles := t.roles }))

/-- LANE_TABLE_FREEZE (R22, R151, R252): at the freeze Tick of its next step, with no offer to fill a lane, the head inserts rest Ticks as long
as the last step; with an offer it freezes a table for the boundary with the offered session in a lane, and announces it to every other member
(R19, R253). Said for a head in shared mode with no replay, rest request, gear change or page-in standing and with its links up, and, with an offer, one step of its
kind in the variant. Another member freezes the table announced at that Tick (said of one that names no session homed there).

It rests on choices of the model: log entries 15, 69, 120. -/
def Obligations.HeadFreezesLanes : Prop :=
  (∀ (s : State) (vat : Nat) (u : Vat) (m : Mould), s.vat? vat = some u → u.mould = some m → u.desc.vatId = vat → u.role = .member →
    u.lpkg = u.headLpkg → u.state = .running → u.frozen = none → s.tick.lock = .locked → s.tick.aligned = true →
    (s.role vat).haltAt = none → (s.role vat).replay = none → s.partMode vat = false → (s.role vat).wasPart = false → s.tick.change = none → s.tick.armed = 0 →
    (∀ p ∈ u.work, p.2.pageFrom = none) → gearSteps m s.tick.gear ≠ [] →
    s.tick.count + freezeLead (gearSteps m s.tick.gear) = u.boundary → u.offers = [] → (s.role vat).lastLen ≠ 0 →
    ∃ t, exec (.laneTableFreeze ⟨vat, none⟩) s = .next t ∧ t.vat? vat = some { u with boundary := u.boundary + (s.role vat).lastLen } ∧
      t.role vat = { s.role vat with credit := (s.role vat).credit + (s.role vat).lastLen } ∧
      t = { s with vats := t.vats, roles := t.roles }) ∧
  (∀ (s : State) (vat id : Nat) (u : Vat) (m : Mould) (e : StepEnt) (o : Offer), s.vat? vat = some u → u.mould = some m →
    u.desc.vatId = vat → u.role = .member → u.lpkg = u.headLpkg → u.state = .running → u.frozen = none → s.tick.lock = .locked →
    s.tick.aligned = true → (s.role vat).haltAt = none → (s.role vat).replay = none → s.partMode vat = false →
    (s.role vat).wasPart = false → s.tick.change = none → s.tick.armed = 0 → (∀ p ∈ u.work, p.2.pageFrom = none) → gearSteps m s.tick.gear = [(id, e)] →
    s.tick.count + e.freeze = u.boundary → u.offers = [o] → o.kind = e.kind → 1 ≤ e.lanes → (s.role vat).restReq = [] →
    (s.partCfg o.partition).laneLimit = 0 → (o.session / 2 ^ 18 = u.lpkg → s.canPlace u (o.session % 2 ^ 18) e.kind = true) →
    (∀ k < u.packages, k ≠ u.lpkg → s.wheyBlocked (s.lpkgNode u k) 7 = false) →
    ∃ t u' f l, exec (.laneTableFreeze ⟨vat, none⟩) s = .next t ∧ t.vat? vat = some u' ∧ u'.frozen = some f ∧ f.start = u.boundary ∧
      f.stepId = id ∧ f.replay = false ∧ f.lanes = [l] ∧ l.session = o.session ∧ u'.offers = [] ∧
      (o.session / 2 ^ 18 = u.lpkg → (u'.sess (o.session % 2 ^ 18)).state = .placed) ∧
      (∀ k < u.packages, k ≠ u.lpkg → ∃ x ∈ t.out, x.kind = "LANE_TABLE" ∧ x.dest = s.lpkgNode u k ∧ x.args = [vat, f.start, id, 0] ∧
        x.body = laneTableBytes e [l]) ∧
      t = { s with vats := t.vats, roles := t.roles, out := t.out }) ∧
  (∀ (s : State) (vat : Nat) (a : LaneTable) (u : Vat) (m : Mould), s.vat? vat = some u → u.mould = some m → u.desc.vatId = vat →
    u.role = .member → u.lpkg ≠ u.headLpkg → u.state = .running → u.frozen = none → s.tick.lock = .locked → s.tick.aligned = true →
    (s.role vat).haltAt = none → s.tick.change = none → s.tick.armed = 0 → (∀ p ∈ u.work, p.2.pageFrom = none) → a.stepId < (mSteps m).length →
    a.lanes.length ≤ (mStep m a.stepId).lanes → s.tick.count + freezeLead (gearSteps m s.tick.gear) = a.start →
    (∀ l ∈ a.lanes, l.session / 2 ^ 18 ≠ u.lpkg) → ∃ t, exec (.laneTableFreeze ⟨vat, some a⟩) s = .next t ∧
      t.vat? vat = some { u with frozen := some a } ∧ t = { s with vats := t.vats })

/-- STEP_START (R19): at the start Tick a member of a Running vat with its boundary marked starts the announced step: it is Running, the next
boundary is S + L, a hang falls due at S + 20 L, and no cause stands against the step. Said for a member whose frozen table is the one
announced, and for one that is not the head and froze none.

STEP_BOUNDARY (R24, R236, R241): at the boundary the step ends. A session in its one lane that is homed here leaves it Faulted where the
step Failed, its LEN unchanged, and Ready where the step was Degraded; the members' causes count too. Said where no replay and no halt
stands and, for the sessions, with one lane and no cancel or close.

Draws, marks and refresh (R152, R256, R401): SAMPLER_DRAW, its reads without an error, gives each home lane of the step its draw and keeps those made; BOUNDARY_MARK of a step that has
ended clears the hang that would fall due; a channel follows its owner's cadence from the first window start of it.

It rests on choices of the model: log entry 22. -/
def Obligations.StepsStartAndEnd : Prop :=
  (∀ (s : State) (vat : Nat) (a : LaneTable) (u : Vat) (m : Mould), s.vat? vat = some u → u.mould = some m → u.desc.vatId = vat →
    u.role = .member → u.state = .running → u.step = none → (s.role vat).hangAt = none → (s.role vat).haltAt = none →
    s.tick.lock = .locked → s.tick.aligned = true → s.tick.count = a.start → s.tick.lostAt = none → a.stepId < (mSteps m).length →
    a.lanes.length ≤ (mStep m a.stepId).lanes → mVariantOf m s.tick.gear = some (mStep m a.stepId).variant →
    ((∃ f, u.frozen = some f ∧ f.start = a.start ∧ f.stepId = a.stepId) ∨ (u.frozen = none ∧ u.lpkg ≠ u.headLpkg)) →
    ∃ t u' r, exec (.stepStart vat a) s = .next t ∧ t.vat? vat = some u' ∧ u'.step = some r ∧ r.table.start = a.start ∧
      r.table.stepId = a.stepId ∧ r.kind = (mStep m a.stepId).kind ∧ r.length = (mStep m a.stepId).length ∧ r.causes = [] ∧
      r.degraded = false ∧ u'.state = .running ∧ u'.frozen = none ∧ u'.boundary = a.start + (mStep m a.stepId).length ∧
      (t.role vat).hangAt = some (a.start + 20 * (mStep m a.stepId).length) ∧ (t.role vat).credit = 0 ∧
      t.tick = s.tick ∧ t.cores = s.cores ∧ t.fuses = s.fuses ∧ t.pending = s.pending) ∧
  ((∀ (s : State) (vat : Nat) (reps : List MemberReport) (u : Vat) (r : StepRun), s.vat? vat = some u → u.step = some r →
    r.table.start + r.length ≤ s.tick.count → r.table.lanes = [] → r.errs = [] → u.lpkg ≠ u.headLpkg → s.tick.prev = none →
    s.tick.back = none → s.cores = [] → s.mem.copies = [] → (s.role vat).haltAt = none → (s.role vat).replay = none →
    ∃ t, exec (.stepBoundary vat reps) s = .next t ∧
      t.vat? vat = some { u with step := none, meter := { u.meter with
        step := u.meter.step + (r.table.start + r.length - max r.table.start u.meter.first) } } ∧
      t.tick = { s.tick with lastOver := if r.overrun then 1 else 0 } ∧
      (t.role vat).restFrom = some (max (r.table.start + r.length) u.meter.first) ∧ (t.role vat).lastRep = r.table.start + r.length ∧
      t = { s with tick := t.tick, vats := t.vats, roles := t.roles }) ∧
  (∀ (s : State) (vat i : Nat) (reps : List MemberReport) (u : Vat) (r : StepRun) (l : Lane), s.vat? vat = some u → u.step = some r →
    r.table.start + r.length ≤ s.tick.count → r.table.lanes = [l] → l.session = u.lpkg * 2 ^ 18 + i → i < 2 ^ 18 →
    (u.sess i).state = .placed → (u.sess i).close = false → (u.wk i).cancel = false → (u.wk i).lateTree = none →
    (u.wk i).copies = [] → (s.role vat).haltAt = none → (s.role vat).replay = none →
    (r.causes ≠ [] ∨ ∃ q ∈ reps, q.causes ≠ []) → (∀ c ∈ r.causes, 2 ≤ c.status) → (∀ q ∈ reps, ∀ c ∈ q.causes, 2 ≤ c.1) →
    ∃ t u', exec (.stepBoundary vat reps) s = .next t ∧ t.vat? vat = some u' ∧ u'.step = none ∧ (u'.sess i).state = .faulted ∧
      (u'.sess i).len = (u.sess i).len) ∧
  (∀ (s : State) (vat i : Nat) (reps : List MemberReport) (u : Vat) (r : StepRun) (l : Lane), s.vat? vat = some u → u.step = some r →
    r.table.start + r.length ≤ s.tick.count → r.table.lanes = [l] → l.session = u.lpkg * 2 ^ 18 + i → i < 2 ^ 18 →
    (u.sess i).state = .placed → (u.sess i).close = false → (u.wk i).cancel = false → (u.wk i).lateTree = none →
    (s.role vat).haltAt = none → (s.role vat).replay = none →
    r.causes = [] → (∀ q ∈ reps, q.causes = []) → (r.degraded = true ∨ ∃ q ∈ reps, q.degraded = true) →
    ∃ t u', exec (.stepBoundary vat reps) s = .next t ∧ t.vat? vat = some u' ∧ u'.step = none ∧ (u'.sess i).state = .ready ∧
      (u'.sess i).len = (u.sess i).len) ∧
  (∀ (s : State) (vat i : Nat) (reps : List MemberReport) (u : Vat) (r : StepRun) (l : Lane), s.vat? vat = some u → u.step = some r →
    r.table.start + r.length ≤ s.tick.count → r.table.lanes = [l] → l.session = u.lpkg * 2 ^ 18 + i → i < 2 ^ 18 →
    (u.sess i).state = .placed → (u.sess i).close = false → (u.wk i).cancel = false → (u.wk i).lateTree = none →
    (s.role vat).haltAt = none → (s.role vat).replay = none → r.causes = [] → (∀ q ∈ reps, q.causes = []) → r.degraded = false →
    (∀ q ∈ reps, q.degraded = false) → r.kind = 2 → r.draws = [] → 1 ≤ l.count → l.count < (u.sess i).left →
    (u.sess i).len + l.count < u.params.maxPos →
    ∃ t u', exec (.stepBoundary vat reps) s = .next t ∧ t.vat? vat = some u' ∧ u'.step = none ∧ (u'.sess i).state = .ready ∧
      (u'.sess i).len = (u.sess i).len + l.count ∧ (u'.sess i).produced = (u.sess i).produced ∧ (u'.sess i).pend = none ∧
      (u'.sess i).inDone = (u.sess i).inDone + (l.count - b2n (u.sess i).pend.isSome))) ∧
  ((∀ (s : State) (vat : Nat) (u : Vat) (r : StepRun), s.vat? vat = some u → u.step = some r → ∃ t ds, exec (.samplerDraw ⟨vat, ReadErrs.none⟩) s = .next t ∧
    t.vat? vat = some { u with step := some { r with draws := ds } } ∧ ds.length = (u.homeLanes r).length ∧
    (∀ (k : Nat) (d : LaneDraw), ds[k]? = some d → (∃ e ∈ r.draws, e = d) ∨ ∃ p : Nat × Lane, (u.homeLanes r)[k]? = some p ∧ d.lane = p.1) ∧ t = { s with vats := t.vats }) ∧
  (∀ (s : State) (vat : Nat) (u : Vat), s.vat? vat = some u → u.step = none → (s.role vat).hangAt.isSome = true →
    ∃ t, exec (.boundaryMark vat) s = .next t ∧ t.role vat = { s.role vat with hangAt := none } ∧
      (∀ v, v ≠ vat → t.role v = s.role v) ∧ t = { s with roles := t.roles }) ∧
  (∀ (s : State) (q ch : Nat), q < 16 → ch < 32 → s.tick.count % max 1 (s.ownerCadence q).1 = (s.ownerCadence q).2.2 →
    ∃ t, exec (.refreshWindowStart q ch) s = .next t ∧ t.cadence q ch = s.ownerCadence q ∧
      (∀ p c, p * 32 + c ≠ q * 32 + ch → t.cadence p c = s.cadence p c) ∧
      t = { s with mem := { s.mem with refresh := t.mem.refresh } }))

/-- MM, ACC_LOAD and TBL_LOAD (R42, R64, R89, R91, R92), with the table registers as a DECODE under way has set them by then: each accumulator of the tile takes its initial value (0, or what it held) with the group
values of its dot product added in order; ACC_LOAD fills the tile from the bank; TBL_LOAD fills the named table register. No other
accumulator, table, bank byte or core changes. Errors the operation meets mark
the core and fail the step; a table that breaks R58 fails it with 0x053B.

ACC_STORE and DECODE (R91, R93, R94): the tile goes to the core bank, in a format of whole bytes to the bytes of its elements and nowhere
else; the decoder's output goes to the weight stage and, each in the
first cycle of its round, to the table registers of its engine. A press error fails the step with its
status (R71, R101); a DECODE of no segment does nothing (R94).

It rests on choices of the model: log entries 24, 31, 32, 59, 105. -/
def Obligations.EnginesFollowTheirOperations : Prop :=
  ((∀ (s : State) (core vat : Nat) (w : OpWord) (f : UnitFault), UnitRuns s core vat 0x01 w →
    ∃ t u, exec (.mm core w f) s = .next t ∧ UnitDone s t core f u ∧
      (∀ m n, m < 2 ^ opTmLog2 w → n < 2 ^ opTnLog2 w →
        u.getAcc (opEngine w) (opAccBank w) (m * 2 ^ opTnLog2 w + n) =
          accumulate (if mmInit w = 0 then 0 else (s.core core).getAcc (opEngine w) (opAccBank w) (m * 2 ^ opTnLog2 w + n))
            ((List.range (mmG w)).map fun i => (s.tabled core w 1 (s.core core)).mmGroup w m n i)) ∧
      (∀ e b i, i < 2048 → b < 2 → (e ≠ opEngine w ∨ b ≠ opAccBank w) → u.getAcc e b i = (s.core core).getAcc e b i) ∧
      u = { s.tabled core w 1 (s.core core) with acc := u.acc }) ∧
  (∀ (s : State) (core vat : Nat) (w : OpWord) (f : UnitFault), UnitRuns s core vat 0x03 w →
    ∃ t u, exec (.accLoad core w f) s = .next t ∧ UnitDone s t core f u ∧
      (∀ m n, m < 2 ^ opTmLog2 w → n < 2 ^ opTnLog2 w →
        u.getAcc (opEngine w) (opAccBank w) (m * 2 ^ opTnLog2 w + n) =
          toFp32 (fp32 (BitVec.ofNat 32 (leNat ((s.core core).rd (tileAddr w 4 m n) 4))))) ∧
      u = { s.core core with acc := u.acc }) ∧
  (∀ (s : State) (core vat : Nat) (w : OpWord) (f : UnitFault), UnitRuns s core vat 0x04 w → ((s.core core).loadedTable w).ok = true →
    ∃ t u, exec (.tblLoad core w f) s = .next t ∧ UnitDone s t core f u ∧
      u.table (opEngine w) (tblReg w) = (s.core core).readTable (tblIdxFmt w) (tblEntryFmt w) (tblSrc w) ∧
      (∀ e r, r < 8 → (e ≠ opEngine w ∨ r ≠ tblReg w) → u.table e r = (s.tabled core w 3 (s.core core)).table e r) ∧
      u = { s.tabled core w 3 (s.core core) with tables := u.tables }) ∧
  (∀ (s : State) (core vat : Nat) (w : OpWord) (v : Vat) (r : StepRun), UnitRuns s core vat 0x04 w → s.vat? vat = some v →
    v.step = some r → ((s.core core).loadedTable w).ok = false → ∃ t v' r', exec (.tblLoad core w UnitFault.none) s = .next t ∧
      t.core core = (s.tabled core w 3 (s.core core)).setTable (opEngine w) (tblReg w) ((s.core core).loadedTable w) ∧
      t.vat? vat = some v' ∧ v'.step = some r' ∧
      r'.causes = r.causes ++ [⟨0x053B, s.tick.count, s.links.node * 256 + 0x30 + core / 256, 0⟩])) ∧
  ((∀ (s : State) (core vat : Nat) (w : OpWord) (f : UnitFault), UnitRuns s core vat 0x02 w →
    ∃ t u, exec (.accStore core w f) s = .next t ∧ UnitDone s t core f u ∧ u = accStoreEffect w (s.core core) ∧
      u = { s.core core with bank := u.bank } ∧
      (isMx (accFmt w) = false → ∀ a, (∀ m n, m < 2 ^ opTmLog2 w → n < 2 ^ opTnLog2 w →
          a < tileAddr w (codeBits (accFmt w) / 8) m n ∨ tileAddr w (codeBits (accFmt w) / 8) m n + codeBits (accFmt w) / 8 ≤ a) →
        u.byte a = (s.core core).byte a)) ∧
  (∀ (s : State) (core vat : Nat) (w : OpWord) (f : UnitFault) (v : Vat) (h : PressHdr), UnitRuns s core vat 0x10 w →
    s.vat? vat = some v → v.headers[decTensor w]? = some h → decSegN w ≠ 0 → ((s.core core).decoded w h).errs = [] →
    ∃ t u, exec (.decode core w f) s = .next t ∧ UnitDone s t core f u ∧ u = decodeEffect w h (s.cycleOf core w) (s.core core) ∧
      u.bank = (s.core core).bank ∧ u.acc = (s.core core).acc ∧ u.vregs = (s.core core).vregs) ∧
  (∀ (s : State) (core vat : Nat) (w : OpWord) (v : Vat) (r : StepRun) (h : PressHdr), UnitRuns s core vat 0x10 w →
    s.vat? vat = some v → v.step = some r → v.headers[decTensor w]? = some h → decSegN w ≠ 0 → ((s.core core).decoded w h).errs ≠ [] →
    ∃ t v' r' c, exec (.decode core w UnitFault.none) s = .next t ∧ t.core core = decodeEffect w h (s.cycleOf core w) (s.core core) ∧
      t.vat? vat = some v' ∧ v'.step = some r' ∧ r'.causes = r.causes ++ [c] ∧ ∃ e ∈ ((s.core core).decoded w h).errs, c.status = e.status) ∧
  (∀ (s : State) (core vat : Nat) (w : OpWord) (f : UnitFault) (v : Vat) (h : PressHdr), UnitRuns s core vat 0x10 w →
    s.vat? vat = some v → v.headers[decTensor w]? = some h → decSegN w = 0 → exec (.decode core w f) s = .next s))

/-- Data mover, core side (R99, R131, R254): GET, GETX and GETL write the bytes they bring over the named range of the core bank and nothing else of
the core; GETX brings zeros for an index at or above LIMIT and fails the step with 0x0542; COPY reads its source before it writes; a void
slot writes nothing. Each completes whatever errors it meets; what else of the package stays is said where none is met and no fenced stack reached.

Data mover, far side (R99, R162, R210, R254): PUT and PUTL write the pieces of this package that the vat address or the lane names; SEND
lands the bytes in each target core that is not fenced; a curd read of HBM is over when its data is ready. Each completes whatever errors it
meets; the bytes are said where none is met and no fenced stack reached; what goes to another package is that package's to write.

It rests on choices of the model: log entries 34, 62. -/
def Obligations.MoverMovesItsBytes : Prop :=
  ((∀ (s : State) (core vat : Nat) (w : OpWord) (f : UnitFault), UnitRuns s core vat 0x1B w →
    ∃ t u, exec (.moverCopy core w f) s = .next t ∧ UnitDone s t core f u ∧
      u = { s.core core with bank := u.bank } ∧
      u.rd (dmDst w) (dmLength w) = (s.core core).rd (dmBank w) (dmLength w) ∧
      ∀ a, (a < dmDst w ∨ dmDst w + dmLength w ≤ a) → u.byte a = (s.core core).byte a) ∧
  (∀ (s : State) (core vat : Nat) (w : OpWord) (far : List Byte) (f : UnitFault) (v : Vat), UnitRuns s core vat 0x18 w →
    s.vat? vat = some v → v.desc.vatId = vat → ∃ t u, exec (.get core w far f) s = .next t ∧ Marked u (t.core core) ∧
      (∀ c, c ≠ core → Marked (s.core c) (t.core c)) ∧ u = { s.core core with bank := u.bank } ∧
      (∀ i < (s.curdBytes v (dmVatAddr w) (dmLength w) far).length, u.byte (dmBank w + i) =
        if f.voids.contains (i / 128) then (s.core core).byte (dmBank w + i)
        else (nth 0 (s.curdBytes v (dmVatAddr w) (dmLength w) far) i).toNat) ∧
      (∀ a, (a < dmBank w ∨ dmBank w + (s.curdBytes v (dmVatAddr w) (dmLength w) far).length ≤ a) → u.byte a = (s.core core).byte a) ∧
      (f = UnitFault.none → (s.nearPieces v (dmVatAddr w) (dmLength w)).all (fun p => !s.pieceFenced p) = true →
        t = { s with cores := t.cores, mem := { s.mem with curd := t.mem.curd } } ∧ t.core core = u ∧ ∀ c, c ≠ core → t.core c = s.core c)) ∧
  (∀ (s : State) (core vat : Nat) (w : OpWord) (far : List Byte) (u : Vat), UnitRuns s core vat 0x1C w →
    s.vat? vat = some u → u.desc.vatId = vat → (∀ k < dmTarget w, (s.core core).index w k < dmDst w ∧
      (s.nearPieces u (rowAddr w ((s.core core).index w k)) (dmLength w)).all (fun p => !s.pieceFenced p) = true ∧
      (s.curdBytes u (rowAddr w ((s.core core).index w k)) (dmLength w) (far.drop (k * dmLength w))).length = dmLength w) →
    ∃ t, exec (.getx core w far UnitFault.none) s = .next t ∧ t = { s with cores := t.cores, mem := t.mem } ∧
      t.mem = { s.mem with curd := t.mem.curd } ∧ (∀ c, c ≠ core → t.core c = s.core c) ∧
      t.core core = { s.core core with bank := (t.core core).bank } ∧
      ∀ k < dmTarget w, (t.core core).rd (dmBank w + k * dmLength w) (dmLength w) =
        s.curdBytes u (rowAddr w ((s.core core).index w k)) (dmLength w) (far.drop (k * dmLength w))) ∧
  (∀ (s : State) (core vat : Nat) (w : OpWord) (far : List Byte) (u : Vat) (r : StepRun), UnitRuns s core vat 0x1C w →
    s.vat? vat = some u → u.desc.vatId = vat → u.step = some r → dmTarget w = 1 → dmDst w ≤ (s.core core).index w 0 →
    ∃ t u' r', exec (.getx core w far UnitFault.none) s = .next t ∧ (t.core core).rd (dmBank w) (dmLength w) = zeros (dmLength w) ∧
      t.vat? vat = some u' ∧ u'.step = some r' ∧
      r'.causes = r.causes ++ [⟨0x0542, s.tick.count, s.links.node * 256 + 0x30 + core / 256, 0⟩]) ∧
  (∀ (s : State) (core vat : Nat) (w : OpWord) (far : List Byte) (f : UnitFault), UnitRuns s core vat 0x1C w →
    ∃ t u, exec (.getx core w far f) s = .next t ∧ Marked u (t.core core) ∧ u = { s.core core with bank := u.bank } ∧
      ∀ c, c ≠ core → Marked (s.core c) (t.core c)) ∧
  (∀ (s : State) (core vat : Nat) (w : OpWord) (f : UnitFault), UnitRuns s core vat 0x1D w →
    ∃ t u, exec (.getl core w f) s = .next t ∧ Marked u (t.core core) ∧ u = { s.core core with bank := u.bank } ∧
      ∀ c, c ≠ core → Marked (s.core c) (t.core c)) ∧
  (∀ (s : State) (core vat : Nat) (w : OpWord) (u : Vat) (r : StepRun), UnitRuns s core vat 0x1D w →
    s.vat? vat = some u → u.desc.vatId = vat → u.step = some r → (s.allPieces u r w).all (fun p => !s.pieceFenced p) = true →
    ∃ t, exec (.getl core w UnitFault.none) s = .next t ∧ t = { s with cores := t.cores, mem := t.mem } ∧
      t.mem = { s.mem with curd := t.mem.curd } ∧ (∀ c, c ≠ core → t.core c = s.core c) ∧
      t.core core = { s.core core with bank := (t.core core).bank } ∧
      ∀ k < dmLaneCount w, (t.core core).rd (dmBank w + k * dmLength w) (dmLength w) =
        if r.lane (dmLaneFirst w + k) = none then zeros (dmLength w) else s.laneBytes u r w (dmLaneFirst w + k))) ∧
  ((∀ (s : State) (core vat : Nat) (w : OpWord) (u : Vat), UnitRuns s core vat 0x19 w → s.vat? vat = some u →
    u.desc.vatId = vat → (s.nearPieces u (dmVatAddr w) (dmLength w)).all (fun p => !s.pieceFenced p) = true →
    ∃ t, exec (.put core w UnitFault.none) s = .next t ∧ t = { s with mem := t.mem } ∧
      (vaLpkg (dmVatAddr w) ≠ u.lpkg → t = s) ∧
      ((s.readPieces (s.nearPieces u (dmVatAddr w) (dmLength w))).length = dmLength w →
        t = s.curdWrite (s.nearPieces u (dmVatAddr w) (dmLength w)) ((s.core core).rd (dmBank w) (dmLength w)))) ∧
  (∀ (s : State) (core vat d : Nat) (w : OpWord) (u : Vat), UnitRuns s core vat 0x1A w → s.vat? vat = some u →
    u.desc.vatId = vat → dmAtom w = 0 → (u.sendTargets w).map (corePhys u.place) = [d] → s.coreFenced d = false →
    ∃ t, exec (.send core w UnitFault.none) s = .next t ∧ OnlyCore s t d ∧
      t.core d = { s.core d with bank := (t.core d).bank } ∧
      (t.core d).rd (dmDst w) (dmLength w) = (s.core core).rd (dmBank w) (dmLength w) ∧
      ∀ a, (a < dmDst w ∨ dmDst w + dmLength w ≤ a) → (t.core d).byte a = (s.core d).byte a) ∧
  (∀ (s : State) (core vat : Nat) (w : OpWord) (u : Vat) (r : StepRun), UnitRuns s core vat 0x1E w → s.vat? vat = some u →
    u.desc.vatId = vat → u.step = some r → (∀ l ∈ laneRange w, r.lane l = none) → exec (.putl core w UnitFault.none) s = .next s) ∧
  (∀ (s : State) (core vat : Nat) (w : OpWord) (u : Vat) (r : StepRun) (y : Lane), UnitRuns s core vat 0x1E w →
    s.vat? vat = some u → u.desc.vatId = vat → u.step = some r → dmLaneCount w = 1 → r.lane (dmLaneFirst w) = some y →
    (s.lanePieces u w y).all (fun p => !s.pieceFenced p) = true → ∃ t, exec (.putl core w UnitFault.none) s = .next t ∧
      t = s.store (s.lanePieces u w y) [] 0 ((s.core core).rd (dmBank w) (dmLength w)) ∧ t = { s with mem := t.mem }) ∧
  (∀ (s : State) (core vat : Nat) (w : OpWord) (f : UnitFault), UnitRuns s core vat 0x19 w →
    ∃ t, exec (.put core w f) s = .next t ∧ ∀ c, Marked (s.core c) (t.core c)) ∧
  (∀ (s : State) (core vat : Nat) (w : OpWord) (f : UnitFault) (v : Vat), UnitRuns s core vat 0x1A w → s.vat? vat = some v →
    ∃ t, exec (.send core w f) s = .next t ∧ ∀ c, c ∉ (v.sendTargets w).map (corePhys v.place) → Marked (s.core c) (t.core c)) ∧
  (∀ (s : State) (core vat : Nat) (w : OpWord) (f : UnitFault), UnitRuns s core vat 0x1E w →
    ∃ t, exec (.putl core w f) s = .next t ∧ ∀ c, Marked (s.core c) (t.core c)) ∧
  (∀ (s : State) (dpa x : Nat), (dpa, x) ∈ s.mem.curd → x + 2 ≤ s.tick.count → (∀ e ∈ s.mem.curd, e.1 = dpa → e = (dpa, x)) →
    exec (.curdHbmReadReady dpa .clean) s = .next { s with mem := { s.mem with curd := s.mem.curd.erase (dpa, x) } }))

/-- VLD, VST, VLDMX, VSTMX, VMSK, VATOM, VSWAP (R84, R95, R97): loads widen the 128 packed elements of each register to FP32, stores and atomics change the
core bank alone and only over their own range, VMSK gives −infinity in the lanes whose mask bit is 0, VSWAP returns the old elements. Errors the operation meets
mark the core and fail the step; they change no other value.

It rests on choices of the model: log entries 33, 58, 103, 104. -/
def Obligations.VectorLoadsAndStores : Prop :=
  (∀ (s : State) (core vat : Nat) (w : OpWord) (f : UnitFault), UnitRuns s core vat 0x20 w →
    ∃ t u, exec (.vld core w f) s = .next t ∧ UnitDone s t core f u ∧ VectorOnly (s.core core) u ∧
      ∀ v < vN w, u.vec (vD w + v) = (s.core core).loadVec (vFmt w) (vAddr w + v * vecBytes w)) ∧
  (∀ (s : State) (core vat : Nat) (w : OpWord) (f : UnitFault), UnitRuns s core vat 0x22 w →
    ∃ t u, exec (.vldmx core w f) s = .next t ∧ UnitDone s t core f u ∧ VectorOnly (s.core core) u ∧
      ∀ v < vN w, u.vec (vD w + v) = (List.range 4).flatMap fun b => (s.core core).loadBlock w (4 * v + b)) ∧
  (∀ (s : State) (core vat : Nat) (w : OpWord) (f : UnitFault), UnitRuns s core vat 0x24 w →
    ∃ t u, exec (.vmsk core w f) s = .next t ∧ UnitDone s t core f u ∧ VectorOnly (s.core core) u ∧
      ∀ v < vN w, ∀ l < 128, nth 0 (u.vec (vD w + v)) l =
        if (s.core core).byte (vAddr2 w + 16 * v + l / 8) / 2 ^ (l % 8) % 2 = 1 then nth 0 ((s.core core).vec (vA w + v)) l
        else 0xFF800000#32) ∧
  (∀ (s : State) (core vat : Nat) (w : OpWord) (f : UnitFault), UnitRuns s core vat 0x21 w →
    ∃ t u, exec (.vst core w f) s = .next t ∧ UnitDone s t core f u ∧
      u = { s.core core with bank := u.bank } ∧
      u.rd (vAddr w) (((s.core core).vecs (vA w) (vN w)).flatMap fun x => vecElems (vFmt w) (vCvt w) x).length =
        ((s.core core).vecs (vA w) (vN w)).flatMap (fun x => vecElems (vFmt w) (vCvt w) x) ∧
      ∀ a, (a < vAddr w ∨ vAddr w + (((s.core core).vecs (vA w) (vN w)).flatMap fun x => vecElems (vFmt w) (vCvt w) x).length ≤ a) →
        u.byte a = (s.core core).byte a) ∧
  (∀ (s : State) (core vat : Nat) (w : OpWord) (f : UnitFault), UnitRuns s core vat 0x23 w →
    ∃ t u, exec (.vstmx core w f) s = .next t ∧ UnitDone s t core f u ∧
      u = { s.core core with bank := u.bank } ∧
      u.rd (vAddr2 w) ((s.core core).vecBlocks w).length =
        ((s.core core).vecBlocks w).map (fun b => BitVec.ofNat 8 b.1) ∧
      ∀ a, (a < vAddr w ∨ vAddr w + (packElems (codeBits (vFmt w)) (((s.core core).vecBlocks w).flatMap (·.2))).length ≤ a) →
        (a < vAddr2 w ∨ vAddr2 w + ((s.core core).vecBlocks w).length ≤ a) → u.byte a = (s.core core).byte a) ∧
  (∀ (s : State) (core vat : Nat) (w : OpWord) (f : UnitFault), UnitRuns s core vat 0x25 w →
    ∃ t u, exec (.vatom core w f) s = .next t ∧ UnitDone s t core f u ∧
      u = vatomEffect w f (s.core core) ∧ u = { s.core core with bank := u.bank } ∧
      ∀ a, (a < vAddr w ∨ vAddr w + 128 * vN w * (codeBits (vFmt w) / 8) ≤ a) → u.byte a = (s.core core).byte a) ∧
  (∀ (s : State) (core vat : Nat) (w : OpWord) (f : UnitFault), UnitRuns s core vat 0x26 w →
    ∃ t u, exec (.vswap core w f) s = .next t ∧ UnitDone s t core f u ∧
      (∀ v < vN w, u.vec (vD w + v) = (s.core core).loadVec (vFmt w) (vAddr w + v * vecBytes w)) ∧
      u = { s.core core with bank := u.bank, vregs := u.vregs } ∧
      ∀ a, (a < vAddr w ∨ vAddr w + 512 * vN w ≤ a) → u.byte a = (s.core core).byte a)

/-- Lane-wise operations of two and three operands (R46, R47, R95, R96): each lane of VD takes the function of the lanes of VA and of VB, or of the
immediate, all operands read first; FMA rounds once. No other register, no bank byte, no other core changes. Errors the operation meets
mark the core and fail the step; they change no other value.

Lane-wise operations of one operand (R48, R95, R96, R97): each lane of VD takes the function of the lane of VA; ABS, NEG and MOV by their bits, BCAST
the lane the immediate names, RND the value rounded to the format and back. No other register, no bank byte, no other core changes. Errors the
operation meets mark the core and fail the step; they change no other value.

Reductions and composite operations (R49, R97): RSUM, RMAX and RMIN put the one result in every lane of VD; SOFTMAX, RMSNORM, LAYERNORM
and ROPE take the registers the sequence of R97 gives, and softmax of a row of −infinity is 0 in every lane. No bank byte and no other core
changes. Errors the operation meets
mark the core and fail the step; they change no other value. -/
def Obligations.VectorLanesFollowTheirFunctions : Prop :=
  ((∀ (s : State) (core vat : Nat) (w : OpWord) (f : UnitFault) (mk : Nat → OpWord → UnitFault → Instr) (code : Nat) (g : Word → Word → Word),
    (mk, code, g) ∈ [(Instr.add, 0x30, fAdd), (Instr.sub, 0x31, fSub), (Instr.mul, 0x32, fMul), (Instr.div, 0x33, fDiv),
      (Instr.min, 0x35, fMin), (Instr.max, 0x36, fMax), (Instr.swiglu, 0x5E, fun x y => fMul (siluLane x) y)] →
    UnitRuns s core vat code w →
    ∃ t u, exec (mk core w f) s = .next t ∧ UnitDone s t core f u ∧ VectorOnly (s.core core) u ∧
      (∀ v < vN w, u.vec (vD w + v) = List.zipWith g ((s.core core).vec (vA w + v))
        (if vImmB w then List.replicate 128 (vImm w) else (s.core core).vec (vB w + v))) ∧
      ∀ r, (r < vD w ∨ vD w + vN w ≤ r) → u.vec r = (s.core core).vec r) ∧
  (∀ (s : State) (core vat : Nat) (w : OpWord) (f : UnitFault), UnitRuns s core vat 0x34 w →
    ∃ t u, exec (.fma core w f) s = .next t ∧ UnitDone s t core f u ∧ VectorOnly (s.core core) u ∧
      (∀ v < vN w, ∀ l < 128, nth 0 (u.vec (vD w + v)) l =
        toFp32 (fpAdd (fpMul (fp32 (nth 0 ((s.core core).vec (vA w + v)) l))
          (fp32 (if vImmB w then vImm w else nth 0 ((s.core core).vec (vB w + v)) l))) (fp32 (nth 0 ((s.core core).vec (vC w + v)) l)))) ∧
      ∀ r, (r < vD w ∨ vD w + vN w ≤ r) → u.vec r = (s.core core).vec r)) ∧
  ((∀ (s : State) (core vat : Nat) (w : OpWord) (f : UnitFault) (mk : Nat → OpWord → UnitFault → Instr) (code : Nat) (g : Word → Word),
    (mk, code, g) ∈ [(Instr.abs, 0x37, fun x => x &&& 0x7FFFFFFF#32),
      (Instr.neg, 0x38, fun x => x ^^^ 0x80000000#32), (Instr.mov, 0x39, fun x => x),
      (Instr.rcp, 0x40, fRcp), (Instr.sqrt, 0x41, fSqrt), (Instr.rsqrt, 0x42, fRsqrt), (Instr.exp, 0x43, fExp), (Instr.exp2, 0x44, fExp2),
      (Instr.log2, 0x45, fLog2), (Instr.sinpi, 0x46, fSinPi), (Instr.cospi, 0x47, fCosPi), (Instr.tanh, 0x48, fTanh),
      (Instr.silu, 0x5C, fun x => fMul x (fRcp (fAdd 0x3F800000#32 (fExp (fNeg x))))), (Instr.gelu, 0x5D, geluLane)] →
    UnitRuns s core vat code w →
    ∃ t u, exec (mk core w f) s = .next t ∧ UnitDone s t core f u ∧ VectorOnly (s.core core) u ∧
      (∀ v < vN w, u.vec (vD w + v) = ((s.core core).vec (vA w + v)).map g) ∧
      ∀ r, (r < vD w ∨ vD w + vN w ≤ r) → u.vec r = (s.core core).vec r) ∧
  (∀ (s : State) (core vat : Nat) (w : OpWord) (f : UnitFault), UnitRuns s core vat 0x3A w →
    ∃ t u, exec (.bcast core w f) s = .next t ∧ UnitDone s t core f u ∧ VectorOnly (s.core core) u ∧
      ∀ v < vN w, u.vec (vD w + v) = List.replicate 128 (nth 0 ((s.core core).vec (vA w + v)) (vImm w).toNat)) ∧
  (∀ (s : State) (core vat : Nat) (w : OpWord) (f : UnitFault), UnitRuns s core vat 0x3B w →
    ∃ t u, exec (.rnd core w f) s = .next t ∧ UnitDone s t core f u ∧ VectorOnly (s.core core) u ∧
      ∀ v < vN w, u.vec (vD w + v) = ((s.core core).vec (vA w + v)).map fun x =>
        (fmtKind (vFmt w)).elim 0 fun k => toFp32 (elemVal k (cvtElem k (vCvt w) (fp32 x))))) ∧
  ((∀ (s : State) (core vat : Nat) (w : OpWord) (f : UnitFault) (mk : Nat → OpWord → UnitFault → Instr) (code : Nat) (g : Word → Word → Word),
    (mk, code, g) ∈ [(Instr.rsum, 0x50, fAdd), (Instr.rmax, 0x51, fMax), (Instr.rmin, 0x52, fMin)] →
    UnitRuns s core vat code w →
    ∃ t u, exec (mk core w f) s = .next t ∧ UnitDone s t core f u ∧ VectorOnly (s.core core) u ∧
      (vN w = 0 → u = s.core core) ∧
      (vN w ≠ 0 → u.vec (vD w) = List.replicate 128 (laneReduce g ((s.core core).vecs (vA w) (vN w)))) ∧
      ∀ r, r ≠ vD w → u.vec r = (s.core core).vec r) ∧
  (∀ (s : State) (core vat : Nat) (w : OpWord) (f : UnitFault), UnitRuns s core vat 0x5A w →
    ∃ t u, exec (.softmax core w f) s = .next t ∧ UnitDone s t core f u ∧
      VectorOnly (s.core core) u ∧
      (∀ v < vN w, u.vec (vD w + v) =
        if laneReduce fMax ((s.core core).vecs (vA w) (vN w)) = 0xFF800000#32 then List.replicate 128 0
        else ((s.core core).vec (vA w + v)).map fun x =>
          fMul (fExp (fSub x (laneReduce fMax ((s.core core).vecs (vA w) (vN w)))))
            (fRcp (laneReduce fAdd (((s.core core).vecs (vA w) (vN w)).map fun y => y.map fun z =>
              fExp (fSub z (laneReduce fMax ((s.core core).vecs (vA w) (vN w))))))))) ∧
  (∀ (s : State) (core vat : Nat) (w : OpWord) (f : UnitFault), UnitRuns s core vat 0x58 w →
    ∃ t u, exec (.rmsnorm core w f) s = .next t ∧ UnitDone s t core f u ∧
      VectorOnly (s.core core) u ∧
      ∀ v < vN w, ∀ l < 128, nth 0 (u.vec (vD w + v)) l =
        fMul (fMul (nth 0 ((s.core core).vec (vA w + v)) l) (rmsScale (sumSq ((s.core core).vecs (vA w) (vN w))) (vImm2 w) (vImm w)))
          (if vImmB w then vImm w else nth 0 ((s.core core).vec (vB w + v)) l)) ∧
  (∀ (s : State) (core vat : Nat) (w : OpWord) (f : UnitFault), UnitRuns s core vat 0x59 w →
    ∃ t u, exec (.layernorm core w f) s = .next t ∧ UnitDone s t core f u ∧
      VectorOnly (s.core core) u ∧
      u.vecs (vD w) (vN w) = layernormVecs ((s.core core).vecs (vA w) (vN w)) ((s.core core).opB w)
        ((s.core core).vecs (vC w) (vN w)) (vImm w) (vImm2 w)) ∧
  (∀ (s : State) (core vat : Nat) (w : OpWord) (f : UnitFault), UnitRuns s core vat 0x5B w →
    ∃ t u, exec (.rope core w f) s = .next t ∧ UnitDone s t core f u ∧
      VectorOnly (s.core core) u ∧
      ∀ v < vN w, ∀ i < 64, ∀ a b z, nth 0 ((s.core core).vec (vA w + v)) (2 * i) = a → nth 0 ((s.core core).vec (vA w + v)) (2 * i + 1) = b →
        (if vImmB w then vImm w else nth 0 ((s.core core).vec (vB w + v)) (2 * i)) = z →
        nth 0 (u.vec (vD w + v)) (2 * i) = fSub (fMul a (fCosPi z)) (fMul b (fSinPi z)) ∧
        nth 0 (u.vec (vD w + v)) (2 * i + 1) = fAdd (fMul a (fSinPi z)) (fMul b (fCosPi z))))

/-- MIN and MAX (R47): −0 is ordered below +0; if exactly one operand is NaN the other is returned, if both are, the canonical NaN. Between
two numbers the order is that of their values, and every lane of the two operations follows these functions. -/
def Obligations.MinMaxFollowR47 : Prop :=
  (∀ x y : Word, fpIsNaN (fp32 x) = true → fpIsNaN (fp32 y) = true → fMin x y = 0x7FC00000#32 ∧ fMax x y = 0x7FC00000#32) ∧
  (∀ x y : Word, fpIsNaN (fp32 x) = true → fpIsNaN (fp32 y) = false → fMin x y = y ∧ fMin y x = y ∧ fMax x y = y ∧ fMax y x = y) ∧
  (∀ x y : Word, fpIsNaN (fp32 x) = false → fpIsNaN (fp32 y) = false →
    (x.toNat < 2 ^ 31 → y.toNat < 2 ^ 31 → fMin x y = (if x.toNat ≤ y.toNat then x else y) ∧ fMax x y = if x.toNat ≤ y.toNat then y else x) ∧
    (2 ^ 31 ≤ x.toNat → 2 ^ 31 ≤ y.toNat → fMin x y = (if x.toNat ≤ y.toNat then y else x) ∧ fMax x y = if x.toNat ≤ y.toNat then x else y) ∧
    (2 ^ 31 ≤ x.toNat → y.toNat < 2 ^ 31 → fMin x y = x ∧ fMin y x = x ∧ fMax x y = y ∧ fMax y x = y)) ∧
  (∀ (s : State) (core vat : Nat) (w : OpWord) (f : UnitFault), UnitRuns s core vat 0x35 w →
    ∃ t u, exec (.min core w f) s = .next t ∧ UnitDone s t core f u ∧ ∀ v < vN w, ∀ l < 128,
      nth 0 (u.vec (vD w + v)) l = fMin (nth 0 ((s.core core).vec (vA w + v)) l)
        (if vImmB w then vImm w else nth 0 ((s.core core).vec (vB w + v)) l)) ∧
  (∀ (s : State) (core vat : Nat) (w : OpWord) (f : UnitFault), UnitRuns s core vat 0x36 w →
    ∃ t u, exec (.max core w f) s = .next t ∧ UnitDone s t core f u ∧ ∀ v < vN w, ∀ l < 128,
      nth 0 (u.vec (vD w + v)) l = fMax (nth 0 ((s.core core).vec (vA w + v)) l)
        (if vImmB w then vImm w else nth 0 ((s.core core).vec (vB w + v)) l))

/-- ROUTER_SLOT_MOVE and WHEY_PACKET_FORWARD (R122, R156, R161, R162, R174, R349): a table entry of a step in progress moves the slot at the
head of a landing queue to the end of the far router's, or to the link port behind a link router, where it waits for its transmit Tick; a void
that leaves the fabric at an endpoint writes nothing and makes the step Degraded. A whey packet whose turn it is goes to the far input with room
for it, or is delivered at its destination; a request to a Lost complex is answered with 0x0730. Said, for packets, where none waits for a
link.

Whey packets at their ends (R160, R163, R195, R201, R325): a packet with a reserved header value is dropped and counted; a read of a slice
is answered with its plaintext at once, one of HBM or a cave queues at the arbiter of its channel or port; a write to a slice takes the data
slots and acknowledges; a request to a Lost complex is answered with 0x0730 (R349); data and acknowledgements reach their requester; an uncorrectable packet is dropped and counted, and its requester told with 0x0550.

It rests on choices of the model: log entries 29, 36, 37, 79, 80, 109. -/
def Obligations.RoutersMoveSlotsAndPackets : Prop :=
  ((∀ (s : State) (r i mask k r' k' vat : Nat) (ecc : Ecc) (x : Slot), s.moveDue r i mask = some vat → (s.router r).faulted = false →
    (r < 1024 ∧ i < 2 → s.coreFenced r = false) → (mapGet [] (s.router r).landing i).head? = some x → portBits mask = [k] →
    s.bridgeCut r k = false → s.farEnd r k = some (r', k') → r' ≠ r → ∃ t, exec (.routerSlotMove r i mask ecc) s = .next t ∧
      mapGet [] (t.router r).landing i = (mapGet [] (s.router r).landing i).drop 1 ∧
      mapGet [] (t.router r').landing k' = mapGet [] (s.router r').landing k' ++ [x] ∧
      (∀ q, q ≠ r → q ≠ r' → t.router q = s.router q) ∧ t = { s with routers := t.routers }) ∧
  (∀ (s : State) (r i mask k vat : Nat) (ecc : Ecc) (x : Slot) (u : Vat) (run : StepRun), s.moveDue r i mask = some vat →
    (s.router r).faulted = false → (r < 1024 → s.coreFenced r = false) → (mapGet [] (s.router r).landing i).head? = some x →
    portBits mask = [k] → s.bridgeCut r k = false → s.farEnd r k = none → linkEnd r k = none → x.void = true → s.vat? vat = some u →
    u.step = some run →
    ∃ t u' run', exec (.routerSlotMove r i mask ecc) s = .next t ∧ t.vat? vat = some u' ∧ u'.step = some run' ∧ run'.degraded = true ∧
      run'.voids = run.voids + 1 ∧ run'.causes = run.causes ∧ t.tick.voids = min (s.tick.voids + 1) (2 ^ 32 - 1) ∧ t.cores = s.cores ∧
      t.mem = s.mem) ∧
  (∀ (s : State) (r i mask k n vat : Nat) (ecc : Ecc) (x : Slot), s.moveDue r i mask = some vat → (s.router r).faulted = false →
    (mapGet [] (s.router r).landing i).head? = some x → portBits mask = [k] → s.farEnd r k = none → linkEnd r k = some n → 1024 ≤ r →
    s.bridgeCut r k = false → ∃ t, exec (.routerSlotMove r i mask ecc) s = .next t ∧
      mapGet [] (t.port n).txq (txKey (r % 256 - 0xA4) k) = mapGet [] (s.port n).txq (txKey (r % 256 - 0xA4) k) ++ [x] ∧
      (∀ j, j ≠ n → t.port j = s.port j) ∧ t = { s with routers := t.routers, links := { s.links with ports := t.links.ports } }) ∧
  (∀ (s : State) (r i : Nat) (p : WheyPacket), (mapGet [] (s.router r).whey i).head? = some p → wheyOk p = true →
    (s.router r).turnOf r (wheyPort r p) = some i → p.dest / 8 ≠ r → s.bridgeCut r (wheyPort r p) = false →
    (∀ c < 17, s.heldIn c = []) →
    (∀ r' k', s.farEnd r (wheyPort r p) = some (r', k') → r' ≠ r ∧ (mapGet [] (s.router r').whey k').length < 2) →
    ∃ t, exec (.wheyPacketForward r i .clean) s = .next t ∧ ∀ r' k', s.farEnd r (wheyPort r p) = some (r', k') →
      mapGet [] (t.router r).whey i = (mapGet [] (s.router r).whey i).drop 1 ∧ mapGet 7 (t.router r).turn (wheyPort r p) = i ∧
      mapGet [] (t.router r').whey k' = mapGet [] (s.router r').whey k' ++ [p] ∧
      (∀ q, q ≠ r → q ≠ r' → t.router q = s.router q) ∧ t = { s with routers := t.routers }) ∧
  (∀ (s : State) (r i : Nat) (p : WheyPacket), (mapGet [] (s.router r).whey i).head? = some p → wheyOk p = true →
    (s.router r).turnOf r (wheyPort r p) = some i → p.dest / 8 = r → linkEnd r (p.dest % 8) = none → s.deadComplex p = false →
    (∀ c < 17, s.heldIn c = []) → ∃ t m, exec (.wheyPacketForward r i .clean) s = .next t ∧
      mapGet [] (t.router r).whey i = (mapGet [] (s.router r).whey i).drop 1 ∧ t.out = s.out ++ [m] ∧ m.dest = p.dest ∧ m.body = p.data ∧
      t = { s with routers := t.routers, out := t.out }) ∧
  (∀ (s : State) (r i : Nat) (p : WheyPacket), (mapGet [] (s.router r).whey i).head? = some p → wheyOk p = true →
    (s.router r).turnOf r (wheyPort r p) = some i → p.dest / 8 = r → s.deadComplex p = true → p.kind ≠ 2 → p.kind ≠ 4 →
    (∀ c < 17, s.heldIn c = []) → ∃ t, exec (.wheyPacketForward r i .clean) s = .next t ∧
      t.out = s.out ++ [⟨"WHEY_ERROR", p.src, [0x0730, p.tag], []⟩] ∧ t = { s with routers := t.routers, out := t.out })) ∧
  ((∀ (s : State) (p : WheyPacket) (ecc : Ecc), p.format ≠ 0x1000 → ∀ c ∈ [Instr.wheyReadRequest p ecc, .wheyReadData p ecc,
    .wheyWrite p ecc, .wheyWriteAck p ecc], exec c s = .next { s with tick := { s.tick with discards := min (s.tick.discards + 1) (2 ^ 32 - 1) } }) ∧
  (∀ (s : State) (p : WheyPacket) (die slice off : Nat), wheyOk p = true → p.kind = 1 → s.deadComplex p = false →
    dpaSpace p.addr = some (.slice die slice off) → exec (.wheyReadRequest p .clean) s = .next { s with out := s.out ++
      [⟨"WHEY", p.src, [2, p.tag, p.vat, 0], s.dpaRead [] p.addr (p.arg / 65536)⟩] }) ∧
  (∀ (s : State) (p : WheyPacket) (q off : Nat), wheyOk p = true → p.kind = 1 → s.deadComplex p = false →
    dpaSpace p.addr = some (.hbm q off) →
    ∃ t, exec (.wheyReadRequest p .clean) s = .next t ∧ t = { s with qos := t.qos } ∧ t.qos.streams = s.qos.streams + 1) ∧
  (∀ (s : State) (p : WheyPacket), wheyOk p = true → p.kind = 1 → s.deadComplex p = true →
    exec (.wheyReadRequest p .clean) s = .next { s with out := s.out ++ [⟨"WHEY", p.src, [2, p.tag, p.vat, 0x0730], []⟩] }) ∧
  (∀ (s : State) (p : WheyPacket), wheyOk p = true → p.kind = 1 → s.deadComplex p = false → dpaSpace p.addr = none →
    exec (.wheyReadRequest p .clean) s = .next { s with out := s.out ++ [⟨"WHEY", p.src, [2, p.tag, p.vat, 0x0312], []⟩] }) ∧
  (∀ (s : State) (p : WheyPacket), wheyOk p = true → p.kind = 2 → exec (.wheyReadData p .clean) s =
    .next { s with out := s.out ++ [⟨"WHEY_DELIVERED", p.dest, [2, p.src, p.tag, p.vat, p.arg, p.addr], p.data⟩] }) ∧
  (∀ (s : State) (p : WheyPacket) (die slice off : Nat), wheyOk p = true → p.kind = 3 → s.deadComplex p = false →
    dpaSpace p.addr = some (.slice die slice off) →
    ∃ t, exec (.wheyWrite p .clean) s = .next t ∧ t.out = s.out ++ [⟨"WHEY", p.src, [4, p.tag, p.vat, 0], []⟩] ∧
      t.mem = s.mem.write [] p.addr ((p.data.drop 96).take (128 * p.dataSlots)) ∧ t = { s with mem := t.mem, out := t.out }) ∧
  (∀ (s : State) (p : WheyPacket), wheyOk p = true → p.kind = 4 → exec (.wheyWriteAck p .clean) s =
    .next { s with out := s.out ++ [⟨"WHEY_DELIVERED", p.dest, [4, p.src, p.tag, p.vat, p.arg, p.addr], []⟩] }) ∧
  (∀ (s : State) (p : WheyPacket), wheyOk p = true → p.kind = 4 → exec (.wheyWriteAck p .uncorrectable) s =
    .next { s with
      tick := { s.tick with fabUe := min (s.tick.fabUe + 1) (2 ^ 32 - 1), discards := min (s.tick.discards + 1) (2 ^ 32 - 1) }
      out := s.out ++ [⟨"WHEY_ERROR", p.dest, [0x0550, p.tag], []⟩] }) ∧
  (∀ (s : State) (p : WheyPacket), wheyOk p = true → p.kind = 3 → exec (.wheyWrite p .uncorrectable) s =
    .next { s with
      tick := { s.tick with fabUe := min (s.tick.fabUe + 1) (2 ^ 32 - 1), discards := min (s.tick.discards + 1) (2 ^ 32 - 1) }
      out := s.out ++ [⟨"WHEY_ERROR", p.src, [0x0550, p.tag], []⟩] }))

/-- REMOTE_WINDOW_ACCESS and WIN_COMMIT (R194, R195, R202): an invalid window answers 0x0310, a vat, sender or direction it does not allow 0x0311, a
range outside it, or a window not within one stack's valid HBM range or cave space, 0x0312, each counted and with nothing read or written; a
write that passes waits at the arbiters of its range, one request for each 256 bytes (R325), and with the last of them granted lands at the
window's base plus the offset, under the vat's data key, and is answered with 0. Said where the answer's next port takes it and, of writes,
where no multicast is reserved here.

Whey multicast (R193): a target that passes the checks of R195 with room in its pool grants; once every target has granted the source's
data leaves, and once every target has its copy COMMIT goes out and the operation completes; COMMIT writes the complete copy and ends the
reservation; a refused grant and 1,024 Ticks without completion cancel.

It rests on choices of the model: log entries 75, 76, 110. -/
def Obligations.WindowsAndMulticastAreChecked : Prop :=
  ((∀ (s : State) (src : Nat) (bad : ReadErrs) (write : Bool) (p : WheyPacket), wheyOk p = true → p.kind = 7 →
    s.wheyBlocked src 0 = false → (write = true → s.links.mcIn = []) → (s.window (p.arg % 256)).valid = false →
    exec (.remoteWindowAccess ⟨src, bad⟩ write p) s = .next { s with
      links := { s.links with denies := min (s.links.denies + 1) (2 ^ 32 - 1) },
      out := s.out ++ [⟨"WINDOW_ANSWER", src, [p.tag, 0x0310], []⟩] }) ∧
  (∀ (s : State) (src : Nat) (bad : ReadErrs) (write : Bool) (p : WheyPacket), wheyOk p = true → p.kind = 7 →
    s.wheyBlocked src 0 = false → (write = true → s.links.mcIn = []) → (s.window (p.arg % 256)).valid = true →
    ((s.window (p.arg % 256)).vat ≠ p.vat ∨ src < (s.window (p.arg % 256)).lo ∨ (s.window (p.arg % 256)).hi < src ∨
      (s.window (p.arg % 256)).perm / (if write then 2 else 1) % 2 = 0) →
    exec (.remoteWindowAccess ⟨src, bad⟩ write p) s = .next { s with
      links := { s.links with denies := min (s.links.denies + 1) (2 ^ 32 - 1) },
      out := s.out ++ [⟨"WINDOW_ANSWER", src, [p.tag, 0x0311], []⟩] }) ∧
  (∀ (s : State) (src : Nat) (bad : ReadErrs) (write : Bool) (p : WheyPacket) (x : Window), wheyOk p = true → p.kind = 7 →
    s.wheyBlocked src 0 = false → (write = true → s.links.mcIn = []) → s.window (p.arg % 256) = x → x.valid = true → x.vat = p.vat → x.lo ≤ src → src ≤ x.hi → x.perm / (if write then 2 else 1) % 2 = 1 →
    (x.size < p.addr + accessLen write p ∨ x.placed = false) →
    exec (.remoteWindowAccess ⟨src, bad⟩ write p) s = .next { s with
      links := { s.links with denies := min (s.links.denies + 1) (2 ^ 32 - 1) },
      out := s.out ++ [⟨"WINDOW_ANSWER", src, [p.tag, 0x0312], []⟩] }) ∧
  (∀ (s : State) (src k : Nat) (bad : ReadErrs) (p : WheyPacket) (x : Window), wheyOk p = true → p.kind = 7 → s.window (p.arg % 256) = x →
    x.valid = true → x.vat = p.vat → x.lo ≤ src → src ≤ x.hi → x.perm / 2 % 2 = 1 → p.addr + 128 * p.dataSlots ≤ x.size → x.placed = true →
    x.base + x.size ≤ 2 ^ 40 → s.vatSlot p.vat 5 = some k → (s.slot k).state = .active → s.fenced 5 ((x.base + p.addr) / 2 ^ 36) = false →
    s.links.mcIn = [] → 1 ≤ p.dataSlots → ∃ t, exec (.remoteWindowAccess ⟨src, bad⟩ true p) s = .next t ∧
      t.qos.streams = s.qos.streams + ((x.base + p.addr + 128 * p.dataSlots - 1) / 256 + 1 - (x.base + p.addr) / 256) ∧
      t = { s with qos := t.qos }) ∧
  (∀ (s : State) (a n src vat tag dpa len k y : Nat) (bs : List Byte) (bad : ReadErrs) (x : Arbiter) (r : ArbReq), a < 522 →
    s.arbFenced a = false → s.arbRefreshes a = false → s.qos.arbs = [(a, x)] → x.queue = [r] → r.cls < 8 → r.held = 0 → r.here = [(y, 1)] →
    r.work = .window n src vat tag dpa len (some bs) bad → s.dpaFenced dpa = false → s.caveRange dpa len = 0 → s.vatSlot vat 5 = some k →
    (s.slot k).state = .active → s.wheyBlocked src 0 = false → ∃ t, exec (.arbiterDecision a) s = .next t ∧
      t.mem = s.mem.write (s.slot k).key dpa bs ∧ t.out = s.out ++ [⟨"WINDOW_ANSWER", src, [tag, 0], []⟩] ∧
      t = { s with mem := t.mem, out := t.out, qos := t.qos }) ∧
  (∀ (s : State) (n value : Nat), HostServed s → n < 256 → value % 2 = 1 → ∃ t, exec (.winCommit n value) s = .next t ∧
    t.window n = mapGet Window.zero s.links.winShad n ∧ (∀ k, k ≠ n → t.window k = s.window k) ∧
    t = { s with links := { s.links with winAct := t.links.winAct } })) ∧
  ((∀ (s : State) (src vat tag len n off : Nat), 1 ≤ len → len ≤ 65536 → s.links.mcIn = [] → s.windowStatus src vat n off len true = 0 →
    s.wheyBlocked src 7 = false → ∃ t m, exec (.mcReserve (.good src) vat tag len n off) s = .next t ∧
      t.links.mcIn = [⟨src, tag, vat, len, n, off, true, [], (s.window n).base⟩] ∧ t.out = s.out ++ [m] ∧ m.kind = "CONTROL" ∧
      m.dest = src ∧ m.args = [0x11, vat] ∧ field m.body 0x10 4 = 0 ∧ field m.body 0x18 2 = tag % 65536 ∧
      t = { s with out := t.out, links := t.links }) ∧
  (∀ (s : State) (src vat tag len n off : Nat), 1 ≤ len → len ≤ 65536 → s.links.mcIn = [] → s.windowStatus src vat n off len true ≠ 0 →
    s.wheyBlocked src 7 = false → ∃ t m, exec (.mcReserve (.good src) vat tag len n off) s = .next t ∧ t.out = s.out ++ [m] ∧
      m.kind = "CONTROL" ∧ m.dest = src ∧ m.args = [0x11, vat] ∧
      field m.body 0x10 4 = s.windowStatus src vat n off len true % 2 ^ 32 ∧ t = { s with out := t.out }) ∧
  (∀ (s : State) (d tag : Nat) (m : McSource), s.links.mcOut = [m] → m.tag = tag → m.targets = [d] → m.grants = [] → m.sent = false →
    s.wheyBlocked d 0 = false →
    ∃ t, exec (.mcGrant (.good d) tag 0) s = .next t ∧ t.links.mcOut = [{ m with grants := [d], sent := true }] ∧
      t.out = s.out ++ (List.range ((m.data.length + 255) / 256)).map (fun i =>
        ⟨"WINDOW_WRITE", d, [m.vat, tag, m.window, m.off + 256 * i], (m.data.drop (256 * i)).take 256⟩) ∧
      t = { s with out := t.out, links := t.links }) ∧
  (∀ (s : State) (d tag st : Nat) (m : McSource), s.links.mcOut = [m] → m.tag = tag → m.targets = [d] → st ≠ 0 →
    ∃ t, exec (.mcGrant (.good d) tag st) s = .next t ∧ t.links.mcOut = [] ∧ ⟨"MC_END", s.links.node, [tag, st], []⟩ ∈ t.out) ∧
  (∀ (s : State) (d tag : Nat) (m : McSource), s.links.mcOut = [m] → m.tag = tag → m.targets = [d] → m.sent = true →
    ∃ t, exec (.mcAck (.good d) tag) s = .next t ∧ t.links.mcOut = [] ∧ ⟨"MC_END", s.links.node, [tag, 0], []⟩ ∈ t.out ∧
      t = { s with out := t.out, links := t.links }) ∧
  (∀ (s : State) (src tag : Nat) (m : McTarget) (bs : List Byte), s.links.mcIn = [m] → m.src = src → m.tag = tag → m.granted = true →
    m.data = [(m.off, bs)] → bs.length = m.len → ∃ t, exec (.mcCommit (.good src) tag) s = .next t ∧ t.links.mcIn = [] ∧
      t.mem = s.mem.write (s.vatKey m.vat false) (m.base + m.off) bs ∧ t.out = s.out) ∧
  (∀ (s : State) (src tag st : Nat) (m : McTarget), s.links.mcIn = [m] → m.src = src → m.tag = tag →
    exec (.mcCancel (.good src) tag st) s = .next { s with links := { s.links with mcIn := [] } }) ∧
  (∀ (s : State) (tag : Nat) (m : McSource), s.links.mcOut = [m] → m.tag = tag → m.first + 1024 ≤ s.tick.count →
    ∃ t, exec (.multicastStall tag) s = .next t ∧ t.links.mcOut = [] ∧ t.links.stalls = min (s.links.stalls + 1) (2 ^ 32 - 1) ∧
      ⟨"MC_END", s.links.node, [tag, 0x0702], []⟩ ∈ t.out ∧ ∃ e ∈ t.events, e.what = "MULTICAST_STALL" ∧ e.arg = tag))

/-- Training (R167, R180, R199): TRAIN starts a training of a port that is Off or Failed; light on 63 or 64 lanes takes it to Equalise, then to
Lock with its PEER_ID sent; light lost, or codeword lock lost, in training returns it to Detect; light returning trains a Down port; UNFENCE takes
a Fenced port of a half that holds no split fence to Active; a lane that dies in use is listed. Each changes its own port alone.

A peer and its delay (R175, R182, R197): in Lock a PEER_ID that passes the check of R197 takes the port to Measure, with the first marker of its framed
stream (R168), and one that fails it fails the port with 0x0706; ECHO_REQ on a framed port is answered in the next Tick with its hold time; at the 64th sample within 2 ns the port holds D and goes on to
Align, or fails with 0x0704 where D exceeds 440 ns; a stage past its limit fails the port with the stage's status. Said of the limits for a package not bringing up
its ports.

Alignment and verification (R181, R183, R358): an aligned package whose count is the sender's plus k leaves Align once its own ALIGN is sent, and
one whose count is not fails the port with 0x0606; a package not aligned awaits the next TICK_FRAME, but the root of alignment takes no count
from a peer. After 4 frames that meet the conditions
of R181 the port is Active, or Fenced in a half with the split fence; otherwise it fails with 0x0705. Said for a package that is Ready.

It rests on choices of the model: log entries 27, 28. -/
def Obligations.PortsTrainMeasureAndAlign : Prop :=
  ((∀ (s : State) (k value : Nat), HostServed s → value / 256 % 2 = 1 → k < 8 → (s.port k).state = .off ∨ (s.port k).state = .failed →
    ∃ t, exec (.train k value) s = .next t ∧ OnlyPort s t k ∧ (t.port k).state = .detect ∧ (t.port k).entered = s.tick.count ∧
      (t.port k).trains = min ((s.port k).trains + 1) (2 ^ 32 - 1) ∧ (t.port k).landing = [] ∧ (t.port k).dead = []) ∧
  (∀ (s : State) (k value : Nat), HostServed s → value / 512 % 2 = 1 → (s.port k).state = .fenced → s.portSplit k = false →
    ∃ t, exec (.unfence k value) s = .next t ∧ OnlyPort s t k ∧
      t.port k = { s.port k with state := .active, entered := s.tick.count }) ∧
  (∀ (s : State) (k lanes : Nat), (s.port k).state = .detect → lanes = 63 ∨ lanes = 64 → ∃ t, exec (.lightDetect k lanes) s = .next t ∧
    OnlyPort s t k ∧ t.port k = { s.port k with
      state := .equalise, entered := s.tick.count, lanes := lanes, degraded := decide (lanes = 63) }) ∧
  (∀ (s : State) (k : Nat), (s.port k).state = .equalise → ∃ t, exec (.linkEqualiseDone k) s = .next t ∧
    t.port k = { s.port k with state := .lock, entered := s.tick.count, used := (s.port k).used + 1 } ∧
    t.out = s.out ++ [⟨"FLIT", k, [0x1000, 3, 0, 0, 0, s.links.node, 0, 0, s.tick.count % 65536, 1],
      fitBytes 256 (leBytes 2 s.links.node ++ leBytes 1 k ++ zeros 1 ++ leBytes 1 s.links.tx ++ leBytes 1 s.links.ty ++
        leBytes 1 s.links.tz)⟩] ∧
    t = { s with out := t.out, links := { s.links with ports := t.links.ports } }) ∧
  (∀ (s : State) (k lanes : Nat) (lock : Bool), (s.port k).state ∈ [.equalise, .lock, .measure, .align, .verify] →
    lanes < 63 ∨ lock = false → ∃ t, exec (.lightLoss k lanes lock) s = .next t ∧ OnlyPort s t k ∧ (t.port k).state = .detect ∧
      (t.port k).entered = s.tick.count ∧ (t.port k).offset = none) ∧
  (∀ (s : State) (k : Nat), (s.port k).state = .down → ∃ t, exec (.lightReturn k) s = .next t ∧ OnlyPort s t k ∧
    (t.port k).state = .detect ∧ (t.port k).entered = s.tick.count) ∧
  (∀ (s : State) (k lane : Nat), (s.port k).state = .active ∨ (s.port k).state = .fenced → lane < 64 → lane ∉ (s.port k).dead →
    ∃ t, exec (.deadLane k lane) s = .next t ∧ OnlyPort s t k ∧
      t.port k = { s.port k with dead := (s.port k).dead ++ [lane], degraded := true })) ∧
  ((∀ (s : State) (k node pp tx ty tz : Nat), (s.port k).state = .lock → ∃ t, exec (.peerId (.good k) node pp tx ty tz) s = .next t ∧
    t = { s with out := t.out, links := { s.links with ports := t.links.ports } } ∧ (∀ j, j ≠ k → t.port j = s.port j) ∧
    (t.port k).peer = node ∧ (t.port k).entered = s.tick.count ∧
    (pp = (k + 4) % 8 → tx = s.links.tx → ty = s.links.ty → tz = s.links.tz → node < tx * ty * tz →
      k % 4 = 3 ∨ node ∈ s.links.neighbours k → (t.port k).state = .measure ∧ ∃ m, t.out = s.out ++ [m] ∧ m.kind = "MARKER" ∧ m.dest = k) ∧
    (pp ≠ (k + 4) % 8 ∨ tx * ty * tz ≤ node ∨ (k % 4 ≠ 3 ∧ node ∉ s.links.neighbours k) →
      tx = s.links.tx → ty = s.links.ty → tz = s.links.tz → (t.port k).state = .failed ∧ (t.port k).last = 0x0706 ∧ t.out = s.out)) ∧
  (∀ (s : State) (k seq hold : Nat), (s.port k).state ∈ [.measure, .align, .verify, .active, .fenced] →
    ∃ t, exec (.echoReq (.good k) seq hold) s = .next t ∧
      t.out = s.out ++ [⟨"FLIT", k, [0x1000, 3, 0, 0, 0, s.links.node, 0, 0, (s.tick.count + 1) % 65536, 3],
        fitBytes 256 (leBytes 2 seq ++ zeros 2 ++ leBytes 4 hold)⟩] ∧ t.port k = { s.port k with ahead := (s.port k).ahead + 1 } ∧
      (∀ j, j ≠ k → t.port j = s.port j) ∧ t = { s with out := t.out, links := { s.links with ports := t.links.ports } }) ∧
  (∀ (s : State) (k seq rt hold : Nat), (s.port k).state = .measure → (s.port k).echoes.length < 63 →
    ∃ t, exec (.echoResp (.good k) seq rt hold) s = .next t ∧ OnlyPort s t k ∧
      t.port k = { s.port k with echoes := (s.port k).echoes ++ [rt - hold] }) ∧
  (∀ (s : State) (k seq d : Nat), (s.port k).state = .measure → (s.port k).echoes = List.replicate 63 (2 * d) →
    ∃ t, exec (.echoResp (.good k) seq (2 * d) 0) s = .next t ∧ OnlyPort s t k ∧ (t.port k).delayQ = d ∧
      (d ≤ 1760 → (t.port k).state = .align) ∧ (1760 < d → (t.port k).state = .failed ∧ (t.port k).last = 0x0704)) ∧
  (∀ (s : State) (k n st : Nat), (s.port k).state.limit = some (n, st) → (s.port k).entered + n < s.tick.count → s.tick.count < 2 ^ 64 →
    s.boot.state = .ready →
    ∃ t, exec (.linkStageTimeout k) s = .next t ∧ OnlyPort s t k ∧ (t.port k).state = .failed ∧ (t.port k).last = st)) ∧
  ((∀ (s : State) (k x phi : Nat), (s.port k).state = .align → s.boot.state = .ready → s.tick.aligned = true → (s.port k).sent = true →
    s.tick.count < 2 ^ 64 → ((x : Int) + alignOffset (s.port k).delayQ phi) = s.tick.count →
    ∃ t, exec (.align (.good k) x true phi) s = .next t ∧ OnlyPort s t k ∧
      t.port k = { s.port k with state := .verify, entered := s.tick.count, offset := some (alignOffset (s.port k).delayQ phi) }) ∧
  (∀ (s : State) (k x phi : Nat), (s.port k).state = .align → s.boot.state = .ready → s.tick.aligned = true →
    s.tick.count < 2 ^ 64 → 0 ≤ (x : Int) + alignOffset (s.port k).delayQ phi → (x : Int) + alignOffset (s.port k).delayQ phi < 2 ^ 64 →
    ((x : Int) + alignOffset (s.port k).delayQ phi) ≠ s.tick.count →
    ∃ t, exec (.align (.good k) x true phi) s = .next t ∧ OnlyPort s t k ∧ (t.port k).state = .failed ∧ (t.port k).last = 0x0606) ∧
  (∀ (s : State) (k x phi : Nat), (s.port k).state = .align → s.boot.state = .ready → s.tick.aligned = false → s.tick.alignLoad = none →
    s.links.root = false →
    ∃ t d, exec (.align (.good k) x true phi) s = .next t ∧ (t.port k).state = .align ∧
      (t.port k).offset = some (alignOffset (s.port k).delayQ phi) ∧ t.tick = { s.tick with alignLoad := some (d, k, s.tick.count) }) ∧
  (∀ (s : State) (k x phi : Nat), (s.port k).state = .align → s.boot.state = .ready → s.tick.aligned = false → s.links.root = true →
    ∃ t, exec (.align (.good k) x true phi) s = .next t ∧ OnlyPort s t k ∧
      t.port k = { s.port k with offset := some (alignOffset (s.port k).delayQ phi) }) ∧
  (∀ (s : State) (k : Nat) (r : VerifyResult), (s.port k).state = .verify → (s.port k).entered + 262144 ≤ s.tick.count →
    s.tick.count < 2 ^ 64 → s.boot.state = .ready → ∃ t, exec (.linkVerifyEnd k r) s = .next t ∧ OnlyPort s t k ∧ (t.port k).entered = s.tick.count ∧
      (t.port k).feCe = min ((s.port k).feCe + r.corrected) (2 ^ 32 - 1) ∧
      (r.uncorrectable = 0 → r.corrected * 1000000 < r.received → r.delayQ ≤ (s.port k).delayQ + 8 → (s.port k).delayQ ≤ r.delayQ + 8 →
        r.markersOk = true → (t.port k).state = if s.portSplit k then .fenced else .active) ∧
      (r.uncorrectable ≠ 0 ∨ r.received ≤ r.corrected * 1000000 ∨ r.markersOk = false ∨ (s.port k).delayQ + 8 < r.delayQ →
        (t.port k).state = .failed ∧ (t.port k).last = 0x0705)))

/-- Heads of messages (R7 to R9, R171): a control message, heartbeat or MC_ message whose FORMAT is not 0x1000, or with a reserved field or value,
is not acted on; a link-control or idle flit with such a head is discarded and counted at its port.

Curd flits (R170 to R174, R188, R190): a claimed slot of an Active port sends one flit in its Tick, with the halves its link routers were handed, else those given; a flit that is what the claim
expects is kept for delivery 7 Ticks after its own, any other is counted; in a claimed slot's delivery Tick the port delivers one item to its link router, a
void naming the peer where no flit is due, and never twice; an unclaimed slot delivers nothing; an idle flit changes nothing.

Whey flits, markers and port down (R169, R176, R177, R179, R184, R191): a good flit joins its channel's buffer, a bad one or one past 512 is counted; a
present marker with the right Tick leaves the port up; one that is missing or has a reserved value counts against it; a second marker in a row with a wrong Tick, or two Ticks
without a marker, puts it Down with PORT_DOWN raised and its landing emptied. The last are said for a port with no vat and no multicast standing, markers where no
packet waits for a link.

The by-pass and the link keys (R185, R383, R391, R500): BYPASS_OPEN of an Awake package sets the pairs moving, and each takes its position when it is reached, a closing pair putting its own two ports
Down; LINK_COMMIT applies at once where every port is dark and else at the switch Tick, when each Active or Fenced port uses the new phase; a verify round that
authenticates ends, one that fails is counted and puts the port Down.

It rests on choices of the model: log entries 29, 64. -/
def Obligations.FlitsAndMarkersArrive : Prop :=
  ((∀ (s : State) (x : Headed) (a b d e f : Nat) (l : List Nat) (r : Bool) (w : HaltFor), x.ok = false → ∀ c ∈ [Instr.memberDown x a b, .halt x a w,
    .resume x a b l, .memberReady x a b, .boundaryReport x a, .takeover x a, .coreRetired x a b, .pageAck x a b d, .heartbeat x r a b d,
    .gearArm x a b, .gearAck x a b, .gearReq x a, .restReq x a b, .mcReserve x a b d e f, .mcGrant x a b, .mcAck x a, .mcCommit x a,
    .mcCancel x a b], exec c s = .next s) ∧
  (∀ (s : State) (x : Headed) (a b d e f : Nat) (r : Bool), x.ok = false → ∀ c ∈ [Instr.peerId x a b d e f, .echoReq x a b, .echoResp x a b d,
    .align x a r b, .idleFlitReceive x], ∃ t, exec c s = .next t ∧ OnlyPort s t x.val ∧
      t.port x.val = { s.port x.val with discards := min ((s.port x.val).discards + 1) (2 ^ 32 - 1) }) ∧
  (∀ (s : State) (x : PageCmdMsg) (y : OfferMsg) (l : List TagClaim), x.hdr.ok = false → y.hdr.ok = false →
    exec (.pageCmd x l) s = .next s ∧ exec (.offer y) s = .next s)) ∧
  ((∀ (s : State) (k slot vat : Nat) (h0 h1 : Slot) (x : LinkEnt), (s.port k).state = .active →
    s.claimAt k 0 slot s.tick.count = some (vat, x) → ((s.vat? vat).bind (·.step)).isSome = true →
    (s.tick.count, slot) ∉ (s.port k).sentSlots → vat ∉ (s.port k).stale →
    ∃ t m, exec (.linkSlotTransmit k slot h0 h1) s = .next t ∧ t.out = s.out ++ [m] ∧ m.dest = k ∧ m.kind = "FLIT" ∧
      m.body = fitBytes 128 (((mapGet [] (s.port k).txq (txKey slot 0)).head?).getD h0).data ++
        fitBytes 128 (((mapGet [] (s.port k).txq (txKey slot 1)).head?).getD h1).data ∧
      (t.port k).sentSlots = (s.port k).sentSlots ++ [(s.tick.count, slot)] ∧ (t.port k).used = (s.port k).used + 1 ∧
      (∀ h < 2, mapGet [] (t.port k).txq (txKey slot h) = (mapGet [] (s.port k).txq (txKey slot h)).drop 1) ∧
      t = { s with out := t.out, links := { s.links with ports := t.links.ports } }) ∧
  (∀ (s : State) (k slot : Nat) (fl : Flit), (s.port k).state = .active → fl.bad = false →
    fl.format ≠ 0x1000 ∨ fl.arg ≠ slot →
    ∃ t, exec (.curdFlitReceive k slot fl) s = .next t ∧ OnlyPort s t k ∧
      t.port k = { s.port k with discards := min ((s.port k).discards + 1) (2 ^ 32 - 1) }) ∧
  (∀ (s : State) (k slot vat : Nat) (fl : Flit) (x : LinkEnt), (s.port k).state = .active → fl.bad = false → fl.format = 0x1000 → fl.kind = 1 →
    fl.cls = 0 → fl.srcNode < 10240 → fl.sub < 4 → fl.dst = 0 → fl.session < 8 → fl.arg = slot → fl.txTick = s.rxTick k % 65536 →
    s.claimAt k 1 slot (s.rxTick k) = some (vat, x) → x.flow = fl.flow → (s.port k).session vat = some fl.session → (s.port k).landing = [] →
    ∃ t, exec (.curdFlitReceive k slot fl) s = .next t ∧ OnlyPort s t k ∧
      t.port k = { s.port k with landing := [(s.rxTick k + 7, slot, fl)] }) ∧
  (∀ (s : State) (k slot vat : Nat) (x : LinkEnt), 7 ≤ s.tick.count → (s.tick.count, slot) ∉ (s.port k).doneSlots →
    s.claimAt k 1 slot (s.tick.count - 7) = some (vat, x) → (s.port k).landing = [] → s.newDown vat (s.port k).peer = false →
    ∃ t, exec (.curdFlitDeliver k slot) s = .next t ∧ (s.tick.count, slot) ∈ (t.port k).doneSlots ∧
      (t.port k).voidIns = min ((s.port k).voidIns + 1) (2 ^ 32 - 1) ∧
      (∀ h < 2, (mapGet [] (t.router (linkRouter k slot)).landing h).getLast? =
        some ⟨leBytes 2 (s.port k).peer ++ zeros 126, true⟩) ∧
      t = { s with routers := t.routers, links := { s.links with ports := t.links.ports } }) ∧
  (∀ (s : State) (k slot vat : Nat) (x : LinkEnt) (fl : Flit), 7 ≤ s.tick.count → (s.tick.count, slot) ∉ (s.port k).doneSlots →
    s.claimAt k 1 slot (s.tick.count - 7) = some (vat, x) → (s.port k).state = .active → (s.port k).landing = [(s.tick.count, slot, fl)] →
    vat ∉ (s.port k).stale →
    fl.sub = 0 → ∃ t, exec (.curdFlitDeliver k slot) s = .next t ∧ (s.tick.count, slot) ∈ (t.port k).doneSlots ∧ (t.port k).landing = [] ∧
      (mapGet [] (t.router (linkRouter k slot)).landing 0).getLast? = some ⟨fitBytes 128 (fl.payload.take 128), false⟩ ∧
      (mapGet [] (t.router (linkRouter k slot)).landing 1).getLast? = some ⟨fitBytes 128 (fl.payload.drop 128), false⟩ ∧
      t = { s with routers := t.routers, links := { s.links with ports := t.links.ports } }) ∧
  (∀ (s : State) (k slot : Nat), s.claimAt k 1 slot (s.tick.count - 7) = none ∨ (s.tick.count, slot) ∈ (s.port k).doneSlots →
    exec (.curdFlitDeliver k slot) s = .next s) ∧
  (∀ (s : State) (k : Nat), exec (.idleFlitReceive (.good k)) s = .next s)) ∧
  ((∀ (s : State) (k vc : Nat) (fl : Flit), (s.port k).state = .active → k % 4 ≠ 3 → vc ≤ 1 → wheyFlitOk fl = true →
    fl.bad = false → (s.port k).buffered vc < 512 → ∃ t, exec (.wheyFlitReceive k vc fl) s = .next t ∧ OnlyPort s t k ∧
      mapGet [] (t.port k).whey vc = mapGet [] (s.port k).whey vc ++ [fl] ∧ (t.port k).discards = (s.port k).discards) ∧
  (∀ (s : State) (k vc : Nat) (fl : Flit), (s.port k).state = .active → fl.bad = false →
    k % 4 = 3 ∨ 1 < vc ∨ wheyFlitOk fl = false ∨ 512 ≤ (s.port k).buffered vc →
    ∃ t, exec (.wheyFlitReceive k vc fl) s = .next t ∧ OnlyPort s t k ∧
      t.port k = { s.port k with discards := min ((s.port k).discards + 1) (2 ^ 32 - 1) }) ∧
  (∀ (s : State) (k : Nat) (m : Marker), (s.port k).state = .active → m.present = true → m.hdr = MsgHdr.good →
    m.tickLow = s.rxTick k % 2 ^ 32 → (∀ c < 17, s.heldIn c = []) → (s.port k).whey = [] → (s.port k).landing = [] → ∃ t, exec (.tickMarker k m) s = .next t ∧ OnlyPort s t k ∧
      (t.port k).state = .active ∧ (t.port k).badTicks = 0 ∧ (t.port k).lost = 0 ∧ (t.port k).voidFrom = none ∧
      mapGet 0 (t.port k).credits 2 = mapGet 0 (s.port k).credits 2 + m.creditVc0 ∧
      mapGet 0 (t.port k).credits 3 = mapGet 0 (s.port k).credits 3 + m.creditVc1) ∧
  (∀ (s : State) (k : Nat) (m : Marker), (s.port k).state = .active → m.present = true → m.hdr = MsgHdr.good →
    m.tickLow ≠ s.rxTick k % 2 ^ 32 → (∀ c < 17, s.heldIn c = []) →
    (s.port k).lost = 1 → (s.port k).whey = [] → (s.port k).landing = [] → (s.port k).vats = [] → s.links.mcOut = [] →
    ∃ t, exec (.tickMarker k m) s = .next t ∧ (t.port k).state = .down ∧ (t.port k).last = 0x0606 ∧
      ∃ e ∈ t.events, e.what = "PORT_DOWN" ∧ e.tick = s.tick.count) ∧
  (∀ (s : State) (k : Nat) (m : Marker), (s.port k).state = .active → m.present = false ∨ m.hdr.ok = false →
    ∃ t, exec (.tickMarker k m) s = .next t ∧
    OnlyPort s t k ∧ (t.port k).badTicks = (s.port k).badTicks + 1 ∧ (t.port k).state = .active) ∧
  (∀ (s : State) (k : Nat) (lock : Bool), (s.port k).state = .active ∨ (s.port k).state = .fenced → lock = true ∨ 2 ≤ (s.port k).badTicks →
    (s.port k).vats = [] → s.links.mcOut = [] → ∃ t, exec (.portDown k lock) s = .next t ∧
      t.port k = { s.port k with
        state := .down, entered := s.tick.count, landing := [], whey := [], held := [], txq := [], badTicks := 0, lost := 0 } ∧
      (∃ e ∈ t.events, e.what = "PORT_DOWN" ∧ e.tick = s.tick.count) ∧ (∀ j, j ≠ k → t.port j = s.port j) ∧ t.vats = s.vats ∧
      t.cores = s.cores)) ∧
  ((∀ (s : State) (value p : Nat), HostServed s → s.power.cellar = .awake → s.pins.vbyp = true → s.links.moving = [] → p < 4 →
    ∃ t, exec (.bypassOpen value) s = .next t ∧ t.links.open' = value % 16 ∧ t.links.pairs = s.links.pairs ∧
      mapFind t.links.moving p = (if value / 2 ^ p % 2 = s.links.pairs / 2 ^ p % 2 then none else some (decide (value / 2 ^ p % 2 = 1))) ∧
      t = { s with links := t.links }) ∧
  (∀ (s : State) (p : Nat), mapFind s.links.moving p = some true → s.links.pairs / 2 ^ p % 2 = 0 →
    ∃ t, exec (.bypassSwitchDone p) s = .next t ∧ t.links.pairs = s.links.pairs + 2 ^ p ∧ mapFind t.links.moving p = none ∧
      t = { s with links := t.links }) ∧
  (∀ (s : State) (p : Nat), mapFind s.links.moving p = some false → p < 4 → s.links.pairs / 2 ^ p % 2 = 1 → (s.port p).state = .active →
    (s.port p).vats = [] → (s.port (p + 4)).state = .off → s.links.mcOut = [] → ∃ t, exec (.bypassSwitchDone p) s = .next t ∧
      t.links.pairs + 2 ^ p = s.links.pairs ∧ (t.port p).state = .down ∧ (t.port (p + 4)).state = .off) ∧
  (∀ (s : State) (value : Nat), HostServed s → value % 2 = 1 → (∀ k < 8, (s.port k).state ∈ [.off, .down, .failed]) →
    exec (.linkCommit value) s = .next { s with keys := { s.keys with epoch := s.keys.epochNext, pendSwitch := none } }) ∧
  (∀ (s : State) (value k : Nat), HostServed s → value % 2 = 1 → k < 8 → (s.port k).state = .active →
    exec (.linkCommit value) s = .next { s with keys := { s.keys with pendSwitch := some (s.keys.epochNext, s.keys.switchNext) } }) ∧
  (∀ (s : State) (e x k : Nat) (p : Port), s.keys.pendSwitch = some (e, x) → x ≤ s.tick.count → mapFind s.links.ports k = some p →
    p.state = .active → ∃ t, exec .linkKeySwitch s = .next t ∧ t.keys = { s.keys with epoch := e, pendSwitch := none } ∧
      mapFind t.links.ports k = some { p with txPhase := 1 - p.txPhase, verifying := 0 :: p.vats.map (·.2) } ∧
      t = { s with keys := t.keys, links := { s.links with ports := t.links.ports } }) ∧
  (∀ (s : State) (k n : Nat), n ∈ (s.port k).verifying → ∃ t, exec (.linkKeyVerifyRound k n true) s = .next t ∧ OnlyPort s t k ∧
    t.port k = { s.port k with verifying := (s.port k).verifying.filter (· ≠ n) }) ∧
  (∀ (s : State) (k n : Nat), n ∈ (s.port k).verifying → (s.port k).vats = [] → s.links.mcOut = [] →
    ∃ t, exec (.linkKeyVerifyRound k n false) s = .next t ∧ (t.port k).state = .down ∧
      t.keys.verifyFail = min (s.keys.verifyFail + 1) (2 ^ 32 - 1)))

/-- Losing a member and retiring a core (R192, R275, R277, R283, R410): at the time master MEMBER_DOWN is recorded and raised; with a usable
spare an automatic remould begins that moves the lost logical package to it, without one the vat halts and stays Halted; a first retired core of
a cluster begins a remould that spares it. In each case HALT goes out. Said for a Running vat with no remould standing, the message's port in service.

HALT and RESUME (R277, R283, R287, R290): a member halts at B, at once where B has come and no step runs, and is Remoulding, or Halted where it is
to stop alone (log entry 134); the last MEMBER_READY of the pause sends RESUME(R) with R a multiple of REFRESH_PERIOD at least 64 Ticks away; RESUME sets the next start to R with nothing frozen; a pause
longer than RECOVERY_LIMIT abandons the remould and the vat stays Halted.

Staging, the deputy and reports (R277, R278, R286): a package whose staging or pause load succeeds answers MEMBER_READY of its phase to the time master, a standby keeping the weights it pulled (R280), in the pause once no page-out is under way and the ports it needs are Active;
a failing one abandons the remould where it is the time master; the deputy records each report, takes over after 8,192 Ticks without one, and
every member then takes its sender as time master.

It rests on choices of the model: log entries 18, 19, 66, 69. -/
def Obligations.VatsLoseMembersAndHalt : Prop :=
  ((∀ (s : State) (vat node reporter l : Nat) (u : Vat), s.vat? vat = some u → u.desc.vatId = vat → s.newDown vat node = true →
    u.state = .running → (s.role vat).remould = none → (s.role vat).staged = none → s.lpkgAt u node = some l → u.desc.spares = [] →
    u.moves = [] → (∀ m ∈ s.links.mcOut, m.targets.contains node = false) → s.wheyBlocked (s.lpkgNode u u.headLpkg) 7 = false →
    ∃ t, exec (.memberDown (.good vat) node reporter) s = .next t ∧ (t.role vat).downs = (s.role vat).downs ++ [(node, reporter, s.tick.count)] ∧
      (t.role vat).lost = (s.role vat).lost ++ [l] ∧ (t.role vat).remould = none ∧
      (∃ m, t.out = s.out ++ [m] ∧ m.kind = "CONTROL" ∧ m.args = [0x02, vat]) ∧
      (∃ e ∈ t.events, e.what = "VAT_NO_SPARE" ∧ e.arg = 0x0721) ∧ t.cores = s.cores ∧ t.tick = s.tick) ∧
  (∀ (s : State) (vat node reporter l k : Nat) (u : Vat), s.vat? vat = some u → u.desc.vatId = vat → s.newDown vat node = true →
    u.state = .running → (s.role vat).remould = none → s.lpkgAt u node = some l →
    (s.onRole vat fun r => { r with downs := r.downs ++ [(node, reporter, s.tick.count)] }).spareFor u l = some k →
    (∀ m ∈ s.links.mcOut, m.targets.contains node = false) → s.wheyBlocked (s.lpkgNode u u.headLpkg) 7 = false → ∃ t m, exec (.memberDown (.good vat) node reporter) s = .next t ∧ (t.role vat).remould = some m ∧ m.kinds = [.move k] ∧ m.auto = true ∧
      m.phase = 1 ∧ m.halt = some (s.nextBoundary u) ∧ (t.role vat).lost = (s.role vat).lost ++ [l] ∧
      (∃ m, t.out = s.out ++ [m] ∧ m.kind = "CONTROL" ∧ m.args = [0x02, vat]) ∧ t.cores = s.cores ∧ t.tick = s.tick) ∧
  (∀ (s : State) (vat l core : Nat) (u : Vat), s.vat? vat = some u → u.desc.vatId = vat → u.role = .member → u.lpkg = u.masterLpkg →
    l ≠ u.lpkg → coreOk core = true → (s.role vat).retired = [] → (s.role vat).remould = none →
    s.wheyBlocked (s.lpkgNode u u.headLpkg) 7 = false → ∃ t m, exec (.coreRetired (.good vat) l core) s = .next t ∧ (t.role vat).retired = [(l, core)] ∧ (t.role vat).remould = some m ∧
      m.kinds = [.spare l core] ∧ m.auto = true ∧ m.halt = some (s.nextBoundary u) ∧
      (∃ m, t.out = s.out ++ [m] ∧ m.kind = "CONTROL" ∧ m.args = [0x02, vat]) ∧ t.cores = s.cores)) ∧
  ((∀ (s : State) (vat b : Nat) (what : HaltFor) (u : Vat), s.vat? vat = some u → u.role = .member → u.lpkg ≠ u.masterLpkg → u.state = .running →
    u.step.isSome = true ∨ s.tick.count < b → (s.role vat).haltAt = none →
    ∃ t, exec (.halt (.good vat) b what) s = .next t ∧ t.role vat = { s.role vat with
      haltAt := some b, haltTo := (s.role vat).haltTo || decide (what ≠ .stop),
      moveFor := match what with
        | .move k => if k = 0xFFFF then none else some k
        | _ => none } ∧
      t = { s with roles := t.roles }) ∧
  (∀ (s : State) (vat b : Nat) (what : HaltFor) (u : Vat), s.vat? vat = some u → u.role = .member → u.lpkg ≠ u.masterLpkg → u.state = .running →
    u.step = none → b ≤ s.tick.count → (s.role vat).haltAt = none → (s.role vat).haltCmds = [] → (s.role vat).unbound = false →
    u.sessions = [] → ∃ t u', exec (.halt (.good vat) b what) s = .next t ∧ t.vat? vat = some u' ∧
      u'.state = (if (s.role vat).haltTo = false ∧ what = .stop then .halted else .remoulding) ∧ u'.frozen = none ∧ u'.step = none ∧
      (t.role vat).haltAt = none ∧ (t.role vat).haltFrom = s.tick.count ∧ t.cores = s.cores ∧ t.tick = s.tick) ∧
  (∀ (s : State) (vat l : Nat) (u : Vat) (m : Mould) (q : Remould), s.vat? vat = some u → u.desc.vatId = vat → u.mould = some m →
    u.role = .member → u.lpkg = u.masterLpkg → (s.role vat).remould = some q → l ∈ q.affected → q.resume = none → 1 ≤ q.phase →
    (∀ a ∈ s.awaited u m q, (s.awaited u m q).count a ≤ (q.ready ++ [l]).count a) →
    (∀ n, s.wheyBlocked n 7 = false) → ∃ t q' x, exec (.memberReady (.good vat) l 1) s = .next t ∧ (t.role vat).remould = some q' ∧ q'.resume = some x ∧
      s.tick.count + 64 ≤ x ∧ x % max 1 (mRefreshPeriod m) = 0 ∧ q'.kinds = q.kinds ∧
      (∀ o ∈ t.out.drop s.out.length, o.kind = "CONTROL" ∧ o.args = [0x03, vat]) ∧ t = { s with out := t.out, roles := t.roles }) ∧
  (∀ (s : State) (vat x seq : Nat) (u : Vat) (m : Mould), s.vat? vat = some u → u.desc.vatId = vat → u.mould = some m → u.role = .member →
    u.state = .remoulding → 1 ≤ u.comp → seq ≤ u.comp + 1 → (s.role vat).remould = none → (s.role vat).staged = none →
    s.newSpares u.place [] = u.place.spares → u.sessions = [] → u.moves = [] →
    ∃ t, exec (.resume (.good vat) x seq []) s = .next t ∧ t.vat? vat = some { u with boundary := x, frozen := none } ∧
      (t.role vat).started = some x ∧ (t.role vat).haltAt = none ∧ (t.role vat).credit = 0 ∧
      (∀ k, t.port k = { s.port k with stale := (s.port k).stale.filter (· ≠ vat) }) ∧
      t = { s with vats := t.vats, roles := t.roles, links := { s.links with ports := t.links.ports } }) ∧
  (∀ (s : State) (vat : Nat) (u : Vat), s.vat? vat = some u → u.role = .member → u.state = .remoulding → (s.role vat).started = none →
    (s.role vat).haltFrom + u.desc.limit < s.tick.count → (∀ m, (s.role vat).remould = some m → m.resume = none) →
    u.moves = [] →
    ∃ t u', exec (.recoveryTimeout vat) s = .next t ∧ t.vat? vat = some u' ∧ u'.state = .halted ∧ (t.role vat).remould = none ∧
      t.cores = s.cores ∧ t.tick = s.tick)) ∧
  ((∀ (s : State) (vat : Nat) (e : StageEnd) (u : Vat) (m : Mould), s.vat? vat = some u → u.desc.vatId = vat → u.mould = some m → u.delta = none →
    u.state = .running ∨ u.state = .halted → u.role = .member → (s.role vat).staged = none → e.status = 0 →
    (mMove m e.move).1 ≠ u.lpkg ∨ mMoveCount m < e.move → s.wheyBlocked (s.lpkgNode u u.masterLpkg) 7 = false →
    ∃ t o, exec (.remouldStageDone vat e) s = .next t ∧ t.out = s.out ++ [o] ∧ o.kind = "CONTROL" ∧ o.args = [0x04, vat] ∧
      o.dest = s.lpkgNode u u.masterLpkg ∧ t = { s with out := t.out }) ∧
  (∀ (s : State) (vat : Nat) (e : StageEnd) (u : Vat) (m : Mould), s.vat? vat = some u → u.desc.vatId = vat → u.mould = some m → u.delta = none →
    u.state = .standby → u.role = .standby → u.moves.contains e.move = true → (s.role vat).staged = none → e.status = 0 →
    s.wheyBlocked (s.lpkgNode u u.masterLpkg) 7 = false →
    ∃ t o, exec (.remouldStageDone vat e) s = .next t ∧ t.role vat = { s.role vat with pulled := some e.weights } ∧
      t.out = s.out ++ [o] ∧ o.args = [0x04, vat] ∧ o.dest = s.lpkgNode u u.masterLpkg ∧ t = { s with roles := t.roles, out := t.out }) ∧
  (∀ (s : State) (vat : Nat) (e : StageEnd) (u : Vat) (m : Mould) (q : Remould), s.vat? vat = some u → u.mould = some m → u.delta = none →
    u.state = .running → (s.role vat).staged = none → e.status ≠ 0 → u.role = .member → u.lpkg = u.masterLpkg →
    u.moves = [] → (s.role vat).remould = some q → ∃ t, exec (.remouldStageDone vat e) s = .next t ∧ (t.role vat).remould = none ∧
      (∃ v ∈ t.events, v.what = "REMOULD_ABANDONED" ∧ v.arg = e.status) ∧ t.vat? vat = some u) ∧
  (∀ (s : State) (vat : Nat) (u : Vat), s.vat? vat = some u → u.desc.vatId = vat → u.state = .remoulding → (s.role vat).started = none →
    s.pauseReady u = true → s.wheyBlocked (s.lpkgNode u u.masterLpkg) 7 = false → ∃ t o, exec (.pauseLoadDone vat 0) s = .next t ∧ t.out = s.out ++ [o] ∧
      o.kind = "CONTROL" ∧ o.args = [0x04, vat] ∧ o.dest = s.lpkgNode u u.masterLpkg ∧ t = { s with out := t.out }) ∧
  (∀ (s : State) (vat : Nat) (u : Vat), s.vat? vat = some u → u.state = .remoulding → (s.role vat).started = none →
    s.pauseReady u = false → ∃ t, exec (.pauseLoadDone vat 0) s = .next t ∧ t.role vat = { s.role vat with waitPage := true } ∧
      t = { s with roles := t.roles }) ∧
  (∀ (s : State) (vat x : Nat) (u : Vat), s.vat? vat = some u → u.role = .member → u.lpkg = u.desc.deputy → u.desc.deputy ≠ u.masterLpkg →
    ∃ t, exec (.boundaryReport (.good vat) x) s = .next t ∧ t.role vat = { s.role vat with reported := s.tick.count } ∧
      t = { s with roles := t.roles }) ∧
  (∀ (s : State) (vat : Nat) (u : Vat), s.vat? vat = some u → u.desc.vatId = vat → u.role = .member → u.lpkg = u.masterLpkg →
    u.desc.tm ≠ u.desc.deputy → u.state ≠ .defined → u.state ≠ .reserved → u.state ≠ .washing → s.tick.lock = .locked → s.tick.aligned = true → (s.role vat).lastSent + 4096 ≤ s.tick.count →
    s.wheyBlocked (s.lpkgNode u u.desc.deputy) 7 = false →
    ∃ t o, exec (.boundaryReportTimer vat) s = .next t ∧ (t.role vat).lastSent = s.tick.count ∧ t.out = s.out ++ [o] ∧
      o.args = [0x05, vat] ∧ o.dest = s.lpkgNode u u.desc.deputy ∧ t = { s with out := t.out, roles := t.roles }) ∧
  (∀ (s : State) (vat : Nat) (u : Vat), s.vat? vat = some u → u.desc.vatId = vat → u.role = .member → u.lpkg = u.desc.deputy →
    u.desc.deputy ≠ u.masterLpkg → u.acting = none → (s.role vat).reported + 8192 ≤ s.tick.count → u.state = .running →
    (s.role vat).remould = none → u.desc.spares = [] → u.moves = [] →
    ∃ t u', exec (.deputyTakeover vat) s = .next t ∧ t.vat? vat = some u' ∧ u'.acting = some u.lpkg ∧ u'.state = .running ∧
      (∃ e ∈ t.events, e.what = "TAKEOVER" ∧ e.arg = u.desc.tm) ∧ t.cores = s.cores) ∧
  (∀ (s : State) (vat : Nat) (u : Vat), s.vat? vat = some u → u.role = .member → (s.role vat).sentDown = [] →
    ∃ t, exec (.takeover (.good vat) u.desc.deputy) s = .next t ∧ t.vat? vat = some { u with acting := some u.desc.deputy } ∧
      t = { s with vats := t.vats }))

/-- Offers (R252, R289): a Ready resident session of the home that lacks nothing is offered once, at its ELIGIBLE_TICK, to the head; the
head keeps the newest offer of a session and drops it on a withdrawal. Said of messages that a port takes and of heads a CX1 sends.

Paging at the home (R244, R245, R246): a Ready session that lacks blocks is given its residency slot and blocks and
every member's answer to its page command is awaited, or is counted starved once where its blocks cannot all be had, and waits where only a
residency slot lacks; where a session lacks room, the Idle resident session stepped longest
ago is evicted, at once where none of its rows is dirty.

Page commands at a member and answers at the home (R245, R246, R247, R289): the blocks of a page-in are entered in the residency table and those to be
zeroed are zeroed, their bursts asked for; the member answers at once where none waits; once its bursts are granted a share moves between its
block and its cave slot; the last good answer makes every block valid, a failing one
orphans the session with its status, its HBM blocks freed where a transfer failed and kept where no claim was found.

It rests on choices of the model: log entries 67, 111. -/
def Obligations.SessionsArePaged : Prop :=
  ((∀ (s : State) (vat i : Nat) (u : Vat), s.vat? vat = some u → u.desc.vatId = vat → s.eligible u i = true → (u.wk i).offered = none →
    s.wheyBlocked (s.lpkgNode u u.headLpkg) 7 = false → ∃ t u' o, exec (.sessionEligible vat i) s = .next t ∧ t.vat? vat = some u' ∧
      u'.sess i = { u.sess i with eligible := s.tick.count } ∧ (u'.wk i).offered = some (s.need u (u.sess i)) ∧
      (∀ j, j ≠ i → u'.sess j = u.sess j ∧ u'.wk j = u.wk j) ∧ t.out = s.out ++ [o] ∧ o.kind = "CONTROL" ∧ o.args = [0x0C, vat] ∧
      o.dest = s.lpkgNode u u.headLpkg ∧ t = { s with vats := t.vats, out := t.out }) ∧
  (∀ (s : State) (m : OfferMsg) (u : Vat), s.vat? m.vat = some u → u.role = .member → u.lpkg = u.headLpkg → m.hdr.ok = true → m.withdraw = false →
    ∃ t, exec (.offer m) s = .next t ∧ t.vat? m.vat = some { u with
      offers := u.offers.filter (fun o => decide (o.session ≠ m.session)) ++
        [⟨m.session, m.count, m.stepKind, m.partition, m.eligibleTick, m.ctx⟩] } ∧ t = { s with vats := t.vats }) ∧
  (∀ (s : State) (m : OfferMsg) (u : Vat), s.vat? m.vat = some u → u.role = .member → u.lpkg = u.headLpkg → m.hdr.ok = true → m.withdraw = true →
    ∃ t, exec (.offer m) s = .next t ∧ t.vat? m.vat = some { u with
      offers := u.offers.filter (fun o => decide (o.session ≠ m.session)) } ∧ t = { s with vats := t.vats })) ∧
  ((∀ (s : State) (vat i : Nat) (u : Vat) (r : Session), s.vat? vat = some u → s.needsPaging u i = true → (u.wk i).copies = [] →
    (u.wk i).offered = none → s.allocate u i = some r → ∃ t u', exec (.sessionPageIn vat i) s = .next t ∧ t.vat? vat = some u' ∧
      u'.sess i = r ∧ (u'.wk i).paging = some (0, List.range u.packages) ∧ (u'.wk i).starved = false ∧
      (u'.wk i).pageFrom = some s.tick.count ∧ (∀ j, j ≠ i → u'.sess j = u.sess j) ∧ t = { s with vats := t.vats, out := t.out }) ∧
  (∀ (s : State) (vat i : Nat) (u : Vat), s.vat? vat = some u → s.needsPaging u i = true → (u.wk i).copies = [] → (u.wk i).starved = false →
    s.allocate u i = none → s.lacksBlocks u i = true → ∃ t u', exec (.sessionPageIn vat i) s = .next t ∧ t.vat? vat = some u' ∧ (u'.wk i).starved = true ∧
      u'.sessions = u.sessions ∧ (t.role vat).starved = (s.role vat).starved + 1 ∧ t = { s with vats := t.vats, roles := t.roles }) ∧
  (∀ (s : State) (vat i : Nat) (u : Vat), s.vat? vat = some u → s.needsPaging u i = true → (u.wk i).copies = [] →
    s.allocate u i = none → s.lacksBlocks u i = false → exec (.sessionPageIn vat i) s = .next s) ∧
  (∀ (s : State) (vat i : Nat) (u : Vat), s.vat? vat = some u → s.lacksRoom u = true → u.evictFirst = some i →
    (u.sess i).blocks.all (fun b => !b.dirty) = true → ∃ t u', exec (.sessionEviction vat) s = .next t ∧ t.vat? vat = some u' ∧
      u'.sess i = { u.sess i with blocks := (u.sess i).blocks.map (fun b => ⟨none, b.cave, false, none⟩), resSlot := 0xFFFF } ∧
      (∀ j, j ≠ i → u'.sess j = u.sess j) ∧ t = { s with vats := t.vats })) ∧
  ((∀ (s : State) (m : PageCmdMsg) (u : Vat) (e : PageEntry), s.vat? m.vat = some u → u.desc.vatId = m.vat → u.role = .member → m.hdr.ok = true → m.arg = 0 →
    m.last = true → m.entries = [e] → e.ordinal = 0 → e.copy = false → e.zero = false → (s.role m.vat).pageJobs = [] →
    s.pageWaits m.vat m.session = false → s.wheyBlocked (s.lpkgNode u (m.session / 2 ^ 18)) 7 = false →
    ∃ t u' o, exec (.pageCmd m []) s = .next t ∧ t.vat? m.vat = some u' ∧
      mapGet [] u'.resTable m.resSlot = [e.hbmBlock] ∧ (t.role m.vat).pageJobs = [] ∧ t.out = s.out ++ [o] ∧
      o.args = [0x0E, m.vat] ∧ o.dest = s.lpkgNode u (m.session / 2 ^ 18) ∧
      t = { s with vats := t.vats, roles := t.roles, qos := t.qos, out := t.out }) ∧
  (∀ (s : State) (m : PageCmdMsg) (u : Vat) (e : PageEntry), s.vat? m.vat = some u → u.role = .member → m.hdr.ok = true → m.arg = 0 →
    m.entries = [e] → e.ordinal = 0 → e.copy = false → e.zero = true → (s.role m.vat).pageJobs = [] →
    (s.pullAsk true (s.blockPieces u e.hbmBlock 0 65536) (.keep m.vat m.session)).pageWaits m.vat m.session = true →
    ∃ t u', exec (.pageCmd m []) s = .next t ∧ t.vat? m.vat = some u' ∧ mapGet [] u'.resTable m.resSlot = [e.hbmBlock] ∧
      (t.role m.vat).pageJobs = [⟨m.session, m.resSlot, 0, [e], m.last, 0⟩] ∧
      t.mem = (s.writePieces (s.blockPieces u e.hbmBlock 0 65536) (zeros 65536)).mem ∧
      t.qos = (s.pullAsk true (s.blockPieces u e.hbmBlock 0 65536) (.keep m.vat m.session)).qos ∧
      t = { s with vats := t.vats, roles := t.roles, mem := t.mem, qos := t.qos }) ∧
  (∀ (s : State) (vat session : Nat) (u : Vat) (j : PageJob) (e : PageEntry), s.vat? vat = some u → u.desc.vatId = vat →
    s.power.cellar = .awake → (s.role vat).pageJobs = [j] → j.session = session → j.arg = 0 → j.status = 0 → j.entries = [e] →
    j.last = false → e.copy = true → s.qos.leftOf (fun w => decide (w = .page vat session e.ordinal)) = 0 →
    s.transferStatus u e false .clean = 0 →
    ∃ t, exec (.kvPageTransfer vat session e.ordinal false .clean) s = .next t ∧
      (t.role vat).pageJobs = [{ j with entries := [{ e with copy := false }] }] ∧
      t.mem = (s.writePieces (s.blockPieces u e.hbmBlock 0 65536) (s.readPieces (s.cavePieces u e.caveSlot))).mem ∧
      (session / 2 ^ 18 ≠ u.lpkg → t.power = s.power) ∧
      (session / 2 ^ 18 = u.lpkg → t.power = (s.pieceActivity (u.sess (session % 2 ^ 18)).ctx
        (s.blockPieces u e.hbmBlock 0 65536 ++ s.cavePieces u e.caveSlot)).power) ∧
      t = { s with roles := t.roles, mem := t.mem, power := t.power }) ∧
  (∀ (s : State) (vat l i : Nat) (u : Vat), s.vat? vat = some u → u.role = .member → i < 2 ^ 18 → (u.wk i).paging = some (0, [l]) →
    ∃ t u', exec (.pageAck (.good vat) (u.lpkg * 2 ^ 18 + i) l 0) s = .next t ∧ t.vat? vat = some u' ∧
      u'.sess i = { u.sess i with blocks := (u.sess i).blocks.map fun b => { b with hbm := b.block } } ∧
      (u'.wk i).paging = none ∧ (∀ j, j ≠ i → u'.sess j = u.sess j) ∧ t = { s with vats := t.vats }) ∧
  (∀ (s : State) (vat l i st n : Nat) (ls : List Nat) (u : Vat), s.vat? vat = some u → u.role = .member → i < 2 ^ 18 →
    (u.wk i).paging = some (n, ls) → l ∈ ls → st ≠ 0 → ∃ t u', exec (.pageAck (.good vat) (u.lpkg * 2 ^ 18 + i) l st) s = .next t ∧
      t.vat? vat = some u' ∧ (u'.sess i).state = .orphaned ∧ (u'.sess i).orphan = st ∧ (u'.sess i).resSlot = (u.sess i).resSlot ∧
      (u'.sess i).blocks = (if st = 0x0720 then (u.sess i).blocks else (u.sess i).blocks.map BlockEnt.freed) ∧ (u'.wk i).paging = none ∧ (∀ j, j ≠ i → u'.sess j = u.sess j) ∧ t.cores = s.cores ∧ t.tick = s.tick))

/-- Reads of the patrol scrubber and the end of a slice copy (R204, R206, R212, R213): a scrubbed granule moves the scrubber on and changes
no byte; an uncorrectable one is counted and recorded with 0x0560; a copy that ends has every granule of a bound region that no write has
marked on the spare and waits for the boundary, what standbys reserve moved at once, the copy over where only they held the slice; a failing one counts its error and halts the vat at its
next boundary with 0x0563 recorded.

Extents arrive, are zeroed and are lost (R217, R218, R219, R477): an Add of whole frames is entered as Offered in the lowest Free entry,
any other is rejected and counted; zeroing ends with plaintext zeros, the entry Free, the device told and the CAVE_RELEASE complete; a lost
extent completes that command with 0x0710 and orphans a session with rows nowhere else; one whose rows are in HBM loses only its cave slots.

Loss of a stack or of a CXL link (R395, R398, R399): the domain is fenced with cause 0x0730 at the Tick; objects with a frame on the stack
are Lost and the time masters told; every extent of the port is Lost, its devices are no longer known and the port is no longer Active.

It rests on choices of the model: log entries 11, 38, 60, 61, 63, 89. -/
def Obligations.MemoryDomainsComeAndGo : Prop :=
  ((∀ (s : State) (q ca : Nat), q < 16 → granuleOk ca = true → s.mem.hbmOut.contains q = false → s.fenced 5 q = false → 6 ≤ s.boot.stage →
    (s.stackRegs q).scrub + 1 ≠ 750000000 → ∃ t, exec (.patrolScrubRead q ca .clean) s = .next t ∧
      t.stackRegs q = { s.stackRegs q with scrub := (s.stackRegs q).scrub + 1 } ∧ t.mem.cells = s.mem.cells ∧
      t = { s with mem := t.mem, qos := t.qos }) ∧
  (∀ (s : State) (q ca : Nat), q < 16 → granuleOk ca = true → s.mem.hbmOut.contains q = false → s.fenced 5 q = false → 6 ≤ s.boot.stage →
    ∃ t, exec (.patrolScrubRead q ca .uncorrectable) s = .next t ∧ (t.stackRegs q).ue = sat32 (s.stackRegs q).ue 1 ∧
      (∃ e ∈ t.events, e.what = "HBM_UNCORRECTABLE" ∧ e.arg = 0x0560 ∧ e.tick = s.tick.count) ∧ t.mem.cells = s.mem.cells ∧
      t.cores = s.cores ∧ t.vats = s.vats ∧ t.tick = s.tick) ∧
  (∀ (s : State) (die : Nat) (c : SliceCopy), mapFind s.mem.copies die = some c → c.done = false →
    (s.vats.any fun v => v.2.place.slices.contains c.src) = true ∨ s.mem.retired = [] → Memory.wf s.mem.cells = true → ∃ t, exec (.sliceCopyEnd die ⟨[], none⟩) s = .next t ∧
      mapFind t.mem.copies die = (if (s.vats.any fun v => v.2.place.slices.contains c.src) = true then some { c with done := true } else none) ∧
      (∀ o, o < 2 ^ 24 → Memory.get t.mem.cells (sliceBase c.spare + o) =
        if (!c.bitmap.contains (o / 8) && s.vats.any fun v => v.2.sliceUsed c.src o) = true
        then Memory.get s.mem.cells (sliceBase c.src + o) else Memory.get s.mem.cells (sliceBase c.spare + o)) ∧
      (∀ (vat : Nat) (u : Vat), s.vat? vat = some u → ∃ u', t.vat? vat = some u' ∧ u'.place = u.place ∧
        u'.reserves = u.reserves.map fun r => (r.1, r.2.swap c.src c.spare)) ∧
      t = { s with mem := t.mem, vats := t.vats }) ∧
  (∀ (s : State) (die vat o : Nat) (c : SliceCopy) (u : Vat), mapFind s.mem.copies die = some c → c.done = false →
    c.src < 264 → o < 2 ^ 24 → s.sliceVats c.src = [vat] → s.vat? vat = some u → u.role ≠ .standby → u.step.isSome = true → s.mem.retired = [] →
    ∃ t, exec (.sliceCopyEnd die ⟨[], some o⟩) s = .next t ∧ (t.role vat).haltAt = some ((s.role vat).haltAt.getD s.tick.count) ∧
      (∃ e ∈ t.events, e.what = "SLICE_COPY_FAILED" ∧ e.arg = 0x0563) ∧
      mapGet 0 t.mem.sliceUe (c.src / 66) = sat32 (mapGet 0 s.mem.sliceUe (c.src / 66)) 1 ∧ t.vats = s.vats ∧
      t.cores = s.cores ∧ t.tick = s.tick)) ∧
  ((∀ (s : State) (p d off bytes e : Nat), p < 4 → d < 8 → (s.cxlPort p).state = 2 → (s.cxlDev (8 * p + d)).state = 2 →
    s.extentMeets ((8 * p + d) * 2 ^ 14 + off / 2 ^ 25) (bytes / 2 ^ 25) = false → addFits (s.cxlDev (8 * p + d)) off bytes = true →
    (freeEntries s.mem.extents).head? = some e → ∃ t, exec (.dcAddEvent p d off bytes) s = .next t ∧
      t.extent e = ⟨.offered, (8 * p + d) * 2 ^ 14 + off / 2 ^ 25, bytes / 2 ^ 25, p, d, .none⟩ ∧
      (∀ k, k ≠ e → t.extent k = s.extent k) ∧ t = { s with mem := t.mem }) ∧
  (∀ (s : State) (p d off bytes : Nat), p < 4 → d < 8 → (s.cxlPort p).state = 2 → (s.cxlDev (8 * p + d)).state = 2 →
    s.extentMeets ((8 * p + d) * 2 ^ 14 + off / 2 ^ 25) (bytes / 2 ^ 25) = false → addFits (s.cxlDev (8 * p + d)) off bytes = false →
    ∃ t m, exec (.dcAddEvent p d off bytes) s = .next t ∧ (t.cxlDev (8 * p + d)).rejected = sat32 (s.cxlDev (8 * p + d)).rejected 1 ∧
      t.out = s.out ++ [m] ∧ m.kind = "DC_REJECT" ∧ m.dest = 8 * p + d ∧ t = { s with cxlDevs := t.cxlDevs, out := t.out }) ∧
  (∀ (s : State) (e : Nat), (s.extent e).state = .zeroing → s.caveQuiet (s.extent e).base (s.extent e).frames = true →
    ∃ t m, exec (.caveZeroingDone e) s = .next t ∧ t.extent e = Extent.empty ∧ (∀ k, k ≠ e → t.extent k = s.extent k) ∧
      (∀ a, 2 ^ 48 + (s.extent e).base * 2 ^ 25 ≤ a → a < 2 ^ 48 + ((s.extent e).base + (s.extent e).frames) * 2 ^ 25 →
        Memory.get t.mem.cells a = 0) ∧
      (∀ a, a < 2 ^ 48 + (s.extent e).base * 2 ^ 25 ∨ 2 ^ 48 + ((s.extent e).base + (s.extent e).frames) * 2 ^ 25 ≤ a →
        Memory.get t.mem.cells a = Memory.get s.mem.cells a) ∧
      t.out = s.out ++ [m] ∧ m.kind = "DC_RELEASE" ∧
      (∀ (r : CmdRef) (c : Cmd), s.cmd? r = some c → c.phase = .waiting → cmdOp c.bytes = 0x27 → cmdTarget c.bytes = e →
        t.cmd? r = some { c with phase := .done, status := 0 }) ∧ t = { s with mem := t.mem, objs := t.objs, out := t.out }) ∧
  (∀ (s : State) (e : Nat), (s.extent e).state = .zeroing ∨ (s.extent e).state = .offered ∨ (s.extent e).state = .active →
    ∃ t, exec (.extentLost e) s = .next t ∧ t.extent e = { s.extent e with state := .lost } ∧ (∀ k, k ≠ e → t.extent k = s.extent k) ∧
      (∀ (r : CmdRef) (c : Cmd), s.cmd? r = some c → c.phase = .waiting → cmdOp c.bytes = 0x27 → cmdTarget c.bytes = e → c.tiles = [] →
        t.cmd? r = some { c with phase := .done, status := 0x0710 }) ∧
      ((∀ p ∈ s.vats, p.2.sessions = []) → t.mem.cells = s.mem.cells ∧ t.vats = s.vats) ∧ t.cores = s.cores ∧ t.tick = s.tick) ∧
  (∀ (s : State) (e vat i : Nat) (u : Vat) (r : Session), (s.extent e).state = .active → s.vats = [(vat, u)] → s.vat? vat = some u →
    u.sessions = [(i, r)] → r.state ≠ .free → r.state ≠ .orphaned → (u.wk i).req = none → (u.wk i).offered = none →
    (r.blocks.any fun b => b.cave.any (s.slotLost u (s.extent e).base (s.extent e).frames)) = true →
    ∃ t u', exec (.extentLost e) s = .next t ∧ t.vat? vat = some u' ∧
      (if r.blocks.any fun b => b.cave.isSome && b.hbm.isNone then (u'.sess i).state = .orphaned ∧ (u'.sess i).orphan = 0x0710
       else u'.sess i = { r with blocks := r.blocks.map fun b => { b with cave := none }, holder := 0xFFFF }) ∧
      t.mem.cells = s.mem.cells ∧ t.cores = s.cores ∧ t.tick = s.tick)) ∧
  ((∀ (s : State) (q : Nat), q < 16 → q ≠ 0 → q ≠ 8 → s.mem.hbmOut.contains q = false → 5 ≤ s.boot.stage → s.fenced 5 q = false →
    ∃ t, exec (.hbmPhyTrainingLoss q) s = .next t ∧ t.fenced 5 q = true ∧
      t.flt.resets = s.flt.resets ++ [⟨5, q, 0x0730, s.tick.count, false, false⟩] ∧
      (∀ (i : Nat) (m : MemObj), s.obj? i = some m → (m.hbmList.any fun f => decide (f / 1430 = q)) = true →
        t.obj? i = some { m with lost := true }) ∧
      (∀ (i : Nat) (m : MemObj), s.obj? i = some m → (m.hbmList.any fun f => decide (f / 1430 = q)) = false → t.obj? i = some m) ∧
      (∀ m ∈ t.out.drop s.out.length, m.kind = "CONTROL" ∧ m.args.head? = some 0x01 ∨ m.kind = "WHEY_ERROR" ∧ m.args.head? = some 0x0701) ∧
      t = { s with flt := t.flt, objs := t.objs, out := t.out }) ∧
  (∀ (s : State) (p : Nat), p < 4 → (s.cxlPort p).state = 2 → s.fenced 6 p = false → ∃ t, exec (.cxlLinkDown p) s = .next t ∧
    t.fenced 6 p = true ∧ t.flt.resets = s.flt.resets ++ [⟨6, p, 0x0730, s.tick.count, false, false⟩] ∧ (t.cxlPort p).state = 3 ∧
    (∀ (e : Nat) (x : Extent), mapFind s.mem.extents e = some x → x.port = p → x.state ≠ .free → (t.extent e).state = .lost) ∧
    (∀ e, (s.extent e).port ≠ p → t.extent e = s.extent e) ∧ (∀ d, d < 8 → (t.cxlDev (8 * p + d)).state = 0) ∧
    ((∀ v ∈ s.vats, v.2.sessions = []) → t.mem.cells = s.mem.cells) ∧ t.cores = s.cores ∧ t.tick = s.tick))

/-- Doorbells and fetch (R301, R302, R303): a doorbell within the limits is stored and nothing else changes; one past them puts the queue in Error with
its undispatched commands dropped and PF vector 0 raised; a fetch takes the 64 bytes at the head of the ring and reserves a completion entry.

Dispatch (R305, R308, R334): a head command of the wrong version, with a reserved bit set or a reserved value completes with its status and
no effect; one that passes every check and has no object operand enters dispatch with its effect due; either leaves the queue, and the Ticks since its fetch
count for a context that is not confidential.

Completion (R304, R314): a finished command's 16-byte entry goes to the next place of its completion ring, which advances; its fence is
Signalled with its status; it leaves dispatch.

It rests on choices of the model: log entry 13. -/
def Obligations.CommandsAreFetchedAndDispatched : Prop :=
  ((∀ (s : State) (ctx q v : Nat) (u : Queue), s.doorOpen ctx = true → v < 2 ^ 32 → s.queue? ctx q = some u →
    (v + 2 ^ 32 - u.sqHead) % 2 ^ 32 ≤ 2 ^ u.sqLog → (u.cqTail + 2 ^ 32 - (s.door ctx q).2) % 2 ^ 32 ≤ 2 ^ u.cqLog →
    ∃ t, exec (.sqTail ctx q v) s = .next t ∧ t.door ctx q = (v, (s.door ctx q).2) ∧
      (∀ c r, 16 * c + r ≠ 16 * ctx + q → t.door c r = s.door c r) ∧
      t = { s with objs := { s.objs with doors := t.objs.doors } }) ∧
  (∀ (s : State) (ctx q v : Nat) (u : Queue), s.doorOpen ctx = true → v < 2 ^ 32 → s.queue? ctx q = some u →
    ((s.door ctx q).1 + 2 ^ 32 - u.sqHead) % 2 ^ 32 ≤ 2 ^ u.sqLog → (u.cqTail + 2 ^ 32 - v) % 2 ^ 32 ≤ 2 ^ u.cqLog →
    ∃ t, exec (.cqHead ctx q v) s = .next t ∧ t.door ctx q = ((s.door ctx q).1, v) ∧
      (∀ c r, 16 * c + r ≠ 16 * ctx + q → t.door c r = s.door c r) ∧
      t = { s with objs := { s.objs with doors := t.objs.doors } }) ∧
  (∀ (s : State) (ctx q v : Nat) (u : Queue), s.doorOpen ctx = true → v < 2 ^ 32 → s.queue? ctx q = some u → u.error = false →
    2 ^ u.sqLog < (v + 2 ^ 32 - u.sqHead) % 2 ^ 32 → (s.ctx ctx).function = 0 → ∃ t u', exec (.sqTail ctx q v) s = .next t ∧
      t.queue? ctx q = some u' ∧ u'.error = true ∧ u'.fetched = [] ∧ u'.sqHead = u.sqHead ∧ bit (t.ctx ctx).qError q = true ∧
      (t.msix = s.msix ++ [(0, 0)] ∨ (t.func 0).pends.contains 0 = true) ∧
      (∃ e ∈ t.events, e.what = "QUEUE_ERROR" ∧ e.tick = s.tick.count) ∧ t.objs.cmds = s.objs.cmds ∧ t.host = s.host ∧ t.tick = s.tick) ∧
  (∀ (s : State) (ctx q : Nat) (u : Queue), s.canFetch ctx q = true → s.queue? ctx q = some u → ∃ t, exec (.commandFetch ctx q) s = .next t ∧
    t.queue? ctx q = some { u with
      fetched := u.fetched ++ [⟨u.sqHead, Memory.read s.host (u.sqBus + 64 * (u.sqHead % 2 ^ u.sqLog)) 64, u.firstFetch s.tick.count⟩]
      old := u.old.filter fun p => decide (p.1 ≠ u.sqHead)
      sqHead := (u.sqHead + 1) % 2 ^ 32
      reserved := u.reserved + 1 } ∧
    (∀ c r, 16 * c + r ≠ 16 * ctx + q → t.queue? c r = s.queue? c r) ∧ t = { s with objs := { s.objs with queues := t.objs.queues }, qos := t.qos })) ∧
  ((∀ (s : State) (ctx q : Nat) (u : Queue) (h : Fetched) (hs : List Fetched), s.canDispatch ctx q = true → s.queue? ctx q = some u →
    u.fetched = h :: hs → cmdFlag h.bytes 1 = false → cmdFlag h.bytes 3 = false → s.formStatus h.bytes ≠ 0 →
    ∃ t u', exec (.commandDispatch ctx q) s = .next t ∧ t.queue? ctx q = some u' ∧ u'.fetched = hs ∧ u'.reserved = u.reserved ∧
      t.objs.cmds = s.objs.cmds ++ [{ newCmd ⟨ctx, q, h.idx⟩ h.bytes s.tick.count (s.slot (cmdSlot h.bytes)).gen with
        phase := .done, status := s.formStatus h.bytes }] ∧ t.objs.fences = s.objs.fences ∧
      t.ctx ctx = { s.ctx ctx with
        acted := true
        queueWait := if (s.ctx ctx).conf then (s.ctx ctx).queueWait else ((s.ctx ctx).queueWait + (s.tick.count - h.tick)) % 2 ^ 64 } ∧
      (∀ d, d ≠ ctx → t.ctx d = s.ctx d) ∧
      t = { s with objs := { s.objs with ctxs := t.objs.ctxs, queues := t.objs.queues, cmds := t.objs.cmds } }) ∧
  (∀ (s : State) (ctx q : Nat) (u : Queue) (h : Fetched) (hs : List Fetched) (x : Cmd), s.canDispatch ctx q = true →
    s.queue? ctx q = some u → u.fetched = h :: hs → cmdFlag h.bytes 0 = false → cmdFlag h.bytes 1 = false → cmdFlag h.bytes 3 = false →
    x = newCmd ⟨ctx, q, h.idx⟩ h.bytes s.tick.count (s.slot (cmdSlot h.bytes)).gen → s.formStatus h.bytes = 0 →
    kindOk ctx (cmdOp h.bytes) = true → cmdObjs h.bytes = [] → s.objStatus ctx h.bytes = 0 → cmdZero h.bytes = false →
    ownCheck s x = 0 → s.cutStatus x = 0 → cmdOp h.bytes ≠ 0x21 →
    ∃ t u', exec (.commandDispatch ctx q) s = .next t ∧ t.queue? ctx q = some u' ∧ u'.fetched = hs ∧ u'.waiting = none ∧
      t.objs.cmds = s.objs.cmds ++ [x] ∧ x.phase = .ready ∧ t.objs.fences = s.objs.fences ∧ t.objs.objs = s.objs.objs ∧
      t = { s with objs := t.objs, qos := t.qos }) ∧
  (∀ (s : State) (ctx q st : Nat) (u : Queue) (h : Fetched) (hs : List Fetched), s.canDispatch ctx q = true → s.queue? ctx q = some u →
    u.fetched = h :: hs → cmdFlag h.bytes 0 = false → cmdFlag h.bytes 1 = true → cmdFlag h.bytes 2 = true → u.met = some st → 256 ≤ st →
    ∃ t u', exec (.commandDispatch ctx q) s = .next t ∧ t.queue? ctx q = some u' ∧ u'.fetched = hs ∧
      t.objs.cmds = s.objs.cmds ++ [{ newCmd ⟨ctx, q, h.idx⟩ h.bytes s.tick.count (s.slot (cmdSlot h.bytes)).gen with
        phase := .done, status := 0x0242 }] ∧
      t = { s with objs := { s.objs with ctxs := t.objs.ctxs, queues := t.objs.queues, cmds := t.objs.cmds } })) ∧
  ((∀ (s : State) (r : CmdRef) (c : Cmd) (u : Queue), s.cmd? r = some c → c.phase = .done → c.orphan = false → c.fence = none →
    s.hostOpen (s.ctx r.ctx).function = true → s.queue? r.ctx r.q = some u → u.error = false → (s.ctx r.ctx).state = .active →
    u.vector = 0xFFFF → ∃ t u', exec (.commandComplete r) s = .next t ∧ t.queue? r.ctx r.q = some u' ∧
      u' = { u with cqTail := (u.cqTail + 1) % 2 ^ 32, reserved := u.reserved - 1 } ∧
      t.host = Memory.write s.host (u.cqBus + 16 * (u.cqTail % 2 ^ u.cqLog)) (leBytes 2 0x1000 ++ leBytes 2 c.status ++
        leBytes 4 r.idx ++ leBytes 4 c.result ++ leBytes 4 ((1 + u.cqTail / 2 ^ u.cqLog) % 2 * 2 ^ 31)) ∧
      t.cmd? r = none ∧ t.objs.fences = s.objs.fences ∧ t.msix = s.msix ∧ t.mem = s.mem ∧ t.tick = s.tick) ∧
  (∀ (s : State) (r : CmdRef) (c : Cmd) (u : Queue) (f : Nat), s.cmd? r = some c → c.phase = .done → c.orphan = false →
    c.fence = some f → c.silent = false → (s.fence f).pending = some r → s.hostOpen (s.ctx r.ctx).function = true →
    s.queue? r.ctx r.q = some u → u.error = false → (s.ctx r.ctx).state = .active → u.vector = 0xFFFF →
    ∃ t, exec (.commandComplete r) s = .next t ∧
      t.fence f = ⟨c.status, true, ((s.fence f).epoch + 1) % 2 ^ 31, s.tick.count, none⟩ ∧
      (∀ g, g ≠ f → t.fence g = s.fence g) ∧ t.cmd? r = none ∧ t.mem = s.mem ∧ t.tick = s.tick))

/-- Fault batches (R227, R228, R229, R230): a batch due is closed with the Tick; `FAULT_DONE` of a batch whose every reply is 1 retries its command, whose
held Ticks do not count; a reply of 2 completes it with the fault's status; setting `FAULT_ENABLE` writes a waiting batch to the ring and raises
vector 1; a command held 12,500,000 Ticks completes with 0x0405.

Page walks (R212, R220 to R223, R225, R226, R227): for a command of one tile in one 32 MiB span, a walk that ends at a leaf the context may
use resolves it to the leaf's address and slot; one that fails holds the command with one fault entry of the walk's status and caches nothing;
one that reads an uncorrectable entry completes the command with 0x0560 (log entry 112).

Swaps and hangs (R298, R299, R401, R402): the runnable context that waits longest takes the lowest free slot; a command past its limit
completes with 0x0611, is counted, and the domain that holds it is fenced; a boundary unmarked at its limit resets the device.

It rests on choices of the model: log entries 35, 73, 77, 78, 102. -/
def Obligations.TranslationFaultsAndHangs : Prop :=
  ((∀ (s : State), s.xl.openEnts ≠ [] → 64 ≤ s.xl.openEnts.length ∨ s.xl.openTick + 1250 ≤ s.tick.count → s.xl.enable = false →
    exec .faultBatchClose s = .next { s with xl := { s.xl with
      openEnts := [], closed := s.xl.closed ++ [⟨0, s.xl.openTick, s.tick.count, s.xl.openEnts⟩] } }) ∧
  (∀ (s : State) (k : Nat) (b : Batch) (e : FaultEnt) (c : Cmd), HostServed s → s.xl.slots = [(k, b)] → b.ents = [e] → b.seq < 2 ^ 32 →
    s.xl.closed = [] → s.cmd? e.ref = some c → c.phase = .held → c.ref = e.ref →
    Memory.get s.host (s.xl.ringBase + 8192 * k + 112) = 2 → ∃ t, exec (.faultDone b.seq) s = .next t ∧
      t.cmd? e.ref = some { c with phase := .done, status := e.status } ∧ t.xl = { s.xl with done := b.seq, slots := [] } ∧
      t = { s with objs := t.objs, xl := t.xl }) ∧
  (∀ (s : State) (k : Nat) (b : Batch) (e : FaultEnt) (c : Cmd), HostServed s → s.xl.slots = [(k, b)] → b.ents = [e] → b.seq < 2 ^ 32 →
    s.xl.closed = [] → s.cmd? e.ref = some c → c.phase = .held → c.ref = e.ref → c.tiles.all (fun t => t.virt) = true → c.tiles ≠ [] →
    c.tiles.all (fun t => decide (t.len ≠ 0)) = true → s.xl.cache = [] →
    Memory.get s.host (s.xl.ringBase + 8192 * k + 112) = 1 → ∃ t, exec (.faultDone b.seq) s = .next t ∧
      t.cmd? e.ref = some { c with
        phase := .resolving, excused := c.excused + (s.tick.count - c.heldAt)
        tiles := c.tiles.map fun x => { x with trans := [], fails := [], pieces := [] } } ∧ t.xl.done = b.seq ∧ t.xl.slots = []) ∧
  (∀ (s : State) (b : Batch), HostServed s → s.xl.closed = [b] → s.xl.ringLog ≠ 0 → s.hostOpen 0 = true →
    (mapFind s.xl.slots (s.xl.pos % 2 ^ s.xl.ringLog)).isNone = true → ((s.func 0).entry 1).2.2 = false → s.xl.producer < 0xFFFFFFFF →
    ∃ t, exec (.faultEnable 1) s = .next t ∧ t.xl.enable = true ∧ t.xl.closed = [] ∧ t.xl.producer = s.xl.producer + 1 ∧
      t.host = Memory.write s.host (s.xl.ringBase + 8192 * (s.xl.pos % 2 ^ s.xl.ringLog)) (b.bytes (s.xl.producer + 1)) ∧
      t.msix = s.msix ++ [(0, 1)] ∧ t = { s with xl := t.xl, host := t.host, msix := t.msix, qos := t.qos }) ∧
  (∀ (s : State) (r : CmdRef) (c : Cmd) (a : Nat), s.cmd? r = some c → c.phase = .held → c.faulted = some a →
    a + 12500000 ≤ s.tick.count → ∃ t, exec (.faultTimeout r) s = .next t ∧ t.cmd? r = some { c with phase := .done, status := 0x0405 } ∧
      t.xl = { s.xl with timeouts := sat32 s.xl.timeouts 1 } ∧ t = { s with objs := t.objs, xl := t.xl })) ∧
  ((∀ (s : State) (r : CmdRef) (c : Cmd) (x : Tile) (p : Nat) (w : WalkEnd), s.cmd? r = some c → c.phase = .resolving → c.tiles = [x] →
    x.spans = [p] → x.trans = [] → x.fails = [] → w = s.walk r.ctx (p * 2 ^ 25) → w.status = 0 → s.leafStatus r.ctx w x.write = 0 →
    s.bridgesUp ≠ [] → s.outHalf 0 = false → s.outHalf 1 = false → s.walkWaits r x.operand p = false → ∃ t y, exec (.pageWalkDone r x.operand ⟨p, [], []⟩) s = .next t ∧
      t.cmd? r = some { c with phase := .ready, tiles := [y] } ∧
      y.pieces = [(pteAddr w.pte + x.va % 2 ^ w.log2, x.len, pteSlot w.pte)] ∧ t.xl.walks = sat32 s.xl.walks 1 ∧
      t = { s with xl := t.xl, objs := t.objs, qos := t.qos }) ∧
  (∀ (s : State) (r : CmdRef) (c : Cmd) (x : Tile) (p : Nat) (w : WalkEnd), s.cmd? r = some c → c.phase = .resolving → c.tiles = [x] →
    x.spans = [p] → x.trans = [] → x.fails = [] → w = s.walk r.ctx (p * 2 ^ 25) → w.status = 0x0401 ∨ w.status = 0x0403 →
    s.walkWaits r x.operand p = false → (s.ctx r.ctx).state = .active → s.xl.waiting < 4096 → s.xl.openEnts.length < 63 →
    ∃ t e, exec (.pageWalkDone r x.operand ⟨p, [], []⟩) s = .next t ∧ t.xl.openEnts = s.xl.openEnts ++ [e] ∧ e.status = w.status ∧
      e.ref = r ∧ e.level = w.level ∧ e.pte = w.pte ∧ e.write = x.write ∧ e.tick = s.tick.count ∧ t.xl.cache = s.xl.cache ∧
      ((t.cmd? r).map fun d => (d.phase, d.heldAt, d.status)) = some (.held, s.tick.count, c.status) ∧
      t.mem = s.mem ∧ t.host = s.host ∧ t.cores = s.cores ∧ t.tick = s.tick) ∧
  (∀ (s : State) (r : CmdRef) (c : Cmd) (x : Tile) (p q : Nat), s.cmd? r = some c → c.phase = .resolving → c.tiles = [x] →
    x.spans = [p] → x.trans = [] → x.fails = [] → s.walkWaits r x.operand p = false →
    q = ((s.ctx r.ctx).ptBase + 8 * (p * 2 ^ 25 / 2 ^ 43 % 2 ^ 13)) / 2 ^ 36 →
    ∃ t, exec (.pageWalkDone r x.operand ⟨p, [], [2]⟩) s = .next t ∧ (t.stackRegs q).ue = sat32 (s.stackRegs q).ue 1 ∧
      t.xl = { s.xl with walks := sat32 s.xl.walks 1 } ∧ t.mem.cells = s.mem.cells ∧ t.qos = s.qos ∧
      ((t.cmd? r).map fun d => (d.phase, d.status)) = some (.done, 0x0560))) ∧
  ((∀ (s : State) (c k : Nat), (s.ctx c).state = .active → (s.ctx c).slot = none → c ≠ 0 → (s.ctx c).cls = .runnable → s.firstRunnable c = true →
    (s.residents (s.ctx c).function).length < s.slotMax (s.ctx c).function → s.freeSlot = some k →
    ∃ t, exec (.contextSwapIn c) s = .next t ∧ t.ctx c = { s.ctx c with slot := some k, cls := .runnable, since := s.tick.count } ∧
      (∀ d, d ≠ c → t.ctx d = s.ctx d) ∧ t = { s with objs := { s.objs with ctxs := t.objs.ctxs } }) ∧
  (∀ (s : State) (r : CmdRef) (c : Cmd), s.cmd? r = some c → s.cmdHung c = true → s.oldestReq r = none → r.ctx ≠ 0 →
    ∃ t, exec (.commandHang r) s = .next t ∧ t.cmd? r = some { c with phase := .done, status := 0x0611 } ∧
      t.flt.cmdHangs = sat32 s.flt.cmdHangs 1 ∧ t.fenced 7 0 = true ∧ t.mem = s.mem ∧ t.cores = s.cores ∧ t.tick = s.tick) ∧
  (∀ (s : State) (vat a : Nat), (s.role vat).hangAt = some a → a ≤ s.tick.count →
    ∃ t, exec (.stepHang vat) s = .next t ∧ DeviceCleared s t))

/-- NOP, the copies and INVALIDATE_TRANSLATION (R204, R212, R224, R306): what is due takes place and the command is finished with status 0; a copy from
device memory that meets an uncorrectable granule finishes with the status of its tier and moves nothing. What the ECC of
its reads met is counted (`readsMet`).

SEAL and OPEN (R379, R380, R381): SEAL writes the header, the ciphertext and the tag of the buffer under the key and generation in force
and records its `SEQ`; OPEN of a buffer that is authentic records its `SEQ` and writes the plaintext; any other finishes with 0x0820 and
writes nothing.

It rests on choices of the model: log entries 101, 113. -/
def Obligations.HostDataCommandsRun : Prop :=
  ((∀ (s : State) (r : CmdRef) (c : Cmd), CmdDue s r 0x01 c → ∃ t, exec (.nop r) s = .next t ∧
    t.cmd? r = some { c with phase := .done, status := 0 } ∧ (∀ q, q ≠ r → t.cmd? q = s.cmd? q) ∧
    t = { s with objs := { s.objs with cmds := t.objs.cmds } }) ∧
  (∀ (s : State) (r : CmdRef) (c : Cmd) (bad : ReadErrs), CmdDue s r 0x02 c → readStatus bad (c.piecesAt 0) = 0 →
    ∃ t, exec (.copy r bad) s = .next t ∧ t.cmd? r = some { c with phase := .done, status := 0 } ∧
      t.mem = ((s.readsMet bad (c.piecesAt 0)).writePieces (c.piecesAt 1) (s.readPieces (c.piecesAt 0))).mem ∧
      t = { s.readsMet bad (c.piecesAt 0) with mem := t.mem, objs := { s.objs with cmds := t.objs.cmds } }) ∧
  (∀ (s : State) (r : CmdRef) (c : Cmd) (bad : ReadErrs) (st : Nat), CmdDue s r 0x02 c → readStatus bad (c.piecesAt 0) = st → st ≠ 0 →
    ∃ t, exec (.copy r bad) s = .next t ∧ t.cmd? r = some { c with phase := .done, status := st } ∧ t.mem.cells = s.mem.cells ∧
      t.mem.keys = s.mem.keys ∧ t = { s.readsMet bad (c.piecesAt 0) with objs := { s.objs with cmds := t.objs.cmds } }) ∧
  (∀ (s : State) (r : CmdRef) (c : Cmd), CmdDue s r 0x03 c → s.hostOpen (s.ctx r.ctx).function = true →
    ∃ t, exec (.copyIn r) s = .next t ∧ t.cmd? r = some { c with phase := .done, status := 0 } ∧
      t.mem = (s.writePieces (c.piecesAt 0) (Memory.read s.host (field c.bytes 0x18 8) (field c.bytes 0x20 8))).mem ∧
      t = { s with mem := t.mem, objs := { s.objs with cmds := t.objs.cmds } }) ∧
  (∀ (s : State) (r : CmdRef) (c : Cmd) (bad : ReadErrs), CmdDue s r 0x04 c → s.hostOpen (s.ctx r.ctx).function = true →
    readStatus bad (c.piecesAt 0) = 0 → ∃ t, exec (.copyOut r bad) s = .next t ∧
      t.cmd? r = some { c with phase := .done, status := 0 } ∧
      t.host = Memory.write (s.readsMet bad (c.piecesAt 0)).host (field c.bytes 0x18 8) (s.readPieces (c.piecesAt 0)) ∧
      t = { s.readsMet bad (c.piecesAt 0) with host := t.host, objs := { s.objs with cmds := t.objs.cmds } }) ∧
  (∀ (s : State) (r : CmdRef) (c : Cmd), CmdDue s r 0x07 c →
    s.movingIn r (field c.bytes 0x10 8) (field c.bytes 0x18 8) = false → ∃ t, exec (.invalidateTranslation r) s = .next t ∧
      t.cmd? r = some { c with phase := .done, status := 0 } ∧ (∀ e, e ∈ t.xl.cache ↔ e ∈ s.xl.cache ∧
        ¬(e.1 = r.ctx ∧ e.2.1 < field c.bytes 0x10 8 + field c.bytes 0x18 8 ∧ field c.bytes 0x10 8 < e.2.1 + 2 ^ e.2.2.1)) ∧
      t = { s with xl := { s.xl with cache := t.xl.cache }, objs := { s.objs with cmds := t.objs.cmds } })) ∧
  ((∀ (s : State) (r : CmdRef) (c : Cmd) (bad : ReadErrs) (key : List Byte) (hi : Nat) (h : List Byte), CmdDue s r 0x05 c →
    s.hostOpen (s.ctx r.ctx).function = true → ownSeal s c = 0 → readStatus bad (c.piecesAt 0) = 0 →
    (s.slot (cmdSlot c.bytes)).sealKey c.gen = some (key, hi) → c.gen = (s.slot (cmdSlot c.bytes)).gen →
    h = leBytes 2 0x1000 ++ [2] ++ leBytes 1 (cmdSlot c.bytes) ++ leBytes 4 c.gen ++ leBytes 8 (cmdSeq c.bytes) ++
      leBytes 8 (cmdLen c.bytes) ++ zeros 8 → ∃ t e, exec (.sealCmd r bad) s = .next t ∧
      e = gcmEnc key (leBytes 4 2 ++ leBytes 8 (cmdSeq c.bytes)) h (s.readPieces (c.piecesAt 0)) ∧
      t.host = Memory.write (s.readsMet bad (c.piecesAt 0)).host (field c.bytes 0x18 8) (h ++ e.1 ++ e.2) ∧
      t.slot (cmdSlot c.bytes) = { s.slot (cmdSlot c.bytes) with seqOut := cmdSeq c.bytes } ∧
      t.cmd? r = some { c with phase := .done, status := 0 } ∧
      t = { s.readsMet bad (c.piecesAt 0) with
        host := t.host, keys := { s.keys with slots := t.keys.slots }, objs := { s.objs with cmds := t.objs.cmds } }) ∧
  (∀ (s : State) (r : CmdRef) (c : Cmd) (p : List Byte), CmdDue s r 0x06 c → s.hostOpen (s.ctx r.ctx).function = true →
    ownOpen s c = 0 → c.staged = none → s.openBuffer c = some ((s.slot (cmdSlot c.bytes)).gen, p) → c.tiles.all (fun x => !x.virt) = true →
    ∃ t, exec (.openCmd r) s = .next t ∧ t.slot (cmdSlot c.bytes) = { s.slot (cmdSlot c.bytes) with seqIn := cmdSeq c.bytes } ∧
      (t.cmd? r).bind (·.staged) = some p ∧ t.host = s.host ∧ t.vats = s.vats ∧ t.cores = s.cores) ∧
  (∀ (s : State) (r : CmdRef) (c : Cmd) (p : List Byte), CmdDue s r 0x06 c → c.staged = some p → ∃ t, exec (.openCmd r) s = .next t ∧
    t.cmd? r = some { c with phase := .done, status := 0 } ∧ t.mem = (s.writePieces (c.piecesAt 0) p).mem ∧
    t = { s with mem := t.mem, objs := { s.objs with cmds := t.objs.cmds } }) ∧
  (∀ (s : State) (r : CmdRef) (c : Cmd), CmdDue s r 0x06 c → s.hostOpen (s.ctx r.ctx).function = true → ownOpen s c = 0 →
    c.staged = none → s.openBuffer c = none → ∃ t, exec (.openCmd r) s = .next t ∧
      t.cmd? r = some { c with phase := .done, status := 0x0820 } ∧ t = { s with objs := { s.objs with cmds := t.objs.cmds } }))

/-- Session commands (R235, R236, R259): OPEN makes the record Idle with the defaults of R236 for its context; CLOSE frees an Idle record; RESET
makes a Faulted session Idle with its rows; CANCEL of a Placed session waits for the boundary; QUERY copies the 256-byte record; SET_SAMPLING
stores the parameters; a SET_BIAS of `COUNT` 0 gives the set back.

Sets, trees and requests (R237, R238, R259, R260): a bias set that is well formed is loaded under the session's set or the lowest free one; a
well-formed tree is staged, for a Placed session at the boundary; an accepted GENERATE makes the session Ready with its buffers and counts
and leaves its fence pending; a token beyond `VOCAB` finishes it with 0x0151.

It rests on choices of the model: log entry 12. -/
def Obligations.SessionCommandsRun : Prop :=
  ((∀ (s : State) (r : CmdRef) (c : Cmd) (u : Vat), CmdDue s r 0x10 c → ownSessionOpen s c = 0 → s.vat? (cmdVat c.bytes) = some u →
    (u.wk (cmdRec c.bytes)).offered = none → (u.sess (cmdRec c.bytes)).biasSet = 0xFFFF →
    ∃ t u', exec (.sessionOpen r) s = .next t ∧ t.vat? (cmdVat c.bytes) = some u' ∧
      u'.sess (cmdRec c.bytes) = { Session.free with
        state := .idle, ctx := r.ctx, seed := field c.bytes 0x10 8, rule := field c.bytes 0x18 1 % 2
        spec := field c.bytes 0x18 1 / 2 % 4 } ∧
      u'.wk (cmdRec c.bytes) = SessWork.empty ∧ (∀ j, j ≠ cmdRec c.bytes → u'.sess j = u.sess j) ∧
      t.cmd? r = some { c with phase := .done, status := 0 } ∧
      t = { s with vats := t.vats, objs := { s.objs with cmds := t.objs.cmds } }) ∧
  (∀ (s : State) (r : CmdRef) (c : Cmd) (u : Vat), CmdDue s r 0x11 c → ownSessionClose s c = 0 → s.vat? (cmdVat c.bytes) = some u →
    (u.sess (cmdRec c.bytes)).state = .idle → (u.wk (cmdRec c.bytes)).req = none → (u.wk (cmdRec c.bytes)).offered = none →
    (u.sess (cmdRec c.bytes)).biasSet = 0xFFFF → ∃ t u', exec (.sessionClose r) s = .next t ∧ t.vat? (cmdVat c.bytes) = some u' ∧
      u'.sess (cmdRec c.bytes) = Session.free ∧ (∀ j, j ≠ cmdRec c.bytes → u'.sess j = u.sess j) ∧
      t.cmd? r = some { c with phase := .done, status := 0 } ∧
      t = { s with vats := t.vats, objs := { s.objs with cmds := t.objs.cmds } }) ∧
  (∀ (s : State) (r : CmdRef) (c : Cmd) (u : Vat), CmdDue s r 0x12 c → ownSessionReset s c = 0 → s.vat? (cmdVat c.bytes) = some u →
    (u.sess (cmdRec c.bytes)).state = .faulted → ∃ t u', exec (.sessionReset r) s = .next t ∧ t.vat? (cmdVat c.bytes) = some u' ∧
      u'.sess (cmdRec c.bytes) = { u.sess (cmdRec c.bytes) with state := .idle } ∧
      (∀ j, j ≠ cmdRec c.bytes → u'.sess j = u.sess j) ∧ t.cmd? r = some { c with phase := .done, status := 0 } ∧
      t = { s with vats := t.vats, objs := { s.objs with cmds := t.objs.cmds } }) ∧
  (∀ (s : State) (r : CmdRef) (c : Cmd) (u : Vat), CmdDue s r 0x13 c → ownSessionCancel s c = 0 → s.vat? (cmdVat c.bytes) = some u →
    (u.sess (cmdRec c.bytes)).state = .placed → ∃ t u', exec (.sessionCancel r) s = .next t ∧ t.vat? (cmdVat c.bytes) = some u' ∧
      u'.wk (cmdRec c.bytes) = { u.wk (cmdRec c.bytes) with cancel := true } ∧ u'.sessions = u.sessions ∧
      t.cmd? r = some { c with phase := .done, status := 0 } ∧
      t = { s with vats := t.vats, objs := { s.objs with cmds := t.objs.cmds } }) ∧
  (∀ (s : State) (r : CmdRef) (c : Cmd), CmdDue s r 0x14 c → ownSessionQuery s c = 0 → ∃ t, exec (.sessionQuery r) s = .next t ∧
    t.mem = (s.writePieces (c.piecesAt 0) ((s.cmdSess c).bytes (cmdVat c.bytes))).mem ∧
    t.cmd? r = some { c with phase := .done, status := 0 } ∧
    t = { s with mem := t.mem, objs := { s.objs with cmds := t.objs.cmds } }) ∧
  (∀ (s : State) (r : CmdRef) (c : Cmd) (u : Vat), CmdDue s r 0x15 c → ownSessionSetSampling s c = 0 → s.vat? (cmdVat c.bytes) = some u →
    ∃ t u', exec (.sessionSetSampling r) s = .next t ∧ t.vat? (cmdVat c.bytes) = some u' ∧
      u'.sess (cmdRec c.bytes) = { u.sess (cmdRec c.bytes) with
        temp := BitVec.ofNat 32 (field c.bytes 0x10 4), topP := BitVec.ofNat 32 (field c.bytes 0x14 4)
        minP := BitVec.ofNat 32 (field c.bytes 0x18 4), topK := field c.bytes 0x1C 2
        stop := [field c.bytes 0x20 4, field c.bytes 0x24 4, field c.bytes 0x28 4, field c.bytes 0x2C 4] } ∧
      (∀ j, j ≠ cmdRec c.bytes → u'.sess j = u.sess j) ∧ t.cmd? r = some { c with phase := .done, status := 0 } ∧
      t = { s with vats := t.vats, objs := { s.objs with cmds := t.objs.cmds } }) ∧
  (∀ (s : State) (r : CmdRef) (c : Cmd) (bad : ReadErrs) (u : Vat), CmdDue s r 0x16 c → ownSessionSetBias s c = 0 →
    s.vat? (cmdVat c.bytes) = some u → field c.bytes 0x1C 2 = 0 → (u.sess (cmdRec c.bytes)).biasSet ≠ 0xFFFF →
    ∃ t u', exec (.sessionSetBias r bad) s = .next t ∧ t.vat? (cmdVat c.bytes) = some u' ∧
      u'.sess (cmdRec c.bytes) = { u.sess (cmdRec c.bytes) with biasSet := 0xFFFF } ∧
      mapFind t.objs.bias (u.sess (cmdRec c.bytes)).biasSet = none ∧ t.cmd? r = some { c with phase := .done, status := 0 } ∧
      t.mem = s.mem ∧ t.host = s.host ∧ t.cores = s.cores)) ∧
  ((∀ (s : State) (r : CmdRef) (c : Cmd) (bad : ReadErrs) (u : Vat) (k : Nat) (es : List (Nat × Word)), CmdDue s r 0x16 c →
    ownSessionSetBias s c = 0 → s.vat? (cmdVat c.bytes) = some u → field c.bytes 0x1C 2 ≠ 0 → readStatus bad (c.piecesAt 0) = 0 →
    es = biasEntries (s.readPieces (c.piecesAt 0)) (field c.bytes 0x1C 2) → biasOk es (s.vocab (cmdVat c.bytes)) = true →
    (u.sess (cmdRec c.bytes)).biasSet = 0xFFFF → s.freeBias = some k → ∃ t u', exec (.sessionSetBias r bad) s = .next t ∧
      t.vat? (cmdVat c.bytes) = some u' ∧ u'.sess (cmdRec c.bytes) = { u.sess (cmdRec c.bytes) with biasSet := k } ∧
      mapFind t.objs.bias k = some es ∧ t.cmd? r = some { c with phase := .done, status := 0 } ∧ t.mem.cells = s.mem.cells ∧ t.tick = s.tick) ∧
  (∀ (s : State) (r : CmdRef) (c : Cmd) (bad : ReadErrs) (u : Vat) (ns : List TreeNode), CmdDue s r 0x17 c → ownSessionTree s c = 0 →
    s.vat? (cmdVat c.bytes) = some u → readStatus bad (c.piecesAt 0) = 0 →
    ns = treeOf (s.readPieces (c.piecesAt 0)) (field c.bytes 0x1C 1) →
    treeOk ns (s.vocab (cmdVat c.bytes)) (decide ((u.sess (cmdRec c.bytes)).rule = 1)) = true →
    (u.wk (cmdRec c.bytes)).offered = none → (u.sess (cmdRec c.bytes)).state = .idle →
    ∃ t u', exec (.sessionTree r bad) s = .next t ∧ t.vat? (cmdVat c.bytes) = some u' ∧
      u'.sess (cmdRec c.bytes) = { u.sess (cmdRec c.bytes) with tree := ns } ∧ (∀ j, j ≠ cmdRec c.bytes → u'.sess j = u.sess j) ∧
      t.cmd? r = some { c with phase := .done, status := 0 } ∧
      t = { s.readsMet bad (c.piecesAt 0) with vats := t.vats, objs := { s.objs with cmds := t.objs.cmds } }) ∧
  (∀ (s : State) (r : CmdRef) (c : Cmd) (bad : ReadErrs) (u : Vat), CmdDue s r 0x18 c → ownGenerate s c = 0 →
    s.vat? (cmdVat c.bytes) = some u → readStatus bad (c.piecesAt 0) = 0 → field c.bytes 0x1C 4 ≠ 0 ∨ field c.bytes 0x2C 4 ≠ 0 →
    (tokensOf (s.readPieces (c.piecesAt 0)) (field c.bytes 0x1C 4)).all (fun k => decide (k < s.vocab (cmdVat c.bytes))) = true →
    ∃ t u', exec (.generate r bad) s = .next t ∧ t.vat? (cmdVat c.bytes) = some u' ∧
      u'.sess (cmdRec c.bytes) = { u.sess (cmdRec c.bytes) with
        state := .ready, fence := c.fence, inVa := c.vaAt 0, outVa := c.vaAt 1, inCount := field c.bytes 0x1C 4, inDone := 0
        maxNew := field c.bytes 0x2C 4, produced := 0 } ∧
      (u'.wk (cmdRec c.bytes)).req = some r ∧ (u'.wk (cmdRec c.bytes)).inTile = c.piecesAt 0 ∧
      (u'.wk (cmdRec c.bytes)).outTile = c.piecesAt 1 ∧ (∀ j, j ≠ cmdRec c.bytes → u'.sess j = u.sess j) ∧
      t.cmd? r = some { c with phase := .done, status := 0, silent := true } ∧ t.objs.fences = s.objs.fences ∧
      t = { s.readsMet bad (c.piecesAt 0) with vats := t.vats, objs := { s.objs with cmds := t.objs.cmds } }) ∧
  (∀ (s : State) (r : CmdRef) (c : Cmd) (bad : ReadErrs), CmdDue s r 0x18 c → ownGenerate s c = 0 → readStatus bad (c.piecesAt 0) = 0 →
    (tokensOf (s.readPieces (c.piecesAt 0)) (field c.bytes 0x1C 4)).any (fun k => decide (s.vocab (cmdVat c.bytes) ≤ k)) = true →
    ∃ t, exec (.generate r bad) s = .next t ∧ t.cmd? r = some { c with phase := .done, status := 0x0151 } ∧
      t = { s.readsMet bad (c.piecesAt 0) with objs := { s.objs with cmds := t.objs.cmds } }))

/-- Contexts (R295, R316, R366): CONTEXT_CREATE makes the context Active with the fields of the command, its fences Signalled with status 0 and
epoch 0; CONTEXT_DESTROY begins the teardown, unless its dispatch has, and waits; once nothing of the context remains it is Free, its queues and cached leaves are
gone and the command that destroyed it is finished.

Queues (R300): QUEUE_CREATE enters an empty queue with the rings, vector and class of the command; QUEUE_DESTROY removes a queue with no
command fetched or in dispatch.

It rests on choices of the model: log entries 9, 13, 74. -/
def Obligations.ContextsAndQueuesComeAndGo : Prop :=
  ((∀ (s : State) (r : CmdRef) (c : Cmd) (o : MemObj), CmdDue s r 0x20 c → ownContextCreate s c = 0 →
    s.obj? (hIdx (field c.bytes 0x18 4)) = some o → field c.bytes 0x1F 1 % 2 = 0 → ∃ t x, exec (.contextCreate r) s = .next t ∧
      t.ctx (cmdTarget c.bytes) = x ∧ x.state = .active ∧ x.function = field c.bytes 0x1E 1 ∧ x.conf = false ∧ x.slot = none ∧
      x.ptObj = hIdx (field c.bytes 0x18 4) ∧ x.fenceBus = field c.bytes 0x20 8 ∧ x.fenceLo = field c.bytes 0x28 2 ∧
      x.fenceN = field c.bytes 0x2C 4 ∧ x.group = field c.bytes 0x2A 2 % 4096 ∧
      (∀ d, d ≠ cmdTarget c.bytes → t.ctx d = s.ctx d) ∧
      (∀ f, x.fenceLo ≤ f → f < x.fenceLo + x.fenceN → t.fence f = ⟨0, true, 0, s.tick.count, none⟩) ∧
      (∀ f, f < x.fenceLo ∨ x.fenceLo + x.fenceN ≤ f → t.fence f = s.fence f) ∧
      t.cmd? r = some { c with phase := .done, status := 0 } ∧ (s.hostOpen x.function = true → t.hp = s.hp) ∧
      t = { s with objs := t.objs, host := t.host, hp := t.hp, qos := t.qos }) ∧
  (∀ (s : State) (r : CmdRef) (c : Cmd), CmdDue s r 0x21 c → ownContextDestroy s c = 0 → r.ctx ≠ cmdTarget c.bytes →
    (s.ctx (cmdTarget c.bytes)).destroyer = none →
    ∃ t, exec (.contextDestroy r) s = .next t ∧ (t.ctx (cmdTarget c.bytes)).state = .tearing ∧
      (t.ctx (cmdTarget c.bytes)).destroyer = some r ∧ t.cmd? r = some { c with phase := .waiting } ∧
      (∀ f, (s.ctx (cmdTarget c.bytes)).fenceLo ≤ f → f < (s.ctx (cmdTarget c.bytes)).fenceLo + (s.ctx (cmdTarget c.bytes)).fenceN →
        (t.fence f).signalled = true) ∧ t.cores = s.cores ∧ t.tick = s.tick) ∧
  (∀ (s : State) (r : CmdRef) (c : Cmd), CmdDue s r 0x21 c → (s.ctx (cmdTarget c.bytes)).destroyer = some r →
    ∃ t, exec (.contextDestroy r) s = .next t ∧ t.cmd? r = some { c with phase := .waiting } ∧ (∀ q, q ≠ r → t.cmd? q = s.cmd? q) ∧
      t = { s with objs := { s.objs with cmds := t.objs.cmds } }) ∧
  (∀ (s : State) (k : Nat) (r : CmdRef) (c : Cmd), s.tornDown k = true → (s.ctx k).conf = false → (s.ctx k).destroyer = some r →
    s.cmd? r = some c → c.phase = .waiting → ∃ t, exec (.contextTeardownDone k) s = .next t ∧ t.ctx k = Context.empty ∧
      (∀ q, q < 16 → t.queue? k q = none ∧ t.door k q = (0, 0)) ∧ (∀ d, d ≠ k → t.ctx d = s.ctx d) ∧
      (∀ e ∈ t.xl.cache, e.1 ≠ k) ∧ t.cmd? r = some { c with phase := .done, status := 0 } ∧ t.mem = s.mem ∧ t.tick = s.tick)) ∧
  ((∀ (s : State) (r : CmdRef) (c : Cmd), CmdDue s r 0x22 c → ownQueueCreate s c = 0 → ∃ t, exec (.queueCreate r) s = .next t ∧
    t.queue? (cmdTarget c.bytes) (cmdArg0 c.bytes % 16) = some (newQueue (field c.bytes 0x10 8) (field c.bytes 0x18 8)
      (field c.bytes 0x20 1) (field c.bytes 0x21 1) (field c.bytes 0x22 2) (field c.bytes 0x24 1)) ∧
    (∀ k q, 16 * k + q ≠ 16 * cmdTarget c.bytes + cmdArg0 c.bytes % 16 → t.queue? k q = s.queue? k q) ∧
    t.cmd? r = some { c with phase := .done, status := 0 } ∧
    t = { s with objs := { s.objs with queues := t.objs.queues, doors := t.objs.doors, cmds := t.objs.cmds } }) ∧
  (∀ (s : State) (r : CmdRef) (c : Cmd), CmdDue s r 0x23 c → ownQueueDestroy s c = 0 → ∃ t, exec (.queueDestroy r) s = .next t ∧
    t.queue? (cmdTarget c.bytes) (cmdArg0 c.bytes % 16) = none ∧
    (∀ k q, 16 * k + q ≠ 16 * cmdTarget c.bytes + cmdArg0 c.bytes % 16 → t.queue? k q = s.queue? k q) ∧
    t.cmd? r = some { c with phase := .done, status := 0 } ∧
    t = { s with objs := { s.objs with queues := t.objs.queues, cmds := t.objs.cmds } }))

/-- Memory objects (R310, R311, R312): MEMOBJ_CREATE enters an object of the size asked with pages that were Free, now its own, and returns its
handle; MEMOBJ_FREE frees the object and advances its generation; when nothing refers to a freed object its frames go to a Wash and its
index is free.

Cave commands (R217, R218): CAVE_ACCEPT makes an Offered extent Active and unowned; CAVE_RELEASE of an Active, unowned one begins its zeroing
and waits for it; of an Offered one it answers the device and completes.

It rests on choices of the model: log entries 10, 14. -/
def Obligations.ObjectsAndExtentsAreCommanded : Prop :=
  ((∀ (s : State) (r : CmdRef) (c : Cmd) (i : Nat), CmdDue s r 0x24 c → ownMemobjCreate s c = 0 → field c.bytes 0x28 1 ≠ 2 →
    s.freeIndex = some i → ∃ t o, exec (.memobjCreate r) s = .next t ∧ t.obj? i = some o ∧ o.ctx = cmdTarget c.bytes ∧
      o.size = field c.bytes 0x10 8 ∧ o.vaBase = field c.bytes 0x18 8 ∧ o.page = objPage c.bytes ∧ o.freed = false ∧
      o.pages.length = field c.bytes 0x10 8 / objPage c.bytes ∧
      (∀ a ∈ o.pages, a ∈ s.pagePool (field c.bytes 0x28 1) (field c.bytes 0x29 1) (objPage c.bytes / 2 ^ 25)) ∧
      (∀ f ∈ o.hbmList, mapFind t.mem.frames f = some (.object i)) ∧ mapGet 0 t.objs.gens i = o.gen ∧
      t.cmd? r = some { c with phase := .done, status := 0, result := 4096 * i + o.gen } ∧
      (∀ j, j ≠ i → t.obj? j = s.obj? j) ∧ t.mem.cells = s.mem.cells ∧
      (s.hostOpen 0 = true → t.hp = s.hp) ∧
      t = { s with mem := t.mem, objs := t.objs, host := t.host, hp := t.hp, fresh := t.fresh, qos := t.qos }) ∧
  (∀ (s : State) (r : CmdRef) (c : Cmd) (o : MemObj), CmdDue s r 0x25 c → s.obj? (hIdx (cmdTarget c.bytes)) = some o → o.freed = false →
    ∃ t, exec (.memobjFree r) s = .next t ∧ t.obj? (hIdx (cmdTarget c.bytes)) = some { o with freed := true } ∧
      mapGet 0 t.objs.gens (hIdx (cmdTarget c.bytes)) = nextGen o.gen ∧ t.cmd? r = some { c with phase := .done, status := 0 } ∧
      t = { s with objs := t.objs }) ∧
  (∀ (s : State) (i : Nat) (o : MemObj), s.obj? i = some o → o.freed = true → s.referenced i = false → o.pages ≠ [] →
    ∃ t w x, exec (.memobjFramesRelease i) s = .next t ∧ mapFind t.keys.washes w = some x ∧ t.obj? i = none ∧
      t.objs.freeIdx = s.objs.freeIdx ++ [i] ∧ x.frames = o.hbmList ∧ mapFind s.keys.washes w = none ∧
      (∀ f ∈ o.hbmList, mapFind t.mem.frames f = some (.washing w)) ∧ t.mem.cells = s.mem.cells ∧ t.cores = s.cores ∧ t.tick = s.tick)) ∧
  ((∀ (s : State) (r : CmdRef) (c : Cmd), CmdDue s r 0x26 c → ownCaveAccept s c = 0 → ∃ t, exec (.caveAccept r) s = .next t ∧
    t.extent (cmdTarget c.bytes) = { s.extent (cmdTarget c.bytes) with state := .active, owner := .none } ∧
    (∀ e, e ≠ cmdTarget c.bytes → t.extent e = s.extent e) ∧ t.cmd? r = some { c with phase := .done, status := 0 } ∧
    t = { s with mem := { s.mem with extents := t.mem.extents }, objs := { s.objs with cmds := t.objs.cmds } }) ∧
  (∀ (s : State) (r : CmdRef) (c : Cmd), CmdDue s r 0x27 c → ownCaveRelease s c = 0 → (s.extent (cmdTarget c.bytes)).state = .active →
    ∃ t, exec (.caveRelease r) s = .next t ∧ t.extent (cmdTarget c.bytes) = { s.extent (cmdTarget c.bytes) with state := .zeroing } ∧
      (∀ e, e ≠ cmdTarget c.bytes → t.extent e = s.extent e) ∧ t.cmd? r = some { c with phase := .waiting } ∧
      t = { s with mem := { s.mem with extents := t.mem.extents }, objs := { s.objs with cmds := t.objs.cmds }, qos := t.qos }) ∧
  (∀ (s : State) (r : CmdRef) (c : Cmd), CmdDue s r 0x27 c → (s.extent (cmdTarget c.bytes)).state = .offered →
    ∃ t m, exec (.caveRelease r) s = .next t ∧ t.extent (cmdTarget c.bytes) = Extent.empty ∧ t.out = s.out ++ [m] ∧
      m.kind = "DC_RELEASE" ∧ t.cmd? r = some { c with phase := .done, status := 0 } ∧ t.mem.cells = s.mem.cells))

/-- VAT_DEFINE and SESSIONS_CONFIGURE (R234, R242, R269, R285): a new vat stands Defined in its role with the descriptor of the buffer; the
parameters of the command, with each member's share of blocks, residency slots and cave slots, are in force.

MOULD_LOAD (R134, R136, R137, R212): a container, or a delta for a vat past Defined, that passes every check is recorded and a report of status 0
goes to the host; one that fails is not, the report carries its failure, and the command finishes with the status of the report; one whose header meets an uncorrectable read
is not recorded and finishes with the status of the read.

It rests on choices of the model: log entries 70, 97, 106, 115, 118. -/
def Obligations.VatsAreDefinedAndMouldsVerified : Prop :=
  ((∀ (s : State) (r : CmdRef) (c : Cmd), CmdDue s r 0x30 c → s.hostOpen 0 = true → ownVatDefine s c = 0 → s.vat? (cmdVatId c.bytes) = none →
    ∃ t u, exec (.vatDefine r) s = .next t ∧ t.vat? (cmdVatId c.bytes) = some u ∧ u.state = .defined ∧ u.desc = descOf (s.descBytes c) ∧
      u.desc.vatId = cmdVatId c.bytes ∧ u.lpkg = field c.bytes 0x18 2 ∧ (u.role = .standby ↔ field c.bytes 0x18 2 = 0xFFFF) ∧
      u.mould = none ∧ u.place = Placement.empty ∧ (∀ v, v ≠ cmdVatId c.bytes → t.vat? v = s.vat? v) ∧
      t.cmd? r = some { c with phase := .done, status := 0 } ∧
      t = { s with vats := t.vats, objs := { s.objs with cmds := t.objs.cmds } }) ∧
  (∀ (s : State) (r : CmdRef) (c : Cmd) (u : Vat) (m : Mould) (s' : State) (p : SessParams), CmdDue s r 0x34 c →
    ownSessionsConfigure s c = 0 → s.vat? (cmdVatId c.bytes) = some u → u.desc.vatId = cmdVatId c.bytes → u.mould = some m →
    u.desc.packages = 1 → geometryOk m u.lpkg 1 (field c.bytes 0x10 4) (field c.bytes 0x14 4) (field c.bytes 0x18 4)
      (field c.bytes 0x1C 2) (field c.bytes 0x1E 2) = true → u.allFree = true →
    p = ⟨field c.bytes 0x10 4, field c.bytes 0x1C 2, field c.bytes 0x14 4, field c.bytes 0x18 4, field c.bytes 0x1E 2, kvBlocks m u.lpkg,
      field c.bytes 0x18 4, kvCaves m u.lpkg⟩ → s.giveParams (cmdVatId c.bytes) p = some s' →
    ∃ t u', exec (.sessionsConfigure r [] none) s = .next t ∧ t.vat? (cmdVatId c.bytes) = some u' ∧ u'.params = p ∧
      u'.sessions = [] ∧ u'.state = u.state ∧ t.cmd? r = some { c with phase := .done, status := 0 } ∧ t.mem.cells = s.mem.cells ∧
      t.cores = s.cores ∧ t.tick = s.tick)) ∧
  ((∀ (s : State) (r : CmdRef) (c : Cmd) (sig : Bool) (met : LoadMet) (u : Vat) (o : MemObj) (m : Mould) (bs : List Byte), met.bad = ReadErrs.none →
    CmdDue s r 0x31 c → ownMouldLoad s c = 0 → s.vat? (cmdVatId c.bytes) = some u → u.desc.vatId = cmdVatId c.bytes →
    s.obj? (hIdx (field c.bytes 0x18 4)) = some o → bs = s.container o (field c.bytes 0x10 8) → u.state ≠ .defined → u.mould = some m →
    field bs 0x18 1 = 1 → s.hostOpen 0 = true → checkMoulds s.torus bs (o.size - field c.bytes 0x10 8) (u.readsFor m)
      (s.signersOf (cmdVatId c.bytes)) sig (some (m, u.chain)) met.fails = none → ∃ t, exec (.mouldLoad r sig met) s = .next t ∧
      t.vat? (cmdVatId c.bytes) = some { u with delta := some (readMoulds s.torus bs (some m) (u.readsFor m)) } ∧
      (∃ q, t.host = Memory.write s.host (field c.bytes 0x20 8) q ∧ field q 2 2 = 0) ∧
      t.cmd? r = some { c with phase := .done, status := 0 } ∧
      t = { s with vats := t.vats, host := t.host, qos := t.qos, objs := { s.objs with cmds := t.objs.cmds } }) ∧
  (∀ (s : State) (r : CmdRef) (c : Cmd) (sig : Bool) (met : LoadMet) (u : Vat) (o : MemObj) (bs : List Byte) (f : MouldFail), met.bad = ReadErrs.none →
    CmdDue s r 0x31 c → s.hostOpen 0 = true → ownMouldLoad s c = 0 → s.vat? (cmdVatId c.bytes) = some u → u.desc.vatId = cmdVatId c.bytes →
    s.obj? (hIdx (field c.bytes 0x18 4)) = some o → bs = s.container o (field c.bytes 0x10 8) → u.state = .defined →
    field bs 0x18 1 ≠ 1 → checkMoulds s.torus bs (o.size - field c.bytes 0x10 8)
      (u.readsFor (mouldOf bs fun e => decide (e.typ = secVat))) (s.signersOf (cmdVatId c.bytes)) sig none met.fails = some f → ∃ t, exec (.mouldLoad r sig met) s = .next t ∧ t.vats = s.vats ∧
      (∃ q, t.host = Memory.write s.host (field c.bytes 0x20 8) q ∧ field q 2 2 = f.status % 2 ^ 16) ∧
      t.cmd? r = some { c with phase := .done, status := f.status } ∧
      t = { s with host := t.host, qos := t.qos, objs := { s.objs with cmds := t.objs.cmds } }) ∧
  (∀ (s : State) (r : CmdRef) (c : Cmd) (sig : Bool) (met : LoadMet) (u : Vat) (o : MemObj) (bs : List Byte) (st : Nat),
    CmdDue s r 0x31 c → s.hostOpen 0 = true → ownMouldLoad s c = 0 → s.vat? (cmdVatId c.bytes) = some u → u.state = .defined →
    s.obj? (hIdx (field c.bytes 0x18 4)) = some o → bs = s.container o (field c.bytes 0x10 8) → readStatus met.bad (o.piecesOf (field c.bytes 0x10 8) (min 128 (o.size - field c.bytes 0x10 8))) = st →
    st ≠ 0 → ∃ t st', exec (.mouldLoad r sig met) s = .next t ∧ t.vats = s.vats ∧ st' ∈ ([0x0560, 0x0561, 0x0562] : List Nat) ∧
      t.cmd? r = some { c with phase := .done, status := st' }))

/-- Binding (R133, R138, R139, R140, R275): BIND_RESERVE that finds room leaves the vat Reserved with its placement, or with 0x0155 Defined where the Mould's measurement is not the
descriptor's; BIND_COMPLETE of the same container with good tensors leaves the vat Bound with composition 1 and its alternates stored; of another container it gives
everything back with 0x0812.

It rests on choices of the model: log entries 16, 70, 71, 116, 117. -/
def Obligations.VatsAreBound : Prop :=
  (∀ (s s' : State) (r : CmdRef) (c : Cmd) (u : Vat) (m : Mould) (ps : SMap Placement), CmdDue s r 0x32 c → ownBindReserve s c = 0 →
    s.vat? (cmdVatId c.bytes) = some u → u.desc.vatId = cmdVatId c.bytes → u.mould = some m → s.bindStatus u m = 0 →
    State.reserveAll (cmdVatId c.bytes) m (u.reserveList m) s [] = (0, s', ps) → field c.bytes 0x10 2 % 4096 = 0 →
    u.role = .member → ∃ t, exec (.bindReserve r) s = .next t ∧
      t.vat? (cmdVatId c.bytes) = some { u with
        state := .reserved, place := mapGet Placement.empty ps 0, reserves := [], loader := 0, regionObj := [] } ∧
      t.mem = s'.mem ∧ t.cmd? r = some { c with phase := .done, status := 0 } ∧ t.cores = s.cores ∧ t.tick = s.tick) ∧
  (∀ (s : State) (r : CmdRef) (c : Cmd) (u : Vat) (m : Mould), CmdDue s r 0x32 c → ownBindReserve s c = 0 →
    s.vat? (cmdVatId c.bytes) = some u → u.mould = some m → m.measure ≠ u.desc.measure → ∃ t, exec (.bindReserve r) s = .next t ∧
      t.vats = s.vats ∧ t.mem = s.mem ∧ t.cmd? r = some { c with phase := .done, status := 0x0155 }) ∧
  (∀ (s : State) (r : CmdRef) (c : Cmd) (u : Vat) (m : Mould) (o : MemObj) (bs : List Byte), CmdDue s r 0x33 c →
    ownBindComplete s c = 0 → s.vat? (cmdVatId c.bytes) = some u → u.desc.vatId = cmdVatId c.bytes → u.mould = some m →
    s.regionsHeld c = false → u.regionObj = [] → s.obj? (hIdx (field c.bytes 0x18 4)) = some o → bs = s.container o (field c.bytes 0x10 8) →
    mouldMeasure bs = m.measure → (u.readsFor m).all (fun l => (checkDigests s.torus bs none l).isNone) = true → u.role = .member →
    s.checkTensors u m u.lpkg u.place = none → u.reserves = [] →
    u.place.clusters.all (fun k => decide ((s.retiredIn k).length < 2)) = true → ∃ t u', exec (.bindComplete ⟨r, .none⟩) s = .next t ∧
      t.vat? (cmdVatId c.bytes) = some u' ∧ u'.state = .bound ∧ u'.comp = 1 ∧ u'.chain = m.measure ∧
      u'.meter = ⟨s.tick.count, 0, 0⟩ ∧ u'.mould = some m ∧
      (∀ k q, k ∈ u.place.clusters → q < 17 → (s.core (k * 32 + q)).state ≠ .retired → (t.core (k * 32 + q)).vat = some (cmdVatId c.bytes)) ∧
      t.cmd? r = some { c with phase := .done, status := 0 } ∧ t.mem = (s.storeAlternates m u.lpkg u.place).mem ∧ t.tick = s.tick) ∧
  (∀ (s : State) (r : CmdRef) (c : Cmd) (u : Vat) (m : Mould) (o : MemObj), CmdDue s r 0x33 c → ownBindComplete s c = 0 →
    s.vat? (cmdVatId c.bytes) = some u → u.desc.vatId = cmdVatId c.bytes → u.mould = some m → s.regionsHeld c = false → u.regionObj = [] →
    s.obj? (hIdx (field c.bytes 0x18 4)) = some o → mouldMeasure (s.container o (field c.bytes 0x10 8)) ≠ m.measure →
    ∃ t u', exec (.bindComplete ⟨r, .none⟩) s = .next t ∧ t.vat? (cmdVatId c.bytes) = some u' ∧ u'.state = .defined ∧
      u'.place = Placement.empty ∧ (∀ f ∈ s.vatFrames (cmdVatId c.bytes), mapFind t.mem.frames f = none) ∧
      t.cmd? r = some { c with phase := .done, status := 0x0812 } ∧ t.cores = s.cores ∧ t.tick = s.tick)

/-- VAT_START and VAT_HALT at the head (R271, R272, R277): the start Tick is a multiple of `REFRESH_PERIOD` at least 64 Ticks away with every
lead kept; a halt falls on the next boundary, at every member that the head tells of it, and the command waits until every member has halted (log entry 18).

VAT_UNBIND and VAT_REMOULD (R273, R275, R277, R279): a Defined vat is removed at once; of a Running one the unbinding waits for the next boundary;
the command completes once every other package has removed the vat and this one too (log entry 18); a
remould by a usable move is prepared with every affected package awaited; a move that is not usable finishes with 0x0721.

It rests on choices of the model: log entries 19, 72, 111, 114. -/
def Obligations.VatsStartHaltAndRemould : Prop :=
  ((∀ (s : State) (r : CmdRef) (c : Cmd) (u : Vat) (m : Mould), CmdDue s r 0x35 c → ownVatStart s c = 0 →
    s.vat? (cmdVatId c.bytes) = some u → u.desc.vatId = cmdVatId c.bytes → u.mould = some m → gearOk m s.tick.gear = true →
    gearOk m s.tick.armed = true → (s.role (cmdVatId c.bytes)).started = none → ∃ t x, exec (.vatStart r [] none) s = .next t ∧
      x % max 1 (mRefreshPeriod m) = 0 ∧ s.tick.count + 64 + freezeLead (gearSteps m s.tick.gear) ≤ x ∧
      x < s.tick.count + 64 + freezeLead (gearSteps m s.tick.gear) + max 1 (mRefreshPeriod m) ∧
      t.vat? (cmdVatId c.bytes) = some { u with boundary := x, frozen := none } ∧
      t.role (cmdVatId c.bytes) = { s.role (cmdVatId c.bytes) with
        started := some x, haltAt := none, credit := 0, restFrom := some x, hangAt := none, haltCmds := [], allHalted := false } ∧
      t.cmd? r = some { c with phase := .done, status := 0 } ∧
      t = { s with vats := t.vats, roles := t.roles, objs := { s.objs with cmds := t.objs.cmds } }) ∧
  (∀ (s : State) (r : CmdRef) (c : Cmd) (u : Vat) (b : Nat), CmdDue s r 0x36 c → ownVatHalt s c = 0 →
    s.vat? (cmdVatId c.bytes) = some u → u.desc.vatId = cmdVatId c.bytes → u.state = .running → s.nextBoundary u = b →
    s.tick.count < b ∨ u.step.isSome = true → (s.role (cmdVatId c.bytes)).haltAt = none → ∃ t, exec (.vatHalt r .issued) s = .next t ∧
      t.role (cmdVatId c.bytes) = { s.role (cmdVatId c.bytes) with
        haltAt := some b, haltCmds := (s.role (cmdVatId c.bytes)).haltCmds ++ [r] } ∧
      t.cmd? r = some { c with phase := .waiting } ∧ t = { s with roles := t.roles, objs := { s.objs with cmds := t.objs.cmds } }) ∧
  (∀ (s : State) (r : CmdRef) (c : Cmd) (u : Vat), CmdDue s r 0x36 c → ownVatHalt s c = 0 → s.vat? (cmdVatId c.bytes) = some u →
    u.state = .halted → ∃ t, exec (.vatHalt r .issued) s = .next t ∧ t.cmd? r = some { c with phase := .done, status := 0 } ∧
      t = { s with objs := { s.objs with cmds := t.objs.cmds } }) ∧
  (∀ (s : State) (r : CmdRef) (vat b : Nat) (u : Vat), s.vat? vat = some u → u.role = .member → u.lpkg ≠ u.headLpkg → u.state = .running →
    s.tick.count < b ∨ u.step.isSome = true → (s.role vat).haltAt = none → ∃ t, exec (.vatHalt r (.order vat b)) s = .next t ∧
      t.role vat = { s.role vat with haltAt := some b } ∧ t = { s with roles := t.roles }) ∧
  (∀ (s : State) (r : CmdRef) (vat : Nat) (u : Vat), s.vat? vat = some u → u.state = .halted → (s.role vat).haltCmds ≠ [] →
    ∃ t, exec (.vatHalt r (.others vat)) s = .next t ∧ (t.role vat).haltCmds = [] ∧
      (∀ q c, q ∈ (s.role vat).haltCmds → s.cmd? q = some c → c.phase = .waiting → t.cmd? q = some { c with phase := .done, status := 0 }) ∧
      t = { s with roles := t.roles, objs := { s.objs with cmds := t.objs.cmds } })) ∧
  ((∀ (s : State) (r : CmdRef) (c : Cmd) (u : Vat), CmdDue s r 0x37 c → ownVatUnbind s c = 0 → s.vat? (cmdVatId c.bytes) = some u →
    u.state = .defined → (s.role (cmdVatId c.bytes)).unbind = [] → ∃ t, exec (.vatUnbind r .issued) s = .next t ∧ t.vat? (cmdVatId c.bytes) = none ∧
      (∀ v, v ≠ cmdVatId c.bytes → t.vat? v = s.vat? v) ∧ t.cmd? r = some { c with phase := .done, status := 0 } ∧
      t = { s with vats := t.vats, roles := t.roles, objs := { s.objs with cmds := t.objs.cmds } }) ∧
  (∀ (s : State) (r : CmdRef) (c : Cmd) (u : Vat), CmdDue s r 0x37 c → ownVatUnbind s c = 0 → s.vat? (cmdVatId c.bytes) = some u →
    u.desc.vatId = cmdVatId c.bytes → u.state = .running → (s.role (cmdVatId c.bytes)).remould = none →
    (s.role (cmdVatId c.bytes)).staged = none → u.moves = [] →
    (s.role (cmdVatId c.bytes)).haltAt = none → u.step.isSome = true → ∃ t, exec (.vatUnbind r .issued) s = .next t ∧
      (t.role (cmdVatId c.bytes)).haltAt = some (s.nextBoundary u) ∧ (t.role (cmdVatId c.bytes)).unbind = (s.role (cmdVatId c.bytes)).unbind ++ [r] ∧
      (t.role (cmdVatId c.bytes)).unbound = true ∧ t.vat? (cmdVatId c.bytes) = some u ∧ t.cmd? r = some { c with phase := .waiting } ∧
      t.cores = s.cores ∧ t.tick = s.tick) ∧
  (∀ (s : State) (r : CmdRef) (vat : Nat), (s.role vat).unbind ≠ [] → (s.role vat).unbound = false →
    ∃ t, exec (.vatUnbind r (.others vat)) s = .next t ∧ (t.role vat).unbind = [] ∧
      (∀ q c, q ∈ (s.role vat).unbind → s.cmd? q = some c → c.phase = .waiting → t.cmd? q = some { c with phase := .done, status := 0 }) ∧
      t = { s with roles := t.roles, objs := { s.objs with cmds := t.objs.cmds } }) ∧
  (∀ (s : State) (r : CmdRef) (x y : Bool) (c : Cmd) (u : Vat) (m : Mould), CmdDue s r 0x38 c → ownVatRemould s c = 0 →
    s.vat? (cmdVatId c.bytes) = some u → u.desc.vatId = cmdVatId c.bytes → u.mould = some m → field c.bytes 0x10 1 = 2 →
    field c.bytes 0x12 2 ∈ s.usableMoves u → ∃ t q, exec (.vatRemould ⟨r, x, y⟩) s = .next t ∧
      (t.role (cmdVatId c.bytes)).remould = some q ∧ q.kinds = [.move (field c.bytes 0x12 2)] ∧ q.auto = false ∧ q.ref = some r ∧
      q.phase = 0 ∧ q.affected = [(mMove m (field c.bytes 0x12 2)).1, 0xFFFF] ∧ t.cmd? r = some { c with phase := .waiting } ∧
      t = { s with roles := t.roles, objs := { s.objs with cmds := t.objs.cmds } }) ∧
  (∀ (s : State) (r : CmdRef) (x y : Bool) (c : Cmd) (u : Vat) (m : Mould), CmdDue s r 0x38 c → ownVatRemould s c = 0 →
    s.vat? (cmdVatId c.bytes) = some u → u.mould = some m → field c.bytes 0x10 1 = 2 → field c.bytes 0x12 2 ∉ s.usableMoves u →
    ∃ t, exec (.vatRemould ⟨r, x, y⟩) s = .next t ∧ t.cmd? r = some { c with phase := .done, status := 0x0721 } ∧
      t = { s with objs := { s.objs with cmds := t.objs.cmds } }))

/-- VAT_QUERY and metering (R291, R292, R307, R458): a query writes the 64-byte record, at once or when the host can be reached; an interim record is journalled each 16,777,216 Ticks of a
composition; METER_READ writes the unreleased records from a number on; METER_ACK journals the release of those up to a number.

Arbiters, commits (R153, R325, R326, R327, R331, R333, R334, R335): the burst a decision picks is granted, a grant taken from another stream counted for its context, no
burst at a channel in its refresh window; a burst past its wait limit is an event, counted once;
`QOS_COMMIT` puts every shadow field in force; `FUNC_COMMIT` puts an entry in force, or refuses it and changes none.

It rests on choices of the model: log entries 20, 39, 40, 81, 119. -/
def Obligations.MeteringAndArbiters : Prop :=
  ((∀ (s : State) (r : CmdRef) (c : Cmd) (u : Vat), CmdDue s r 0x39 c → ownVatQuery s c = 0 → s.vat? (cmdVatId c.bytes) = some u →
    ∃ t, exec (.vatQuery r) s = .next t ∧
      (s.hostOpen 0 = true → t.host = Memory.write s.host (field c.bytes 0x10 8) (s.vatRecord u) ∧ t.hp = s.hp) ∧
      (s.hostOpen 0 = false → t.host = s.host ∧ t.hp = { s.hp with posted := s.hp.posted ++ [(0, field c.bytes 0x10 8, s.vatRecord u)] }) ∧
      field (s.vatRecord u) 2 1 = u.state.code ∧ field (s.vatRecord u) 4 2 = u.lpkg % 2 ^ 16 ∧ field (s.vatRecord u) 8 4 = u.comp % 2 ^ 32 ∧
      t.cmd? r = some { c with phase := .done, status := 0 } ∧
      t = { s with host := t.host, hp := t.hp, qos := t.qos, objs := { s.objs with cmds := t.objs.cmds } }) ∧
  (∀ (s : State) (vat : Nat) (u : Vat), s.vat? vat = some u → 1 ≤ u.comp → u.state ≠ .washing → u.meter.first + 16777216 ≤ s.tick.count →
    s.meterFits = true → s.senior = 0 → s.jReach 0 = true → ∃ t, exec (.meterInterval vat) s = .next t ∧
      t.jdata = s.jdata ++ [.meter (s.meterRecord u 1 s.nextMeter)] ∧ t.vat? vat = some { u with meter := ⟨s.tick.count, 0, 0⟩ } ∧
      t.boot.meterTop = s.nextMeter ∧ t.boot.full = false ∧ t = { s with vats := t.vats, boot := t.boot, j0 := t.j0, j1 := t.j1 }) ∧
  (∀ (s : State) (r : CmdRef) (c : Cmd), CmdDue s r 0x3A c → s.hostOpen 0 = true → ∃ t, exec (.meterRead r) s = .next t ∧
    t.host = Memory.write s.host (field c.bytes 0x18 8)
      ((s.meters.filter fun b => decide (field c.bytes 0x10 4 ≤ field b 12 4)).take (field c.bytes 0x14 4)).flatten ∧
    t.cmd? r = some { c with phase := .done, status := 0 } ∧ t = { s with host := t.host, qos := t.qos, objs := { s.objs with cmds := t.objs.cmds } }) ∧
  (∀ (s : State) (r : CmdRef) (c : Cmd), CmdDue s r 0x3B c → s.senior = 0 → s.jReach 0 = true → ∃ t, exec (.meterAck r) s = .next t ∧
    t.jdata = s.jdata ++ [.meterAck (min (field c.bytes 0x10 4) s.boot.meterTop)] ∧ t.cmd? r = some { c with phase := .done, status := 0 } ∧
    t = { s with j0 := t.j0, j1 := t.j1, objs := { s.objs with cmds := t.objs.cmds } })) ∧
  ((∀ (s : State) (a : Nat) (q : ArbReq), a < 522 → s.arbFenced a = false → s.arbRefreshes a = false → (s.arb a).decide? s.qos.active.prio = some q →
    (∃ k, q.work = .command k) ∨ q.work = .traffic → (s.arb a).holder = none → (∀ e ∈ s.qos.arbs, ∀ y ∈ e.2.queue, y.held = 0) → ∃ t, exec (.arbiterDecision a) s = .next t ∧
      t.arb a = (s.arb a).grant a s.qos.active.prio s.qos.active.bursts q ∧ (∀ b, b ≠ a → t.arb b = s.arb b) ∧
      t.power = (match q.ref with
        | some k => (s.wheyUse k.ctx 3 (if a < 512 then 4 else 0)).power
        | none => s.power) ∧
      t = { s with qos := { s.qos with arbs := t.qos.arbs }, power := t.power }) ∧
  (∀ (s : State) (a : Nat) (q y : ArbReq) (k : CmdRef), a < 522 → s.arbFenced a = false → s.arbRefreshes a = false →
    (s.arb a).decide? s.qos.active.prio = some q → (∃ k, q.work = .command k) ∨ q.work = .traffic → (s.arb a).revoked q = some y →
    y.ref = some k → (s.ctx k.ctx).conf = false → ∃ t, exec (.arbiterDecision a) s = .next t ∧
      t.ctx k.ctx = { s.ctx k.ctx with preempts := sat32 (s.ctx k.ctx).preempts 1 } ∧ (∀ d, d ≠ k.ctx → t.ctx d = s.ctx d) ∧
      t = { s with objs := { s.objs with ctxs := t.objs.ctxs }, qos := t.qos, power := t.power }) ∧
  (∀ (s : State) (a : Nat), s.arbRefreshes a = true → exec (.arbiterDecision a) s = .next s) ∧
  (∀ (s : State) (a cls : Nat) (q : ArbReq), (s.arb a).queue = [q] → q.cls = cls →
    q.pastLimit s.tick.count (nth 0 s.qos.active.waitLimit cls) = true → mapFind s.qos.arbs a = some (s.arb a) → q.stream < s.qos.streams →
    ∃ t, exec (.waitLimitMiss a cls) s = .next t ∧ (t.arb a).queue.head? = some { q with late := q.late + 1 } ∧ t.qos.missed = true ∧
      t.qos.missedWt = sat32 s.qos.missedWt 1 ∧ (∃ e ∈ t.events, e.what = "GUARANTEE_MISSED" ∧ e.arg = a ∧ e.tick = s.tick.count) ∧
      t.cores = s.cores ∧ t.mem = s.mem ∧ t.tick = s.tick) ∧
  (∀ (s : State) (v : Nat), HostServed s → v % 2 = 1 → (∀ k, k < 3 → congBad s.qos.shadow k = false) →
    s.qos.shadow.congHi.length = 3 → s.qos.shadow.congLo.length = 3 →
    exec (.qosCommit v) s = .next { s with qos := { s.qos with active := s.qos.shadow } }) ∧
  (∀ (s : State) (f v : Nat), HostServed s → f < 64 → f ≠ 0 → v % 2 = 1 → s.funcRefused f (mapGet FuncCfg.zero s.qos.funcShad f) = false →
    ∃ t, exec (.funcCommit f v) s = .next t ∧ t.fn f = mapGet FuncCfg.zero s.qos.funcShad f ∧ (∀ g, g ≠ f → t.fn g = s.fn g) ∧
      t = { s with qos := { s.qos with funcAct := t.qos.funcAct } }) ∧
  (∀ (s : State) (f v : Nat), HostServed s → f < 64 → f ≠ 0 → v % 2 = 1 → s.funcRefused f (mapGet FuncCfg.zero s.qos.funcShad f) = true →
    exec (.funcCommit f v) s = .next { s with qos := { s.qos with refused := true } }))

/-- Competing claims (R354, stated whole): a Senior complex that receives a heartbeat with `SENIOR_CLAIM` set stays Senior where its epoch is
higher, or equal with the lower half number; else it becomes Junior in that Tick with the winner's epoch, and the heartbeat it sends next claims
nothing. -/
def Obligations.HigherEpochStaysSenior : Prop :=
  (∀ (s : State) (k epoch seq bridge : Nat), k < 2 → (s.cplx k).state = .senior → s.bridgesUp.contains bridge = true →
    (s.cplx k).epoch < epoch ∨ ((s.cplx k).epoch = epoch ∧ k = 1) → ∃ t, exec (.heartbeat (.good k) true epoch seq bridge) s = .next t ∧
      (t.cplx k).state = .junior ∧ (t.cplx k).epoch = epoch ∧ nth 0 (heartbeatBytes (t.cplx k) k) 2 = 0 ∧
      t.cplx (1 - k) = s.cplx (1 - k) ∧ t = { s with cc := t.cc }) ∧
  (∀ (s : State) (k epoch seq bridge : Nat), k < 2 → (s.cplx k).state = .senior → s.bridgesUp.contains bridge = true →
    epoch < (s.cplx k).epoch ∨ ((s.cplx k).epoch = epoch ∧ k = 0) → ∃ t, exec (.heartbeat (.good k) true epoch seq bridge) s = .next t ∧
      (t.cplx k).state = .senior ∧ (t.cplx k).epoch = (s.cplx k).epoch ∧ nth 0 (heartbeatBytes (t.cplx k) k) 2 = 1 ∧
      t.cplx (1 - k) = s.cplx (1 - k) ∧ t = { s with cc := t.cc })

/-- The watchdog (R352, stated whole): a write of `HB_SEQ` restarts it; 1,250 Ticks without one make the complex Lost with `LOSS_CAUSE` 0x05 and its
ALIVE signal falls. -/
def Obligations.WatchdogStopsComplex : Prop :=
  (∀ (s : State) (k v : Nat), k < 2 → (s.cplx k).runs = true → v < 2 ^ 32 → ∃ t, exec (.hbSeq k v) s = .next t ∧
    t.cplx k = { s.cplx k with hbSeq := v, wdTick := s.tick.count } ∧ t.cplx (1 - k) = s.cplx (1 - k) ∧ t = { s with cc := t.cc }) ∧
  (∀ (s : State) (k : Nat), k < 2 → (s.cplx k).serves = true → (s.cplx k).wdTick + 1250 ≤ s.tick.count →
    ∃ t, exec (.watchdogExpiry k) s = .next t ∧ (t.cplx k).state = .lost ∧ (t.cplx k).cause = 0x05 ∧ (t.cplx k).alive = false ∧
      (t.cplx k).lossTick = s.tick.count ∧ t.cplx (1 - k) = s.cplx (1 - k) ∧ t.vats = s.vats ∧ t.cores = s.cores ∧ t.tick = s.tick) ∧
  (∀ (s : State) (k : Nat), k < 2 → (s.cplx k).runs = true → s.tick.count < (s.cplx k).wdTick + 1250 → exec (.watchdogExpiry k) s = .next s)

/-- Loss and takeover (R348, R351, R353, R355): an error of a cache or a write of `SELF_FAIL` makes the complex Lost with its cause; a heartbeat goes
over every bridge in service each 16 Ticks; the survivor of a complex without ALIVE for 2 Ticks is Senior with the epoch after its own; when the
takeover is done it is counted and the PF error vector raised.

The split fence (R15, R353, R358, R359, R360): the loss of the last bridge, for which tenant commands with bytes in Half 1 wait and admin
commands with bytes there complete with 0x0701, or 64 Ticks without a heartbeat, puts a serving complex in the fence with the Active ports of
its half Fenced; RESUME by the Senior takes the ports back to Active, clears `SPLIT` and puts the other half out of service: its stacks are
out and a command with bytes there completes with 0x0701; REJOIN takes the ports of both back; DEVICE_RESET resets the device; a
`PEER_RESTART` of a Lost peer fences its domain, any other is refused, and so is every write to the group that the fence of complex 0 hides.

It rests on choices of the model: log entries 84, 85. -/
def Obligations.SeniorIsLostAndReplaced : Prop :=
  ((∀ (s : State) (k cause : Nat), k < 2 → (s.cplx k).runs = true → 1 ≤ cause → cause ≤ 3 → ∃ t, exec (.complexError k cause) s = .next t ∧
    (t.cplx k).state = .lost ∧ (t.cplx k).cause = cause ∧ (t.cplx k).alive = false ∧ (t.cplx k).lines = [] ∧
    t.cplx (1 - k) = s.cplx (1 - k) ∧ (t.cc.both = true ↔ s.cc.both = true ∨ (s.cplx (1 - k)).state = .lost) ∧ t.vats = s.vats ∧
    t.cores = s.cores ∧ t.tick = s.tick) ∧
  (∀ (s : State) (k v : Nat), k < 2 → (s.cplx k).runs = true → bit v 1 = true → ∃ t, exec (.selfFail k v) s = .next t ∧
    (t.cplx k).state = .lost ∧ (t.cplx k).cause = 0x06 ∧ (t.cplx k).alive = false ∧ t.cplx (1 - k) = s.cplx (1 - k) ∧ t.vats = s.vats ∧
    t.cores = s.cores ∧ t.tick = s.tick) ∧
  (∀ (s : State) (k : Nat), k < 2 → (s.cplx k).serves = true → (s.cplx k).hbSent + 16 ≤ s.tick.count → s.cc.bridge0 = true →
    s.cc.bridge1 = true → ∃ t, exec (.heartbeatSend k) s = .next t ∧ t.out = s.out ++
      [⟨"HEARTBEAT", 0, [k], heartbeatBytes (s.cplx k) k⟩, ⟨"HEARTBEAT", 1, [k], heartbeatBytes (s.cplx k) k⟩] ∧
      t.cplx k = { s.cplx k with hbSent := s.tick.count } ∧ t.cplx (1 - k) = s.cplx (1 - k) ∧ t = { s with out := t.out, cc := t.cc }) ∧
  (∀ (s : State) (k : Nat), k < 2 → (s.cplx k).state = .junior → (s.cplx k).split = false → (s.cplx k).peerGone = false →
    s.bridgesUp ≠ [] → s.peerDead k = true → (s.cplx (1 - k)).hadSenior = true → ∃ t, exec (.peerAliveLoss k) s = .next t ∧
      (t.cplx k).state = .senior ∧ (t.cplx k).epoch = ((s.cplx k).epoch + 1) % 2 ^ 32 ∧ (t.cplx k).taking = some s.tick.count ∧
      (∀ (r : CmdRef) (c : Cmd), s.cmd? r = some c → r.ctx = 0 → c.phase ≠ .done →
        t.cmd? r = some { c with phase := .done, status := 0x0730 }) ∧
      (∀ r, r.ctx ≠ 0 → t.cmd? r = s.cmd? r) ∧ t.vats = s.vats ∧ t.cores = s.cores ∧ t.tick = s.tick) ∧
  (∀ (s : State) (k : Nat), k < 2 → (s.cplx k).taking.isSome = true → ∃ t, exec (.takeoverDone k) s = .next t ∧
    (t.cplx k).takeovers = sat32 (s.cplx k).takeovers 1 ∧ (t.cplx k).taking = none ∧
    (∃ e ∈ t.events, e.what = "TAKEOVER" ∧ e.source = s.links.node * 256 + (4 + (1 - k))) ∧
    (t.msix = s.msix ++ [(0, 0)] ∨ (t.func 0).pends.contains 0 = true) ∧ t.vats = s.vats ∧ t.cores = s.cores ∧ t.tick = s.tick)) ∧
  ((∀ (s : State), s.cc.bridge0 = true → s.cc.bridge1 = false → (s.cplx 0).serves = true → (s.cplx 0).split = false →
    (s.cplx 1).serves = true → (s.cplx 1).split = false → (s.cplx 0).otherOut = false → (s.cplx 1).otherOut = false →
    ∃ t, exec (.bridgeDown 0) s = .next t ∧ t.cc.bridge0 = false ∧
      (∀ k, k < 2 → (t.cplx k).split = true) ∧ (∀ p, p < 8 → (s.port p).state = .active → (t.port p).state = .fenced) ∧
      (∀ p, p < 8 → (s.port p).state ≠ .active → t.port p = s.port p) ∧
      (∀ (r : CmdRef) (c : Cmd), s.cmd? r = some c → t.cmd? r = some
        (if c.phase = .ready ∧ (c.tiles.any fun x => x.pieces.any fun p => inHalf 1 p.1) = true then
          (if r.ctx = 0 then { c with phase := .done, status := 0x0701 } else { c with phase := .resolving }) else c)) ∧
      t = { s with cc := t.cc, links := t.links, keys := t.keys, objs := { s.objs with cmds := t.objs.cmds } }) ∧
  (∀ (s : State) (k : Nat), k < 2 → s.bridgesUp ≠ [] → s.peerDead k = false → s.beatsGone k = true → (s.cplx k).serves = true →
    (s.cplx k).split = false → ∃ t, exec (.heartbeatTimeout k) s = .next t ∧ (t.cplx k).split = true ∧
      (t.cplx (1 - k)).split = (s.cplx (1 - k)).split ∧ (∀ p ∈ halfPorts k, (s.port p).state = .active → (t.port p).state = .fenced) ∧
      (∀ p, p ∉ halfPorts k → t.port p = s.port p) ∧ t = { s with cc := t.cc, links := t.links, keys := t.keys }) ∧
  (∀ (s : State) (k : Nat), HostServed s → k < 2 → s.groupHidden k = false → (s.cplx k).split = true → (s.cplx k).state = .senior →
    ∃ t, exec (.splitResume k) s = .next t ∧ t.cplx k = { s.cplx k with split := false, otherOut := true } ∧
      t.cplx (1 - k) = s.cplx (1 - k) ∧ (∀ p ∈ halfPorts k, (s.port p).state = .fenced → (t.port p).state = .active) ∧
      (∀ p, p ∉ halfPorts k → t.port p = s.port p) ∧ (∀ q, q / 8 = 1 - k → t.mem.hbmOut.contains q = true) ∧
      (∀ (r : CmdRef) (c : Cmd), s.cmd? r = some c → t.cmd? r =
        some (if c.phase ≠ .done ∧ t.bytesOut c = true then { c with phase := .done, status := 0x0701 } else c)) ∧
      t = { s with cc := t.cc, links := t.links, out := t.out, mem := { s.mem with hbmOut := t.mem.hbmOut, copies := t.mem.copies }, objs := { s.objs with cmds := t.objs.cmds } }) ∧
  (∀ (s : State) (k : Nat), HostServed s → k < 2 → s.groupHidden k = false → s.mayRejoin k = true → ∃ t, exec (.splitRejoin k) s = .next t ∧
    (∀ j, j < 2 → (t.cplx j).split = false) ∧ (∀ p, p < 8 → (s.port p).state = .fenced → (t.port p).state = .active) ∧
    t = { s with cc := t.cc, links := t.links, keys := t.keys, j0 := t.j0, j1 := t.j1 }) ∧
  (∀ (s : State) (k : Nat), HostServed s → k < 2 → s.groupHidden k = false → (s.cplx k).split = true → ∃ t, exec (.splitDeviceReset k) s = .next t ∧
    DeviceCleared s t) ∧
  (∀ (s : State) (k v : Nat), HostServed s → k < 2 → v % 2 = 1 → s.groupHidden k = false → s.mayRestart k = true → ∃ t, exec (.peerRestart k v) s = .next t ∧
    t.fenced 3 (1 - k) = true ∧ t = { s with flt := t.flt }) ∧
  (∀ (s : State) (k v : Nat), HostServed s → k < 2 → v % 2 = 1 → s.mayRestart k = false →
    exec (.peerRestart k v) s = .next { s with cc := { s.cc with refused := true } }) ∧
  (∀ (s : State) (k v : Nat) (c : Instr), HostServed s → s.groupHidden k = true → c ∈ [.splitResume k, .splitRejoin k, .splitDeviceReset k, .peerRestart k v] →
    exec c s = .next { s with cc := { s.cc with refused := true } }))

/-- Coherence (R340, R341, R342, R343, R344, R345, R346): for a line no hart keeps and none waits on, served in the first cycle the directory is free for it, a read
miss takes the line in F from its supplier, in E where no cache holds it; an ownership request or a placing write leaves the one D copy, an LR the
one E copy; a store to E makes it D; an eviction of D writes back; an invalidating write merges its granules and leaves no copy; after a hold the
waiter that came first is served. A miss of a hart whose cache is full has no effect before an eviction; an access beyond control memory leaves
the hart in machine mode with its access fault.

It rests on choices of the model: log entry 46. -/
def Obligations.CachesStayCoherent : Prop :=
  (∀ (s : State) (k h l cy f : Nat), s.lineOk k l = true → h < 16 → (s.cplx k).cacheFull h = false → ((s.cplx k).line l).copies = [] →
    ((s.cplx k).line l).free = f → (s.cplx k).waiters = [] → ∃ t d, exec (.hartReadMiss k h l cy) s = .next t ∧ d = (((s.cplx k).line l).l2).getD (s.ctrlLine k l) ∧
      (t.cplx k).line l = ⟨[⟨h, .exclusive, d, max cy f + 64⟩], some d, max cy f + 1⟩ ∧
      (∀ m, m ≠ l → (t.cplx k).line m = (s.cplx k).line m) ∧ t.cplx (1 - k) = s.cplx (1 - k) ∧ t = { s with cc := t.cc }) ∧
  (∀ (s : State) (k h g l cy d e f : Nat), s.lineOk k l = true → h < 16 → (s.cplx k).cacheFull h = false → g ≠ h →
    ((s.cplx k).line l).copies = [⟨g, .dirty, d, e⟩] → ((s.cplx k).line l).free = f → e ≤ cy → (s.cplx k).waiters = [] → ∃ t, exec (.hartReadMiss k h l cy) s = .next t ∧
      (t.cplx k).line l = ⟨[⟨g, .shared, d, e⟩, ⟨h, .forward, d, 0⟩], some d, max cy f + 1⟩ ∧ t.cplx (1 - k) = s.cplx (1 - k) ∧
      t = { s with cc := t.cc }) ∧
  (∀ (s : State) (k h l data cy : Nat), s.lineOk k l = true → h < 16 → (s.cplx k).cacheFull h = false →
    ((s.cplx k).line l).copies.all (fun c => decide (c.state = .shared ∨ c.state = .forward)) = true → (s.cplx k).waiters = [] →
    data < 2 ^ 512 → ∃ t, exec (.ownershipRequest k h l (.store data) cy) s = .next t ∧
      ((t.cplx k).line l).copies = [⟨h, .dirty, data, max cy ((s.cplx k).line l).free + 64⟩] ∧ t.cplx (1 - k) = s.cplx (1 - k) ∧
      t = { s with cc := t.cc }) ∧
  (∀ (s : State) (k h l cy : Nat), s.lineOk k l = true → h < 16 → (s.cplx k).cacheFull h = false →
    ((s.cplx k).line l).copies.all (fun c => decide (c.state = .shared ∨ c.state = .forward)) = true → (s.cplx k).waiters = [] →
    ∃ t d, exec (.ownershipRequest k h l .lr cy) s = .next t ∧ d = (((s.cplx k).line l).l2).getD (s.ctrlLine k l) ∧
      ((t.cplx k).line l).copies = [⟨h, .exclusive, d, max cy ((s.cplx k).line l).free + 64⟩] ∧ t.cplx (1 - k) = s.cplx (1 - k) ∧
      t = { s with cc := t.cc }) ∧
  (∀ (s : State) (k h l data d e : Nat), s.lineOk k l = true → ((s.cplx k).line l).copies = [⟨h, .exclusive, d, e⟩] → data < 2 ^ 512 →
    ∃ t, exec (.storeToExclusiveLine k h l data) s = .next t ∧
      (t.cplx k).line l = { (s.cplx k).line l with copies := [⟨h, .dirty, data, e⟩] } ∧
      t.cplx (1 - k) = s.cplx (1 - k) ∧ t = { s with cc := t.cc }) ∧
  (∀ (s : State) (k h l cy d e : Nat), s.lineOk k l = true → ((s.cplx k).line l).copies = [⟨h, .dirty, d, e⟩] → e ≤ cy →
    ∃ t, exec (.lineEviction k h l cy) s = .next t ∧ (t.cplx k).line l = { (s.cplx k).line l with copies := [], l2 := some d } ∧
      t.cplx (1 - k) = s.cplx (1 - k) ∧ t = { s with cc := t.cc }) ∧
  (∀ (s : State) (k a h l data cy : Nat), s.lineOk k l = true → 16 ≤ a → a < 20 → h < 16 → ((s.cplx k).line l).kept cy = false →
    (s.cplx k).waiters = [] → data < 2 ^ 512 → ∃ t, exec (.placingWrite k a h l data cy false) s = .next t ∧
      ((t.cplx k).line l).copies = [⟨h, .dirty, data, max cy ((s.cplx k).line l).free + 64⟩] ∧ t.cplx (1 - k) = s.cplx (1 - k) ∧
      t = { s with cc := t.cc }) ∧
  (∀ (s : State) (k a l mask data cy d f : Nat), s.lineOk k l = true → 16 ≤ a → a < 20 → (s.cplx k).line l = ⟨[], some d, f⟩ →
    (s.cplx k).waiters = [] → data < 2 ^ 512 → ∃ t, exec (.invalidatingWrite k a l mask data cy) s = .next t ∧
      (t.cplx k).line l = ⟨[], some (mergeLine mask data d), max cy f + 1⟩ ∧ t.cplx (1 - k) = s.cplx (1 - k) ∧ t = { s with cc := t.cc }) ∧
  (∀ (s : State) (k h l data cy at' : Nat), s.lineOk k l = true → ((s.cplx k).line l).kept cy = false →
    (s.cplx k).waiters = [⟨l, h, at', .own data⟩] → data < 2 ^ 512 → ∃ t, exec (.holdExpiry k l cy) s = .next t ∧
      ((t.cplx k).line l).copies = [⟨h, .dirty, data, max cy ((s.cplx k).line l).free + 64⟩] ∧ (t.cplx k).waiters = [] ∧
      t = { s with cc := t.cc }) ∧
  (∀ (s : State) (k h l cy : Nat) (d : OwnReq), s.lineOk k l = true → ((s.cplx k).line l).copyOf h = none → (s.cplx k).cacheFull h = true →
    exec (.hartReadMiss k h l cy) s = .next s ∧ exec (.ownershipRequest k h l d cy) s = .next s) ∧
  (∀ (s : State) (k h l data cy : Nat), k < 2 → h < 16 → 2 ^ 24 ≤ l → l < 2 ^ 46 - 2 ^ 24 → (s.cplx k).runs = true → ∃ t u,
    exec (.hartReadMiss k h l cy) s = .next t ∧ exec (.ownershipRequest k h l (.store data) cy) s = .next u ∧
    (∃ x, mapFind (t.cplx k).harts h = some x ∧ x.machine = true ∧ x.cause = 5 ∧ x.tval = 0x40000000 + 64 * l) ∧
    (∃ x, mapFind (u.cplx k).harts h = some x ∧ x.machine = true ∧ x.cause = 7 ∧ x.tval = 0x40000000 + 64 * l) ∧
    (t.cplx k).lines = (s.cplx k).lines ∧ (u.cplx k).lines = (s.cplx k).lines ∧ t = { s with cc := t.cc } ∧ u = { s with cc := u.cc })

/-- An I/O read (R347, stated whole): the line comes from its D, E or F holder if one exists, else from the L2 as it holds or fills it; no line, copy,
request or byte changes, whatever hold stands. `lastRead` is the model's own record of what the read returned. -/
def Obligations.IoReadChangesNothing : Prop :=
  (∀ (s : State) (k a l : Nat) (g : CopyLine), s.lineOk k l = true → 16 ≤ a → a < 20 → ((s.cplx k).line l).supplier = some g →
    ∃ t, exec (.ioRead k a l) s = .next t ∧ t.cplx k = { s.cplx k with lastRead := g.data } ∧ t.cplx (1 - k) = s.cplx (1 - k) ∧
      t = { s with cc := t.cc }) ∧
  (∀ (s : State) (k a l : Nat), s.lineOk k l = true → 16 ≤ a → a < 20 → ((s.cplx k).line l).supplier = none →
    ∃ t, exec (.ioRead k a l) s = .next t ∧
      t.cplx k = { s.cplx k with lastRead := (((s.cplx k).line l).l2).getD (s.ctrlLine k l) } ∧ t.cplx (1 - k) = s.cplx (1 - k) ∧
      t = { s with cc := t.cc })

/-- The line states of R342 stay legal: at most one cache holds a line in F, E or D, and a line in E or D is held by no other, after any access to
a complex's lines if before it, with hits of the requester left out; and they are legal at reset. -/
def Obligations.LineStatesStayLegal : Prop :=
  LinesLegal State.reset ∧
  ∀ (s : State) (c : Instr), LinesLegal s →
    (∃ k h l cy, c = .hartReadMiss k h l cy) ∨ (∃ k h l d cy, c = .ownershipRequest k h l d cy) ∨
    (∃ k h l d, c = .storeToExclusiveLine k h l d) ∨ (∃ k h l cy, c = .lineEviction k h l cy) ∨ (∃ k l cy, c = .holdExpiry k l cy) ∨
    (∃ k a h l d cy w, c = .placingWrite k a h l d cy w) ∨ (∃ k a l m d cy, c = .invalidatingWrite k a l m d cy) ∨
    (∃ k a l, c = .ioRead k a l) →
    ∃ t, exec c s = .next t ∧ LinesLegal t

/-- Vault requests (R376, R391, R392): REPORT writes the report 64 bytes behind its nonce with the lifecycle state, the nonce, the node and the Tick Count
in their places; IDENT_EXPORT writes the identity of the fuse root in Green and ends with 0x0821 elsewhere; KEM_ROTATE draws a new pair; the end
of a request gives its status, clears `KV_BUSY` and raises vector 4.

Capsules (R366, R373, R374): an accepted VAT_SECRET fills the three lowest Empty slots with the weight, data and transport keys derived from the
secret and answers with the lowest; a capsule that fails a check fills none and answers with its status.

It rests on choices of the model: log entries 2, 86. -/
def Obligations.VaultServesAndFills : Prop :=
  ((∀ (s : State) (sig : List Byte), s.kvDue 0x01 = true → s.keys.lifecycle ≠ 3 → s.hostOpen 0 = true → ∃ t q, exec (.report sig) s = .next t ∧
    t.host = Memory.write s.host (s.keys.reqBus + 64) q ∧ field q 0 2 = 0x1000 ∧ field q 2 1 = s.keys.lifecycle % 256 ∧
    field q 8 2 = s.links.node % 65536 ∧ (q.drop 32).take 32 = Memory.read s.host s.keys.reqBus 32 ∧
    field q 64 8 = s.tick.count % 2 ^ 64 ∧ q.drop (q.length - 29792) = fitBytes 29792 sig ∧ t.keys.answer = some (0, 0) ∧
    t = { s with host := t.host, keys := t.keys }) ∧
  (∀ (s : State), s.kvDue 0x05 = true → s.keys.lifecycle = 0 → s.hostOpen 0 = true → ∃ t, exec .identExport s = .next t ∧
    t.host = Memory.write s.host s.keys.reqBus (devicePub s.fuses.root) ∧ t.keys = { s.keys with answer := some (0, 0) } ∧
    t = { s with host := t.host, keys := t.keys }) ∧
  (∀ (s : State), s.kvDue 0x05 = true → s.keys.lifecycle ≠ 0 →
    exec .identExport s = .next { s with keys := { s.keys with answer := some (0x0821, 0) } }) ∧
  (∀ (s : State), s.kvDue 0x04 = true → ∃ t, exec .kemRotate s = .next t ∧ t.keys.ek = s.freeBytes 1568 ∧ t.keys.dk.length = 3168 ∧
    t.keys.answer = some (0, 0) ∧ t = { s with
      keys := { s.keys with ek := t.keys.ek, dk := t.keys.dk, answer := t.keys.answer }, fresh := s.fresh + 4736 }) ∧
  (∀ (s : State) (st r : Nat), s.keys.answer = some (st, r) → s.keys.busy = true → ∃ t, exec .kvRequestEnd s = .next t ∧
    t.keys = { s.keys with reqOp := 0, busy := false, status := st, result := r, answer := none } ∧
    (t.msix = s.msix ++ [(0, 4)] ∨ (t.func 0).pends.contains 4 = true) ∧ t = { s with keys := t.keys, msix := t.msix, hp := t.hp, qos := t.qos })) ∧
  ((∀ (s : State) (ss a b c : Nat) (l : List Nat) (cap p : List Byte), s.kvDue 0x02 = true → s.hostOpen 0 = true →
    cap = Memory.read s.host s.keys.reqBus 1776 → s.capsuleStatus cap (leBytes 32 ss) = 0 → capKind cap = 1 →
    s.capsulePayload cap (leBytes 32 ss) = some p → s.emptySlots = a :: b :: c :: l → ∃ t, exec (.keyLoad ss) s = .next t ∧
      (t.slot a).kind = 4 ∧ (t.slot b).kind = 5 ∧ (t.slot c).kind = 6 ∧
      (∀ k ∈ [a, b, c], (t.slot k).state = .active ∧ (t.slot k).vat = capVat cap) ∧
      (t.slot a).key = derive (p.take 32) "KMV.WEIGHT" [] 64 ∧ (t.slot b).key = derive (p.take 32) "KMV.DATA" [] 64 ∧
      (t.slot c).key = derive (p.take 32) "KMV.XPORT" [] 32 ∧ (∀ k, k ∉ [a, b, c] → t.slot k = s.slot k) ∧
      (mapFind t.keys.secrets (capVat cap)).map (·.secret) = some (p.take 32) ∧ t.keys.answer = some (0, a) ∧
      t = { s with keys := t.keys }) ∧
  (∀ (s : State) (ss st : Nat), s.kvDue 0x02 = true → s.hostOpen 0 = true →
    s.capsuleStatus (Memory.read s.host s.keys.reqBus 1776) (leBytes 32 ss) = st → st ≠ 0 →
    exec (.keyLoad ss) s = .next { s with keys := { s.keys with answer := some (st, 0) } }))

/-- Retiring slots (R367): KEY_RETIRE begins the retirement of a SEAL slot at the Tick; 1,024 Ticks on its key is zeroised; 5,120 Ticks on it is
Empty.

The Wash (R384, R385): 1,024 Ticks after its start every frame it covers holds 0xA5; at its end, with no write left, the Wash is gone, its
frames are Free and what it covered of the caves is unowned; with writes left it is extended by 8,192 Ticks and counted.

It rests on choices of the model: log entries 87, 93. -/
def Obligations.KeysRetireAndFramesAreWashed : Prop :=
  ((∀ (s : State), s.kvDue 0x03 = true → (s.slot s.keys.arg).kind = 7 → (s.slot s.keys.arg).usable = true →
    ∃ t, exec .keyRetire s = .next t ∧
      t.slot s.keys.arg = { s.slot s.keys.arg with state := .retiring, retire := some s.tick.count } ∧
      (∀ k, k ≠ s.keys.arg → t.slot k = s.slot k) ∧ t.keys.answer = some (0, 0) ∧ t = { s with keys := t.keys }) ∧
  (∀ (s : State) (k x : Nat), (s.slot k).state = .retiring → (s.slot k).retire = some x → x + 1024 ≤ s.tick.count → (s.slot k).kind ≠ 5 →
    ∃ t, exec (.slotQuiet k) s = .next t ∧
      t.slot k = { s.slot k with state := .quiet, key := [], standby := none, old := none } ∧
      (∀ j, j ≠ k → t.slot j = s.slot j) ∧ t = { s with keys := { s.keys with slots := t.keys.slots }, objs := t.objs }) ∧
  (∀ (s : State) (k x : Nat), (s.slot k).state = .quiet → (s.slot k).retire = some x → x + 5120 ≤ s.tick.count →
    ∃ t, exec (.slotEmpty k) s = .next t ∧ t.slot k = KeySlot.none ∧ (∀ j, j ≠ k → t.slot j = s.slot j) ∧
      t = { s with keys := { s.keys with slots := t.keys.slots } })) ∧
  ((∀ (s : State) (w f : Nat) (x : Wash), mapFind s.keys.washes w = some x → x.pattern = false → x.start + 1024 ≤ s.tick.count →
    x.frames = [f] → f < 16 * 1430 → ∃ t, exec (.washPatternStart w) s = .next t ∧
      (∀ o, o < 2 ^ 25 → Memory.get t.mem.cells (f / 1430 * 2 ^ 36 + f % 1430 * 2 ^ 25 + o) = 0xA5) ∧
      (∀ a, a < f / 1430 * 2 ^ 36 + f % 1430 * 2 ^ 25 ∨ f / 1430 * 2 ^ 36 + (f % 1430 + 1) * 2 ^ 25 ≤ a →
        Memory.get t.mem.cells a = Memory.get s.mem.cells a) ∧
      mapFind t.keys.washes w = some { x with pattern := true } ∧ t = { s with mem := t.mem, keys := t.keys }) ∧
  (∀ (s : State) (w : Nat) (x : Wash), mapFind s.keys.washes w = some x → x.start + x.span ≤ s.tick.count → x.pattern = true →
    x.kind = .frames → ∃ t, exec (.washEnd w false) s = .next t ∧ mapFind t.keys.washes w = none ∧
      (∀ f ∈ x.frames, mapFind t.mem.frames f = none) ∧ (∀ f, f ∉ x.frames → mapFind t.mem.frames f = mapFind s.mem.frames f) ∧
      t.mem.cells = s.mem.cells ∧ t = { s with mem := t.mem, keys := { s.keys with washes := t.keys.washes } }) ∧
  (∀ (s : State) (w : Nat) (x : Wash), mapFind s.keys.washes w = some x → x.start + x.span ≤ s.tick.count → x.pattern = true →
    x.frames ≠ [] → ∃ t, exec (.washEnd w true) s = .next t ∧ mapFind t.keys.washes w = some { x with span := x.span + 8192 } ∧
      t.keys.extended = sat32 s.keys.extended 1 ∧ t.mem = s.mem ∧
      t = { s with keys := { s.keys with washes := t.keys.washes, extended := t.keys.extended } }))

/-- Domain resets (R396, R397, R398, R399, R405, R411): a request of a core fences it at the Tick with cause 0x0730; one of a stack a Running vat uses is refused; after
1,250 Ticks what is outstanding is answered; at its limit a dump is cut and written; when the reset is done the core clears and its fence is lifted, and a core whose
clearing has ended becomes what it clears for; a first
parity error of a cluster router fences the cluster.

It rests on choices of the model: log entries 41, 88. -/
def Obligations.DomainsAreReset : Prop :=
  (∀ (s : State) (c : Nat), HostServed s → coreOk c = true → s.cc.both = false → s.fenced 1 c = false → (s.core c).state = .spare →
    (s.core c).vat = none → ∃ t, exec (.domainResetRequest 1 c) s = .next t ∧
      t.core c = { s.core c with state := .fenced } ∧ (∀ d, d ≠ c → t.core d = s.core d) ∧
      t.flt = { s.flt with
        reqKind := 1, reqIndex := c, resets := s.flt.resets ++ [⟨1, c, 0x0730, s.tick.count, false, false⟩], lastCause := 0x0730
        lastTick := s.tick.count } ∧ t = { s with cores := t.cores, flt := t.flt }) ∧
  (∀ (s : State) (q v : Nat), HostServed s → q < 16 → s.cc.both = false → v ∈ s.stackVats q → s.runs v = true →
    exec (.domainResetRequest 5 q) s = .next { s with flt := { s.flt with reqKind := 5, reqIndex := q, refused := true } }) ∧
  (∀ (s : State) (k i : Nat) (r : DomReset), s.resetOf k i = some r → r.fence + 1250 ≤ s.tick.count → r.drained = false → k ≤ 4 →
    ∃ t, exec (.domainDrainTimeout k i) s = .next t ∧ t.resetOf k i = some { r with drained := true } ∧ t = { s with flt := t.flt }) ∧
  (∀ (s : State) (i : Nat) (r : DomReset), s.resetOf 1 i = some r → r.dumped = false → r.fence + 12500 ≤ s.tick.count →
    s.flt.dumpLen ≠ 0 → s.hostOpen 0 = true → ∃ t bs, exec (.dumpLimit 1 i) s = .next t ∧
      t.resetOf 1 i = some { r with dumped := true } ∧ t.host = Memory.write s.host s.flt.dumpBus bs ∧ bs.length ≤ s.flt.dumpLen ∧
      t.flt.dumpSeq = s.flt.dumpSeq + 1 ∧ t = { s with host := t.host, flt := t.flt, fresh := t.fresh }) ∧
  (∀ (s : State) (c : Nat) (r : DomReset), s.resetOf 1 c = some r → r.kind = 1 → r.index = c → r.dumped = true → (s.core c).state = .fenced →
    (s.core c).vat = none → ∃ t, exec (.domainResetDone 1 c) s = .next t ∧ (t.core c).state = .clearing ∧ (t.core c).after = .spare ∧
      (t.core c).clearEnd = s.clearUntil ∧ (t.core c).bank = [] ∧ (t.core c).acc = [] ∧ (t.core c).vregs = [] ∧
      (∀ d, d ≠ c → t.core d = s.core d) ∧
      t.flt = { s.flt with resets := s.flt.resets.filter fun x => decide (x ≠ r) } ∧ t = { s with cores := t.cores, flt := t.flt }) ∧
  (∀ (s : State) (c : Nat), (s.core c).state = .clearing →
    s.settleCores.core c = (if (s.core c).clearEnd ≤ s.tick.count then { s.core c with state := (s.core c).after } else s.core c)) ∧
  (∀ (s : State) (r : Nat), r < 1024 → routerOk r = true → (s.router r).faulted = false → 7 ≤ s.boot.stage → s.routerErrors r = 0 →
    s.senior = 0 → s.fenced 2 (r / 32) = false → ∃ t, exec (.routerParityError r) s = .next t ∧ t.fenced 2 (r / 32) = true ∧
      t.jdata = s.jdata ++ [.routerError r s.tick.count] ∧ t.routers = s.routers ∧ t.mem = s.mem ∧ t.tick = s.tick)

/-- Device resets (R390, R395, R397, R401, R430, R490, R492, R493): a request of kind 0xF, a boundary unmarked at its limit, each tamper event and the reset inputs
bring every unit to its reset value; a tamper event is journalled and wipes the vaults; with both inputs high boot begins at stage 1 with the
lifecycle state the fuses give.

It rests on choices of the model: log entries 5, 6, 50, 88. -/
def Obligations.DeviceIsReset : Prop :=
  (∀ (s : State), HostServed s → ∃ t, exec .deviceResetRequest s = .next t ∧ DeviceCleared s t) ∧
  (∀ (s : State) (vat a : Nat), (s.role vat).hangAt = some a → a ≤ s.tick.count →
    ∃ t, exec (.stepHang vat) s = .next t ∧ DeviceCleared s t) ∧
  (∀ (s : State) (ns : Nat), s.pins.armed = true → 1000 ≤ ns → s.senior = 0 → ∃ t, exec (.tamperPin ns) s = .next t ∧
    DeviceCleared s t ∧ JData.tamper 1 s.tick.count ∈ t.jdata ∧ t.keys.secrets = [] ∧ t.keys.dk = []) ∧
  (∀ (s : State) (rail mv ns lo hi : Nat), s.pins.watched rail = true → railLimits rail = some (lo, hi) → mv < lo ∨ hi < mv → 1000 ≤ ns →
    s.senior = 0 → ∃ t, exec (.supplyTamper rail mv ns) s = .next t ∧ DeviceCleared s t ∧ JData.tamper 2 s.tick.count ∈ t.jdata) ∧
  (∀ (s : State) (p g : Nat), s.pins.armed = true → p < 20 ∨ g < 60 → s.senior = 0 → ∃ t, exec (.tickGlitch p g) s = .next t ∧
    DeviceCleared s t ∧ JData.tamper 3 s.tick.count ∈ t.jdata) ∧
  (∀ (s : State) (d : Int), s.pins.armed = true → d < -20 → s.senior = 0 → ∃ t, exec (.coldTamper d) s = .next t ∧
    DeviceCleared s t ∧ JData.tamper 4 s.tick.count ∈ t.jdata) ∧
  (∀ (s : State), ∃ t, exec .pwrgdFall s = .next t ∧ DeviceCleared s t ∧ t.pins.pwrgd = false ∧ t.pins.armed = false ∧
    t.boot.stage = 0 ∧ t.j0 = s.j0 ∧ t.j1 = s.j1 ∧ t.fuses = s.fuses) ∧
  (∀ (s : State), ∃ t, exec .perstNAssert s = .next t ∧ DeviceCleared s t ∧ t.pins.perstN = false ∧ t.boot.stage = 0 ∧ t.j0 = s.j0 ∧
    t.j1 = s.j1 ∧ t.fuses = s.fuses) ∧
  (∀ (s : State) (a : Nat), s.pins.pwrgd = false ∨ s.pins.perstN = false → s.pins.trip = false →
    ∃ t, exec (.resetRelease a) s = .next t ∧ t.boot.stage = 1 ∧ t.pins.straps = a % 16 ∧ t.pins.armed = true ∧
      t.keys.lifecycle = t.fuses.state ∧ (t.cplx 0).state = .booting ∧ (t.cplx 1).state = .booting ∧ t.vats = s.vats ∧ t.mem = s.mem)

/-- The host port (R398, R462, R465, R466, R471, R472): a hot reset, a PF FLR or an uncorrectable error fences the port, puts its functions at their reset values and every queue
in Error; a VF FLR tears its contexts down; a function in D3hot or without Bus Master Enable is recorded so; unmasking a pending vector sends its message.

The CXL ports (R476, R477, R478, R479): `PORT_ENABLE` of 1 starts training, of 0 without a live extent turns the port off; a trained port is Active with its devices; `POOL_ID`
is written where no extent of the device is live.

It rests on choices of the model: log entries 48, 49, 94, 95, 96. -/
def Obligations.HostAndCxlPortsFollowEvents : Prop :=
  ((∀ (s : State) (c : Instr), c = .pcieHostReset ∨ c = .pfFlr → 2 ≤ s.boot.stage → s.fenced 7 0 = false → ∃ t, exec c s = .next t ∧
    t.flt.resets = s.flt.resets ++ [⟨7, 0, 0x0730, s.tick.count, false, false⟩] ∧ t.hp.funcs = [] ∧ t.hp.numVfs = 0 ∧ t.hp.rate = 0 ∧
    t.hp.resets = sat32 s.hp.resets 1 ∧
    (∀ (k q : Nat), q < 16 → ∀ (u : Queue), s.queue? k q = some u → (t.queue? k q).map (·.error) = some true) ∧ t.mem = s.mem ∧
    t.vats = s.vats ∧ t.cores = s.cores ∧ t.tick = s.tick) ∧
  (∀ (s : State), 2 ≤ s.boot.stage → exec (.hostPortError false) s = .next { s with hp := { s.hp with ce := sat32 s.hp.ce 1 } }) ∧
  (∀ (s : State), 2 ≤ s.boot.stage → s.fenced 7 0 = false → ∃ t, exec (.hostPortError true) s = .next t ∧ t.fenced 7 0 = true ∧
    t.hp.ue = sat32 s.hp.ue 1 ∧ t.hp.funcs = [] ∧ t.vats = s.vats ∧ t.cores = s.cores ∧ t.tick = s.tick) ∧
  (∀ (s : State) (f : Nat), 1 ≤ f → f < 64 → ∃ t, exec (.vfFlr f) s = .next t ∧ t.func f = Func.reset ∧
    (∀ c, c ≠ 0 → (s.ctx c).function = f → (s.ctx c).state = .active → (t.ctx c).state = .tearing) ∧
    (∀ g, g ≠ f → t.func g = s.func g) ∧ t.cores = s.cores ∧ t.tick = s.tick) ∧
  (∀ (s : State) (f : Nat), f < 64 → ∃ t, exec (.d3hotEntry f) s = .next t ∧ t.func f = { s.func f with d3 := true } ∧
    (∀ g, g ≠ f → t.func g = s.func g) ∧ t = { s with hp := { s.hp with funcs := t.hp.funcs } }) ∧
  (∀ (s : State) (f : Nat), 1 ≤ f → f < 64 → (s.func f).d3 = true → ∃ t, exec (.d3hotExit f) s = .next t ∧ t.func f = Func.reset ∧
    (∀ c, c ≠ 0 → (s.ctx c).function = f → (s.ctx c).state = .active → (t.ctx c).state = .tearing) ∧ t.cores = s.cores ∧
    t.tick = s.tick) ∧
  (∀ (s : State) (v : Nat), v % 2 = 0 → ∃ t, exec (.busMasterEnable 0 v) s = .next t ∧ t.func 0 = { s.func 0 with bme := false } ∧
    (∀ g, t.hostOpen g = false) ∧ t = { s with hp := { s.hp with funcs := t.hp.funcs } }) ∧
  (∀ (s : State) (f k : Nat), HostServed s → (s.func f).d3 = false → f < 64 → k < vectorsOf f → s.hostOpen f = true →
    ((s.func f).entry k).2.2 = true → (s.func f).pends = [k] → ∃ t, exec (.msixUnmask f k) s = .next t ∧ t.msix = s.msix ++ [(f, k)] ∧
      (t.func f).pends = [] ∧ (t.func f).entry k = (((s.func f).entry k).1, ((s.func f).entry k).2.1, false) ∧
      t = { s with hp := t.hp, msix := t.msix, qos := t.qos })) ∧
  ((∀ (s : State) (p v : Nat), HostServed s → p < 4 → v % 2 = 1 → (s.cxlPort p).state = 0 → s.fenced 6 p = false →
    ∃ t, exec (.portEnable p v) s = .next t ∧ t.cxlPort p = { s.cxlPort p with enable := true, state := 1 } ∧
      (∀ q, q ≠ p → t.cxlPort q = s.cxlPort q) ∧ t = { s with cxlPorts := t.cxlPorts }) ∧
  (∀ (s : State) (p v : Nat), HostServed s → p < 4 → v % 2 = 0 → s.extentsLive (fun e => decide (e.port = p)) = false →
    ∃ t, exec (.portEnable p v) s = .next t ∧ (t.cxlPort p).enable = false ∧ (t.cxlPort p).state = 0 ∧
      (∀ d, d < 8 → (t.cxlDev (8 * p + d)).state = 0) ∧ (∀ q, q ≠ p → t.cxlPort q = s.cxlPort q) ∧
      t = { s with cxlPorts := t.cxlPorts, cxlDevs := t.cxlDevs }) ∧
  (∀ (s : State) (p w r d k n b : Nat), p < 4 → (s.cxlPort p).state = 1 → w < 256 → r < 16 → d < 8 → 1 ≤ k → k ≤ 3 → n < 2 ^ 64 →
    b ≤ 2 ^ 39 → ∃ t, exec (.cxlPortTrained p w r [(d, k, n, b)]) s = .next t ∧
      t.cxlPort p = { s.cxlPort p with state := 2, width := w, rate := r } ∧
      t.cxlDev (8 * p + d) = { s.cxlDev (8 * p + d) with kind := k, state := 2, serial := n, dcBytes := b } ∧
      t = { s with cxlPorts := t.cxlPorts, cxlDevs := t.cxlDevs }) ∧
  (∀ (s : State) (p d v : Nat), HostServed s → p < 4 → d < 8 → v < 2 ^ 32 →
    s.extentsLive (fun e => decide (e.port = p ∧ e.dev = d)) = false → ∃ t, exec (.poolId p d v) s = .next t ∧
      t.cxlDev (8 * p + d) = { s.cxlDev (8 * p + d) with pool := v / 65536 } ∧
      (∀ k, k ≠ 8 * p + d → t.cxlDev k = s.cxlDev k) ∧ t = { s with cxlDevs := t.cxlDevs }))

/-- Estimates and records (R417, R420, R422, R431): at the end of a period P is (V / Vcal)^2 (static + dynamic), times 1.12 under the guard band, and its energy
is integrated; a period above the record's tag sets the guard band; a qualified frame writes the gear's new record.

The update of the rest fraction (R425): over the cap f rises by the ceiling of (A − cap) 64 / cap, at least 1, up to fmax; below 97 % of it and no hotter
than the threshold f falls by 1. Said between two gear changes and before the first record of a boot (R420), when no gear is requested.

It rests on choices of the model: log entries 42, 43, 47, 92, 96. -/
def Obligations.PowerIsEstimatedAndCapped : Prop :=
  ((∀ (s : State) (n : List Nat) (r : CalRec), s.tick.count % 32 = 0 → mapFind s.power.cals s.tick.gear = some r → s.vats = [] → s.power.whey = [] →
    s.power.refit = false → loadClass (s.dynamicW r n) ≤ r.tag → ∃ t, exec (.powerEstimate n) s = .next t ∧
      t.power.est = Frac.add (Frac.mul (s.vScale r) (r.staticW (tempDie s.power.temps))) (s.dynamicW r n) ∧
      t.power.cls = loadClass (s.dynamicW r n) ∧ t.power.guardOn = false ∧ t.power.stale = false ∧ t.power.ests.getLast? = some t.power.est ∧
      t.power.energy = Frac.add s.power.energy (Frac.mul t.power.est (Frac.of 256 100)) ∧ t.power.cals = s.power.cals ∧
      t.power.rest = s.power.rest ∧ t = { s with power := t.power, fresh := t.fresh }) ∧
  (∀ (s : State) (n : List Nat) (r : CalRec), s.tick.count % 32 = 0 → mapFind s.power.cals s.tick.gear = some r → s.vats = [] → s.power.whey = [] →
    r.tag < loadClass (s.dynamicW r n) → ∃ t, exec (.powerEstimate n) s = .next t ∧
      t.power.est = Frac.mul (Frac.add (Frac.mul (s.vScale r) (r.staticW (tempDie s.power.temps))) (s.dynamicW r n)) (Frac.of 112 100) ∧
      t.power.guardOn = true ∧ t.power.stale = true ∧ t.power.refit = true ∧ (s.power.refit = true → t.events = s.events) ∧
      t = { s with power := t.power, fresh := t.fresh, events := t.events, seqs := t.seqs }) ∧
  (∀ (s : State) (dw tc l : Nat) (ws : List Nat), s.tick.count % 65536 = 0 → s.power.refit = true → s.power.frameLow = some l → l ≤ 1 →
    dw < 65536 → tc < 65536 → ws.length = 8 → (∀ w ∈ ws, w < 2 ^ 32) → ∃ t, exec (.recalibration dw tc ws) s = .next t ∧
      mapFind t.power.cals s.tick.gear = some ⟨l, s.tick.gear, s.milliVolt, s.tick.count, dw, tc, ws⟩ ∧ t.power.refit = false ∧
      (∀ g, g ≠ s.tick.gear → mapFind t.power.cals g = mapFind s.power.cals g) ∧ t = { s with power := t.power, j0 := t.j0, j1 := t.j1 })) ∧
  ((∀ (s : State), s.tick.count % 32768 = 0 → s.power.firstCal = false → s.power.halve = false →
    Frac.lt (Frac.nat s.power.active.cap) s.power.average = true →
    ∃ t, exec .capUpdate s = .next t ∧
      t.power.rest = min (s.power.rest + max 1 ((Frac.mul (Frac.sub s.power.average (Frac.nat s.power.active.cap)) (Frac.nat 64)).divNat
        s.power.active.cap).ceil) (if s.power.active.fixed ∨ s.lowerGear = none then 60 else s.power.active.restMax) ∧
      (60 ≤ t.power.rest → t.power.unmet = true) ∧ t = { s with power := t.power, events := t.events, seqs := t.seqs, out := t.out }) ∧
  (∀ (s : State), s.tick.count % 32768 = 0 → s.power.firstCal = false → s.power.halve = false → 0 < s.power.rest → s.power.rest ≤ 60 →
    Frac.lt (Frac.nat s.power.active.cap) s.power.average = false → tempOver s.power.temps s.power.active.throttle = false →
    Frac.lt s.power.average (Frac.mul (Frac.nat s.power.active.cap) (Frac.of 97 100)) = true →
    ∃ t, exec .capUpdate s = .next t ∧ t.power.rest = s.power.rest - 1 ∧ t.events = s.events ∧
      t = { s with power := t.power, out := t.out }) ∧
  (∀ (s : State) (v : Nat), HostServed s → v % 2 = 1 → exec (.pwrCommit v) s =
    .next { s with power := { s.power with active := s.power.shadow, floorNext := s.power.floorShad } }) ∧
  (∀ (s : State), s.tick.count % 1250000 = 0 → ∃ t, exec .tenantPowerWindow s = .next t ∧ t.power.floorAct = s.power.floorNext ∧
    t.power.window = [] ∧ t.power.est = s.power.est ∧ t.power.energy = s.power.energy ∧ t = { s with power := t.power } ∧
    (∀ c x, mapFind s.objs.ctxs c = some x → (s.washedParts).contains (s.partOf c) = false →
      mapGet 0 t.power.tenantW c = min 65535 (tenantWatts (mapGet Frac.zero s.power.window c))) ∧
    (∀ k, k < 16 → mapGet 0 t.power.floorAct k ≤ mapGet 0 t.power.partW k)))

/-- Thermal limits (R430): readings move the package between Normal and Throttle; Hot sets `HOT_SEEN` and requests gear 32 at once; a Trip asserts the output and
resets the device; 65,536 cool Ticks end Hot and restate the request before it. -/
def Obligations.ThermalLimitsAct : Prop :=
  (∀ (s : State) (x : Temps), s.pins.trip = false → s.pins.released = true → tempTrip x = false → tempHot x = false → s.power.therm ≠ 2 →
    ∃ t, exec (.temperatureChange x) s = .next t ∧ t.power.temps = x ∧
      t.power.therm = (if tempOver x s.power.throttleC then 1 else 0) ∧ t.power.standing = s.power.standing ∧
      t = { s with power := t.power }) ∧
  (∀ (s : State) (x : Temps), s.pins.trip = false → s.pins.released = true → tempTrip x = false → tempHot x = true → s.power.therm ≠ 2 →
    ∃ t, exec (.temperatureChange x) s = .next t ∧ t.power.temps = x ∧ t.power.therm = 2 ∧ t.power.hotSeen = true ∧
      t.power.standing = some ⟨32, false, true, false⟩ ∧ t.vats = s.vats ∧ t.cores = s.cores ∧ t.mem = s.mem ∧ t.objs = s.objs) ∧
  (∀ (s : State) (x : Temps), s.pins.trip = false → s.pins.released = true → tempTrip x = true →
    ∃ t, exec (.temperatureChange x) s = .next t ∧ DeviceCleared s t ∧ t.pins.trip = true ∧ t.boot.stage = 0) ∧
  (∀ (s : State) (a : Nat), s.power.therm = 2 → s.power.coolFrom = some a → a + 65536 ≤ s.tick.count → s.boot.state ≠ .starting →
    (∀ m, s.power.beforeHot = some m → m.drop = false) → ∃ t, exec .hotExit s = .next t ∧
      t.power.therm = (if tempOver s.power.temps s.power.throttleC then 1 else 0) ∧ t.power.standing = s.power.beforeHot ∧
      t.power.coolFrom = none ∧ t.vats = s.vats ∧ t.cores = s.cores ∧ t.mem = s.mem ∧ t.objs = s.objs)

/-- R433: writing 1 to `CELLAR_REQ` is refused, with `CELLAR_REFUSED` set and nothing changed, while a vat is Running, Remoulding or Washing, a Wash of
memory-object frames or a domain reset is in progress, or the package is not Awake; written while Waking it is ignored (R435). A
request that nothing refuses turns every link port Off and stands as Entering (R434). -/
def Obligations.CellarRefusals : Prop :=
  (∀ (s : State) (v : Nat), HostServed s → v % 2 = 1 → s.power.cellar ≠ .waking →
    (∃ p ∈ s.vats, p.2.state = .running ∨ p.2.state = .remoulding ∨ p.2.state = .washing) ∨ (∃ w ∈ s.keys.washes, w.2.kind = .frames) ∨
      s.flt.resets ≠ [] ∨ s.power.cellar ≠ .awake →
    exec (.cellarReq v) s = .next { s with power := { s.power with cellarNo := true } }) ∧
  (∀ (s : State) (v : Nat), HostServed s → s.power.cellar = .waking → exec (.cellarReq v) s = .next s) ∧
  (∀ (s : State) (v : Nat), HostServed s → v % 2 = 1 → s.power.cellar = .awake → s.flt.resets = [] → (∀ w ∈ s.keys.washes, w.2.kind ≠ .frames) →
    (∀ p ∈ s.vats, p.2.state ≠ .running ∧ p.2.state ≠ .remoulding ∧ p.2.state ≠ .washing) →
    ∃ t, exec (.cellarReq v) s = .next t ∧ t.power = { s.power with cellar := .entering, cellarAt := s.tick.count } ∧
      (∀ k, k < 8 → (t.port k).state = .off) ∧ t = { s with power := t.power, links := t.links })

/-- Cellar (R434, R435): with no command in dispatch and the pairs closed
the dies power off; an exit wakes the package; once awake every core is clearing, to be of its vat again or spare.

It rests on choices of the model: log entry 90. -/
def Obligations.CellarComesAndGoes : Prop :=
  (∀ (s : State), s.power.cellar = .entering → (∀ c ∈ s.objs.cmds, c.phase = .held) → s.links.pairs = 0 → s.links.moving = [] →
    ∃ t, exec .cellarEntryDone s = .next t ∧ t.power = { s.power with cellar := .cellar } ∧
      (∀ c, (s.core c).state ≠ .retired → (t.core c).state = .off ∧ (t.core c).bank = [] ∧ (t.core c).vregs = []) ∧
      t = { s with power := t.power, cores := t.cores, pins := t.pins }) ∧
  (∀ (s : State) (v : Nat), HostServed s → v % 2 = 1 → s.power.cellar = .cellar → ∃ t, exec (.cellarExit v) s = .next t ∧
    t.power = { s.power with cellar := .waking, cellarAt := s.tick.count } ∧ t = { s with power := t.power, pins := t.pins }) ∧
  (∀ (s : State), s.power.cellar = .waking → ∃ t, exec .cellarWakeDone s = .next t ∧ t.power.cellar = .awake ∧
    (∀ c, coreOk c = true → (s.core c).state ≠ .retired →
      (t.core c).state = .clearing ∧ (t.core c).after = s.serves c ∧ (t.core c).clearEnd = s.clearUntil ∧ (t.core c).bank = [] ∧
      (t.core c).acc = [] ∧ (t.core c).vregs = [] ∧ (t.core c).vat = (s.core c).vat) ∧
    t = { s with power := t.power, cores := t.cores, pins := t.pins })

/-- The stages of boot (R441, R442, R445): each of the first four ends in the next, the fourth in AwaitStarter with the failed stacks out; a failure, or the limit
of a stage, leaves the package Failed with the stage's error; `STARTER_GO` starts verifying.

It rests on choices of the model: log entries 6, 91. -/
def Obligations.BootStages : Prop :=
  (∀ (s : State) (r : StageResult), s.boot.state = .preparing → s.boot.stage = 1 → r.ok = true → r.journalLost = [] →
    ∃ t, exec (.bootStageDone r) s = .next t ∧ t.boot.state = .preparing ∧ t.boot.stage = 2 ∧ t.boot.degraded = false ∧
      t = { s with boot := t.boot, hp := t.hp, pins := t.pins, fresh := t.fresh, j0 := t.j0, j1 := t.j1 }) ∧
  (∀ (s : State) (r : StageResult), s.boot.state = .preparing → s.boot.stage = 2 → r.ok = true → s.tick.lock = .locked →
    ∃ t, exec (.bootStageDone r) s = .next t ∧ t.boot = { s.boot with stage := 3 } ∧
      t = { s with boot := t.boot, pins := t.pins, power := t.power }) ∧
  (∀ (s : State) (r : StageResult), s.boot.state = .preparing → s.boot.stage = 3 → r.ok = true → ∃ t, exec (.bootStageDone r) s = .next t ∧
    t.boot = { s.boot with stage := 4 } ∧ t.cc.bridge0 = true ∧ t.cc.bridge1 = true ∧ t = { s with boot := t.boot, cc := t.cc }) ∧
  (∀ (s : State) (r : StageResult), s.boot.state = .preparing → s.boot.stage = 4 → r.ok = true → 0 ∉ r.hbmFailed → 8 ∉ r.hbmFailed →
    ∃ t, exec (.bootStageDone r) s = .next t ∧ t.boot = { s.boot with state := .awaitStarter, stage := 5 } ∧
      (∀ q, q < 16 → (q ∈ t.mem.hbmOut ↔ q ∈ r.hbmFailed)) ∧ t = { s with boot := t.boot, mem := { s.mem with hbmOut := t.mem.hbmOut } }) ∧
  (∀ (s : State) (r : StageResult), s.boot.state = .preparing → s.boot.stage = 4 → 0 ∈ r.hbmFailed ∨ 8 ∈ r.hbmFailed →
    exec (.bootStageDone r) s = .next { s with boot := { s.boot with state := .failed, error := 0x12 } }) ∧
  (∀ (s : State) (k e : Nat), (k, e) ∈ [(1, 0x13), (2, 0x10), (3, 0x11), (4, 0x12)] → s.boot.state = .preparing → s.boot.stage = k →
    exec .bootStageTimeout s = .next { s with boot := { s.boot with state := .failed, error := e } } ∧
      (∀ r : StageResult, r.ok = false → ∃ t, exec (.bootStageDone r) s = .next t ∧ (k ≠ 1 → t.hp = s.hp ∧ t.fresh = s.fresh) ∧
        t = { s with boot := { s.boot with state := .failed, error := e }, hp := t.hp, fresh := t.fresh })) ∧
  (∀ (s : State), s.boot.state = .verifying → exec .bootStageTimeout s = .next
    { s with boot := { s.boot with state := .awaitStarter, error := 0x14, stage := 5, bringup := 0 } }) ∧
  (∀ (s : State), s.boot.state = .starting → exec .bootStageTimeout s = .next
    { s with boot := { s.boot with state := .failed, error := if s.tick.aligned then 0x17 else 0x16 } }) ∧
  (∀ (s : State) (v : Nat), (s.func 0).d3 = false → v % 2 = 1 → s.boot.state = .awaitStarter →
    exec (.starterGo v) s = .next { s with boot := { s.boot with state := .verifying, stage := 6 } })

/-- The Starter (R421, R445, R447 to R450): a download ends with the first failed check in AwaitStarter, Failed where the complexes measured different images, else in
Starting, measured, counted and journalled; with the conditions met the Light record is written and the package is Ready. Which key
digests the ROM accepts the spec does not give (log entry 8).

It rests on choices of the model: log entry 92. -/
def Obligations.StarterBringsUp : Prop :=
  (∀ (s : State) (sig eq : Bool), s.boot.state = .verifying → s.hostOpen 0 = true → s.senior = 0 →
    ∃ t h b e, exec (.starterDownloadDone sig eq) s = .next t ∧ h = s.hostRead s.boot.bus 256 ∧
      b = s.hostRead (s.boot.bus + 256) (field h 0x10 4) ∧ e = s.starterError h b sig eq ∧
      (s.boot.len < 30112 ∨ 268465504 < s.boot.len → e = 1) ∧ (sig = false → e ≠ 0) ∧ (eq = false → e ≠ 0) ∧
      (e ≠ 0 → e ≠ 0x15 → t = { s with boot := { s.boot with state := .awaitStarter, error := e, stage := 5, bringup := 0 } }) ∧
      (e = 0x15 → t = { s with boot := { s.boot with state := .failed, error := e } }) ∧
      (e = 0 → t.boot.measure = shake256 h 32 ∧ t.boot.count = s.boot.count + 1 ∧ t.boot.iface = s.boot.ifaceReq ∧
        (∃ n, (⟨n, .boot (s.boot.count + 1) s.tick.count (shake256 h 32)⟩ : JRec) ∈ t.j0.recs) ∧
        (paramsOk (s.hostRead s.boot.param 64) = true → t.boot.state = .starting ∧ t.boot.stage = 7) ∧
        (paramsOk (s.hostRead s.boot.param 64) = false → t.boot.state = .awaitStarter ∧ t.boot.error = 0x0B))) ∧
  (∀ (s : State) (dw tc : Nat) (ws : List Nat), s.readyOk = true → dw < 65536 → tc < 65536 → ws.length = 8 → (∀ w ∈ ws, w < 2 ^ 32) →
    ∃ t, exec (.starterReady dw tc ws) s = .next t ∧ t.boot.state = .ready ∧ t.boot.stage = 8 ∧ t.power.firstCal = true ∧
      mapFind t.power.cals s.tick.gear = some ⟨1, s.tick.gear, s.milliVolt, s.tick.count, dw, tc, ws⟩ ∧
      (t.ctx 0).state = .active ∧ (t.ctx 0).slot = some 0 ∧ (∀ k, k < 8 → bit t.boot.failedPorts k = decide ((s.port k).state = .failed)) ∧
      t.vats = s.vats ∧ t.cores = s.cores ∧ t.mem = s.mem ∧ t.links = s.links ∧ t.fuses = s.fuses)

/-- R446: writing 1 to `SVN_COMMIT` raises the floor to the SVN of the running Starter, never lowers it, and is journalled; it takes effect only in Ripe and only
after Ready, and is ignored at any other time. -/
def Obligations.SvnCommitRaisesFloor : Prop :=
  (∀ (s : State) (v : Nat), HostServed s → v % 2 = 1 → s.keys.lifecycle = 1 → s.senior = 0 → ∃ t, exec (.svnCommit v) s = .next t ∧
    t.fuses = { s.fuses with minSvn := max s.fuses.minSvn s.boot.svn } ∧ t.jdata = s.jdata ++ [.svn (max s.fuses.minSvn s.boot.svn)] ∧
    t = { s with fuses := t.fuses, j0 := t.j0, j1 := t.j1 }) ∧
  (∀ (s : State) (v : Nat), s.boot.state ≠ .ready ∨ s.keys.lifecycle ≠ 1 ∨ v % 2 = 0 → exec (.svnCommit v) s = .next s)

/-- Lifecycle transitions (R451, R452, R453): a request that passes every check burns the three copies of the new state's bit and resets the device with `LC_RESULT` 0x01; the
first check that fails gives its result and nothing else changes.

It rests on choices of the model: log entry 56. -/
def Obligations.LifecycleTransitions : Prop :=
  (∀ (s : State), HostServed s → s.keys.lifecycle = 0 → s.vats = [] → s.boot.lcConfirm = field s.deviceId 0 4 → s.fuses.programmed = true →
    ∃ t, exec .toRipe s = .next t ∧ t.boot.lcResult = 1 ∧ t.fuses.ripe = [true, true, true] ∧ t.vats = [] ∧ t.cores = [] ∧
      t.keys.slots = State.reset.keys.slots ∧ t.mem = State.reset.mem ∧ (t.pins.released = true → t.keys.lifecycle = t.fuses.state)) ∧
  (∀ (s : State), HostServed s → s.keys.lifecycle = 1 → s.vats = [] → s.boot.lcConfirm = field s.deviceId 0 4 → s.hostOpen 0 = true →
    s.authOk (s.hostRead s.boot.lcAuth 64) = true →
    ∃ t, exec (.toOpened true) s = .next t ∧ t.boot.lcResult = 1 ∧ t.fuses.opened = [true, true, true] ∧ t.vats = [] ∧ t.cores = [] ∧
      t.keys.slots = State.reset.keys.slots ∧ t.mem = State.reset.mem) ∧
  (∀ (s : State), HostServed s → s.keys.lifecycle = 1 ∨ s.keys.lifecycle = 2 → s.vats = [] → s.boot.lcConfirm = field s.deviceId 0 4 →
    ∃ t, exec .toSpent s = .next t ∧ t.boot.lcResult = 1 ∧ t.fuses.spent = [true, true, true] ∧ t.fuses.state = 3 ∧ t.vats = [] ∧
      t.cores = [] ∧ t.keys.slots = State.reset.keys.slots ∧ t.mem = State.reset.mem) ∧
  (∀ (s : State) (c : Instr) (k e : Nat), (c, k) ∈ [(Instr.toRipe, 1), (Instr.toOpened false, 2), (Instr.toOpened true, 2), (Instr.toSpent, 3)] →
    (s.func 0).d3 = false →
    (s.boot.state ≠ .ready ∧ e = 6) ∨ (s.boot.state = .ready ∧ transitionOk s.keys.lifecycle k = false ∧ e = 2) ∨
      (s.boot.state = .ready ∧ transitionOk s.keys.lifecycle k = true ∧ s.vats ≠ [] ∧ e = 3) ∨
      (s.boot.state = .ready ∧ transitionOk s.keys.lifecycle k = true ∧ s.vats = [] ∧ s.boot.lcConfirm ≠ field s.deviceId 0 4 ∧ e = 4) →
    exec c s = .next { s with boot := { s.boot with lcReq := k, lcResult := e } })

/-- Compactions (R292, R456, R458): below 256 KiB of free space the kept set goes into the other bank under new consecutive sequence numbers, with the bank's epoch
raised; METER_COMPACTION keeps every record but the metering records, which it merges in place.

It rests on choices of the model: log entry 93. -/
def Obligations.JournalCompacts : Prop :=
  (∀ (s : State), s.journal.free < 262144 → s.senior = 0 → ∃ t, exec .journalCompaction s = .next t ∧
    t.jdata = (keptSet s.tick.count s.jdata).flatMap (JData.merged (mergeMeters s.meters)) ∧
    (∀ i r, t.j0.recs[i]? = some r → r.jseq = max s.j0.last s.j1.last + 1 + i) ∧
    t.j0.bank.epoch = max s.j0.a.epoch s.j0.b.epoch + 1 ∧ t = { s with j0 := t.j0, j1 := t.j1 }) ∧
  (∀ (s : State), s.journal.free < 262144 → s.senior = 0 → ∃ t, exec .meterCompaction s = .next t ∧
    t.jdata = s.jdata.flatMap (JData.merged (mergeMeters s.meters)) ∧ t = { s with j0 := t.j0, j1 := t.j1 })

/-- Readings the sideband gives (R480, R482): MCTP control sets and gives the endpoint's ID; PKG_TELEMETRY and LIFECYCLE_GET are answered in any boot state,
PARTITION_POWER, CC_STATUS and METER_READ once Ready; nothing but the message out changes.

Requests of the sideband (R482): before Ready every one but two is answered 0x01; a malformed header is answered 0x03; REPORT_START takes a nonce while
none runs, REPORT_READ gives its bytes, CELLAR_WAKE wakes, SPLIT_RESOLVE acts at its complex, LC_SPENT gives the result of the transition.

It rests on choices of the model: log entries 52, 53, 55. -/
def Obligations.SidebandAnswers : Prop :=
  ((∀ (s : State) (d : Nat), s.sideUp = true → 8 ≤ d → d < 255 → exec (.mctpControl 0x01 d) s =
    .next { s with side := ⟨d⟩, out := s.out ++ [⟨"MCTP", 0, [0x01, 0x00, d], []⟩] }) ∧
  (∀ (s : State) (d : Nat), s.sideUp = true → exec (.mctpControl 0x02 d) s =
    .next { s with out := s.out ++ [⟨"MCTP", 0, [0x02, 0x00, s.side.eid], []⟩] }) ∧
  (∀ (s : State) (h : Nat), s.sideUp = true → h < 2 → exec (.pkgTelemetry 0x1000 h 0) s = .next
    { s with out := s.out ++ [⟨"SIDEBAND", 0, [0x1000, 0x01, h, 0x00, s.avgWatts, s.tempBits, s.power.therm, s.boot.state.code, s.power.cellar.code], []⟩] }) ∧
  (∀ (s : State) (h : Nat), s.sideUp = true → h < 2 → exec (.lifecycleGet 0x1000 h 0) s = .next
    { s with out := s.out ++ [⟨"SIDEBAND", 0, [0x1000, 0x04, h, 0x00, s.keys.lifecycle, b2n (tamperSeen s.jdata), s.boot.count], []⟩] }) ∧
  (∀ (s : State) (h p : Nat), s.sideUp = true → s.boot.state = .ready → h < 2 → p < 16 → exec (.partitionPower 0x1000 h 0 p) s = .next
    { s with out := s.out ++ [⟨"SIDEBAND", 0, [0x1000, 0x02, h, 0x00, s.fits 16 (s.partReading p)], []⟩] }) ∧
  (∀ (s : State) (h : Nat), s.sideUp = true → s.boot.state = .ready → h < 2 → exec (.ccStatus 0x1000 h 0) s = .next
    { s with out := s.out ++ [⟨"SIDEBAND", 0, [0x1000, 0x08, h, 0x00], s.ccGroup h⟩] }) ∧
  (∀ (s : State) (h q n : Nat), s.sideUp = true → s.boot.state = .ready → h < 2 → 1 ≤ n → n ≤ 7 → exec (.sbMeterRead 0x1000 h 0 q n) s = .next
    { s with out := s.out ++ [⟨"SIDEBAND", 0, [0x1000, 0x06, h, 0x00],
      ((s.meters.filter fun b => decide (q ≤ meterSeq b)).take n).flatten⟩] })) ∧
  ((∀ (s : State) (c : Instr) (m h f z : Nat) (n : List Byte) (p q k v : Nat),
    (c, m) ∈ [(Instr.partitionPower f h z p, 2), (Instr.reportStart f h z n, 3), (Instr.reportRead f h z p q, 5),
      (Instr.sbMeterRead f h z p q, 6), (Instr.cellarWake f h z, 7), (Instr.ccStatus f h z, 8), (Instr.splitResolve f h z v, 9),
      (Instr.lcSpent f h z k, 10)] → s.sideUp = true →
    (s.boot.state ≠ .ready → exec c s = .next { s with out := s.out ++ [⟨"SIDEBAND", 0, [0x1000, m, h, 0x01], []⟩] }) ∧
    (s.boot.state = .ready → f ≠ 0x1000 ∨ z ≠ 0 → exec c s = .next { s with out := s.out ++ [⟨"SIDEBAND", 0, [0x1000, m, h, 0x03], []⟩] })) ∧
  (∀ (s : State) (h : Nat) (n : List Byte), s.sideUp = true → s.boot.state = .ready → h < 2 → n.length = 32 → s.keys.sideReq = none →
    exec (.reportStart 0x1000 h 0 n) s = .next { s with
      keys := { s.keys with sideReq := some n, report := none }, out := s.out ++ [⟨"SIDEBAND", 0, [0x1000, 0x03, h, 0x00], []⟩] }) ∧
  (∀ (s : State) (h : Nat) (n : List Byte), s.sideUp = true → s.boot.state = .ready → h < 2 → s.keys.sideReq.isSome = true →
    exec (.reportStart 0x1000 h 0 n) s = .next { s with out := s.out ++ [⟨"SIDEBAND", 0, [0x1000, 0x03, h, 0x01], []⟩] }) ∧
  (∀ (s : State) (h o n : Nat) (r : List Byte), s.sideUp = true → s.boot.state = .ready → h < 2 → n ≤ 1000 → s.keys.report = some r →
    exec (.reportRead 0x1000 h 0 o n) s = .next
      { s with out := s.out ++ [⟨"SIDEBAND", 0, [0x1000, 0x05, h, 0x00], (r.drop o).take n⟩] }) ∧
  (∀ (s : State) (h : Nat), s.sideUp = true → s.boot.state = .ready → h < 2 → s.power.cellar = .cellar →
    ∃ t, exec (.cellarWake 0x1000 h 0) s = .next t ∧ t.power = { s.power with cellar := .waking, cellarAt := s.tick.count } ∧
      t.out = s.out ++ [⟨"SIDEBAND", 0, [0x1000, 0x07, h, 0x00], []⟩] ∧ t = { s with power := t.power, pins := t.pins, out := t.out }) ∧
  (∀ (s : State) (h : Nat), s.sideUp = true → s.boot.state = .ready → h < 2 → (s.cplx h).serves = true → (s.cplx h).split = true →
    (s.cplx h).state = .senior → ∃ t, exec (.splitResolve 0x1000 h 0 1) s = .next t ∧ t = { s.writeSplit h 1 with
      out := (s.writeSplit h 1).out ++ [⟨"SIDEBAND", 0, [0x1000, 0x09, h, 0x00], []⟩] } ∧ (t.cplx h).split = false ∧ (t.cplx h).otherOut = true ∧
      t.fuses = s.fuses) ∧
  (∀ (s : State) (h k : Nat), s.sideUp = true → s.boot.state = .ready → h < 2 → s.keys.lifecycle = 1 → s.vats = [] →
    k = field s.deviceId 0 4 → ∃ t, exec (.lcSpent 0x1000 h 0 k) s = .next t ∧ t.boot.lcResult = 1 ∧ t.fuses.state = 3 ∧
      t.out = s.out ++ [⟨"SIDEBAND", 0, [0x1000, 0x0A, h, 0x00, 0x01], []⟩] ∧ t.vats = [] ∧ t.cores = []))

/-- Register reads (R4, R5, R441, R464, R468): a 4-byte aligned read answers the word; before Ready every block but BOOT reads 0; a read of `KV_VERIFY_FAIL`
clears it; a read of another size or not aligned changes nothing; a place outside every BAR0 stops.

Register writes (R3, R4, R6, R441, R468): the low word of a 64-bit register is held until its high word brings both; a shadow field takes its value without the active one
changing; before Ready a write of another block is ignored; a write of another size or not aligned has no effect.

It rests on choices of the model: log entries 48, 96, 108. -/
def Obligations.RegistersAreReadAndWritten : Prop :=
  ((∀ (s : State) (o : Nat), (s.func 0).d3 = false → o < 0x1000 → o % 4 = 0 → wideAt 0 o = false → wideAt 0 (o - 4) = false →
    exec (.rcRegisterRead o 4) s = .next { s with readData := s.word 0 o }) ∧
  (∀ (s : State) (o n : Nat), (s.func 0).d3 = false → s.boot.state ≠ .ready → 0x1000 ≤ o → o < 0x2_0000 → n = 4 ∨ n = 8 → o % n = 0 →
    exec (.rcRegisterRead o n) s = .next { s with readData := 0 }) ∧
  (∀ (s : State), HostServed s → exec (.rcRegisterRead 0x6038 4) s = .next
    { s with keys := { s.keys with verifyFail := 0 }, readData := s.word 0 0x6038 }) ∧
  (∀ (s : State) (o n : Nat), (s.func 0).d3 = false → o < 0x2_0000 → (n ≠ 4 ∧ n ≠ 8) ∨ o % n ≠ 0 →
    exec (.rcRegisterRead o n) s = .next s) ∧
  (∀ (s : State) (o n v : Nat), barPlace o = none →
    exec (.rcRegisterRead o n) s = .fault .outsideBar0 ∧ exec (.registerWrite o n v) s = .fault .outsideBar0)) ∧
  ((∀ (s : State) (v : Nat), (s.func 0).d3 = false → v < 2 ^ 32 → exec (.registerWrite 0x010 4 v) s = .next
    { s with lowHeld := mapPut s.lowHeld 0x010 v }) ∧
  (∀ (s : State) (v w : Nat), (s.func 0).d3 = false → v < 2 ^ 32 → w < 2 ^ 32 → w % 64 = 0 → mapFind s.lowHeld 0x010 = some w →
    exec (.registerWrite 0x014 4 v) s = .next
      { s with boot := { s.boot with bus := w + 2 ^ 32 * v }, lowHeld := mapDel s.lowHeld 0x010 }) ∧
  (∀ (s : State) (v : Nat), HostServed s → 500 ≤ v → v ≤ 3300 → exec (.registerWrite 0x4_0000 4 v) s = .next
    { s with power := { s.power with shadow := { s.power.shadow with cap := v } } }) ∧
  (∀ (s : State) (v : Nat), HostServed s → v < 500 ∨ (3300 < v ∧ v < 65536) → exec (.registerWrite 0x4_0000 4 v) s = .next s) ∧
  (∀ (s : State) (o n v : Nat), (s.func 0).d3 = false → s.boot.state ≠ .ready → 0x1000 ≤ o → o < 0x10_0000 →
    exec (.registerWrite o n v) s = .next s) ∧
  (∀ (s : State) (o n v : Nat), (s.func 0).d3 = false → o < 0x10_0000 → (n ≠ 4 ∧ n ≠ 8) ∨ o % n ≠ 0 →
    exec (.registerWrite o n v) s = .next s))

/-- R494: in Ripe and Spent the TAP is held in Test-Logic-Reset whatever TMS does, and TDO stays high-impedance.

It rests on choices of the model: log entries 51, 99. -/
def Obligations.TapHeldInRipeAndSpent : Prop :=
  ∀ (s : State) (tms tdi trst : Bool), s.fuses.state = 1 ∨ s.fuses.state = 3 → ∃ t, exec (.jtagTckEdge tms tdi trst) s = .next t ∧
    t.pins.tap = .reset ∧ t.pins.tdo = none ∧ t.pins = { s.pins with tap := .reset, tdo := none, isByp := true } ∧
    t = { s with pins := t.pins }

/-- Pins (R494, R500): in Green and Opened with TRST_N high an edge moves the TAP as IEEE 1149.1 does (log entry 51); without VBYP every open pair begins to close. -/
def Obligations.PinsMove : Prop :=
  (∀ (s : State) (tms tdi : Bool), s.fuses.state = 0 ∨ s.fuses.state = 2 → ∃ t, exec (.jtagTckEdge tms tdi true) s = .next t ∧
    t.pins.tap = s.pins.tap.next tms ∧ (t.pins.tap ≠ .shiftIr → t.pins.tap ≠ .shiftDr → t.pins.tdo = none) ∧
    t.pins.pwrgd = s.pins.pwrgd ∧ t = { s with pins := t.pins, fresh := t.fresh }) ∧
  (∀ (s : State), ∃ t, exec .vbypOutOfBand s = .next t ∧ t.pins = { s.pins with vbyp := false } ∧
    (∀ p, p < 4 → (mapFind t.links.moving p = some false ↔ bit s.links.pairs p = true) ∧ mapFind t.links.moving p ≠ some true) ∧
    t.links.ports = s.links.ports ∧ t = { s with pins := t.pins, links := { s.links with moving := t.links.moving } })

/-- A step runs the command in front: with `c` at the front of the queue a step is exec of `c` with the queue's rest; on an empty queue the block idles (log entry
1); no table word spells a command, so placing a word changes nothing. -/
def Obligations.StepRunsFrontCommand : Prop :=
  (∀ (s : State) (c : Instr) (q : List Instr), s.pending = c :: q → step s = exec c { s with pending := q }) ∧
  (∀ (s : State), s.pending = [] → step s = .next s) ∧
  (∀ (s : State) (n w : Nat), decodeTableWord n w = none ∧ s.withFetchWord n w = s)

/-- What reset leaves (R301, R395, R436, R440, R460, and the other blocks' reset columns): nothing pending, no vat, no event, the clocks at gear 32 not locked, both complexes
booting, 3,000 W as the cap, 64 slots at their reset values, memory with nothing listed.

It rests on choices of the model: log entries 4, 5, 6. -/
def Obligations.ResetState : Prop :=
  State.reset.pending = [] ∧ State.reset.vats = [] ∧ State.reset.cores = [] ∧ State.reset.events = [] ∧ State.reset.mem.cells = [] ∧
    State.reset.host = [] ∧ State.reset.objs.objs = [] ∧ State.reset.objs.cmds = [] ∧ State.reset.tick.gear = 32 ∧
    State.reset.tick.aligned = false ∧ State.reset.power.active.cap = 3000 ∧ State.reset.power.active.gear = 64 ∧
    State.reset.power.active.throttle = 95 ∧ State.reset.power.active.restMax = 16 ∧ State.reset.boot.state = .preparing ∧
    State.reset.boot.ifaceReq = 0x100 ∧ (∀ (p : Nat), State.reset.cxlPort p = State.reset.cxlPort 0) ∧
    (∀ (k : Nat), k < 256 → 2 ≤ k → (State.reset.slot k).state = .empty) ∧ State.reset.links.pairs = 0 ∧ State.reset.keys.lifecycle = 0

/-- R441: before Ready the host reaches only the BOOT block; a write of a register of every other block is ignored, and a read of one gives 0. -/
def Obligations.BeforeReadyOnlyBoot : Prop :=
  (∀ (s : State) (c : Instr), hostRegister c = true → s.boot.state ≠ .ready → exec c s = .next s) ∧
  (∀ (s : State) (o n v : Nat), (s.func 0).d3 = false → s.boot.state ≠ .ready → 0x1000 ≤ o → o < 2 ^ 24 → n = 4 ∨ n = 8 → o % n = 0 →
    exec (.registerWrite o n v) s = .next s) ∧
  (∀ (s : State) (o n : Nat), (s.func 0).d3 = false → s.boot.state ≠ .ready → 0x1000 ≤ o → o < 0x2_0000 ∨ (0x3_0000 ≤ o ∧ o < 2 ^ 24) →
    n = 4 ∨ n = 8 → o % n = 0 → exec (.rcRegisterRead o n) s = .next { s with readData := 0 })

/-- Device memory (R201, R205, R214): whole 16-byte blocks written under a key read back under it, every other block reads as before under every key, and plaintext is kept
byte by byte. Said while no slice is being copied.

It rests on choices of the model: log entry 4. -/
def Obligations.MemoryKeepsWhatIsWritten : Prop :=
  (∀ (s : State) (key bs : List Byte) (a : Nat), s.mem.copies = [] → a % 16 = 0 → bs.length % 16 = 0 →
    (s.dpaWrite key a bs).dpaRead key a bs.length = bs) ∧
  (∀ (s : State) (key other bs : List Byte) (a b : Nat), s.mem.copies = [] → (∀ p ∈ s.mem.keys, p.2 ≤ s.mem.keyTags.length) → a % 16 = 0 →
    bs.length % 16 = 0 → 16 * b + 16 ≤ a ∨ a + bs.length ≤ 16 * b →
    (s.dpaWrite key a bs).mem.readBlock other b = s.mem.readBlock other b) ∧
  (∀ (s : State) (bs : List Byte) (a : Nat), s.mem.copies = [] → s.mem.keys = [] → (s.dpaWrite [] a bs).dpaRead [] a bs.length = bs) ∧
  (∀ (s : State) (bs : List Byte) (a c : Nat), s.mem.copies = [] → s.mem.keys = [] → c < a ∨ a + bs.length ≤ c →
    (s.dpaWrite [] a bs).dpaRead [] c 1 = s.dpaRead [] c 1) ∧
  (∀ (s : State) (bs : List Byte) (a : Nat), (s.hostWrite a bs).hostRead a bs.length = bs ∧
    (∀ c, c < a ∨ a + bs.length ≤ c → (s.hostWrite a bs).hostRead c 1 = s.hostRead c 1))

/-- Memory keeps its canonical form: a write, under any key, keeps device memory and host memory in rising addresses with no entry that reads as an unlisted byte; reset
has it.

It rests on choices of the model: log entry 4. -/
def Obligations.MemoryStaysCanonical : Prop :=
  Memory.wf State.reset.mem.cells = true ∧ Memory.wf State.reset.host = true ∧
  (∀ (s : State) (key bs : List Byte) (a : Nat), Memory.wf s.mem.cells = true → Memory.wf (s.dpaWrite key a bs).mem.cells = true) ∧
  (∀ (s : State) (bs : List Byte) (a : Nat), Memory.wf s.host = true → Memory.wf (s.hostWrite a bs).host = true) ∧
  (∀ (m : MemTier) (a n : Nat), Memory.wf m.cells = true → Memory.wf (m.zero a n).cells = true)

/-- A fuse bit, once burnt, stays burnt, over every step from every state whose bank has the shape of R439; the root and the senior fuse never change.

It rests on choices of the model: log entry 6. -/
def Obligations.FuseBitStaysBurnt : Prop :=
  ∀ (s t : State), FuseBank s.fuses → s.boot.svn ≤ 64 → step s = .next t → FusesKept s.fuses t.fuses

/-- The fuse bank keeps the shape of R439 over every step from every state that has it, the running Starter's SVN within its field.

It rests on choices of the model: log entry 6. -/
def Obligations.FuseBankKeepsShape : Prop :=
  ∀ (s t : State), FuseBank s.fuses → s.boot.svn ≤ 64 → step s = .next t → FuseBank t.fuses ∧ t.boot.svn ≤ 64

/-- The fuse bank at reset has the shape of R439 (which bits are burnt is the device's own, log entry 6). -/
def Obligations.FuseBankAtReset : Prop :=
 FuseBank State.reset.fuses ∧ State.reset.boot.svn ≤ 64

/-- R440: the lifecycle state follows from the lifecycle bits by the first row that applies, a bit reading as burnt when at least two of its three copies are. -/
def Obligations.LifecycleFollowsFuses : Prop :=
  (∀ (f : Fuses), f.state = if burnt f.spent then 3 else if burnt f.opened then 2 else if burnt f.ripe then 1 else 0) ∧
  (∀ (a b c : Bool), burnt [a, b, c] = ((a && b) || (a && c) || (b && c))) ∧
  (∀ (s : State) (a : Nat), s.pins.pwrgd = false ∨ s.pins.perstN = false → s.pins.trip = false → openIntent s.jdata = none →
    ∃ t, exec (.resetRelease a) s = .next t ∧ t.keys.lifecycle = s.fuses.state ∧ t.fuses = s.fuses.mended)

/-- An event whose enabling condition does not hold leaves every state as it is (the model's choice, log entry 1): said of seven events of different units. -/
def Obligations.EventsWaitForTheirCondition : Prop :=
  (∀ (s : State) (c : Nat) (w : OpWord), (s.core c).state ≠ .bound → exec (.mm c w UnitFault.none) s = .next s ∧
    exec (.add c w UnitFault.none) s = .next s) ∧
  (∀ (s : State) (n : List Nat), s.tick.count % 32 ≠ 0 → exec (.powerEstimate n) s = .next s) ∧
  (∀ (s : State), s.tick.count % 32768 ≠ 0 → exec .capUpdate s = .next s) ∧
  (∀ (s : State) (d : Draw), s.vat? d.vat = none → exec (.samplerDraw d) s = .next s) ∧
  (∀ (s : State) (r : CmdRef), s.cmd? r = none → exec (.commandComplete r) s = .next s) ∧
  (∀ (s : State), s.power.cellar ≠ .entering → exec .cellarEntryDone s = .next s)

end
end

