-- ==== Sys2Proof/Laws/State.lean ====
section
/-! SUPPORT. Each field of the state after each update of one field, by reduction, so that no proof unfolds a record update. -/

namespace Sys2Proof.Machine

variable (s : State)

/-! ### After an update of `pending` -/

@[simp] theorem State.onPending_pending (f) : (s.onPending f).pending = f s.pending := rfl
@[simp] theorem State.onPending_fresh (f) : (s.onPending f).fresh = s.fresh := rfl
@[simp] theorem State.onPending_host (f) : (s.onPending f).host = s.host := rfl
@[simp] theorem State.onPending_out (f) : (s.onPending f).out = s.out := rfl
@[simp] theorem State.onPending_msix (f) : (s.onPending f).msix = s.msix := rfl
@[simp] theorem State.onPending_readData (f) : (s.onPending f).readData = s.readData := rfl
@[simp] theorem State.onPending_lowHeld (f) : (s.onPending f).lowHeld = s.lowHeld := rfl
@[simp] theorem State.onPending_highHeld (f) : (s.onPending f).highHeld = s.highHeld := rfl
@[simp] theorem State.onPending_events (f) : (s.onPending f).events = s.events := rfl
@[simp] theorem State.onPending_seqs (f) : (s.onPending f).seqs = s.seqs := rfl
@[simp] theorem State.onPending_tick (f) : (s.onPending f).tick = s.tick := rfl
@[simp] theorem State.onPending_gears (f) : (s.onPending f).gears = s.gears := rfl
@[simp] theorem State.onPending_routers (f) : (s.onPending f).routers = s.routers := rfl
@[simp] theorem State.onPending_links (f) : (s.onPending f).links = s.links := rfl
@[simp] theorem State.onPending_cores (f) : (s.onPending f).cores = s.cores := rfl
@[simp] theorem State.onPending_vats (f) : (s.onPending f).vats = s.vats := rfl
@[simp] theorem State.onPending_roles (f) : (s.onPending f).roles = s.roles := rfl
@[simp] theorem State.onPending_mem (f) : (s.onPending f).mem = s.mem := rfl
@[simp] theorem State.onPending_xl (f) : (s.onPending f).xl = s.xl := rfl
@[simp] theorem State.onPending_objs (f) : (s.onPending f).objs = s.objs := rfl
@[simp] theorem State.onPending_qos (f) : (s.onPending f).qos = s.qos := rfl
@[simp] theorem State.onPending_cc (f) : (s.onPending f).cc = s.cc := rfl
@[simp] theorem State.onPending_keys (f) : (s.onPending f).keys = s.keys := rfl
@[simp] theorem State.onPending_flt (f) : (s.onPending f).flt = s.flt := rfl
@[simp] theorem State.onPending_power (f) : (s.onPending f).power = s.power := rfl
@[simp] theorem State.onPending_fuses (f) : (s.onPending f).fuses = s.fuses := rfl
@[simp] theorem State.onPending_j0 (f) : (s.onPending f).j0 = s.j0 := rfl
@[simp] theorem State.onPending_j1 (f) : (s.onPending f).j1 = s.j1 := rfl
@[simp] theorem State.onPending_boot (f) : (s.onPending f).boot = s.boot := rfl
@[simp] theorem State.onPending_hp (f) : (s.onPending f).hp = s.hp := rfl
@[simp] theorem State.onPending_cxlPorts (f) : (s.onPending f).cxlPorts = s.cxlPorts := rfl
@[simp] theorem State.onPending_cxlDevs (f) : (s.onPending f).cxlDevs = s.cxlDevs := rfl
@[simp] theorem State.onPending_cap (f) : (s.onPending f).cap = s.cap := rfl
@[simp] theorem State.onPending_side (f) : (s.onPending f).side = s.side := rfl
@[simp] theorem State.onPending_pins (f) : (s.onPending f).pins = s.pins := rfl

/-! ### After an update of `fresh` -/

@[simp] theorem State.onFresh_pending (f) : (s.onFresh f).pending = s.pending := rfl
@[simp] theorem State.onFresh_fresh (f) : (s.onFresh f).fresh = f s.fresh := rfl
@[simp] theorem State.onFresh_host (f) : (s.onFresh f).host = s.host := rfl
@[simp] theorem State.onFresh_out (f) : (s.onFresh f).out = s.out := rfl
@[simp] theorem State.onFresh_msix (f) : (s.onFresh f).msix = s.msix := rfl
@[simp] theorem State.onFresh_readData (f) : (s.onFresh f).readData = s.readData := rfl
@[simp] theorem State.onFresh_lowHeld (f) : (s.onFresh f).lowHeld = s.lowHeld := rfl
@[simp] theorem State.onFresh_highHeld (f) : (s.onFresh f).highHeld = s.highHeld := rfl
@[simp] theorem State.onFresh_events (f) : (s.onFresh f).events = s.events := rfl
@[simp] theorem State.onFresh_seqs (f) : (s.onFresh f).seqs = s.seqs := rfl
@[simp] theorem State.onFresh_tick (f) : (s.onFresh f).tick = s.tick := rfl
@[simp] theorem State.onFresh_gears (f) : (s.onFresh f).gears = s.gears := rfl
@[simp] theorem State.onFresh_routers (f) : (s.onFresh f).routers = s.routers := rfl
@[simp] theorem State.onFresh_links (f) : (s.onFresh f).links = s.links := rfl
@[simp] theorem State.onFresh_cores (f) : (s.onFresh f).cores = s.cores := rfl
@[simp] theorem State.onFresh_vats (f) : (s.onFresh f).vats = s.vats := rfl
@[simp] theorem State.onFresh_roles (f) : (s.onFresh f).roles = s.roles := rfl
@[simp] theorem State.onFresh_mem (f) : (s.onFresh f).mem = s.mem := rfl
@[simp] theorem State.onFresh_xl (f) : (s.onFresh f).xl = s.xl := rfl
@[simp] theorem State.onFresh_objs (f) : (s.onFresh f).objs = s.objs := rfl
@[simp] theorem State.onFresh_qos (f) : (s.onFresh f).qos = s.qos := rfl
@[simp] theorem State.onFresh_cc (f) : (s.onFresh f).cc = s.cc := rfl
@[simp] theorem State.onFresh_keys (f) : (s.onFresh f).keys = s.keys := rfl
@[simp] theorem State.onFresh_flt (f) : (s.onFresh f).flt = s.flt := rfl
@[simp] theorem State.onFresh_power (f) : (s.onFresh f).power = s.power := rfl
@[simp] theorem State.onFresh_fuses (f) : (s.onFresh f).fuses = s.fuses := rfl
@[simp] theorem State.onFresh_j0 (f) : (s.onFresh f).j0 = s.j0 := rfl
@[simp] theorem State.onFresh_j1 (f) : (s.onFresh f).j1 = s.j1 := rfl
@[simp] theorem State.onFresh_boot (f) : (s.onFresh f).boot = s.boot := rfl
@[simp] theorem State.onFresh_hp (f) : (s.onFresh f).hp = s.hp := rfl
@[simp] theorem State.onFresh_cxlPorts (f) : (s.onFresh f).cxlPorts = s.cxlPorts := rfl
@[simp] theorem State.onFresh_cxlDevs (f) : (s.onFresh f).cxlDevs = s.cxlDevs := rfl
@[simp] theorem State.onFresh_cap (f) : (s.onFresh f).cap = s.cap := rfl
@[simp] theorem State.onFresh_side (f) : (s.onFresh f).side = s.side := rfl
@[simp] theorem State.onFresh_pins (f) : (s.onFresh f).pins = s.pins := rfl

/-! ### After an update of `host` -/

@[simp] theorem State.onHost_pending (f) : (s.onHost f).pending = s.pending := rfl
@[simp] theorem State.onHost_fresh (f) : (s.onHost f).fresh = s.fresh := rfl
@[simp] theorem State.onHost_host (f) : (s.onHost f).host = f s.host := rfl
@[simp] theorem State.onHost_out (f) : (s.onHost f).out = s.out := rfl
@[simp] theorem State.onHost_msix (f) : (s.onHost f).msix = s.msix := rfl
@[simp] theorem State.onHost_readData (f) : (s.onHost f).readData = s.readData := rfl
@[simp] theorem State.onHost_lowHeld (f) : (s.onHost f).lowHeld = s.lowHeld := rfl
@[simp] theorem State.onHost_highHeld (f) : (s.onHost f).highHeld = s.highHeld := rfl
@[simp] theorem State.onHost_events (f) : (s.onHost f).events = s.events := rfl
@[simp] theorem State.onHost_seqs (f) : (s.onHost f).seqs = s.seqs := rfl
@[simp] theorem State.onHost_tick (f) : (s.onHost f).tick = s.tick := rfl
@[simp] theorem State.onHost_gears (f) : (s.onHost f).gears = s.gears := rfl
@[simp] theorem State.onHost_routers (f) : (s.onHost f).routers = s.routers := rfl
@[simp] theorem State.onHost_links (f) : (s.onHost f).links = s.links := rfl
@[simp] theorem State.onHost_cores (f) : (s.onHost f).cores = s.cores := rfl
@[simp] theorem State.onHost_vats (f) : (s.onHost f).vats = s.vats := rfl
@[simp] theorem State.onHost_roles (f) : (s.onHost f).roles = s.roles := rfl
@[simp] theorem State.onHost_mem (f) : (s.onHost f).mem = s.mem := rfl
@[simp] theorem State.onHost_xl (f) : (s.onHost f).xl = s.xl := rfl
@[simp] theorem State.onHost_objs (f) : (s.onHost f).objs = s.objs := rfl
@[simp] theorem State.onHost_qos (f) : (s.onHost f).qos = s.qos := rfl
@[simp] theorem State.onHost_cc (f) : (s.onHost f).cc = s.cc := rfl
@[simp] theorem State.onHost_keys (f) : (s.onHost f).keys = s.keys := rfl
@[simp] theorem State.onHost_flt (f) : (s.onHost f).flt = s.flt := rfl
@[simp] theorem State.onHost_power (f) : (s.onHost f).power = s.power := rfl
@[simp] theorem State.onHost_fuses (f) : (s.onHost f).fuses = s.fuses := rfl
@[simp] theorem State.onHost_j0 (f) : (s.onHost f).j0 = s.j0 := rfl
@[simp] theorem State.onHost_j1 (f) : (s.onHost f).j1 = s.j1 := rfl
@[simp] theorem State.onHost_boot (f) : (s.onHost f).boot = s.boot := rfl
@[simp] theorem State.onHost_hp (f) : (s.onHost f).hp = s.hp := rfl
@[simp] theorem State.onHost_cxlPorts (f) : (s.onHost f).cxlPorts = s.cxlPorts := rfl
@[simp] theorem State.onHost_cxlDevs (f) : (s.onHost f).cxlDevs = s.cxlDevs := rfl
@[simp] theorem State.onHost_cap (f) : (s.onHost f).cap = s.cap := rfl
@[simp] theorem State.onHost_side (f) : (s.onHost f).side = s.side := rfl
@[simp] theorem State.onHost_pins (f) : (s.onHost f).pins = s.pins := rfl

/-! ### After an update of `out` -/

@[simp] theorem State.onOut_pending (f) : (s.onOut f).pending = s.pending := rfl
@[simp] theorem State.onOut_fresh (f) : (s.onOut f).fresh = s.fresh := rfl
@[simp] theorem State.onOut_host (f) : (s.onOut f).host = s.host := rfl
@[simp] theorem State.onOut_out (f) : (s.onOut f).out = f s.out := rfl
@[simp] theorem State.onOut_msix (f) : (s.onOut f).msix = s.msix := rfl
@[simp] theorem State.onOut_readData (f) : (s.onOut f).readData = s.readData := rfl
@[simp] theorem State.onOut_lowHeld (f) : (s.onOut f).lowHeld = s.lowHeld := rfl
@[simp] theorem State.onOut_highHeld (f) : (s.onOut f).highHeld = s.highHeld := rfl
@[simp] theorem State.onOut_events (f) : (s.onOut f).events = s.events := rfl
@[simp] theorem State.onOut_seqs (f) : (s.onOut f).seqs = s.seqs := rfl
@[simp] theorem State.onOut_tick (f) : (s.onOut f).tick = s.tick := rfl
@[simp] theorem State.onOut_gears (f) : (s.onOut f).gears = s.gears := rfl
@[simp] theorem State.onOut_routers (f) : (s.onOut f).routers = s.routers := rfl
@[simp] theorem State.onOut_links (f) : (s.onOut f).links = s.links := rfl
@[simp] theorem State.onOut_cores (f) : (s.onOut f).cores = s.cores := rfl
@[simp] theorem State.onOut_vats (f) : (s.onOut f).vats = s.vats := rfl
@[simp] theorem State.onOut_roles (f) : (s.onOut f).roles = s.roles := rfl
@[simp] theorem State.onOut_mem (f) : (s.onOut f).mem = s.mem := rfl
@[simp] theorem State.onOut_xl (f) : (s.onOut f).xl = s.xl := rfl
@[simp] theorem State.onOut_objs (f) : (s.onOut f).objs = s.objs := rfl
@[simp] theorem State.onOut_qos (f) : (s.onOut f).qos = s.qos := rfl
@[simp] theorem State.onOut_cc (f) : (s.onOut f).cc = s.cc := rfl
@[simp] theorem State.onOut_keys (f) : (s.onOut f).keys = s.keys := rfl
@[simp] theorem State.onOut_flt (f) : (s.onOut f).flt = s.flt := rfl
@[simp] theorem State.onOut_power (f) : (s.onOut f).power = s.power := rfl
@[simp] theorem State.onOut_fuses (f) : (s.onOut f).fuses = s.fuses := rfl
@[simp] theorem State.onOut_j0 (f) : (s.onOut f).j0 = s.j0 := rfl
@[simp] theorem State.onOut_j1 (f) : (s.onOut f).j1 = s.j1 := rfl
@[simp] theorem State.onOut_boot (f) : (s.onOut f).boot = s.boot := rfl
@[simp] theorem State.onOut_hp (f) : (s.onOut f).hp = s.hp := rfl
@[simp] theorem State.onOut_cxlPorts (f) : (s.onOut f).cxlPorts = s.cxlPorts := rfl
@[simp] theorem State.onOut_cxlDevs (f) : (s.onOut f).cxlDevs = s.cxlDevs := rfl
@[simp] theorem State.onOut_cap (f) : (s.onOut f).cap = s.cap := rfl
@[simp] theorem State.onOut_side (f) : (s.onOut f).side = s.side := rfl
@[simp] theorem State.onOut_pins (f) : (s.onOut f).pins = s.pins := rfl

/-! ### After an update of `msix` -/

@[simp] theorem State.onMsix_pending (f) : (s.onMsix f).pending = s.pending := rfl
@[simp] theorem State.onMsix_fresh (f) : (s.onMsix f).fresh = s.fresh := rfl
@[simp] theorem State.onMsix_host (f) : (s.onMsix f).host = s.host := rfl
@[simp] theorem State.onMsix_out (f) : (s.onMsix f).out = s.out := rfl
@[simp] theorem State.onMsix_msix (f) : (s.onMsix f).msix = f s.msix := rfl
@[simp] theorem State.onMsix_readData (f) : (s.onMsix f).readData = s.readData := rfl
@[simp] theorem State.onMsix_lowHeld (f) : (s.onMsix f).lowHeld = s.lowHeld := rfl
@[simp] theorem State.onMsix_highHeld (f) : (s.onMsix f).highHeld = s.highHeld := rfl
@[simp] theorem State.onMsix_events (f) : (s.onMsix f).events = s.events := rfl
@[simp] theorem State.onMsix_seqs (f) : (s.onMsix f).seqs = s.seqs := rfl
@[simp] theorem State.onMsix_tick (f) : (s.onMsix f).tick = s.tick := rfl
@[simp] theorem State.onMsix_gears (f) : (s.onMsix f).gears = s.gears := rfl
@[simp] theorem State.onMsix_routers (f) : (s.onMsix f).routers = s.routers := rfl
@[simp] theorem State.onMsix_links (f) : (s.onMsix f).links = s.links := rfl
@[simp] theorem State.onMsix_cores (f) : (s.onMsix f).cores = s.cores := rfl
@[simp] theorem State.onMsix_vats (f) : (s.onMsix f).vats = s.vats := rfl
@[simp] theorem State.onMsix_roles (f) : (s.onMsix f).roles = s.roles := rfl
@[simp] theorem State.onMsix_mem (f) : (s.onMsix f).mem = s.mem := rfl
@[simp] theorem State.onMsix_xl (f) : (s.onMsix f).xl = s.xl := rfl
@[simp] theorem State.onMsix_objs (f) : (s.onMsix f).objs = s.objs := rfl
@[simp] theorem State.onMsix_qos (f) : (s.onMsix f).qos = s.qos := rfl
@[simp] theorem State.onMsix_cc (f) : (s.onMsix f).cc = s.cc := rfl
@[simp] theorem State.onMsix_keys (f) : (s.onMsix f).keys = s.keys := rfl
@[simp] theorem State.onMsix_flt (f) : (s.onMsix f).flt = s.flt := rfl
@[simp] theorem State.onMsix_power (f) : (s.onMsix f).power = s.power := rfl
@[simp] theorem State.onMsix_fuses (f) : (s.onMsix f).fuses = s.fuses := rfl
@[simp] theorem State.onMsix_j0 (f) : (s.onMsix f).j0 = s.j0 := rfl
@[simp] theorem State.onMsix_j1 (f) : (s.onMsix f).j1 = s.j1 := rfl
@[simp] theorem State.onMsix_boot (f) : (s.onMsix f).boot = s.boot := rfl
@[simp] theorem State.onMsix_hp (f) : (s.onMsix f).hp = s.hp := rfl
@[simp] theorem State.onMsix_cxlPorts (f) : (s.onMsix f).cxlPorts = s.cxlPorts := rfl
@[simp] theorem State.onMsix_cxlDevs (f) : (s.onMsix f).cxlDevs = s.cxlDevs := rfl
@[simp] theorem State.onMsix_cap (f) : (s.onMsix f).cap = s.cap := rfl
@[simp] theorem State.onMsix_side (f) : (s.onMsix f).side = s.side := rfl
@[simp] theorem State.onMsix_pins (f) : (s.onMsix f).pins = s.pins := rfl

/-! ### After an update of `readData` -/

@[simp] theorem State.onReadData_pending (f) : (s.onReadData f).pending = s.pending := rfl
@[simp] theorem State.onReadData_fresh (f) : (s.onReadData f).fresh = s.fresh := rfl
@[simp] theorem State.onReadData_host (f) : (s.onReadData f).host = s.host := rfl
@[simp] theorem State.onReadData_out (f) : (s.onReadData f).out = s.out := rfl
@[simp] theorem State.onReadData_msix (f) : (s.onReadData f).msix = s.msix := rfl
@[simp] theorem State.onReadData_readData (f) : (s.onReadData f).readData = f s.readData := rfl
@[simp] theorem State.onReadData_lowHeld (f) : (s.onReadData f).lowHeld = s.lowHeld := rfl
@[simp] theorem State.onReadData_highHeld (f) : (s.onReadData f).highHeld = s.highHeld := rfl
@[simp] theorem State.onReadData_events (f) : (s.onReadData f).events = s.events := rfl
@[simp] theorem State.onReadData_seqs (f) : (s.onReadData f).seqs = s.seqs := rfl
@[simp] theorem State.onReadData_tick (f) : (s.onReadData f).tick = s.tick := rfl
@[simp] theorem State.onReadData_gears (f) : (s.onReadData f).gears = s.gears := rfl
@[simp] theorem State.onReadData_routers (f) : (s.onReadData f).routers = s.routers := rfl
@[simp] theorem State.onReadData_links (f) : (s.onReadData f).links = s.links := rfl
@[simp] theorem State.onReadData_cores (f) : (s.onReadData f).cores = s.cores := rfl
@[simp] theorem State.onReadData_vats (f) : (s.onReadData f).vats = s.vats := rfl
@[simp] theorem State.onReadData_roles (f) : (s.onReadData f).roles = s.roles := rfl
@[simp] theorem State.onReadData_mem (f) : (s.onReadData f).mem = s.mem := rfl
@[simp] theorem State.onReadData_xl (f) : (s.onReadData f).xl = s.xl := rfl
@[simp] theorem State.onReadData_objs (f) : (s.onReadData f).objs = s.objs := rfl
@[simp] theorem State.onReadData_qos (f) : (s.onReadData f).qos = s.qos := rfl
@[simp] theorem State.onReadData_cc (f) : (s.onReadData f).cc = s.cc := rfl
@[simp] theorem State.onReadData_keys (f) : (s.onReadData f).keys = s.keys := rfl
@[simp] theorem State.onReadData_flt (f) : (s.onReadData f).flt = s.flt := rfl
@[simp] theorem State.onReadData_power (f) : (s.onReadData f).power = s.power := rfl
@[simp] theorem State.onReadData_fuses (f) : (s.onReadData f).fuses = s.fuses := rfl
@[simp] theorem State.onReadData_j0 (f) : (s.onReadData f).j0 = s.j0 := rfl
@[simp] theorem State.onReadData_j1 (f) : (s.onReadData f).j1 = s.j1 := rfl
@[simp] theorem State.onReadData_boot (f) : (s.onReadData f).boot = s.boot := rfl
@[simp] theorem State.onReadData_hp (f) : (s.onReadData f).hp = s.hp := rfl
@[simp] theorem State.onReadData_cxlPorts (f) : (s.onReadData f).cxlPorts = s.cxlPorts := rfl
@[simp] theorem State.onReadData_cxlDevs (f) : (s.onReadData f).cxlDevs = s.cxlDevs := rfl
@[simp] theorem State.onReadData_cap (f) : (s.onReadData f).cap = s.cap := rfl
@[simp] theorem State.onReadData_side (f) : (s.onReadData f).side = s.side := rfl
@[simp] theorem State.onReadData_pins (f) : (s.onReadData f).pins = s.pins := rfl

/-! ### After an update of `lowHeld` -/

@[simp] theorem State.onLowHeld_pending (f) : (s.onLowHeld f).pending = s.pending := rfl
@[simp] theorem State.onLowHeld_fresh (f) : (s.onLowHeld f).fresh = s.fresh := rfl
@[simp] theorem State.onLowHeld_host (f) : (s.onLowHeld f).host = s.host := rfl
@[simp] theorem State.onLowHeld_out (f) : (s.onLowHeld f).out = s.out := rfl
@[simp] theorem State.onLowHeld_msix (f) : (s.onLowHeld f).msix = s.msix := rfl
@[simp] theorem State.onLowHeld_readData (f) : (s.onLowHeld f).readData = s.readData := rfl
@[simp] theorem State.onLowHeld_lowHeld (f) : (s.onLowHeld f).lowHeld = f s.lowHeld := rfl
@[simp] theorem State.onLowHeld_highHeld (f) : (s.onLowHeld f).highHeld = s.highHeld := rfl
@[simp] theorem State.onLowHeld_events (f) : (s.onLowHeld f).events = s.events := rfl
@[simp] theorem State.onLowHeld_seqs (f) : (s.onLowHeld f).seqs = s.seqs := rfl
@[simp] theorem State.onLowHeld_tick (f) : (s.onLowHeld f).tick = s.tick := rfl
@[simp] theorem State.onLowHeld_gears (f) : (s.onLowHeld f).gears = s.gears := rfl
@[simp] theorem State.onLowHeld_routers (f) : (s.onLowHeld f).routers = s.routers := rfl
@[simp] theorem State.onLowHeld_links (f) : (s.onLowHeld f).links = s.links := rfl
@[simp] theorem State.onLowHeld_cores (f) : (s.onLowHeld f).cores = s.cores := rfl
@[simp] theorem State.onLowHeld_vats (f) : (s.onLowHeld f).vats = s.vats := rfl
@[simp] theorem State.onLowHeld_roles (f) : (s.onLowHeld f).roles = s.roles := rfl
@[simp] theorem State.onLowHeld_mem (f) : (s.onLowHeld f).mem = s.mem := rfl
@[simp] theorem State.onLowHeld_xl (f) : (s.onLowHeld f).xl = s.xl := rfl
@[simp] theorem State.onLowHeld_objs (f) : (s.onLowHeld f).objs = s.objs := rfl
@[simp] theorem State.onLowHeld_qos (f) : (s.onLowHeld f).qos = s.qos := rfl
@[simp] theorem State.onLowHeld_cc (f) : (s.onLowHeld f).cc = s.cc := rfl
@[simp] theorem State.onLowHeld_keys (f) : (s.onLowHeld f).keys = s.keys := rfl
@[simp] theorem State.onLowHeld_flt (f) : (s.onLowHeld f).flt = s.flt := rfl
@[simp] theorem State.onLowHeld_power (f) : (s.onLowHeld f).power = s.power := rfl
@[simp] theorem State.onLowHeld_fuses (f) : (s.onLowHeld f).fuses = s.fuses := rfl
@[simp] theorem State.onLowHeld_j0 (f) : (s.onLowHeld f).j0 = s.j0 := rfl
@[simp] theorem State.onLowHeld_j1 (f) : (s.onLowHeld f).j1 = s.j1 := rfl
@[simp] theorem State.onLowHeld_boot (f) : (s.onLowHeld f).boot = s.boot := rfl
@[simp] theorem State.onLowHeld_hp (f) : (s.onLowHeld f).hp = s.hp := rfl
@[simp] theorem State.onLowHeld_cxlPorts (f) : (s.onLowHeld f).cxlPorts = s.cxlPorts := rfl
@[simp] theorem State.onLowHeld_cxlDevs (f) : (s.onLowHeld f).cxlDevs = s.cxlDevs := rfl
@[simp] theorem State.onLowHeld_cap (f) : (s.onLowHeld f).cap = s.cap := rfl
@[simp] theorem State.onLowHeld_side (f) : (s.onLowHeld f).side = s.side := rfl
@[simp] theorem State.onLowHeld_pins (f) : (s.onLowHeld f).pins = s.pins := rfl

/-! ### After an update of `highHeld` -/

@[simp] theorem State.onHighHeld_pending (f) : (s.onHighHeld f).pending = s.pending := rfl
@[simp] theorem State.onHighHeld_fresh (f) : (s.onHighHeld f).fresh = s.fresh := rfl
@[simp] theorem State.onHighHeld_host (f) : (s.onHighHeld f).host = s.host := rfl
@[simp] theorem State.onHighHeld_out (f) : (s.onHighHeld f).out = s.out := rfl
@[simp] theorem State.onHighHeld_msix (f) : (s.onHighHeld f).msix = s.msix := rfl
@[simp] theorem State.onHighHeld_readData (f) : (s.onHighHeld f).readData = s.readData := rfl
@[simp] theorem State.onHighHeld_lowHeld (f) : (s.onHighHeld f).lowHeld = s.lowHeld := rfl
@[simp] theorem State.onHighHeld_highHeld (f) : (s.onHighHeld f).highHeld = f s.highHeld := rfl
@[simp] theorem State.onHighHeld_events (f) : (s.onHighHeld f).events = s.events := rfl
@[simp] theorem State.onHighHeld_seqs (f) : (s.onHighHeld f).seqs = s.seqs := rfl
@[simp] theorem State.onHighHeld_tick (f) : (s.onHighHeld f).tick = s.tick := rfl
@[simp] theorem State.onHighHeld_gears (f) : (s.onHighHeld f).gears = s.gears := rfl
@[simp] theorem State.onHighHeld_routers (f) : (s.onHighHeld f).routers = s.routers := rfl
@[simp] theorem State.onHighHeld_links (f) : (s.onHighHeld f).links = s.links := rfl
@[simp] theorem State.onHighHeld_cores (f) : (s.onHighHeld f).cores = s.cores := rfl
@[simp] theorem State.onHighHeld_vats (f) : (s.onHighHeld f).vats = s.vats := rfl
@[simp] theorem State.onHighHeld_roles (f) : (s.onHighHeld f).roles = s.roles := rfl
@[simp] theorem State.onHighHeld_mem (f) : (s.onHighHeld f).mem = s.mem := rfl
@[simp] theorem State.onHighHeld_xl (f) : (s.onHighHeld f).xl = s.xl := rfl
@[simp] theorem State.onHighHeld_objs (f) : (s.onHighHeld f).objs = s.objs := rfl
@[simp] theorem State.onHighHeld_qos (f) : (s.onHighHeld f).qos = s.qos := rfl
@[simp] theorem State.onHighHeld_cc (f) : (s.onHighHeld f).cc = s.cc := rfl
@[simp] theorem State.onHighHeld_keys (f) : (s.onHighHeld f).keys = s.keys := rfl
@[simp] theorem State.onHighHeld_flt (f) : (s.onHighHeld f).flt = s.flt := rfl
@[simp] theorem State.onHighHeld_power (f) : (s.onHighHeld f).power = s.power := rfl
@[simp] theorem State.onHighHeld_fuses (f) : (s.onHighHeld f).fuses = s.fuses := rfl
@[simp] theorem State.onHighHeld_j0 (f) : (s.onHighHeld f).j0 = s.j0 := rfl
@[simp] theorem State.onHighHeld_j1 (f) : (s.onHighHeld f).j1 = s.j1 := rfl
@[simp] theorem State.onHighHeld_boot (f) : (s.onHighHeld f).boot = s.boot := rfl
@[simp] theorem State.onHighHeld_hp (f) : (s.onHighHeld f).hp = s.hp := rfl
@[simp] theorem State.onHighHeld_cxlPorts (f) : (s.onHighHeld f).cxlPorts = s.cxlPorts := rfl
@[simp] theorem State.onHighHeld_cxlDevs (f) : (s.onHighHeld f).cxlDevs = s.cxlDevs := rfl
@[simp] theorem State.onHighHeld_cap (f) : (s.onHighHeld f).cap = s.cap := rfl
@[simp] theorem State.onHighHeld_side (f) : (s.onHighHeld f).side = s.side := rfl
@[simp] theorem State.onHighHeld_pins (f) : (s.onHighHeld f).pins = s.pins := rfl

/-! ### After an update of `events` -/

@[simp] theorem State.onEvents_pending (f) : (s.onEvents f).pending = s.pending := rfl
@[simp] theorem State.onEvents_fresh (f) : (s.onEvents f).fresh = s.fresh := rfl
@[simp] theorem State.onEvents_host (f) : (s.onEvents f).host = s.host := rfl
@[simp] theorem State.onEvents_out (f) : (s.onEvents f).out = s.out := rfl
@[simp] theorem State.onEvents_msix (f) : (s.onEvents f).msix = s.msix := rfl
@[simp] theorem State.onEvents_readData (f) : (s.onEvents f).readData = s.readData := rfl
@[simp] theorem State.onEvents_lowHeld (f) : (s.onEvents f).lowHeld = s.lowHeld := rfl
@[simp] theorem State.onEvents_highHeld (f) : (s.onEvents f).highHeld = s.highHeld := rfl
@[simp] theorem State.onEvents_events (f) : (s.onEvents f).events = f s.events := rfl
@[simp] theorem State.onEvents_seqs (f) : (s.onEvents f).seqs = s.seqs := rfl
@[simp] theorem State.onEvents_tick (f) : (s.onEvents f).tick = s.tick := rfl
@[simp] theorem State.onEvents_gears (f) : (s.onEvents f).gears = s.gears := rfl
@[simp] theorem State.onEvents_routers (f) : (s.onEvents f).routers = s.routers := rfl
@[simp] theorem State.onEvents_links (f) : (s.onEvents f).links = s.links := rfl
@[simp] theorem State.onEvents_cores (f) : (s.onEvents f).cores = s.cores := rfl
@[simp] theorem State.onEvents_vats (f) : (s.onEvents f).vats = s.vats := rfl
@[simp] theorem State.onEvents_roles (f) : (s.onEvents f).roles = s.roles := rfl
@[simp] theorem State.onEvents_mem (f) : (s.onEvents f).mem = s.mem := rfl
@[simp] theorem State.onEvents_xl (f) : (s.onEvents f).xl = s.xl := rfl
@[simp] theorem State.onEvents_objs (f) : (s.onEvents f).objs = s.objs := rfl
@[simp] theorem State.onEvents_qos (f) : (s.onEvents f).qos = s.qos := rfl
@[simp] theorem State.onEvents_cc (f) : (s.onEvents f).cc = s.cc := rfl
@[simp] theorem State.onEvents_keys (f) : (s.onEvents f).keys = s.keys := rfl
@[simp] theorem State.onEvents_flt (f) : (s.onEvents f).flt = s.flt := rfl
@[simp] theorem State.onEvents_power (f) : (s.onEvents f).power = s.power := rfl
@[simp] theorem State.onEvents_fuses (f) : (s.onEvents f).fuses = s.fuses := rfl
@[simp] theorem State.onEvents_j0 (f) : (s.onEvents f).j0 = s.j0 := rfl
@[simp] theorem State.onEvents_j1 (f) : (s.onEvents f).j1 = s.j1 := rfl
@[simp] theorem State.onEvents_boot (f) : (s.onEvents f).boot = s.boot := rfl
@[simp] theorem State.onEvents_hp (f) : (s.onEvents f).hp = s.hp := rfl
@[simp] theorem State.onEvents_cxlPorts (f) : (s.onEvents f).cxlPorts = s.cxlPorts := rfl
@[simp] theorem State.onEvents_cxlDevs (f) : (s.onEvents f).cxlDevs = s.cxlDevs := rfl
@[simp] theorem State.onEvents_cap (f) : (s.onEvents f).cap = s.cap := rfl
@[simp] theorem State.onEvents_side (f) : (s.onEvents f).side = s.side := rfl
@[simp] theorem State.onEvents_pins (f) : (s.onEvents f).pins = s.pins := rfl

/-! ### After an update of `seqs` -/

@[simp] theorem State.onSeqs_pending (f) : (s.onSeqs f).pending = s.pending := rfl
@[simp] theorem State.onSeqs_fresh (f) : (s.onSeqs f).fresh = s.fresh := rfl
@[simp] theorem State.onSeqs_host (f) : (s.onSeqs f).host = s.host := rfl
@[simp] theorem State.onSeqs_out (f) : (s.onSeqs f).out = s.out := rfl
@[simp] theorem State.onSeqs_msix (f) : (s.onSeqs f).msix = s.msix := rfl
@[simp] theorem State.onSeqs_readData (f) : (s.onSeqs f).readData = s.readData := rfl
@[simp] theorem State.onSeqs_lowHeld (f) : (s.onSeqs f).lowHeld = s.lowHeld := rfl
@[simp] theorem State.onSeqs_highHeld (f) : (s.onSeqs f).highHeld = s.highHeld := rfl
@[simp] theorem State.onSeqs_events (f) : (s.onSeqs f).events = s.events := rfl
@[simp] theorem State.onSeqs_seqs (f) : (s.onSeqs f).seqs = f s.seqs := rfl
@[simp] theorem State.onSeqs_tick (f) : (s.onSeqs f).tick = s.tick := rfl
@[simp] theorem State.onSeqs_gears (f) : (s.onSeqs f).gears = s.gears := rfl
@[simp] theorem State.onSeqs_routers (f) : (s.onSeqs f).routers = s.routers := rfl
@[simp] theorem State.onSeqs_links (f) : (s.onSeqs f).links = s.links := rfl
@[simp] theorem State.onSeqs_cores (f) : (s.onSeqs f).cores = s.cores := rfl
@[simp] theorem State.onSeqs_vats (f) : (s.onSeqs f).vats = s.vats := rfl
@[simp] theorem State.onSeqs_roles (f) : (s.onSeqs f).roles = s.roles := rfl
@[simp] theorem State.onSeqs_mem (f) : (s.onSeqs f).mem = s.mem := rfl
@[simp] theorem State.onSeqs_xl (f) : (s.onSeqs f).xl = s.xl := rfl
@[simp] theorem State.onSeqs_objs (f) : (s.onSeqs f).objs = s.objs := rfl
@[simp] theorem State.onSeqs_qos (f) : (s.onSeqs f).qos = s.qos := rfl
@[simp] theorem State.onSeqs_cc (f) : (s.onSeqs f).cc = s.cc := rfl
@[simp] theorem State.onSeqs_keys (f) : (s.onSeqs f).keys = s.keys := rfl
@[simp] theorem State.onSeqs_flt (f) : (s.onSeqs f).flt = s.flt := rfl
@[simp] theorem State.onSeqs_power (f) : (s.onSeqs f).power = s.power := rfl
@[simp] theorem State.onSeqs_fuses (f) : (s.onSeqs f).fuses = s.fuses := rfl
@[simp] theorem State.onSeqs_j0 (f) : (s.onSeqs f).j0 = s.j0 := rfl
@[simp] theorem State.onSeqs_j1 (f) : (s.onSeqs f).j1 = s.j1 := rfl
@[simp] theorem State.onSeqs_boot (f) : (s.onSeqs f).boot = s.boot := rfl
@[simp] theorem State.onSeqs_hp (f) : (s.onSeqs f).hp = s.hp := rfl
@[simp] theorem State.onSeqs_cxlPorts (f) : (s.onSeqs f).cxlPorts = s.cxlPorts := rfl
@[simp] theorem State.onSeqs_cxlDevs (f) : (s.onSeqs f).cxlDevs = s.cxlDevs := rfl
@[simp] theorem State.onSeqs_cap (f) : (s.onSeqs f).cap = s.cap := rfl
@[simp] theorem State.onSeqs_side (f) : (s.onSeqs f).side = s.side := rfl
@[simp] theorem State.onSeqs_pins (f) : (s.onSeqs f).pins = s.pins := rfl

/-! ### After an update of `tick` -/

@[simp] theorem State.onTick_pending (f) : (s.onTick f).pending = s.pending := rfl
@[simp] theorem State.onTick_fresh (f) : (s.onTick f).fresh = s.fresh := rfl
@[simp] theorem State.onTick_host (f) : (s.onTick f).host = s.host := rfl
@[simp] theorem State.onTick_out (f) : (s.onTick f).out = s.out := rfl
@[simp] theorem State.onTick_msix (f) : (s.onTick f).msix = s.msix := rfl
@[simp] theorem State.onTick_readData (f) : (s.onTick f).readData = s.readData := rfl
@[simp] theorem State.onTick_lowHeld (f) : (s.onTick f).lowHeld = s.lowHeld := rfl
@[simp] theorem State.onTick_highHeld (f) : (s.onTick f).highHeld = s.highHeld := rfl
@[simp] theorem State.onTick_events (f) : (s.onTick f).events = s.events := rfl
@[simp] theorem State.onTick_seqs (f) : (s.onTick f).seqs = s.seqs := rfl
@[simp] theorem State.onTick_tick (f) : (s.onTick f).tick = f s.tick := rfl
@[simp] theorem State.onTick_gears (f) : (s.onTick f).gears = s.gears := rfl
@[simp] theorem State.onTick_routers (f) : (s.onTick f).routers = s.routers := rfl
@[simp] theorem State.onTick_links (f) : (s.onTick f).links = s.links := rfl
@[simp] theorem State.onTick_cores (f) : (s.onTick f).cores = s.cores := rfl
@[simp] theorem State.onTick_vats (f) : (s.onTick f).vats = s.vats := rfl
@[simp] theorem State.onTick_roles (f) : (s.onTick f).roles = s.roles := rfl
@[simp] theorem State.onTick_mem (f) : (s.onTick f).mem = s.mem := rfl
@[simp] theorem State.onTick_xl (f) : (s.onTick f).xl = s.xl := rfl
@[simp] theorem State.onTick_objs (f) : (s.onTick f).objs = s.objs := rfl
@[simp] theorem State.onTick_qos (f) : (s.onTick f).qos = s.qos := rfl
@[simp] theorem State.onTick_cc (f) : (s.onTick f).cc = s.cc := rfl
@[simp] theorem State.onTick_keys (f) : (s.onTick f).keys = s.keys := rfl
@[simp] theorem State.onTick_flt (f) : (s.onTick f).flt = s.flt := rfl
@[simp] theorem State.onTick_power (f) : (s.onTick f).power = s.power := rfl
@[simp] theorem State.onTick_fuses (f) : (s.onTick f).fuses = s.fuses := rfl
@[simp] theorem State.onTick_j0 (f) : (s.onTick f).j0 = s.j0 := rfl
@[simp] theorem State.onTick_j1 (f) : (s.onTick f).j1 = s.j1 := rfl
@[simp] theorem State.onTick_boot (f) : (s.onTick f).boot = s.boot := rfl
@[simp] theorem State.onTick_hp (f) : (s.onTick f).hp = s.hp := rfl
@[simp] theorem State.onTick_cxlPorts (f) : (s.onTick f).cxlPorts = s.cxlPorts := rfl
@[simp] theorem State.onTick_cxlDevs (f) : (s.onTick f).cxlDevs = s.cxlDevs := rfl
@[simp] theorem State.onTick_cap (f) : (s.onTick f).cap = s.cap := rfl
@[simp] theorem State.onTick_side (f) : (s.onTick f).side = s.side := rfl
@[simp] theorem State.onTick_pins (f) : (s.onTick f).pins = s.pins := rfl

/-! ### After an update of `gears` -/

@[simp] theorem State.onGears_pending (f) : (s.onGears f).pending = s.pending := rfl
@[simp] theorem State.onGears_fresh (f) : (s.onGears f).fresh = s.fresh := rfl
@[simp] theorem State.onGears_host (f) : (s.onGears f).host = s.host := rfl
@[simp] theorem State.onGears_out (f) : (s.onGears f).out = s.out := rfl
@[simp] theorem State.onGears_msix (f) : (s.onGears f).msix = s.msix := rfl
@[simp] theorem State.onGears_readData (f) : (s.onGears f).readData = s.readData := rfl
@[simp] theorem State.onGears_lowHeld (f) : (s.onGears f).lowHeld = s.lowHeld := rfl
@[simp] theorem State.onGears_highHeld (f) : (s.onGears f).highHeld = s.highHeld := rfl
@[simp] theorem State.onGears_events (f) : (s.onGears f).events = s.events := rfl
@[simp] theorem State.onGears_seqs (f) : (s.onGears f).seqs = s.seqs := rfl
@[simp] theorem State.onGears_tick (f) : (s.onGears f).tick = s.tick := rfl
@[simp] theorem State.onGears_gears (f) : (s.onGears f).gears = f s.gears := rfl
@[simp] theorem State.onGears_routers (f) : (s.onGears f).routers = s.routers := rfl
@[simp] theorem State.onGears_links (f) : (s.onGears f).links = s.links := rfl
@[simp] theorem State.onGears_cores (f) : (s.onGears f).cores = s.cores := rfl
@[simp] theorem State.onGears_vats (f) : (s.onGears f).vats = s.vats := rfl
@[simp] theorem State.onGears_roles (f) : (s.onGears f).roles = s.roles := rfl
@[simp] theorem State.onGears_mem (f) : (s.onGears f).mem = s.mem := rfl
@[simp] theorem State.onGears_xl (f) : (s.onGears f).xl = s.xl := rfl
@[simp] theorem State.onGears_objs (f) : (s.onGears f).objs = s.objs := rfl
@[simp] theorem State.onGears_qos (f) : (s.onGears f).qos = s.qos := rfl
@[simp] theorem State.onGears_cc (f) : (s.onGears f).cc = s.cc := rfl
@[simp] theorem State.onGears_keys (f) : (s.onGears f).keys = s.keys := rfl
@[simp] theorem State.onGears_flt (f) : (s.onGears f).flt = s.flt := rfl
@[simp] theorem State.onGears_power (f) : (s.onGears f).power = s.power := rfl
@[simp] theorem State.onGears_fuses (f) : (s.onGears f).fuses = s.fuses := rfl
@[simp] theorem State.onGears_j0 (f) : (s.onGears f).j0 = s.j0 := rfl
@[simp] theorem State.onGears_j1 (f) : (s.onGears f).j1 = s.j1 := rfl
@[simp] theorem State.onGears_boot (f) : (s.onGears f).boot = s.boot := rfl
@[simp] theorem State.onGears_hp (f) : (s.onGears f).hp = s.hp := rfl
@[simp] theorem State.onGears_cxlPorts (f) : (s.onGears f).cxlPorts = s.cxlPorts := rfl
@[simp] theorem State.onGears_cxlDevs (f) : (s.onGears f).cxlDevs = s.cxlDevs := rfl
@[simp] theorem State.onGears_cap (f) : (s.onGears f).cap = s.cap := rfl
@[simp] theorem State.onGears_side (f) : (s.onGears f).side = s.side := rfl
@[simp] theorem State.onGears_pins (f) : (s.onGears f).pins = s.pins := rfl

/-! ### After an update of `routers` -/

@[simp] theorem State.onRouters_pending (f) : (s.onRouters f).pending = s.pending := rfl
@[simp] theorem State.onRouters_fresh (f) : (s.onRouters f).fresh = s.fresh := rfl
@[simp] theorem State.onRouters_host (f) : (s.onRouters f).host = s.host := rfl
@[simp] theorem State.onRouters_out (f) : (s.onRouters f).out = s.out := rfl
@[simp] theorem State.onRouters_msix (f) : (s.onRouters f).msix = s.msix := rfl
@[simp] theorem State.onRouters_readData (f) : (s.onRouters f).readData = s.readData := rfl
@[simp] theorem State.onRouters_lowHeld (f) : (s.onRouters f).lowHeld = s.lowHeld := rfl
@[simp] theorem State.onRouters_highHeld (f) : (s.onRouters f).highHeld = s.highHeld := rfl
@[simp] theorem State.onRouters_events (f) : (s.onRouters f).events = s.events := rfl
@[simp] theorem State.onRouters_seqs (f) : (s.onRouters f).seqs = s.seqs := rfl
@[simp] theorem State.onRouters_tick (f) : (s.onRouters f).tick = s.tick := rfl
@[simp] theorem State.onRouters_gears (f) : (s.onRouters f).gears = s.gears := rfl
@[simp] theorem State.onRouters_routers (f) : (s.onRouters f).routers = f s.routers := rfl
@[simp] theorem State.onRouters_links (f) : (s.onRouters f).links = s.links := rfl
@[simp] theorem State.onRouters_cores (f) : (s.onRouters f).cores = s.cores := rfl
@[simp] theorem State.onRouters_vats (f) : (s.onRouters f).vats = s.vats := rfl
@[simp] theorem State.onRouters_roles (f) : (s.onRouters f).roles = s.roles := rfl
@[simp] theorem State.onRouters_mem (f) : (s.onRouters f).mem = s.mem := rfl
@[simp] theorem State.onRouters_xl (f) : (s.onRouters f).xl = s.xl := rfl
@[simp] theorem State.onRouters_objs (f) : (s.onRouters f).objs = s.objs := rfl
@[simp] theorem State.onRouters_qos (f) : (s.onRouters f).qos = s.qos := rfl
@[simp] theorem State.onRouters_cc (f) : (s.onRouters f).cc = s.cc := rfl
@[simp] theorem State.onRouters_keys (f) : (s.onRouters f).keys = s.keys := rfl
@[simp] theorem State.onRouters_flt (f) : (s.onRouters f).flt = s.flt := rfl
@[simp] theorem State.onRouters_power (f) : (s.onRouters f).power = s.power := rfl
@[simp] theorem State.onRouters_fuses (f) : (s.onRouters f).fuses = s.fuses := rfl
@[simp] theorem State.onRouters_j0 (f) : (s.onRouters f).j0 = s.j0 := rfl
@[simp] theorem State.onRouters_j1 (f) : (s.onRouters f).j1 = s.j1 := rfl
@[simp] theorem State.onRouters_boot (f) : (s.onRouters f).boot = s.boot := rfl
@[simp] theorem State.onRouters_hp (f) : (s.onRouters f).hp = s.hp := rfl
@[simp] theorem State.onRouters_cxlPorts (f) : (s.onRouters f).cxlPorts = s.cxlPorts := rfl
@[simp] theorem State.onRouters_cxlDevs (f) : (s.onRouters f).cxlDevs = s.cxlDevs := rfl
@[simp] theorem State.onRouters_cap (f) : (s.onRouters f).cap = s.cap := rfl
@[simp] theorem State.onRouters_side (f) : (s.onRouters f).side = s.side := rfl
@[simp] theorem State.onRouters_pins (f) : (s.onRouters f).pins = s.pins := rfl

/-! ### After an update of `links` -/

@[simp] theorem State.onLinks_pending (f) : (s.onLinks f).pending = s.pending := rfl
@[simp] theorem State.onLinks_fresh (f) : (s.onLinks f).fresh = s.fresh := rfl
@[simp] theorem State.onLinks_host (f) : (s.onLinks f).host = s.host := rfl
@[simp] theorem State.onLinks_out (f) : (s.onLinks f).out = s.out := rfl
@[simp] theorem State.onLinks_msix (f) : (s.onLinks f).msix = s.msix := rfl
@[simp] theorem State.onLinks_readData (f) : (s.onLinks f).readData = s.readData := rfl
@[simp] theorem State.onLinks_lowHeld (f) : (s.onLinks f).lowHeld = s.lowHeld := rfl
@[simp] theorem State.onLinks_highHeld (f) : (s.onLinks f).highHeld = s.highHeld := rfl
@[simp] theorem State.onLinks_events (f) : (s.onLinks f).events = s.events := rfl
@[simp] theorem State.onLinks_seqs (f) : (s.onLinks f).seqs = s.seqs := rfl
@[simp] theorem State.onLinks_tick (f) : (s.onLinks f).tick = s.tick := rfl
@[simp] theorem State.onLinks_gears (f) : (s.onLinks f).gears = s.gears := rfl
@[simp] theorem State.onLinks_routers (f) : (s.onLinks f).routers = s.routers := rfl
@[simp] theorem State.onLinks_links (f) : (s.onLinks f).links = f s.links := rfl
@[simp] theorem State.onLinks_cores (f) : (s.onLinks f).cores = s.cores := rfl
@[simp] theorem State.onLinks_vats (f) : (s.onLinks f).vats = s.vats := rfl
@[simp] theorem State.onLinks_roles (f) : (s.onLinks f).roles = s.roles := rfl
@[simp] theorem State.onLinks_mem (f) : (s.onLinks f).mem = s.mem := rfl
@[simp] theorem State.onLinks_xl (f) : (s.onLinks f).xl = s.xl := rfl
@[simp] theorem State.onLinks_objs (f) : (s.onLinks f).objs = s.objs := rfl
@[simp] theorem State.onLinks_qos (f) : (s.onLinks f).qos = s.qos := rfl
@[simp] theorem State.onLinks_cc (f) : (s.onLinks f).cc = s.cc := rfl
@[simp] theorem State.onLinks_keys (f) : (s.onLinks f).keys = s.keys := rfl
@[simp] theorem State.onLinks_flt (f) : (s.onLinks f).flt = s.flt := rfl
@[simp] theorem State.onLinks_power (f) : (s.onLinks f).power = s.power := rfl
@[simp] theorem State.onLinks_fuses (f) : (s.onLinks f).fuses = s.fuses := rfl
@[simp] theorem State.onLinks_j0 (f) : (s.onLinks f).j0 = s.j0 := rfl
@[simp] theorem State.onLinks_j1 (f) : (s.onLinks f).j1 = s.j1 := rfl
@[simp] theorem State.onLinks_boot (f) : (s.onLinks f).boot = s.boot := rfl
@[simp] theorem State.onLinks_hp (f) : (s.onLinks f).hp = s.hp := rfl
@[simp] theorem State.onLinks_cxlPorts (f) : (s.onLinks f).cxlPorts = s.cxlPorts := rfl
@[simp] theorem State.onLinks_cxlDevs (f) : (s.onLinks f).cxlDevs = s.cxlDevs := rfl
@[simp] theorem State.onLinks_cap (f) : (s.onLinks f).cap = s.cap := rfl
@[simp] theorem State.onLinks_side (f) : (s.onLinks f).side = s.side := rfl
@[simp] theorem State.onLinks_pins (f) : (s.onLinks f).pins = s.pins := rfl

/-! ### After an update of `cores` -/

@[simp] theorem State.onCores_pending (f) : (s.onCores f).pending = s.pending := rfl
@[simp] theorem State.onCores_fresh (f) : (s.onCores f).fresh = s.fresh := rfl
@[simp] theorem State.onCores_host (f) : (s.onCores f).host = s.host := rfl
@[simp] theorem State.onCores_out (f) : (s.onCores f).out = s.out := rfl
@[simp] theorem State.onCores_msix (f) : (s.onCores f).msix = s.msix := rfl
@[simp] theorem State.onCores_readData (f) : (s.onCores f).readData = s.readData := rfl
@[simp] theorem State.onCores_lowHeld (f) : (s.onCores f).lowHeld = s.lowHeld := rfl
@[simp] theorem State.onCores_highHeld (f) : (s.onCores f).highHeld = s.highHeld := rfl
@[simp] theorem State.onCores_events (f) : (s.onCores f).events = s.events := rfl
@[simp] theorem State.onCores_seqs (f) : (s.onCores f).seqs = s.seqs := rfl
@[simp] theorem State.onCores_tick (f) : (s.onCores f).tick = s.tick := rfl
@[simp] theorem State.onCores_gears (f) : (s.onCores f).gears = s.gears := rfl
@[simp] theorem State.onCores_routers (f) : (s.onCores f).routers = s.routers := rfl
@[simp] theorem State.onCores_links (f) : (s.onCores f).links = s.links := rfl
@[simp] theorem State.onCores_cores (f) : (s.onCores f).cores = f s.cores := rfl
@[simp] theorem State.onCores_vats (f) : (s.onCores f).vats = s.vats := rfl
@[simp] theorem State.onCores_roles (f) : (s.onCores f).roles = s.roles := rfl
@[simp] theorem State.onCores_mem (f) : (s.onCores f).mem = s.mem := rfl
@[simp] theorem State.onCores_xl (f) : (s.onCores f).xl = s.xl := rfl
@[simp] theorem State.onCores_objs (f) : (s.onCores f).objs = s.objs := rfl
@[simp] theorem State.onCores_qos (f) : (s.onCores f).qos = s.qos := rfl
@[simp] theorem State.onCores_cc (f) : (s.onCores f).cc = s.cc := rfl
@[simp] theorem State.onCores_keys (f) : (s.onCores f).keys = s.keys := rfl
@[simp] theorem State.onCores_flt (f) : (s.onCores f).flt = s.flt := rfl
@[simp] theorem State.onCores_power (f) : (s.onCores f).power = s.power := rfl
@[simp] theorem State.onCores_fuses (f) : (s.onCores f).fuses = s.fuses := rfl
@[simp] theorem State.onCores_j0 (f) : (s.onCores f).j0 = s.j0 := rfl
@[simp] theorem State.onCores_j1 (f) : (s.onCores f).j1 = s.j1 := rfl
@[simp] theorem State.onCores_boot (f) : (s.onCores f).boot = s.boot := rfl
@[simp] theorem State.onCores_hp (f) : (s.onCores f).hp = s.hp := rfl
@[simp] theorem State.onCores_cxlPorts (f) : (s.onCores f).cxlPorts = s.cxlPorts := rfl
@[simp] theorem State.onCores_cxlDevs (f) : (s.onCores f).cxlDevs = s.cxlDevs := rfl
@[simp] theorem State.onCores_cap (f) : (s.onCores f).cap = s.cap := rfl
@[simp] theorem State.onCores_side (f) : (s.onCores f).side = s.side := rfl
@[simp] theorem State.onCores_pins (f) : (s.onCores f).pins = s.pins := rfl

/-! ### After an update of `vats` -/

@[simp] theorem State.onVats_pending (f) : (s.onVats f).pending = s.pending := rfl
@[simp] theorem State.onVats_fresh (f) : (s.onVats f).fresh = s.fresh := rfl
@[simp] theorem State.onVats_host (f) : (s.onVats f).host = s.host := rfl
@[simp] theorem State.onVats_out (f) : (s.onVats f).out = s.out := rfl
@[simp] theorem State.onVats_msix (f) : (s.onVats f).msix = s.msix := rfl
@[simp] theorem State.onVats_readData (f) : (s.onVats f).readData = s.readData := rfl
@[simp] theorem State.onVats_lowHeld (f) : (s.onVats f).lowHeld = s.lowHeld := rfl
@[simp] theorem State.onVats_highHeld (f) : (s.onVats f).highHeld = s.highHeld := rfl
@[simp] theorem State.onVats_events (f) : (s.onVats f).events = s.events := rfl
@[simp] theorem State.onVats_seqs (f) : (s.onVats f).seqs = s.seqs := rfl
@[simp] theorem State.onVats_tick (f) : (s.onVats f).tick = s.tick := rfl
@[simp] theorem State.onVats_gears (f) : (s.onVats f).gears = s.gears := rfl
@[simp] theorem State.onVats_routers (f) : (s.onVats f).routers = s.routers := rfl
@[simp] theorem State.onVats_links (f) : (s.onVats f).links = s.links := rfl
@[simp] theorem State.onVats_cores (f) : (s.onVats f).cores = s.cores := rfl
@[simp] theorem State.onVats_vats (f) : (s.onVats f).vats = f s.vats := rfl
@[simp] theorem State.onVats_roles (f) : (s.onVats f).roles = s.roles := rfl
@[simp] theorem State.onVats_mem (f) : (s.onVats f).mem = s.mem := rfl
@[simp] theorem State.onVats_xl (f) : (s.onVats f).xl = s.xl := rfl
@[simp] theorem State.onVats_objs (f) : (s.onVats f).objs = s.objs := rfl
@[simp] theorem State.onVats_qos (f) : (s.onVats f).qos = s.qos := rfl
@[simp] theorem State.onVats_cc (f) : (s.onVats f).cc = s.cc := rfl
@[simp] theorem State.onVats_keys (f) : (s.onVats f).keys = s.keys := rfl
@[simp] theorem State.onVats_flt (f) : (s.onVats f).flt = s.flt := rfl
@[simp] theorem State.onVats_power (f) : (s.onVats f).power = s.power := rfl
@[simp] theorem State.onVats_fuses (f) : (s.onVats f).fuses = s.fuses := rfl
@[simp] theorem State.onVats_j0 (f) : (s.onVats f).j0 = s.j0 := rfl
@[simp] theorem State.onVats_j1 (f) : (s.onVats f).j1 = s.j1 := rfl
@[simp] theorem State.onVats_boot (f) : (s.onVats f).boot = s.boot := rfl
@[simp] theorem State.onVats_hp (f) : (s.onVats f).hp = s.hp := rfl
@[simp] theorem State.onVats_cxlPorts (f) : (s.onVats f).cxlPorts = s.cxlPorts := rfl
@[simp] theorem State.onVats_cxlDevs (f) : (s.onVats f).cxlDevs = s.cxlDevs := rfl
@[simp] theorem State.onVats_cap (f) : (s.onVats f).cap = s.cap := rfl
@[simp] theorem State.onVats_side (f) : (s.onVats f).side = s.side := rfl
@[simp] theorem State.onVats_pins (f) : (s.onVats f).pins = s.pins := rfl

/-! ### After an update of `roles` -/

@[simp] theorem State.onRoles_pending (f) : (s.onRoles f).pending = s.pending := rfl
@[simp] theorem State.onRoles_fresh (f) : (s.onRoles f).fresh = s.fresh := rfl
@[simp] theorem State.onRoles_host (f) : (s.onRoles f).host = s.host := rfl
@[simp] theorem State.onRoles_out (f) : (s.onRoles f).out = s.out := rfl
@[simp] theorem State.onRoles_msix (f) : (s.onRoles f).msix = s.msix := rfl
@[simp] theorem State.onRoles_readData (f) : (s.onRoles f).readData = s.readData := rfl
@[simp] theorem State.onRoles_lowHeld (f) : (s.onRoles f).lowHeld = s.lowHeld := rfl
@[simp] theorem State.onRoles_highHeld (f) : (s.onRoles f).highHeld = s.highHeld := rfl
@[simp] theorem State.onRoles_events (f) : (s.onRoles f).events = s.events := rfl
@[simp] theorem State.onRoles_seqs (f) : (s.onRoles f).seqs = s.seqs := rfl
@[simp] theorem State.onRoles_tick (f) : (s.onRoles f).tick = s.tick := rfl
@[simp] theorem State.onRoles_gears (f) : (s.onRoles f).gears = s.gears := rfl
@[simp] theorem State.onRoles_routers (f) : (s.onRoles f).routers = s.routers := rfl
@[simp] theorem State.onRoles_links (f) : (s.onRoles f).links = s.links := rfl
@[simp] theorem State.onRoles_cores (f) : (s.onRoles f).cores = s.cores := rfl
@[simp] theorem State.onRoles_vats (f) : (s.onRoles f).vats = s.vats := rfl
@[simp] theorem State.onRoles_roles (f) : (s.onRoles f).roles = f s.roles := rfl
@[simp] theorem State.onRoles_mem (f) : (s.onRoles f).mem = s.mem := rfl
@[simp] theorem State.onRoles_xl (f) : (s.onRoles f).xl = s.xl := rfl
@[simp] theorem State.onRoles_objs (f) : (s.onRoles f).objs = s.objs := rfl
@[simp] theorem State.onRoles_qos (f) : (s.onRoles f).qos = s.qos := rfl
@[simp] theorem State.onRoles_cc (f) : (s.onRoles f).cc = s.cc := rfl
@[simp] theorem State.onRoles_keys (f) : (s.onRoles f).keys = s.keys := rfl
@[simp] theorem State.onRoles_flt (f) : (s.onRoles f).flt = s.flt := rfl
@[simp] theorem State.onRoles_power (f) : (s.onRoles f).power = s.power := rfl
@[simp] theorem State.onRoles_fuses (f) : (s.onRoles f).fuses = s.fuses := rfl
@[simp] theorem State.onRoles_j0 (f) : (s.onRoles f).j0 = s.j0 := rfl
@[simp] theorem State.onRoles_j1 (f) : (s.onRoles f).j1 = s.j1 := rfl
@[simp] theorem State.onRoles_boot (f) : (s.onRoles f).boot = s.boot := rfl
@[simp] theorem State.onRoles_hp (f) : (s.onRoles f).hp = s.hp := rfl
@[simp] theorem State.onRoles_cxlPorts (f) : (s.onRoles f).cxlPorts = s.cxlPorts := rfl
@[simp] theorem State.onRoles_cxlDevs (f) : (s.onRoles f).cxlDevs = s.cxlDevs := rfl
@[simp] theorem State.onRoles_cap (f) : (s.onRoles f).cap = s.cap := rfl
@[simp] theorem State.onRoles_side (f) : (s.onRoles f).side = s.side := rfl
@[simp] theorem State.onRoles_pins (f) : (s.onRoles f).pins = s.pins := rfl

/-! ### After an update of `mem` -/

@[simp] theorem State.onMem_pending (f) : (s.onMem f).pending = s.pending := rfl
@[simp] theorem State.onMem_fresh (f) : (s.onMem f).fresh = s.fresh := rfl
@[simp] theorem State.onMem_host (f) : (s.onMem f).host = s.host := rfl
@[simp] theorem State.onMem_out (f) : (s.onMem f).out = s.out := rfl
@[simp] theorem State.onMem_msix (f) : (s.onMem f).msix = s.msix := rfl
@[simp] theorem State.onMem_readData (f) : (s.onMem f).readData = s.readData := rfl
@[simp] theorem State.onMem_lowHeld (f) : (s.onMem f).lowHeld = s.lowHeld := rfl
@[simp] theorem State.onMem_highHeld (f) : (s.onMem f).highHeld = s.highHeld := rfl
@[simp] theorem State.onMem_events (f) : (s.onMem f).events = s.events := rfl
@[simp] theorem State.onMem_seqs (f) : (s.onMem f).seqs = s.seqs := rfl
@[simp] theorem State.onMem_tick (f) : (s.onMem f).tick = s.tick := rfl
@[simp] theorem State.onMem_gears (f) : (s.onMem f).gears = s.gears := rfl
@[simp] theorem State.onMem_routers (f) : (s.onMem f).routers = s.routers := rfl
@[simp] theorem State.onMem_links (f) : (s.onMem f).links = s.links := rfl
@[simp] theorem State.onMem_cores (f) : (s.onMem f).cores = s.cores := rfl
@[simp] theorem State.onMem_vats (f) : (s.onMem f).vats = s.vats := rfl
@[simp] theorem State.onMem_roles (f) : (s.onMem f).roles = s.roles := rfl
@[simp] theorem State.onMem_mem (f) : (s.onMem f).mem = f s.mem := rfl
@[simp] theorem State.onMem_xl (f) : (s.onMem f).xl = s.xl := rfl
@[simp] theorem State.onMem_objs (f) : (s.onMem f).objs = s.objs := rfl
@[simp] theorem State.onMem_qos (f) : (s.onMem f).qos = s.qos := rfl
@[simp] theorem State.onMem_cc (f) : (s.onMem f).cc = s.cc := rfl
@[simp] theorem State.onMem_keys (f) : (s.onMem f).keys = s.keys := rfl
@[simp] theorem State.onMem_flt (f) : (s.onMem f).flt = s.flt := rfl
@[simp] theorem State.onMem_power (f) : (s.onMem f).power = s.power := rfl
@[simp] theorem State.onMem_fuses (f) : (s.onMem f).fuses = s.fuses := rfl
@[simp] theorem State.onMem_j0 (f) : (s.onMem f).j0 = s.j0 := rfl
@[simp] theorem State.onMem_j1 (f) : (s.onMem f).j1 = s.j1 := rfl
@[simp] theorem State.onMem_boot (f) : (s.onMem f).boot = s.boot := rfl
@[simp] theorem State.onMem_hp (f) : (s.onMem f).hp = s.hp := rfl
@[simp] theorem State.onMem_cxlPorts (f) : (s.onMem f).cxlPorts = s.cxlPorts := rfl
@[simp] theorem State.onMem_cxlDevs (f) : (s.onMem f).cxlDevs = s.cxlDevs := rfl
@[simp] theorem State.onMem_cap (f) : (s.onMem f).cap = s.cap := rfl
@[simp] theorem State.onMem_side (f) : (s.onMem f).side = s.side := rfl
@[simp] theorem State.onMem_pins (f) : (s.onMem f).pins = s.pins := rfl

/-! ### After an update of `xl` -/

@[simp] theorem State.onXl_pending (f) : (s.onXl f).pending = s.pending := rfl
@[simp] theorem State.onXl_fresh (f) : (s.onXl f).fresh = s.fresh := rfl
@[simp] theorem State.onXl_host (f) : (s.onXl f).host = s.host := rfl
@[simp] theorem State.onXl_out (f) : (s.onXl f).out = s.out := rfl
@[simp] theorem State.onXl_msix (f) : (s.onXl f).msix = s.msix := rfl
@[simp] theorem State.onXl_readData (f) : (s.onXl f).readData = s.readData := rfl
@[simp] theorem State.onXl_lowHeld (f) : (s.onXl f).lowHeld = s.lowHeld := rfl
@[simp] theorem State.onXl_highHeld (f) : (s.onXl f).highHeld = s.highHeld := rfl
@[simp] theorem State.onXl_events (f) : (s.onXl f).events = s.events := rfl
@[simp] theorem State.onXl_seqs (f) : (s.onXl f).seqs = s.seqs := rfl
@[simp] theorem State.onXl_tick (f) : (s.onXl f).tick = s.tick := rfl
@[simp] theorem State.onXl_gears (f) : (s.onXl f).gears = s.gears := rfl
@[simp] theorem State.onXl_routers (f) : (s.onXl f).routers = s.routers := rfl
@[simp] theorem State.onXl_links (f) : (s.onXl f).links = s.links := rfl
@[simp] theorem State.onXl_cores (f) : (s.onXl f).cores = s.cores := rfl
@[simp] theorem State.onXl_vats (f) : (s.onXl f).vats = s.vats := rfl
@[simp] theorem State.onXl_roles (f) : (s.onXl f).roles = s.roles := rfl
@[simp] theorem State.onXl_mem (f) : (s.onXl f).mem = s.mem := rfl
@[simp] theorem State.onXl_xl (f) : (s.onXl f).xl = f s.xl := rfl
@[simp] theorem State.onXl_objs (f) : (s.onXl f).objs = s.objs := rfl
@[simp] theorem State.onXl_qos (f) : (s.onXl f).qos = s.qos := rfl
@[simp] theorem State.onXl_cc (f) : (s.onXl f).cc = s.cc := rfl
@[simp] theorem State.onXl_keys (f) : (s.onXl f).keys = s.keys := rfl
@[simp] theorem State.onXl_flt (f) : (s.onXl f).flt = s.flt := rfl
@[simp] theorem State.onXl_power (f) : (s.onXl f).power = s.power := rfl
@[simp] theorem State.onXl_fuses (f) : (s.onXl f).fuses = s.fuses := rfl
@[simp] theorem State.onXl_j0 (f) : (s.onXl f).j0 = s.j0 := rfl
@[simp] theorem State.onXl_j1 (f) : (s.onXl f).j1 = s.j1 := rfl
@[simp] theorem State.onXl_boot (f) : (s.onXl f).boot = s.boot := rfl
@[simp] theorem State.onXl_hp (f) : (s.onXl f).hp = s.hp := rfl
@[simp] theorem State.onXl_cxlPorts (f) : (s.onXl f).cxlPorts = s.cxlPorts := rfl
@[simp] theorem State.onXl_cxlDevs (f) : (s.onXl f).cxlDevs = s.cxlDevs := rfl
@[simp] theorem State.onXl_cap (f) : (s.onXl f).cap = s.cap := rfl
@[simp] theorem State.onXl_side (f) : (s.onXl f).side = s.side := rfl
@[simp] theorem State.onXl_pins (f) : (s.onXl f).pins = s.pins := rfl

/-! ### After an update of `objs` -/

@[simp] theorem State.onObjs_pending (f) : (s.onObjs f).pending = s.pending := rfl
@[simp] theorem State.onObjs_fresh (f) : (s.onObjs f).fresh = s.fresh := rfl
@[simp] theorem State.onObjs_host (f) : (s.onObjs f).host = s.host := rfl
@[simp] theorem State.onObjs_out (f) : (s.onObjs f).out = s.out := rfl
@[simp] theorem State.onObjs_msix (f) : (s.onObjs f).msix = s.msix := rfl
@[simp] theorem State.onObjs_readData (f) : (s.onObjs f).readData = s.readData := rfl
@[simp] theorem State.onObjs_lowHeld (f) : (s.onObjs f).lowHeld = s.lowHeld := rfl
@[simp] theorem State.onObjs_highHeld (f) : (s.onObjs f).highHeld = s.highHeld := rfl
@[simp] theorem State.onObjs_events (f) : (s.onObjs f).events = s.events := rfl
@[simp] theorem State.onObjs_seqs (f) : (s.onObjs f).seqs = s.seqs := rfl
@[simp] theorem State.onObjs_tick (f) : (s.onObjs f).tick = s.tick := rfl
@[simp] theorem State.onObjs_gears (f) : (s.onObjs f).gears = s.gears := rfl
@[simp] theorem State.onObjs_routers (f) : (s.onObjs f).routers = s.routers := rfl
@[simp] theorem State.onObjs_links (f) : (s.onObjs f).links = s.links := rfl
@[simp] theorem State.onObjs_cores (f) : (s.onObjs f).cores = s.cores := rfl
@[simp] theorem State.onObjs_vats (f) : (s.onObjs f).vats = s.vats := rfl
@[simp] theorem State.onObjs_roles (f) : (s.onObjs f).roles = s.roles := rfl
@[simp] theorem State.onObjs_mem (f) : (s.onObjs f).mem = s.mem := rfl
@[simp] theorem State.onObjs_xl (f) : (s.onObjs f).xl = s.xl := rfl
@[simp] theorem State.onObjs_objs (f) : (s.onObjs f).objs = f s.objs := rfl
@[simp] theorem State.onObjs_qos (f) : (s.onObjs f).qos = s.qos := rfl
@[simp] theorem State.onObjs_cc (f) : (s.onObjs f).cc = s.cc := rfl
@[simp] theorem State.onObjs_keys (f) : (s.onObjs f).keys = s.keys := rfl
@[simp] theorem State.onObjs_flt (f) : (s.onObjs f).flt = s.flt := rfl
@[simp] theorem State.onObjs_power (f) : (s.onObjs f).power = s.power := rfl
@[simp] theorem State.onObjs_fuses (f) : (s.onObjs f).fuses = s.fuses := rfl
@[simp] theorem State.onObjs_j0 (f) : (s.onObjs f).j0 = s.j0 := rfl
@[simp] theorem State.onObjs_j1 (f) : (s.onObjs f).j1 = s.j1 := rfl
@[simp] theorem State.onObjs_boot (f) : (s.onObjs f).boot = s.boot := rfl
@[simp] theorem State.onObjs_hp (f) : (s.onObjs f).hp = s.hp := rfl
@[simp] theorem State.onObjs_cxlPorts (f) : (s.onObjs f).cxlPorts = s.cxlPorts := rfl
@[simp] theorem State.onObjs_cxlDevs (f) : (s.onObjs f).cxlDevs = s.cxlDevs := rfl
@[simp] theorem State.onObjs_cap (f) : (s.onObjs f).cap = s.cap := rfl
@[simp] theorem State.onObjs_side (f) : (s.onObjs f).side = s.side := rfl
@[simp] theorem State.onObjs_pins (f) : (s.onObjs f).pins = s.pins := rfl

/-! ### After an update of `qos` -/

@[simp] theorem State.onQos_pending (f) : (s.onQos f).pending = s.pending := rfl
@[simp] theorem State.onQos_fresh (f) : (s.onQos f).fresh = s.fresh := rfl
@[simp] theorem State.onQos_host (f) : (s.onQos f).host = s.host := rfl
@[simp] theorem State.onQos_out (f) : (s.onQos f).out = s.out := rfl
@[simp] theorem State.onQos_msix (f) : (s.onQos f).msix = s.msix := rfl
@[simp] theorem State.onQos_readData (f) : (s.onQos f).readData = s.readData := rfl
@[simp] theorem State.onQos_lowHeld (f) : (s.onQos f).lowHeld = s.lowHeld := rfl
@[simp] theorem State.onQos_highHeld (f) : (s.onQos f).highHeld = s.highHeld := rfl
@[simp] theorem State.onQos_events (f) : (s.onQos f).events = s.events := rfl
@[simp] theorem State.onQos_seqs (f) : (s.onQos f).seqs = s.seqs := rfl
@[simp] theorem State.onQos_tick (f) : (s.onQos f).tick = s.tick := rfl
@[simp] theorem State.onQos_gears (f) : (s.onQos f).gears = s.gears := rfl
@[simp] theorem State.onQos_routers (f) : (s.onQos f).routers = s.routers := rfl
@[simp] theorem State.onQos_links (f) : (s.onQos f).links = s.links := rfl
@[simp] theorem State.onQos_cores (f) : (s.onQos f).cores = s.cores := rfl
@[simp] theorem State.onQos_vats (f) : (s.onQos f).vats = s.vats := rfl
@[simp] theorem State.onQos_roles (f) : (s.onQos f).roles = s.roles := rfl
@[simp] theorem State.onQos_mem (f) : (s.onQos f).mem = s.mem := rfl
@[simp] theorem State.onQos_xl (f) : (s.onQos f).xl = s.xl := rfl
@[simp] theorem State.onQos_objs (f) : (s.onQos f).objs = s.objs := rfl
@[simp] theorem State.onQos_qos (f) : (s.onQos f).qos = f s.qos := rfl
@[simp] theorem State.onQos_cc (f) : (s.onQos f).cc = s.cc := rfl
@[simp] theorem State.onQos_keys (f) : (s.onQos f).keys = s.keys := rfl
@[simp] theorem State.onQos_flt (f) : (s.onQos f).flt = s.flt := rfl
@[simp] theorem State.onQos_power (f) : (s.onQos f).power = s.power := rfl
@[simp] theorem State.onQos_fuses (f) : (s.onQos f).fuses = s.fuses := rfl
@[simp] theorem State.onQos_j0 (f) : (s.onQos f).j0 = s.j0 := rfl
@[simp] theorem State.onQos_j1 (f) : (s.onQos f).j1 = s.j1 := rfl
@[simp] theorem State.onQos_boot (f) : (s.onQos f).boot = s.boot := rfl
@[simp] theorem State.onQos_hp (f) : (s.onQos f).hp = s.hp := rfl
@[simp] theorem State.onQos_cxlPorts (f) : (s.onQos f).cxlPorts = s.cxlPorts := rfl
@[simp] theorem State.onQos_cxlDevs (f) : (s.onQos f).cxlDevs = s.cxlDevs := rfl
@[simp] theorem State.onQos_cap (f) : (s.onQos f).cap = s.cap := rfl
@[simp] theorem State.onQos_side (f) : (s.onQos f).side = s.side := rfl
@[simp] theorem State.onQos_pins (f) : (s.onQos f).pins = s.pins := rfl

/-! ### After an update of `cc` -/

@[simp] theorem State.onCc_pending (f) : (s.onCc f).pending = s.pending := rfl
@[simp] theorem State.onCc_fresh (f) : (s.onCc f).fresh = s.fresh := rfl
@[simp] theorem State.onCc_host (f) : (s.onCc f).host = s.host := rfl
@[simp] theorem State.onCc_out (f) : (s.onCc f).out = s.out := rfl
@[simp] theorem State.onCc_msix (f) : (s.onCc f).msix = s.msix := rfl
@[simp] theorem State.onCc_readData (f) : (s.onCc f).readData = s.readData := rfl
@[simp] theorem State.onCc_lowHeld (f) : (s.onCc f).lowHeld = s.lowHeld := rfl
@[simp] theorem State.onCc_highHeld (f) : (s.onCc f).highHeld = s.highHeld := rfl
@[simp] theorem State.onCc_events (f) : (s.onCc f).events = s.events := rfl
@[simp] theorem State.onCc_seqs (f) : (s.onCc f).seqs = s.seqs := rfl
@[simp] theorem State.onCc_tick (f) : (s.onCc f).tick = s.tick := rfl
@[simp] theorem State.onCc_gears (f) : (s.onCc f).gears = s.gears := rfl
@[simp] theorem State.onCc_routers (f) : (s.onCc f).routers = s.routers := rfl
@[simp] theorem State.onCc_links (f) : (s.onCc f).links = s.links := rfl
@[simp] theorem State.onCc_cores (f) : (s.onCc f).cores = s.cores := rfl
@[simp] theorem State.onCc_vats (f) : (s.onCc f).vats = s.vats := rfl
@[simp] theorem State.onCc_roles (f) : (s.onCc f).roles = s.roles := rfl
@[simp] theorem State.onCc_mem (f) : (s.onCc f).mem = s.mem := rfl
@[simp] theorem State.onCc_xl (f) : (s.onCc f).xl = s.xl := rfl
@[simp] theorem State.onCc_objs (f) : (s.onCc f).objs = s.objs := rfl
@[simp] theorem State.onCc_qos (f) : (s.onCc f).qos = s.qos := rfl
@[simp] theorem State.onCc_cc (f) : (s.onCc f).cc = f s.cc := rfl
@[simp] theorem State.onCc_keys (f) : (s.onCc f).keys = s.keys := rfl
@[simp] theorem State.onCc_flt (f) : (s.onCc f).flt = s.flt := rfl
@[simp] theorem State.onCc_power (f) : (s.onCc f).power = s.power := rfl
@[simp] theorem State.onCc_fuses (f) : (s.onCc f).fuses = s.fuses := rfl
@[simp] theorem State.onCc_j0 (f) : (s.onCc f).j0 = s.j0 := rfl
@[simp] theorem State.onCc_j1 (f) : (s.onCc f).j1 = s.j1 := rfl
@[simp] theorem State.onCc_boot (f) : (s.onCc f).boot = s.boot := rfl
@[simp] theorem State.onCc_hp (f) : (s.onCc f).hp = s.hp := rfl
@[simp] theorem State.onCc_cxlPorts (f) : (s.onCc f).cxlPorts = s.cxlPorts := rfl
@[simp] theorem State.onCc_cxlDevs (f) : (s.onCc f).cxlDevs = s.cxlDevs := rfl
@[simp] theorem State.onCc_cap (f) : (s.onCc f).cap = s.cap := rfl
@[simp] theorem State.onCc_side (f) : (s.onCc f).side = s.side := rfl
@[simp] theorem State.onCc_pins (f) : (s.onCc f).pins = s.pins := rfl

/-! ### After an update of `keys` -/

@[simp] theorem State.onKeys_pending (f) : (s.onKeys f).pending = s.pending := rfl
@[simp] theorem State.onKeys_fresh (f) : (s.onKeys f).fresh = s.fresh := rfl
@[simp] theorem State.onKeys_host (f) : (s.onKeys f).host = s.host := rfl
@[simp] theorem State.onKeys_out (f) : (s.onKeys f).out = s.out := rfl
@[simp] theorem State.onKeys_msix (f) : (s.onKeys f).msix = s.msix := rfl
@[simp] theorem State.onKeys_readData (f) : (s.onKeys f).readData = s.readData := rfl
@[simp] theorem State.onKeys_lowHeld (f) : (s.onKeys f).lowHeld = s.lowHeld := rfl
@[simp] theorem State.onKeys_highHeld (f) : (s.onKeys f).highHeld = s.highHeld := rfl
@[simp] theorem State.onKeys_events (f) : (s.onKeys f).events = s.events := rfl
@[simp] theorem State.onKeys_seqs (f) : (s.onKeys f).seqs = s.seqs := rfl
@[simp] theorem State.onKeys_tick (f) : (s.onKeys f).tick = s.tick := rfl
@[simp] theorem State.onKeys_gears (f) : (s.onKeys f).gears = s.gears := rfl
@[simp] theorem State.onKeys_routers (f) : (s.onKeys f).routers = s.routers := rfl
@[simp] theorem State.onKeys_links (f) : (s.onKeys f).links = s.links := rfl
@[simp] theorem State.onKeys_cores (f) : (s.onKeys f).cores = s.cores := rfl
@[simp] theorem State.onKeys_vats (f) : (s.onKeys f).vats = s.vats := rfl
@[simp] theorem State.onKeys_roles (f) : (s.onKeys f).roles = s.roles := rfl
@[simp] theorem State.onKeys_mem (f) : (s.onKeys f).mem = s.mem := rfl
@[simp] theorem State.onKeys_xl (f) : (s.onKeys f).xl = s.xl := rfl
@[simp] theorem State.onKeys_objs (f) : (s.onKeys f).objs = s.objs := rfl
@[simp] theorem State.onKeys_qos (f) : (s.onKeys f).qos = s.qos := rfl
@[simp] theorem State.onKeys_cc (f) : (s.onKeys f).cc = s.cc := rfl
@[simp] theorem State.onKeys_keys (f) : (s.onKeys f).keys = f s.keys := rfl
@[simp] theorem State.onKeys_flt (f) : (s.onKeys f).flt = s.flt := rfl
@[simp] theorem State.onKeys_power (f) : (s.onKeys f).power = s.power := rfl
@[simp] theorem State.onKeys_fuses (f) : (s.onKeys f).fuses = s.fuses := rfl
@[simp] theorem State.onKeys_j0 (f) : (s.onKeys f).j0 = s.j0 := rfl
@[simp] theorem State.onKeys_j1 (f) : (s.onKeys f).j1 = s.j1 := rfl
@[simp] theorem State.onKeys_boot (f) : (s.onKeys f).boot = s.boot := rfl
@[simp] theorem State.onKeys_hp (f) : (s.onKeys f).hp = s.hp := rfl
@[simp] theorem State.onKeys_cxlPorts (f) : (s.onKeys f).cxlPorts = s.cxlPorts := rfl
@[simp] theorem State.onKeys_cxlDevs (f) : (s.onKeys f).cxlDevs = s.cxlDevs := rfl
@[simp] theorem State.onKeys_cap (f) : (s.onKeys f).cap = s.cap := rfl
@[simp] theorem State.onKeys_side (f) : (s.onKeys f).side = s.side := rfl
@[simp] theorem State.onKeys_pins (f) : (s.onKeys f).pins = s.pins := rfl

/-! ### After an update of `flt` -/

@[simp] theorem State.onFlt_pending (f) : (s.onFlt f).pending = s.pending := rfl
@[simp] theorem State.onFlt_fresh (f) : (s.onFlt f).fresh = s.fresh := rfl
@[simp] theorem State.onFlt_host (f) : (s.onFlt f).host = s.host := rfl
@[simp] theorem State.onFlt_out (f) : (s.onFlt f).out = s.out := rfl
@[simp] theorem State.onFlt_msix (f) : (s.onFlt f).msix = s.msix := rfl
@[simp] theorem State.onFlt_readData (f) : (s.onFlt f).readData = s.readData := rfl
@[simp] theorem State.onFlt_lowHeld (f) : (s.onFlt f).lowHeld = s.lowHeld := rfl
@[simp] theorem State.onFlt_highHeld (f) : (s.onFlt f).highHeld = s.highHeld := rfl
@[simp] theorem State.onFlt_events (f) : (s.onFlt f).events = s.events := rfl
@[simp] theorem State.onFlt_seqs (f) : (s.onFlt f).seqs = s.seqs := rfl
@[simp] theorem State.onFlt_tick (f) : (s.onFlt f).tick = s.tick := rfl
@[simp] theorem State.onFlt_gears (f) : (s.onFlt f).gears = s.gears := rfl
@[simp] theorem State.onFlt_routers (f) : (s.onFlt f).routers = s.routers := rfl
@[simp] theorem State.onFlt_links (f) : (s.onFlt f).links = s.links := rfl
@[simp] theorem State.onFlt_cores (f) : (s.onFlt f).cores = s.cores := rfl
@[simp] theorem State.onFlt_vats (f) : (s.onFlt f).vats = s.vats := rfl
@[simp] theorem State.onFlt_roles (f) : (s.onFlt f).roles = s.roles := rfl
@[simp] theorem State.onFlt_mem (f) : (s.onFlt f).mem = s.mem := rfl
@[simp] theorem State.onFlt_xl (f) : (s.onFlt f).xl = s.xl := rfl
@[simp] theorem State.onFlt_objs (f) : (s.onFlt f).objs = s.objs := rfl
@[simp] theorem State.onFlt_qos (f) : (s.onFlt f).qos = s.qos := rfl
@[simp] theorem State.onFlt_cc (f) : (s.onFlt f).cc = s.cc := rfl
@[simp] theorem State.onFlt_keys (f) : (s.onFlt f).keys = s.keys := rfl
@[simp] theorem State.onFlt_flt (f) : (s.onFlt f).flt = f s.flt := rfl
@[simp] theorem State.onFlt_power (f) : (s.onFlt f).power = s.power := rfl
@[simp] theorem State.onFlt_fuses (f) : (s.onFlt f).fuses = s.fuses := rfl
@[simp] theorem State.onFlt_j0 (f) : (s.onFlt f).j0 = s.j0 := rfl
@[simp] theorem State.onFlt_j1 (f) : (s.onFlt f).j1 = s.j1 := rfl
@[simp] theorem State.onFlt_boot (f) : (s.onFlt f).boot = s.boot := rfl
@[simp] theorem State.onFlt_hp (f) : (s.onFlt f).hp = s.hp := rfl
@[simp] theorem State.onFlt_cxlPorts (f) : (s.onFlt f).cxlPorts = s.cxlPorts := rfl
@[simp] theorem State.onFlt_cxlDevs (f) : (s.onFlt f).cxlDevs = s.cxlDevs := rfl
@[simp] theorem State.onFlt_cap (f) : (s.onFlt f).cap = s.cap := rfl
@[simp] theorem State.onFlt_side (f) : (s.onFlt f).side = s.side := rfl
@[simp] theorem State.onFlt_pins (f) : (s.onFlt f).pins = s.pins := rfl

/-! ### After an update of `power` -/

@[simp] theorem State.onPower_pending (f) : (s.onPower f).pending = s.pending := rfl
@[simp] theorem State.onPower_fresh (f) : (s.onPower f).fresh = s.fresh := rfl
@[simp] theorem State.onPower_host (f) : (s.onPower f).host = s.host := rfl
@[simp] theorem State.onPower_out (f) : (s.onPower f).out = s.out := rfl
@[simp] theorem State.onPower_msix (f) : (s.onPower f).msix = s.msix := rfl
@[simp] theorem State.onPower_readData (f) : (s.onPower f).readData = s.readData := rfl
@[simp] theorem State.onPower_lowHeld (f) : (s.onPower f).lowHeld = s.lowHeld := rfl
@[simp] theorem State.onPower_highHeld (f) : (s.onPower f).highHeld = s.highHeld := rfl
@[simp] theorem State.onPower_events (f) : (s.onPower f).events = s.events := rfl
@[simp] theorem State.onPower_seqs (f) : (s.onPower f).seqs = s.seqs := rfl
@[simp] theorem State.onPower_tick (f) : (s.onPower f).tick = s.tick := rfl
@[simp] theorem State.onPower_gears (f) : (s.onPower f).gears = s.gears := rfl
@[simp] theorem State.onPower_routers (f) : (s.onPower f).routers = s.routers := rfl
@[simp] theorem State.onPower_links (f) : (s.onPower f).links = s.links := rfl
@[simp] theorem State.onPower_cores (f) : (s.onPower f).cores = s.cores := rfl
@[simp] theorem State.onPower_vats (f) : (s.onPower f).vats = s.vats := rfl
@[simp] theorem State.onPower_roles (f) : (s.onPower f).roles = s.roles := rfl
@[simp] theorem State.onPower_mem (f) : (s.onPower f).mem = s.mem := rfl
@[simp] theorem State.onPower_xl (f) : (s.onPower f).xl = s.xl := rfl
@[simp] theorem State.onPower_objs (f) : (s.onPower f).objs = s.objs := rfl
@[simp] theorem State.onPower_qos (f) : (s.onPower f).qos = s.qos := rfl
@[simp] theorem State.onPower_cc (f) : (s.onPower f).cc = s.cc := rfl
@[simp] theorem State.onPower_keys (f) : (s.onPower f).keys = s.keys := rfl
@[simp] theorem State.onPower_flt (f) : (s.onPower f).flt = s.flt := rfl
@[simp] theorem State.onPower_power (f) : (s.onPower f).power = f s.power := rfl
@[simp] theorem State.onPower_fuses (f) : (s.onPower f).fuses = s.fuses := rfl
@[simp] theorem State.onPower_j0 (f) : (s.onPower f).j0 = s.j0 := rfl
@[simp] theorem State.onPower_j1 (f) : (s.onPower f).j1 = s.j1 := rfl
@[simp] theorem State.onPower_boot (f) : (s.onPower f).boot = s.boot := rfl
@[simp] theorem State.onPower_hp (f) : (s.onPower f).hp = s.hp := rfl
@[simp] theorem State.onPower_cxlPorts (f) : (s.onPower f).cxlPorts = s.cxlPorts := rfl
@[simp] theorem State.onPower_cxlDevs (f) : (s.onPower f).cxlDevs = s.cxlDevs := rfl
@[simp] theorem State.onPower_cap (f) : (s.onPower f).cap = s.cap := rfl
@[simp] theorem State.onPower_side (f) : (s.onPower f).side = s.side := rfl
@[simp] theorem State.onPower_pins (f) : (s.onPower f).pins = s.pins := rfl

/-! ### After an update of `fuses` -/

@[simp] theorem State.onFuses_pending (f) : (s.onFuses f).pending = s.pending := rfl
@[simp] theorem State.onFuses_fresh (f) : (s.onFuses f).fresh = s.fresh := rfl
@[simp] theorem State.onFuses_host (f) : (s.onFuses f).host = s.host := rfl
@[simp] theorem State.onFuses_out (f) : (s.onFuses f).out = s.out := rfl
@[simp] theorem State.onFuses_msix (f) : (s.onFuses f).msix = s.msix := rfl
@[simp] theorem State.onFuses_readData (f) : (s.onFuses f).readData = s.readData := rfl
@[simp] theorem State.onFuses_lowHeld (f) : (s.onFuses f).lowHeld = s.lowHeld := rfl
@[simp] theorem State.onFuses_highHeld (f) : (s.onFuses f).highHeld = s.highHeld := rfl
@[simp] theorem State.onFuses_events (f) : (s.onFuses f).events = s.events := rfl
@[simp] theorem State.onFuses_seqs (f) : (s.onFuses f).seqs = s.seqs := rfl
@[simp] theorem State.onFuses_tick (f) : (s.onFuses f).tick = s.tick := rfl
@[simp] theorem State.onFuses_gears (f) : (s.onFuses f).gears = s.gears := rfl
@[simp] theorem State.onFuses_routers (f) : (s.onFuses f).routers = s.routers := rfl
@[simp] theorem State.onFuses_links (f) : (s.onFuses f).links = s.links := rfl
@[simp] theorem State.onFuses_cores (f) : (s.onFuses f).cores = s.cores := rfl
@[simp] theorem State.onFuses_vats (f) : (s.onFuses f).vats = s.vats := rfl
@[simp] theorem State.onFuses_roles (f) : (s.onFuses f).roles = s.roles := rfl
@[simp] theorem State.onFuses_mem (f) : (s.onFuses f).mem = s.mem := rfl
@[simp] theorem State.onFuses_xl (f) : (s.onFuses f).xl = s.xl := rfl
@[simp] theorem State.onFuses_objs (f) : (s.onFuses f).objs = s.objs := rfl
@[simp] theorem State.onFuses_qos (f) : (s.onFuses f).qos = s.qos := rfl
@[simp] theorem State.onFuses_cc (f) : (s.onFuses f).cc = s.cc := rfl
@[simp] theorem State.onFuses_keys (f) : (s.onFuses f).keys = s.keys := rfl
@[simp] theorem State.onFuses_flt (f) : (s.onFuses f).flt = s.flt := rfl
@[simp] theorem State.onFuses_power (f) : (s.onFuses f).power = s.power := rfl
@[simp] theorem State.onFuses_fuses (f) : (s.onFuses f).fuses = f s.fuses := rfl
@[simp] theorem State.onFuses_j0 (f) : (s.onFuses f).j0 = s.j0 := rfl
@[simp] theorem State.onFuses_j1 (f) : (s.onFuses f).j1 = s.j1 := rfl
@[simp] theorem State.onFuses_boot (f) : (s.onFuses f).boot = s.boot := rfl
@[simp] theorem State.onFuses_hp (f) : (s.onFuses f).hp = s.hp := rfl
@[simp] theorem State.onFuses_cxlPorts (f) : (s.onFuses f).cxlPorts = s.cxlPorts := rfl
@[simp] theorem State.onFuses_cxlDevs (f) : (s.onFuses f).cxlDevs = s.cxlDevs := rfl
@[simp] theorem State.onFuses_cap (f) : (s.onFuses f).cap = s.cap := rfl
@[simp] theorem State.onFuses_side (f) : (s.onFuses f).side = s.side := rfl
@[simp] theorem State.onFuses_pins (f) : (s.onFuses f).pins = s.pins := rfl

/-! ### After an update of `j0` -/

@[simp] theorem State.onJ0_pending (f) : (s.onJ0 f).pending = s.pending := rfl
@[simp] theorem State.onJ0_fresh (f) : (s.onJ0 f).fresh = s.fresh := rfl
@[simp] theorem State.onJ0_host (f) : (s.onJ0 f).host = s.host := rfl
@[simp] theorem State.onJ0_out (f) : (s.onJ0 f).out = s.out := rfl
@[simp] theorem State.onJ0_msix (f) : (s.onJ0 f).msix = s.msix := rfl
@[simp] theorem State.onJ0_readData (f) : (s.onJ0 f).readData = s.readData := rfl
@[simp] theorem State.onJ0_lowHeld (f) : (s.onJ0 f).lowHeld = s.lowHeld := rfl
@[simp] theorem State.onJ0_highHeld (f) : (s.onJ0 f).highHeld = s.highHeld := rfl
@[simp] theorem State.onJ0_events (f) : (s.onJ0 f).events = s.events := rfl
@[simp] theorem State.onJ0_seqs (f) : (s.onJ0 f).seqs = s.seqs := rfl
@[simp] theorem State.onJ0_tick (f) : (s.onJ0 f).tick = s.tick := rfl
@[simp] theorem State.onJ0_gears (f) : (s.onJ0 f).gears = s.gears := rfl
@[simp] theorem State.onJ0_routers (f) : (s.onJ0 f).routers = s.routers := rfl
@[simp] theorem State.onJ0_links (f) : (s.onJ0 f).links = s.links := rfl
@[simp] theorem State.onJ0_cores (f) : (s.onJ0 f).cores = s.cores := rfl
@[simp] theorem State.onJ0_vats (f) : (s.onJ0 f).vats = s.vats := rfl
@[simp] theorem State.onJ0_roles (f) : (s.onJ0 f).roles = s.roles := rfl
@[simp] theorem State.onJ0_mem (f) : (s.onJ0 f).mem = s.mem := rfl
@[simp] theorem State.onJ0_xl (f) : (s.onJ0 f).xl = s.xl := rfl
@[simp] theorem State.onJ0_objs (f) : (s.onJ0 f).objs = s.objs := rfl
@[simp] theorem State.onJ0_qos (f) : (s.onJ0 f).qos = s.qos := rfl
@[simp] theorem State.onJ0_cc (f) : (s.onJ0 f).cc = s.cc := rfl
@[simp] theorem State.onJ0_keys (f) : (s.onJ0 f).keys = s.keys := rfl
@[simp] theorem State.onJ0_flt (f) : (s.onJ0 f).flt = s.flt := rfl
@[simp] theorem State.onJ0_power (f) : (s.onJ0 f).power = s.power := rfl
@[simp] theorem State.onJ0_fuses (f) : (s.onJ0 f).fuses = s.fuses := rfl
@[simp] theorem State.onJ0_j0 (f) : (s.onJ0 f).j0 = f s.j0 := rfl
@[simp] theorem State.onJ0_j1 (f) : (s.onJ0 f).j1 = s.j1 := rfl
@[simp] theorem State.onJ0_boot (f) : (s.onJ0 f).boot = s.boot := rfl
@[simp] theorem State.onJ0_hp (f) : (s.onJ0 f).hp = s.hp := rfl
@[simp] theorem State.onJ0_cxlPorts (f) : (s.onJ0 f).cxlPorts = s.cxlPorts := rfl
@[simp] theorem State.onJ0_cxlDevs (f) : (s.onJ0 f).cxlDevs = s.cxlDevs := rfl
@[simp] theorem State.onJ0_cap (f) : (s.onJ0 f).cap = s.cap := rfl
@[simp] theorem State.onJ0_side (f) : (s.onJ0 f).side = s.side := rfl
@[simp] theorem State.onJ0_pins (f) : (s.onJ0 f).pins = s.pins := rfl

/-! ### After an update of `j1` -/

@[simp] theorem State.onJ1_pending (f) : (s.onJ1 f).pending = s.pending := rfl
@[simp] theorem State.onJ1_fresh (f) : (s.onJ1 f).fresh = s.fresh := rfl
@[simp] theorem State.onJ1_host (f) : (s.onJ1 f).host = s.host := rfl
@[simp] theorem State.onJ1_out (f) : (s.onJ1 f).out = s.out := rfl
@[simp] theorem State.onJ1_msix (f) : (s.onJ1 f).msix = s.msix := rfl
@[simp] theorem State.onJ1_readData (f) : (s.onJ1 f).readData = s.readData := rfl
@[simp] theorem State.onJ1_lowHeld (f) : (s.onJ1 f).lowHeld = s.lowHeld := rfl
@[simp] theorem State.onJ1_highHeld (f) : (s.onJ1 f).highHeld = s.highHeld := rfl
@[simp] theorem State.onJ1_events (f) : (s.onJ1 f).events = s.events := rfl
@[simp] theorem State.onJ1_seqs (f) : (s.onJ1 f).seqs = s.seqs := rfl
@[simp] theorem State.onJ1_tick (f) : (s.onJ1 f).tick = s.tick := rfl
@[simp] theorem State.onJ1_gears (f) : (s.onJ1 f).gears = s.gears := rfl
@[simp] theorem State.onJ1_routers (f) : (s.onJ1 f).routers = s.routers := rfl
@[simp] theorem State.onJ1_links (f) : (s.onJ1 f).links = s.links := rfl
@[simp] theorem State.onJ1_cores (f) : (s.onJ1 f).cores = s.cores := rfl
@[simp] theorem State.onJ1_vats (f) : (s.onJ1 f).vats = s.vats := rfl
@[simp] theorem State.onJ1_roles (f) : (s.onJ1 f).roles = s.roles := rfl
@[simp] theorem State.onJ1_mem (f) : (s.onJ1 f).mem = s.mem := rfl
@[simp] theorem State.onJ1_xl (f) : (s.onJ1 f).xl = s.xl := rfl
@[simp] theorem State.onJ1_objs (f) : (s.onJ1 f).objs = s.objs := rfl
@[simp] theorem State.onJ1_qos (f) : (s.onJ1 f).qos = s.qos := rfl
@[simp] theorem State.onJ1_cc (f) : (s.onJ1 f).cc = s.cc := rfl
@[simp] theorem State.onJ1_keys (f) : (s.onJ1 f).keys = s.keys := rfl
@[simp] theorem State.onJ1_flt (f) : (s.onJ1 f).flt = s.flt := rfl
@[simp] theorem State.onJ1_power (f) : (s.onJ1 f).power = s.power := rfl
@[simp] theorem State.onJ1_fuses (f) : (s.onJ1 f).fuses = s.fuses := rfl
@[simp] theorem State.onJ1_j0 (f) : (s.onJ1 f).j0 = s.j0 := rfl
@[simp] theorem State.onJ1_j1 (f) : (s.onJ1 f).j1 = f s.j1 := rfl
@[simp] theorem State.onJ1_boot (f) : (s.onJ1 f).boot = s.boot := rfl
@[simp] theorem State.onJ1_hp (f) : (s.onJ1 f).hp = s.hp := rfl
@[simp] theorem State.onJ1_cxlPorts (f) : (s.onJ1 f).cxlPorts = s.cxlPorts := rfl
@[simp] theorem State.onJ1_cxlDevs (f) : (s.onJ1 f).cxlDevs = s.cxlDevs := rfl
@[simp] theorem State.onJ1_cap (f) : (s.onJ1 f).cap = s.cap := rfl
@[simp] theorem State.onJ1_side (f) : (s.onJ1 f).side = s.side := rfl
@[simp] theorem State.onJ1_pins (f) : (s.onJ1 f).pins = s.pins := rfl

/-! ### After an update of `boot` -/

@[simp] theorem State.onBoot_pending (f) : (s.onBoot f).pending = s.pending := rfl
@[simp] theorem State.onBoot_fresh (f) : (s.onBoot f).fresh = s.fresh := rfl
@[simp] theorem State.onBoot_host (f) : (s.onBoot f).host = s.host := rfl
@[simp] theorem State.onBoot_out (f) : (s.onBoot f).out = s.out := rfl
@[simp] theorem State.onBoot_msix (f) : (s.onBoot f).msix = s.msix := rfl
@[simp] theorem State.onBoot_readData (f) : (s.onBoot f).readData = s.readData := rfl
@[simp] theorem State.onBoot_lowHeld (f) : (s.onBoot f).lowHeld = s.lowHeld := rfl
@[simp] theorem State.onBoot_highHeld (f) : (s.onBoot f).highHeld = s.highHeld := rfl
@[simp] theorem State.onBoot_events (f) : (s.onBoot f).events = s.events := rfl
@[simp] theorem State.onBoot_seqs (f) : (s.onBoot f).seqs = s.seqs := rfl
@[simp] theorem State.onBoot_tick (f) : (s.onBoot f).tick = s.tick := rfl
@[simp] theorem State.onBoot_gears (f) : (s.onBoot f).gears = s.gears := rfl
@[simp] theorem State.onBoot_routers (f) : (s.onBoot f).routers = s.routers := rfl
@[simp] theorem State.onBoot_links (f) : (s.onBoot f).links = s.links := rfl
@[simp] theorem State.onBoot_cores (f) : (s.onBoot f).cores = s.cores := rfl
@[simp] theorem State.onBoot_vats (f) : (s.onBoot f).vats = s.vats := rfl
@[simp] theorem State.onBoot_roles (f) : (s.onBoot f).roles = s.roles := rfl
@[simp] theorem State.onBoot_mem (f) : (s.onBoot f).mem = s.mem := rfl
@[simp] theorem State.onBoot_xl (f) : (s.onBoot f).xl = s.xl := rfl
@[simp] theorem State.onBoot_objs (f) : (s.onBoot f).objs = s.objs := rfl
@[simp] theorem State.onBoot_qos (f) : (s.onBoot f).qos = s.qos := rfl
@[simp] theorem State.onBoot_cc (f) : (s.onBoot f).cc = s.cc := rfl
@[simp] theorem State.onBoot_keys (f) : (s.onBoot f).keys = s.keys := rfl
@[simp] theorem State.onBoot_flt (f) : (s.onBoot f).flt = s.flt := rfl
@[simp] theorem State.onBoot_power (f) : (s.onBoot f).power = s.power := rfl
@[simp] theorem State.onBoot_fuses (f) : (s.onBoot f).fuses = s.fuses := rfl
@[simp] theorem State.onBoot_j0 (f) : (s.onBoot f).j0 = s.j0 := rfl
@[simp] theorem State.onBoot_j1 (f) : (s.onBoot f).j1 = s.j1 := rfl
@[simp] theorem State.onBoot_boot (f) : (s.onBoot f).boot = f s.boot := rfl
@[simp] theorem State.onBoot_hp (f) : (s.onBoot f).hp = s.hp := rfl
@[simp] theorem State.onBoot_cxlPorts (f) : (s.onBoot f).cxlPorts = s.cxlPorts := rfl
@[simp] theorem State.onBoot_cxlDevs (f) : (s.onBoot f).cxlDevs = s.cxlDevs := rfl
@[simp] theorem State.onBoot_cap (f) : (s.onBoot f).cap = s.cap := rfl
@[simp] theorem State.onBoot_side (f) : (s.onBoot f).side = s.side := rfl
@[simp] theorem State.onBoot_pins (f) : (s.onBoot f).pins = s.pins := rfl

/-! ### After an update of `hp` -/

@[simp] theorem State.onHp_pending (f) : (s.onHp f).pending = s.pending := rfl
@[simp] theorem State.onHp_fresh (f) : (s.onHp f).fresh = s.fresh := rfl
@[simp] theorem State.onHp_host (f) : (s.onHp f).host = s.host := rfl
@[simp] theorem State.onHp_out (f) : (s.onHp f).out = s.out := rfl
@[simp] theorem State.onHp_msix (f) : (s.onHp f).msix = s.msix := rfl
@[simp] theorem State.onHp_readData (f) : (s.onHp f).readData = s.readData := rfl
@[simp] theorem State.onHp_lowHeld (f) : (s.onHp f).lowHeld = s.lowHeld := rfl
@[simp] theorem State.onHp_highHeld (f) : (s.onHp f).highHeld = s.highHeld := rfl
@[simp] theorem State.onHp_events (f) : (s.onHp f).events = s.events := rfl
@[simp] theorem State.onHp_seqs (f) : (s.onHp f).seqs = s.seqs := rfl
@[simp] theorem State.onHp_tick (f) : (s.onHp f).tick = s.tick := rfl
@[simp] theorem State.onHp_gears (f) : (s.onHp f).gears = s.gears := rfl
@[simp] theorem State.onHp_routers (f) : (s.onHp f).routers = s.routers := rfl
@[simp] theorem State.onHp_links (f) : (s.onHp f).links = s.links := rfl
@[simp] theorem State.onHp_cores (f) : (s.onHp f).cores = s.cores := rfl
@[simp] theorem State.onHp_vats (f) : (s.onHp f).vats = s.vats := rfl
@[simp] theorem State.onHp_roles (f) : (s.onHp f).roles = s.roles := rfl
@[simp] theorem State.onHp_mem (f) : (s.onHp f).mem = s.mem := rfl
@[simp] theorem State.onHp_xl (f) : (s.onHp f).xl = s.xl := rfl
@[simp] theorem State.onHp_objs (f) : (s.onHp f).objs = s.objs := rfl
@[simp] theorem State.onHp_qos (f) : (s.onHp f).qos = s.qos := rfl
@[simp] theorem State.onHp_cc (f) : (s.onHp f).cc = s.cc := rfl
@[simp] theorem State.onHp_keys (f) : (s.onHp f).keys = s.keys := rfl
@[simp] theorem State.onHp_flt (f) : (s.onHp f).flt = s.flt := rfl
@[simp] theorem State.onHp_power (f) : (s.onHp f).power = s.power := rfl
@[simp] theorem State.onHp_fuses (f) : (s.onHp f).fuses = s.fuses := rfl
@[simp] theorem State.onHp_j0 (f) : (s.onHp f).j0 = s.j0 := rfl
@[simp] theorem State.onHp_j1 (f) : (s.onHp f).j1 = s.j1 := rfl
@[simp] theorem State.onHp_boot (f) : (s.onHp f).boot = s.boot := rfl
@[simp] theorem State.onHp_hp (f) : (s.onHp f).hp = f s.hp := rfl
@[simp] theorem State.onHp_cxlPorts (f) : (s.onHp f).cxlPorts = s.cxlPorts := rfl
@[simp] theorem State.onHp_cxlDevs (f) : (s.onHp f).cxlDevs = s.cxlDevs := rfl
@[simp] theorem State.onHp_cap (f) : (s.onHp f).cap = s.cap := rfl
@[simp] theorem State.onHp_side (f) : (s.onHp f).side = s.side := rfl
@[simp] theorem State.onHp_pins (f) : (s.onHp f).pins = s.pins := rfl

/-! ### After an update of `cxlPorts` -/

@[simp] theorem State.onCxlPorts_pending (f) : (s.onCxlPorts f).pending = s.pending := rfl
@[simp] theorem State.onCxlPorts_fresh (f) : (s.onCxlPorts f).fresh = s.fresh := rfl
@[simp] theorem State.onCxlPorts_host (f) : (s.onCxlPorts f).host = s.host := rfl
@[simp] theorem State.onCxlPorts_out (f) : (s.onCxlPorts f).out = s.out := rfl
@[simp] theorem State.onCxlPorts_msix (f) : (s.onCxlPorts f).msix = s.msix := rfl
@[simp] theorem State.onCxlPorts_readData (f) : (s.onCxlPorts f).readData = s.readData := rfl
@[simp] theorem State.onCxlPorts_lowHeld (f) : (s.onCxlPorts f).lowHeld = s.lowHeld := rfl
@[simp] theorem State.onCxlPorts_highHeld (f) : (s.onCxlPorts f).highHeld = s.highHeld := rfl
@[simp] theorem State.onCxlPorts_events (f) : (s.onCxlPorts f).events = s.events := rfl
@[simp] theorem State.onCxlPorts_seqs (f) : (s.onCxlPorts f).seqs = s.seqs := rfl
@[simp] theorem State.onCxlPorts_tick (f) : (s.onCxlPorts f).tick = s.tick := rfl
@[simp] theorem State.onCxlPorts_gears (f) : (s.onCxlPorts f).gears = s.gears := rfl
@[simp] theorem State.onCxlPorts_routers (f) : (s.onCxlPorts f).routers = s.routers := rfl
@[simp] theorem State.onCxlPorts_links (f) : (s.onCxlPorts f).links = s.links := rfl
@[simp] theorem State.onCxlPorts_cores (f) : (s.onCxlPorts f).cores = s.cores := rfl
@[simp] theorem State.onCxlPorts_vats (f) : (s.onCxlPorts f).vats = s.vats := rfl
@[simp] theorem State.onCxlPorts_roles (f) : (s.onCxlPorts f).roles = s.roles := rfl
@[simp] theorem State.onCxlPorts_mem (f) : (s.onCxlPorts f).mem = s.mem := rfl
@[simp] theorem State.onCxlPorts_xl (f) : (s.onCxlPorts f).xl = s.xl := rfl
@[simp] theorem State.onCxlPorts_objs (f) : (s.onCxlPorts f).objs = s.objs := rfl
@[simp] theorem State.onCxlPorts_qos (f) : (s.onCxlPorts f).qos = s.qos := rfl
@[simp] theorem State.onCxlPorts_cc (f) : (s.onCxlPorts f).cc = s.cc := rfl
@[simp] theorem State.onCxlPorts_keys (f) : (s.onCxlPorts f).keys = s.keys := rfl
@[simp] theorem State.onCxlPorts_flt (f) : (s.onCxlPorts f).flt = s.flt := rfl
@[simp] theorem State.onCxlPorts_power (f) : (s.onCxlPorts f).power = s.power := rfl
@[simp] theorem State.onCxlPorts_fuses (f) : (s.onCxlPorts f).fuses = s.fuses := rfl
@[simp] theorem State.onCxlPorts_j0 (f) : (s.onCxlPorts f).j0 = s.j0 := rfl
@[simp] theorem State.onCxlPorts_j1 (f) : (s.onCxlPorts f).j1 = s.j1 := rfl
@[simp] theorem State.onCxlPorts_boot (f) : (s.onCxlPorts f).boot = s.boot := rfl
@[simp] theorem State.onCxlPorts_hp (f) : (s.onCxlPorts f).hp = s.hp := rfl
@[simp] theorem State.onCxlPorts_cxlPorts (f) : (s.onCxlPorts f).cxlPorts = f s.cxlPorts := rfl
@[simp] theorem State.onCxlPorts_cxlDevs (f) : (s.onCxlPorts f).cxlDevs = s.cxlDevs := rfl
@[simp] theorem State.onCxlPorts_cap (f) : (s.onCxlPorts f).cap = s.cap := rfl
@[simp] theorem State.onCxlPorts_side (f) : (s.onCxlPorts f).side = s.side := rfl
@[simp] theorem State.onCxlPorts_pins (f) : (s.onCxlPorts f).pins = s.pins := rfl

/-! ### After an update of `cxlDevs` -/

@[simp] theorem State.onCxlDevs_pending (f) : (s.onCxlDevs f).pending = s.pending := rfl
@[simp] theorem State.onCxlDevs_fresh (f) : (s.onCxlDevs f).fresh = s.fresh := rfl
@[simp] theorem State.onCxlDevs_host (f) : (s.onCxlDevs f).host = s.host := rfl
@[simp] theorem State.onCxlDevs_out (f) : (s.onCxlDevs f).out = s.out := rfl
@[simp] theorem State.onCxlDevs_msix (f) : (s.onCxlDevs f).msix = s.msix := rfl
@[simp] theorem State.onCxlDevs_readData (f) : (s.onCxlDevs f).readData = s.readData := rfl
@[simp] theorem State.onCxlDevs_lowHeld (f) : (s.onCxlDevs f).lowHeld = s.lowHeld := rfl
@[simp] theorem State.onCxlDevs_highHeld (f) : (s.onCxlDevs f).highHeld = s.highHeld := rfl
@[simp] theorem State.onCxlDevs_events (f) : (s.onCxlDevs f).events = s.events := rfl
@[simp] theorem State.onCxlDevs_seqs (f) : (s.onCxlDevs f).seqs = s.seqs := rfl
@[simp] theorem State.onCxlDevs_tick (f) : (s.onCxlDevs f).tick = s.tick := rfl
@[simp] theorem State.onCxlDevs_gears (f) : (s.onCxlDevs f).gears = s.gears := rfl
@[simp] theorem State.onCxlDevs_routers (f) : (s.onCxlDevs f).routers = s.routers := rfl
@[simp] theorem State.onCxlDevs_links (f) : (s.onCxlDevs f).links = s.links := rfl
@[simp] theorem State.onCxlDevs_cores (f) : (s.onCxlDevs f).cores = s.cores := rfl
@[simp] theorem State.onCxlDevs_vats (f) : (s.onCxlDevs f).vats = s.vats := rfl
@[simp] theorem State.onCxlDevs_roles (f) : (s.onCxlDevs f).roles = s.roles := rfl
@[simp] theorem State.onCxlDevs_mem (f) : (s.onCxlDevs f).mem = s.mem := rfl
@[simp] theorem State.onCxlDevs_xl (f) : (s.onCxlDevs f).xl = s.xl := rfl
@[simp] theorem State.onCxlDevs_objs (f) : (s.onCxlDevs f).objs = s.objs := rfl
@[simp] theorem State.onCxlDevs_qos (f) : (s.onCxlDevs f).qos = s.qos := rfl
@[simp] theorem State.onCxlDevs_cc (f) : (s.onCxlDevs f).cc = s.cc := rfl
@[simp] theorem State.onCxlDevs_keys (f) : (s.onCxlDevs f).keys = s.keys := rfl
@[simp] theorem State.onCxlDevs_flt (f) : (s.onCxlDevs f).flt = s.flt := rfl
@[simp] theorem State.onCxlDevs_power (f) : (s.onCxlDevs f).power = s.power := rfl
@[simp] theorem State.onCxlDevs_fuses (f) : (s.onCxlDevs f).fuses = s.fuses := rfl
@[simp] theorem State.onCxlDevs_j0 (f) : (s.onCxlDevs f).j0 = s.j0 := rfl
@[simp] theorem State.onCxlDevs_j1 (f) : (s.onCxlDevs f).j1 = s.j1 := rfl
@[simp] theorem State.onCxlDevs_boot (f) : (s.onCxlDevs f).boot = s.boot := rfl
@[simp] theorem State.onCxlDevs_hp (f) : (s.onCxlDevs f).hp = s.hp := rfl
@[simp] theorem State.onCxlDevs_cxlPorts (f) : (s.onCxlDevs f).cxlPorts = s.cxlPorts := rfl
@[simp] theorem State.onCxlDevs_cxlDevs (f) : (s.onCxlDevs f).cxlDevs = f s.cxlDevs := rfl
@[simp] theorem State.onCxlDevs_cap (f) : (s.onCxlDevs f).cap = s.cap := rfl
@[simp] theorem State.onCxlDevs_side (f) : (s.onCxlDevs f).side = s.side := rfl
@[simp] theorem State.onCxlDevs_pins (f) : (s.onCxlDevs f).pins = s.pins := rfl

/-! ### After an update of `cap` -/

@[simp] theorem State.onCap_pending (f) : (s.onCap f).pending = s.pending := rfl
@[simp] theorem State.onCap_fresh (f) : (s.onCap f).fresh = s.fresh := rfl
@[simp] theorem State.onCap_host (f) : (s.onCap f).host = s.host := rfl
@[simp] theorem State.onCap_out (f) : (s.onCap f).out = s.out := rfl
@[simp] theorem State.onCap_msix (f) : (s.onCap f).msix = s.msix := rfl
@[simp] theorem State.onCap_readData (f) : (s.onCap f).readData = s.readData := rfl
@[simp] theorem State.onCap_lowHeld (f) : (s.onCap f).lowHeld = s.lowHeld := rfl
@[simp] theorem State.onCap_highHeld (f) : (s.onCap f).highHeld = s.highHeld := rfl
@[simp] theorem State.onCap_events (f) : (s.onCap f).events = s.events := rfl
@[simp] theorem State.onCap_seqs (f) : (s.onCap f).seqs = s.seqs := rfl
@[simp] theorem State.onCap_tick (f) : (s.onCap f).tick = s.tick := rfl
@[simp] theorem State.onCap_gears (f) : (s.onCap f).gears = s.gears := rfl
@[simp] theorem State.onCap_routers (f) : (s.onCap f).routers = s.routers := rfl
@[simp] theorem State.onCap_links (f) : (s.onCap f).links = s.links := rfl
@[simp] theorem State.onCap_cores (f) : (s.onCap f).cores = s.cores := rfl
@[simp] theorem State.onCap_vats (f) : (s.onCap f).vats = s.vats := rfl
@[simp] theorem State.onCap_roles (f) : (s.onCap f).roles = s.roles := rfl
@[simp] theorem State.onCap_mem (f) : (s.onCap f).mem = s.mem := rfl
@[simp] theorem State.onCap_xl (f) : (s.onCap f).xl = s.xl := rfl
@[simp] theorem State.onCap_objs (f) : (s.onCap f).objs = s.objs := rfl
@[simp] theorem State.onCap_qos (f) : (s.onCap f).qos = s.qos := rfl
@[simp] theorem State.onCap_cc (f) : (s.onCap f).cc = s.cc := rfl
@[simp] theorem State.onCap_keys (f) : (s.onCap f).keys = s.keys := rfl
@[simp] theorem State.onCap_flt (f) : (s.onCap f).flt = s.flt := rfl
@[simp] theorem State.onCap_power (f) : (s.onCap f).power = s.power := rfl
@[simp] theorem State.onCap_fuses (f) : (s.onCap f).fuses = s.fuses := rfl
@[simp] theorem State.onCap_j0 (f) : (s.onCap f).j0 = s.j0 := rfl
@[simp] theorem State.onCap_j1 (f) : (s.onCap f).j1 = s.j1 := rfl
@[simp] theorem State.onCap_boot (f) : (s.onCap f).boot = s.boot := rfl
@[simp] theorem State.onCap_hp (f) : (s.onCap f).hp = s.hp := rfl
@[simp] theorem State.onCap_cxlPorts (f) : (s.onCap f).cxlPorts = s.cxlPorts := rfl
@[simp] theorem State.onCap_cxlDevs (f) : (s.onCap f).cxlDevs = s.cxlDevs := rfl
@[simp] theorem State.onCap_cap (f) : (s.onCap f).cap = f s.cap := rfl
@[simp] theorem State.onCap_side (f) : (s.onCap f).side = s.side := rfl
@[simp] theorem State.onCap_pins (f) : (s.onCap f).pins = s.pins := rfl

/-! ### After an update of `side` -/

@[simp] theorem State.onSide_pending (f) : (s.onSide f).pending = s.pending := rfl
@[simp] theorem State.onSide_fresh (f) : (s.onSide f).fresh = s.fresh := rfl
@[simp] theorem State.onSide_host (f) : (s.onSide f).host = s.host := rfl
@[simp] theorem State.onSide_out (f) : (s.onSide f).out = s.out := rfl
@[simp] theorem State.onSide_msix (f) : (s.onSide f).msix = s.msix := rfl
@[simp] theorem State.onSide_readData (f) : (s.onSide f).readData = s.readData := rfl
@[simp] theorem State.onSide_lowHeld (f) : (s.onSide f).lowHeld = s.lowHeld := rfl
@[simp] theorem State.onSide_highHeld (f) : (s.onSide f).highHeld = s.highHeld := rfl
@[simp] theorem State.onSide_events (f) : (s.onSide f).events = s.events := rfl
@[simp] theorem State.onSide_seqs (f) : (s.onSide f).seqs = s.seqs := rfl
@[simp] theorem State.onSide_tick (f) : (s.onSide f).tick = s.tick := rfl
@[simp] theorem State.onSide_gears (f) : (s.onSide f).gears = s.gears := rfl
@[simp] theorem State.onSide_routers (f) : (s.onSide f).routers = s.routers := rfl
@[simp] theorem State.onSide_links (f) : (s.onSide f).links = s.links := rfl
@[simp] theorem State.onSide_cores (f) : (s.onSide f).cores = s.cores := rfl
@[simp] theorem State.onSide_vats (f) : (s.onSide f).vats = s.vats := rfl
@[simp] theorem State.onSide_roles (f) : (s.onSide f).roles = s.roles := rfl
@[simp] theorem State.onSide_mem (f) : (s.onSide f).mem = s.mem := rfl
@[simp] theorem State.onSide_xl (f) : (s.onSide f).xl = s.xl := rfl
@[simp] theorem State.onSide_objs (f) : (s.onSide f).objs = s.objs := rfl
@[simp] theorem State.onSide_qos (f) : (s.onSide f).qos = s.qos := rfl
@[simp] theorem State.onSide_cc (f) : (s.onSide f).cc = s.cc := rfl
@[simp] theorem State.onSide_keys (f) : (s.onSide f).keys = s.keys := rfl
@[simp] theorem State.onSide_flt (f) : (s.onSide f).flt = s.flt := rfl
@[simp] theorem State.onSide_power (f) : (s.onSide f).power = s.power := rfl
@[simp] theorem State.onSide_fuses (f) : (s.onSide f).fuses = s.fuses := rfl
@[simp] theorem State.onSide_j0 (f) : (s.onSide f).j0 = s.j0 := rfl
@[simp] theorem State.onSide_j1 (f) : (s.onSide f).j1 = s.j1 := rfl
@[simp] theorem State.onSide_boot (f) : (s.onSide f).boot = s.boot := rfl
@[simp] theorem State.onSide_hp (f) : (s.onSide f).hp = s.hp := rfl
@[simp] theorem State.onSide_cxlPorts (f) : (s.onSide f).cxlPorts = s.cxlPorts := rfl
@[simp] theorem State.onSide_cxlDevs (f) : (s.onSide f).cxlDevs = s.cxlDevs := rfl
@[simp] theorem State.onSide_cap (f) : (s.onSide f).cap = s.cap := rfl
@[simp] theorem State.onSide_side (f) : (s.onSide f).side = f s.side := rfl
@[simp] theorem State.onSide_pins (f) : (s.onSide f).pins = s.pins := rfl

/-! ### After an update of `pins` -/

@[simp] theorem State.onPins_pending (f) : (s.onPins f).pending = s.pending := rfl
@[simp] theorem State.onPins_fresh (f) : (s.onPins f).fresh = s.fresh := rfl
@[simp] theorem State.onPins_host (f) : (s.onPins f).host = s.host := rfl
@[simp] theorem State.onPins_out (f) : (s.onPins f).out = s.out := rfl
@[simp] theorem State.onPins_msix (f) : (s.onPins f).msix = s.msix := rfl
@[simp] theorem State.onPins_readData (f) : (s.onPins f).readData = s.readData := rfl
@[simp] theorem State.onPins_lowHeld (f) : (s.onPins f).lowHeld = s.lowHeld := rfl
@[simp] theorem State.onPins_highHeld (f) : (s.onPins f).highHeld = s.highHeld := rfl
@[simp] theorem State.onPins_events (f) : (s.onPins f).events = s.events := rfl
@[simp] theorem State.onPins_seqs (f) : (s.onPins f).seqs = s.seqs := rfl
@[simp] theorem State.onPins_tick (f) : (s.onPins f).tick = s.tick := rfl
@[simp] theorem State.onPins_gears (f) : (s.onPins f).gears = s.gears := rfl
@[simp] theorem State.onPins_routers (f) : (s.onPins f).routers = s.routers := rfl
@[simp] theorem State.onPins_links (f) : (s.onPins f).links = s.links := rfl
@[simp] theorem State.onPins_cores (f) : (s.onPins f).cores = s.cores := rfl
@[simp] theorem State.onPins_vats (f) : (s.onPins f).vats = s.vats := rfl
@[simp] theorem State.onPins_roles (f) : (s.onPins f).roles = s.roles := rfl
@[simp] theorem State.onPins_mem (f) : (s.onPins f).mem = s.mem := rfl
@[simp] theorem State.onPins_xl (f) : (s.onPins f).xl = s.xl := rfl
@[simp] theorem State.onPins_objs (f) : (s.onPins f).objs = s.objs := rfl
@[simp] theorem State.onPins_qos (f) : (s.onPins f).qos = s.qos := rfl
@[simp] theorem State.onPins_cc (f) : (s.onPins f).cc = s.cc := rfl
@[simp] theorem State.onPins_keys (f) : (s.onPins f).keys = s.keys := rfl
@[simp] theorem State.onPins_flt (f) : (s.onPins f).flt = s.flt := rfl
@[simp] theorem State.onPins_power (f) : (s.onPins f).power = s.power := rfl
@[simp] theorem State.onPins_fuses (f) : (s.onPins f).fuses = s.fuses := rfl
@[simp] theorem State.onPins_j0 (f) : (s.onPins f).j0 = s.j0 := rfl
@[simp] theorem State.onPins_j1 (f) : (s.onPins f).j1 = s.j1 := rfl
@[simp] theorem State.onPins_boot (f) : (s.onPins f).boot = s.boot := rfl
@[simp] theorem State.onPins_hp (f) : (s.onPins f).hp = s.hp := rfl
@[simp] theorem State.onPins_cxlPorts (f) : (s.onPins f).cxlPorts = s.cxlPorts := rfl
@[simp] theorem State.onPins_cxlDevs (f) : (s.onPins f).cxlDevs = s.cxlDevs := rfl
@[simp] theorem State.onPins_cap (f) : (s.onPins f).cap = s.cap := rfl
@[simp] theorem State.onPins_side (f) : (s.onPins f).side = s.side := rfl
@[simp] theorem State.onPins_pins (f) : (s.onPins f).pins = f s.pins := rfl

/-! ### An update that leaves its field, and two updates of one field -/

theorem State.onPending_id : (s.onPending fun x => x) = s := rfl
theorem State.onPending_onPending (f g) : (s.onPending f).onPending g = s.onPending fun x => g (f x) := rfl
theorem State.onFresh_id : (s.onFresh fun x => x) = s := rfl
theorem State.onFresh_onFresh (f g) : (s.onFresh f).onFresh g = s.onFresh fun x => g (f x) := rfl
theorem State.onHost_id : (s.onHost fun x => x) = s := rfl
theorem State.onHost_onHost (f g) : (s.onHost f).onHost g = s.onHost fun x => g (f x) := rfl
theorem State.onOut_id : (s.onOut fun x => x) = s := rfl
theorem State.onOut_onOut (f g) : (s.onOut f).onOut g = s.onOut fun x => g (f x) := rfl
theorem State.onMsix_id : (s.onMsix fun x => x) = s := rfl
theorem State.onMsix_onMsix (f g) : (s.onMsix f).onMsix g = s.onMsix fun x => g (f x) := rfl
theorem State.onReadData_id : (s.onReadData fun x => x) = s := rfl
theorem State.onReadData_onReadData (f g) : (s.onReadData f).onReadData g = s.onReadData fun x => g (f x) := rfl
theorem State.onLowHeld_id : (s.onLowHeld fun x => x) = s := rfl
theorem State.onLowHeld_onLowHeld (f g) : (s.onLowHeld f).onLowHeld g = s.onLowHeld fun x => g (f x) := rfl
theorem State.onHighHeld_id : (s.onHighHeld fun x => x) = s := rfl
theorem State.onHighHeld_onHighHeld (f g) : (s.onHighHeld f).onHighHeld g = s.onHighHeld fun x => g (f x) := rfl
theorem State.onEvents_id : (s.onEvents fun x => x) = s := rfl
theorem State.onEvents_onEvents (f g) : (s.onEvents f).onEvents g = s.onEvents fun x => g (f x) := rfl
theorem State.onSeqs_id : (s.onSeqs fun x => x) = s := rfl
theorem State.onSeqs_onSeqs (f g) : (s.onSeqs f).onSeqs g = s.onSeqs fun x => g (f x) := rfl
theorem State.onTick_id : (s.onTick fun x => x) = s := rfl
theorem State.onTick_onTick (f g) : (s.onTick f).onTick g = s.onTick fun x => g (f x) := rfl
theorem State.onGears_id : (s.onGears fun x => x) = s := rfl
theorem State.onGears_onGears (f g) : (s.onGears f).onGears g = s.onGears fun x => g (f x) := rfl
theorem State.onRouters_id : (s.onRouters fun x => x) = s := rfl
theorem State.onRouters_onRouters (f g) : (s.onRouters f).onRouters g = s.onRouters fun x => g (f x) := rfl
theorem State.onLinks_id : (s.onLinks fun x => x) = s := rfl
theorem State.onLinks_onLinks (f g) : (s.onLinks f).onLinks g = s.onLinks fun x => g (f x) := rfl
theorem State.onCores_id : (s.onCores fun x => x) = s := rfl
theorem State.onCores_onCores (f g) : (s.onCores f).onCores g = s.onCores fun x => g (f x) := rfl
theorem State.onVats_id : (s.onVats fun x => x) = s := rfl
theorem State.onVats_onVats (f g) : (s.onVats f).onVats g = s.onVats fun x => g (f x) := rfl
theorem State.onRoles_id : (s.onRoles fun x => x) = s := rfl
theorem State.onRoles_onRoles (f g) : (s.onRoles f).onRoles g = s.onRoles fun x => g (f x) := rfl
theorem State.onMem_id : (s.onMem fun x => x) = s := rfl
theorem State.onMem_onMem (f g) : (s.onMem f).onMem g = s.onMem fun x => g (f x) := rfl
theorem State.onXl_id : (s.onXl fun x => x) = s := rfl
theorem State.onXl_onXl (f g) : (s.onXl f).onXl g = s.onXl fun x => g (f x) := rfl
theorem State.onObjs_id : (s.onObjs fun x => x) = s := rfl
theorem State.onObjs_onObjs (f g) : (s.onObjs f).onObjs g = s.onObjs fun x => g (f x) := rfl
theorem State.onQos_id : (s.onQos fun x => x) = s := rfl
theorem State.onQos_onQos (f g) : (s.onQos f).onQos g = s.onQos fun x => g (f x) := rfl
theorem State.onCc_id : (s.onCc fun x => x) = s := rfl
theorem State.onCc_onCc (f g) : (s.onCc f).onCc g = s.onCc fun x => g (f x) := rfl
theorem State.onKeys_id : (s.onKeys fun x => x) = s := rfl
theorem State.onKeys_onKeys (f g) : (s.onKeys f).onKeys g = s.onKeys fun x => g (f x) := rfl
theorem State.onFlt_id : (s.onFlt fun x => x) = s := rfl
theorem State.onFlt_onFlt (f g) : (s.onFlt f).onFlt g = s.onFlt fun x => g (f x) := rfl
theorem State.onPower_id : (s.onPower fun x => x) = s := rfl
theorem State.onPower_onPower (f g) : (s.onPower f).onPower g = s.onPower fun x => g (f x) := rfl
theorem State.onFuses_id : (s.onFuses fun x => x) = s := rfl
theorem State.onFuses_onFuses (f g) : (s.onFuses f).onFuses g = s.onFuses fun x => g (f x) := rfl
theorem State.onJ0_id : (s.onJ0 fun x => x) = s := rfl
theorem State.onJ0_onJ0 (f g) : (s.onJ0 f).onJ0 g = s.onJ0 fun x => g (f x) := rfl
theorem State.onJ1_id : (s.onJ1 fun x => x) = s := rfl
theorem State.onJ1_onJ1 (f g) : (s.onJ1 f).onJ1 g = s.onJ1 fun x => g (f x) := rfl
theorem State.onBoot_id : (s.onBoot fun x => x) = s := rfl
theorem State.onBoot_onBoot (f g) : (s.onBoot f).onBoot g = s.onBoot fun x => g (f x) := rfl
theorem State.onHp_id : (s.onHp fun x => x) = s := rfl
theorem State.onHp_onHp (f g) : (s.onHp f).onHp g = s.onHp fun x => g (f x) := rfl
theorem State.onCxlPorts_id : (s.onCxlPorts fun x => x) = s := rfl
theorem State.onCxlPorts_onCxlPorts (f g) : (s.onCxlPorts f).onCxlPorts g = s.onCxlPorts fun x => g (f x) := rfl
theorem State.onCxlDevs_id : (s.onCxlDevs fun x => x) = s := rfl
theorem State.onCxlDevs_onCxlDevs (f g) : (s.onCxlDevs f).onCxlDevs g = s.onCxlDevs fun x => g (f x) := rfl
theorem State.onCap_id : (s.onCap fun x => x) = s := rfl
theorem State.onCap_onCap (f g) : (s.onCap f).onCap g = s.onCap fun x => g (f x) := rfl
theorem State.onSide_id : (s.onSide fun x => x) = s := rfl
theorem State.onSide_onSide (f g) : (s.onSide f).onSide g = s.onSide fun x => g (f x) := rfl
theorem State.onPins_id : (s.onPins fun x => x) = s := rfl
theorem State.onPins_onPins (f g) : (s.onPins f).onPins g = s.onPins fun x => g (f x) := rfl

end Sys2Proof.Machine
end

