-- ==== Sys2Proof/Laws/BootSvn.lean ====
section
/-! SUPPORT. The running Starter's SVN after each operation that brings up no Starter and resets no device: what it was. -/

namespace Sys2Proof.Machine
open Sys2Proof
set_option linter.all false

theorem foldl_boot_svn {α : Type} {g : State → α → State} (h : ∀ t a, (g t a).boot.svn = t.boot.svn) (l : List α) (s : State) : (l.foldl g s).boot.svn = s.boot.svn := by
  induction l generalizing s with
  | nil => rfl
  | cons a l ih => simp [ih, h]

theorem State.onPending_boot_svn (s : State) (f : List Instr → List Instr) : (State.onPending s f).boot.svn = s.boot.svn := rfl
theorem State.onFresh_boot_svn (s : State) (f : Nat → Nat) : (State.onFresh s f).boot.svn = s.boot.svn := rfl
theorem State.onHost_boot_svn (s : State) (f : List Host.Cell → List Host.Cell) : (State.onHost s f).boot.svn = s.boot.svn := rfl
theorem State.onOut_boot_svn (s : State) (f : List Msg → List Msg) : (State.onOut s f).boot.svn = s.boot.svn := rfl
theorem State.onMsix_boot_svn (s : State) (f : List (Nat × Nat) → List (Nat × Nat)) : (State.onMsix s f).boot.svn = s.boot.svn := rfl
theorem State.onReadData_boot_svn (s : State) (f : Nat → Nat) : (State.onReadData s f).boot.svn = s.boot.svn := rfl
theorem State.onLowHeld_boot_svn (s : State) (f : SMap Nat → SMap Nat) : (State.onLowHeld s f).boot.svn = s.boot.svn := rfl
theorem State.onHighHeld_boot_svn (s : State) (f : SMap Nat → SMap Nat) : (State.onHighHeld s f).boot.svn = s.boot.svn := rfl
theorem State.onEvents_boot_svn (s : State) (f : List Event → List Event) : (State.onEvents s f).boot.svn = s.boot.svn := rfl
theorem State.onSeqs_boot_svn (s : State) (f : SMap Nat → SMap Nat) : (State.onSeqs s f).boot.svn = s.boot.svn := rfl
theorem State.onTick_boot_svn (s : State) (f : TickUnit → TickUnit) : (State.onTick s f).boot.svn = s.boot.svn := rfl
theorem State.onGears_boot_svn (s : State) (f : GearMaster → GearMaster) : (State.onGears s f).boot.svn = s.boot.svn := rfl
theorem State.onRouters_boot_svn (s : State) (f : SMap Router → SMap Router) : (State.onRouters s f).boot.svn = s.boot.svn := rfl
theorem State.onLinks_boot_svn (s : State) (f : Links → Links) : (State.onLinks s f).boot.svn = s.boot.svn := rfl
theorem State.onCores_boot_svn (s : State) (f : SMap Core → SMap Core) : (State.onCores s f).boot.svn = s.boot.svn := rfl
theorem State.onVats_boot_svn (s : State) (f : SMap Vat → SMap Vat) : (State.onVats s f).boot.svn = s.boot.svn := rfl
theorem State.onRoles_boot_svn (s : State) (f : SMap VatRole → SMap VatRole) : (State.onRoles s f).boot.svn = s.boot.svn := rfl
theorem State.onMem_boot_svn (s : State) (f : MemTier → MemTier) : (State.onMem s f).boot.svn = s.boot.svn := rfl
theorem State.onXl_boot_svn (s : State) (f : Xlate → Xlate) : (State.onXl s f).boot.svn = s.boot.svn := rfl
theorem State.onObjs_boot_svn (s : State) (f : HostObjs → HostObjs) : (State.onObjs s f).boot.svn = s.boot.svn := rfl
theorem State.onQos_boot_svn (s : State) (f : Qos → Qos) : (State.onQos s f).boot.svn = s.boot.svn := rfl
theorem State.onCc_boot_svn (s : State) (f : Complexes → Complexes) : (State.onCc s f).boot.svn = s.boot.svn := rfl
theorem State.onKeys_boot_svn (s : State) (f : KeyVault → KeyVault) : (State.onKeys s f).boot.svn = s.boot.svn := rfl
theorem State.onFlt_boot_svn (s : State) (f : Faults → Faults) : (State.onFlt s f).boot.svn = s.boot.svn := rfl
theorem State.onPower_boot_svn (s : State) (f : Power → Power) : (State.onPower s f).boot.svn = s.boot.svn := rfl
theorem State.onFuses_boot_svn (s : State) (f : Fuses → Fuses) : (State.onFuses s f).boot.svn = s.boot.svn := rfl
theorem State.onJ0_boot_svn (s : State) (f : Journal → Journal) : (State.onJ0 s f).boot.svn = s.boot.svn := rfl
theorem State.onJ1_boot_svn (s : State) (f : Journal → Journal) : (State.onJ1 s f).boot.svn = s.boot.svn := rfl
theorem State.onHp_boot_svn (s : State) (f : HostPort → HostPort) : (State.onHp s f).boot.svn = s.boot.svn := rfl
theorem State.onCxlPorts_boot_svn (s : State) (f : SMap CxlPort → SMap CxlPort) : (State.onCxlPorts s f).boot.svn = s.boot.svn := rfl
theorem State.onCxlDevs_boot_svn (s : State) (f : SMap CxlDev → SMap CxlDev) : (State.onCxlDevs s f).boot.svn = s.boot.svn := rfl
theorem State.onCap_boot_svn (s : State) (f : Cap → Cap) : (State.onCap s f).boot.svn = s.boot.svn := rfl
theorem State.onSide_boot_svn (s : State) (f : Sideband → Sideband) : (State.onSide s f).boot.svn = s.boot.svn := rfl
theorem State.onPins_boot_svn (s : State) (f : Pins → Pins) : (State.onPins s f).boot.svn = s.boot.svn := rfl
@[simp] theorem State.hostTraffic_boot_svn (s : State) (write : Bool) (n : Nat) : (State.hostTraffic s write n).boot.svn = s.boot.svn := by
  simp [State.hostTraffic]
@[simp] theorem State.traffic_boot_svn (s : State) (cls : Nat) (write : Bool) (a n : Nat) : (State.traffic s cls write a n).boot.svn = s.boot.svn := by
  simp [State.traffic]
@[simp] theorem State.note_boot_svn (s : State) (src : Nat) (what : String) (arg : Nat) : (State.note s src what arg).boot.svn = s.boot.svn := by
  simp [State.note]
@[simp] theorem State.send_boot_svn (s : State) (kind : String) (dest : Nat) (args : List Nat) (body : List Byte) : (State.send s kind dest args body).boot.svn = s.boot.svn := by
  simp [State.send]
@[simp] theorem State.onFunc_boot_svn (s : State) (f : Nat) (g : Func → Func) : (State.onFunc s f g).boot.svn = s.boot.svn := by
  simp [State.onFunc]
@[simp] theorem State.hostTrained_boot_svn (s : State) (inService : Bool) : (State.hostTrained s inService).boot.svn = s.boot.svn := by
  simp [State.hostTrained]
@[simp] theorem State.raise_boot_svn (s : State) (f v : Nat) : (State.raise s f v).boot.svn = s.boot.svn := by
  simp [State.raise, apply_ite (fun s : State => s.boot.svn), foldl_boot_svn]
@[simp] theorem State.sendPending_boot_svn (s : State) (f : Nat) : (State.sendPending s f).boot.svn = s.boot.svn := by
  simp [State.sendPending, apply_ite (fun s : State => s.boot.svn), foldl_boot_svn]
@[simp] theorem State.draw_boot_svn (s : State) (n : Nat) : (State.draw s n).boot.svn = s.boot.svn := by
  simp [State.draw]
@[simp] theorem State.hostWrite_boot_svn (s : State) (a : Nat) (bs : List Byte) : (State.hostWrite s a bs).boot.svn = s.boot.svn := by
  simp [State.hostWrite]
@[simp] theorem State.hostPut_boot_svn (s : State) (a : Nat) (bs : List Byte) : (State.hostPut s a bs).boot.svn = s.boot.svn := by
  simp [State.hostPut]
@[simp] theorem State.hostPost_boot_svn (s : State) (f a : Nat) (bs : List Byte) : (State.hostPost s f a bs).boot.svn = s.boot.svn := by
  simp [State.hostPost, apply_ite (fun s : State => s.boot.svn), foldl_boot_svn]
@[simp] theorem State.postHeld_boot_svn (s : State) : (State.postHeld s).boot.svn = s.boot.svn := by
  simp [State.postHeld, apply_ite (fun s : State => s.boot.svn), foldl_boot_svn]
@[simp] theorem State.dpaWrite_boot_svn (s : State) (key : List Byte) (a : Nat) (bs : List Byte) : (State.dpaWrite s key a bs).boot.svn = s.boot.svn := by
  simp [State.dpaWrite]
@[simp] theorem State.onCplx_boot_svn (s : State) (k : Nat) (f : Cplx → Cplx) : (State.onCplx s k f).boot.svn = s.boot.svn := by
  simp [State.onCplx]
@[simp] theorem State.bothHalves_boot_svn (s : State) : (State.bothHalves s).boot.svn = s.boot.svn := by
  simp [State.bothHalves]
@[simp] theorem State.journalAdd_boot_svn (s : State) (d : JData) : (State.journalAdd s d).boot.svn = s.boot.svn := by
  simp [State.journalAdd, apply_ite (fun s : State => s.boot.svn), foldl_boot_svn]
@[simp] theorem State.faultLog_boot_svn (s : State) (vat : Nat) (r : List Byte) : (State.faultLog s vat r).boot.svn = s.boot.svn := by
  unfold State.faultLog
  (repeat' split) <;> simp [apply_ite (fun s : State => s.boot.svn), foldl_boot_svn]
@[simp] theorem State.wheyUse_boot_svn (s : State) (ctx slots accesses : Nat) : (State.wheyUse s ctx slots accesses).boot.svn = s.boot.svn := by
  simp [State.wheyUse]
@[simp] theorem State.pieceActivity_boot_svn (s : State) (ctx : Nat) (ps : Pieces) : (State.pieceActivity s ctx ps).boot.svn = s.boot.svn := by
  simp [State.pieceActivity]
@[simp] theorem State.onVat_boot_svn (s : State) (v : Nat) (f : Vat → Vat) : (State.onVat s v f).boot.svn = s.boot.svn := by
  simp [State.onVat]
@[simp] theorem State.onRole_boot_svn (s : State) (v : Nat) (f : VatRole → VatRole) : (State.onRole s v f).boot.svn = s.boot.svn := by
  simp [State.onRole]
@[simp] theorem State.onCore_boot_svn (s : State) (c : Nat) (f : Core → Core) : (State.onCore s c f).boot.svn = s.boot.svn := by
  simp [State.onCore]
@[simp] theorem State.onRouter_boot_svn (s : State) (r : Nat) (f : Router → Router) : (State.onRouter s r f).boot.svn = s.boot.svn := by
  simp [State.onRouter]
@[simp] theorem State.onPort_boot_svn (s : State) (k : Nat) (f : Port → Port) : (State.onPort s k f).boot.svn = s.boot.svn := by
  simp [State.onPort]
@[simp] theorem State.sendWhey_boot_svn (s : State) (cls : Nat) (kind : String) (dest : Nat) (args : List Nat) (body : List Byte) : (State.sendWhey s cls kind dest args body).boot.svn = s.boot.svn := by
  simp [State.sendWhey, apply_ite (fun s : State => s.boot.svn), foldl_boot_svn]
@[simp] theorem State.sendControl_boot_svn (s : State) (node msg vat : Nat) (bytes : List Byte) : (State.sendControl s node msg vat bytes).boot.svn = s.boot.svn := by
  simp [State.sendControl, apply_ite (fun s : State => s.boot.svn), foldl_boot_svn]
@[simp] theorem State.settleCores_boot_svn (s : State) : (State.settleCores s).boot.svn = s.boot.svn := by
  simp [State.settleCores, apply_ite (fun s : State => s.boot.svn), foldl_boot_svn]
@[simp] theorem State.failStep_boot_svn (s : State) (vat : Nat) (c : Cause) : (State.failStep s vat c).boot.svn = s.boot.svn := by
  simp [State.failStep]
@[simp] theorem State.degradeStep_boot_svn (s : State) (vat : Nat) : (State.degradeStep s vat).boot.svn = s.boot.svn := by
  simp [State.degradeStep]
@[simp] theorem State.failAll_boot_svn (s : State) (status src : Nat) : (State.failAll s status src).boot.svn = s.boot.svn := by
  simp [State.failAll, apply_ite (fun s : State => s.boot.svn), foldl_boot_svn]
@[simp] theorem State.onCtx_boot_svn (s : State) (c : Nat) (f : Context → Context) : (State.onCtx s c f).boot.svn = s.boot.svn := by
  simp [State.onCtx]
@[simp] theorem State.onQueue_boot_svn (s : State) (c q : Nat) (f : Queue → Queue) : (State.onQueue s c q f).boot.svn = s.boot.svn := by
  simp [State.onQueue]
@[simp] theorem State.onCmd_boot_svn (s : State) (r : CmdRef) (f : Cmd → Cmd) : (State.onCmd s r f).boot.svn = s.boot.svn := by
  simp [State.onCmd]
@[simp] theorem State.freeObj_boot_svn (s : State) (i : Nat) : (State.freeObj s i).boot.svn = s.boot.svn := by
  simp [State.freeObj]
@[simp] theorem State.putFence_boot_svn (s : State) (f : Nat) (v : Fence) : (State.putFence s f v).boot.svn = s.boot.svn := by
  unfold State.putFence
  (repeat' split) <;> simp [apply_ite (fun s : State => s.boot.svn), foldl_boot_svn]
@[simp] theorem State.armFence_boot_svn (s : State) (f : Nat) (r : CmdRef) : (State.armFence s f r).boot.svn = s.boot.svn := by
  simp [State.armFence]
@[simp] theorem State.signalFence_boot_svn (s : State) (f status : Nat) : (State.signalFence s f status).boot.svn = s.boot.svn := by
  simp [State.signalFence]
@[simp] theorem State.signalFor_boot_svn (s : State) (f : Nat) (r : CmdRef) (status : Nat) : (State.signalFor s f r status).boot.svn = s.boot.svn := by
  simp [State.signalFor, apply_ite (fun s : State => s.boot.svn), foldl_boot_svn]
@[simp] theorem State.missGuarantee_boot_svn (s : State) (kv : Bool) (src arg : Nat) : (State.missGuarantee s kv src arg).boot.svn = s.boot.svn := by
  simp [State.missGuarantee, apply_ite (fun s : State => s.boot.svn), foldl_boot_svn]
@[simp] theorem State.queueError_boot_svn (s : State) (c q : Nat) : (State.queueError s c q).boot.svn = s.boot.svn := by
  unfold State.queueError
  (repeat' split) <;> simp [apply_ite (fun s : State => s.boot.svn), foldl_boot_svn]
@[simp] theorem State.doorCheck_boot_svn (s : State) (c q : Nat) : (State.doorCheck s c q).boot.svn = s.boot.svn := by
  unfold State.doorCheck
  (repeat' split) <;> simp [apply_ite (fun s : State => s.boot.svn), foldl_boot_svn]
@[simp] theorem State.setDoor_boot_svn (s : State) (c q : Nat) (f : Nat × Nat → Nat × Nat) : (State.setDoor s c q f).boot.svn = s.boot.svn := by
  simp [State.setDoor]
@[simp] theorem State.fetch_boot_svn (s : State) (c q : Nat) : (State.fetch s c q).boot.svn = s.boot.svn := by
  simp [State.fetch]
@[simp] theorem State.finish_boot_svn (s : State) (r : CmdRef) (status : Nat) : (State.finish s r status).boot.svn = s.boot.svn := by
  simp [State.finish]
@[simp] theorem State.finishWith_boot_svn (s : State) (r : CmdRef) (status result : Nat) : (State.finishWith s r status result).boot.svn = s.boot.svn := by
  simp [State.finishWith]
@[simp] theorem State.writeCompletion_boot_svn (s : State) (c : Cmd) : (State.writeCompletion s c).boot.svn = s.boot.svn := by
  unfold State.writeCompletion
  (repeat' split) <;> simp [apply_ite (fun s : State => s.boot.svn), foldl_boot_svn]
@[simp] theorem State.raiseQueue_boot_svn (s : State) (c : Cmd) : (State.raiseQueue s c).boot.svn = s.boot.svn := by
  unfold State.raiseQueue
  (repeat' split) <;> simp [apply_ite (fun s : State => s.boot.svn), foldl_boot_svn]
@[simp] theorem State.dropOldKeys_boot_svn (s : State) : (State.dropOldKeys s).boot.svn = s.boot.svn := by
  simp [State.dropOldKeys]
@[simp] theorem State.complete_boot_svn (s : State) (c : Cmd) : (State.complete s c).boot.svn = s.boot.svn := by
  unfold State.complete
  (repeat' split) <;> simp [apply_ite (fun s : State => s.boot.svn), foldl_boot_svn]
@[simp] theorem State.countQueueWait_boot_svn (s : State) (c q : Nat) : (State.countQueueWait s c q).boot.svn = s.boot.svn := by
  unfold State.countQueueWait
  (repeat' split) <;> simp [apply_ite (fun s : State => s.boot.svn), foldl_boot_svn]
@[simp] theorem State.popHead_boot_svn (s : State) (c q : Nat) : (State.popHead s c q).boot.svn = s.boot.svn := by
  simp [State.popHead]
@[simp] theorem State.enter_boot_svn (s : State) (c : Cmd) : (State.enter s c).boot.svn = s.boot.svn := by
  simp [State.enter]
@[simp] theorem State.poison_boot_svn (s : State) (a : Nat) : (State.poison s a).boot.svn = s.boot.svn := by
  simp [State.poison]
@[simp] theorem State.hbmCorrected_boot_svn (s : State) (a : Nat) : (State.hbmCorrected s a).boot.svn = s.boot.svn := by
  simp [State.hbmCorrected]
@[simp] theorem State.hbmUncorrectable_boot_svn (s : State) (a : Nat) : (State.hbmUncorrectable s a).boot.svn = s.boot.svn := by
  simp [State.hbmUncorrectable]
@[simp] theorem State.walkCount_boot_svn (s : State) (c va : Nat) (p : WalkPage) : (State.walkCount s c va p).boot.svn = s.boot.svn := by
  simp [State.walkCount, apply_ite (fun s : State => s.boot.svn), foldl_boot_svn]
@[simp] theorem State.writeBatch_boot_svn (s : State) : (State.writeBatch s).boot.svn = s.boot.svn := by
  unfold State.writeBatch
  (repeat' split) <;> simp [apply_ite (fun s : State => s.boot.svn), foldl_boot_svn]
@[simp] theorem State.writeBatches_boot_svn (n : Nat) (s : State) : (State.writeBatches n s).boot.svn = s.boot.svn := by
  induction n generalizing s with
  | zero => rfl
  | succ n ih => rw [State.writeBatches, ih]; simp
@[simp] theorem State.closeBatch_boot_svn (s : State) : (State.closeBatch s).boot.svn = s.boot.svn := by
  unfold State.closeBatch
  split <;> simp
@[simp] theorem State.addFaults_boot_svn (s : State) (es : List FaultEnt) : (State.addFaults s es).boot.svn = s.boot.svn := by
  simp [State.addFaults, apply_ite (fun s : State => s.boot.svn), foldl_boot_svn]
@[simp] theorem State.askBursts_boot_svn (s : State) (r : CmdRef) : (State.askBursts s r).boot.svn = s.boot.svn := by
  unfold State.askBursts
  (repeat' split) <;> simp [apply_ite (fun s : State => s.boot.svn), foldl_boot_svn]
@[simp] theorem State.parkCut_boot_svn (s : State) (r : CmdRef) : (State.parkCut s r).boot.svn = s.boot.svn := by
  unfold State.parkCut
  (repeat' split) <;> simp [apply_ite (fun s : State => s.boot.svn), foldl_boot_svn]
@[simp] theorem State.settle_boot_svn (s : State) (c : Cmd) : (State.settle s c).boot.svn = s.boot.svn := by
  unfold State.settle
  dsimp only [-Nat.reducePow]
  (repeat' split) <;> simp [apply_ite (fun s : State => s.boot.svn), foldl_boot_svn]
@[simp] theorem State.trySettle_boot_svn (s : State) (r : CmdRef) : (State.trySettle s r).boot.svn = s.boot.svn := by
  unfold State.trySettle
  (repeat' split) <;> simp [apply_ite (fun s : State => s.boot.svn), foldl_boot_svn]
@[simp] theorem State.walkAsk_boot_svn (s : State) (r : CmdRef) (operand page level : Nat) : (State.walkAsk s r operand page level).boot.svn = s.boot.svn := by
  unfold State.walkAsk
  extract_lets cls
  cases s.walkRead r.ctx (page * frameBytes) level with
  | none => rfl
  | some e => rfl
theorem State.walkAsks_boot_svn (r : CmdRef) (operand : Nat) (l : List Nat) (s : State) : (l.foldl (fun t p => t.walkAsk r operand p 2) s).boot.svn = s.boot.svn := by
  induction l generalizing s with
  | nil => rfl
  | cons p l ih => rw [List.foldl_cons, ih, State.walkAsk_boot_svn]
@[simp] theorem State.askWalks_boot_svn (s : State) (r : CmdRef) : (State.askWalks s r).boot.svn = s.boot.svn := by
  unfold State.askWalks
  split
  · rfl
  · refine foldl_boot_svn (fun t x => ?_) _ s
    split
    · exact State.walkAsks_boot_svn ..
    · rfl
@[simp] theorem State.resolve_boot_svn (s : State) (r : CmdRef) : (State.resolve s r).boot.svn = s.boot.svn := by
  unfold State.resolve
  (repeat' split) <;> (try simp [apply_ite (fun s : State => s.boot.svn), foldl_boot_svn]) <;> (try (intros; (repeat' split) <;> simp [apply_ite (fun s : State => s.boot.svn), foldl_boot_svn]))
@[simp] theorem State.walkDone_boot_svn (s : State) (r : CmdRef) (operand : Nat) (page : WalkPage) : (State.walkDone s r operand page).boot.svn = s.boot.svn := by
  unfold State.walkDone
  extract_lets p
  split
  · rfl
  · split
    · rfl
    · split
      · rfl
      · exact (State.trySettle_boot_svn _ _).trans ((State.onCmd_boot_svn _ _ _).trans ((State.onXl_boot_svn _ _).trans (State.walkCount_boot_svn _ _ _ _)))
@[simp] theorem State.answerBatch_boot_svn (s : State) (v : Nat) : (State.answerBatch s v).boot.svn = s.boot.svn := by
  unfold State.answerBatch
  extract_lets t
  split
  · rfl
  · extract_lets base rs u refs w
    have h : w.boot.svn = u.boot.svn := by
      refine foldl_boot_svn (fun t r => ?_) _ _
      split
      · rfl
      · split
        · rfl
        · extract_lets mine
          (repeat' split) <;> simp
    rw [State.writeBatches_boot_svn, h]
    rfl
@[simp] theorem State.holdFrames_boot_svn (s : State) (frs : List Nat) (u : FrameUse) : (State.holdFrames s frs u).boot.svn = s.boot.svn := by
  simp [State.holdFrames]
@[simp] theorem State.dropFrames_boot_svn (s : State) (frs : List Nat) : (State.dropFrames s frs).boot.svn = s.boot.svn := by
  simp [State.dropFrames]
@[simp] theorem State.freeExtents_boot_svn (s : State) (own : ExtOwner → Bool) : (State.freeExtents s own).boot.svn = s.boot.svn := by
  simp [State.freeExtents]
@[simp] theorem State.moveExtents_boot_svn (s : State) (frm into : ExtOwner) : (State.moveExtents s frm into).boot.svn = s.boot.svn := by
  simp [State.moveExtents]
@[simp] theorem State.releaseResponse_boot_svn (s : State) (x : Extent) : (State.releaseResponse s x).boot.svn = s.boot.svn := by
  simp [State.releaseResponse]
@[simp] theorem State.newObj_boot_svn (s : State) (i : Nat) (o : MemObj) : (State.newObj s i o).boot.svn = s.boot.svn := by
  simp [State.newObj]
@[simp] theorem State.fillSlot_boot_svn (s : State) (k : Nat) (u : KeySlot) : (State.fillSlot s k u).boot.svn = s.boot.svn := by
  simp [State.fillSlot]
@[simp] theorem State.retireSlots_boot_svn (s : State) (ks : List Nat) : (State.retireSlots s ks).boot.svn = s.boot.svn := by
  unfold State.retireSlots
  (repeat' split) <;> (try simp -Nat.reducePow [apply_ite (fun s : State => s.boot.svn), foldl_boot_svn]) <;> (try (rw [foldl_boot_svn] <;> (try (intro t a; dsimp only [-Nat.reducePow]; (repeat' split) <;> simp [apply_ite (fun s : State => s.boot.svn), foldl_boot_svn])))) <;> (repeat' split) <;> (try simp_all [apply_ite (fun s : State => s.boot.svn), foldl_boot_svn])
@[simp] theorem State.startWash_boot_svn (s : State) (k : WashKind) (slots frames cave : List Nat) : (State.startWash s k slots frames cave).boot.svn = s.boot.svn := by
  simp [State.startWash]
@[simp] theorem State.releaseObj_boot_svn (s : State) (i : Nat) : (State.releaseObj s i).boot.svn = s.boot.svn := by
  unfold State.releaseObj
  (repeat' split) <;> simp [apply_ite (fun s : State => s.boot.svn), foldl_boot_svn]
@[simp] theorem State.onDue_boot_svn (s : State) (r : CmdRef) (op : Nat) (f : Cmd → State) (hf : ∀ y0, (f y0).boot.svn = s.boot.svn) : (State.onDue s r op f).boot.svn = s.boot.svn := by
  unfold State.onDue
  (repeat' split) <;> simp [apply_ite (fun s : State => s.boot.svn), foldl_boot_svn, hf]
@[simp] theorem State.checked_boot_svn (s : State) (r : CmdRef) (op : Nat) (check : State → Cmd → Nat) (f : Cmd → State) (hf : ∀ y0, (f y0).boot.svn = s.boot.svn) : (State.checked s r op check f).boot.svn = s.boot.svn := by
  simp [State.checked, apply_ite (fun s : State => s.boot.svn), foldl_boot_svn, hf]
@[simp] theorem State.classify_boot_svn (s : State) : (State.classify s).boot.svn = s.boot.svn := by
  simp [State.classify]
@[simp] theorem State.evict_boot_svn (s : State) (c : Nat) : (State.evict s c).boot.svn = s.boot.svn := by
  simp [State.evict]
@[simp] theorem State.swapIn_boot_svn (s : State) (c : Nat) : (State.swapIn s c).boot.svn = s.boot.svn := by
  unfold State.swapIn
  dsimp only [-Nat.reducePow]
  (repeat' split) <;> simp [apply_ite (fun s : State => s.boot.svn), foldl_boot_svn]
@[simp] theorem State.newFences_boot_svn (s : State) (lo n : Nat) : (State.newFences s lo n).boot.svn = s.boot.svn := by
  simp [State.newFences, apply_ite (fun s : State => s.boot.svn), foldl_boot_svn]
@[simp] theorem State.contextKey_boot_svn (s : State) (c : Nat) : (State.contextKey s c).boot.svn = s.boot.svn := by
  unfold State.contextKey
  (repeat' split) <;> simp [apply_ite (fun s : State => s.boot.svn), foldl_boot_svn]
@[simp] theorem State.createContext_boot_svn (s : State) (c : Cmd) : (State.createContext s c).boot.svn = s.boot.svn := by
  unfold State.createContext
  (repeat' split) <;> simp [apply_ite (fun s : State => s.boot.svn), foldl_boot_svn]
@[simp] theorem State.putQueue_boot_svn (s : State) (c q : Nat) (u : Queue) : (State.putQueue s c q u).boot.svn = s.boot.svn := by
  simp [State.putQueue]
@[simp] theorem State.createQueue_boot_svn (s : State) (c : Cmd) : (State.createQueue s c).boot.svn = s.boot.svn := by
  simp [State.createQueue]
@[simp] theorem State.createObj_boot_svn (s : State) (c : Cmd) : (State.createObj s c).boot.svn = s.boot.svn := by
  unfold State.createObj
  dsimp only [-Nat.reducePow]
  (repeat' split) <;> simp [apply_ite (fun s : State => s.boot.svn), foldl_boot_svn]
@[simp] theorem State.onExtent_boot_svn (s : State) (e : Nat) (f : Extent → Extent) : (State.onExtent s e f).boot.svn = s.boot.svn := by
  simp [State.onExtent]
@[simp] theorem State.delExtent_boot_svn (s : State) (e : Nat) : (State.delExtent s e).boot.svn = s.boot.svn := by
  simp [State.delExtent]
@[simp] theorem State.caveRelease_boot_svn (s : State) (c : Cmd) : (State.caveRelease s c).boot.svn = s.boot.svn := by
  simp [State.caveRelease, apply_ite (fun s : State => s.boot.svn), foldl_boot_svn]
@[simp] theorem State.zeroed_boot_svn (s : State) (e : Nat) : (State.zeroed s e).boot.svn = s.boot.svn := by
  simp [State.zeroed, apply_ite (fun s : State => s.boot.svn), foldl_boot_svn]
@[simp] theorem State.control_boot_svn (s : State) (v : Vat) (msg node tick arg : Nat) (body : List Byte) : (State.control s v msg node tick arg body).boot.svn = s.boot.svn := by
  simp [State.control]
@[simp] theorem State.controlAll_boot_svn (s : State) (v : Vat) (msg tick arg : Nat) (body : List Byte) : (State.controlAll s v msg tick arg body).boot.svn = s.boot.svn := by
  simp [State.controlAll, apply_ite (fun s : State => s.boot.svn), foldl_boot_svn]
@[simp] theorem State.onSess_boot_svn (s : State) (vat i : Nat) (f : Session → Session) : (State.onSess s vat i f).boot.svn = s.boot.svn := by
  simp [State.onSess]
@[simp] theorem State.onWk_boot_svn (s : State) (vat i : Nat) (f : SessWork → SessWork) : (State.onWk s vat i f).boot.svn = s.boot.svn := by
  simp [State.onWk]
@[simp] theorem State.offer_boot_svn (s : State) (vat i : Nat) (withdraw : Bool) : (State.offer s vat i withdraw).boot.svn = s.boot.svn := by
  unfold State.offer
  (repeat' split) <;> simp [apply_ite (fun s : State => s.boot.svn), foldl_boot_svn]
@[simp] theorem State.withdraw_boot_svn (s : State) (vat i : Nat) : (State.withdraw s vat i).boot.svn = s.boot.svn := by
  unfold State.withdraw
  (repeat' split) <;> simp [apply_ite (fun s : State => s.boot.svn), foldl_boot_svn]
@[simp] theorem State.reoffer_boot_svn (s : State) (vat i : Nat) : (State.reoffer s vat i).boot.svn = s.boot.svn := by
  unfold State.reoffer
  (repeat' split) <;> simp [apply_ite (fun s : State => s.boot.svn), foldl_boot_svn]
@[simp] theorem State.writePieces_boot_svn (ps : Pieces) (bs : List Byte) (s : State) : (s.writePieces ps bs).boot.svn = s.boot.svn := by
  induction ps generalizing s bs with
  | nil => rfl
  | cons p ps ih => rw [State.writePieces, ih]; simp
@[simp] theorem State.outWrite_boot_svn (s : State) (w : SessWork) (off : Nat) (bs : List Byte) : (State.outWrite s w off bs).boot.svn = s.boot.svn := by
  unfold State.outWrite
  extract_lets ps
  split
  · rfl
  · split
    · exact State.writePieces_boot_svn _ _ _
    · exact (State.onQos_boot_svn _ _).trans (State.writePieces_boot_svn _ _ _)
@[simp] theorem State.endReq_boot_svn (s : State) (vat i status : Nat) (into : SessState) : (State.endReq s vat i status into).boot.svn = s.boot.svn := by
  unfold State.endReq
  dsimp only [-Nat.reducePow]
  (repeat' split) <;> simp [apply_ite (fun s : State => s.boot.svn), foldl_boot_svn]
@[simp] theorem State.dropBias_boot_svn (s : State) (vat i : Nat) : (State.dropBias s vat i).boot.svn = s.boot.svn := by
  unfold State.dropBias
  (repeat' split) <;> simp [apply_ite (fun s : State => s.boot.svn), foldl_boot_svn]
@[simp] theorem State.freeSess_boot_svn (s : State) (vat i : Nat) : (State.freeSess s vat i).boot.svn = s.boot.svn := by
  simp [State.freeSess]
@[simp] theorem State.orphan_boot_svn (s : State) (vat i cause : Nat) : (State.orphan s vat i cause).boot.svn = s.boot.svn := by
  unfold State.orphan
  (repeat' split) <;> (try simp [apply_ite (fun s : State => s.boot.svn), foldl_boot_svn]) <;> (try (intros; (repeat' split) <;> simp [apply_ite (fun s : State => s.boot.svn), foldl_boot_svn]))
@[simp] theorem State.orphanFreed_boot_svn (s : State) (vat i cause : Nat) : (State.orphanFreed s vat i cause).boot.svn = s.boot.svn := by
  unfold State.orphanFreed
  (repeat' split) <;> (try simp [apply_ite (fun s : State => s.boot.svn), foldl_boot_svn]) <;> (try (intros; (repeat' split) <;> simp [apply_ite (fun s : State => s.boot.svn), foldl_boot_svn]))
@[simp] theorem State.closeSess_boot_svn (s : State) (vat i : Nat) : (State.closeSess s vat i).boot.svn = s.boot.svn := by
  unfold State.closeSess
  (repeat' split) <;> simp [apply_ite (fun s : State => s.boot.svn), foldl_boot_svn]
@[simp] theorem State.pageCommand_boot_svn (s : State) (vat i arg epoch holder : Nat) (es : List (List Byte)) : (State.pageCommand s vat i arg epoch holder es).boot.svn = s.boot.svn := by
  unfold State.pageCommand
  (repeat' split) <;> simp [apply_ite (fun s : State => s.boot.svn), foldl_boot_svn]
@[simp] theorem State.mcMsg_boot_svn (s : State) (node msg vat arg tag src : Nat) (body : List Byte) : (State.mcMsg s node msg vat arg tag src body).boot.svn = s.boot.svn := by
  simp [State.mcMsg]
@[simp] theorem State.mcDrop_boot_svn (s : State) (m : McSource) : (State.mcDrop s m).boot.svn = s.boot.svn := by
  simp [State.mcDrop]
@[simp] theorem State.mcEnd_boot_svn (s : State) (m : McSource) (st : Nat) : (State.mcEnd s m st).boot.svn = s.boot.svn := by
  simp [State.mcEnd, apply_ite (fun s : State => s.boot.svn), foldl_boot_svn]
@[simp] theorem State.mcLost_boot_svn (s : State) (node : Nat) : (State.mcLost s node).boot.svn = s.boot.svn := by
  simp [State.mcLost, apply_ite (fun s : State => s.boot.svn), foldl_boot_svn]
@[simp] theorem State.degradeCore_boot_svn (s : State) (c : Nat) : (State.degradeCore s c).boot.svn = s.boot.svn := by
  unfold State.degradeCore
  (repeat' split) <;> simp [apply_ite (fun s : State => s.boot.svn), foldl_boot_svn]
@[simp] theorem State.beginReset_boot_svn (s : State) (kind index cause : Nat) : (State.beginReset s kind index cause).boot.svn = s.boot.svn := by
  simp [State.beginReset, apply_ite (fun s : State => s.boot.svn), foldl_boot_svn]
@[simp] theorem State.retireCore_boot_svn (s : State) (c cause : Nat) : (State.retireCore s c cause).boot.svn = s.boot.svn := by
  unfold State.retireCore
  (repeat' split) <;> simp [apply_ite (fun s : State => s.boot.svn), foldl_boot_svn]
@[simp] theorem State.coreError_boot_svn (s : State) (c kind : Nat) : (State.coreError s c kind).boot.svn = s.boot.svn := by
  simp [State.coreError, apply_ite (fun s : State => s.boot.svn), foldl_boot_svn]
@[simp] theorem State.writeMeter_boot_svn (s : State) (vat kind : Nat) : (State.writeMeter s vat kind).boot.svn = s.boot.svn := by
  unfold State.writeMeter
  (repeat' split) <;> simp [apply_ite (fun s : State => s.boot.svn), foldl_boot_svn]
@[simp] theorem State.degradeSess_boot_svn (s : State) (vat i : Nat) : (State.degradeSess s vat i).boot.svn = s.boot.svn := by
  unfold State.degradeSess
  dsimp only [-Nat.reducePow]
  (repeat' split) <;> simp [apply_ite (fun s : State => s.boot.svn), foldl_boot_svn]
@[simp] theorem State.dropFrozen_boot_svn (s : State) (vat : Nat) : (State.dropFrozen s vat).boot.svn = s.boot.svn := by
  unfold State.dropFrozen
  (repeat' split) <;> simp [apply_ite (fun s : State => s.boot.svn), foldl_boot_svn]
@[simp] theorem State.closeRest_boot_svn (s : State) (vat : Nat) : (State.closeRest s vat).boot.svn = s.boot.svn := by
  unfold State.closeRest
  (repeat' split) <;> simp [apply_ite (fun s : State => s.boot.svn), foldl_boot_svn]
@[simp] theorem State.cancelSessions_boot_svn (s : State) (vat : Nat) : (State.cancelSessions s vat).boot.svn = s.boot.svn := by
  unfold State.cancelSessions
  (repeat' split) <;> simp [apply_ite (fun s : State => s.boot.svn), foldl_boot_svn]
@[simp] theorem State.freeRegions_boot_svn (s : State) (vat : Nat) : (State.freeRegions s vat).boot.svn = s.boot.svn := by
  unfold State.freeRegions
  (repeat' split) <;> simp [apply_ite (fun s : State => s.boot.svn), foldl_boot_svn]
@[simp] theorem State.zeroSlices_boot_svn (s : State) (ks : List Nat) : (State.zeroSlices s ks).boot.svn = s.boot.svn := by
  simp [State.zeroSlices]
@[simp] theorem State.freeCore_boot_svn (s : State) (c : Nat) : (State.freeCore s c).boot.svn = s.boot.svn := by
  simp [State.freeCore]
@[simp] theorem State.washVat_boot_svn (s : State) (vat : Nat) : (State.washVat s vat).boot.svn = s.boot.svn := by
  unfold State.washVat
  (repeat' split) <;> simp [apply_ite (fun s : State => s.boot.svn), foldl_boot_svn]
@[simp] theorem State.removeVat_boot_svn (s : State) (vat : Nat) : (State.removeVat s vat).boot.svn = s.boot.svn := by
  simp [State.removeVat]
@[simp] theorem State.haltsDone_boot_svn (s : State) (vat : Nat) : (State.haltsDone s vat).boot.svn = s.boot.svn := by
  simp [State.haltsDone, apply_ite (fun s : State => s.boot.svn), foldl_boot_svn]
@[simp] theorem State.haltVat_boot_svn (s : State) (vat : Nat) : (State.haltVat s vat).boot.svn = s.boot.svn := by
  unfold State.haltVat
  (repeat' split) <;> simp [apply_ite (fun s : State => s.boot.svn), foldl_boot_svn]
@[simp] theorem State.sendDown_boot_svn (s : State) (vat port node first : Nat) : (State.sendDown s vat port node first).boot.svn = s.boot.svn := by
  unfold State.sendDown
  (repeat' split) <;> simp [apply_ite (fun s : State => s.boot.svn), foldl_boot_svn]
@[simp] theorem State.startCopy_boot_svn (s : State) (k : Nat) : (State.startCopy s k).boot.svn = s.boot.svn := by
  unfold State.startCopy
  dsimp only [-Nat.reducePow]
  (repeat' split) <;> simp [apply_ite (fun s : State => s.boot.svn), foldl_boot_svn]
@[simp] theorem State.endCopy_boot_svn (s : State) (die : Nat) : (State.endCopy s die).boot.svn = s.boot.svn := by
  simp [State.endCopy, apply_ite (fun s : State => s.boot.svn), foldl_boot_svn]
@[simp] theorem State.retireSlice_boot_svn (s : State) (k cause : Nat) : (State.retireSlice s k cause).boot.svn = s.boot.svn := by
  simp [State.retireSlice, apply_ite (fun s : State => s.boot.svn), foldl_boot_svn]
@[simp] theorem State.sliceError_boot_svn (s : State) (k kind : Nat) : (State.sliceError s k kind).boot.svn = s.boot.svn := by
  simp [State.sliceError, apply_ite (fun s : State => s.boot.svn), foldl_boot_svn]
@[simp] theorem State.memCorrected_boot_svn (s : State) (a : Nat) : (State.memCorrected s a).boot.svn = s.boot.svn := by
  simp [State.memCorrected, apply_ite (fun s : State => s.boot.svn), foldl_boot_svn]
@[simp] theorem State.memUncorrectable_boot_svn (s : State) (a : Nat) : (State.memUncorrectable s a).boot.svn = s.boot.svn := by
  simp [State.memUncorrectable, apply_ite (fun s : State => s.boot.svn), foldl_boot_svn]
@[simp] theorem State.curdError_boot_svn (s : State) (vat a : Nat) : (State.curdError s vat a).boot.svn = s.boot.svn := by
  simp [State.curdError]
@[simp] theorem State.readsMet_boot_svn (s : State) (bad : ReadErrs) (ps : Pieces) : (State.readsMet s bad ps).boot.svn = s.boot.svn := by
  simp [State.readsMet, apply_ite (fun s : State => s.boot.svn), foldl_boot_svn]
@[simp] theorem State.copyGranules_boot_svn (s : State) (c : SliceCopy) : (State.copyGranules s c).boot.svn = s.boot.svn := by
  simp [State.copyGranules]
@[simp] theorem State.failCopy_boot_svn (s : State) (die : Nat) (c : SliceCopy) : (State.failCopy s die c).boot.svn = s.boot.svn := by
  simp [State.failCopy, apply_ite (fun s : State => s.boot.svn), foldl_boot_svn]
@[simp] theorem State.swapReserves_boot_svn (s : State) (c : SliceCopy) : (State.swapReserves s c).boot.svn = s.boot.svn := by
  simp [State.swapReserves]
theorem State.copyEndsTail_boot_svn (s : State) (die : Nat) (ok : CopyReads) (c : SliceCopy) : (match ok.ue with
    | some o => (s.memUncorrectable (sliceBase c.src + o)).failCopy die c
    | none =>
      let t := (s.copyGranules c).swapReserves c
      if t.sliceVats c.src = [] then t.endCopy die
      else t.onMem fun m => { m with copies := mapPut m.copies die { c with done := true } } : State).boot.svn = s.boot.svn := by
  generalize ok.ue = u
  cases u with
  | none =>
      refine (apply_ite (fun s : State => s.boot.svn) _ _ _).trans ?_
      split
      · exact (State.endCopy_boot_svn _ _).trans ((State.swapReserves_boot_svn _ _).trans (State.copyGranules_boot_svn _ _))
      · exact (State.onMem_boot_svn _ _).trans ((State.swapReserves_boot_svn _ _).trans (State.copyGranules_boot_svn _ _))
  | some o => exact (State.failCopy_boot_svn _ _ _).trans (State.memUncorrectable_boot_svn _ _)
theorem State.readCe_boot_svn (l : List Nat) (f : Nat → Nat) (s : State) :
    (l.foldl (fun t o => t.memCorrected (f o)) s).boot.svn = s.boot.svn :=
  foldl_boot_svn (fun t a => State.memCorrected_boot_svn t (f a)) l s
@[simp] theorem State.copyEnds_boot_svn (s : State) (die : Nat) (ok : CopyReads) : (State.copyEnds s die ok).boot.svn = s.boot.svn := by
  unfold State.copyEnds
  generalize mapFind s.mem.copies die = o
  cases o with
  | none => rfl
  | some c =>
    refine (apply_ite (fun s : State => s.boot.svn) _ _ _).trans ?_
    split
    · rfl
    · exact (State.copyEndsTail_boot_svn _ _ _ _).trans (State.readCe_boot_svn _ (fun o => sliceBase _ + o) _)
@[simp] theorem State.switchSlices_boot_svn (s : State) (vat : Nat) : (State.switchSlices s vat).boot.svn = s.boot.svn := by
  simp [State.switchSlices, apply_ite (fun s : State => s.boot.svn), foldl_boot_svn]
@[simp] theorem State.openSess_boot_svn (s : State) (c : Cmd) : (State.openSess s c).boot.svn = s.boot.svn := by
  simp [State.openSess]
@[simp] theorem State.resetSess_boot_svn (s : State) (vat i ctx : Nat) : (State.resetSess s vat i ctx).boot.svn = s.boot.svn := by
  unfold State.resetSess
  (repeat' split) <;> simp [apply_ite (fun s : State => s.boot.svn), foldl_boot_svn]
@[simp] theorem State.cancelSess_boot_svn (s : State) (vat i : Nat) : (State.cancelSess s vat i).boot.svn = s.boot.svn := by
  unfold State.cancelSess
  (repeat' split) <;> simp [apply_ite (fun s : State => s.boot.svn), foldl_boot_svn]
@[simp] theorem State.setBias_boot_svn (s : State) (c : Cmd) (bad : ReadErrs) : (State.setBias s c bad).boot.svn = s.boot.svn := by
  unfold State.setBias
  dsimp only [-Nat.reducePow]
  (repeat' split) <;> simp [apply_ite (fun s : State => s.boot.svn), foldl_boot_svn]
@[simp] theorem State.setTree_boot_svn (s : State) (c : Cmd) (bad : ReadErrs) : (State.setTree s c bad).boot.svn = s.boot.svn := by
  simp [State.setTree, apply_ite (fun s : State => s.boot.svn), foldl_boot_svn]
@[simp] theorem State.accept_boot_svn (s : State) (c : Cmd) : (State.accept s c).boot.svn = s.boot.svn := by
  simp [State.accept]
@[simp] theorem State.generate_boot_svn (s : State) (c : Cmd) (bad : ReadErrs) : (State.generate s c bad).boot.svn = s.boot.svn := by
  unfold State.generate
  extract_lets b n ps st t
  have h : t.boot.svn = s.boot.svn := by simp [t]
  (repeat' split) <;> simp [h]
@[simp] theorem State.sessEligible_boot_svn (s : State) (vat i : Nat) : (State.sessEligible s vat i).boot.svn = s.boot.svn := by
  unfold State.sessEligible
  (repeat' split) <;> simp [apply_ite (fun s : State => s.boot.svn), foldl_boot_svn]
@[simp] theorem State.takeOffer_boot_svn (s : State) (m : OfferMsg) : (State.takeOffer s m).boot.svn = s.boot.svn := by
  simp [State.takeOffer]
@[simp] theorem State.pageIn_boot_svn (s : State) (vat i : Nat) : (State.pageIn s vat i).boot.svn = s.boot.svn := by
  unfold State.pageIn
  (repeat' split) <;> simp [apply_ite (fun s : State => s.boot.svn), foldl_boot_svn]
@[simp] theorem State.pageOut_boot_svn (s : State) (vat i : Nat) : (State.pageOut s vat i).boot.svn = s.boot.svn := by
  unfold State.pageOut
  (repeat' split) <;> simp [apply_ite (fun s : State => s.boot.svn), foldl_boot_svn]
@[simp] theorem State.evictSess_boot_svn (s : State) (vat i : Nat) : (State.evictSess s vat i).boot.svn = s.boot.svn := by
  unfold State.evictSess
  (repeat' split) <;> simp [apply_ite (fun s : State => s.boot.svn), foldl_boot_svn]
@[simp] theorem State.pausePages_boot_svn (s : State) (vat : Nat) : (State.pausePages s vat).boot.svn = s.boot.svn := by
  unfold State.pausePages
  dsimp only [-Nat.reducePow]
  (repeat' split) <;> (try simp [apply_ite (fun s : State => s.boot.svn), foldl_boot_svn]) <;> (try (rw [foldl_boot_svn]; intro t a; (repeat' split) <;> simp [apply_ite (fun s : State => s.boot.svn), foldl_boot_svn]))
@[simp] theorem State.moveShares_boot_svn (s : State) (vat : Nat) : (State.moveShares s vat).boot.svn = s.boot.svn := by
  unfold State.moveShares
  dsimp only [-Nat.reducePow]
  (repeat' split) <;> (try simp [apply_ite (fun s : State => s.boot.svn), foldl_boot_svn]) <;> (try (rw [foldl_boot_svn]; intro t a; (repeat' split) <;> simp [apply_ite (fun s : State => s.boot.svn), foldl_boot_svn]))
@[simp] theorem State.evictOne_boot_svn (s : State) (vat : Nat) : (State.evictOne s vat).boot.svn = s.boot.svn := by
  unfold State.evictOne
  (repeat' split) <;> simp [apply_ite (fun s : State => s.boot.svn), foldl_boot_svn]
@[simp] theorem State.putTag_boot_svn (s : State) (v : Vat) (c present session epoch holder : Nat) :
    (State.putTag s v c present session epoch holder).boot.svn = s.boot.svn := by simp [State.putTag]
@[simp] theorem State.onJob_boot_svn (s : State) (vat session : Nat) (f : PageJob → PageJob) : (State.onJob s vat session f).boot.svn = s.boot.svn := by
  simp [State.onJob]
@[simp] theorem State.failJob_boot_svn (s : State) (vat session st : Nat) : (State.failJob s vat session st).boot.svn = s.boot.svn := by
  simp [State.failJob]
@[simp] theorem State.installLease_boot_svn (s : State) (v : Vat) (session epoch pool : Nat) (olds : List Nat) (slot present : Nat) : (State.installLease s v session epoch pool olds slot present).boot.svn = s.boot.svn := by
  simp [State.installLease, apply_ite (fun s : State => s.boot.svn), foldl_boot_svn]
@[simp] theorem State.resolveShare_boot_svn (s : State) (v : Vat) (session : Nat) (tags : List TagClaim) : (State.resolveShare s v session tags).boot.svn = s.boot.svn := by
  unfold State.resolveShare
  dsimp only [-Nat.reducePow]
  (repeat' split) <;> simp [apply_ite (fun s : State => s.boot.svn), foldl_boot_svn]
@[simp] theorem State.leaseCheck_boot_svn (s : State) (m : PageCmdMsg) (old : Option Nat) (tags : List TagClaim) : (State.leaseCheck s m old tags).boot.svn = s.boot.svn := by
  unfold State.leaseCheck
  (repeat' split) <;> simp [apply_ite (fun s : State => s.boot.svn), foldl_boot_svn]
@[simp] theorem State.zeroEntries_boot_svn (s : State) (v : Vat) (es : List PageEntry) : (State.zeroEntries s v es).boot.svn = s.boot.svn := by
  refine foldl_boot_svn (fun t e => ?_) es s
  split <;> simp
@[simp] theorem State.copyRows_boot_svn (s : State) (v : Vat) (resSlot frm dst : Nat) : (State.copyRows s v resSlot frm dst).boot.svn = s.boot.svn := by
  unfold State.copyRows
  split
  · rfl
  · exact foldl_boot_svn (fun t fl => by simp) _ s
@[simp] theorem State.jobDone_boot_svn (s : State) (vat session : Nat) : (State.jobDone s vat session).boot.svn = s.boot.svn := by
  unfold State.jobDone
  (repeat' split) <;> simp [apply_ite (fun s : State => s.boot.svn), foldl_boot_svn]
@[simp] theorem State.pullAsk_boot_svn (s : State) (write : Bool) (ps : Pieces) (w : ArbWork) : (State.pullAsk s write ps w).boot.svn = s.boot.svn := by
  simp [State.pullAsk]
@[simp] theorem State.askPages_boot_svn (s : State) (v : Vat) (m : PageCmdMsg) : (State.askPages s v m).boot.svn = s.boot.svn := by
  simp [State.askPages, apply_ite (fun s : State => s.boot.svn), foldl_boot_svn]
@[simp] theorem State.takePageCmd_boot_svn (s : State) (m : PageCmdMsg) (tags : List TagClaim) : (State.takePageCmd s m tags).boot.svn = s.boot.svn := by
  unfold State.takePageCmd
  (repeat' split) <;> simp [apply_ite (fun s : State => s.boot.svn), foldl_boot_svn]
@[simp] theorem State.pageTransfer_boot_svn (s : State) (vat session ordinal : Nat) (toCave : Bool) (ecc : Ecc) :
    (State.pageTransfer s vat session ordinal toCave ecc).boot.svn = s.boot.svn := by
  unfold State.pageTransfer
  split
  · split
    · rfl
    · split
      · rfl
      · extract_lets st bp cp t t1
        have h : t.boot.svn = s.boot.svn := by
          simp only [t]
          (repeat' split) <;> simp
        have h1 : t1.boot.svn = s.boot.svn := by
          simp only [t1]
          split <;> simp [h]
        simp [h1]
  · rfl
@[simp] theorem State.paged_boot_svn (s : State) (vat i arg : Nat) : (State.paged s vat i arg).boot.svn = s.boot.svn := by
  unfold State.paged
  (repeat' split) <;> simp [apply_ite (fun s : State => s.boot.svn), foldl_boot_svn]
@[simp] theorem State.takePageAck_boot_svn (s : State) (vat session lpkg status : Nat) : (State.takePageAck s vat session lpkg status).boot.svn = s.boot.svn := by
  unfold State.takePageAck
  dsimp only [-Nat.reducePow]
  (repeat' split) <;> simp [apply_ite (fun s : State => s.boot.svn), foldl_boot_svn]
@[simp] theorem State.supply_boot_svn (s : State) : (State.supply s).boot.svn = s.boot.svn := by
  simp [State.supply]
@[simp] theorem State.commitGear_boot_svn (s : State) (m : Mould) (stepId start : Nat) : (State.commitGear s m stepId start).boot.svn = s.boot.svn := by
  simp [State.commitGear, apply_ite (fun s : State => s.boot.svn), foldl_boot_svn]
@[simp] theorem State.armGear_boot_svn (s : State) (vat gear seq : Nat) : (State.armGear s vat gear seq).boot.svn = s.boot.svn := by
  simp [State.armGear, apply_ite (fun s : State => s.boot.svn), foldl_boot_svn]
@[simp] theorem State.switchGear_boot_svn (s : State) (g : Nat) : (State.switchGear s g).boot.svn = s.boot.svn := by
  simp [State.switchGear]
@[simp] theorem State.decideGear_boot_svn (s : State) : (State.decideGear s).boot.svn = s.boot.svn := by
  unfold State.decideGear
  (repeat' split) <;> simp [apply_ite (fun s : State => s.boot.svn), foldl_boot_svn]
@[simp] theorem State.requestGear_boot_svn (s : State) (m : GearMsg) : (State.requestGear s m).boot.svn = s.boot.svn := by
  unfold State.requestGear
  (repeat' split) <;> simp [apply_ite (fun s : State => s.boot.svn), foldl_boot_svn]
@[simp] theorem State.droopPersistent_boot_svn (s : State) : (State.droopPersistent s).boot.svn = s.boot.svn := by
  simp [State.droopPersistent, apply_ite (fun s : State => s.boot.svn), foldl_boot_svn]
@[simp] theorem State.assignLinks_boot_svn (s : State) (vat : Nat) (m : Mould) (l : Nat) : (State.assignLinks s vat m l).boot.svn = s.boot.svn := by
  simp [State.assignLinks, apply_ite (fun s : State => s.boot.svn), foldl_boot_svn]
@[simp] theorem State.replayEnd_boot_svn (s : State) (vat : Nat) : (State.replayEnd s vat).boot.svn = s.boot.svn := by
  unfold State.replayEnd
  (repeat' split) <;> simp [apply_ite (fun s : State => s.boot.svn), foldl_boot_svn]
@[simp] theorem State.endSlice_boot_svn (s : State) (vat : Nat) (past : Nat) : (State.endSlice s vat past).boot.svn = s.boot.svn := by
  unfold State.endSlice
  (repeat' split) <;> simp [apply_ite (fun s : State => s.boot.svn), foldl_boot_svn]
@[simp] theorem State.rotate_boot_svn (s : State) (vat : Nat) (os : List Offer) : (State.rotate s vat os).boot.svn = s.boot.svn := by
  unfold State.rotate
  dsimp only [-Nat.reducePow]
  (repeat' split) <;> simp [apply_ite (fun s : State => s.boot.svn), foldl_boot_svn]
@[simp] theorem State.placeSess_boot_svn (s : State) (vat i kind start : Nat) (l : Lane) : (State.placeSess s vat i kind start l).boot.svn = s.boot.svn := by
  unfold State.placeSess
  (repeat' split) <;> simp [apply_ite (fun s : State => s.boot.svn), foldl_boot_svn]
@[simp] theorem State.freezeTable_boot_svn (s : State) (vat start : Nat) (p : StepPlan) (os : List Offer) : (State.freezeTable s vat start p os).boot.svn = s.boot.svn := by
  unfold State.freezeTable
  (repeat' split) <;> simp [apply_ite (fun s : State => s.boot.svn), foldl_boot_svn]
@[simp] theorem State.insertRest_boot_svn (s : State) (vat n : Nat) : (State.insertRest s vat n).boot.svn = s.boot.svn := by
  simp [State.insertRest]
@[simp] theorem State.checkPageIns_boot_svn (s : State) (vat freeze : Nat) : (State.checkPageIns s vat freeze).boot.svn = s.boot.svn := by
  unfold State.checkPageIns
  dsimp only [-Nat.reducePow]
  (repeat' split) <;> (try simp [apply_ite (fun s : State => s.boot.svn), foldl_boot_svn]) <;> (try (rw [foldl_boot_svn]; intro t a; (repeat' split) <;> simp [apply_ite (fun s : State => s.boot.svn), foldl_boot_svn]))
@[simp] theorem State.announce_boot_svn (s : State) (vat : Nat) : (State.announce s vat).boot.svn = s.boot.svn := by
  unfold State.announce
  (repeat' split) <;> simp [apply_ite (fun s : State => s.boot.svn), foldl_boot_svn]
theorem State.planStep_boot_svn (s : State) (vat : Nat) (v : Vat) (es : List (Nat × StepEnt)) : (s.planStep vat v es).1.boot.svn = s.boot.svn := by
  unfold State.planStep
  extract_lets os plain
  have h : ∀ t, (plain t).1.boot.svn = t.boot.svn := fun t => by simp [plain]
  (repeat' split) <;> simp [h]
@[simp] theorem State.freeze_boot_svn (s : State) (vat : Nat) : (State.freeze s vat).boot.svn = s.boot.svn := by
  unfold State.freeze
  extract_lets t
  have h : t.boot.svn = s.boot.svn := by simp [t]
  split
  · exact h
  · extract_lets b es q n
    have hq : q.1.boot.svn = s.boot.svn := by simp only [q, State.planStep_boot_svn, h]
    split
    · simp [hq]
    · extract_lets r r' os
      (repeat' split) <;> simp [h, hq]
theorem State.placeAnnounced_boot_svn (s : State) (vat : Nat) (v : Vat) (e : StepEnt) (a : LaneTable) : (s.placeAnnounced vat v e a).1.boot.svn = s.boot.svn := by
  unfold State.placeAnnounced
  suffices h : ∀ (l : List Lane) (acc : State × List Lane), (l.foldl (fun (acc : State × List Lane) l =>
      let i := l.session % 2 ^ 18
      if l.session / 2 ^ 18 ≠ v.lpkg ∨ !acc.1.canPlace v i e.kind then (acc.1, acc.2 ++ [l])
      else
        let mine := acc.1.laneOf v i e.kind e.tokens
        (acc.1.placeSess vat i e.kind a.start mine, acc.2 ++ [mine])) acc).1.boot.svn = acc.1.boot.svn from h _ _
  intro l
  induction l with
  | nil => intro acc; rfl
  | cons x l ih =>
    intro acc
    rw [List.foldl_cons, ih]
    extract_lets i mine
    (repeat' split) <;> simp
@[simp] theorem State.freezeAnnounced_boot_svn (s : State) (vat : Nat) (a : LaneTable) : (State.freezeAnnounced s vat a).boot.svn = s.boot.svn := by
  unfold State.freezeAnnounced
  extract_lets t
  have h : t.boot.svn = s.boot.svn := State.checkPageIns_boot_svn _ _ _
  split
  · exact h
  · rename_i v m _
    extract_lets q u
    have hu : u.boot.svn = s.boot.svn := (State.commitGear_boot_svn _ _ _ _).trans ((State.onVat_boot_svn _ _ _).trans ((State.placeAnnounced_boot_svn _ _ _ _ _).trans h))
    split
    · exact (State.announce_boot_svn _ _).trans hu
    · exact hu
@[simp] theorem State.startStep_boot_svn (s : State) (vat : Nat) (a : LaneTable) : (State.startStep s vat a).boot.svn = s.boot.svn := by
  unfold State.startStep
  split
  · rfl
  · extract_lets e lanes replay t t1
    simp [t1, t]
@[simp] theorem State.owe_boot_svn (s : State) (vat : Nat) (a : LaneTable) : (State.owe s vat a).boot.svn = s.boot.svn := by
  simp [State.owe]
@[simp] theorem State.replayBegin_boot_svn (s : State) (vat : Nat) (cores : List Nat) : (State.replayBegin s vat cores).boot.svn = s.boot.svn := by
  unfold State.replayBegin
  (repeat' split) <;> simp [apply_ite (fun s : State => s.boot.svn), foldl_boot_svn]
@[simp] theorem State.replayStall_boot_svn (s : State) (vat : Nat) (core : Option Nat) : (State.replayStall s vat core).boot.svn = s.boot.svn := by
  unfold State.replayStall
  (repeat' split) <;> simp [apply_ite (fun s : State => s.boot.svn), foldl_boot_svn]
@[simp] theorem State.coreStall_boot_svn (s : State) (st : Stall) : (State.coreStall s st).boot.svn = s.boot.svn := by
  unfold State.coreStall
  (repeat' split) <;> simp [apply_ite (fun s : State => s.boot.svn), foldl_boot_svn]
@[simp] theorem State.setsMet_boot_svn (s : State) (vat : Nat) (bad : ReadErrs) (ps : Pieces) : (State.setsMet s vat bad ps).boot.svn = s.boot.svn := by
  simp [State.setsMet, apply_ite (fun s : State => s.boot.svn), foldl_boot_svn]
@[simp] theorem State.sampleStep_boot_svn (s : State) (vat : Nat) (bad : ReadErrs) : (State.sampleStep s vat bad).boot.svn = s.boot.svn := by
  unfold State.sampleStep
  (repeat' split) <;> simp [apply_ite (fun s : State => s.boot.svn), foldl_boot_svn]
@[simp] theorem State.commitLane_boot_svn (s : State) (vat : Nat) (run : StepRun) (l : Lane) (d : LaneDraw) : (State.commitLane s vat run l d).boot.svn = s.boot.svn := by
  unfold State.commitLane
  dsimp only [-Nat.reducePow]
  (repeat' split) <;> simp [apply_ite (fun s : State => s.boot.svn), foldl_boot_svn]
@[simp] theorem State.endLane_boot_svn (s : State) (vat : Nat) (run : StepRun) (p : Nat × Lane) (status : Nat) (d : LaneDraw) : (State.endLane s vat run p status d).boot.svn = s.boot.svn := by
  unfold State.endLane
  dsimp only [-Nat.reducePow]
  (repeat' split) <;> simp [apply_ite (fun s : State => s.boot.svn), foldl_boot_svn]
@[simp] theorem State.logStep_boot_svn (s : State) (vat : Nat) (v : Vat) (run : StepRun) (reps : List MemberReport) (status : Nat) : (State.logStep s vat v run reps status).boot.svn = s.boot.svn := by
  simp [State.logStep, apply_ite (fun s : State => s.boot.svn), foldl_boot_svn]
@[simp] theorem State.replayVerdict_boot_svn (s : State) (vat : Nat) (run : StepRun) : (State.replayVerdict s vat run).boot.svn = s.boot.svn := by
  unfold State.replayVerdict
  (repeat' split) <;> simp [apply_ite (fun s : State => s.boot.svn), foldl_boot_svn]
@[simp] theorem State.remoteStalls_boot_svn (s : State) (vat : Nat) (v : Vat) (run : StepRun) (reps : List MemberReport) : (State.remoteStalls s vat v run reps).boot.svn = s.boot.svn := by
  simp [State.remoteStalls, apply_ite (fun s : State => s.boot.svn), foldl_boot_svn]
@[simp] theorem State.countLanes_boot_svn (s : State) (v : Vat) (run : StepRun) : (State.countLanes s v run).boot.svn = s.boot.svn := by
  simp [State.countLanes, apply_ite (fun s : State => s.boot.svn), foldl_boot_svn]
@[simp] theorem State.overrunStep_boot_svn (s : State) (run : StepRun) : (State.overrunStep s run).boot.svn = s.boot.svn := by
  simp [State.overrunStep]
@[simp] theorem State.rejoin_boot_svn (s : State) (vat : Nat) : (State.rejoin s vat).boot.svn = s.boot.svn := by
  simp [State.rejoin, apply_ite (fun s : State => s.boot.svn), foldl_boot_svn]
@[simp] theorem State.failGroup_boot_svn (s : State) (x : Nat) : (State.failGroup s x).boot.svn = s.boot.svn := by
  simp [State.failGroup, apply_ite (fun s : State => s.boot.svn), foldl_boot_svn]
@[simp] theorem State.refreeze_boot_svn (s : State) : (State.refreeze s).boot.svn = s.boot.svn := by
  unfold State.refreeze
  dsimp only [-Nat.reducePow]
  (repeat' split) <;> (try simp [apply_ite (fun s : State => s.boot.svn), foldl_boot_svn]) <;> (try (rw [foldl_boot_svn]; intro t a; (repeat' split) <;> simp [apply_ite (fun s : State => s.boot.svn), foldl_boot_svn]))
@[simp] theorem State.gearBack_boot_svn (s : State) (run : StepRun) (reps : List MemberReport) : (State.gearBack s run reps).boot.svn = s.boot.svn := by
  unfold State.gearBack
  dsimp only [-Nat.reducePow]
  (repeat' split) <;> simp [apply_ite (fun s : State => s.boot.svn), foldl_boot_svn]
@[simp] theorem State.endStep_boot_svn (s : State) (vat : Nat) (reps : List MemberReport) : (State.endStep s vat reps).boot.svn = s.boot.svn := by
  unfold State.endStep
  (repeat' split) <;> simp [apply_ite (fun s : State => s.boot.svn), foldl_boot_svn]
@[simp] theorem State.defineVat_boot_svn (s : State) (c : Cmd) : (State.defineVat s c).boot.svn = s.boot.svn := by
  unfold State.defineVat
  dsimp only [-Nat.reducePow]
  (repeat' split) <;> simp [apply_ite (fun s : State => s.boot.svn), foldl_boot_svn]
@[simp] theorem State.report_boot_svn (s : State) (c : Cmd) (st : Nat) (f : Option MouldFail) (l : Nat) (measure : List Byte) : (State.report s c st f l measure).boot.svn = s.boot.svn := by
  simp [State.report]
@[simp] theorem State.reported_boot_svn (s : State) (r : CmdRef) (op : Nat) (check : State → Cmd → Nat) (f : Cmd → State) (hf : ∀ y0, (f y0).boot.svn = s.boot.svn) : (State.reported s r op check f).boot.svn = s.boot.svn := by
  simp [State.reported, apply_ite (fun s : State => s.boot.svn), foldl_boot_svn, hf]
@[simp] theorem State.loadMould_boot_svn (s : State) (c : Cmd) (sigOk : Bool) (met : LoadMet) : (State.loadMould s c sigOk met).boot.svn = s.boot.svn := by
  unfold State.loadMould
  dsimp only [-Nat.reducePow]
  (repeat' split) <;> simp [apply_ite (fun s : State => s.boot.svn), foldl_boot_svn]
theorem State.reserve_boot_svn (s : State) (vat : Nat) (m : Mould) (l : Nat) : (s.reserve vat m l).2.1.boot.svn = s.boot.svn := by
  generalize h : s.reserve vat m l = r
  unfold State.reserve at h
  split at h
  · rw [← h]
  · split at h
    · rw [← h]
    · extract_lets used alt runs at h
      split at h
      · rw [← h]
      · obtain ⟨a, b, c⟩ := r
        injection h with h1 h2
        injection h2 with h3 h4
        rw [← h3, State.onMem_boot_svn]
        exact (State.holdFrames_boot_svn _ _ _).trans (State.holdFrames_boot_svn _ _ _)
theorem State.reserveAll_boot_svn (vat : Nat) (m : Mould) (l : List (Nat × Nat)) (s : State) (acc : SMap Placement) :
    (State.reserveAll vat m l s acc).2.1.boot.svn = s.boot.svn := by
  induction l generalizing s acc with
  | nil => rfl
  | cons p l ih =>
    obtain ⟨k, n⟩ := p
    rw [State.reserveAll]
    split
    · rfl
    · exact (ih _ _).trans ((State.onVat_boot_svn ..).trans (State.reserve_boot_svn ..))
theorem State.makeRegions_boot_svn (c vat : Nat) (l : List (Nat × Nat × Region)) (s : State) (acc : List Nat) :
    (State.makeRegions c vat l s acc).1.boot.svn = s.boot.svn := by
  induction l generalizing s acc with
  | nil => rfl
  | cons p l ih =>
    obtain ⟨k, i, r⟩ := p
    rw [State.makeRegions]
    split
    · rfl
    · rw [ih]; simp
@[simp] theorem State.bindReserve_boot_svn (s : State) (c : Cmd) : (State.bindReserve s c).boot.svn = s.boot.svn := by
  unfold State.bindReserve
  split
  · rfl
  · extract_lets vat loader es ws st r st' q t t'
    have hr : r.2.1.boot.svn = s.boot.svn := State.reserveAll_boot_svn _ _ _ _ _
    have hq : q.1.boot.svn = s.boot.svn := by
      simp only [q]
      split
      · exact hr
      · rw [State.makeRegions_boot_svn, hr]
    have h' : t'.boot.svn = s.boot.svn := by
      simp only [t']
      split <;> simp [t, hq]
    (repeat' split) <;> simp [h']
@[simp] theorem State.unreserve_boot_svn (s : State) (vat : Nat) : (State.unreserve s vat).boot.svn = s.boot.svn := by
  simp [State.unreserve]
@[simp] theorem State.bindCores_boot_svn (s : State) (vat : Nat) (m : Mould) (l : Nat) (pl : Placement) : (State.bindCores s vat m l pl).boot.svn = s.boot.svn := by
  unfold State.bindCores
  (repeat' split) <;> (try simp [apply_ite (fun s : State => s.boot.svn), foldl_boot_svn]) <;> (try (intros; (repeat' split) <;> simp [apply_ite (fun s : State => s.boot.svn), foldl_boot_svn]))
@[simp] theorem State.storeAlternates_boot_svn (s : State) (m : Mould) (l : Nat) (pl : Placement) : (State.storeAlternates s m l pl).boot.svn = s.boot.svn := by
  simp [State.storeAlternates, apply_ite (fun s : State => s.boot.svn), foldl_boot_svn]
@[simp] theorem State.bindComplete_boot_svn (s : State) (c : Cmd) (met : ReadErrs) : (State.bindComplete s c met).boot.svn = s.boot.svn := by
  unfold State.bindComplete
  (repeat' split) <;> (try simp [apply_ite (fun s : State => s.boot.svn), foldl_boot_svn]) <;> (try (intros; (repeat' split) <;> simp [apply_ite (fun s : State => s.boot.svn), foldl_boot_svn]))
theorem State.giveParams_boot_svn {s t : State} {vat : Nat} {p : SessParams} (h : s.giveParams vat p = some t) : t.boot.svn = s.boot.svn := by
  unfold State.giveParams at h
  split at h
  · cases h
  · extract_lets u sums fs at h
    split at h
    · cases h
    · cases h
      simp [u]
@[simp] theorem State.configure_boot_svn (s : State) (c : Cmd) (members : List (Nat × Nat × Nat)) : (State.configure s c members).boot.svn = s.boot.svn := by
  unfold State.configure
  extract_lets b
  split
  · rfl
  · extract_lets ok blocks caves p other
    split
    · simp
    · split
      · simp
      · split
        · rename_i h
          simp [State.giveParams_boot_svn h]
        · simp
theorem State.giveParams_getD_boot_svn (s : State) (vat : Nat) (p : SessParams) : ((s.giveParams vat p).getD s).boot.svn = s.boot.svn := by
  cases h : s.giveParams vat p with
  | none => rfl
  | some t => exact State.giveParams_boot_svn h
@[simp] theorem State.takeParams_boot_svn (s : State) (vat : Nat) (ps : List Nat) : (State.takeParams s vat ps).boot.svn = s.boot.svn := by
  unfold State.takeParams
  split
  · rfl
  · extract_lets x p
    (repeat' split) <;> simp [State.giveParams_getD_boot_svn]
@[simp] theorem State.startAt_boot_svn (s : State) (vat x : Nat) : (State.startAt s vat x).boot.svn = s.boot.svn := by
  simp [State.startAt]
@[simp] theorem State.startVat_boot_svn (s : State) (c : Cmd) (members : List (Nat × Nat × Nat)) : (State.startVat s c members).boot.svn = s.boot.svn := by
  unfold State.startVat
  (repeat' split) <;> simp [apply_ite (fun s : State => s.boot.svn), foldl_boot_svn]
@[simp] theorem State.setHalt_boot_svn (s : State) (vat b : Nat) : (State.setHalt s vat b).boot.svn = s.boot.svn := by
  simp [State.setHalt, apply_ite (fun s : State => s.boot.svn), foldl_boot_svn]
@[simp] theorem State.haltCmd_boot_svn (s : State) (c : Cmd) : (State.haltCmd s c).boot.svn = s.boot.svn := by
  unfold State.haltCmd
  (repeat' split) <;> simp [apply_ite (fun s : State => s.boot.svn), foldl_boot_svn]
@[simp] theorem State.othersHalted_boot_svn (s : State) (vat : Nat) : (State.othersHalted s vat).boot.svn = s.boot.svn := by
  simp [State.othersHalted, apply_ite (fun s : State => s.boot.svn), foldl_boot_svn]
@[simp] theorem State.excuse_boot_svn (s : State) (vat : Nat) : (State.excuse s vat).boot.svn = s.boot.svn := by
  simp [State.excuse, apply_ite (fun s : State => s.boot.svn), foldl_boot_svn]
@[simp] theorem State.releaseBeyond_boot_svn (s : State) (vat : Nat) (a b : Mould × Nat × Placement) : (State.releaseBeyond s vat a b).boot.svn = s.boot.svn := by
  simp [State.releaseBeyond, apply_ite (fun s : State => s.boot.svn), foldl_boot_svn]
@[simp] theorem State.releasePlace_boot_svn (s : State) (vat : Nat) (m : Mould) (l : Nat) (pl : Placement) : (State.releasePlace s vat m l pl).boot.svn = s.boot.svn := by
  simp [State.releasePlace, apply_ite (fun s : State => s.boot.svn), foldl_boot_svn]
@[simp] theorem State.unstage_boot_svn (s : State) (vat : Nat) : (State.unstage s vat).boot.svn = s.boot.svn := by
  unfold State.unstage
  (repeat' split) <;> simp [apply_ite (fun s : State => s.boot.svn), foldl_boot_svn]
@[simp] theorem State.stepBack_boot_svn (s : State) (vat : Nat) : (State.stepBack s vat).boot.svn = s.boot.svn := by
  unfold State.stepBack
  (repeat' split) <;> simp [apply_ite (fun s : State => s.boot.svn), foldl_boot_svn]
@[simp] theorem State.abandon_boot_svn (s : State) (vat status : Nat) : (State.abandon s vat status).boot.svn = s.boot.svn := by
  unfold State.abandon
  dsimp only [-Nat.reducePow]
  (repeat' split) <;> simp [apply_ite (fun s : State => s.boot.svn), foldl_boot_svn]
@[simp] theorem State.unbindVat_boot_svn (s : State) (vat : Nat) (ref : Option CmdRef) : (State.unbindVat s vat ref).boot.svn = s.boot.svn := by
  unfold State.unbindVat
  (repeat' split) <;> simp [apply_ite (fun s : State => s.boot.svn), foldl_boot_svn]
@[simp] theorem State.othersGone_boot_svn (s : State) (vat : Nat) : (State.othersGone s vat).boot.svn = s.boot.svn := by
  simp [State.othersGone, apply_ite (fun s : State => s.boot.svn), foldl_boot_svn]
@[simp] theorem State.sendHalt_boot_svn (s : State) (vat b : Nat) : (State.sendHalt s vat b).boot.svn = s.boot.svn := by
  unfold State.sendHalt
  (repeat' split) <;> simp [apply_ite (fun s : State => s.boot.svn), foldl_boot_svn]
@[simp] theorem State.autoFresh_boot_svn (s : State) (vat : Nat) (ks : List RemouldKind) : (State.autoFresh s vat ks).boot.svn = s.boot.svn := by
  unfold State.autoFresh
  (repeat' split) <;> simp [apply_ite (fun s : State => s.boot.svn), foldl_boot_svn]
@[simp] theorem State.doLater_boot_svn (s : State) (vat : Nat) (x : Later) : (State.doLater s vat x).boot.svn = s.boot.svn := by
  simp [State.doLater]
@[simp] theorem State.autoRemould_boot_svn (s : State) (vat : Nat) (k : RemouldKind) (loss : Bool) (wait : Later) : (State.autoRemould s vat k loss wait).boot.svn = s.boot.svn := by
  unfold State.autoRemould
  (repeat' split) <;> simp [apply_ite (fun s : State => s.boot.svn), foldl_boot_svn]
@[simp] theorem State.noSpare_boot_svn (s : State) (vat : Nat) : (State.noSpare s vat).boot.svn = s.boot.svn := by
  unfold State.noSpare
  dsimp only [-Nat.reducePow]
  (repeat' split) <;> simp [apply_ite (fun s : State => s.boot.svn), foldl_boot_svn]
@[simp] theorem State.replacePkg_boot_svn (s : State) (vat l : Nat) (loss : Bool) : (State.replacePkg s vat l loss).boot.svn = s.boot.svn := by
  unfold State.replacePkg
  (repeat' split) <;> simp [apply_ite (fun s : State => s.boot.svn), foldl_boot_svn]
@[simp] theorem State.spareRemould_boot_svn (s : State) (vat l core : Nat) : (State.spareRemould s vat l core).boot.svn = s.boot.svn := by
  simp [State.spareRemould]
@[simp] theorem State.again_boot_svn (s : State) (vat : Nat) (ks : List RemouldKind) : (State.again s vat ks).boot.svn = s.boot.svn := by
  simp [State.again, apply_ite (fun s : State => s.boot.svn), foldl_boot_svn]
@[simp] theorem State.lose_boot_svn (s : State) (vat node : Nat) : (State.lose s vat node).boot.svn = s.boot.svn := by
  unfold State.lose
  dsimp only [-Nat.reducePow]
  (repeat' split) <;> simp [apply_ite (fun s : State => s.boot.svn), foldl_boot_svn]
@[simp] theorem State.coreRetired_boot_svn (s : State) (vat l core : Nat) : (State.coreRetired s vat l core).boot.svn = s.boot.svn := by
  unfold State.coreRetired
  (repeat' split) <;> simp [apply_ite (fun s : State => s.boot.svn), foldl_boot_svn]
@[simp] theorem State.requested_boot_svn (s : State) (c : Cmd) (vat : Nat) (k : RemouldKind) (affected : List Nat) : (State.requested s c vat k affected).boot.svn = s.boot.svn := by
  unfold State.requested
  dsimp only [-Nat.reducePow]
  (repeat' split) <;> simp [apply_ite (fun s : State => s.boot.svn), foldl_boot_svn]
@[simp] theorem State.remouldCmd_boot_svn (s : State) (inUse kvElse : Bool) (c : Cmd) : (State.remouldCmd s inUse kvElse c).boot.svn = s.boot.svn := by
  unfold State.remouldCmd
  (repeat' split) <;> simp [apply_ite (fun s : State => s.boot.svn), foldl_boot_svn]
theorem State.growInto_boot_svn {s t : State} {vat : Nat} {m e : Mould} {l : Nat} {old pl p : Placement}
    (h : s.growInto vat m e l old pl = some (t, p)) : t.boot.svn = s.boot.svn := by
  unfold State.growInto at h
  extract_lets new more n runs at h
  split at h
  · cases h
  · obtain ⟨x, _, hx⟩ := Option.bind_eq_some_iff.mp h
    split at hx
    · cases hx
    · cases hx
      exact (State.onMem_boot_svn ..).trans ((State.holdFrames_boot_svn ..).trans (State.holdFrames_boot_svn ..))
theorem State.regrow_boot_svn (s : State) (vat : Nat) (m e : Mould) (l : Nat) (old : Placement) : (s.regrow vat m e l old).2.1.boot.svn = s.boot.svn := by
  unfold State.regrow
  split
  · rfl
  · split
    · rename_i r h
      obtain ⟨pl, _, hp⟩ := List.exists_of_findSome?_eq_some h
      exact State.growInto_boot_svn (t := r.1) (p := r.2) hp
    · rfl
theorem State.stageEntry_boot_svn (s : State) (v : Vat) (m d : Mould) (k : Nat) : (s.stageEntry v m d k).2.boot.svn = s.boot.svn := by
  unfold State.stageEntry
  extract_lets e l r
  split
  · rfl
  · have h : r.2.1.boot.svn = s.boot.svn := by
      simp only [r]
      split
      · exact State.regrow_boot_svn ..
      · rfl
    split
    · rfl
    · split
      · rfl
      · exact (State.onVat_boot_svn ..).trans h
theorem State.stageAll_boot_svn (v : Vat) (m d : Mould) (l : List Nat) (s : State) : (State.stageAll v m d l s).2.boot.svn = s.boot.svn := by
  induction l generalizing s with
  | nil => rfl
  | cons k l ih =>
    rw [State.stageAll]
    split
    · exact State.stageEntry_boot_svn ..
    · exact (ih _).trans (State.stageEntry_boot_svn ..)
theorem State.stageDelta_boot_svn (s : State) (v : Vat) (m d : Mould) : (s.stageDelta v m d).2.boot.svn = s.boot.svn := by
  unfold State.stageDelta
  extract_lets r
  split
  · rfl
  · exact (State.onRole_boot_svn ..).trans (State.stageAll_boot_svn ..)
theorem State.stageNew_boot_svn (s : State) (v : Vat) (m : Mould) : (s.stageNew v m).2.boot.svn = s.boot.svn := by
  unfold State.stageNew
  split
  · rfl
  · exact State.onRole_boot_svn ..
@[simp] theorem State.stageDone_boot_svn (s : State) (vat : Nat) (e : StageEnd) : (State.stageDone s vat e).boot.svn = s.boot.svn := by
  unfold State.stageDone
  split
  · rfl
  · extract_lets new u q st t
    split
    · rfl
    · skip
      have hu : u.boot.svn = s.boot.svn := State.unstage_boot_svn ..
      have hq : q.2.boot.svn = s.boot.svn := by
        simp only [q]
        split
        · split
          · exact (State.stageNew_boot_svn ..).trans hu
          · exact (State.stageDelta_boot_svn ..).trans hu
        · split
          · exact (State.stageNew_boot_svn ..).trans hu
          · exact hu
      have ht : t.boot.svn = s.boot.svn := by
        simp only [t]
        split
        · exact (State.onRole_boot_svn ..).trans hq
        · split
          · exact (State.pausePages_boot_svn ..).trans ((State.onRole_boot_svn ..).trans hq)
          · exact hq
      split
      · split
        · exact (State.abandon_boot_svn ..).trans hu
        · exact hu
      · exact (State.control_boot_svn ..).trans ht
@[simp] theorem State.zeroWorking_boot_svn (s : State) (vat : Nat) : (State.zeroWorking s vat).boot.svn = s.boot.svn := by
  unfold State.zeroWorking
  split
  · rfl
  · refine foldl_boot_svn (fun t p => ?_) _ s
    split <;> simp
@[simp] theorem State.readHeaders_boot_svn (s : State) (vat : Nat) : (State.readHeaders s vat).boot.svn = s.boot.svn := by
  unfold State.readHeaders
  (repeat' split) <;> simp [apply_ite (fun s : State => s.boot.svn), foldl_boot_svn]
@[simp] theorem State.pullWeights_boot_svn (s : State) (vat k : Nat) : (State.pullWeights s vat k).boot.svn = s.boot.svn := by
  unfold State.pullWeights
  (repeat' split) <;> simp [apply_ite (fun s : State => s.boot.svn), foldl_boot_svn]
@[simp] theorem State.takeMove_boot_svn (s : State) (vat k : Nat) : (State.takeMove s vat k).boot.svn = s.boot.svn := by
  unfold State.takeMove
  split
  · rfl
  · extract_lets l r bytes cold pl t t1 t2 t3
    have hr : r.2.1.boot.svn = s.boot.svn := by
      simp only [r]
      split
      · rfl
      · exact State.reserve_boot_svn _ _ _ _
    have ht : t.boot.svn = s.boot.svn := (State.onRole_boot_svn ..).trans hr
    have h1 : t1.boot.svn = s.boot.svn := (State.bindCores_boot_svn ..).trans ((State.onVat_boot_svn ..).trans ht)
    have h2 : t2.boot.svn = s.boot.svn := by
      simp only [t2]
      split
      · exact (State.pullWeights_boot_svn ..).trans h1
      · exact h1
    have h3 : t3.boot.svn = s.boot.svn := (State.onVat_boot_svn ..).trans ((State.giveParams_getD_boot_svn ..).trans h2)
    split
    · exact State.note_boot_svn ..
    · exact (State.onRole_boot_svn ..).trans ((State.readHeaders_boot_svn ..).trans ((State.zeroWorking_boot_svn ..).trans h3))
@[simp] theorem State.joinNew_boot_svn (s : State) (vat : Nat) : (State.joinNew s vat).boot.svn = s.boot.svn := by
  unfold State.joinNew
  (repeat' split) <;> (try simp [apply_ite (fun s : State => s.boot.svn), foldl_boot_svn]) <;> (try (intros; (repeat' split) <;> simp [apply_ite (fun s : State => s.boot.svn), foldl_boot_svn]))
@[simp] theorem State.takeHalt_boot_svn (s : State) (vat b : Nat) (what : HaltFor) : (State.takeHalt s vat b what).boot.svn = s.boot.svn := by
  unfold State.takeHalt
  (repeat' split) <;> (try simp [apply_ite (fun s : State => s.boot.svn), foldl_boot_svn]) <;> (try (intros; (repeat' split) <;> simp [apply_ite (fun s : State => s.boot.svn), foldl_boot_svn]))
@[simp] theorem State.haltDue_boot_svn (s : State) : (State.haltDue s).boot.svn = s.boot.svn := by
  rw [State.haltDue]
  (repeat' split) <;> (try simp [apply_ite (fun s : State => s.boot.svn), foldl_boot_svn]) <;> (try (rw [foldl_boot_svn] <;> (try (intro t a; (repeat' split) <;> simp [apply_ite (fun s : State => s.boot.svn), foldl_boot_svn]))))
@[simp] theorem State.readyDue_boot_svn (s : State) : (State.readyDue s).boot.svn = s.boot.svn := by
  rw [State.readyDue]
  (repeat' split) <;> (try simp [apply_ite (fun s : State => s.boot.svn), foldl_boot_svn]) <;> (try (rw [foldl_boot_svn] <;> (try (intro t a; (repeat' split) <;> simp [apply_ite (fun s : State => s.boot.svn), foldl_boot_svn]))))
@[simp] theorem State.pauseLoaded_boot_svn (s : State) (vat status : Nat) : (State.pauseLoaded s vat status).boot.svn = s.boot.svn := by
  unfold State.pauseLoaded
  (repeat' split) <;> simp [apply_ite (fun s : State => s.boot.svn), foldl_boot_svn]
@[simp] theorem State.sendResume_boot_svn (s : State) (vat : Nat) : (State.sendResume s vat).boot.svn = s.boot.svn := by
  unfold State.sendResume
  (repeat' split) <;> simp [apply_ite (fun s : State => s.boot.svn), foldl_boot_svn]
@[simp] theorem State.memberReady_boot_svn (s : State) (vat l phase : Nat) : (State.memberReady s vat l phase).boot.svn = s.boot.svn := by
  unfold State.memberReady
  (repeat' split) <;> simp [apply_ite (fun s : State => s.boot.svn), foldl_boot_svn]
@[simp] theorem State.applyMove_boot_svn (s : State) (vat k : Nat) : (State.applyMove s vat k).boot.svn = s.boot.svn := by
  simp [State.applyMove]
@[simp] theorem State.applyEntry_boot_svn (s : State) (vat : Nat) (m e : Mould) (l : Nat) (old pl : Placement) : (State.applyEntry s vat m e l old pl).boot.svn = s.boot.svn := by
  simp [State.applyEntry, apply_ite (fun s : State => s.boot.svn), foldl_boot_svn]
@[simp] theorem State.applyEntries_boot_svn (s : State) (vat : Nat) (v : Vat) (m e : Mould) : (State.applyEntries s vat v m e).boot.svn = s.boot.svn := by
  unfold State.applyEntries
  dsimp only [-Nat.reducePow]
  (repeat' split) <;> (try simp [apply_ite (fun s : State => s.boot.svn), foldl_boot_svn]) <;> (try (rw [foldl_boot_svn]; intro t a; (repeat' split) <;> simp [apply_ite (fun s : State => s.boot.svn), foldl_boot_svn]))
@[simp] theorem State.applyDelta_boot_svn (s : State) (vat : Nat) : (State.applyDelta s vat).boot.svn = s.boot.svn := by
  unfold State.applyDelta
  (repeat' split) <;> simp [apply_ite (fun s : State => s.boot.svn), foldl_boot_svn]
@[simp] theorem State.reofferAll_boot_svn (s : State) (vat : Nat) : (State.reofferAll s vat).boot.svn = s.boot.svn := by
  rw [State.reofferAll]
  (repeat' split) <;> (try simp [apply_ite (fun s : State => s.boot.svn), foldl_boot_svn]) <;> (try (rw [foldl_boot_svn] <;> (try (intro t a; (repeat' split) <;> simp [apply_ite (fun s : State => s.boot.svn), foldl_boot_svn]))))
@[simp] theorem State.resumeMember_boot_svn (s : State) (v : Vat) (m : Mould) (vat x : Nat) (moved : List Nat) : (State.resumeMember s v m vat x moved).boot.svn = s.boot.svn := by
  unfold State.resumeMember
  dsimp only [-Nat.reducePow]
  (repeat' split) <;> simp [apply_ite (fun s : State => s.boot.svn), foldl_boot_svn]
@[simp] theorem State.resumeVat_boot_svn (s : State) (vat x : Nat) (moved : List Nat) : (State.resumeVat s vat x moved).boot.svn = s.boot.svn := by
  unfold State.resumeVat
  (repeat' split) <;> simp [apply_ite (fun s : State => s.boot.svn), foldl_boot_svn]
@[simp] theorem State.lateRemoulds_boot_svn (s : State) (vat : Nat) : (State.lateRemoulds s vat).boot.svn = s.boot.svn := by
  unfold State.lateRemoulds
  refine (foldl_boot_svn (fun t x => ?_) _ _).trans (State.onRole_boot_svn ..)
  cases x with
  | pkg l loss => exact State.replacePkg_boot_svn ..
  | spare l c => exact State.spareRemould_boot_svn ..
@[simp] theorem State.enterRunning_boot_svn (s : State) : (State.enterRunning s).boot.svn = s.boot.svn := by
  unfold State.enterRunning
  dsimp only [-Nat.reducePow]
  (repeat' split) <;> (try simp [apply_ite (fun s : State => s.boot.svn), foldl_boot_svn]) <;> (try (rw [foldl_boot_svn]; intro t a; (repeat' split) <;> simp [apply_ite (fun s : State => s.boot.svn), foldl_boot_svn]))
@[simp] theorem State.sendReport_boot_svn (s : State) (vat : Nat) : (State.sendReport s vat).boot.svn = s.boot.svn := by
  unfold State.sendReport
  (repeat' split) <;> simp [apply_ite (fun s : State => s.boot.svn), foldl_boot_svn]
@[simp] theorem State.deputyTakes_boot_svn (s : State) (vat : Nat) : (State.deputyTakes s vat).boot.svn = s.boot.svn := by
  unfold State.deputyTakes
  (repeat' split) <;> simp [apply_ite (fun s : State => s.boot.svn), foldl_boot_svn]
@[simp] theorem State.takeTakeover_boot_svn (s : State) (vat sender : Nat) : (State.takeTakeover s vat sender).boot.svn = s.boot.svn := by
  unfold State.takeTakeover
  (repeat' split) <;> simp [apply_ite (fun s : State => s.boot.svn), foldl_boot_svn]
@[simp] theorem State.copyCmd_boot_svn (s : State) (c : Cmd) (bad : ReadErrs) : (State.copyCmd s c bad).boot.svn = s.boot.svn := by
  unfold State.copyCmd
  extract_lets src st
  split <;> simp
@[simp] theorem State.copyOut_boot_svn (s : State) (c : Cmd) (bad : ReadErrs) : (State.copyOut s c bad).boot.svn = s.boot.svn := by
  simp [State.copyOut, apply_ite (fun s : State => s.boot.svn), foldl_boot_svn]
@[simp] theorem State.sealBytes_boot_svn (s : State) (c : Cmd) (bad : ReadErrs) : (State.sealBytes s c bad).boot.svn = s.boot.svn := by
  unfold State.sealBytes
  dsimp only [-Nat.reducePow]
  (repeat' split) <;> simp [apply_ite (fun s : State => s.boot.svn), foldl_boot_svn]
@[simp] theorem State.openWrite_boot_svn (s : State) (r : CmdRef) : (State.openWrite s r).boot.svn = s.boot.svn := by
  unfold State.openWrite
  (repeat' split) <;> simp
@[simp] theorem State.openBytes_boot_svn (s : State) (c : Cmd) : (State.openBytes s c).boot.svn = s.boot.svn := by
  unfold State.openBytes
  (repeat' split) <;> simp [apply_ite (fun s : State => s.boot.svn), foldl_boot_svn]
@[simp] theorem State.stopQueues_boot_svn (s : State) (c : Nat) : (State.stopQueues s c).boot.svn = s.boot.svn := by
  simp [State.stopQueues]
@[simp] theorem State.abandonFences_boot_svn (s : State) (c : Nat) : (State.abandonFences s c).boot.svn = s.boot.svn := by
  simp [State.abandonFences, apply_ite (fun s : State => s.boot.svn), foldl_boot_svn]
@[simp] theorem State.dropHeld_boot_svn (s : State) (c : Nat) : (State.dropHeld s c).boot.svn = s.boot.svn := by
  simp [State.dropHeld]
@[simp] theorem State.closeSessions_boot_svn (s : State) (c : Nat) : (State.closeSessions s c).boot.svn = s.boot.svn := by
  simp [State.closeSessions, apply_ite (fun s : State => s.boot.svn), foldl_boot_svn]
@[simp] theorem State.freeObjects_boot_svn (s : State) (c : Nat) : (State.freeObjects s c).boot.svn = s.boot.svn := by
  simp [State.freeObjects, apply_ite (fun s : State => s.boot.svn), foldl_boot_svn]
@[simp] theorem State.teardown_boot_svn (s : State) (c : Nat) (by' : Option CmdRef) : (State.teardown s c by').boot.svn = s.boot.svn := by
  unfold State.teardown
  (repeat' split) <;> (try simp [apply_ite (fun s : State => s.boot.svn), foldl_boot_svn]) <;> (try (intros; (repeat' split) <;> simp [apply_ite (fun s : State => s.boot.svn), foldl_boot_svn]))
@[simp] theorem State.freeContext_boot_svn (s : State) (c : Nat) : (State.freeContext s c).boot.svn = s.boot.svn := by
  unfold State.freeContext
  dsimp only [-Nat.reducePow]
  (repeat' split) <;> simp [apply_ite (fun s : State => s.boot.svn), foldl_boot_svn]
@[simp] theorem State.regSqTail_boot_svn (s : State) (ctx q value : Nat) : (State.regSqTail s ctx q value).boot.svn = s.boot.svn := by
  simp [State.regSqTail]
@[simp] theorem State.regCqHead_boot_svn (s : State) (ctx q value : Nat) : (State.regCqHead s ctx q value).boot.svn = s.boot.svn := by
  simp [State.regCqHead]
@[simp] theorem State.reject_boot_svn (s : State) (c : Cmd) (status : Nat) (fence : Option Nat) : (State.reject s c status fence).boot.svn = s.boot.svn := by
  simp [State.reject]
@[simp] theorem State.rejectOwn_boot_svn (s : State) (c : Cmd) (status : Nat) : (State.rejectOwn s c status).boot.svn = s.boot.svn := by
  simp [State.rejectOwn, apply_ite (fun s : State => s.boot.svn), foldl_boot_svn]
@[simp] theorem State.rejectArmed_boot_svn (s : State) (c : Cmd) (status : Nat) : (State.rejectArmed s c status).boot.svn = s.boot.svn := by
  simp [State.rejectArmed, apply_ite (fun s : State => s.boot.svn), foldl_boot_svn]
@[simp] theorem State.atDispatch_boot_svn (s : State) (c : Cmd) : (State.atDispatch s c).boot.svn = s.boot.svn := by
  simp [State.atDispatch, apply_ite (fun s : State => s.boot.svn), foldl_boot_svn]
@[simp] theorem State.enrol_boot_svn (s : State) (c : Cmd) : (State.enrol s c).boot.svn = s.boot.svn := by
  simp [State.enrol, apply_ite (fun s : State => s.boot.svn), foldl_boot_svn]
theorem State.armCmd_boot_svn (s : State) (c : Cmd) : (s.armCmd c).1.boot.svn = s.boot.svn := by
  unfold State.armCmd
  split <;> simp
@[simp] theorem State.check_boot_svn (s : State) (c : Cmd) : (State.check s c).boot.svn = s.boot.svn := by
  unfold State.check
  extract_lets b ctx st q st1 st2 st3 st4
  have hq : q.1.boot.svn = s.boot.svn := State.armCmd_boot_svn _ _
  (repeat' split) <;> simp [hq]
theorem State.waitHead_boot_svn {s t : State} {c q : Nat} {u : Queue} {b : List Byte} (h : s.waitHead c q u b = .stay t) : t.boot.svn = s.boot.svn := by
  unfold State.waitHead at h
  extract_lets f at h
  (repeat' split at h) <;> cases h <;> simp
@[simp] theorem State.dispatch_boot_svn (s : State) (c q : Nat) : (State.dispatch s c q).boot.svn = s.boot.svn := by
  unfold State.dispatch
  split
  · rfl
  · extract_lets x go
    have hg : ∀ t, (go t).boot.svn = t.boot.svn := by
      intro t
      simp only [go]
      split <;> simp
    split
    · exact hg s
    · rename_i h; exact State.waitHead_boot_svn h
    · simp
    · split <;> simp [hg]
@[simp] theorem State.regFaultDone_boot_svn (s : State) (value : Nat) : (State.regFaultDone s value).boot.svn = s.boot.svn := by
  unfold State.regFaultDone
  (repeat' split) <;> (try simp [apply_ite (fun s : State => s.boot.svn), foldl_boot_svn]) <;> (try (intros; (repeat' split) <;> simp [apply_ite (fun s : State => s.boot.svn), foldl_boot_svn]))
@[simp] theorem State.regFaultEnable_boot_svn (s : State) (value : Nat) : (State.regFaultEnable s value).boot.svn = s.boot.svn := by simp [State.regFaultEnable]
@[simp] theorem State.sendFlit_boot_svn (s : State) (k : Nat) (f : Flit) : (State.sendFlit s k f).boot.svn = s.boot.svn := by
  simp [State.sendFlit]
@[simp] theorem State.sendAhead_boot_svn (s : State) (k : Nat) (f : Flit) : (State.sendAhead s k f).boot.svn = s.boot.svn := by
  simp [State.sendAhead]
@[simp] theorem State.discardFlit_boot_svn (s : State) (k : Nat) : (State.discardFlit s k).boot.svn = s.boot.svn := by
  simp [State.discardFlit]
@[simp] theorem State.trainPort_boot_svn (s : State) (k : Nat) : (State.trainPort s k).boot.svn = s.boot.svn := by
  simp [State.trainPort]
@[simp] theorem State.bringup_boot_svn (s : State) : (State.bringup s).boot.svn = s.boot.svn := by
  simp [State.bringup, apply_ite (fun s : State => s.boot.svn), foldl_boot_svn]
@[simp] theorem State.regTrain_boot_svn (s : State) (port value : Nat) : (State.regTrain s port value).boot.svn = s.boot.svn := by
  simp [State.regTrain, apply_ite (fun s : State => s.boot.svn), foldl_boot_svn]
@[simp] theorem State.regUnfence_boot_svn (s : State) (port value : Nat) : (State.regUnfence s port value).boot.svn = s.boot.svn := by
  simp [State.regUnfence, apply_ite (fun s : State => s.boot.svn), foldl_boot_svn]
@[simp] theorem State.firstMarker_boot_svn (s : State) (k : Nat) : (State.firstMarker s k).boot.svn = s.boot.svn := by
  simp [State.firstMarker, apply_ite (fun s : State => s.boot.svn), foldl_boot_svn]
@[simp] theorem State.leaveAlign_boot_svn (s : State) (k : Nat) : (State.leaveAlign s k).boot.svn = s.boot.svn := by
  simp [State.leaveAlign]
@[simp] theorem State.takeAlign_boot_svn (s : State) (k t phiQ : Nat) : (State.takeAlign s k t phiQ).boot.svn = s.boot.svn := by
  unfold State.takeAlign
  dsimp only [-Nat.reducePow]
  (repeat' split) <;> simp [apply_ite (fun s : State => s.boot.svn), foldl_boot_svn]
@[simp] theorem State.fillTick_boot_svn (s : State) (k : Nat) : (State.fillTick s k).boot.svn = s.boot.svn := by
  simp [State.fillTick, apply_ite (fun s : State => s.boot.svn), foldl_boot_svn]
@[simp] theorem State.sendMarkers_boot_svn (s : State) : (State.sendMarkers s).boot.svn = s.boot.svn := by
  simp [State.sendMarkers, apply_ite (fun s : State => s.boot.svn), foldl_boot_svn]
@[simp] theorem State.portDown_boot_svn (s : State) (k : Nat) : (State.portDown s k).boot.svn = s.boot.svn := by
  simp [State.portDown, apply_ite (fun s : State => s.boot.svn), foldl_boot_svn]
@[simp] theorem State.transmit_boot_svn (s : State) (k slot : Nat) (h0 h1 : Slot) : (State.transmit s k slot h0 h1).boot.svn = s.boot.svn := by
  unfold State.transmit
  (repeat' split) <;> simp [apply_ite (fun s : State => s.boot.svn), foldl_boot_svn]
@[simp] theorem State.curdArrives_boot_svn (s : State) (k slot : Nat) (fl : Flit) : (State.curdArrives s k slot fl).boot.svn = s.boot.svn := by
  simp [State.curdArrives, apply_ite (fun s : State => s.boot.svn), foldl_boot_svn]
@[simp] theorem State.voidLands_boot_svn (s : State) (vat node : Nat) : (State.voidLands s vat node).boot.svn = s.boot.svn := by
  simp [State.voidLands, apply_ite (fun s : State => s.boot.svn), foldl_boot_svn]
@[simp] theorem State.landSlot_boot_svn (s : State) (k slot h : Nat) (x : Slot) : (State.landSlot s k slot h x).boot.svn = s.boot.svn := by
  simp [State.landSlot]
@[simp] theorem State.deliver_boot_svn (s : State) (k slot : Nat) : (State.deliver s k slot).boot.svn = s.boot.svn := by
  unfold State.deliver
  dsimp only [-Nat.reducePow]
  (repeat' split) <;> simp [apply_ite (fun s : State => s.boot.svn), foldl_boot_svn]
@[simp] theorem State.popHeld_boot_svn (s : State) (c : Nat) : (State.popHeld s c).boot.svn = s.boot.svn := by
  simp [State.popHeld, apply_ite (fun s : State => s.boot.svn), foldl_boot_svn]
@[simp] theorem State.wheyLeave_boot_svn (s : State) (out c : Nat) : (State.wheyLeave s out c).boot.svn = s.boot.svn := by
  simp [State.wheyLeave, apply_ite (fun s : State => s.boot.svn), foldl_boot_svn]
@[simp] theorem State.wheyServe_boot_svn (s : State) (out : Nat) : (State.wheyServe s out).boot.svn = s.boot.svn := by
  unfold State.wheyServe
  dsimp only [-Nat.reducePow]
  (repeat' split) <;> simp [apply_ite (fun s : State => s.boot.svn), foldl_boot_svn]
@[simp] theorem State.wheyDrops_boot_svn (s : State) (c : Nat) : (State.wheyDrops s c).boot.svn = s.boot.svn := by
  unfold State.wheyDrops
  (repeat' split) <;> simp [apply_ite (fun s : State => s.boot.svn), foldl_boot_svn]
@[simp] theorem State.wheyRounds_boot_svn (n : Nat) (s : State) : (State.wheyRounds n s).boot.svn = s.boot.svn := by
  induction n generalizing s with
  | zero => rfl
  | succ n ih =>
    rw [State.wheyRounds, ih, foldl_boot_svn (fun t a => by simp), foldl_boot_svn (fun t a => by simp)]
@[simp] theorem State.wheyMove_boot_svn (s : State) : s.wheyMove.boot.svn = s.boot.svn := by
  unfold State.wheyMove
  rw [State.wheyRounds_boot_svn]
@[simp] theorem State.wheyOwn_boot_svn (s : State) (fs : List Flit) : (State.wheyOwn s fs).boot.svn = s.boot.svn := by
  simp [State.wheyOwn, apply_ite (fun s : State => s.boot.svn), foldl_boot_svn]
@[simp] theorem State.drainWhey_boot_svn (s : State) (k vc : Nat) : (State.drainWhey s k vc).boot.svn = s.boot.svn := by
  unfold State.drainWhey
  (repeat' split) <;> simp [apply_ite (fun s : State => s.boot.svn), foldl_boot_svn]
@[simp] theorem State.wheyArrives_boot_svn (s : State) (k vc : Nat) (fl : Flit) : (State.wheyArrives s k vc fl).boot.svn = s.boot.svn := by
  simp [State.wheyArrives]
@[simp] theorem State.marker_boot_svn (s : State) (k : Nat) (m : Marker) : (State.marker s k m).boot.svn = s.boot.svn := by
  unfold State.marker
  (repeat' split) <;> simp [apply_ite (fun s : State => s.boot.svn), foldl_boot_svn]
@[simp] theorem State.movePairs_boot_svn (s : State) (v : Nat) : (State.movePairs s v).boot.svn = s.boot.svn := by
  simp [State.movePairs]
@[simp] theorem State.regBypassOpen_boot_svn (s : State) (value : Nat) : (State.regBypassOpen s value).boot.svn = s.boot.svn := by
  simp [State.regBypassOpen, apply_ite (fun s : State => s.boot.svn), foldl_boot_svn]
@[simp] theorem State.pairDone_boot_svn (s : State) (p : Nat) : (State.pairDone s p).boot.svn = s.boot.svn := by
  unfold State.pairDone
  (repeat' split) <;> simp [apply_ite (fun s : State => s.boot.svn), foldl_boot_svn]
@[simp] theorem State.regLinkCommit_boot_svn (s : State) (value : Nat) : (State.regLinkCommit s value).boot.svn = s.boot.svn := by
  simp [State.regLinkCommit, apply_ite (fun s : State => s.boot.svn), foldl_boot_svn]
@[simp] theorem State.keySwitch_boot_svn (s : State) : (State.keySwitch s).boot.svn = s.boot.svn := by
  unfold State.keySwitch
  (repeat' split) <;> simp [apply_ite (fun s : State => s.boot.svn), foldl_boot_svn]
@[simp] theorem State.refreshCap_boot_svn (s : State) : (State.refreshCap s).boot.svn = s.boot.svn := by
  simp [State.refreshCap, apply_ite (fun s : State => s.boot.svn), foldl_boot_svn]
@[simp] theorem State.countBeats_boot_svn (s : State) : (State.countBeats s).boot.svn = s.boot.svn := by
  simp [State.countBeats]
@[simp] theorem State.setVault_boot_svn (s : State) (k : Nat) (b : Bool) : (State.setVault s k b).boot.svn = s.boot.svn := by
  simp [State.setVault]
@[simp] theorem State.loseComplex_boot_svn (s : State) (k cause : Nat) : (State.loseComplex s k cause).boot.svn = s.boot.svn := by
  simp [State.loseComplex, apply_ite (fun s : State => s.boot.svn), foldl_boot_svn]
@[simp] theorem State.failComplex_boot_svn (s : State) (k cause : Nat) : (State.failComplex s k cause).boot.svn = s.boot.svn := by
  simp [State.failComplex, apply_ite (fun s : State => s.boot.svn), foldl_boot_svn]
@[simp] theorem State.adminLost_boot_svn (s : State) : (State.adminLost s).boot.svn = s.boot.svn := by
  simp [State.adminLost, apply_ite (fun s : State => s.boot.svn), foldl_boot_svn]
@[simp] theorem State.takeover_boot_svn (s : State) (k : Nat) : (State.takeover s k).boot.svn = s.boot.svn := by
  simp [State.takeover, apply_ite (fun s : State => s.boot.svn), foldl_boot_svn]
@[simp] theorem State.redeliver_boot_svn (s : State) (k : Nat) : (State.redeliver s k).boot.svn = s.boot.svn := by
  simp [State.redeliver, apply_ite (fun s : State => s.boot.svn), foldl_boot_svn]
@[simp] theorem State.keepSeen_boot_svn (s : State) (k : Nat) : (State.keepSeen s k).boot.svn = s.boot.svn := by
  simp [State.keepSeen, apply_ite (fun s : State => s.boot.svn), foldl_boot_svn]
@[simp] theorem State.cutAdmin_boot_svn (s : State) (r : CmdRef) : (State.cutAdmin s r).boot.svn = s.boot.svn := by
  unfold State.cutAdmin
  (repeat' split) <;> simp [apply_ite (fun s : State => s.boot.svn), foldl_boot_svn]
@[simp] theorem State.splitFence_boot_svn (s : State) (k : Nat) : (State.splitFence s k).boot.svn = s.boot.svn := by
  simp [State.splitFence, apply_ite (fun s : State => s.boot.svn), foldl_boot_svn]
@[simp] theorem State.pathLost_boot_svn (s : State) (k : Nat) : (State.pathLost s k).boot.svn = s.boot.svn := by
  simp [State.pathLost, apply_ite (fun s : State => s.boot.svn), foldl_boot_svn]
@[simp] theorem State.classifyPaths_boot_svn (s : State) : (State.classifyPaths s).boot.svn = s.boot.svn := by
  simp [State.classifyPaths, apply_ite (fun s : State => s.boot.svn), foldl_boot_svn]
@[simp] theorem State.ccRefuse_boot_svn (s : State) : (State.ccRefuse s).boot.svn = s.boot.svn := by
  simp [State.ccRefuse]
@[simp] theorem State.unfenceHalf_boot_svn (s : State) (k : Nat) : (State.unfenceHalf s k).boot.svn = s.boot.svn := by
  simp [State.unfenceHalf, apply_ite (fun s : State => s.boot.svn), foldl_boot_svn]
@[simp] theorem State.leaveHalf_boot_svn (s : State) (h : Nat) : (State.leaveHalf s h).boot.svn = s.boot.svn := by
  simp [State.leaveHalf, apply_ite (fun s : State => s.boot.svn), foldl_boot_svn]
@[simp] theorem State.resumeHalf_boot_svn (s : State) (k : Nat) : (State.resumeHalf s k).boot.svn = s.boot.svn := by
  simp [State.resumeHalf, apply_ite (fun s : State => s.boot.svn), foldl_boot_svn]
@[simp] theorem State.regSplitResume_boot_svn (s : State) (k : Nat) : (State.regSplitResume s k).boot.svn = s.boot.svn := by
  simp [State.regSplitResume, apply_ite (fun s : State => s.boot.svn), foldl_boot_svn]
@[simp] theorem State.groupWrite_boot_svn (s : State) (k : Nat) (f : State → State) (hf : ∀ y0, (f y0).boot.svn = y0.boot.svn) : (State.groupWrite s k f).boot.svn = s.boot.svn := by
  simp [State.groupWrite, apply_ite (fun s : State => s.boot.svn), foldl_boot_svn, hf]
@[simp] theorem State.syncHalf_boot_svn (s : State) (k : Nat) : (State.syncHalf s k).boot.svn = s.boot.svn := by
  simp [State.syncHalf, apply_ite (fun s : State => s.boot.svn), foldl_boot_svn]
@[simp] theorem State.rejoinHalves_boot_svn (s : State) (k : Nat) : (State.rejoinHalves s k).boot.svn = s.boot.svn := by
  simp [State.rejoinHalves, apply_ite (fun s : State => s.boot.svn), foldl_boot_svn]
@[simp] theorem State.regSplitRejoin_boot_svn (s : State) (k : Nat) : (State.regSplitRejoin s k).boot.svn = s.boot.svn := by
  simp [State.regSplitRejoin, apply_ite (fun s : State => s.boot.svn), foldl_boot_svn]
@[simp] theorem State.lineRequest_boot_svn (s : State) (k : Nat) (w : Waiter) : (State.lineRequest s k w).boot.svn = s.boot.svn := by
  simp [State.lineRequest]
@[simp] theorem State.accessFault_boot_svn (s : State) (k hart line : Nat) (store : Bool) : (State.accessFault s k hart line store).boot.svn = s.boot.svn := by
  simp [State.accessFault]
@[simp] theorem State.regPeerRestart_boot_svn (s : State) (k value : Nat) : (State.regPeerRestart s k value).boot.svn = s.boot.svn := by
  simp [State.regPeerRestart, apply_ite (fun s : State => s.boot.svn), foldl_boot_svn]
@[simp] theorem State.complexBack_boot_svn (s : State) (k : Nat) : (State.complexBack s k).boot.svn = s.boot.svn := by
  unfold State.complexBack
  extract_lets body
  split
  · rfl
  · exact (State.syncHalf_boot_svn _ _).trans ((State.onCc_boot_svn _ _).trans ((State.onCplx_boot_svn _ _ _).trans ((State.onCplx_boot_svn _ _ _).trans (State.dpaWrite_boot_svn _ _ _ _))))
@[simp] theorem State.unitError_boot_svn (s : State) (vat : Nat) (e : CoreErr) (order : Nat) : (State.unitError s vat e order).boot.svn = s.boot.svn := by
  simp [State.unitError]
@[simp] theorem State.bankError_boot_svn (s : State) (vat c a : Nat) : (State.bankError s vat c a).boot.svn = s.boot.svn := by
  simp [State.bankError]
@[simp] theorem State.bankCorrected_boot_svn (s : State) (c a : Nat) : (State.bankCorrected s c a).boot.svn = s.boot.svn := by
  simp [State.bankCorrected]
@[simp] theorem State.parityError_boot_svn (s : State) (vat c : Nat) : (State.parityError s vat c).boot.svn = s.boot.svn := by
  simp [State.parityError]
@[simp] theorem State.slotError_boot_svn (s : State) (vat c : Nat) : (State.slotError s vat c).boot.svn = s.boot.svn := by
  simp [State.slotError]
@[simp] theorem State.voidArrives_boot_svn (s : State) (vat c : Nat) : (State.voidArrives s vat c).boot.svn = s.boot.svn := by
  simp [State.voidArrives]
@[simp] theorem State.slotDiscarded_boot_svn (s : State) (vat c : Nat) : (State.slotDiscarded s vat c).boot.svn = s.boot.svn := by
  simp [State.slotDiscarded]
@[simp] theorem State.unitFaults_boot_svn (s : State) (vat c : Nat) (f : UnitFault) : (State.unitFaults s vat c f).boot.svn = s.boot.svn := by
  simp [State.unitFaults, apply_ite (fun s : State => s.boot.svn), foldl_boot_svn]
@[simp] theorem State.unitOp_boot_svn (s : State) (c code : Nat) (w : OpWord) (f : UnitFault) (g : Core → Core) : (State.unitOp s c code w f g).boot.svn = s.boot.svn := by
  unfold State.unitOp
  (repeat' split) <;> simp [apply_ite (fun s : State => s.boot.svn), foldl_boot_svn]
@[simp] theorem State.curdFence_boot_svn (s : State) (vat : Nat) (ps : Pieces) : (State.curdFence s vat ps).boot.svn = s.boot.svn := by
  unfold State.curdFence
  (repeat' split) <;> simp [apply_ite (fun s : State => s.boot.svn), foldl_boot_svn]
@[simp] theorem State.beginReads_boot_svn (s : State) (ps : Pieces) : (State.beginReads s ps).boot.svn = s.boot.svn := by
  simp [State.beginReads]
@[simp] theorem State.moverGet_boot_svn (s : State) (c : Nat) (w : OpWord) (far : List Byte) (f : UnitFault) : (State.moverGet s c w far f).boot.svn = s.boot.svn := by
  unfold State.moverGet
  (repeat' split) <;> simp [apply_ite (fun s : State => s.boot.svn), foldl_boot_svn]
@[simp] theorem State.curdWrite_boot_svn (ps : Pieces) (bs : List Byte) (s : State) : (s.curdWrite ps bs).boot.svn = s.boot.svn := by
  induction ps generalizing s bs with
  | nil => rfl
  | cons p ps ih =>
    rw [State.curdWrite, ih]
    split <;> simp
@[simp] theorem State.store_boot_svn (s : State) (ps : Pieces) (voids : List Nat) (first : Nat) (bs : List Byte) :
    (State.store s ps voids first bs).boot.svn = s.boot.svn := by simp [State.store]
@[simp] theorem State.moverPut_boot_svn (s : State) (c : Nat) (w : OpWord) (f : UnitFault) : (State.moverPut s c w f).boot.svn = s.boot.svn := by
  unfold State.moverPut
  (repeat' split) <;> simp [apply_ite (fun s : State => s.boot.svn), foldl_boot_svn]
@[simp] theorem State.sendTo_boot_svn (s : State) (vat : Nat) (w : OpWord) (f : UnitFault) (bs : List Byte) (c : Nat) : (State.sendTo s vat w f bs c).boot.svn = s.boot.svn := by
  simp [State.sendTo, apply_ite (fun s : State => s.boot.svn), foldl_boot_svn]
@[simp] theorem State.moverSend_boot_svn (s : State) (c : Nat) (w : OpWord) (f : UnitFault) : (State.moverSend s c w f).boot.svn = s.boot.svn := by
  unfold State.moverSend
  dsimp only [-Nat.reducePow]
  (repeat' split) <;> simp [apply_ite (fun s : State => s.boot.svn), foldl_boot_svn]
@[simp] theorem State.moverGetx_boot_svn (s : State) (c : Nat) (w : OpWord) (far : List Byte) (f : UnitFault) : (State.moverGetx s c w far f).boot.svn = s.boot.svn := by
  unfold State.moverGetx
  dsimp only [-Nat.reducePow]
  (repeat' split) <;> simp [apply_ite (fun s : State => s.boot.svn), foldl_boot_svn]
@[simp] theorem State.moverGetl_boot_svn (s : State) (c : Nat) (w : OpWord) (f : UnitFault) : (State.moverGetl s c w f).boot.svn = s.boot.svn := by
  unfold State.moverGetl
  (repeat' split) <;> simp [apply_ite (fun s : State => s.boot.svn), foldl_boot_svn]
@[simp] theorem State.moverPutl_boot_svn (s : State) (c : Nat) (w : OpWord) (f : UnitFault) : (State.moverPutl s c w f).boot.svn = s.boot.svn := by
  unfold State.moverPutl
  dsimp only [-Nat.reducePow]
  (repeat' split) <;> (try simp [apply_ite (fun s : State => s.boot.svn), foldl_boot_svn]) <;> (try (rw [foldl_boot_svn]; intro t a; (repeat' split) <;> simp [apply_ite (fun s : State => s.boot.svn), foldl_boot_svn]))
@[simp] theorem State.readReady_boot_svn (s : State) (dpa : Nat) (ecc : Ecc) : (State.readReady s dpa ecc).boot.svn = s.boot.svn := by
  unfold State.readReady
  dsimp only [-Nat.reducePow]
  (repeat' split) <;> simp [apply_ite (fun s : State => s.boot.svn), foldl_boot_svn]
@[simp] theorem State.slotLands_boot_svn (s : State) (vat router port : Nat) (x : Slot) (ecc : Ecc) : (State.slotLands s vat router port x ecc).boot.svn = s.boot.svn := by
  unfold State.slotLands
  (repeat' split) <;> simp [apply_ite (fun s : State => s.boot.svn), foldl_boot_svn]
@[simp] theorem State.slotBy_boot_svn (s : State) (vat router : Nat) (x : Slot) (ecc : Ecc) (port : Nat) : (State.slotBy s vat router x ecc port).boot.svn = s.boot.svn := by
  unfold State.slotBy
  (repeat' split) <;> simp [apply_ite (fun s : State => s.boot.svn), foldl_boot_svn]
@[simp] theorem State.slotMove_boot_svn (s : State) (router inPort outMask : Nat) (ecc : Ecc) : (State.slotMove s router inPort outMask ecc).boot.svn = s.boot.svn := by
  unfold State.slotMove
  (repeat' split) <;> simp [apply_ite (fun s : State => s.boot.svn), foldl_boot_svn]
@[simp] theorem State.wheyDrop_boot_svn (s : State) : (State.wheyDrop s).boot.svn = s.boot.svn := by
  simp [State.wheyDrop]
@[simp] theorem State.wheyBad_boot_svn (s : State) (p : WheyPacket) : (State.wheyBad s p).boot.svn = s.boot.svn := by
  simp [State.wheyBad]
@[simp] theorem State.wheyTake_boot_svn (s : State) (p : WheyPacket) (ecc : Ecc) (f : State → State) (hf : ∀ y0, (f y0).boot.svn = y0.boot.svn) : (State.wheyTake s p ecc f).boot.svn = s.boot.svn := by
  unfold State.wheyTake
  (repeat' split) <;> simp [apply_ite (fun s : State => s.boot.svn), foldl_boot_svn, hf]
@[simp] theorem State.wheyDeliver_boot_svn (s : State) (p : WheyPacket) : (State.wheyDeliver s p).boot.svn = s.boot.svn := by
  unfold State.wheyDeliver
  (repeat' split) <;> simp [apply_ite (fun s : State => s.boot.svn), foldl_boot_svn]
@[simp] theorem State.wheyForward_boot_svn (s : State) (router inPort : Nat) (ecc : Ecc) : (State.wheyForward s router inPort ecc).boot.svn = s.boot.svn := by
  unfold State.wheyForward
  dsimp only [-Nat.reducePow]
  (repeat' split) <;> simp [apply_ite (fun s : State => s.boot.svn), foldl_boot_svn]
@[simp] theorem State.wheyRead_boot_svn (s : State) (p : WheyPacket) (ecc : Ecc) : (State.wheyRead s p ecc).boot.svn = s.boot.svn := by
  unfold State.wheyRead
  (repeat' split) <;> simp [apply_ite (fun s : State => s.boot.svn), foldl_boot_svn]
@[simp] theorem State.wheyArrive_boot_svn (s : State) (write : Bool) (p : WheyPacket) (ecc : Ecc) (f : State → State) (hf : ∀ y0, (f y0).boot.svn = y0.boot.svn) : (State.wheyArrive s write p ecc f).boot.svn = s.boot.svn := by
  unfold State.wheyArrive
  (repeat' split) <;> simp [apply_ite (fun s : State => s.boot.svn), foldl_boot_svn, hf]
@[simp] theorem State.wheyWrite_boot_svn (s : State) (p : WheyPacket) : (State.wheyWrite s p).boot.svn = s.boot.svn := by
  simp [State.wheyWrite, apply_ite (fun s : State => s.boot.svn), foldl_boot_svn]
@[simp] theorem State.regWinCommit_boot_svn (s : State) (window value : Nat) : (State.regWinCommit s window value).boot.svn = s.boot.svn := by
  simp [State.regWinCommit, apply_ite (fun s : State => s.boot.svn), foldl_boot_svn]
@[simp] theorem State.windowAnswer_boot_svn (s : State) (src tag st : Nat) (bs : List Byte) : (State.windowAnswer s src tag st bs).boot.svn = s.boot.svn := by
  simp [State.windowAnswer, apply_ite (fun s : State => s.boot.svn), foldl_boot_svn]
@[simp] theorem State.windowWrite_boot_svn (s : State) (vat base off : Nat) (bs : List Byte) : (State.windowWrite s vat base off bs).boot.svn = s.boot.svn := by
  simp [State.windowWrite]
@[simp] theorem State.mcGrants_boot_svn (n : Nat) (s : State) : (s.mcGrants n).boot.svn = s.boot.svn := by
  induction n generalizing s with
  | zero => rfl
  | succ n ih =>
    rw [State.mcGrants]
    split
    · rfl
    · split
      · rfl
      · rw [ih]; simp
@[simp] theorem State.mcPool_boot_svn (s : State) : (State.mcPool s).boot.svn = s.boot.svn := by simp [State.mcPool]
@[simp] theorem State.mcReserve_boot_svn (s : State) (src vat tag len window off : Nat) : (State.mcReserve s src vat tag len window off).boot.svn = s.boot.svn := by
  simp [State.mcReserve, apply_ite (fun s : State => s.boot.svn), foldl_boot_svn]
@[simp] theorem State.mcData_boot_svn (s : State) (m : McTarget) (off : Nat) (bs : List Byte) : (State.mcData s m off bs).boot.svn = s.boot.svn := by
  simp [State.mcData, apply_ite (fun s : State => s.boot.svn), foldl_boot_svn]
@[simp] theorem State.mcCommit_boot_svn (s : State) (src tag : Nat) : (State.mcCommit s src tag).boot.svn = s.boot.svn := by
  unfold State.mcCommit
  (repeat' split) <;> simp [apply_ite (fun s : State => s.boot.svn), foldl_boot_svn]
@[simp] theorem State.mcStart_boot_svn (s : State) (m : McSource) : (State.mcStart s m).boot.svn = s.boot.svn := by
  simp [State.mcStart, apply_ite (fun s : State => s.boot.svn), foldl_boot_svn]
@[simp] theorem State.mcSend_boot_svn (s : State) (node : Nat) (m : McSource) : (State.mcSend s node m).boot.svn = s.boot.svn := by
  simp [State.mcSend, apply_ite (fun s : State => s.boot.svn), foldl_boot_svn]
@[simp] theorem State.mcGrant_boot_svn (s : State) (target tag status : Nat) : (State.mcGrant s target tag status).boot.svn = s.boot.svn := by
  unfold State.mcGrant
  (repeat' split) <;> simp [apply_ite (fun s : State => s.boot.svn), foldl_boot_svn]
@[simp] theorem State.mcAck_boot_svn (s : State) (target tag : Nat) : (State.mcAck s target tag).boot.svn = s.boot.svn := by
  unfold State.mcAck
  (repeat' split) <;> simp [apply_ite (fun s : State => s.boot.svn), foldl_boot_svn]
@[simp] theorem State.mcStall_boot_svn (s : State) (tag : Nat) : (State.mcStall s tag).boot.svn = s.boot.svn := by
  unfold State.mcStall
  (repeat' split) <;> simp [apply_ite (fun s : State => s.boot.svn), foldl_boot_svn]
@[simp] theorem State.windowServe_boot_svn (s : State) (src vat tag dpa len : Nat) (data : Option (List Byte)) (bad : ReadErrs) : (State.windowServe s src vat tag dpa len data bad).boot.svn = s.boot.svn := by
  unfold State.windowServe
  (repeat' split) <;> simp [apply_ite (fun s : State => s.boot.svn), foldl_boot_svn]
@[simp] theorem State.windowAsk_boot_svn (s : State) (cls src vat tag dpa len : Nat) (data : Option (List Byte)) (bad : ReadErrs) : (State.windowAsk s cls src vat tag dpa len data bad).boot.svn = s.boot.svn := by
  simp [State.windowAsk]
@[simp] theorem State.windowAccess_boot_svn (s : State) (src : Nat) (write : Bool) (p : WheyPacket) (bad : ReadErrs) : (State.windowAccess s src write p bad).boot.svn = s.boot.svn := by
  unfold State.windowAccess
  dsimp only [-Nat.reducePow]
  (repeat' split) <;> simp [apply_ite (fun s : State => s.boot.svn), foldl_boot_svn]
@[simp] theorem State.preempt_boot_svn (s : State) (r : ArbReq) : (State.preempt s r).boot.svn = s.boot.svn := by
  unfold State.preempt
  (repeat' split) <;> simp [apply_ite (fun s : State => s.boot.svn), foldl_boot_svn]
@[simp] theorem State.wheyActivity_boot_svn (s : State) (a : Nat) (r : ArbReq) : (State.wheyActivity s a r).boot.svn = s.boot.svn := by
  unfold State.wheyActivity
  (repeat' split) <;> simp [apply_ite (fun s : State => s.boot.svn), foldl_boot_svn]
@[simp] theorem State.workActs_boot_svn (s : State) (w : ArbWork) : (State.workActs s w).boot.svn = s.boot.svn := by
  unfold State.workActs
  (repeat' split) <;> (try simp [apply_ite (fun s : State => s.boot.svn), foldl_boot_svn]) <;> (try (intros; (repeat' split) <;> simp [apply_ite (fun s : State => s.boot.svn), foldl_boot_svn]))
@[simp] theorem State.arbDecide_boot_svn (s : State) (a : Nat) : (State.arbDecide s a).boot.svn = s.boot.svn := by
  unfold State.arbDecide
  dsimp only [-Nat.reducePow]
  (repeat' split) <;> simp [apply_ite (fun s : State => s.boot.svn), foldl_boot_svn]
@[simp] theorem State.regQosCommit_boot_svn (s : State) (value : Nat) : (State.regQosCommit s value).boot.svn = s.boot.svn := by
  simp [State.regQosCommit, apply_ite (fun s : State => s.boot.svn), foldl_boot_svn]
@[simp] theorem State.regFuncCommit_boot_svn (s : State) (f value : Nat) : (State.regFuncCommit s f value).boot.svn = s.boot.svn := by
  simp [State.regFuncCommit, apply_ite (fun s : State => s.boot.svn), foldl_boot_svn]
@[simp] theorem State.countWaits_boot_svn (s : State) : (State.countWaits s).boot.svn = s.boot.svn := by
  simp [State.countWaits]
@[simp] theorem State.excuseTick_boot_svn (s : State) : (State.excuseTick s).boot.svn = s.boot.svn := by
  simp [State.excuseTick]
@[simp] theorem State.newTick_boot_svn (s : State) : (State.newTick s).boot.svn = s.boot.svn := by
  simp [State.newTick, apply_ite (fun s : State => s.boot.svn), foldl_boot_svn]
@[simp] theorem State.enterHoldover_boot_svn (s : State) (status : Nat) : (State.enterHoldover s status).boot.svn = s.boot.svn := by
  simp [State.enterHoldover]
@[simp] theorem State.tickEdge_boot_svn (s : State) (frame inTol : Bool) (stalls : List Stall) : (State.tickEdge s frame inTol stalls).boot.svn = s.boot.svn := by
  unfold State.tickEdge
  dsimp only [-Nat.reducePow]
  (repeat' split) <;> simp [apply_ite (fun s : State => s.boot.svn), foldl_boot_svn]
@[simp] theorem State.tickMissing_boot_svn (s : State) : (State.tickMissing s).boot.svn = s.boot.svn := by
  unfold State.tickMissing
  (repeat' split) <;> simp [apply_ite (fun s : State => s.boot.svn), foldl_boot_svn]
@[simp] theorem State.regLoadCommit_boot_svn (s : State) (value : Nat) : (State.regLoadCommit s value).boot.svn = s.boot.svn := by
  simp [State.regLoadCommit, apply_ite (fun s : State => s.boot.svn), foldl_boot_svn]
@[simp] theorem State.setCount_boot_svn (s : State) (v : Nat) : (State.setCount s v).boot.svn = s.boot.svn := by
  simp [State.setCount]
@[simp] theorem State.applyLoad_boot_svn (s : State) : (State.applyLoad s).boot.svn = s.boot.svn := by
  unfold State.applyLoad
  (repeat' split) <;> simp [apply_ite (fun s : State => s.boot.svn), foldl_boot_svn]
@[simp] theorem State.overrun_boot_svn (s : State) : (State.overrun s).boot.svn = s.boot.svn := by
  simp [State.overrun, apply_ite (fun s : State => s.boot.svn), foldl_boot_svn]
@[simp] theorem State.stretch_boot_svn (s : State) (cycle : Nat) : (State.stretch s cycle).boot.svn = s.boot.svn := by
  unfold State.stretch
  (repeat' split) <;> simp [apply_ite (fun s : State => s.boot.svn), foldl_boot_svn]
@[simp] theorem State.pllLocked_boot_svn (s : State) : (State.pllLocked s).boot.svn = s.boot.svn := by
  unfold State.pllLocked
  dsimp only [-Nat.reducePow]
  (repeat' split) <;> simp [apply_ite (fun s : State => s.boot.svn), foldl_boot_svn]
@[simp] theorem State.gearAck_boot_svn (s : State) (node gear seq : Nat) : (State.gearAck s node gear seq).boot.svn = s.boot.svn := by
  simp [State.gearAck, apply_ite (fun s : State => s.boot.svn), foldl_boot_svn]
@[simp] theorem State.gearChange_boot_svn (s : State) : (State.gearChange s).boot.svn = s.boot.svn := by
  simp [State.gearChange, apply_ite (fun s : State => s.boot.svn), foldl_boot_svn]
@[simp] theorem State.gearReq_boot_svn (s : State) (node arg : Nat) : (State.gearReq s node arg).boot.svn = s.boot.svn := by
  unfold State.gearReq
  dsimp only [-Nat.reducePow]
  (repeat' split) <;> simp [apply_ite (fun s : State => s.boot.svn), foldl_boot_svn]
@[simp] theorem State.tblLoad_boot_svn (s : State) (c : Nat) (w : OpWord) (f : UnitFault) : (State.tblLoad s c w f).boot.svn = s.boot.svn := by
  unfold State.tblLoad
  (repeat' split) <;> simp [apply_ite (fun s : State => s.boot.svn), foldl_boot_svn]
@[simp] theorem State.pressErrors_boot_svn (s : State) (vat c : Nat) (w : OpWord) (errs : List PressErr) : (State.pressErrors s vat c w errs).boot.svn = s.boot.svn := by
  unfold State.pressErrors
  dsimp only [-Nat.reducePow]
  (repeat' split) <;> simp [apply_ite (fun s : State => s.boot.svn), foldl_boot_svn]
@[simp] theorem State.decode_boot_svn (s : State) (c : Nat) (w : OpWord) (f : UnitFault) : (State.decode s c w f).boot.svn = s.boot.svn := by
  unfold State.decode
  (repeat' split) <;> simp [apply_ite (fun s : State => s.boot.svn), foldl_boot_svn]
@[simp] theorem State.onStack_boot_svn (s : State) (q : Nat) (f : StackRegs → StackRegs) : (State.onStack s q f).boot.svn = s.boot.svn := by
  simp [State.onStack]
@[simp] theorem State.scrubRead_boot_svn (s : State) (q ca : Nat) (e : Ecc) : (State.scrubRead s q ca e).boot.svn = s.boot.svn := by
  unfold State.scrubRead
  (repeat' split) <;> simp [apply_ite (fun s : State => s.boot.svn), foldl_boot_svn]
@[simp] theorem State.onCxlPort_boot_svn (s : State) (p : Nat) (f : CxlPort → CxlPort) : (State.onCxlPort s p f).boot.svn = s.boot.svn := by
  simp [State.onCxlPort]
@[simp] theorem State.onCxlDev_boot_svn (s : State) (k : Nat) (f : CxlDev → CxlDev) : (State.onCxlDev s k f).boot.svn = s.boot.svn := by
  simp [State.onCxlDev]
@[simp] theorem State.addExtent_boot_svn (s : State) (p d off bytes : Nat) : (State.addExtent s p d off bytes).boot.svn = s.boot.svn := by
  unfold State.addExtent
  (repeat' split) <;> simp [apply_ite (fun s : State => s.boot.svn), foldl_boot_svn]
@[simp] theorem State.loseCommands_boot_svn (s : State) (fr n : Nat) : (State.loseCommands s fr n).boot.svn = s.boot.svn := by
  simp [State.loseCommands, apply_ite (fun s : State => s.boot.svn), foldl_boot_svn]
@[simp] theorem State.loseSession_boot_svn (s : State) (vat fr n i : Nat) : (State.loseSession s vat fr n i).boot.svn = s.boot.svn := by
  unfold State.loseSession
  (repeat' split) <;> simp [apply_ite (fun s : State => s.boot.svn), foldl_boot_svn]
@[simp] theorem State.loseSessions_boot_svn (s : State) (fr n : Nat) : (State.loseSessions s fr n).boot.svn = s.boot.svn := by
  simp [State.loseSessions, apply_ite (fun s : State => s.boot.svn), foldl_boot_svn]
@[simp] theorem State.loseExtent_boot_svn (s : State) (e : Nat) : (State.loseExtent s e).boot.svn = s.boot.svn := by
  simp [State.loseExtent, apply_ite (fun s : State => s.boot.svn), foldl_boot_svn]
@[simp] theorem State.loseExtents_boot_svn (s : State) (p : Extent → Bool) : (State.loseExtents s p).boot.svn = s.boot.svn := by
  simp [State.loseExtents, apply_ite (fun s : State => s.boot.svn), foldl_boot_svn]
@[simp] theorem State.bootKeys_boot_svn (s : State) : (State.bootKeys s).boot.svn = s.boot.svn := by
  simp [State.bootKeys]
@[simp] theorem State.wipeKeys_boot_svn (s : State) : (State.wipeKeys s).boot.svn = s.boot.svn := by
  simp [State.wipeKeys]
@[simp] theorem State.kvAnswer_boot_svn (s : State) (status result : Nat) : (State.kvAnswer s status result).boot.svn = s.boot.svn := by
  simp [State.kvAnswer]
@[simp] theorem State.kvStart_boot_svn (s : State) (op : Nat) : (State.kvStart s op).boot.svn = s.boot.svn := by
  simp [State.kvStart, apply_ite (fun s : State => s.boot.svn), foldl_boot_svn]
@[simp] theorem State.reportFor_boot_svn (s : State) (sig : List Byte) : (State.reportFor s sig).boot.svn = s.boot.svn := by
  unfold State.reportFor
  (repeat' split) <;> simp [apply_ite (fun s : State => s.boot.svn), foldl_boot_svn]
@[simp] theorem State.fillVatSlots_boot_svn (s : State) (vat : Nat) (x : List Byte) : (State.fillVatSlots s vat x).boot.svn = s.boot.svn := by
  unfold State.fillVatSlots
  (repeat' split) <;> simp [apply_ite (fun s : State => s.boot.svn), foldl_boot_svn]
@[simp] theorem State.loadSeal_boot_svn (s : State) (b key : List Byte) : (State.loadSeal s b key).boot.svn = s.boot.svn := by
  unfold State.loadSeal
  (repeat' split) <;> simp [apply_ite (fun s : State => s.boot.svn), foldl_boot_svn]
@[simp] theorem State.applyCapsule_boot_svn (s : State) (b p : List Byte) : (State.applyCapsule s b p).boot.svn = s.boot.svn := by
  simp [State.applyCapsule, apply_ite (fun s : State => s.boot.svn), foldl_boot_svn]
@[simp] theorem State.abortSlot_boot_svn (s : State) (k : Nat) : (State.abortSlot s k).boot.svn = s.boot.svn := by
  simp [State.abortSlot, apply_ite (fun s : State => s.boot.svn), foldl_boot_svn]
@[simp] theorem State.patternFrame_boot_svn (s : State) (fr : Nat) : (State.patternFrame s fr).boot.svn = s.boot.svn := by
  simp [State.patternFrame]
@[simp] theorem State.washedVat_boot_svn (s : State) (vat : Nat) : (State.washedVat s vat).boot.svn = s.boot.svn := by
  unfold State.washedVat
  dsimp only [-Nat.reducePow]
  (repeat' split) <;> simp [apply_ite (fun s : State => s.boot.svn), foldl_boot_svn]
@[simp] theorem State.washDone_boot_svn (s : State) (w : Nat) (x : Wash) : (State.washDone s w x).boot.svn = s.boot.svn := by
  unfold State.washDone
  (repeat' split) <;> simp [apply_ite (fun s : State => s.boot.svn), foldl_boot_svn]
@[simp] theorem State.dump_boot_svn (s : State) (cause kind index tick : Nat) (cut : Bool) : (State.dump s cause kind index tick cut).boot.svn = s.boot.svn := by
  simp [State.dump, apply_ite (fun s : State => s.boot.svn), foldl_boot_svn]
@[simp] theorem State.repair_boot_svn (s : State) : (State.repair s).boot.svn = s.boot.svn := by
  unfold State.repair
  (repeat' split) <;> simp [apply_ite (fun s : State => s.boot.svn), foldl_boot_svn]
@[simp] theorem State.release_boot_svn (s : State) : (State.release s).boot.svn = s.boot.svn := by
  simp [State.release, apply_ite (fun s : State => s.boot.svn), foldl_boot_svn]
@[simp] theorem State.loseObjects_boot_svn (s : State) (q : Nat) : (State.loseObjects s q).boot.svn = s.boot.svn := by
  simp [State.loseObjects]
@[simp] theorem State.giveUp_boot_svn (s : State) (p : Cmd → Bool) : (State.giveUp s p).boot.svn = s.boot.svn := by
  simp [State.giveUp, apply_ite (fun s : State => s.boot.svn), foldl_boot_svn]
@[simp] theorem State.fenceEffect_boot_svn (s : State) (kind index : Nat) : (State.fenceEffect s kind index).boot.svn = s.boot.svn := by
  simp [State.fenceEffect, apply_ite (fun s : State => s.boot.svn), foldl_boot_svn]
@[simp] theorem State.onReset_boot_svn (s : State) (kind index : Nat) (f : DomReset → DomReset) : (State.onReset s kind index f).boot.svn = s.boot.svn := by
  simp [State.onReset]
@[simp] theorem State.emptyArb_boot_svn (s : State) (a : Nat) : (State.emptyArb s a).boot.svn = s.boot.svn := by
  simp [State.emptyArb, apply_ite (fun s : State => s.boot.svn), foldl_boot_svn]
@[simp] theorem State.drain_boot_svn (s : State) (kind index : Nat) : (State.drain s kind index).boot.svn = s.boot.svn := by
  simp [State.drain, apply_ite (fun s : State => s.boot.svn), foldl_boot_svn]
@[simp] theorem State.clearStack_boot_svn (s : State) (q : Nat) : (State.clearStack s q).boot.svn = s.boot.svn := by
  simp [State.clearStack]
@[simp] theorem State.resetDomain_boot_svn (s : State) (kind index : Nat) : (State.resetDomain s kind index).boot.svn = s.boot.svn := by
  unfold State.resetDomain
  (repeat' split) <;> simp [apply_ite (fun s : State => s.boot.svn), foldl_boot_svn]
@[simp] theorem State.hostBack_boot_svn (s : State) : (State.hostBack s).boot.svn = s.boot.svn := by
  unfold State.hostBack
  exact (State.writeBatches_boot_svn _ _).trans ((foldl_boot_svn (fun t f => State.sendPending_boot_svn _ _) _ _).trans (State.postHeld_boot_svn _))
@[simp] theorem State.finishReset_boot_svn (s : State) (r : DomReset) : (State.finishReset s r).boot.svn = s.boot.svn := by
  unfold State.finishReset
  extract_lets t t1 t2
  have h : t.boot.svn = s.boot.svn := by
    simp only [t]
    split
    · exact State.dump_boot_svn ..
    · rfl
  have h2 : t2.boot.svn = s.boot.svn := (State.onFlt_boot_svn _ _).trans ((State.resetDomain_boot_svn _ _ _).trans h)
  split
  · exact (State.hostBack_boot_svn _).trans h2
  · exact h2
@[simp] theorem State.routerFault_boot_svn (s : State) (r : Nat) : (State.routerFault s r).boot.svn = s.boot.svn := by
  simp [State.routerFault, apply_ite (fun s : State => s.boot.svn), foldl_boot_svn]
@[simp] theorem State.putCal_boot_svn (s : State) (r : CalRec) : (State.putCal s r).boot.svn = s.boot.svn := by
  simp [State.putCal]
@[simp] theorem State.creditCtx_boot_svn (s : State) (c : Nat) (e : Frac) : (State.creditCtx s c e).boot.svn = s.boot.svn := by
  simp [State.creditCtx]
@[simp] theorem State.creditVat_boot_svn (s : State) (v : Vat) (r : StepRun) (e : Frac) : (State.creditVat s v r e).boot.svn = s.boot.svn := by
  simp [State.creditVat, apply_ite (fun s : State => s.boot.svn), foldl_boot_svn]
@[simp] theorem State.attributeEnergy_boot_svn (s : State) (r : CalRec) (total dyn : Frac) : (State.attributeEnergy s r total dyn).boot.svn = s.boot.svn := by
  simp [State.attributeEnergy, apply_ite (fun s : State => s.boot.svn), foldl_boot_svn]
@[simp] theorem State.guard_boot_svn (s : State) (cls tag : Nat) : (State.guard s cls tag).boot.svn = s.boot.svn := by
  simp [State.guard, apply_ite (fun s : State => s.boot.svn), foldl_boot_svn]
@[simp] theorem State.estimate_boot_svn (s : State) (counts : List Nat) : (State.estimate s counts).boot.svn = s.boot.svn := by
  simp [State.estimate]
@[simp] theorem State.clearTrim_boot_svn (s : State) (g : Nat) : (State.clearTrim s g).boot.svn = s.boot.svn := by
  simp [State.clearTrim, apply_ite (fun s : State => s.boot.svn), foldl_boot_svn]
@[simp] theorem State.sendRest_boot_svn (s : State) : (State.sendRest s).boot.svn = s.boot.svn := by
  simp [State.sendRest, apply_ite (fun s : State => s.boot.svn), foldl_boot_svn]
@[simp] theorem State.askGear_boot_svn (s : State) (m : GearMsg) : (State.askGear s m).boot.svn = s.boot.svn := by
  simp [State.askGear, apply_ite (fun s : State => s.boot.svn), foldl_boot_svn]
@[simp] theorem State.updateGear_boot_svn (s : State) : (State.updateGear s).boot.svn = s.boot.svn := by
  unfold State.updateGear
  (repeat' split) <;> simp [apply_ite (fun s : State => s.boot.svn), foldl_boot_svn]
@[simp] theorem State.setTherm_boot_svn (s : State) (k : Nat) : (State.setTherm s k).boot.svn = s.boot.svn := by
  simp [State.setTherm]
@[simp] theorem State.capUpdate_boot_svn (s : State) : (State.capUpdate s).boot.svn = s.boot.svn := by
  unfold State.capUpdate
  dsimp only [-Nat.reducePow]
  (repeat' split) <;> simp [apply_ite (fun s : State => s.boot.svn), foldl_boot_svn]
@[simp] theorem State.enterHot_boot_svn (s : State) : (State.enterHot s).boot.svn = s.boot.svn := by
  simp [State.enterHot]
@[simp] theorem State.tenantWindow_boot_svn (s : State) : (State.tenantWindow s).boot.svn = s.boot.svn := by
  simp [State.tenantWindow]
@[simp] theorem State.regPwrCommit_boot_svn (s : State) (value : Nat) : (State.regPwrCommit s value).boot.svn = s.boot.svn := by
  simp [State.regPwrCommit, apply_ite (fun s : State => s.boot.svn), foldl_boot_svn]
@[simp] theorem State.enterCellar_boot_svn (s : State) : (State.enterCellar s).boot.svn = s.boot.svn := by
  simp [State.enterCellar, apply_ite (fun s : State => s.boot.svn), foldl_boot_svn]
@[simp] theorem State.regCellarReq_boot_svn (s : State) (value : Nat) : (State.regCellarReq s value).boot.svn = s.boot.svn := by
  simp [State.regCellarReq, apply_ite (fun s : State => s.boot.svn), foldl_boot_svn]
@[simp] theorem State.wake_boot_svn (s : State) : (State.wake s).boot.svn = s.boot.svn := by
  simp [State.wake, apply_ite (fun s : State => s.boot.svn), foldl_boot_svn]
@[simp] theorem State.regCellarExit_boot_svn (s : State) (value : Nat) : (State.regCellarExit s value).boot.svn = s.boot.svn := by
  simp [State.regCellarExit, apply_ite (fun s : State => s.boot.svn), foldl_boot_svn]
@[simp] theorem State.bootFail_boot_svn (s : State) (e : Nat) : (State.bootFail s e).boot.svn = s.boot.svn := by
  simp [State.bootFail]
@[simp] theorem State.toStage_boot_svn (s : State) (k : Nat) : (State.toStage s k).boot.svn = s.boot.svn := by
  simp [State.toStage]
@[simp] theorem State.bootJournals_boot_svn (s : State) (lost : List Nat) : (State.bootJournals s lost).boot.svn = s.boot.svn := by
  simp [State.bootJournals, apply_ite (fun s : State => s.boot.svn), foldl_boot_svn]
@[simp] theorem State.stage1_boot_svn (s : State) (r : StageResult) : (State.stage1 s r).boot.svn = s.boot.svn := by
  simp [State.stage1, apply_ite (fun s : State => s.boot.svn), foldl_boot_svn]
@[simp] theorem State.stage4_boot_svn (s : State) (r : StageResult) : (State.stage4 s r).boot.svn = s.boot.svn := by
  simp [State.stage4, apply_ite (fun s : State => s.boot.svn), foldl_boot_svn]
@[simp] theorem State.awaitAgain_boot_svn (s : State) (e : Nat) : (State.awaitAgain s e).boot.svn = s.boot.svn := by
  simp [State.awaitAgain]
@[simp] theorem State.regStarterGo_boot_svn (s : State) (value : Nat) : (State.regStarterGo s value).boot.svn = s.boot.svn := by
  simp [State.regStarterGo, apply_ite (fun s : State => s.boot.svn), foldl_boot_svn]
@[simp] theorem State.loadStored_boot_svn (s : State) : (State.loadStored s).boot.svn = s.boot.svn := by
  rw [State.loadStored]
  (repeat' split) <;> (try simp [apply_ite (fun s : State => s.boot.svn), foldl_boot_svn]) <;> (try (rw [foldl_boot_svn] <;> (try (intro t a; (repeat' split) <;> simp [apply_ite (fun s : State => s.boot.svn), foldl_boot_svn]))))
@[simp] theorem State.bootUnits_boot_svn (s : State) : (State.bootUnits s).boot.svn = s.boot.svn := by
  simp [State.bootUnits, apply_ite (fun s : State => s.boot.svn), foldl_boot_svn]
@[simp] theorem State.placeImage_boot_svn (s : State) (body : List Byte) : (State.placeImage s body).boot.svn = s.boot.svn := by
  simp [State.placeImage]
@[simp] theorem State.bringUp_boot_svn (s : State) (b body : List Byte) : (State.bringUp s b body).boot.svn = s.boot.svn := by
  simp [State.bringUp, apply_ite (fun s : State => s.boot.svn), foldl_boot_svn]
@[simp] theorem State.openAdmin_boot_svn (s : State) : (State.openAdmin s).boot.svn = s.boot.svn := by
  simp [State.openAdmin]
@[simp] theorem State.regSvnCommit_boot_svn (s : State) (value : Nat) : (State.regSvnCommit s value).boot.svn = s.boot.svn := by
  simp [State.regSvnCommit, apply_ite (fun s : State => s.boot.svn), foldl_boot_svn]
@[simp] theorem State.compact_boot_svn (s : State) (l : List JData) : (State.compact s l).boot.svn = s.boot.svn := by
  simp [State.compact, apply_ite (fun s : State => s.boot.svn), foldl_boot_svn]
@[simp] theorem State.vfReset_boot_svn (s : State) (f : Nat) : (State.vfReset s f).boot.svn = s.boot.svn := by
  simp [State.vfReset, apply_ite (fun s : State => s.boot.svn), foldl_boot_svn]
@[simp] theorem State.setMask_boot_svn (s : State) (f v : Nat) (m : Bool) : (State.setMask s f v m).boot.svn = s.boot.svn := by
  simp [State.setMask]
@[simp] theorem State.regMsixUnmask_boot_svn (s : State) (f vector : Nat) : (State.regMsixUnmask s f vector).boot.svn = s.boot.svn := by
  simp [State.regMsixUnmask, apply_ite (fun s : State => s.boot.svn), foldl_boot_svn]
@[simp] theorem State.dropDevices_boot_svn (s : State) (p : Nat) : (State.dropDevices s p).boot.svn = s.boot.svn := by
  simp [State.dropDevices, apply_ite (fun s : State => s.boot.svn), foldl_boot_svn]
@[simp] theorem State.portEnable_boot_svn (s : State) (p : Nat) (on : Bool) : (State.portEnable s p on).boot.svn = s.boot.svn := by
  simp [State.portEnable, apply_ite (fun s : State => s.boot.svn), foldl_boot_svn]
@[simp] theorem State.regPortEnable_boot_svn (s : State) (port value : Nat) : (State.regPortEnable s port value).boot.svn = s.boot.svn := by
  simp [State.regPortEnable, apply_ite (fun s : State => s.boot.svn), foldl_boot_svn]
@[simp] theorem State.setPool_boot_svn (s : State) (p d v : Nat) : (State.setPool s p d v).boot.svn = s.boot.svn := by
  simp [State.setPool, apply_ite (fun s : State => s.boot.svn), foldl_boot_svn]
@[simp] theorem State.regPoolId_boot_svn (s : State) (port dev value : Nat) : (State.regPoolId s port dev value).boot.svn = s.boot.svn := by
  simp [State.regPoolId, apply_ite (fun s : State => s.boot.svn), foldl_boot_svn]
@[simp] theorem State.addDevice_boot_svn (s : State) (p : Nat) (d : Nat × Nat × Nat × Nat) : (State.addDevice s p d).boot.svn = s.boot.svn := by
  simp [State.addDevice, apply_ite (fun s : State => s.boot.svn), foldl_boot_svn]
@[simp] theorem State.clearPort_boot_svn (s : State) (k o : Nat) : (State.clearPort s k o).boot.svn = s.boot.svn := by
  simp [State.clearPort]
@[simp] theorem State.clearTick_boot_svn (s : State) (o : Nat) : (State.clearTick s o).boot.svn = s.boot.svn := by
  simp [State.clearTick]
@[simp] theorem State.clearCore_boot_svn (s : State) (o : Nat) : (State.clearCore s o).boot.svn = s.boot.svn := by
  simp [State.clearCore, apply_ite (fun s : State => s.boot.svn), foldl_boot_svn]
@[simp] theorem State.clearLink_boot_svn (s : State) (o : Nat) : (State.clearLink s o).boot.svn = s.boot.svn := by
  simp [State.clearLink, apply_ite (fun s : State => s.boot.svn), foldl_boot_svn]
@[simp] theorem State.clearMem_boot_svn (s : State) (o : Nat) : (State.clearMem s o).boot.svn = s.boot.svn := by
  simp [State.clearMem, apply_ite (fun s : State => s.boot.svn), foldl_boot_svn]
@[simp] theorem State.clearCtx_boot_svn (s : State) (o : Nat) : (State.clearCtx s o).boot.svn = s.boot.svn := by
  simp [State.clearCtx, apply_ite (fun s : State => s.boot.svn), foldl_boot_svn]
@[simp] theorem State.clearQos_boot_svn (s : State) (o : Nat) : (State.clearQos s o).boot.svn = s.boot.svn := by
  simp [State.clearQos, apply_ite (fun s : State => s.boot.svn), foldl_boot_svn]
@[simp] theorem State.clearCc_boot_svn (s : State) (o : Nat) : (State.clearCc s o).boot.svn = s.boot.svn := by
  simp [State.clearCc, apply_ite (fun s : State => s.boot.svn), foldl_boot_svn]
@[simp] theorem State.clearKey_boot_svn (s : State) (o : Nat) : (State.clearKey s o).boot.svn = s.boot.svn := by
  simp [State.clearKey]
@[simp] theorem State.clearFlt_boot_svn (s : State) (o : Nat) : (State.clearFlt s o).boot.svn = s.boot.svn := by
  simp [State.clearFlt]
@[simp] theorem State.clearHp_boot_svn (s : State) (o : Nat) : (State.clearHp s o).boot.svn = s.boot.svn := by
  simp [State.clearHp]
@[simp] theorem State.clearCxl_boot_svn (s : State) (o : Nat) : (State.clearCxl s o).boot.svn = s.boot.svn := by
  simp [State.clearCxl, apply_ite (fun s : State => s.boot.svn), foldl_boot_svn]
@[simp] theorem State.rcClear_boot_svn (s : State) (o : Nat) : (State.rcClear s o).boot.svn = s.boot.svn := by
  simp [State.rcClear, apply_ite (fun s : State => s.boot.svn), foldl_boot_svn]
@[simp] theorem State.answer_boot_svn (s : State) (v : Nat) : (State.answer s v).boot.svn = s.boot.svn := by
  simp [State.answer]
@[simp] theorem State.read4_boot_svn (s : State) (f o key : Nat) : (State.read4 s f o key).boot.svn = s.boot.svn := by
  unfold State.read4
  (repeat' split) <;> simp [apply_ite (fun s : State => s.boot.svn), foldl_boot_svn]
@[simp] theorem State.read8_boot_svn (s : State) (f o : Nat) : (State.read8 s f o).boot.svn = s.boot.svn := by
  simp [State.read8, apply_ite (fun s : State => s.boot.svn), foldl_boot_svn]
@[simp] theorem State.barRead_boot_svn (s : State) (f o key size : Nat) : (State.barRead s f o key size).boot.svn = s.boot.svn := by
  simp [State.barRead, apply_ite (fun s : State => s.boot.svn), foldl_boot_svn]
@[simp] theorem State.writeTick_boot_svn (s : State) (o v : Nat) : (State.writeTick s o v).boot.svn = s.boot.svn := by
  simp [State.writeTick, apply_ite (fun s : State => s.boot.svn), foldl_boot_svn]
@[simp] theorem State.writeWin_boot_svn (s : State) (n o v : Nat) : (State.writeWin s n o v).boot.svn = s.boot.svn := by
  unfold State.writeWin
  (repeat' split) <;> (try simp [apply_ite (fun s : State => s.boot.svn), foldl_boot_svn]) <;> (try (intros; (repeat' split) <;> simp [apply_ite (fun s : State => s.boot.svn), foldl_boot_svn]))
@[simp] theorem State.writeLink_boot_svn (s : State) (o v : Nat) : (State.writeLink s o v).boot.svn = s.boot.svn := by
  unfold State.writeLink
  (repeat' split) <;> (try simp [apply_ite (fun s : State => s.boot.svn), foldl_boot_svn]) <;> (try (intros; (repeat' split) <;> simp [apply_ite (fun s : State => s.boot.svn), foldl_boot_svn]))
@[simp] theorem State.writeMem_boot_svn (s : State) (o v : Nat) : (State.writeMem s o v).boot.svn = s.boot.svn := by
  simp [State.writeMem, apply_ite (fun s : State => s.boot.svn), foldl_boot_svn]
@[simp] theorem State.writeAdminEnable_boot_svn (s : State) (on : Bool) : (State.writeAdminEnable s on).boot.svn = s.boot.svn := by
  simp [State.writeAdminEnable, apply_ite (fun s : State => s.boot.svn), foldl_boot_svn]
@[simp] theorem State.writeQueueError_boot_svn (s : State) (c v : Nat) : (State.writeQueueError s c v).boot.svn = s.boot.svn := by
  simp [State.writeQueueError]
@[simp] theorem State.writeCtx_boot_svn (s : State) (o v : Nat) : (State.writeCtx s o v).boot.svn = s.boot.svn := by
  simp [State.writeCtx, apply_ite (fun s : State => s.boot.svn), foldl_boot_svn]
@[simp] theorem State.writeDoor_boot_svn (s : State) (n o v : Nat) : (State.writeDoor s n o v).boot.svn = s.boot.svn := by
  simp [State.writeDoor, apply_ite (fun s : State => s.boot.svn), foldl_boot_svn]
@[simp] theorem State.onQosShadow_boot_svn (s : State) (f : QosCfg → QosCfg) : (State.onQosShadow s f).boot.svn = s.boot.svn := by
  simp [State.onQosShadow]
@[simp] theorem State.writeFunc_boot_svn (s : State) (f o v : Nat) : (State.writeFunc s f o v).boot.svn = s.boot.svn := by
  unfold State.writeFunc
  (repeat' split) <;> (try simp [apply_ite (fun s : State => s.boot.svn), foldl_boot_svn]) <;> (try (intros; (repeat' split) <;> simp [apply_ite (fun s : State => s.boot.svn), foldl_boot_svn]))
@[simp] theorem State.writeQosGlobal_boot_svn (s : State) (o v : Nat) : (State.writeQosGlobal s o v).boot.svn = s.boot.svn := by
  simp [State.writeQosGlobal, apply_ite (fun s : State => s.boot.svn), foldl_boot_svn]
@[simp] theorem State.writeQos_boot_svn (s : State) (o v : Nat) : (State.writeQos s o v).boot.svn = s.boot.svn := by
  unfold State.writeQos
  (repeat' split) <;> (try simp [apply_ite (fun s : State => s.boot.svn), foldl_boot_svn]) <;> (try (intros; (repeat' split) <;> simp [apply_ite (fun s : State => s.boot.svn), foldl_boot_svn]))
@[simp] theorem State.writeKey_boot_svn (s : State) (o v : Nat) : (State.writeKey s o v).boot.svn = s.boot.svn := by
  simp [State.writeKey, apply_ite (fun s : State => s.boot.svn), foldl_boot_svn]
@[simp] theorem State.onPwrShadow_boot_svn (s : State) (f : PwrCfg → PwrCfg) : (State.onPwrShadow s f).boot.svn = s.boot.svn := by
  simp [State.onPwrShadow]
@[simp] theorem State.writePwr_boot_svn (s : State) (o v : Nat) : (State.writePwr s o v).boot.svn = s.boot.svn := by
  simp [State.writePwr, apply_ite (fun s : State => s.boot.svn), foldl_boot_svn]
@[simp] theorem State.writeCap_boot_svn (s : State) (o v : Nat) : (State.writeCap s o v).boot.svn = s.boot.svn := by
  simp [State.writeCap, apply_ite (fun s : State => s.boot.svn), foldl_boot_svn]
@[simp] theorem State.writeCxl_boot_svn (s : State) (o v : Nat) : (State.writeCxl s o v).boot.svn = s.boot.svn := by
  simp [State.writeCxl, apply_ite (fun s : State => s.boot.svn), foldl_boot_svn]
@[simp] theorem State.writeVector_boot_svn (s : State) (f n o v : Nat) : (State.writeVector s f n o v).boot.svn = s.boot.svn := by
  simp [State.writeVector, apply_ite (fun s : State => s.boot.svn), foldl_boot_svn]
@[simp] theorem State.vfWrite_boot_svn (s : State) (f o v : Nat) : (State.vfWrite s f o v).boot.svn = s.boot.svn := by
  unfold State.vfWrite
  (repeat' split) <;> simp [apply_ite (fun s : State => s.boot.svn), foldl_boot_svn]
@[simp] theorem State.resetRelease_boot_svn (s : State) (sbAddr : Nat) : (State.resetRelease s sbAddr).boot.svn = s.boot.svn := by
  simp [State.resetRelease, apply_ite (fun s : State => s.boot.svn), foldl_boot_svn]
@[simp] theorem State.tckEdge_boot_svn (s : State) (tms tdi trstN : Bool) : (State.tckEdge s tms tdi trstN).boot.svn = s.boot.svn := by
  simp [State.tckEdge, apply_ite (fun s : State => s.boot.svn), foldl_boot_svn]
@[simp] theorem State.sideAnswer_boot_svn (s : State) (msg half result : Nat) (nums : List Nat) (body : List Byte) : (State.sideAnswer s msg half result nums body).boot.svn = s.boot.svn := by
  simp [State.sideAnswer]
@[simp] theorem State.mctp_boot_svn (s : State) (command data : Nat) : (State.mctp s command data).boot.svn = s.boot.svn := by
  simp [State.mctp, apply_ite (fun s : State => s.boot.svn), foldl_boot_svn]
@[simp] theorem State.sideEarly_boot_svn (s : State) (msg format half rsv : Nat) (f : State → State) (hf : ∀ y0, (f y0).boot.svn = y0.boot.svn) : (State.sideEarly s msg format half rsv f).boot.svn = s.boot.svn := by
  simp [State.sideEarly, apply_ite (fun s : State => s.boot.svn), foldl_boot_svn, hf]
@[simp] theorem State.sideLate_boot_svn (s : State) (msg format half rsv : Nat) (f : State → State) (hf : ∀ y0, (f y0).boot.svn = y0.boot.svn) : (State.sideLate s msg format half rsv f).boot.svn = s.boot.svn := by
  simp [State.sideLate, apply_ite (fun s : State => s.boot.svn), foldl_boot_svn, hf]
end Sys2Proof.Machine
end

