-- ==== Sys2Proof/Laws/Crypto.lean ====
section
/-! SUPPORT. The lengths of what the algorithms give, and the fields of byte strings put together from parts. -/

namespace Sys2Proof.Machine

@[simp] theorem leBytes_length (n v : Nat) : (leBytes n v).length = n := by
  induction n generalizing v with
  | zero => rfl
  | succ n ih => simp [leBytes, ih]

@[simp] theorem zeros_length (n : Nat) : (zeros n).length = n := List.length_replicate

/-- A field that lies in the first part of a byte string is that part's. -/
theorem field_append_left (a b : List Byte) (off n : Nat) (h : off + n ≤ a.length) : field (a ++ b) off n = field a off n := by
  unfold field
  rw [List.drop_append_of_le_length (by omega), List.take_append_of_le_length (by simp; omega)]

/-- A field that lies past the first part of a byte string is of the rest. -/
theorem field_append_right (a b : List Byte) (off n : Nat) (h : a.length ≤ off) : field (a ++ b) off n = field b (off - a.length) n := by
  unfold field
  rw [List.drop_append, List.drop_eq_nil_of_le h, List.nil_append]

theorem keccakRound_length (s : List (BitVec 64)) (rc : BitVec 64) : (keccakRound s rc).length = 25 := by
  unfold keccakRound
  extract_lets c d t b a
  have h : a.length = 25 := by simp [a]
  generalize a = x at h
  cases x with
  | nil => simp at h
  | cons l ls => simpa using h

theorem keccakF_length (s : List (BitVec 64)) : (keccakF s).length = 25 := by
  have h : ∀ (l : List (BitVec 64)) (s : List (BitVec 64)), s.length = 25 → (l.foldl keccakRound s).length = 25 := by
    intro l
    induction l with
    | nil => intro s hs; exact hs
    | cons r l ih => intro s _; exact ih _ (keccakRound_length s r)
  have e : keccakF s = (keccakRc.tail).foldl keccakRound (keccakRound s (nth 0 keccakRc 0)) := rfl
  rw [e]
  exact h _ _ (keccakRound_length _ _)

theorem keccakOut_length (s : List (BitVec 64)) (h : s.length = 25) : (keccakOut s).length = 136 := by
  have hl : ∀ l : List (BitVec 64), (l.flatMap fun x => leBytes 8 x.toNat).length = 8 * l.length := by
    intro l
    induction l with
    | nil => rfl
    | cons x l ih => simp only [List.flatMap_cons, List.length_append, leBytes_length, ih, List.length_cons]; omega
  rw [keccakOut, hl, List.length_take, h]
  rfl

theorem shakeSqueeze_length (k : Nat) (s : List (BitVec 64)) (h : s.length = 25) : (shakeSqueeze k s).length = 136 * k := by
  induction k generalizing s with
  | zero => rfl
  | succ k ih => rw [shakeSqueeze, List.length_append, keccakOut_length s h, ih _ (keccakF_length s)]; omega

/-- SHAKE256 gives as many bytes as it is asked for. -/
@[simp] theorem shake256_length (m : List Byte) (n : Nat) : (shake256 m n).length = n := by
  have h : ∀ (l : List (List Byte)) (s : List (BitVec 64)), s.length = 25 →
      (l.foldl (fun s b => keccakF (keccakAbsorb s b)) s).length = 25 := by
    intro l
    induction l with
    | nil => intro s hs; exact hs
    | cons b l ih => intro s _; exact ih _ (keccakF_length _)
  unfold shake256
  extract_lets p s
  have hs : s.length = 25 := h _ _ (List.length_replicate ..)
  rw [List.length_take, shakeSqueeze_length _ _ hs]
  unfold ceilDiv
  omega

@[simp] theorem derive_length (k : List Byte) (label : String) (ctx : List Byte) (n : Nat) : (derive k label ctx n).length = n :=
  shake256_length _ _

end Sys2Proof.Machine
end

