-- ==== Sys2Proof/Laws/Fuses.lean ====
section
/-! SUPPORT. The fuse bank after each operation that burns none: what it was. The operations left out reach the repair of R454, a lifecycle
transition or `SVN_COMMIT`. -/

namespace Sys2Proof.Machine
open Sys2Proof
set_option linter.all false

theorem foldl_fuses {α : Type} {g : State → α → State} (h : ∀ t a, (g t a).fuses = t.fuses) (l : List α) (s : State) : (l.foldl g s).fuses = s.fuses := by
  induction l generalizing s with
  | nil => rfl
  | cons a l ih => simp [ih, h]

@[simp] theorem State.hostTraffic_fuses (s : State) (write : Bool) (n : Nat) : (State.hostTraffic s write n).fuses = s.fuses := by
  simp [State.hostTraffic]
@[simp] theorem State.traffic_fuses (s : State) (cls : Nat) (write : Bool) (a n : Nat) : (State.traffic s cls write a n).fuses = s.fuses := by
  simp [State.traffic]
@[simp] theorem State.note_fuses (s : State) (src : Nat) (what : String) (arg : Nat) : (State.note s src what arg).fuses = s.fuses := by
  simp [State.note]
@[simp] theorem State.send_fuses (s : State) (kind : String) (dest : Nat) (args : List Nat) (body : List Byte) : (State.send s kind dest args body).fuses = s.fuses := by
  simp [State.send]
@[simp] theorem State.onFunc_fuses (s : State) (f : Nat) (g : Func → Func) : (State.onFunc s f g).fuses = s.fuses := by
  simp [State.onFunc]
@[simp] theorem State.hostTrained_fuses (s : State) (inService : Bool) : (State.hostTrained s inService).fuses = s.fuses := by
  simp [State.hostTrained]
@[simp] theorem State.raise_fuses (s : State) (f v : Nat) : (State.raise s f v).fuses = s.fuses := by
  simp [State.raise, apply_ite State.fuses, foldl_fuses]
@[simp] theorem State.sendPending_fuses (s : State) (f : Nat) : (State.sendPending s f).fuses = s.fuses := by
  simp [State.sendPending, apply_ite State.fuses, foldl_fuses]
@[simp] theorem State.draw_fuses (s : State) (n : Nat) : (State.draw s n).fuses = s.fuses := by
  simp [State.draw]
@[simp] theorem State.hostWrite_fuses (s : State) (a : Nat) (bs : List Byte) : (State.hostWrite s a bs).fuses = s.fuses := by
  simp [State.hostWrite]
@[simp] theorem State.hostPut_fuses (s : State) (a : Nat) (bs : List Byte) : (State.hostPut s a bs).fuses = s.fuses := by
  simp [State.hostPut]
@[simp] theorem State.hostPost_fuses (s : State) (f a : Nat) (bs : List Byte) : (State.hostPost s f a bs).fuses = s.fuses := by
  simp [State.hostPost, apply_ite State.fuses, foldl_fuses]
@[simp] theorem State.postHeld_fuses (s : State) : (State.postHeld s).fuses = s.fuses := by
  simp [State.postHeld, apply_ite State.fuses, foldl_fuses]
@[simp] theorem State.dpaWrite_fuses (s : State) (key : List Byte) (a : Nat) (bs : List Byte) : (State.dpaWrite s key a bs).fuses = s.fuses := by
  simp [State.dpaWrite]
@[simp] theorem State.onCplx_fuses (s : State) (k : Nat) (f : Cplx → Cplx) : (State.onCplx s k f).fuses = s.fuses := by
  simp [State.onCplx]
@[simp] theorem State.bothHalves_fuses (s : State) : (State.bothHalves s).fuses = s.fuses := by
  simp [State.bothHalves]
@[simp] theorem State.journalAdd_fuses (s : State) (d : JData) : (State.journalAdd s d).fuses = s.fuses := by
  simp [State.journalAdd, apply_ite State.fuses, foldl_fuses]
@[simp] theorem State.faultLog_fuses (s : State) (vat : Nat) (r : List Byte) : (State.faultLog s vat r).fuses = s.fuses := by
  unfold State.faultLog
  (repeat' split) <;> simp [apply_ite State.fuses, foldl_fuses]
@[simp] theorem State.wheyUse_fuses (s : State) (ctx slots accesses : Nat) : (State.wheyUse s ctx slots accesses).fuses = s.fuses := by
  simp [State.wheyUse]
@[simp] theorem State.pieceActivity_fuses (s : State) (ctx : Nat) (ps : Pieces) : (State.pieceActivity s ctx ps).fuses = s.fuses := by
  simp [State.pieceActivity]
@[simp] theorem State.onVat_fuses (s : State) (v : Nat) (f : Vat → Vat) : (State.onVat s v f).fuses = s.fuses := by
  simp [State.onVat]
@[simp] theorem State.onRole_fuses (s : State) (v : Nat) (f : VatRole → VatRole) : (State.onRole s v f).fuses = s.fuses := by
  simp [State.onRole]
@[simp] theorem State.onCore_fuses (s : State) (c : Nat) (f : Core → Core) : (State.onCore s c f).fuses = s.fuses := by
  simp [State.onCore]
@[simp] theorem State.onRouter_fuses (s : State) (r : Nat) (f : Router → Router) : (State.onRouter s r f).fuses = s.fuses := by
  simp [State.onRouter]
@[simp] theorem State.onPort_fuses (s : State) (k : Nat) (f : Port → Port) : (State.onPort s k f).fuses = s.fuses := by
  simp [State.onPort]
@[simp] theorem State.sendWhey_fuses (s : State) (cls : Nat) (kind : String) (dest : Nat) (args : List Nat) (body : List Byte) : (State.sendWhey s cls kind dest args body).fuses = s.fuses := by
  simp [State.sendWhey, apply_ite State.fuses, foldl_fuses]
@[simp] theorem State.sendControl_fuses (s : State) (node msg vat : Nat) (bytes : List Byte) : (State.sendControl s node msg vat bytes).fuses = s.fuses := by
  simp [State.sendControl, apply_ite State.fuses, foldl_fuses]
@[simp] theorem State.settleCores_fuses (s : State) : (State.settleCores s).fuses = s.fuses := by
  unfold State.settleCores
  (repeat' split) <;> (try simp [apply_ite State.fuses, foldl_fuses]) <;> (try (intros; (repeat' split) <;> simp [apply_ite State.fuses, foldl_fuses]))
@[simp] theorem State.failStep_fuses (s : State) (vat : Nat) (c : Cause) : (State.failStep s vat c).fuses = s.fuses := by
  simp [State.failStep]
@[simp] theorem State.degradeStep_fuses (s : State) (vat : Nat) : (State.degradeStep s vat).fuses = s.fuses := by
  simp [State.degradeStep]
@[simp] theorem State.failAll_fuses (s : State) (status src : Nat) : (State.failAll s status src).fuses = s.fuses := by
  simp [State.failAll, apply_ite State.fuses, foldl_fuses]
@[simp] theorem State.onCtx_fuses (s : State) (c : Nat) (f : Context → Context) : (State.onCtx s c f).fuses = s.fuses := by
  simp [State.onCtx]
@[simp] theorem State.onQueue_fuses (s : State) (c q : Nat) (f : Queue → Queue) : (State.onQueue s c q f).fuses = s.fuses := by
  simp [State.onQueue]
@[simp] theorem State.onCmd_fuses (s : State) (r : CmdRef) (f : Cmd → Cmd) : (State.onCmd s r f).fuses = s.fuses := by
  simp [State.onCmd]
@[simp] theorem State.freeObj_fuses (s : State) (i : Nat) : (State.freeObj s i).fuses = s.fuses := by
  simp [State.freeObj]
@[simp] theorem State.putFence_fuses (s : State) (f : Nat) (v : Fence) : (State.putFence s f v).fuses = s.fuses := by
  unfold State.putFence
  (repeat' split) <;> simp [apply_ite State.fuses, foldl_fuses]
@[simp] theorem State.armFence_fuses (s : State) (f : Nat) (r : CmdRef) : (State.armFence s f r).fuses = s.fuses := by
  simp [State.armFence]
@[simp] theorem State.signalFence_fuses (s : State) (f status : Nat) : (State.signalFence s f status).fuses = s.fuses := by
  simp [State.signalFence]
@[simp] theorem State.signalFor_fuses (s : State) (f : Nat) (r : CmdRef) (status : Nat) : (State.signalFor s f r status).fuses = s.fuses := by
  simp [State.signalFor, apply_ite State.fuses, foldl_fuses]
@[simp] theorem State.missGuarantee_fuses (s : State) (kv : Bool) (src arg : Nat) : (State.missGuarantee s kv src arg).fuses = s.fuses := by
  simp [State.missGuarantee, apply_ite State.fuses, foldl_fuses]
@[simp] theorem State.queueError_fuses (s : State) (c q : Nat) : (State.queueError s c q).fuses = s.fuses := by
  unfold State.queueError
  (repeat' split) <;> simp [apply_ite State.fuses, foldl_fuses]
@[simp] theorem State.doorCheck_fuses (s : State) (c q : Nat) : (State.doorCheck s c q).fuses = s.fuses := by
  unfold State.doorCheck
  (repeat' split) <;> simp [apply_ite State.fuses, foldl_fuses]
@[simp] theorem State.setDoor_fuses (s : State) (c q : Nat) (f : Nat × Nat → Nat × Nat) : (State.setDoor s c q f).fuses = s.fuses := by
  simp [State.setDoor]
@[simp] theorem State.fetch_fuses (s : State) (c q : Nat) : (State.fetch s c q).fuses = s.fuses := by
  simp [State.fetch]
@[simp] theorem State.finish_fuses (s : State) (r : CmdRef) (status : Nat) : (State.finish s r status).fuses = s.fuses := by
  simp [State.finish]
@[simp] theorem State.finishWith_fuses (s : State) (r : CmdRef) (status result : Nat) : (State.finishWith s r status result).fuses = s.fuses := by
  simp [State.finishWith]
@[simp] theorem State.writeCompletion_fuses (s : State) (c : Cmd) : (State.writeCompletion s c).fuses = s.fuses := by
  unfold State.writeCompletion
  (repeat' split) <;> (try simp [apply_ite State.fuses, foldl_fuses]) <;> (try (intros; (repeat' split) <;> simp [apply_ite State.fuses, foldl_fuses]))
@[simp] theorem State.raiseQueue_fuses (s : State) (c : Cmd) : (State.raiseQueue s c).fuses = s.fuses := by
  unfold State.raiseQueue
  (repeat' split) <;> (try simp [apply_ite State.fuses, foldl_fuses]) <;> (try (intros; (repeat' split) <;> simp [apply_ite State.fuses, foldl_fuses]))
@[simp] theorem State.dropOldKeys_fuses (s : State) : (State.dropOldKeys s).fuses = s.fuses := by
  simp [State.dropOldKeys]
@[simp] theorem State.complete_fuses (s : State) (c : Cmd) : (State.complete s c).fuses = s.fuses := by
  unfold State.complete
  (repeat' split) <;> (try simp [apply_ite State.fuses, foldl_fuses]) <;> (try (intros; (repeat' split) <;> simp [apply_ite State.fuses, foldl_fuses]))
@[simp] theorem State.countQueueWait_fuses (s : State) (c q : Nat) : (State.countQueueWait s c q).fuses = s.fuses := by
  unfold State.countQueueWait
  (repeat' split) <;> simp [apply_ite State.fuses, foldl_fuses]
@[simp] theorem State.popHead_fuses (s : State) (c q : Nat) : (State.popHead s c q).fuses = s.fuses := by
  simp [State.popHead]
@[simp] theorem State.enter_fuses (s : State) (c : Cmd) : (State.enter s c).fuses = s.fuses := by
  simp [State.enter]
@[simp] theorem State.poison_fuses (s : State) (a : Nat) : (State.poison s a).fuses = s.fuses := by
  simp [State.poison]
@[simp] theorem State.hbmCorrected_fuses (s : State) (a : Nat) : (State.hbmCorrected s a).fuses = s.fuses := by
  simp [State.hbmCorrected]
@[simp] theorem State.hbmUncorrectable_fuses (s : State) (a : Nat) : (State.hbmUncorrectable s a).fuses = s.fuses := by
  simp [State.hbmUncorrectable]
@[simp] theorem State.walkCount_fuses (s : State) (c va : Nat) (p : WalkPage) : (State.walkCount s c va p).fuses = s.fuses := by
  simp [State.walkCount, apply_ite State.fuses, foldl_fuses]
@[simp] theorem State.writeBatch_fuses (s : State) : (State.writeBatch s).fuses = s.fuses := by
  unfold State.writeBatch
  (repeat' split) <;> simp [apply_ite State.fuses, foldl_fuses]
@[simp] theorem State.writeBatches_fuses (n : Nat) (s : State) : (State.writeBatches n s).fuses = s.fuses := by
  induction n generalizing s with
  | zero => rfl
  | succ n ih => rw [State.writeBatches, ih]; simp
@[simp] theorem State.closeBatch_fuses (s : State) : (State.closeBatch s).fuses = s.fuses := by
  unfold State.closeBatch
  split <;> simp
@[simp] theorem State.addFaults_fuses (s : State) (es : List FaultEnt) : (State.addFaults s es).fuses = s.fuses := by
  simp [State.addFaults, apply_ite State.fuses, foldl_fuses]
@[simp] theorem State.askBursts_fuses (s : State) (r : CmdRef) : (State.askBursts s r).fuses = s.fuses := by
  unfold State.askBursts
  (repeat' split) <;> (try simp [apply_ite State.fuses, foldl_fuses]) <;> (try (intros; (repeat' split) <;> simp [apply_ite State.fuses, foldl_fuses]))
@[simp] theorem State.parkCut_fuses (s : State) (r : CmdRef) : (State.parkCut s r).fuses = s.fuses := by
  unfold State.parkCut
  (repeat' split) <;> simp [apply_ite State.fuses, foldl_fuses]
@[simp] theorem State.settle_fuses (s : State) (c : Cmd) : (State.settle s c).fuses = s.fuses := by
  unfold State.settle
  (repeat' split) <;> (try simp [apply_ite State.fuses, foldl_fuses]) <;> (try (intros; (repeat' split) <;> simp [apply_ite State.fuses, foldl_fuses]))
@[simp] theorem State.trySettle_fuses (s : State) (r : CmdRef) : (State.trySettle s r).fuses = s.fuses := by
  unfold State.trySettle
  (repeat' split) <;> (try simp [apply_ite State.fuses, foldl_fuses]) <;> (try (intros; (repeat' split) <;> simp [apply_ite State.fuses, foldl_fuses]))
@[simp] theorem State.walkAsk_fuses (s : State) (r : CmdRef) (operand page level : Nat) : (State.walkAsk s r operand page level).fuses = s.fuses := by
  unfold State.walkAsk
  extract_lets cls
  cases s.walkRead r.ctx (page * frameBytes) level with
  | none => rfl
  | some e => rfl
theorem State.walkAsks_fuses (r : CmdRef) (operand : Nat) (l : List Nat) (s : State) : (l.foldl (fun t p => t.walkAsk r operand p 2) s).fuses = s.fuses := by
  induction l generalizing s with
  | nil => rfl
  | cons p l ih => rw [List.foldl_cons, ih, State.walkAsk_fuses]
@[simp] theorem State.askWalks_fuses (s : State) (r : CmdRef) : (State.askWalks s r).fuses = s.fuses := by
  unfold State.askWalks
  split
  · rfl
  · refine foldl_fuses (fun t x => ?_) _ s
    split
    · exact State.walkAsks_fuses ..
    · rfl
@[simp] theorem State.resolve_fuses (s : State) (r : CmdRef) : (State.resolve s r).fuses = s.fuses := by
  unfold State.resolve
  (repeat' split) <;> (try simp [apply_ite State.fuses, foldl_fuses]) <;> (try (intros; (repeat' split) <;> simp [apply_ite State.fuses, foldl_fuses]))
@[simp] theorem State.walkDone_fuses (s : State) (r : CmdRef) (operand : Nat) (page : WalkPage) : (State.walkDone s r operand page).fuses = s.fuses := by
  unfold State.walkDone
  extract_lets p
  split
  · rfl
  · split
    · rfl
    · split
      · rfl
      · exact (State.trySettle_fuses _ _).trans ((State.onCmd_fuses _ _ _).trans ((State.onXl_fuses _ _).trans (State.walkCount_fuses _ _ _ _)))
@[simp] theorem State.answerBatch_fuses (s : State) (v : Nat) : (State.answerBatch s v).fuses = s.fuses := by
  unfold State.answerBatch
  extract_lets t
  split
  · rfl
  · extract_lets base rs u refs w
    have h : w.fuses = u.fuses := by
      refine foldl_fuses (fun t r => ?_) _ _
      split
      · rfl
      · split
        · rfl
        · extract_lets mine
          (repeat' split) <;> simp
    rw [State.writeBatches_fuses, h]
    rfl
@[simp] theorem State.holdFrames_fuses (s : State) (frs : List Nat) (u : FrameUse) : (State.holdFrames s frs u).fuses = s.fuses := by
  simp [State.holdFrames]
@[simp] theorem State.dropFrames_fuses (s : State) (frs : List Nat) : (State.dropFrames s frs).fuses = s.fuses := by
  simp [State.dropFrames]
@[simp] theorem State.freeExtents_fuses (s : State) (own : ExtOwner → Bool) : (State.freeExtents s own).fuses = s.fuses := by
  simp [State.freeExtents]
@[simp] theorem State.moveExtents_fuses (s : State) (frm into : ExtOwner) : (State.moveExtents s frm into).fuses = s.fuses := by
  simp [State.moveExtents]
@[simp] theorem State.releaseResponse_fuses (s : State) (x : Extent) : (State.releaseResponse s x).fuses = s.fuses := by
  simp [State.releaseResponse]
@[simp] theorem State.newObj_fuses (s : State) (i : Nat) (o : MemObj) : (State.newObj s i o).fuses = s.fuses := by
  simp [State.newObj]
@[simp] theorem State.fillSlot_fuses (s : State) (k : Nat) (u : KeySlot) : (State.fillSlot s k u).fuses = s.fuses := by
  simp [State.fillSlot]
@[simp] theorem State.retireSlots_fuses (s : State) (ks : List Nat) : (State.retireSlots s ks).fuses = s.fuses := by
  unfold State.retireSlots
  (repeat' split) <;> (try simp -Nat.reducePow [apply_ite State.fuses, foldl_fuses]) <;> (try (rw [foldl_fuses] <;> (try (intro t a; dsimp only [-Nat.reducePow]; (repeat' split) <;> simp [apply_ite State.fuses, foldl_fuses])))) <;> (repeat' split) <;> (try simp_all [apply_ite State.fuses, foldl_fuses])
@[simp] theorem State.startWash_fuses (s : State) (k : WashKind) (slots frames cave : List Nat) : (State.startWash s k slots frames cave).fuses = s.fuses := by
  simp [State.startWash]
@[simp] theorem State.releaseObj_fuses (s : State) (i : Nat) : (State.releaseObj s i).fuses = s.fuses := by
  unfold State.releaseObj
  (repeat' split) <;> simp [apply_ite State.fuses, foldl_fuses]
@[simp] theorem State.onDue_fuses (s : State) (r : CmdRef) (op : Nat) (f : Cmd → State) (hf : ∀ y0, (f y0).fuses = s.fuses) : (State.onDue s r op f).fuses = s.fuses := by
  unfold State.onDue
  (repeat' split) <;> simp [apply_ite State.fuses, foldl_fuses, hf]
@[simp] theorem State.checked_fuses (s : State) (r : CmdRef) (op : Nat) (check : State → Cmd → Nat) (f : Cmd → State) (hf : ∀ y0, (f y0).fuses = s.fuses) : (State.checked s r op check f).fuses = s.fuses := by
  simp [State.checked, apply_ite State.fuses, foldl_fuses, hf]
@[simp] theorem State.classify_fuses (s : State) : (State.classify s).fuses = s.fuses := by
  simp [State.classify]
@[simp] theorem State.evict_fuses (s : State) (c : Nat) : (State.evict s c).fuses = s.fuses := by
  simp [State.evict]
@[simp] theorem State.swapIn_fuses (s : State) (c : Nat) : (State.swapIn s c).fuses = s.fuses := by
  unfold State.swapIn
  dsimp only [-Nat.reducePow]
  (repeat' split) <;> simp [apply_ite State.fuses, foldl_fuses]
@[simp] theorem State.newFences_fuses (s : State) (lo n : Nat) : (State.newFences s lo n).fuses = s.fuses := by
  simp [State.newFences, apply_ite State.fuses, foldl_fuses]
@[simp] theorem State.contextKey_fuses (s : State) (c : Nat) : (State.contextKey s c).fuses = s.fuses := by
  unfold State.contextKey
  (repeat' split) <;> simp [apply_ite State.fuses, foldl_fuses]
@[simp] theorem State.createContext_fuses (s : State) (c : Cmd) : (State.createContext s c).fuses = s.fuses := by
  unfold State.createContext
  (repeat' split) <;> simp [apply_ite State.fuses, foldl_fuses]
@[simp] theorem State.putQueue_fuses (s : State) (c q : Nat) (u : Queue) : (State.putQueue s c q u).fuses = s.fuses := by
  simp [State.putQueue]
@[simp] theorem State.createQueue_fuses (s : State) (c : Cmd) : (State.createQueue s c).fuses = s.fuses := by
  simp [State.createQueue]
@[simp] theorem State.createObj_fuses (s : State) (c : Cmd) : (State.createObj s c).fuses = s.fuses := by
  unfold State.createObj
  dsimp only [-Nat.reducePow]
  (repeat' split) <;> simp [apply_ite State.fuses, foldl_fuses]
@[simp] theorem State.onExtent_fuses (s : State) (e : Nat) (f : Extent → Extent) : (State.onExtent s e f).fuses = s.fuses := by
  simp [State.onExtent]
@[simp] theorem State.delExtent_fuses (s : State) (e : Nat) : (State.delExtent s e).fuses = s.fuses := by
  simp [State.delExtent]
@[simp] theorem State.caveRelease_fuses (s : State) (c : Cmd) : (State.caveRelease s c).fuses = s.fuses := by
  simp [State.caveRelease, apply_ite State.fuses, foldl_fuses]
@[simp] theorem State.zeroed_fuses (s : State) (e : Nat) : (State.zeroed s e).fuses = s.fuses := by
  simp [State.zeroed, apply_ite State.fuses, foldl_fuses]
@[simp] theorem State.control_fuses (s : State) (v : Vat) (msg node tick arg : Nat) (body : List Byte) : (State.control s v msg node tick arg body).fuses = s.fuses := by
  simp [State.control]
@[simp] theorem State.controlAll_fuses (s : State) (v : Vat) (msg tick arg : Nat) (body : List Byte) : (State.controlAll s v msg tick arg body).fuses = s.fuses := by
  simp [State.controlAll, apply_ite State.fuses, foldl_fuses]
@[simp] theorem State.onSess_fuses (s : State) (vat i : Nat) (f : Session → Session) : (State.onSess s vat i f).fuses = s.fuses := by
  simp [State.onSess]
@[simp] theorem State.onWk_fuses (s : State) (vat i : Nat) (f : SessWork → SessWork) : (State.onWk s vat i f).fuses = s.fuses := by
  simp [State.onWk]
@[simp] theorem State.offer_fuses (s : State) (vat i : Nat) (withdraw : Bool) : (State.offer s vat i withdraw).fuses = s.fuses := by
  unfold State.offer
  (repeat' split) <;> simp [apply_ite State.fuses, foldl_fuses]
@[simp] theorem State.withdraw_fuses (s : State) (vat i : Nat) : (State.withdraw s vat i).fuses = s.fuses := by
  unfold State.withdraw
  (repeat' split) <;> simp [apply_ite State.fuses, foldl_fuses]
@[simp] theorem State.reoffer_fuses (s : State) (vat i : Nat) : (State.reoffer s vat i).fuses = s.fuses := by
  unfold State.reoffer
  (repeat' split) <;> simp [apply_ite State.fuses, foldl_fuses]
@[simp] theorem State.writePieces_fuses (ps : Pieces) (bs : List Byte) (s : State) : (s.writePieces ps bs).fuses = s.fuses := by
  induction ps generalizing s bs with
  | nil => rfl
  | cons p ps ih => rw [State.writePieces, ih]; simp
@[simp] theorem State.outWrite_fuses (s : State) (w : SessWork) (off : Nat) (bs : List Byte) : (State.outWrite s w off bs).fuses = s.fuses := by
  unfold State.outWrite
  extract_lets ps
  split
  · rfl
  · split
    · exact State.writePieces_fuses _ _ _
    · exact (State.onQos_fuses _ _).trans (State.writePieces_fuses _ _ _)
@[simp] theorem State.endReq_fuses (s : State) (vat i status : Nat) (into : SessState) : (State.endReq s vat i status into).fuses = s.fuses := by
  unfold State.endReq
  (repeat' split) <;> (try simp [apply_ite State.fuses, foldl_fuses]) <;> (try (intros; (repeat' split) <;> simp [apply_ite State.fuses, foldl_fuses]))
@[simp] theorem State.dropBias_fuses (s : State) (vat i : Nat) : (State.dropBias s vat i).fuses = s.fuses := by
  unfold State.dropBias
  (repeat' split) <;> simp [apply_ite State.fuses, foldl_fuses]
@[simp] theorem State.freeSess_fuses (s : State) (vat i : Nat) : (State.freeSess s vat i).fuses = s.fuses := by
  simp [State.freeSess]
@[simp] theorem State.orphan_fuses (s : State) (vat i cause : Nat) : (State.orphan s vat i cause).fuses = s.fuses := by
  unfold State.orphan
  (repeat' split) <;> (try simp [apply_ite State.fuses, foldl_fuses]) <;> (try (intros; (repeat' split) <;> simp [apply_ite State.fuses, foldl_fuses]))
@[simp] theorem State.orphanFreed_fuses (s : State) (vat i cause : Nat) : (State.orphanFreed s vat i cause).fuses = s.fuses := by
  unfold State.orphanFreed
  (repeat' split) <;> (try simp [apply_ite State.fuses, foldl_fuses]) <;> (try (intros; (repeat' split) <;> simp [apply_ite State.fuses, foldl_fuses]))
@[simp] theorem State.closeSess_fuses (s : State) (vat i : Nat) : (State.closeSess s vat i).fuses = s.fuses := by
  unfold State.closeSess
  (repeat' split) <;> (try simp [apply_ite State.fuses, foldl_fuses]) <;> (try (intros; (repeat' split) <;> simp [apply_ite State.fuses, foldl_fuses]))
@[simp] theorem State.pageCommand_fuses (s : State) (vat i arg epoch holder : Nat) (es : List (List Byte)) : (State.pageCommand s vat i arg epoch holder es).fuses = s.fuses := by
  unfold State.pageCommand
  (repeat' split) <;> simp [apply_ite State.fuses, foldl_fuses]
@[simp] theorem State.mcMsg_fuses (s : State) (node msg vat arg tag src : Nat) (body : List Byte) : (State.mcMsg s node msg vat arg tag src body).fuses = s.fuses := by
  simp [State.mcMsg]
@[simp] theorem State.mcDrop_fuses (s : State) (m : McSource) : (State.mcDrop s m).fuses = s.fuses := by
  simp [State.mcDrop]
@[simp] theorem State.mcEnd_fuses (s : State) (m : McSource) (st : Nat) : (State.mcEnd s m st).fuses = s.fuses := by
  simp [State.mcEnd, apply_ite State.fuses, foldl_fuses]
@[simp] theorem State.mcLost_fuses (s : State) (node : Nat) : (State.mcLost s node).fuses = s.fuses := by
  simp [State.mcLost, apply_ite State.fuses, foldl_fuses]
@[simp] theorem State.degradeCore_fuses (s : State) (c : Nat) : (State.degradeCore s c).fuses = s.fuses := by
  unfold State.degradeCore
  (repeat' split) <;> simp [apply_ite State.fuses, foldl_fuses]
@[simp] theorem State.beginReset_fuses (s : State) (kind index cause : Nat) : (State.beginReset s kind index cause).fuses = s.fuses := by
  simp [State.beginReset, apply_ite State.fuses, foldl_fuses]
@[simp] theorem State.retireCore_fuses (s : State) (c cause : Nat) : (State.retireCore s c cause).fuses = s.fuses := by
  unfold State.retireCore
  (repeat' split) <;> simp [apply_ite State.fuses, foldl_fuses]
@[simp] theorem State.coreError_fuses (s : State) (c kind : Nat) : (State.coreError s c kind).fuses = s.fuses := by
  simp [State.coreError, apply_ite State.fuses, foldl_fuses]
@[simp] theorem State.writeMeter_fuses (s : State) (vat kind : Nat) : (State.writeMeter s vat kind).fuses = s.fuses := by
  unfold State.writeMeter
  (repeat' split) <;> simp [apply_ite State.fuses, foldl_fuses]
@[simp] theorem State.degradeSess_fuses (s : State) (vat i : Nat) : (State.degradeSess s vat i).fuses = s.fuses := by
  unfold State.degradeSess
  (repeat' split) <;> (try simp [apply_ite State.fuses, foldl_fuses]) <;> (try (intros; (repeat' split) <;> simp [apply_ite State.fuses, foldl_fuses]))
@[simp] theorem State.dropFrozen_fuses (s : State) (vat : Nat) : (State.dropFrozen s vat).fuses = s.fuses := by
  unfold State.dropFrozen
  (repeat' split) <;> (try simp [apply_ite State.fuses, foldl_fuses]) <;> (try (intros; (repeat' split) <;> simp [apply_ite State.fuses, foldl_fuses]))
@[simp] theorem State.closeRest_fuses (s : State) (vat : Nat) : (State.closeRest s vat).fuses = s.fuses := by
  unfold State.closeRest
  (repeat' split) <;> simp [apply_ite State.fuses, foldl_fuses]
@[simp] theorem State.cancelSessions_fuses (s : State) (vat : Nat) : (State.cancelSessions s vat).fuses = s.fuses := by
  unfold State.cancelSessions
  (repeat' split) <;> (try simp [apply_ite State.fuses, foldl_fuses]) <;> (try (intros; (repeat' split) <;> simp [apply_ite State.fuses, foldl_fuses]))
@[simp] theorem State.freeRegions_fuses (s : State) (vat : Nat) : (State.freeRegions s vat).fuses = s.fuses := by
  unfold State.freeRegions
  (repeat' split) <;> simp [apply_ite State.fuses, foldl_fuses]
@[simp] theorem State.zeroSlices_fuses (s : State) (ks : List Nat) : (State.zeroSlices s ks).fuses = s.fuses := by
  simp [State.zeroSlices]
@[simp] theorem State.freeCore_fuses (s : State) (c : Nat) : (State.freeCore s c).fuses = s.fuses := by
  simp [State.freeCore]
@[simp] theorem State.washVat_fuses (s : State) (vat : Nat) : (State.washVat s vat).fuses = s.fuses := by
  unfold State.washVat
  (repeat' split) <;> (try simp [apply_ite State.fuses, foldl_fuses]) <;> (try (intros; (repeat' split) <;> simp [apply_ite State.fuses, foldl_fuses]))
@[simp] theorem State.removeVat_fuses (s : State) (vat : Nat) : (State.removeVat s vat).fuses = s.fuses := by
  simp [State.removeVat]
@[simp] theorem State.haltsDone_fuses (s : State) (vat : Nat) : (State.haltsDone s vat).fuses = s.fuses := by
  simp [State.haltsDone, apply_ite State.fuses, foldl_fuses]
@[simp] theorem State.haltVat_fuses (s : State) (vat : Nat) : (State.haltVat s vat).fuses = s.fuses := by
  unfold State.haltVat
  (repeat' split) <;> (try simp [apply_ite State.fuses, foldl_fuses]) <;> (try (intros; (repeat' split) <;> simp [apply_ite State.fuses, foldl_fuses]))
@[simp] theorem State.sendDown_fuses (s : State) (vat port node first : Nat) : (State.sendDown s vat port node first).fuses = s.fuses := by
  unfold State.sendDown
  (repeat' split) <;> simp [apply_ite State.fuses, foldl_fuses]
@[simp] theorem State.startCopy_fuses (s : State) (k : Nat) : (State.startCopy s k).fuses = s.fuses := by
  unfold State.startCopy
  dsimp only [-Nat.reducePow]
  (repeat' split) <;> simp [apply_ite State.fuses, foldl_fuses]
@[simp] theorem State.endCopy_fuses (s : State) (die : Nat) : (State.endCopy s die).fuses = s.fuses := by
  simp [State.endCopy, apply_ite State.fuses, foldl_fuses]
@[simp] theorem State.retireSlice_fuses (s : State) (k cause : Nat) : (State.retireSlice s k cause).fuses = s.fuses := by
  simp [State.retireSlice, apply_ite State.fuses, foldl_fuses]
@[simp] theorem State.sliceError_fuses (s : State) (k kind : Nat) : (State.sliceError s k kind).fuses = s.fuses := by
  simp [State.sliceError, apply_ite State.fuses, foldl_fuses]
@[simp] theorem State.memCorrected_fuses (s : State) (a : Nat) : (State.memCorrected s a).fuses = s.fuses := by
  simp [State.memCorrected, apply_ite State.fuses, foldl_fuses]
@[simp] theorem State.memUncorrectable_fuses (s : State) (a : Nat) : (State.memUncorrectable s a).fuses = s.fuses := by
  simp [State.memUncorrectable, apply_ite State.fuses, foldl_fuses]
@[simp] theorem State.curdError_fuses (s : State) (vat a : Nat) : (State.curdError s vat a).fuses = s.fuses := by
  simp [State.curdError]
@[simp] theorem State.readsMet_fuses (s : State) (bad : ReadErrs) (ps : Pieces) : (State.readsMet s bad ps).fuses = s.fuses := by
  simp [State.readsMet, apply_ite State.fuses, foldl_fuses]
@[simp] theorem State.copyGranules_fuses (s : State) (c : SliceCopy) : (State.copyGranules s c).fuses = s.fuses := by
  simp [State.copyGranules]
@[simp] theorem State.failCopy_fuses (s : State) (die : Nat) (c : SliceCopy) : (State.failCopy s die c).fuses = s.fuses := by
  unfold State.failCopy
  (repeat' split) <;> (try simp [apply_ite State.fuses, foldl_fuses]) <;> (try (intros; (repeat' split) <;> simp [apply_ite State.fuses, foldl_fuses]))
@[simp] theorem State.swapReserves_fuses (s : State) (c : SliceCopy) : (State.swapReserves s c).fuses = s.fuses := by
  simp [State.swapReserves]
theorem State.copyEndsTail_fuses (s : State) (die : Nat) (ok : CopyReads) (c : SliceCopy) : (match ok.ue with
    | some o => (s.memUncorrectable (sliceBase c.src + o)).failCopy die c
    | none =>
      let t := (s.copyGranules c).swapReserves c
      if t.sliceVats c.src = [] then t.endCopy die
      else t.onMem fun m => { m with copies := mapPut m.copies die { c with done := true } } : State).fuses = s.fuses := by
  generalize ok.ue = u
  cases u with
  | none =>
      refine (apply_ite State.fuses _ _ _).trans ?_
      split
      · exact (State.endCopy_fuses _ _).trans ((State.swapReserves_fuses _ _).trans (State.copyGranules_fuses _ _))
      · exact (State.onMem_fuses _ _).trans ((State.swapReserves_fuses _ _).trans (State.copyGranules_fuses _ _))
  | some o => exact (State.failCopy_fuses _ _ _).trans (State.memUncorrectable_fuses _ _)
theorem State.readCe_fuses (l : List Nat) (f : Nat → Nat) (s : State) :
    (l.foldl (fun t o => t.memCorrected (f o)) s).fuses = s.fuses :=
  foldl_fuses (fun t a => State.memCorrected_fuses t (f a)) l s
@[simp] theorem State.copyEnds_fuses (s : State) (die : Nat) (ok : CopyReads) : (State.copyEnds s die ok).fuses = s.fuses := by
  unfold State.copyEnds
  generalize mapFind s.mem.copies die = o
  cases o with
  | none => rfl
  | some c =>
    refine (apply_ite State.fuses _ _ _).trans ?_
    split
    · rfl
    · exact (State.copyEndsTail_fuses _ _ _ _).trans (State.readCe_fuses _ (fun o => sliceBase _ + o) _)
@[simp] theorem State.switchSlices_fuses (s : State) (vat : Nat) : (State.switchSlices s vat).fuses = s.fuses := by
  simp [State.switchSlices, apply_ite State.fuses, foldl_fuses]
@[simp] theorem State.openSess_fuses (s : State) (c : Cmd) : (State.openSess s c).fuses = s.fuses := by
  simp [State.openSess]
@[simp] theorem State.resetSess_fuses (s : State) (vat i ctx : Nat) : (State.resetSess s vat i ctx).fuses = s.fuses := by
  unfold State.resetSess
  (repeat' split) <;> simp [apply_ite State.fuses, foldl_fuses]
@[simp] theorem State.cancelSess_fuses (s : State) (vat i : Nat) : (State.cancelSess s vat i).fuses = s.fuses := by
  unfold State.cancelSess
  (repeat' split) <;> (try simp [apply_ite State.fuses, foldl_fuses]) <;> (try (intros; (repeat' split) <;> simp [apply_ite State.fuses, foldl_fuses]))
@[simp] theorem State.setBias_fuses (s : State) (c : Cmd) (bad : ReadErrs) : (State.setBias s c bad).fuses = s.fuses := by
  unfold State.setBias
  dsimp only [-Nat.reducePow]
  (repeat' split) <;> simp [apply_ite State.fuses, foldl_fuses]
@[simp] theorem State.setTree_fuses (s : State) (c : Cmd) (bad : ReadErrs) : (State.setTree s c bad).fuses = s.fuses := by
  simp [State.setTree, apply_ite State.fuses, foldl_fuses]
@[simp] theorem State.accept_fuses (s : State) (c : Cmd) : (State.accept s c).fuses = s.fuses := by
  simp [State.accept]
@[simp] theorem State.generate_fuses (s : State) (c : Cmd) (bad : ReadErrs) : (State.generate s c bad).fuses = s.fuses := by
  unfold State.generate
  extract_lets b n ps st t
  have h : t.fuses = s.fuses := by simp [t]
  (repeat' split) <;> simp [h]
@[simp] theorem State.sessEligible_fuses (s : State) (vat i : Nat) : (State.sessEligible s vat i).fuses = s.fuses := by
  unfold State.sessEligible
  (repeat' split) <;> simp [apply_ite State.fuses, foldl_fuses]
@[simp] theorem State.takeOffer_fuses (s : State) (m : OfferMsg) : (State.takeOffer s m).fuses = s.fuses := by
  simp [State.takeOffer]
@[simp] theorem State.pageIn_fuses (s : State) (vat i : Nat) : (State.pageIn s vat i).fuses = s.fuses := by
  unfold State.pageIn
  (repeat' split) <;> simp [apply_ite State.fuses, foldl_fuses]
@[simp] theorem State.pageOut_fuses (s : State) (vat i : Nat) : (State.pageOut s vat i).fuses = s.fuses := by
  unfold State.pageOut
  (repeat' split) <;> simp [apply_ite State.fuses, foldl_fuses]
@[simp] theorem State.evictSess_fuses (s : State) (vat i : Nat) : (State.evictSess s vat i).fuses = s.fuses := by
  unfold State.evictSess
  (repeat' split) <;> simp [apply_ite State.fuses, foldl_fuses]
@[simp] theorem State.pausePages_fuses (s : State) (vat : Nat) : (State.pausePages s vat).fuses = s.fuses := by
  unfold State.pausePages
  dsimp only [-Nat.reducePow]
  (repeat' split) <;> (try simp [apply_ite State.fuses, foldl_fuses]) <;> (try (rw [foldl_fuses]; intro t a; (repeat' split) <;> simp [apply_ite State.fuses, foldl_fuses]))
@[simp] theorem State.moveShares_fuses (s : State) (vat : Nat) : (State.moveShares s vat).fuses = s.fuses := by
  unfold State.moveShares
  dsimp only [-Nat.reducePow]
  (repeat' split) <;> (try simp [apply_ite State.fuses, foldl_fuses]) <;> (try (rw [foldl_fuses]; intro t a; (repeat' split) <;> simp [apply_ite State.fuses, foldl_fuses]))
@[simp] theorem State.evictOne_fuses (s : State) (vat : Nat) : (State.evictOne s vat).fuses = s.fuses := by
  unfold State.evictOne
  (repeat' split) <;> simp [apply_ite State.fuses, foldl_fuses]
@[simp] theorem State.putTag_fuses (s : State) (v : Vat) (c present session epoch holder : Nat) :
    (State.putTag s v c present session epoch holder).fuses = s.fuses := by simp [State.putTag]
@[simp] theorem State.onJob_fuses (s : State) (vat session : Nat) (f : PageJob → PageJob) : (State.onJob s vat session f).fuses = s.fuses := by
  simp [State.onJob]
@[simp] theorem State.failJob_fuses (s : State) (vat session st : Nat) : (State.failJob s vat session st).fuses = s.fuses := by
  simp [State.failJob]
@[simp] theorem State.installLease_fuses (s : State) (v : Vat) (session epoch pool : Nat) (olds : List Nat) (slot present : Nat) : (State.installLease s v session epoch pool olds slot present).fuses = s.fuses := by
  simp [State.installLease, apply_ite State.fuses, foldl_fuses]
@[simp] theorem State.resolveShare_fuses (s : State) (v : Vat) (session : Nat) (tags : List TagClaim) : (State.resolveShare s v session tags).fuses = s.fuses := by
  unfold State.resolveShare
  (repeat' split) <;> (try simp [apply_ite State.fuses, foldl_fuses]) <;> (try (intros; (repeat' split) <;> simp [apply_ite State.fuses, foldl_fuses]))
@[simp] theorem State.leaseCheck_fuses (s : State) (m : PageCmdMsg) (old : Option Nat) (tags : List TagClaim) : (State.leaseCheck s m old tags).fuses = s.fuses := by
  unfold State.leaseCheck
  (repeat' split) <;> (try simp [apply_ite State.fuses, foldl_fuses]) <;> (try (intros; (repeat' split) <;> simp [apply_ite State.fuses, foldl_fuses]))
@[simp] theorem State.zeroEntries_fuses (s : State) (v : Vat) (es : List PageEntry) : (State.zeroEntries s v es).fuses = s.fuses := by
  refine foldl_fuses (fun t e => ?_) es s
  split <;> simp
@[simp] theorem State.copyRows_fuses (s : State) (v : Vat) (resSlot frm dst : Nat) : (State.copyRows s v resSlot frm dst).fuses = s.fuses := by
  unfold State.copyRows
  split
  · rfl
  · exact foldl_fuses (fun t fl => by simp) _ s
@[simp] theorem State.jobDone_fuses (s : State) (vat session : Nat) : (State.jobDone s vat session).fuses = s.fuses := by
  unfold State.jobDone
  (repeat' split) <;> simp [apply_ite State.fuses, foldl_fuses]
@[simp] theorem State.pullAsk_fuses (s : State) (write : Bool) (ps : Pieces) (w : ArbWork) : (State.pullAsk s write ps w).fuses = s.fuses := by
  simp [State.pullAsk]
@[simp] theorem State.askPages_fuses (s : State) (v : Vat) (m : PageCmdMsg) : (State.askPages s v m).fuses = s.fuses := by
  simp [State.askPages, apply_ite State.fuses, foldl_fuses]
@[simp] theorem State.takePageCmd_fuses (s : State) (m : PageCmdMsg) (tags : List TagClaim) : (State.takePageCmd s m tags).fuses = s.fuses := by
  unfold State.takePageCmd
  (repeat' split) <;> (try simp [apply_ite State.fuses, foldl_fuses]) <;> (try (intros; (repeat' split) <;> simp [apply_ite State.fuses, foldl_fuses]))
@[simp] theorem State.pageTransfer_fuses (s : State) (vat session ordinal : Nat) (toCave : Bool) (ecc : Ecc) :
    (State.pageTransfer s vat session ordinal toCave ecc).fuses = s.fuses := by
  unfold State.pageTransfer
  split
  · split
    · rfl
    · split
      · rfl
      · extract_lets st bp cp t t1
        have h : t.fuses = s.fuses := by
          simp only [t]
          (repeat' split) <;> simp
        have h1 : t1.fuses = s.fuses := by
          simp only [t1]
          split <;> simp [h]
        simp [h1]
  · rfl
@[simp] theorem State.paged_fuses (s : State) (vat i arg : Nat) : (State.paged s vat i arg).fuses = s.fuses := by
  unfold State.paged
  (repeat' split) <;> simp [apply_ite State.fuses, foldl_fuses]
@[simp] theorem State.takePageAck_fuses (s : State) (vat session lpkg status : Nat) : (State.takePageAck s vat session lpkg status).fuses = s.fuses := by
  unfold State.takePageAck
  (repeat' split) <;> (try simp [apply_ite State.fuses, foldl_fuses]) <;> (try (intros; (repeat' split) <;> simp [apply_ite State.fuses, foldl_fuses]))
@[simp] theorem State.supply_fuses (s : State) : (State.supply s).fuses = s.fuses := by
  simp [State.supply]
@[simp] theorem State.commitGear_fuses (s : State) (m : Mould) (stepId start : Nat) : (State.commitGear s m stepId start).fuses = s.fuses := by
  simp [State.commitGear, apply_ite State.fuses, foldl_fuses]
@[simp] theorem State.armGear_fuses (s : State) (vat gear seq : Nat) : (State.armGear s vat gear seq).fuses = s.fuses := by
  simp [State.armGear, apply_ite State.fuses, foldl_fuses]
@[simp] theorem State.switchGear_fuses (s : State) (g : Nat) : (State.switchGear s g).fuses = s.fuses := by
  simp [State.switchGear]
@[simp] theorem State.decideGear_fuses (s : State) : (State.decideGear s).fuses = s.fuses := by
  unfold State.decideGear
  (repeat' split) <;> simp [apply_ite State.fuses, foldl_fuses]
@[simp] theorem State.requestGear_fuses (s : State) (m : GearMsg) : (State.requestGear s m).fuses = s.fuses := by
  unfold State.requestGear
  (repeat' split) <;> simp [apply_ite State.fuses, foldl_fuses]
@[simp] theorem State.droopPersistent_fuses (s : State) : (State.droopPersistent s).fuses = s.fuses := by
  simp [State.droopPersistent, apply_ite State.fuses, foldl_fuses]
@[simp] theorem State.assignLinks_fuses (s : State) (vat : Nat) (m : Mould) (l : Nat) : (State.assignLinks s vat m l).fuses = s.fuses := by
  simp [State.assignLinks, apply_ite State.fuses, foldl_fuses]
@[simp] theorem State.replayEnd_fuses (s : State) (vat : Nat) : (State.replayEnd s vat).fuses = s.fuses := by
  unfold State.replayEnd
  (repeat' split) <;> simp [apply_ite State.fuses, foldl_fuses]
@[simp] theorem State.endSlice_fuses (s : State) (vat : Nat) (past : Nat) : (State.endSlice s vat past).fuses = s.fuses := by
  unfold State.endSlice
  (repeat' split) <;> simp [apply_ite State.fuses, foldl_fuses]
@[simp] theorem State.rotate_fuses (s : State) (vat : Nat) (os : List Offer) : (State.rotate s vat os).fuses = s.fuses := by
  unfold State.rotate
  dsimp only [-Nat.reducePow]
  (repeat' split) <;> simp [apply_ite State.fuses, foldl_fuses]
@[simp] theorem State.placeSess_fuses (s : State) (vat i kind start : Nat) (l : Lane) : (State.placeSess s vat i kind start l).fuses = s.fuses := by
  unfold State.placeSess
  (repeat' split) <;> simp [apply_ite State.fuses, foldl_fuses]
@[simp] theorem State.freezeTable_fuses (s : State) (vat start : Nat) (p : StepPlan) (os : List Offer) : (State.freezeTable s vat start p os).fuses = s.fuses := by
  unfold State.freezeTable
  (repeat' split) <;> simp [apply_ite State.fuses, foldl_fuses]
@[simp] theorem State.insertRest_fuses (s : State) (vat n : Nat) : (State.insertRest s vat n).fuses = s.fuses := by
  simp [State.insertRest]
@[simp] theorem State.checkPageIns_fuses (s : State) (vat freeze : Nat) : (State.checkPageIns s vat freeze).fuses = s.fuses := by
  unfold State.checkPageIns
  dsimp only [-Nat.reducePow]
  (repeat' split) <;> (try simp [apply_ite State.fuses, foldl_fuses]) <;> (try (rw [foldl_fuses]; intro t a; (repeat' split) <;> simp [apply_ite State.fuses, foldl_fuses]))
@[simp] theorem State.announce_fuses (s : State) (vat : Nat) : (State.announce s vat).fuses = s.fuses := by
  unfold State.announce
  (repeat' split) <;> simp [apply_ite State.fuses, foldl_fuses]
theorem State.planStep_fuses (s : State) (vat : Nat) (v : Vat) (es : List (Nat × StepEnt)) : (s.planStep vat v es).1.fuses = s.fuses := by
  unfold State.planStep
  extract_lets os plain
  have h : ∀ t, (plain t).1.fuses = t.fuses := fun t => by simp [plain]
  (repeat' split) <;> simp [h]
@[simp] theorem State.freeze_fuses (s : State) (vat : Nat) : (State.freeze s vat).fuses = s.fuses := by
  unfold State.freeze
  extract_lets t
  have h : t.fuses = s.fuses := by simp [t]
  split
  · exact h
  · extract_lets b es q n
    have hq : q.1.fuses = s.fuses := by simp only [q, State.planStep_fuses, h]
    split
    · simp [hq]
    · extract_lets r r' os
      (repeat' split) <;> simp [h, hq]
theorem State.placeAnnounced_fuses (s : State) (vat : Nat) (v : Vat) (e : StepEnt) (a : LaneTable) : (s.placeAnnounced vat v e a).1.fuses = s.fuses := by
  unfold State.placeAnnounced
  suffices h : ∀ (l : List Lane) (acc : State × List Lane), (l.foldl (fun (acc : State × List Lane) l =>
      let i := l.session % 2 ^ 18
      if l.session / 2 ^ 18 ≠ v.lpkg ∨ !acc.1.canPlace v i e.kind then (acc.1, acc.2 ++ [l])
      else
        let mine := acc.1.laneOf v i e.kind e.tokens
        (acc.1.placeSess vat i e.kind a.start mine, acc.2 ++ [mine])) acc).1.fuses = acc.1.fuses from h _ _
  intro l
  induction l with
  | nil => intro acc; rfl
  | cons x l ih =>
    intro acc
    rw [List.foldl_cons, ih]
    extract_lets i mine
    (repeat' split) <;> simp
@[simp] theorem State.freezeAnnounced_fuses (s : State) (vat : Nat) (a : LaneTable) : (State.freezeAnnounced s vat a).fuses = s.fuses := by
  unfold State.freezeAnnounced
  extract_lets t
  have h : t.fuses = s.fuses := State.checkPageIns_fuses _ _ _
  split
  · exact h
  · rename_i v m _
    extract_lets q u
    have hu : u.fuses = s.fuses := (State.commitGear_fuses _ _ _ _).trans ((State.onVat_fuses _ _ _).trans ((State.placeAnnounced_fuses _ _ _ _ _).trans h))
    split
    · exact (State.announce_fuses _ _).trans hu
    · exact hu
@[simp] theorem State.startStep_fuses (s : State) (vat : Nat) (a : LaneTable) : (State.startStep s vat a).fuses = s.fuses := by
  unfold State.startStep
  split
  · rfl
  · extract_lets e lanes replay t t1
    simp [t1, t]
@[simp] theorem State.owe_fuses (s : State) (vat : Nat) (a : LaneTable) : (State.owe s vat a).fuses = s.fuses := by
  simp [State.owe]
@[simp] theorem State.replayBegin_fuses (s : State) (vat : Nat) (cores : List Nat) : (State.replayBegin s vat cores).fuses = s.fuses := by
  unfold State.replayBegin
  (repeat' split) <;> simp [apply_ite State.fuses, foldl_fuses]
@[simp] theorem State.replayStall_fuses (s : State) (vat : Nat) (core : Option Nat) : (State.replayStall s vat core).fuses = s.fuses := by
  unfold State.replayStall
  (repeat' split) <;> simp [apply_ite State.fuses, foldl_fuses]
@[simp] theorem State.coreStall_fuses (s : State) (st : Stall) : (State.coreStall s st).fuses = s.fuses := by
  unfold State.coreStall
  (repeat' split) <;> simp [apply_ite State.fuses, foldl_fuses]
@[simp] theorem State.setsMet_fuses (s : State) (vat : Nat) (bad : ReadErrs) (ps : Pieces) : (State.setsMet s vat bad ps).fuses = s.fuses := by
  simp [State.setsMet, apply_ite State.fuses, foldl_fuses]
@[simp] theorem State.sampleStep_fuses (s : State) (vat : Nat) (bad : ReadErrs) : (State.sampleStep s vat bad).fuses = s.fuses := by
  unfold State.sampleStep
  (repeat' split) <;> simp [apply_ite State.fuses, foldl_fuses]
@[simp] theorem State.commitLane_fuses (s : State) (vat : Nat) (run : StepRun) (l : Lane) (d : LaneDraw) : (State.commitLane s vat run l d).fuses = s.fuses := by
  unfold State.commitLane
  (repeat' split) <;> (try simp [apply_ite State.fuses, foldl_fuses]) <;> (try (intros; (repeat' split) <;> simp [apply_ite State.fuses, foldl_fuses]))
@[simp] theorem State.endLane_fuses (s : State) (vat : Nat) (run : StepRun) (p : Nat × Lane) (status : Nat) (d : LaneDraw) : (State.endLane s vat run p status d).fuses = s.fuses := by
  unfold State.endLane
  (repeat' split) <;> (try simp [apply_ite State.fuses, foldl_fuses]) <;> (try (intros; (repeat' split) <;> simp [apply_ite State.fuses, foldl_fuses]))
@[simp] theorem State.logStep_fuses (s : State) (vat : Nat) (v : Vat) (run : StepRun) (reps : List MemberReport) (status : Nat) : (State.logStep s vat v run reps status).fuses = s.fuses := by
  simp [State.logStep, apply_ite State.fuses, foldl_fuses]
@[simp] theorem State.replayVerdict_fuses (s : State) (vat : Nat) (run : StepRun) : (State.replayVerdict s vat run).fuses = s.fuses := by
  unfold State.replayVerdict
  (repeat' split) <;> simp [apply_ite State.fuses, foldl_fuses]
@[simp] theorem State.remoteStalls_fuses (s : State) (vat : Nat) (v : Vat) (run : StepRun) (reps : List MemberReport) : (State.remoteStalls s vat v run reps).fuses = s.fuses := by
  simp [State.remoteStalls, apply_ite State.fuses, foldl_fuses]
@[simp] theorem State.countLanes_fuses (s : State) (v : Vat) (run : StepRun) : (State.countLanes s v run).fuses = s.fuses := by
  simp [State.countLanes, apply_ite State.fuses, foldl_fuses]
@[simp] theorem State.overrunStep_fuses (s : State) (run : StepRun) : (State.overrunStep s run).fuses = s.fuses := by
  simp [State.overrunStep]
@[simp] theorem State.rejoin_fuses (s : State) (vat : Nat) : (State.rejoin s vat).fuses = s.fuses := by
  simp [State.rejoin, apply_ite State.fuses, foldl_fuses]
@[simp] theorem State.failGroup_fuses (s : State) (x : Nat) : (State.failGroup s x).fuses = s.fuses := by
  simp [State.failGroup, apply_ite State.fuses, foldl_fuses]
@[simp] theorem State.refreeze_fuses (s : State) : (State.refreeze s).fuses = s.fuses := by
  unfold State.refreeze
  dsimp only [-Nat.reducePow]
  (repeat' split) <;> (try simp [apply_ite State.fuses, foldl_fuses]) <;> (try (rw [foldl_fuses]; intro t a; (repeat' split) <;> simp [apply_ite State.fuses, foldl_fuses]))
@[simp] theorem State.gearBack_fuses (s : State) (run : StepRun) (reps : List MemberReport) : (State.gearBack s run reps).fuses = s.fuses := by
  unfold State.gearBack
  dsimp only [-Nat.reducePow]
  (repeat' split) <;> simp [apply_ite State.fuses, foldl_fuses]
@[simp] theorem State.endStep_fuses (s : State) (vat : Nat) (reps : List MemberReport) : (State.endStep s vat reps).fuses = s.fuses := by
  unfold State.endStep
  (repeat' split) <;> simp [apply_ite State.fuses, foldl_fuses]
@[simp] theorem State.defineVat_fuses (s : State) (c : Cmd) : (State.defineVat s c).fuses = s.fuses := by
  unfold State.defineVat
  dsimp only [-Nat.reducePow]
  (repeat' split) <;> simp [apply_ite State.fuses, foldl_fuses]
@[simp] theorem State.report_fuses (s : State) (c : Cmd) (st : Nat) (f : Option MouldFail) (l : Nat) (measure : List Byte) : (State.report s c st f l measure).fuses = s.fuses := by
  simp [State.report]
@[simp] theorem State.reported_fuses (s : State) (r : CmdRef) (op : Nat) (check : State → Cmd → Nat) (f : Cmd → State) (hf : ∀ y0, (f y0).fuses = s.fuses) : (State.reported s r op check f).fuses = s.fuses := by
  simp [State.reported, apply_ite State.fuses, foldl_fuses, hf]
@[simp] theorem State.loadMould_fuses (s : State) (c : Cmd) (sigOk : Bool) (met : LoadMet) : (State.loadMould s c sigOk met).fuses = s.fuses := by
  unfold State.loadMould
  dsimp only [-Nat.reducePow]
  (repeat' split) <;> simp [apply_ite State.fuses, foldl_fuses]
theorem State.reserve_fuses (s : State) (vat : Nat) (m : Mould) (l : Nat) : (s.reserve vat m l).2.1.fuses = s.fuses := by
  generalize h : s.reserve vat m l = r
  unfold State.reserve at h
  split at h
  · rw [← h]
  · split at h
    · rw [← h]
    · extract_lets used alt runs at h
      split at h
      · rw [← h]
      · obtain ⟨a, b, c⟩ := r
        injection h with h1 h2
        injection h2 with h3 h4
        rw [← h3, State.onMem_fuses]
        exact (State.holdFrames_fuses _ _ _).trans (State.holdFrames_fuses _ _ _)
theorem State.reserveAll_fuses (vat : Nat) (m : Mould) (l : List (Nat × Nat)) (s : State) (acc : SMap Placement) :
    (State.reserveAll vat m l s acc).2.1.fuses = s.fuses := by
  induction l generalizing s acc with
  | nil => rfl
  | cons p l ih =>
    obtain ⟨k, n⟩ := p
    rw [State.reserveAll]
    split
    · rfl
    · exact (ih _ _).trans ((State.onVat_fuses ..).trans (State.reserve_fuses ..))
theorem State.makeRegions_fuses (c vat : Nat) (l : List (Nat × Nat × Region)) (s : State) (acc : List Nat) :
    (State.makeRegions c vat l s acc).1.fuses = s.fuses := by
  induction l generalizing s acc with
  | nil => rfl
  | cons p l ih =>
    obtain ⟨k, i, r⟩ := p
    rw [State.makeRegions]
    split
    · rfl
    · rw [ih]; simp
@[simp] theorem State.bindReserve_fuses (s : State) (c : Cmd) : (State.bindReserve s c).fuses = s.fuses := by
  unfold State.bindReserve
  split
  · rfl
  · extract_lets vat loader es ws st r st' q t t'
    have hr : r.2.1.fuses = s.fuses := State.reserveAll_fuses _ _ _ _ _
    have hq : q.1.fuses = s.fuses := by
      simp only [q]
      split
      · exact hr
      · rw [State.makeRegions_fuses, hr]
    have h' : t'.fuses = s.fuses := by
      simp only [t']
      split <;> simp [t, hq]
    (repeat' split) <;> simp [h']
@[simp] theorem State.unreserve_fuses (s : State) (vat : Nat) : (State.unreserve s vat).fuses = s.fuses := by
  simp [State.unreserve]
@[simp] theorem State.bindCores_fuses (s : State) (vat : Nat) (m : Mould) (l : Nat) (pl : Placement) : (State.bindCores s vat m l pl).fuses = s.fuses := by
  simp [State.bindCores, apply_ite State.fuses, foldl_fuses]
@[simp] theorem State.storeAlternates_fuses (s : State) (m : Mould) (l : Nat) (pl : Placement) : (State.storeAlternates s m l pl).fuses = s.fuses := by
  simp [State.storeAlternates, apply_ite State.fuses, foldl_fuses]
@[simp] theorem State.bindComplete_fuses (s : State) (c : Cmd) (met : ReadErrs) : (State.bindComplete s c met).fuses = s.fuses := by
  unfold State.bindComplete
  dsimp only [-Nat.reducePow]
  (repeat' split) <;> simp [apply_ite State.fuses, foldl_fuses]
theorem State.giveParams_fuses {s t : State} {vat : Nat} {p : SessParams} (h : s.giveParams vat p = some t) : t.fuses = s.fuses := by
  unfold State.giveParams at h
  split at h
  · cases h
  · extract_lets u sums fs at h
    split at h
    · cases h
    · cases h
      simp [u]
@[simp] theorem State.configure_fuses (s : State) (c : Cmd) (members : List (Nat × Nat × Nat)) : (State.configure s c members).fuses = s.fuses := by
  unfold State.configure
  extract_lets b
  split
  · rfl
  · extract_lets ok blocks caves p other
    split
    · simp
    · split
      · simp
      · split
        · rename_i h
          simp [State.giveParams_fuses h]
        · simp
theorem State.giveParams_getD_fuses (s : State) (vat : Nat) (p : SessParams) : ((s.giveParams vat p).getD s).fuses = s.fuses := by
  cases h : s.giveParams vat p with
  | none => rfl
  | some t => exact State.giveParams_fuses h
@[simp] theorem State.takeParams_fuses (s : State) (vat : Nat) (ps : List Nat) : (State.takeParams s vat ps).fuses = s.fuses := by
  unfold State.takeParams
  split
  · rfl
  · extract_lets x p
    (repeat' split) <;> simp [State.giveParams_getD_fuses]
@[simp] theorem State.startAt_fuses (s : State) (vat x : Nat) : (State.startAt s vat x).fuses = s.fuses := by
  simp [State.startAt]
@[simp] theorem State.startVat_fuses (s : State) (c : Cmd) (members : List (Nat × Nat × Nat)) : (State.startVat s c members).fuses = s.fuses := by
  unfold State.startVat
  (repeat' split) <;> simp [apply_ite State.fuses, foldl_fuses]
@[simp] theorem State.setHalt_fuses (s : State) (vat b : Nat) : (State.setHalt s vat b).fuses = s.fuses := by
  unfold State.setHalt
  (repeat' split) <;> (try simp [apply_ite State.fuses, foldl_fuses]) <;> (try (intros; (repeat' split) <;> simp [apply_ite State.fuses, foldl_fuses]))
@[simp] theorem State.haltCmd_fuses (s : State) (c : Cmd) : (State.haltCmd s c).fuses = s.fuses := by
  unfold State.haltCmd
  (repeat' split) <;> (try simp [apply_ite State.fuses, foldl_fuses]) <;> (try (intros; (repeat' split) <;> simp [apply_ite State.fuses, foldl_fuses]))
@[simp] theorem State.othersHalted_fuses (s : State) (vat : Nat) : (State.othersHalted s vat).fuses = s.fuses := by
  simp [State.othersHalted, apply_ite State.fuses, foldl_fuses]
@[simp] theorem State.excuse_fuses (s : State) (vat : Nat) : (State.excuse s vat).fuses = s.fuses := by
  simp [State.excuse, apply_ite State.fuses, foldl_fuses]
@[simp] theorem State.releaseBeyond_fuses (s : State) (vat : Nat) (a b : Mould × Nat × Placement) : (State.releaseBeyond s vat a b).fuses = s.fuses := by
  simp [State.releaseBeyond, apply_ite State.fuses, foldl_fuses]
@[simp] theorem State.releasePlace_fuses (s : State) (vat : Nat) (m : Mould) (l : Nat) (pl : Placement) : (State.releasePlace s vat m l pl).fuses = s.fuses := by
  simp [State.releasePlace, apply_ite State.fuses, foldl_fuses]
@[simp] theorem State.unstage_fuses (s : State) (vat : Nat) : (State.unstage s vat).fuses = s.fuses := by
  unfold State.unstage
  (repeat' split) <;> simp [apply_ite State.fuses, foldl_fuses]
@[simp] theorem State.stepBack_fuses (s : State) (vat : Nat) : (State.stepBack s vat).fuses = s.fuses := by
  unfold State.stepBack
  (repeat' split) <;> simp [apply_ite State.fuses, foldl_fuses]
@[simp] theorem State.abandon_fuses (s : State) (vat status : Nat) : (State.abandon s vat status).fuses = s.fuses := by
  unfold State.abandon
  dsimp only [-Nat.reducePow]
  (repeat' split) <;> simp [apply_ite State.fuses, foldl_fuses]
@[simp] theorem State.unbindVat_fuses (s : State) (vat : Nat) (ref : Option CmdRef) : (State.unbindVat s vat ref).fuses = s.fuses := by
  unfold State.unbindVat
  (repeat' split) <;> (try simp [apply_ite State.fuses, foldl_fuses]) <;> (try (intros; (repeat' split) <;> simp [apply_ite State.fuses, foldl_fuses]))
@[simp] theorem State.othersGone_fuses (s : State) (vat : Nat) : (State.othersGone s vat).fuses = s.fuses := by
  simp [State.othersGone, apply_ite State.fuses, foldl_fuses]
@[simp] theorem State.sendHalt_fuses (s : State) (vat b : Nat) : (State.sendHalt s vat b).fuses = s.fuses := by
  unfold State.sendHalt
  (repeat' split) <;> simp [apply_ite State.fuses, foldl_fuses]
@[simp] theorem State.autoFresh_fuses (s : State) (vat : Nat) (ks : List RemouldKind) : (State.autoFresh s vat ks).fuses = s.fuses := by
  unfold State.autoFresh
  (repeat' split) <;> simp [apply_ite State.fuses, foldl_fuses]
@[simp] theorem State.doLater_fuses (s : State) (vat : Nat) (x : Later) : (State.doLater s vat x).fuses = s.fuses := by
  simp [State.doLater]
@[simp] theorem State.autoRemould_fuses (s : State) (vat : Nat) (k : RemouldKind) (loss : Bool) (wait : Later) : (State.autoRemould s vat k loss wait).fuses = s.fuses := by
  unfold State.autoRemould
  (repeat' split) <;> simp [apply_ite State.fuses, foldl_fuses]
@[simp] theorem State.noSpare_fuses (s : State) (vat : Nat) : (State.noSpare s vat).fuses = s.fuses := by
  unfold State.noSpare
  dsimp only [-Nat.reducePow]
  (repeat' split) <;> simp [apply_ite State.fuses, foldl_fuses]
@[simp] theorem State.replacePkg_fuses (s : State) (vat l : Nat) (loss : Bool) : (State.replacePkg s vat l loss).fuses = s.fuses := by
  unfold State.replacePkg
  (repeat' split) <;> simp [apply_ite State.fuses, foldl_fuses]
@[simp] theorem State.spareRemould_fuses (s : State) (vat l core : Nat) : (State.spareRemould s vat l core).fuses = s.fuses := by
  simp [State.spareRemould]
@[simp] theorem State.again_fuses (s : State) (vat : Nat) (ks : List RemouldKind) : (State.again s vat ks).fuses = s.fuses := by
  simp [State.again, apply_ite State.fuses, foldl_fuses]
@[simp] theorem State.lose_fuses (s : State) (vat node : Nat) : (State.lose s vat node).fuses = s.fuses := by
  unfold State.lose
  dsimp only [-Nat.reducePow]
  (repeat' split) <;> simp [apply_ite State.fuses, foldl_fuses]
@[simp] theorem State.coreRetired_fuses (s : State) (vat l core : Nat) : (State.coreRetired s vat l core).fuses = s.fuses := by
  unfold State.coreRetired
  (repeat' split) <;> simp [apply_ite State.fuses, foldl_fuses]
@[simp] theorem State.requested_fuses (s : State) (c : Cmd) (vat : Nat) (k : RemouldKind) (affected : List Nat) : (State.requested s c vat k affected).fuses = s.fuses := by
  unfold State.requested
  dsimp only [-Nat.reducePow]
  (repeat' split) <;> simp [apply_ite State.fuses, foldl_fuses]
@[simp] theorem State.remouldCmd_fuses (s : State) (inUse kvElse : Bool) (c : Cmd) : (State.remouldCmd s inUse kvElse c).fuses = s.fuses := by
  unfold State.remouldCmd
  (repeat' split) <;> simp [apply_ite State.fuses, foldl_fuses]
theorem State.growInto_fuses {s t : State} {vat : Nat} {m e : Mould} {l : Nat} {old pl p : Placement}
    (h : s.growInto vat m e l old pl = some (t, p)) : t.fuses = s.fuses := by
  unfold State.growInto at h
  extract_lets new more n runs at h
  split at h
  · cases h
  · obtain ⟨x, _, hx⟩ := Option.bind_eq_some_iff.mp h
    split at hx
    · cases hx
    · cases hx
      exact (State.onMem_fuses ..).trans ((State.holdFrames_fuses ..).trans (State.holdFrames_fuses ..))
theorem State.regrow_fuses (s : State) (vat : Nat) (m e : Mould) (l : Nat) (old : Placement) : (s.regrow vat m e l old).2.1.fuses = s.fuses := by
  unfold State.regrow
  split
  · rfl
  · split
    · rename_i r h
      obtain ⟨pl, _, hp⟩ := List.exists_of_findSome?_eq_some h
      exact State.growInto_fuses (t := r.1) (p := r.2) hp
    · rfl
theorem State.stageEntry_fuses (s : State) (v : Vat) (m d : Mould) (k : Nat) : (s.stageEntry v m d k).2.fuses = s.fuses := by
  unfold State.stageEntry
  extract_lets e l r
  split
  · rfl
  · have h : r.2.1.fuses = s.fuses := by
      simp only [r]
      split
      · exact State.regrow_fuses ..
      · rfl
    split
    · rfl
    · split
      · rfl
      · exact (State.onVat_fuses ..).trans h
theorem State.stageAll_fuses (v : Vat) (m d : Mould) (l : List Nat) (s : State) : (State.stageAll v m d l s).2.fuses = s.fuses := by
  induction l generalizing s with
  | nil => rfl
  | cons k l ih =>
    rw [State.stageAll]
    split
    · exact State.stageEntry_fuses ..
    · exact (ih _).trans (State.stageEntry_fuses ..)
theorem State.stageDelta_fuses (s : State) (v : Vat) (m d : Mould) : (s.stageDelta v m d).2.fuses = s.fuses := by
  unfold State.stageDelta
  extract_lets r
  split
  · rfl
  · exact (State.onRole_fuses ..).trans (State.stageAll_fuses ..)
theorem State.stageNew_fuses (s : State) (v : Vat) (m : Mould) : (s.stageNew v m).2.fuses = s.fuses := by
  unfold State.stageNew
  split
  · rfl
  · exact State.onRole_fuses ..
@[simp] theorem State.stageDone_fuses (s : State) (vat : Nat) (e : StageEnd) : (State.stageDone s vat e).fuses = s.fuses := by
  unfold State.stageDone
  split
  · rfl
  · extract_lets new u q st t
    split
    · rfl
    · skip
      have hu : u.fuses = s.fuses := State.unstage_fuses ..
      have hq : q.2.fuses = s.fuses := by
        simp only [q]
        split
        · split
          · exact (State.stageNew_fuses ..).trans hu
          · exact (State.stageDelta_fuses ..).trans hu
        · split
          · exact (State.stageNew_fuses ..).trans hu
          · exact hu
      have ht : t.fuses = s.fuses := by
        simp only [t]
        split
        · exact (State.onRole_fuses ..).trans hq
        · split
          · exact (State.pausePages_fuses ..).trans ((State.onRole_fuses ..).trans hq)
          · exact hq
      split
      · split
        · exact (State.abandon_fuses ..).trans hu
        · exact hu
      · exact (State.control_fuses ..).trans ht
@[simp] theorem State.zeroWorking_fuses (s : State) (vat : Nat) : (State.zeroWorking s vat).fuses = s.fuses := by
  unfold State.zeroWorking
  split
  · rfl
  · refine foldl_fuses (fun t p => ?_) _ s
    split <;> simp
@[simp] theorem State.readHeaders_fuses (s : State) (vat : Nat) : (State.readHeaders s vat).fuses = s.fuses := by
  unfold State.readHeaders
  (repeat' split) <;> simp [apply_ite State.fuses, foldl_fuses]
@[simp] theorem State.pullWeights_fuses (s : State) (vat k : Nat) : (State.pullWeights s vat k).fuses = s.fuses := by
  unfold State.pullWeights
  (repeat' split) <;> simp [apply_ite State.fuses, foldl_fuses]
@[simp] theorem State.takeMove_fuses (s : State) (vat k : Nat) : (State.takeMove s vat k).fuses = s.fuses := by
  unfold State.takeMove
  split
  · rfl
  · extract_lets l r bytes cold pl t t1 t2 t3
    have hr : r.2.1.fuses = s.fuses := by
      simp only [r]
      split
      · rfl
      · exact State.reserve_fuses _ _ _ _
    have ht : t.fuses = s.fuses := (State.onRole_fuses ..).trans hr
    have h1 : t1.fuses = s.fuses := (State.bindCores_fuses ..).trans ((State.onVat_fuses ..).trans ht)
    have h2 : t2.fuses = s.fuses := by
      simp only [t2]
      split
      · exact (State.pullWeights_fuses ..).trans h1
      · exact h1
    have h3 : t3.fuses = s.fuses := (State.onVat_fuses ..).trans ((State.giveParams_getD_fuses ..).trans h2)
    split
    · exact State.note_fuses ..
    · exact (State.onRole_fuses ..).trans ((State.readHeaders_fuses ..).trans ((State.zeroWorking_fuses ..).trans h3))
@[simp] theorem State.joinNew_fuses (s : State) (vat : Nat) : (State.joinNew s vat).fuses = s.fuses := by
  unfold State.joinNew
  (repeat' split) <;> simp [apply_ite State.fuses, foldl_fuses]
@[simp] theorem State.takeHalt_fuses (s : State) (vat b : Nat) (what : HaltFor) : (State.takeHalt s vat b what).fuses = s.fuses := by
  unfold State.takeHalt
  (repeat' split) <;> (try simp [apply_ite State.fuses, foldl_fuses]) <;> (try (intros; (repeat' split) <;> simp [apply_ite State.fuses, foldl_fuses]))
@[simp] theorem State.haltDue_fuses (s : State) : (State.haltDue s).fuses = s.fuses := by
  rw [State.haltDue]
  (repeat' split) <;> (try simp [apply_ite State.fuses, foldl_fuses]) <;> (try (rw [foldl_fuses] <;> (try (intro t a; (repeat' split) <;> simp [apply_ite State.fuses, foldl_fuses]))))
@[simp] theorem State.readyDue_fuses (s : State) : (State.readyDue s).fuses = s.fuses := by
  rw [State.readyDue]
  (repeat' split) <;> (try simp [apply_ite State.fuses, foldl_fuses]) <;> (try (rw [foldl_fuses] <;> (try (intro t a; (repeat' split) <;> simp [apply_ite State.fuses, foldl_fuses]))))
@[simp] theorem State.pauseLoaded_fuses (s : State) (vat status : Nat) : (State.pauseLoaded s vat status).fuses = s.fuses := by
  unfold State.pauseLoaded
  (repeat' split) <;> simp [apply_ite State.fuses, foldl_fuses]
@[simp] theorem State.sendResume_fuses (s : State) (vat : Nat) : (State.sendResume s vat).fuses = s.fuses := by
  unfold State.sendResume
  (repeat' split) <;> simp [apply_ite State.fuses, foldl_fuses]
@[simp] theorem State.memberReady_fuses (s : State) (vat l phase : Nat) : (State.memberReady s vat l phase).fuses = s.fuses := by
  unfold State.memberReady
  (repeat' split) <;> simp [apply_ite State.fuses, foldl_fuses]
@[simp] theorem State.applyMove_fuses (s : State) (vat k : Nat) : (State.applyMove s vat k).fuses = s.fuses := by
  simp [State.applyMove]
@[simp] theorem State.applyEntry_fuses (s : State) (vat : Nat) (m e : Mould) (l : Nat) (old pl : Placement) : (State.applyEntry s vat m e l old pl).fuses = s.fuses := by
  simp [State.applyEntry, apply_ite State.fuses, foldl_fuses]
@[simp] theorem State.applyEntries_fuses (s : State) (vat : Nat) (v : Vat) (m e : Mould) : (State.applyEntries s vat v m e).fuses = s.fuses := by
  unfold State.applyEntries
  dsimp only [-Nat.reducePow]
  (repeat' split) <;> (try simp [apply_ite State.fuses, foldl_fuses]) <;> (try (rw [foldl_fuses]; intro t a; (repeat' split) <;> simp [apply_ite State.fuses, foldl_fuses]))
@[simp] theorem State.applyDelta_fuses (s : State) (vat : Nat) : (State.applyDelta s vat).fuses = s.fuses := by
  unfold State.applyDelta
  (repeat' split) <;> simp [apply_ite State.fuses, foldl_fuses]
@[simp] theorem State.reofferAll_fuses (s : State) (vat : Nat) : (State.reofferAll s vat).fuses = s.fuses := by
  rw [State.reofferAll]
  (repeat' split) <;> (try simp [apply_ite State.fuses, foldl_fuses]) <;> (try (rw [foldl_fuses] <;> (try (intro t a; (repeat' split) <;> simp [apply_ite State.fuses, foldl_fuses]))))
@[simp] theorem State.resumeMember_fuses (s : State) (v : Vat) (m : Mould) (vat x : Nat) (moved : List Nat) : (State.resumeMember s v m vat x moved).fuses = s.fuses := by
  unfold State.resumeMember
  dsimp only [-Nat.reducePow]
  (repeat' split) <;> simp [apply_ite State.fuses, foldl_fuses]
@[simp] theorem State.resumeVat_fuses (s : State) (vat x : Nat) (moved : List Nat) : (State.resumeVat s vat x moved).fuses = s.fuses := by
  unfold State.resumeVat
  (repeat' split) <;> simp [apply_ite State.fuses, foldl_fuses]
@[simp] theorem State.lateRemoulds_fuses (s : State) (vat : Nat) : (State.lateRemoulds s vat).fuses = s.fuses := by
  unfold State.lateRemoulds
  refine (foldl_fuses (fun t x => ?_) _ _).trans (State.onRole_fuses ..)
  cases x with
  | pkg l loss => exact State.replacePkg_fuses ..
  | spare l c => exact State.spareRemould_fuses ..
@[simp] theorem State.enterRunning_fuses (s : State) : (State.enterRunning s).fuses = s.fuses := by
  unfold State.enterRunning
  dsimp only [-Nat.reducePow]
  (repeat' split) <;> (try simp [apply_ite State.fuses, foldl_fuses]) <;> (try (rw [foldl_fuses]; intro t a; (repeat' split) <;> simp [apply_ite State.fuses, foldl_fuses]))
@[simp] theorem State.sendReport_fuses (s : State) (vat : Nat) : (State.sendReport s vat).fuses = s.fuses := by
  unfold State.sendReport
  (repeat' split) <;> simp [apply_ite State.fuses, foldl_fuses]
@[simp] theorem State.deputyTakes_fuses (s : State) (vat : Nat) : (State.deputyTakes s vat).fuses = s.fuses := by
  unfold State.deputyTakes
  (repeat' split) <;> simp [apply_ite State.fuses, foldl_fuses]
@[simp] theorem State.takeTakeover_fuses (s : State) (vat sender : Nat) : (State.takeTakeover s vat sender).fuses = s.fuses := by
  unfold State.takeTakeover
  (repeat' split) <;> simp [apply_ite State.fuses, foldl_fuses]
@[simp] theorem State.copyCmd_fuses (s : State) (c : Cmd) (bad : ReadErrs) : (State.copyCmd s c bad).fuses = s.fuses := by
  unfold State.copyCmd
  extract_lets src st
  split <;> simp
@[simp] theorem State.copyOut_fuses (s : State) (c : Cmd) (bad : ReadErrs) : (State.copyOut s c bad).fuses = s.fuses := by
  simp [State.copyOut, apply_ite State.fuses, foldl_fuses]
@[simp] theorem State.sealBytes_fuses (s : State) (c : Cmd) (bad : ReadErrs) : (State.sealBytes s c bad).fuses = s.fuses := by
  unfold State.sealBytes
  dsimp only [-Nat.reducePow]
  (repeat' split) <;> simp [apply_ite State.fuses, foldl_fuses]
@[simp] theorem State.openWrite_fuses (s : State) (r : CmdRef) : (State.openWrite s r).fuses = s.fuses := by
  unfold State.openWrite
  (repeat' split) <;> simp
@[simp] theorem State.openBytes_fuses (s : State) (c : Cmd) : (State.openBytes s c).fuses = s.fuses := by
  unfold State.openBytes
  (repeat' split) <;> (try simp [apply_ite State.fuses, foldl_fuses]) <;> (try (intros; (repeat' split) <;> simp [apply_ite State.fuses, foldl_fuses]))
@[simp] theorem State.stopQueues_fuses (s : State) (c : Nat) : (State.stopQueues s c).fuses = s.fuses := by
  simp [State.stopQueues]
@[simp] theorem State.abandonFences_fuses (s : State) (c : Nat) : (State.abandonFences s c).fuses = s.fuses := by
  simp [State.abandonFences, apply_ite State.fuses, foldl_fuses]
@[simp] theorem State.dropHeld_fuses (s : State) (c : Nat) : (State.dropHeld s c).fuses = s.fuses := by
  simp [State.dropHeld]
@[simp] theorem State.closeSessions_fuses (s : State) (c : Nat) : (State.closeSessions s c).fuses = s.fuses := by
  unfold State.closeSessions
  (repeat' split) <;> (try simp [apply_ite State.fuses, foldl_fuses]) <;> (try (intros; (repeat' split) <;> simp [apply_ite State.fuses, foldl_fuses]))
@[simp] theorem State.freeObjects_fuses (s : State) (c : Nat) : (State.freeObjects s c).fuses = s.fuses := by
  simp [State.freeObjects, apply_ite State.fuses, foldl_fuses]
@[simp] theorem State.teardown_fuses (s : State) (c : Nat) (by' : Option CmdRef) : (State.teardown s c by').fuses = s.fuses := by
  unfold State.teardown
  (repeat' split) <;> (try simp [apply_ite State.fuses, foldl_fuses]) <;> (try (intros; (repeat' split) <;> simp [apply_ite State.fuses, foldl_fuses]))
@[simp] theorem State.freeContext_fuses (s : State) (c : Nat) : (State.freeContext s c).fuses = s.fuses := by
  unfold State.freeContext
  dsimp only [-Nat.reducePow]
  (repeat' split) <;> simp [apply_ite State.fuses, foldl_fuses]
@[simp] theorem State.regSqTail_fuses (s : State) (ctx q value : Nat) : (State.regSqTail s ctx q value).fuses = s.fuses := by
  simp [State.regSqTail]
@[simp] theorem State.regCqHead_fuses (s : State) (ctx q value : Nat) : (State.regCqHead s ctx q value).fuses = s.fuses := by
  simp [State.regCqHead]
@[simp] theorem State.reject_fuses (s : State) (c : Cmd) (status : Nat) (fence : Option Nat) : (State.reject s c status fence).fuses = s.fuses := by
  simp [State.reject]
@[simp] theorem State.rejectOwn_fuses (s : State) (c : Cmd) (status : Nat) : (State.rejectOwn s c status).fuses = s.fuses := by
  simp [State.rejectOwn, apply_ite State.fuses, foldl_fuses]
@[simp] theorem State.rejectArmed_fuses (s : State) (c : Cmd) (status : Nat) : (State.rejectArmed s c status).fuses = s.fuses := by
  simp [State.rejectArmed, apply_ite State.fuses, foldl_fuses]
@[simp] theorem State.atDispatch_fuses (s : State) (c : Cmd) : (State.atDispatch s c).fuses = s.fuses := by
  unfold State.atDispatch
  (repeat' split) <;> (try simp [apply_ite State.fuses, foldl_fuses]) <;> (try (intros; (repeat' split) <;> simp [apply_ite State.fuses, foldl_fuses]))
@[simp] theorem State.enrol_fuses (s : State) (c : Cmd) : (State.enrol s c).fuses = s.fuses := by
  unfold State.enrol
  (repeat' split) <;> (try simp [apply_ite State.fuses, foldl_fuses]) <;> (try (intros; (repeat' split) <;> simp [apply_ite State.fuses, foldl_fuses]))
theorem State.armCmd_fuses (s : State) (c : Cmd) : (s.armCmd c).1.fuses = s.fuses := by
  unfold State.armCmd
  split <;> simp
@[simp] theorem State.check_fuses (s : State) (c : Cmd) : (State.check s c).fuses = s.fuses := by
  unfold State.check
  extract_lets b ctx st q st1 st2 st3 st4
  have hq : q.1.fuses = s.fuses := State.armCmd_fuses _ _
  (repeat' split) <;> simp [hq]
theorem State.waitHead_fuses {s t : State} {c q : Nat} {u : Queue} {b : List Byte} (h : s.waitHead c q u b = .stay t) : t.fuses = s.fuses := by
  unfold State.waitHead at h
  extract_lets f at h
  (repeat' split at h) <;> cases h <;> simp
@[simp] theorem State.dispatch_fuses (s : State) (c q : Nat) : (State.dispatch s c q).fuses = s.fuses := by
  unfold State.dispatch
  split
  · rfl
  · extract_lets x go
    have hg : ∀ t, (go t).fuses = t.fuses := by
      intro t
      simp only [go]
      split <;> simp
    split
    · exact hg s
    · rename_i h; exact State.waitHead_fuses h
    · simp
    · split <;> simp [hg]
@[simp] theorem State.regFaultDone_fuses (s : State) (value : Nat) : (State.regFaultDone s value).fuses = s.fuses := by
  unfold State.regFaultDone
  (repeat' split) <;> (try simp [apply_ite State.fuses, foldl_fuses]) <;> (try (intros; (repeat' split) <;> simp [apply_ite State.fuses, foldl_fuses]))
@[simp] theorem State.regFaultEnable_fuses (s : State) (value : Nat) : (State.regFaultEnable s value).fuses = s.fuses := by simp [State.regFaultEnable]
@[simp] theorem State.sendFlit_fuses (s : State) (k : Nat) (f : Flit) : (State.sendFlit s k f).fuses = s.fuses := by
  simp [State.sendFlit]
@[simp] theorem State.sendAhead_fuses (s : State) (k : Nat) (f : Flit) : (State.sendAhead s k f).fuses = s.fuses := by
  simp [State.sendAhead]
@[simp] theorem State.discardFlit_fuses (s : State) (k : Nat) : (State.discardFlit s k).fuses = s.fuses := by
  simp [State.discardFlit]
@[simp] theorem State.trainPort_fuses (s : State) (k : Nat) : (State.trainPort s k).fuses = s.fuses := by
  simp [State.trainPort]
@[simp] theorem State.bringup_fuses (s : State) : (State.bringup s).fuses = s.fuses := by
  simp [State.bringup, apply_ite State.fuses, foldl_fuses]
@[simp] theorem State.regTrain_fuses (s : State) (port value : Nat) : (State.regTrain s port value).fuses = s.fuses := by
  simp [State.regTrain, apply_ite State.fuses, foldl_fuses]
@[simp] theorem State.regUnfence_fuses (s : State) (port value : Nat) : (State.regUnfence s port value).fuses = s.fuses := by
  simp [State.regUnfence, apply_ite State.fuses, foldl_fuses]
@[simp] theorem State.firstMarker_fuses (s : State) (k : Nat) : (State.firstMarker s k).fuses = s.fuses := by
  simp [State.firstMarker, apply_ite State.fuses, foldl_fuses]
@[simp] theorem State.leaveAlign_fuses (s : State) (k : Nat) : (State.leaveAlign s k).fuses = s.fuses := by
  simp [State.leaveAlign]
@[simp] theorem State.takeAlign_fuses (s : State) (k t phiQ : Nat) : (State.takeAlign s k t phiQ).fuses = s.fuses := by
  unfold State.takeAlign
  dsimp only [-Nat.reducePow]
  (repeat' split) <;> simp [apply_ite State.fuses, foldl_fuses]
@[simp] theorem State.fillTick_fuses (s : State) (k : Nat) : (State.fillTick s k).fuses = s.fuses := by
  simp [State.fillTick, apply_ite State.fuses, foldl_fuses]
@[simp] theorem State.sendMarkers_fuses (s : State) : (State.sendMarkers s).fuses = s.fuses := by
  simp [State.sendMarkers, apply_ite State.fuses, foldl_fuses]
@[simp] theorem State.portDown_fuses (s : State) (k : Nat) : (State.portDown s k).fuses = s.fuses := by
  simp [State.portDown, apply_ite State.fuses, foldl_fuses]
@[simp] theorem State.transmit_fuses (s : State) (k slot : Nat) (h0 h1 : Slot) : (State.transmit s k slot h0 h1).fuses = s.fuses := by
  unfold State.transmit
  (repeat' split) <;> simp [apply_ite State.fuses, foldl_fuses]
@[simp] theorem State.curdArrives_fuses (s : State) (k slot : Nat) (fl : Flit) : (State.curdArrives s k slot fl).fuses = s.fuses := by
  simp [State.curdArrives, apply_ite State.fuses, foldl_fuses]
@[simp] theorem State.voidLands_fuses (s : State) (vat node : Nat) : (State.voidLands s vat node).fuses = s.fuses := by
  simp [State.voidLands, apply_ite State.fuses, foldl_fuses]
@[simp] theorem State.landSlot_fuses (s : State) (k slot h : Nat) (x : Slot) : (State.landSlot s k slot h x).fuses = s.fuses := by
  simp [State.landSlot]
@[simp] theorem State.deliver_fuses (s : State) (k slot : Nat) : (State.deliver s k slot).fuses = s.fuses := by
  unfold State.deliver
  dsimp only [-Nat.reducePow]
  (repeat' split) <;> simp [apply_ite State.fuses, foldl_fuses]
@[simp] theorem State.popHeld_fuses (s : State) (c : Nat) : (State.popHeld s c).fuses = s.fuses := by
  simp [State.popHeld, apply_ite State.fuses, foldl_fuses]
@[simp] theorem State.wheyLeave_fuses (s : State) (out c : Nat) : (State.wheyLeave s out c).fuses = s.fuses := by
  simp [State.wheyLeave, apply_ite State.fuses, foldl_fuses]
@[simp] theorem State.wheyServe_fuses (s : State) (out : Nat) : (State.wheyServe s out).fuses = s.fuses := by
  unfold State.wheyServe
  dsimp only [-Nat.reducePow]
  (repeat' split) <;> simp [apply_ite State.fuses, foldl_fuses]
@[simp] theorem State.wheyDrops_fuses (s : State) (c : Nat) : (State.wheyDrops s c).fuses = s.fuses := by
  unfold State.wheyDrops
  (repeat' split) <;> simp [apply_ite State.fuses, foldl_fuses]
@[simp] theorem State.wheyRounds_fuses (n : Nat) (s : State) : (State.wheyRounds n s).fuses = s.fuses := by
  induction n generalizing s with
  | zero => rfl
  | succ n ih =>
    rw [State.wheyRounds, ih, foldl_fuses (fun t a => by simp), foldl_fuses (fun t a => by simp)]
@[simp] theorem State.wheyMove_fuses (s : State) : s.wheyMove.fuses = s.fuses := by
  unfold State.wheyMove
  rw [State.wheyRounds_fuses]
@[simp] theorem State.wheyOwn_fuses (s : State) (fs : List Flit) : (State.wheyOwn s fs).fuses = s.fuses := by
  simp [State.wheyOwn, apply_ite State.fuses, foldl_fuses]
@[simp] theorem State.drainWhey_fuses (s : State) (k vc : Nat) : (State.drainWhey s k vc).fuses = s.fuses := by
  unfold State.drainWhey
  (repeat' split) <;> simp [apply_ite State.fuses, foldl_fuses]
@[simp] theorem State.wheyArrives_fuses (s : State) (k vc : Nat) (fl : Flit) : (State.wheyArrives s k vc fl).fuses = s.fuses := by
  simp [State.wheyArrives]
@[simp] theorem State.marker_fuses (s : State) (k : Nat) (m : Marker) : (State.marker s k m).fuses = s.fuses := by
  unfold State.marker
  (repeat' split) <;> simp [apply_ite State.fuses, foldl_fuses]
@[simp] theorem State.movePairs_fuses (s : State) (v : Nat) : (State.movePairs s v).fuses = s.fuses := by
  simp [State.movePairs]
@[simp] theorem State.regBypassOpen_fuses (s : State) (value : Nat) : (State.regBypassOpen s value).fuses = s.fuses := by
  simp [State.regBypassOpen, apply_ite State.fuses, foldl_fuses]
@[simp] theorem State.pairDone_fuses (s : State) (p : Nat) : (State.pairDone s p).fuses = s.fuses := by
  unfold State.pairDone
  (repeat' split) <;> simp [apply_ite State.fuses, foldl_fuses]
@[simp] theorem State.regLinkCommit_fuses (s : State) (value : Nat) : (State.regLinkCommit s value).fuses = s.fuses := by
  simp [State.regLinkCommit, apply_ite State.fuses, foldl_fuses]
@[simp] theorem State.keySwitch_fuses (s : State) : (State.keySwitch s).fuses = s.fuses := by
  unfold State.keySwitch
  (repeat' split) <;> simp [apply_ite State.fuses, foldl_fuses]
@[simp] theorem State.refreshCap_fuses (s : State) : (State.refreshCap s).fuses = s.fuses := by
  simp [State.refreshCap, apply_ite State.fuses, foldl_fuses]
@[simp] theorem State.countBeats_fuses (s : State) : (State.countBeats s).fuses = s.fuses := by
  simp [State.countBeats]
@[simp] theorem State.setVault_fuses (s : State) (k : Nat) (b : Bool) : (State.setVault s k b).fuses = s.fuses := by
  simp [State.setVault]
@[simp] theorem State.loseComplex_fuses (s : State) (k cause : Nat) : (State.loseComplex s k cause).fuses = s.fuses := by
  simp [State.loseComplex, apply_ite State.fuses, foldl_fuses]
@[simp] theorem State.failComplex_fuses (s : State) (k cause : Nat) : (State.failComplex s k cause).fuses = s.fuses := by
  simp [State.failComplex, apply_ite State.fuses, foldl_fuses]
@[simp] theorem State.adminLost_fuses (s : State) : (State.adminLost s).fuses = s.fuses := by
  simp [State.adminLost, apply_ite State.fuses, foldl_fuses]
@[simp] theorem State.takeover_fuses (s : State) (k : Nat) : (State.takeover s k).fuses = s.fuses := by
  simp [State.takeover, apply_ite State.fuses, foldl_fuses]
@[simp] theorem State.redeliver_fuses (s : State) (k : Nat) : (State.redeliver s k).fuses = s.fuses := by
  simp [State.redeliver, apply_ite State.fuses, foldl_fuses]
@[simp] theorem State.keepSeen_fuses (s : State) (k : Nat) : (State.keepSeen s k).fuses = s.fuses := by
  simp [State.keepSeen, apply_ite State.fuses, foldl_fuses]
@[simp] theorem State.cutAdmin_fuses (s : State) (r : CmdRef) : (State.cutAdmin s r).fuses = s.fuses := by
  unfold State.cutAdmin
  (repeat' split) <;> simp [apply_ite State.fuses, foldl_fuses]
@[simp] theorem State.splitFence_fuses (s : State) (k : Nat) : (State.splitFence s k).fuses = s.fuses := by
  simp [State.splitFence, apply_ite State.fuses, foldl_fuses]
@[simp] theorem State.pathLost_fuses (s : State) (k : Nat) : (State.pathLost s k).fuses = s.fuses := by
  simp [State.pathLost, apply_ite State.fuses, foldl_fuses]
@[simp] theorem State.classifyPaths_fuses (s : State) : (State.classifyPaths s).fuses = s.fuses := by
  simp [State.classifyPaths, apply_ite State.fuses, foldl_fuses]
@[simp] theorem State.ccRefuse_fuses (s : State) : (State.ccRefuse s).fuses = s.fuses := by
  simp [State.ccRefuse]
@[simp] theorem State.unfenceHalf_fuses (s : State) (k : Nat) : (State.unfenceHalf s k).fuses = s.fuses := by
  simp [State.unfenceHalf, apply_ite State.fuses, foldl_fuses]
@[simp] theorem State.leaveHalf_fuses (s : State) (h : Nat) : (State.leaveHalf s h).fuses = s.fuses := by
  simp [State.leaveHalf, apply_ite State.fuses, foldl_fuses]
@[simp] theorem State.resumeHalf_fuses (s : State) (k : Nat) : (State.resumeHalf s k).fuses = s.fuses := by
  simp [State.resumeHalf, apply_ite State.fuses, foldl_fuses]
@[simp] theorem State.regSplitResume_fuses (s : State) (k : Nat) : (State.regSplitResume s k).fuses = s.fuses := by
  simp [State.regSplitResume, apply_ite State.fuses, foldl_fuses]
@[simp] theorem State.groupWrite_fuses (s : State) (k : Nat) (f : State → State) (hf : ∀ y0, (f y0).fuses = y0.fuses) : (State.groupWrite s k f).fuses = s.fuses := by
  simp [State.groupWrite, apply_ite State.fuses, foldl_fuses, hf]
@[simp] theorem State.syncHalf_fuses (s : State) (k : Nat) : (State.syncHalf s k).fuses = s.fuses := by
  simp [State.syncHalf, apply_ite State.fuses, foldl_fuses]
@[simp] theorem State.rejoinHalves_fuses (s : State) (k : Nat) : (State.rejoinHalves s k).fuses = s.fuses := by
  simp [State.rejoinHalves, apply_ite State.fuses, foldl_fuses]
@[simp] theorem State.regSplitRejoin_fuses (s : State) (k : Nat) : (State.regSplitRejoin s k).fuses = s.fuses := by
  simp [State.regSplitRejoin, apply_ite State.fuses, foldl_fuses]
@[simp] theorem State.lineRequest_fuses (s : State) (k : Nat) (w : Waiter) : (State.lineRequest s k w).fuses = s.fuses := by
  simp [State.lineRequest]
@[simp] theorem State.accessFault_fuses (s : State) (k hart line : Nat) (store : Bool) : (State.accessFault s k hart line store).fuses = s.fuses := by
  simp [State.accessFault]
@[simp] theorem State.regPeerRestart_fuses (s : State) (k value : Nat) : (State.regPeerRestart s k value).fuses = s.fuses := by
  simp [State.regPeerRestart, apply_ite State.fuses, foldl_fuses]
@[simp] theorem State.complexBack_fuses (s : State) (k : Nat) : (State.complexBack s k).fuses = s.fuses := by
  unfold State.complexBack
  extract_lets body
  split
  · rfl
  · exact (State.syncHalf_fuses _ _).trans ((State.onCc_fuses _ _).trans ((State.onCplx_fuses _ _ _).trans ((State.onCplx_fuses _ _ _).trans (State.dpaWrite_fuses _ _ _ _))))
@[simp] theorem State.unitError_fuses (s : State) (vat : Nat) (e : CoreErr) (order : Nat) : (State.unitError s vat e order).fuses = s.fuses := by
  simp [State.unitError]
@[simp] theorem State.bankError_fuses (s : State) (vat c a : Nat) : (State.bankError s vat c a).fuses = s.fuses := by
  simp [State.bankError]
@[simp] theorem State.bankCorrected_fuses (s : State) (c a : Nat) : (State.bankCorrected s c a).fuses = s.fuses := by
  simp [State.bankCorrected]
@[simp] theorem State.parityError_fuses (s : State) (vat c : Nat) : (State.parityError s vat c).fuses = s.fuses := by
  simp [State.parityError]
@[simp] theorem State.slotError_fuses (s : State) (vat c : Nat) : (State.slotError s vat c).fuses = s.fuses := by
  simp [State.slotError]
@[simp] theorem State.voidArrives_fuses (s : State) (vat c : Nat) : (State.voidArrives s vat c).fuses = s.fuses := by
  simp [State.voidArrives]
@[simp] theorem State.slotDiscarded_fuses (s : State) (vat c : Nat) : (State.slotDiscarded s vat c).fuses = s.fuses := by
  simp [State.slotDiscarded]
@[simp] theorem State.unitFaults_fuses (s : State) (vat c : Nat) (f : UnitFault) : (State.unitFaults s vat c f).fuses = s.fuses := by
  simp [State.unitFaults, apply_ite State.fuses, foldl_fuses]
@[simp] theorem State.unitOp_fuses (s : State) (c code : Nat) (w : OpWord) (f : UnitFault) (g : Core → Core) : (State.unitOp s c code w f g).fuses = s.fuses := by
  unfold State.unitOp
  (repeat' split) <;> simp [apply_ite State.fuses, foldl_fuses]
@[simp] theorem State.curdFence_fuses (s : State) (vat : Nat) (ps : Pieces) : (State.curdFence s vat ps).fuses = s.fuses := by
  unfold State.curdFence
  (repeat' split) <;> simp [apply_ite State.fuses, foldl_fuses]
@[simp] theorem State.beginReads_fuses (s : State) (ps : Pieces) : (State.beginReads s ps).fuses = s.fuses := by
  simp [State.beginReads]
@[simp] theorem State.moverGet_fuses (s : State) (c : Nat) (w : OpWord) (far : List Byte) (f : UnitFault) : (State.moverGet s c w far f).fuses = s.fuses := by
  unfold State.moverGet
  (repeat' split) <;> simp [apply_ite State.fuses, foldl_fuses]
@[simp] theorem State.curdWrite_fuses (ps : Pieces) (bs : List Byte) (s : State) : (s.curdWrite ps bs).fuses = s.fuses := by
  induction ps generalizing s bs with
  | nil => rfl
  | cons p ps ih =>
    rw [State.curdWrite, ih]
    split <;> simp
@[simp] theorem State.store_fuses (s : State) (ps : Pieces) (voids : List Nat) (first : Nat) (bs : List Byte) :
    (State.store s ps voids first bs).fuses = s.fuses := by simp [State.store]
@[simp] theorem State.moverPut_fuses (s : State) (c : Nat) (w : OpWord) (f : UnitFault) : (State.moverPut s c w f).fuses = s.fuses := by
  unfold State.moverPut
  (repeat' split) <;> simp [apply_ite State.fuses, foldl_fuses]
@[simp] theorem State.sendTo_fuses (s : State) (vat : Nat) (w : OpWord) (f : UnitFault) (bs : List Byte) (c : Nat) : (State.sendTo s vat w f bs c).fuses = s.fuses := by
  simp [State.sendTo, apply_ite State.fuses, foldl_fuses]
@[simp] theorem State.moverSend_fuses (s : State) (c : Nat) (w : OpWord) (f : UnitFault) : (State.moverSend s c w f).fuses = s.fuses := by
  unfold State.moverSend
  dsimp only [-Nat.reducePow]
  (repeat' split) <;> simp [apply_ite State.fuses, foldl_fuses]
@[simp] theorem State.moverGetx_fuses (s : State) (c : Nat) (w : OpWord) (far : List Byte) (f : UnitFault) : (State.moverGetx s c w far f).fuses = s.fuses := by
  unfold State.moverGetx
  dsimp only [-Nat.reducePow]
  (repeat' split) <;> simp [apply_ite State.fuses, foldl_fuses]
@[simp] theorem State.moverGetl_fuses (s : State) (c : Nat) (w : OpWord) (f : UnitFault) : (State.moverGetl s c w f).fuses = s.fuses := by
  unfold State.moverGetl
  (repeat' split) <;> simp [apply_ite State.fuses, foldl_fuses]
@[simp] theorem State.moverPutl_fuses (s : State) (c : Nat) (w : OpWord) (f : UnitFault) : (State.moverPutl s c w f).fuses = s.fuses := by
  unfold State.moverPutl
  dsimp only [-Nat.reducePow]
  (repeat' split) <;> (try simp [apply_ite State.fuses, foldl_fuses]) <;> (try (rw [foldl_fuses]; intro t a; (repeat' split) <;> simp [apply_ite State.fuses, foldl_fuses]))
@[simp] theorem State.readReady_fuses (s : State) (dpa : Nat) (ecc : Ecc) : (State.readReady s dpa ecc).fuses = s.fuses := by
  unfold State.readReady
  dsimp only [-Nat.reducePow]
  (repeat' split) <;> simp [apply_ite State.fuses, foldl_fuses]
@[simp] theorem State.slotLands_fuses (s : State) (vat router port : Nat) (x : Slot) (ecc : Ecc) : (State.slotLands s vat router port x ecc).fuses = s.fuses := by
  unfold State.slotLands
  (repeat' split) <;> simp [apply_ite State.fuses, foldl_fuses]
@[simp] theorem State.slotBy_fuses (s : State) (vat router : Nat) (x : Slot) (ecc : Ecc) (port : Nat) : (State.slotBy s vat router x ecc port).fuses = s.fuses := by
  unfold State.slotBy
  (repeat' split) <;> simp [apply_ite State.fuses, foldl_fuses]
@[simp] theorem State.slotMove_fuses (s : State) (router inPort outMask : Nat) (ecc : Ecc) : (State.slotMove s router inPort outMask ecc).fuses = s.fuses := by
  unfold State.slotMove
  (repeat' split) <;> simp [apply_ite State.fuses, foldl_fuses]
@[simp] theorem State.wheyDrop_fuses (s : State) : (State.wheyDrop s).fuses = s.fuses := by
  simp [State.wheyDrop]
@[simp] theorem State.wheyBad_fuses (s : State) (p : WheyPacket) : (State.wheyBad s p).fuses = s.fuses := by
  simp [State.wheyBad]
@[simp] theorem State.wheyTake_fuses (s : State) (p : WheyPacket) (ecc : Ecc) (f : State → State) (hf : ∀ y0, (f y0).fuses = y0.fuses) : (State.wheyTake s p ecc f).fuses = s.fuses := by
  unfold State.wheyTake
  (repeat' split) <;> simp [apply_ite State.fuses, foldl_fuses, hf]
@[simp] theorem State.wheyDeliver_fuses (s : State) (p : WheyPacket) : (State.wheyDeliver s p).fuses = s.fuses := by
  unfold State.wheyDeliver
  (repeat' split) <;> simp [apply_ite State.fuses, foldl_fuses]
@[simp] theorem State.wheyForward_fuses (s : State) (router inPort : Nat) (ecc : Ecc) : (State.wheyForward s router inPort ecc).fuses = s.fuses := by
  unfold State.wheyForward
  dsimp only [-Nat.reducePow]
  (repeat' split) <;> simp [apply_ite State.fuses, foldl_fuses]
@[simp] theorem State.wheyRead_fuses (s : State) (p : WheyPacket) (ecc : Ecc) : (State.wheyRead s p ecc).fuses = s.fuses := by
  unfold State.wheyRead
  (repeat' split) <;> simp [apply_ite State.fuses, foldl_fuses]
@[simp] theorem State.wheyArrive_fuses (s : State) (write : Bool) (p : WheyPacket) (ecc : Ecc) (f : State → State) (hf : ∀ y0, (f y0).fuses = y0.fuses) : (State.wheyArrive s write p ecc f).fuses = s.fuses := by
  unfold State.wheyArrive
  (repeat' split) <;> simp [apply_ite State.fuses, foldl_fuses, hf]
@[simp] theorem State.wheyWrite_fuses (s : State) (p : WheyPacket) : (State.wheyWrite s p).fuses = s.fuses := by
  simp [State.wheyWrite, apply_ite State.fuses, foldl_fuses]
@[simp] theorem State.regWinCommit_fuses (s : State) (window value : Nat) : (State.regWinCommit s window value).fuses = s.fuses := by
  simp [State.regWinCommit, apply_ite State.fuses, foldl_fuses]
@[simp] theorem State.windowAnswer_fuses (s : State) (src tag st : Nat) (bs : List Byte) : (State.windowAnswer s src tag st bs).fuses = s.fuses := by
  simp [State.windowAnswer, apply_ite State.fuses, foldl_fuses]
@[simp] theorem State.windowWrite_fuses (s : State) (vat base off : Nat) (bs : List Byte) : (State.windowWrite s vat base off bs).fuses = s.fuses := by
  simp [State.windowWrite]
@[simp] theorem State.mcGrants_fuses (n : Nat) (s : State) : (s.mcGrants n).fuses = s.fuses := by
  induction n generalizing s with
  | zero => rfl
  | succ n ih =>
    rw [State.mcGrants]
    split
    · rfl
    · split
      · rfl
      · rw [ih]; simp
@[simp] theorem State.mcPool_fuses (s : State) : (State.mcPool s).fuses = s.fuses := by simp [State.mcPool]
@[simp] theorem State.mcReserve_fuses (s : State) (src vat tag len window off : Nat) : (State.mcReserve s src vat tag len window off).fuses = s.fuses := by
  simp [State.mcReserve, apply_ite State.fuses, foldl_fuses]
@[simp] theorem State.mcData_fuses (s : State) (m : McTarget) (off : Nat) (bs : List Byte) : (State.mcData s m off bs).fuses = s.fuses := by
  simp [State.mcData, apply_ite State.fuses, foldl_fuses]
@[simp] theorem State.mcCommit_fuses (s : State) (src tag : Nat) : (State.mcCommit s src tag).fuses = s.fuses := by
  unfold State.mcCommit
  (repeat' split) <;> simp [apply_ite State.fuses, foldl_fuses]
@[simp] theorem State.mcStart_fuses (s : State) (m : McSource) : (State.mcStart s m).fuses = s.fuses := by
  simp [State.mcStart, apply_ite State.fuses, foldl_fuses]
@[simp] theorem State.mcSend_fuses (s : State) (node : Nat) (m : McSource) : (State.mcSend s node m).fuses = s.fuses := by
  simp [State.mcSend, apply_ite State.fuses, foldl_fuses]
@[simp] theorem State.mcGrant_fuses (s : State) (target tag status : Nat) : (State.mcGrant s target tag status).fuses = s.fuses := by
  unfold State.mcGrant
  (repeat' split) <;> simp [apply_ite State.fuses, foldl_fuses]
@[simp] theorem State.mcAck_fuses (s : State) (target tag : Nat) : (State.mcAck s target tag).fuses = s.fuses := by
  unfold State.mcAck
  (repeat' split) <;> simp [apply_ite State.fuses, foldl_fuses]
@[simp] theorem State.mcStall_fuses (s : State) (tag : Nat) : (State.mcStall s tag).fuses = s.fuses := by
  unfold State.mcStall
  (repeat' split) <;> simp [apply_ite State.fuses, foldl_fuses]
@[simp] theorem State.windowServe_fuses (s : State) (src vat tag dpa len : Nat) (data : Option (List Byte)) (bad : ReadErrs) : (State.windowServe s src vat tag dpa len data bad).fuses = s.fuses := by
  unfold State.windowServe
  (repeat' split) <;> simp [apply_ite State.fuses, foldl_fuses]
@[simp] theorem State.windowAsk_fuses (s : State) (cls src vat tag dpa len : Nat) (data : Option (List Byte)) (bad : ReadErrs) : (State.windowAsk s cls src vat tag dpa len data bad).fuses = s.fuses := by
  simp [State.windowAsk]
@[simp] theorem State.windowAccess_fuses (s : State) (src : Nat) (write : Bool) (p : WheyPacket) (bad : ReadErrs) : (State.windowAccess s src write p bad).fuses = s.fuses := by
  unfold State.windowAccess
  dsimp only [-Nat.reducePow]
  (repeat' split) <;> simp [apply_ite State.fuses, foldl_fuses]
@[simp] theorem State.preempt_fuses (s : State) (r : ArbReq) : (State.preempt s r).fuses = s.fuses := by
  unfold State.preempt
  (repeat' split) <;> simp [apply_ite State.fuses, foldl_fuses]
@[simp] theorem State.wheyActivity_fuses (s : State) (a : Nat) (r : ArbReq) : (State.wheyActivity s a r).fuses = s.fuses := by
  unfold State.wheyActivity
  (repeat' split) <;> simp [apply_ite State.fuses, foldl_fuses]
@[simp] theorem State.workActs_fuses (s : State) (w : ArbWork) : (State.workActs s w).fuses = s.fuses := by
  unfold State.workActs
  (repeat' split) <;> (try simp [apply_ite State.fuses, foldl_fuses]) <;> (try (intros; (repeat' split) <;> simp [apply_ite State.fuses, foldl_fuses]))
@[simp] theorem State.arbDecide_fuses (s : State) (a : Nat) : (State.arbDecide s a).fuses = s.fuses := by
  unfold State.arbDecide
  (repeat' split) <;> (try simp [apply_ite State.fuses, foldl_fuses]) <;> (try (intros; (repeat' split) <;> simp [apply_ite State.fuses, foldl_fuses]))
@[simp] theorem State.regQosCommit_fuses (s : State) (value : Nat) : (State.regQosCommit s value).fuses = s.fuses := by
  simp [State.regQosCommit, apply_ite State.fuses, foldl_fuses]
@[simp] theorem State.regFuncCommit_fuses (s : State) (f value : Nat) : (State.regFuncCommit s f value).fuses = s.fuses := by
  simp [State.regFuncCommit, apply_ite State.fuses, foldl_fuses]
@[simp] theorem State.countWaits_fuses (s : State) : (State.countWaits s).fuses = s.fuses := by
  simp [State.countWaits]
@[simp] theorem State.excuseTick_fuses (s : State) : (State.excuseTick s).fuses = s.fuses := by
  simp [State.excuseTick]
@[simp] theorem State.newTick_fuses (s : State) : (State.newTick s).fuses = s.fuses := by
  simp [State.newTick, apply_ite State.fuses, foldl_fuses]
@[simp] theorem State.enterHoldover_fuses (s : State) (status : Nat) : (State.enterHoldover s status).fuses = s.fuses := by
  simp [State.enterHoldover]
@[simp] theorem State.tickEdge_fuses (s : State) (frame inTol : Bool) (stalls : List Stall) : (State.tickEdge s frame inTol stalls).fuses = s.fuses := by
  unfold State.tickEdge
  dsimp only [-Nat.reducePow]
  (repeat' split) <;> simp [apply_ite State.fuses, foldl_fuses]
@[simp] theorem State.tickMissing_fuses (s : State) : (State.tickMissing s).fuses = s.fuses := by
  unfold State.tickMissing
  (repeat' split) <;> simp [apply_ite State.fuses, foldl_fuses]
@[simp] theorem State.regLoadCommit_fuses (s : State) (value : Nat) : (State.regLoadCommit s value).fuses = s.fuses := by
  simp [State.regLoadCommit, apply_ite State.fuses, foldl_fuses]
@[simp] theorem State.setCount_fuses (s : State) (v : Nat) : (State.setCount s v).fuses = s.fuses := by
  simp [State.setCount]
@[simp] theorem State.applyLoad_fuses (s : State) : (State.applyLoad s).fuses = s.fuses := by
  unfold State.applyLoad
  (repeat' split) <;> simp [apply_ite State.fuses, foldl_fuses]
@[simp] theorem State.overrun_fuses (s : State) : (State.overrun s).fuses = s.fuses := by
  simp [State.overrun, apply_ite State.fuses, foldl_fuses]
@[simp] theorem State.stretch_fuses (s : State) (cycle : Nat) : (State.stretch s cycle).fuses = s.fuses := by
  unfold State.stretch
  (repeat' split) <;> simp [apply_ite State.fuses, foldl_fuses]
@[simp] theorem State.pllLocked_fuses (s : State) : (State.pllLocked s).fuses = s.fuses := by
  unfold State.pllLocked
  dsimp only [-Nat.reducePow]
  (repeat' split) <;> simp [apply_ite State.fuses, foldl_fuses]
@[simp] theorem State.gearAck_fuses (s : State) (node gear seq : Nat) : (State.gearAck s node gear seq).fuses = s.fuses := by
  simp [State.gearAck, apply_ite State.fuses, foldl_fuses]
@[simp] theorem State.gearChange_fuses (s : State) : (State.gearChange s).fuses = s.fuses := by
  simp [State.gearChange, apply_ite State.fuses, foldl_fuses]
@[simp] theorem State.gearReq_fuses (s : State) (node arg : Nat) : (State.gearReq s node arg).fuses = s.fuses := by
  unfold State.gearReq
  dsimp only [-Nat.reducePow]
  (repeat' split) <;> simp [apply_ite State.fuses, foldl_fuses]
@[simp] theorem State.tblLoad_fuses (s : State) (c : Nat) (w : OpWord) (f : UnitFault) : (State.tblLoad s c w f).fuses = s.fuses := by
  unfold State.tblLoad
  (repeat' split) <;> simp [apply_ite State.fuses, foldl_fuses]
@[simp] theorem State.pressErrors_fuses (s : State) (vat c : Nat) (w : OpWord) (errs : List PressErr) : (State.pressErrors s vat c w errs).fuses = s.fuses := by
  unfold State.pressErrors
  dsimp only [-Nat.reducePow]
  (repeat' split) <;> simp [apply_ite State.fuses, foldl_fuses]
@[simp] theorem State.decode_fuses (s : State) (c : Nat) (w : OpWord) (f : UnitFault) : (State.decode s c w f).fuses = s.fuses := by
  unfold State.decode
  (repeat' split) <;> simp [apply_ite State.fuses, foldl_fuses]
@[simp] theorem State.onStack_fuses (s : State) (q : Nat) (f : StackRegs → StackRegs) : (State.onStack s q f).fuses = s.fuses := by
  simp [State.onStack]
@[simp] theorem State.scrubRead_fuses (s : State) (q ca : Nat) (e : Ecc) : (State.scrubRead s q ca e).fuses = s.fuses := by
  unfold State.scrubRead
  (repeat' split) <;> simp [apply_ite State.fuses, foldl_fuses]
@[simp] theorem State.onCxlPort_fuses (s : State) (p : Nat) (f : CxlPort → CxlPort) : (State.onCxlPort s p f).fuses = s.fuses := by
  simp [State.onCxlPort]
@[simp] theorem State.onCxlDev_fuses (s : State) (k : Nat) (f : CxlDev → CxlDev) : (State.onCxlDev s k f).fuses = s.fuses := by
  simp [State.onCxlDev]
@[simp] theorem State.addExtent_fuses (s : State) (p d off bytes : Nat) : (State.addExtent s p d off bytes).fuses = s.fuses := by
  unfold State.addExtent
  (repeat' split) <;> simp [apply_ite State.fuses, foldl_fuses]
@[simp] theorem State.loseCommands_fuses (s : State) (fr n : Nat) : (State.loseCommands s fr n).fuses = s.fuses := by
  simp [State.loseCommands, apply_ite State.fuses, foldl_fuses]
@[simp] theorem State.loseSession_fuses (s : State) (vat fr n i : Nat) : (State.loseSession s vat fr n i).fuses = s.fuses := by
  unfold State.loseSession
  (repeat' split) <;> (try simp [apply_ite State.fuses, foldl_fuses]) <;> (try (intros; (repeat' split) <;> simp [apply_ite State.fuses, foldl_fuses]))
@[simp] theorem State.loseSessions_fuses (s : State) (fr n : Nat) : (State.loseSessions s fr n).fuses = s.fuses := by
  unfold State.loseSessions
  (repeat' split) <;> (try simp [apply_ite State.fuses, foldl_fuses]) <;> (try (intros; (repeat' split) <;> simp [apply_ite State.fuses, foldl_fuses]))
@[simp] theorem State.loseExtent_fuses (s : State) (e : Nat) : (State.loseExtent s e).fuses = s.fuses := by
  unfold State.loseExtent
  (repeat' split) <;> (try simp [apply_ite State.fuses, foldl_fuses]) <;> (try (intros; (repeat' split) <;> simp [apply_ite State.fuses, foldl_fuses]))
@[simp] theorem State.loseExtents_fuses (s : State) (p : Extent → Bool) : (State.loseExtents s p).fuses = s.fuses := by
  unfold State.loseExtents
  (repeat' split) <;> (try simp [apply_ite State.fuses, foldl_fuses]) <;> (try (intros; (repeat' split) <;> simp [apply_ite State.fuses, foldl_fuses]))
@[simp] theorem State.bootKeys_fuses (s : State) : (State.bootKeys s).fuses = s.fuses := by
  simp [State.bootKeys]
@[simp] theorem State.wipeKeys_fuses (s : State) : (State.wipeKeys s).fuses = s.fuses := by
  simp [State.wipeKeys]
@[simp] theorem State.kvAnswer_fuses (s : State) (status result : Nat) : (State.kvAnswer s status result).fuses = s.fuses := by
  simp [State.kvAnswer]
@[simp] theorem State.kvStart_fuses (s : State) (op : Nat) : (State.kvStart s op).fuses = s.fuses := by
  simp [State.kvStart, apply_ite State.fuses, foldl_fuses]
@[simp] theorem State.reportFor_fuses (s : State) (sig : List Byte) : (State.reportFor s sig).fuses = s.fuses := by
  unfold State.reportFor
  (repeat' split) <;> simp [apply_ite State.fuses, foldl_fuses]
@[simp] theorem State.fillVatSlots_fuses (s : State) (vat : Nat) (x : List Byte) : (State.fillVatSlots s vat x).fuses = s.fuses := by
  unfold State.fillVatSlots
  (repeat' split) <;> simp [apply_ite State.fuses, foldl_fuses]
@[simp] theorem State.loadSeal_fuses (s : State) (b key : List Byte) : (State.loadSeal s b key).fuses = s.fuses := by
  unfold State.loadSeal
  (repeat' split) <;> simp [apply_ite State.fuses, foldl_fuses]
@[simp] theorem State.applyCapsule_fuses (s : State) (b p : List Byte) : (State.applyCapsule s b p).fuses = s.fuses := by
  simp [State.applyCapsule, apply_ite State.fuses, foldl_fuses]
@[simp] theorem State.abortSlot_fuses (s : State) (k : Nat) : (State.abortSlot s k).fuses = s.fuses := by
  simp [State.abortSlot, apply_ite State.fuses, foldl_fuses]
@[simp] theorem State.patternFrame_fuses (s : State) (fr : Nat) : (State.patternFrame s fr).fuses = s.fuses := by
  simp [State.patternFrame]
@[simp] theorem State.washedVat_fuses (s : State) (vat : Nat) : (State.washedVat s vat).fuses = s.fuses := by
  unfold State.washedVat
  dsimp only [-Nat.reducePow]
  (repeat' split) <;> simp [apply_ite State.fuses, foldl_fuses]
@[simp] theorem State.washDone_fuses (s : State) (w : Nat) (x : Wash) : (State.washDone s w x).fuses = s.fuses := by
  unfold State.washDone
  (repeat' split) <;> simp [apply_ite State.fuses, foldl_fuses]
@[simp] theorem State.dump_fuses (s : State) (cause kind index tick : Nat) (cut : Bool) : (State.dump s cause kind index tick cut).fuses = s.fuses := by
  simp [State.dump, apply_ite State.fuses, foldl_fuses]
@[simp] theorem State.cleared_fuses (s : State) : (State.cleared s).fuses = s.fuses := by
  simp [State.cleared]
@[simp] theorem State.loseObjects_fuses (s : State) (q : Nat) : (State.loseObjects s q).fuses = s.fuses := by
  simp [State.loseObjects]
@[simp] theorem State.giveUp_fuses (s : State) (p : Cmd → Bool) : (State.giveUp s p).fuses = s.fuses := by
  simp [State.giveUp, apply_ite State.fuses, foldl_fuses]
@[simp] theorem State.fenceEffect_fuses (s : State) (kind index : Nat) : (State.fenceEffect s kind index).fuses = s.fuses := by
  unfold State.fenceEffect
  (repeat' split) <;> (try simp [apply_ite State.fuses, foldl_fuses]) <;> (try (intros; (repeat' split) <;> simp [apply_ite State.fuses, foldl_fuses]))
@[simp] theorem State.onReset_fuses (s : State) (kind index : Nat) (f : DomReset → DomReset) : (State.onReset s kind index f).fuses = s.fuses := by
  simp [State.onReset]
@[simp] theorem State.emptyArb_fuses (s : State) (a : Nat) : (State.emptyArb s a).fuses = s.fuses := by
  unfold State.emptyArb
  (repeat' split) <;> (try simp [apply_ite State.fuses, foldl_fuses]) <;> (try (intros; (repeat' split) <;> simp [apply_ite State.fuses, foldl_fuses]))
@[simp] theorem State.drain_fuses (s : State) (kind index : Nat) : (State.drain s kind index).fuses = s.fuses := by
  unfold State.drain
  (repeat' split) <;> (try simp [apply_ite State.fuses, foldl_fuses]) <;> (try (intros; (repeat' split) <;> simp [apply_ite State.fuses, foldl_fuses]))
@[simp] theorem State.clearStack_fuses (s : State) (q : Nat) : (State.clearStack s q).fuses = s.fuses := by
  simp [State.clearStack]
@[simp] theorem State.resetDomain_fuses (s : State) (kind index : Nat) : (State.resetDomain s kind index).fuses = s.fuses := by
  unfold State.resetDomain
  (repeat' split) <;> simp [apply_ite State.fuses, foldl_fuses]
@[simp] theorem State.hostBack_fuses (s : State) : (State.hostBack s).fuses = s.fuses := by
  unfold State.hostBack
  exact (State.writeBatches_fuses _ _).trans ((foldl_fuses (fun t f => State.sendPending_fuses _ _) _ _).trans (State.postHeld_fuses _))
@[simp] theorem State.finishReset_fuses (s : State) (r : DomReset) : (State.finishReset s r).fuses = s.fuses := by
  unfold State.finishReset
  extract_lets t t1 t2
  have h : t.fuses = s.fuses := by
    simp only [t]
    split
    · exact State.dump_fuses ..
    · rfl
  have h2 : t2.fuses = s.fuses := (State.onFlt_fuses _ _).trans ((State.resetDomain_fuses _ _ _).trans h)
  split
  · exact (State.hostBack_fuses _).trans h2
  · exact h2
@[simp] theorem State.routerFault_fuses (s : State) (r : Nat) : (State.routerFault s r).fuses = s.fuses := by
  simp [State.routerFault, apply_ite State.fuses, foldl_fuses]
@[simp] theorem State.putCal_fuses (s : State) (r : CalRec) : (State.putCal s r).fuses = s.fuses := by
  simp [State.putCal]
@[simp] theorem State.creditCtx_fuses (s : State) (c : Nat) (e : Frac) : (State.creditCtx s c e).fuses = s.fuses := by
  simp [State.creditCtx]
@[simp] theorem State.creditVat_fuses (s : State) (v : Vat) (r : StepRun) (e : Frac) : (State.creditVat s v r e).fuses = s.fuses := by
  simp [State.creditVat, apply_ite State.fuses, foldl_fuses]
@[simp] theorem State.attributeEnergy_fuses (s : State) (r : CalRec) (total dyn : Frac) : (State.attributeEnergy s r total dyn).fuses = s.fuses := by
  simp [State.attributeEnergy, apply_ite State.fuses, foldl_fuses]
@[simp] theorem State.guard_fuses (s : State) (cls tag : Nat) : (State.guard s cls tag).fuses = s.fuses := by
  simp [State.guard, apply_ite State.fuses, foldl_fuses]
@[simp] theorem State.estimate_fuses (s : State) (counts : List Nat) : (State.estimate s counts).fuses = s.fuses := by
  simp [State.estimate]
@[simp] theorem State.clearTrim_fuses (s : State) (g : Nat) : (State.clearTrim s g).fuses = s.fuses := by
  simp [State.clearTrim, apply_ite State.fuses, foldl_fuses]
@[simp] theorem State.sendRest_fuses (s : State) : (State.sendRest s).fuses = s.fuses := by
  simp [State.sendRest, apply_ite State.fuses, foldl_fuses]
@[simp] theorem State.askGear_fuses (s : State) (m : GearMsg) : (State.askGear s m).fuses = s.fuses := by
  simp [State.askGear, apply_ite State.fuses, foldl_fuses]
@[simp] theorem State.updateGear_fuses (s : State) : (State.updateGear s).fuses = s.fuses := by
  unfold State.updateGear
  (repeat' split) <;> simp [apply_ite State.fuses, foldl_fuses]
@[simp] theorem State.setTherm_fuses (s : State) (k : Nat) : (State.setTherm s k).fuses = s.fuses := by
  simp [State.setTherm]
@[simp] theorem State.capUpdate_fuses (s : State) : (State.capUpdate s).fuses = s.fuses := by
  unfold State.capUpdate
  dsimp only [-Nat.reducePow]
  (repeat' split) <;> simp [apply_ite State.fuses, foldl_fuses]
@[simp] theorem State.enterHot_fuses (s : State) : (State.enterHot s).fuses = s.fuses := by
  simp [State.enterHot]
@[simp] theorem State.tenantWindow_fuses (s : State) : (State.tenantWindow s).fuses = s.fuses := by
  simp [State.tenantWindow]
@[simp] theorem State.regPwrCommit_fuses (s : State) (value : Nat) : (State.regPwrCommit s value).fuses = s.fuses := by
  simp [State.regPwrCommit, apply_ite State.fuses, foldl_fuses]
@[simp] theorem State.enterCellar_fuses (s : State) : (State.enterCellar s).fuses = s.fuses := by
  simp [State.enterCellar, apply_ite State.fuses, foldl_fuses]
@[simp] theorem State.regCellarReq_fuses (s : State) (value : Nat) : (State.regCellarReq s value).fuses = s.fuses := by
  simp [State.regCellarReq, apply_ite State.fuses, foldl_fuses]
@[simp] theorem State.wake_fuses (s : State) : (State.wake s).fuses = s.fuses := by
  simp [State.wake, apply_ite State.fuses, foldl_fuses]
@[simp] theorem State.regCellarExit_fuses (s : State) (value : Nat) : (State.regCellarExit s value).fuses = s.fuses := by
  simp [State.regCellarExit, apply_ite State.fuses, foldl_fuses]
@[simp] theorem State.bootFail_fuses (s : State) (e : Nat) : (State.bootFail s e).fuses = s.fuses := by
  simp [State.bootFail]
@[simp] theorem State.toStage_fuses (s : State) (k : Nat) : (State.toStage s k).fuses = s.fuses := by
  simp [State.toStage]
@[simp] theorem State.bootJournals_fuses (s : State) (lost : List Nat) : (State.bootJournals s lost).fuses = s.fuses := by
  simp [State.bootJournals, apply_ite State.fuses, foldl_fuses]
@[simp] theorem State.stage1_fuses (s : State) (r : StageResult) : (State.stage1 s r).fuses = s.fuses := by
  simp [State.stage1, apply_ite State.fuses, foldl_fuses]
@[simp] theorem State.stage4_fuses (s : State) (r : StageResult) : (State.stage4 s r).fuses = s.fuses := by
  simp [State.stage4, apply_ite State.fuses, foldl_fuses]
@[simp] theorem State.awaitAgain_fuses (s : State) (e : Nat) : (State.awaitAgain s e).fuses = s.fuses := by
  simp [State.awaitAgain]
@[simp] theorem State.regStarterGo_fuses (s : State) (value : Nat) : (State.regStarterGo s value).fuses = s.fuses := by
  simp [State.regStarterGo, apply_ite State.fuses, foldl_fuses]
@[simp] theorem State.loadStored_fuses (s : State) : (State.loadStored s).fuses = s.fuses := by
  rw [State.loadStored]
  (repeat' split) <;> (try simp [apply_ite State.fuses, foldl_fuses]) <;> (try (rw [foldl_fuses] <;> (try (intro t a; (repeat' split) <;> simp [apply_ite State.fuses, foldl_fuses]))))
@[simp] theorem State.bootUnits_fuses (s : State) : (State.bootUnits s).fuses = s.fuses := by
  simp [State.bootUnits, apply_ite State.fuses, foldl_fuses]
@[simp] theorem State.placeImage_fuses (s : State) (body : List Byte) : (State.placeImage s body).fuses = s.fuses := by
  simp [State.placeImage]
@[simp] theorem State.bringUp_fuses (s : State) (b body : List Byte) : (State.bringUp s b body).fuses = s.fuses := by
  simp [State.bringUp, apply_ite State.fuses, foldl_fuses]
@[simp] theorem State.startStarter_fuses (s : State) (h body : List Byte) : (State.startStarter s h body).fuses = s.fuses := by
  unfold State.startStarter
  dsimp only [-Nat.reducePow]
  (repeat' split) <;> simp [apply_ite State.fuses, foldl_fuses]
@[simp] theorem State.openAdmin_fuses (s : State) : (State.openAdmin s).fuses = s.fuses := by
  simp [State.openAdmin]
@[simp] theorem State.compact_fuses (s : State) (l : List JData) : (State.compact s l).fuses = s.fuses := by
  simp [State.compact, apply_ite State.fuses, foldl_fuses]
@[simp] theorem State.vfReset_fuses (s : State) (f : Nat) : (State.vfReset s f).fuses = s.fuses := by
  unfold State.vfReset
  (repeat' split) <;> (try simp [apply_ite State.fuses, foldl_fuses]) <;> (try (intros; (repeat' split) <;> simp [apply_ite State.fuses, foldl_fuses]))
@[simp] theorem State.setMask_fuses (s : State) (f v : Nat) (m : Bool) : (State.setMask s f v m).fuses = s.fuses := by
  simp [State.setMask]
@[simp] theorem State.regMsixUnmask_fuses (s : State) (f vector : Nat) : (State.regMsixUnmask s f vector).fuses = s.fuses := by
  simp [State.regMsixUnmask, apply_ite State.fuses, foldl_fuses]
@[simp] theorem State.dropDevices_fuses (s : State) (p : Nat) : (State.dropDevices s p).fuses = s.fuses := by
  simp [State.dropDevices, apply_ite State.fuses, foldl_fuses]
@[simp] theorem State.portEnable_fuses (s : State) (p : Nat) (on : Bool) : (State.portEnable s p on).fuses = s.fuses := by
  simp [State.portEnable, apply_ite State.fuses, foldl_fuses]
@[simp] theorem State.regPortEnable_fuses (s : State) (port value : Nat) : (State.regPortEnable s port value).fuses = s.fuses := by
  simp [State.regPortEnable, apply_ite State.fuses, foldl_fuses]
@[simp] theorem State.setPool_fuses (s : State) (p d v : Nat) : (State.setPool s p d v).fuses = s.fuses := by
  simp [State.setPool, apply_ite State.fuses, foldl_fuses]
@[simp] theorem State.regPoolId_fuses (s : State) (port dev value : Nat) : (State.regPoolId s port dev value).fuses = s.fuses := by
  simp [State.regPoolId, apply_ite State.fuses, foldl_fuses]
@[simp] theorem State.addDevice_fuses (s : State) (p : Nat) (d : Nat × Nat × Nat × Nat) : (State.addDevice s p d).fuses = s.fuses := by
  simp [State.addDevice, apply_ite State.fuses, foldl_fuses]
@[simp] theorem State.clearPort_fuses (s : State) (k o : Nat) : (State.clearPort s k o).fuses = s.fuses := by
  simp [State.clearPort]
@[simp] theorem State.clearTick_fuses (s : State) (o : Nat) : (State.clearTick s o).fuses = s.fuses := by
  simp [State.clearTick]
@[simp] theorem State.clearCore_fuses (s : State) (o : Nat) : (State.clearCore s o).fuses = s.fuses := by
  simp [State.clearCore, apply_ite State.fuses, foldl_fuses]
@[simp] theorem State.clearLink_fuses (s : State) (o : Nat) : (State.clearLink s o).fuses = s.fuses := by
  simp [State.clearLink, apply_ite State.fuses, foldl_fuses]
@[simp] theorem State.clearMem_fuses (s : State) (o : Nat) : (State.clearMem s o).fuses = s.fuses := by
  simp [State.clearMem, apply_ite State.fuses, foldl_fuses]
@[simp] theorem State.clearCtx_fuses (s : State) (o : Nat) : (State.clearCtx s o).fuses = s.fuses := by
  simp [State.clearCtx, apply_ite State.fuses, foldl_fuses]
@[simp] theorem State.clearQos_fuses (s : State) (o : Nat) : (State.clearQos s o).fuses = s.fuses := by
  simp [State.clearQos, apply_ite State.fuses, foldl_fuses]
@[simp] theorem State.clearCc_fuses (s : State) (o : Nat) : (State.clearCc s o).fuses = s.fuses := by
  simp [State.clearCc, apply_ite State.fuses, foldl_fuses]
@[simp] theorem State.clearKey_fuses (s : State) (o : Nat) : (State.clearKey s o).fuses = s.fuses := by
  simp [State.clearKey]
@[simp] theorem State.clearFlt_fuses (s : State) (o : Nat) : (State.clearFlt s o).fuses = s.fuses := by
  simp [State.clearFlt]
@[simp] theorem State.clearHp_fuses (s : State) (o : Nat) : (State.clearHp s o).fuses = s.fuses := by
  simp [State.clearHp]
@[simp] theorem State.clearCxl_fuses (s : State) (o : Nat) : (State.clearCxl s o).fuses = s.fuses := by
  simp [State.clearCxl, apply_ite State.fuses, foldl_fuses]
@[simp] theorem State.rcClear_fuses (s : State) (o : Nat) : (State.rcClear s o).fuses = s.fuses := by
  simp [State.rcClear, apply_ite State.fuses, foldl_fuses]
@[simp] theorem State.answer_fuses (s : State) (v : Nat) : (State.answer s v).fuses = s.fuses := by
  simp [State.answer]
@[simp] theorem State.read4_fuses (s : State) (f o key : Nat) : (State.read4 s f o key).fuses = s.fuses := by
  unfold State.read4
  (repeat' split) <;> simp [apply_ite State.fuses, foldl_fuses]
@[simp] theorem State.read8_fuses (s : State) (f o : Nat) : (State.read8 s f o).fuses = s.fuses := by
  simp [State.read8, apply_ite State.fuses, foldl_fuses]
@[simp] theorem State.barRead_fuses (s : State) (f o key size : Nat) : (State.barRead s f o key size).fuses = s.fuses := by
  simp [State.barRead, apply_ite State.fuses, foldl_fuses]
@[simp] theorem State.writeTick_fuses (s : State) (o v : Nat) : (State.writeTick s o v).fuses = s.fuses := by
  simp [State.writeTick, apply_ite State.fuses, foldl_fuses]
@[simp] theorem State.writeWin_fuses (s : State) (n o v : Nat) : (State.writeWin s n o v).fuses = s.fuses := by
  unfold State.writeWin
  (repeat' split) <;> (try simp [apply_ite State.fuses, foldl_fuses]) <;> (try (intros; (repeat' split) <;> simp [apply_ite State.fuses, foldl_fuses]))
@[simp] theorem State.writeLink_fuses (s : State) (o v : Nat) : (State.writeLink s o v).fuses = s.fuses := by
  unfold State.writeLink
  (repeat' split) <;> (try simp [apply_ite State.fuses, foldl_fuses]) <;> (try (intros; (repeat' split) <;> simp [apply_ite State.fuses, foldl_fuses]))
@[simp] theorem State.writeMem_fuses (s : State) (o v : Nat) : (State.writeMem s o v).fuses = s.fuses := by
  unfold State.writeMem
  (repeat' split) <;> (try simp [apply_ite State.fuses, foldl_fuses]) <;> (try (intros; (repeat' split) <;> simp [apply_ite State.fuses, foldl_fuses]))
@[simp] theorem State.writeAdminEnable_fuses (s : State) (on : Bool) : (State.writeAdminEnable s on).fuses = s.fuses := by
  simp [State.writeAdminEnable, apply_ite State.fuses, foldl_fuses]
@[simp] theorem State.writeQueueError_fuses (s : State) (c v : Nat) : (State.writeQueueError s c v).fuses = s.fuses := by
  simp [State.writeQueueError]
@[simp] theorem State.writeCtx_fuses (s : State) (o v : Nat) : (State.writeCtx s o v).fuses = s.fuses := by
  simp [State.writeCtx, apply_ite State.fuses, foldl_fuses]
@[simp] theorem State.writeDoor_fuses (s : State) (n o v : Nat) : (State.writeDoor s n o v).fuses = s.fuses := by
  simp [State.writeDoor, apply_ite State.fuses, foldl_fuses]
@[simp] theorem State.onQosShadow_fuses (s : State) (f : QosCfg → QosCfg) : (State.onQosShadow s f).fuses = s.fuses := by
  simp [State.onQosShadow]
@[simp] theorem State.writeFunc_fuses (s : State) (f o v : Nat) : (State.writeFunc s f o v).fuses = s.fuses := by
  unfold State.writeFunc
  (repeat' split) <;> (try simp [apply_ite State.fuses, foldl_fuses]) <;> (try (intros; (repeat' split) <;> simp [apply_ite State.fuses, foldl_fuses]))
@[simp] theorem State.writeQosGlobal_fuses (s : State) (o v : Nat) : (State.writeQosGlobal s o v).fuses = s.fuses := by
  simp [State.writeQosGlobal, apply_ite State.fuses, foldl_fuses]
@[simp] theorem State.writeQos_fuses (s : State) (o v : Nat) : (State.writeQos s o v).fuses = s.fuses := by
  unfold State.writeQos
  (repeat' split) <;> (try simp [apply_ite State.fuses, foldl_fuses]) <;> (try (intros; (repeat' split) <;> simp [apply_ite State.fuses, foldl_fuses]))
@[simp] theorem State.writeKey_fuses (s : State) (o v : Nat) : (State.writeKey s o v).fuses = s.fuses := by
  simp [State.writeKey, apply_ite State.fuses, foldl_fuses]
@[simp] theorem State.onPwrShadow_fuses (s : State) (f : PwrCfg → PwrCfg) : (State.onPwrShadow s f).fuses = s.fuses := by
  simp [State.onPwrShadow]
@[simp] theorem State.writePwr_fuses (s : State) (o v : Nat) : (State.writePwr s o v).fuses = s.fuses := by
  simp [State.writePwr, apply_ite State.fuses, foldl_fuses]
@[simp] theorem State.writeCap_fuses (s : State) (o v : Nat) : (State.writeCap s o v).fuses = s.fuses := by
  simp [State.writeCap, apply_ite State.fuses, foldl_fuses]
@[simp] theorem State.writeCxl_fuses (s : State) (o v : Nat) : (State.writeCxl s o v).fuses = s.fuses := by
  simp [State.writeCxl, apply_ite State.fuses, foldl_fuses]
@[simp] theorem State.writeVector_fuses (s : State) (f n o v : Nat) : (State.writeVector s f n o v).fuses = s.fuses := by
  simp [State.writeVector, apply_ite State.fuses, foldl_fuses]
@[simp] theorem State.vfWrite_fuses (s : State) (f o v : Nat) : (State.vfWrite s f o v).fuses = s.fuses := by
  unfold State.vfWrite
  (repeat' split) <;> simp [apply_ite State.fuses, foldl_fuses]
@[simp] theorem State.pwrgdFall_fuses (s : State) : (State.pwrgdFall s).fuses = s.fuses := by
  simp [State.pwrgdFall]
@[simp] theorem State.perstAssert_fuses (s : State) : (State.perstAssert s).fuses = s.fuses := by
  simp [State.perstAssert]
@[simp] theorem State.tckEdge_fuses (s : State) (tms tdi trstN : Bool) : (State.tckEdge s tms tdi trstN).fuses = s.fuses := by
  simp [State.tckEdge, apply_ite State.fuses, foldl_fuses]
@[simp] theorem State.sideAnswer_fuses (s : State) (msg half result : Nat) (nums : List Nat) (body : List Byte) : (State.sideAnswer s msg half result nums body).fuses = s.fuses := by
  simp [State.sideAnswer]
@[simp] theorem State.mctp_fuses (s : State) (command data : Nat) : (State.mctp s command data).fuses = s.fuses := by
  simp [State.mctp, apply_ite State.fuses, foldl_fuses]
@[simp] theorem State.sideEarly_fuses (s : State) (msg format half rsv : Nat) (f : State → State) (hf : ∀ y0, (f y0).fuses = y0.fuses) : (State.sideEarly s msg format half rsv f).fuses = s.fuses := by
  simp [State.sideEarly, apply_ite State.fuses, foldl_fuses, hf]
@[simp] theorem State.sideLate_fuses (s : State) (msg format half rsv : Nat) (f : State → State) (hf : ∀ y0, (f y0).fuses = y0.fuses) : (State.sideLate s msg format half rsv f).fuses = s.fuses := by
  simp [State.sideLate, apply_ite State.fuses, foldl_fuses, hf]
end Sys2Proof.Machine
end

