-- ==== Sys2Proof/Laws/Maps.lean ====
section
/-! SUPPORT. Laws of the sparse maps: what a read gives after a write, and that every write keeps the canonical form. The read laws hold of
every list, sorted or not, so that no claim needs an invariant for them. -/

namespace Sys2Proof.Machine

variable {α : Type}

@[simp] theorem mapGet_nil (d : α) (k : Nat) : mapGet d [] k = d := rfl
@[simp] theorem mapFind_nil (k : Nat) : mapFind ([] : SMap α) k = none := rfl

theorem mapGet_put_same (d : α) (m : SMap α) (k : Nat) (v : α) : mapGet d (mapPut m k v) k = v := by
  induction m with
  | nil => simp [mapPut, mapGet]
  | cons p m ih =>
    obtain ⟨j, w⟩ := p
    simp only [mapPut]
    split
    · simp [mapGet]
    · split
      · simp [mapGet]
      · have : ¬ j = k := by omega
        simp [mapGet, this, ih]

theorem mapGet_put_other (d : α) (m : SMap α) {k n : Nat} (v : α) (h : n ≠ k) : mapGet d (mapPut m k v) n = mapGet d m n := by
  induction m with
  | nil => simp [mapPut, mapGet, h.symm]
  | cons p m ih =>
    obtain ⟨j, w⟩ := p
    simp only [mapPut]
    split
    · simp [mapGet, h.symm]
    · split
      · rename_i _ e; subst e; simp [mapGet, h.symm]
      · simp [mapGet, ih]

theorem mapGet_del_same (d : α) (m : SMap α) (k : Nat) : mapGet d (mapDel m k) k = d := by
  induction m with
  | nil => rfl
  | cons p m ih =>
    obtain ⟨j, w⟩ := p
    simp only [mapDel]
    split
    · exact ih
    · rename_i h; simp [mapGet, h, ih]

theorem mapGet_del_other (d : α) (m : SMap α) {k n : Nat} (h : n ≠ k) : mapGet d (mapDel m k) n = mapGet d m n := by
  induction m with
  | nil => rfl
  | cons p m ih =>
    obtain ⟨j, w⟩ := p
    simp only [mapDel]
    split
    · rename_i e; subst e; simp [mapGet, h.symm, ih]
    · simp [mapGet, ih]

/-- A read at the key just written gives the value written. -/
@[simp] theorem mapGet_set_same [DecidableEq α] (d : α) (m : SMap α) (k : Nat) (v : α) : mapGet d (mapSet d m k v) k = v := by
  unfold mapSet; split
  · rename_i h; rw [mapGet_del_same, h]
  · exact mapGet_put_same d m k v

/-- A read at another key gives what it gave. -/
theorem mapGet_set_other [DecidableEq α] (d : α) (m : SMap α) {k n : Nat} (v : α) (h : n ≠ k) :
    mapGet d (mapSet d m k v) n = mapGet d m n := by
  unfold mapSet; split
  · exact mapGet_del_other d m h
  · exact mapGet_put_other d m v h

/-- A read after a write, both cases. -/
theorem mapGet_set [DecidableEq α] (d : α) (m : SMap α) (k n : Nat) (v : α) :
    mapGet d (mapSet d m k v) n = if n = k then v else mapGet d m n := by
  split
  · rename_i h; subst h; simp
  · rename_i h; exact mapGet_set_other d m v h

@[simp] theorem mapFind_put_same (m : SMap α) (k : Nat) (v : α) : mapFind (mapPut m k v) k = some v := by
  induction m with
  | nil => simp [mapPut, mapFind]
  | cons p m ih =>
    obtain ⟨j, w⟩ := p
    simp only [mapPut]
    split
    · simp [mapFind]
    · split
      · simp [mapFind]
      · have : ¬ j = k := by omega
        simp [mapFind, this, ih]

theorem mapFind_put_other (m : SMap α) {k n : Nat} (v : α) (h : n ≠ k) : mapFind (mapPut m k v) n = mapFind m n := by
  induction m with
  | nil => simp [mapPut, mapFind, h.symm]
  | cons p m ih =>
    obtain ⟨j, w⟩ := p
    simp only [mapPut]
    split
    · simp [mapFind, h.symm]
    · split
      · rename_i _ e; subst e; simp [mapFind, h.symm]
      · simp [mapFind, ih]

@[simp] theorem mapFind_del_same (m : SMap α) (k : Nat) : mapFind (mapDel m k) k = none := by
  induction m with
  | nil => rfl
  | cons p m ih =>
    obtain ⟨j, w⟩ := p
    simp only [mapDel]
    split
    · exact ih
    · rename_i h; simp [mapFind, h, ih]

theorem mapFind_del_other (m : SMap α) {k n : Nat} (h : n ≠ k) : mapFind (mapDel m k) n = mapFind m n := by
  induction m with
  | nil => rfl
  | cons p m ih =>
    obtain ⟨j, w⟩ := p
    simp only [mapDel]
    split
    · rename_i e; subst e; simp [mapFind, h.symm, ih]
    · simp [mapFind, ih]

@[simp] theorem mapFind_modify_same (m : SMap α) (k : Nat) (f : α → α) : mapFind (mapModify m k f) k = (mapFind m k).map f := by
  induction m with
  | nil => rfl
  | cons p m ih =>
    obtain ⟨j, w⟩ := p
    simp only [mapModify, List.map_cons] at ih ⊢
    by_cases h : j = k
    · simp [mapFind, h]
    · simp [mapFind, h, ih]

theorem mapFind_modify_other (m : SMap α) {k n : Nat} (f : α → α) (h : n ≠ k) : mapFind (mapModify m k f) n = mapFind m n := by
  induction m with
  | nil => rfl
  | cons p m ih =>
    obtain ⟨j, w⟩ := p
    simp only [mapModify, List.map_cons] at ih ⊢
    by_cases hj : j = k
    · subst hj; simp [mapFind, h.symm, ih]
    · simp [mapFind, hj, ih]

@[simp] theorem mapFind_all (m : SMap α) (f : Nat → α → α) (k : Nat) : mapFind (mapAll m f) k = (mapFind m k).map (f k) := by
  induction m with
  | nil => rfl
  | cons p m ih =>
    obtain ⟨j, w⟩ := p
    simp only [mapAll, List.map_cons] at ih ⊢
    by_cases h : j = k
    · subst h; simp [mapFind]
    · simp [mapFind, h, ih]

/-! ### The canonical form -/

/-- Every key of a map is above a bound. -/
def keysAbove (b : Nat) (m : SMap α) : Prop := ∀ p ∈ m, b < p.1

theorem keysRise_cons (p : Nat × α) (m : SMap α) : keysRise (p :: m) = true ↔ keysAbove p.1 m ∧ keysRise m = true := by
  induction m generalizing p with
  | nil => simp [keysRise, keysAbove]
  | cons q m ih =>
    rw [keysRise, Bool.and_eq_true, decide_eq_true_eq, ih q]
    constructor
    · rintro ⟨h, h1, h2⟩
      refine ⟨?_, h1, h2⟩
      intro r hr
      rcases List.mem_cons.mp hr with rfl | hr
      · exact h
      · exact Nat.lt_trans h (h1 r hr)
    · rintro ⟨h, h1, h2⟩
      exact ⟨h q (by simp), h1, h2⟩

theorem keysAbove_put {b k : Nat} (m : SMap α) (v : α) (h : keysAbove b m) (hk : b < k) : keysAbove b (mapPut m k v) := by
  induction m with
  | nil => intro p hp; simp [mapPut] at hp; subst hp; exact hk
  | cons p m ih =>
    obtain ⟨j, w⟩ := p
    have hm : keysAbove b m := fun r hr => h r (by simp [hr])
    have hj : b < j := h (j, w) (by simp)
    simp only [mapPut]
    intro r hr
    split at hr
    · rcases List.mem_cons.mp hr with rfl | hr
      · exact hk
      · exact h r hr
    · split at hr
      · rcases List.mem_cons.mp hr with rfl | hr
        · exact hk
        · exact hm r hr
      · rcases List.mem_cons.mp hr with rfl | hr
        · exact hj
        · exact ih hm r hr

theorem keysRise_put (m : SMap α) (k : Nat) (v : α) (h : keysRise m = true) : keysRise (mapPut m k v) = true := by
  induction m with
  | nil => rfl
  | cons p m ih =>
    obtain ⟨j, w⟩ := p
    obtain ⟨h1, h2⟩ := (keysRise_cons _ _).mp h
    simp only [mapPut]
    split
    · rename_i hk
      refine (keysRise_cons _ _).mpr ⟨?_, h⟩
      intro r hr
      rcases List.mem_cons.mp hr with rfl | hr
      · exact hk
      · exact Nat.lt_trans hk (h1 r hr)
    · split
      · rename_i e; subst e; exact (keysRise_cons _ _).mpr ⟨h1, h2⟩
      · exact (keysRise_cons _ _).mpr ⟨keysAbove_put m v h1 (by simp only at *; omega), ih h2⟩

theorem mem_del {m : SMap α} {k : Nat} {p : Nat × α} (h : p ∈ mapDel m k) : p ∈ m := by
  induction m with
  | nil => exact h
  | cons q m ih =>
    obtain ⟨j, w⟩ := q
    simp only [mapDel] at h
    split at h
    · exact List.mem_cons_of_mem _ (ih h)
    · rcases List.mem_cons.mp h with rfl | h
      · simp
      · exact List.mem_cons_of_mem _ (ih h)

theorem keysRise_del (m : SMap α) (k : Nat) (h : keysRise m = true) : keysRise (mapDel m k) = true := by
  induction m with
  | nil => rfl
  | cons p m ih =>
    obtain ⟨j, w⟩ := p
    obtain ⟨h1, h2⟩ := (keysRise_cons _ _).mp h
    simp only [mapDel]
    split
    · exact ih h2
    · exact (keysRise_cons _ _).mpr ⟨fun r hr => h1 r (mem_del hr), ih h2⟩

theorem mem_put {m : SMap α} {k : Nat} {v : α} {p : Nat × α} (h : p ∈ mapPut m k v) : p = (k, v) ∨ p ∈ m := by
  induction m with
  | nil => simpa [mapPut] using h
  | cons q m ih =>
    obtain ⟨j, w⟩ := q
    simp only [mapPut] at h
    split at h
    · simpa using h
    · split at h
      · rcases List.mem_cons.mp h with rfl | h
        · exact Or.inl rfl
        · exact Or.inr (by simp [h])
      · rcases List.mem_cons.mp h with rfl | h
        · exact Or.inr (by simp)
        · rcases ih h with rfl | h
          · exact Or.inl rfl
          · exact Or.inr (by simp [h])

/-- Writing a map keeps its canonical form. -/
theorem mapWf_set [DecidableEq α] (d : α) (m : SMap α) (k : Nat) (v : α) (h : mapWf d m = true) : mapWf d (mapSet d m k v) = true := by
  simp only [mapWf, Bool.and_eq_true, List.all_eq_true, decide_eq_true_eq] at h ⊢
  unfold mapSet
  split
  · exact ⟨keysRise_del m k h.1, fun p hp => h.2 p (mem_del hp)⟩
  · rename_i hv
    refine ⟨keysRise_put m k v h.1, fun p hp => ?_⟩
    rcases mem_put hp with rfl | hp
    · exact hv
    · exact h.2 p hp

theorem keysRise_filter (m : SMap α) (q : Nat × α → Bool) (h : keysRise m = true) : keysRise (m.filter q) = true := by
  induction m with
  | nil => rfl
  | cons p m ih =>
    obtain ⟨h1, h2⟩ := (keysRise_cons _ _).mp h
    rw [List.filter_cons]
    split
    · exact (keysRise_cons _ _).mpr ⟨fun r hr => h1 r (List.mem_filter.mp hr).1, ih h2⟩
    · exact ih h2

theorem mapWf_filter [DecidableEq α] (d : α) (m : SMap α) (q : Nat × α → Bool) (h : mapWf d m = true) : mapWf d (m.filter q) = true := by
  simp only [mapWf, Bool.and_eq_true, List.all_eq_true, decide_eq_true_eq] at h ⊢
  exact ⟨keysRise_filter m q h.1, fun p hp => h.2 p (List.mem_filter.mp hp).1⟩

end Sys2Proof.Machine
end

