-- ==== Sys2Proof/Laws/Memory.lean ====
section
/-! SUPPORT. Laws of the byte memories: what a read gives after a write, and that every memory operation keeps the canonical form. -/

namespace Sys2Proof.Machine

/-! ### Sparse byte memories -/

@[simp] theorem Memory.get_set_same (m : Memory) (a : Nat) (b : Byte) : Memory.get (Memory.set m a b) a = b := mapGet_set_same 0 m a b

theorem Memory.get_set_other (m : Memory) {a c : Nat} (b : Byte) (h : c ≠ a) : Memory.get (Memory.set m a b) c = Memory.get m c :=
  mapGet_set_other 0 m b h

/-- A byte after a write: the byte written there, else what it was. -/
theorem Memory.get_write (m : Memory) (a : Nat) (bs : List Byte) (c : Nat) :
    Memory.get (Memory.write m a bs) c = if a ≤ c ∧ c < a + bs.length then bs.getD (c - a) 0 else Memory.get m c := by
  induction bs generalizing m a with
  | nil => rw [if_neg (by simp only [List.length_nil]; omega)]; rfl
  | cons b bs ih =>
    rw [Memory.write, ih]
    simp only [List.length_cons]
    by_cases h : c = a
    · subst h
      rw [if_neg (by omega), if_pos (by omega), Nat.sub_self, Memory.get_set_same]
      rfl
    · rw [Memory.get_set_other m b h]
      by_cases h2 : a + 1 ≤ c ∧ c < a + 1 + bs.length
      · have e : c - a = (c - (a + 1)) + 1 := by omega
        rw [if_pos h2, if_pos (by omega), e]
        simp
      · rw [if_neg h2, if_neg (by omega)]

theorem Memory.get_write_out (m : Memory) (a : Nat) (bs : List Byte) {c : Nat} (h : c < a ∨ a + bs.length ≤ c) :
    Memory.get (Memory.write m a bs) c = Memory.get m c := by
  rw [Memory.get_write, if_neg (by omega)]

theorem Memory.get_write_in (m : Memory) (a : Nat) (bs : List Byte) {i : Nat} (h : i < bs.length) :
    Memory.get (Memory.write m a bs) (a + i) = bs[i] := by
  rw [Memory.get_write, if_pos (by omega)]
  simp [List.getD_eq_getElem?_getD, h]

/-- What was written reads back. -/
theorem Memory.read_write (m : Memory) (a : Nat) (bs : List Byte) : Memory.read (Memory.write m a bs) a bs.length = bs := by
  apply List.ext_getElem
  · simp [Memory.read]
  · intro i h1 h2
    simp only [Memory.read, List.getElem_map, List.getElem_range]
    exact Memory.get_write_in m a bs h2

/-- Bytes outside the written range read as before. -/
theorem Memory.read_write_out (m : Memory) (a : Nat) (bs : List Byte) (c n : Nat) (h : c + n ≤ a ∨ a + bs.length ≤ c) :
    Memory.read (Memory.write m a bs) c n = Memory.read m c n := by
  apply List.map_congr_left
  intro i hi
  have := List.mem_range.mp hi
  exact Memory.get_write_out m a bs (by omega)

@[simp] theorem Memory.write_nil (m : Memory) (a : Nat) : Memory.write m a [] = m := rfl
@[simp] theorem Memory.read_length (m : Memory) (a n : Nat) : (Memory.read m a n).length = n := by simp [Memory.read]

/-- A cleared range reads 0. -/
theorem Memory.get_clear (m : Memory) (a n c : Nat) :
    Memory.get (Memory.clear m a n) c = if a ≤ c ∧ c < a + n then 0 else Memory.get m c := by
  unfold Memory.get Memory.clear
  induction m with
  | nil => simp
  | cons p m ih =>
    obtain ⟨j, v⟩ := p
    by_cases hj : a ≤ j ∧ j < a + n
    · have hx : (!(decide (a ≤ j) && decide (j < a + n))) = false := by simp [hj.1, hj.2]
      rw [List.filter_cons_of_neg (by simp only [hx]; simp), ih]
      by_cases hc : a ≤ c ∧ c < a + n
      · rw [if_pos hc, if_pos hc]
      · rw [if_neg hc, if_neg hc]
        have : j ≠ c := by rintro rfl; exact hc hj
        simp [mapGet, this]
    · have hx : (!(decide (a ≤ j) && decide (j < a + n))) = true := by
        simp only [Bool.not_eq_true', Bool.and_eq_false_iff, decide_eq_false_iff_not]; omega
      rw [List.filter_cons_of_pos (by simp only [hx])]
      by_cases e : j = c
      · subst e; simp [mapGet, hj]
      · simp only [mapGet, e, if_false]; exact ih

/-! ### The canonical form -/

theorem Memory.wf_nil : Memory.wf [] = true := rfl

theorem Memory.wf_set (m : Memory) (a : Nat) (b : Byte) (h : Memory.wf m = true) : Memory.wf (Memory.set m a b) = true := mapWf_set 0 m a b h

theorem Memory.wf_write (m : Memory) (a : Nat) (bs : List Byte) (h : Memory.wf m = true) : Memory.wf (Memory.write m a bs) = true := by
  induction bs generalizing m a with
  | nil => exact h
  | cons b bs ih => exact ih _ _ (Memory.wf_set m a b h)

theorem Memory.wf_clear (m : Memory) (a n : Nat) (h : Memory.wf m = true) : Memory.wf (Memory.clear m a n) = true := mapWf_filter 0 m _ h

/-! ### Device memory -/

@[simp] theorem MemTier.withKey_cells (m : MemTier) (key : List Byte) : (m.withKey key).cells = m.cells := by
  unfold MemTier.withKey; split <;> rfl

@[simp] theorem MemTier.withKey_keys (m : MemTier) (key : List Byte) : (m.withKey key).keys = m.keys := by
  unfold MemTier.withKey; split <;> rfl

theorem MemTier.wf_writeBlock (m : MemTier) (key : List Byte) (b : Nat) (bs : List Byte) (h : Memory.wf m.cells = true) :
    Memory.wf (m.writeBlock key b bs).cells = true := Memory.wf_write _ _ _ h

/-- One step of a write: the block at hand, whole or merged with what it held, then the rest. -/
theorem MemTier.writeFrom_succ (key : List Byte) (k b o : Nat) (bs : List Byte) (m : MemTier) :
    MemTier.writeFrom key (k + 1) b o bs m = if bs.isEmpty then m else
      MemTier.writeFrom key k (b + 1) 0 (bs.drop (16 - o)) (m.writeBlock key b
        (if (bs.take (16 - o)).length = 16 then bs.take (16 - o)
          else (m.readBlock key b).take o ++ bs.take (16 - o) ++ (m.readBlock key b).drop (o + (bs.take (16 - o)).length))) := by
  rw [MemTier.writeFrom]

theorem MemTier.wf_writeFrom (key : List Byte) (k b o : Nat) (bs : List Byte) (m : MemTier) (h : Memory.wf m.cells = true) :
    Memory.wf (MemTier.writeFrom key k b o bs m).cells = true := by
  induction k generalizing b o bs m with
  | zero => exact h
  | succ k ih =>
    rw [MemTier.writeFrom_succ]
    split
    · exact h
    · exact ih _ _ _ _ (MemTier.wf_writeBlock m key b _ h)

theorem MemTier.wf_foldl {α : Type} (g : MemTier → α → MemTier) (hg : ∀ m c, Memory.wf m.cells = true → Memory.wf (g m c).cells = true)
    (l : List α) (m : MemTier) (h : Memory.wf m.cells = true) : Memory.wf (l.foldl g m).cells = true := by
  induction l generalizing m with
  | nil => exact h
  | cons c l ih => exact ih _ (hg m c h)

theorem MemTier.wf_mirrorTo (a : Nat) (bs : List Byte) (m : MemTier) (c : Nat × SliceCopy) (h : Memory.wf m.cells = true) :
    Memory.wf (MemTier.mirrorTo a bs m c).cells = true := by
  unfold MemTier.mirrorTo
  split
  · exact Memory.wf_write _ _ _ h
  · exact h

theorem MemTier.wf_mirror (m : MemTier) (a : Nat) (bs : List Byte) (h : Memory.wf m.cells = true) : Memory.wf (m.mirror a bs).cells = true :=
  MemTier.wf_foldl _ (MemTier.wf_mirrorTo a bs) _ m h

/-- A write of device memory under any key keeps the canonical form. -/
theorem MemTier.wf_write (m : MemTier) (key : List Byte) (a : Nat) (bs : List Byte) (h : Memory.wf m.cells = true) :
    Memory.wf (m.write key a bs).cells = true := by
  unfold MemTier.write
  dsimp only
  split
  · exact MemTier.wf_mirror _ _ _ (MemTier.wf_writeFrom _ _ _ _ _ _ (by simpa using h))
  · exact MemTier.wf_writeFrom _ _ _ _ _ _ (by simpa using h)

theorem MemTier.wf_zero (m : MemTier) (a n : Nat) (h : Memory.wf m.cells = true) : Memory.wf (m.zero a n).cells = true := Memory.wf_clear _ _ _ h

/-- Memory at reset is in canonical form: it lists nothing. -/
theorem Memory.wf_reset : Memory.wf State.reset.mem.cells = true ∧ Memory.wf State.reset.host = true := ⟨rfl, rfl⟩

/-! ### The tag of a key -/

theorem indexWhere_mem {α : Type} [DecidableEq α] (k : α) (l : List α) (h : k ∈ l) :
    ∃ i, indexWhere (fun x => decide (x = k)) l = some i ∧ l[i]? = some k := by
  induction l with
  | nil => simp at h
  | cons x l ih =>
    by_cases e : x = k
    · exact ⟨0, by simp [indexWhere, e], by simp [e]⟩
    · obtain ⟨i, h1, h2⟩ := ih (by rcases List.mem_cons.mp h with rfl | h; exact absurd rfl e; exact h)
      exact ⟨i + 1, by simp [indexWhere, e, h1], by simpa using h2⟩

/-- The key of a block just written, where the tier lists the key. -/
theorem MemTier.tagKey_writeBlock (m : MemTier) (key : List Byte) (b : Nat) (bs : List Byte) (h : key = [] ∨ key ∈ m.keyTags) :
    (m.writeBlock key b bs).tagKey b = key := by
  unfold MemTier.tagKey MemTier.writeBlock
  simp only [mapGet_set_same]
  unfold MemTier.tagOf
  by_cases e : key = []
  · simp [e]
  · obtain ⟨i, h1, h2⟩ := indexWhere_mem key m.keyTags (h.resolve_left e)
    simp [e, h1, nth, List.getD_eq_getElem?_getD, h2]

/-- A block just written reads back under its key. -/
theorem MemTier.readBlock_writeBlock (m : MemTier) (key : List Byte) (b : Nat) (bs : List Byte) (h : key = [] ∨ key ∈ m.keyTags)
    (hl : bs.length = 16) : (m.writeBlock key b bs).readBlock key b = bs := by
  unfold MemTier.readBlock
  simp only [MemTier.tagKey_writeBlock m key b bs h, if_true]
  have := Memory.read_write m.cells (16 * b) bs
  rw [hl] at this
  exact this

/-- Another block reads as before under every key. -/
theorem MemTier.readBlock_writeBlock_other (m : MemTier) (key other : List Byte) {b c : Nat} (bs : List Byte) (hl : bs.length = 16)
    (h : c ≠ b) : (m.writeBlock key b bs).readBlock other c = m.readBlock other c := by
  have e : (m.writeBlock key b bs).tagKey c = m.tagKey c := by
    unfold MemTier.tagKey MemTier.writeBlock
    simp only [mapGet_set_other 0 m.keys (m.tagOf key) h]
  unfold MemTier.readBlock
  rw [e]
  have : Memory.read (m.writeBlock key b bs).cells (16 * c) 16 = Memory.read m.cells (16 * c) 16 :=
    Memory.read_write_out m.cells (16 * b) bs (16 * c) 16 (by omega)
  rw [this]

theorem MemTier.withKey_mem (m : MemTier) (key : List Byte) : key = [] ∨ key ∈ (m.withKey key).keyTags := by
  unfold MemTier.withKey
  by_cases e : key = []
  · exact Or.inl e
  · right
    split
    · rename_i h; simpa [e] using h
    · simp

@[simp] theorem MemTier.writeBlock_keyTags (m : MemTier) (key : List Byte) (b : Nat) (bs : List Byte) :
    (m.writeBlock key b bs).keyTags = m.keyTags := rfl

/-! ### Host memory of the state -/

theorem State.hostRead_hostWrite (s : State) (a : Nat) (bs : List Byte) : (s.hostWrite a bs).hostRead a bs.length = bs :=
  Memory.read_write s.host a bs

theorem State.hostRead_hostWrite_out (s : State) (a c n : Nat) (bs : List Byte) (h : c + n ≤ a ∨ a + bs.length ≤ c) :
    (s.hostWrite a bs).hostRead c n = s.hostRead c n := Memory.read_write_out s.host a bs c n h

/-- A host write changes host memory alone. -/
theorem State.hostWrite_eq (s : State) (a : Nat) (bs : List Byte) : s.hostWrite a bs = { s with host := Memory.write s.host a bs } := rfl

/-- A write of device memory changes the memory tiers alone. -/
theorem State.dpaWrite_eq (s : State) (key : List Byte) (a : Nat) (bs : List Byte) :
    s.dpaWrite key a bs = { s with mem := s.mem.write key a bs } := rfl

end Sys2Proof.Machine
end

