-- ==== Sys2Proof/Laws/Ops.lean ====
section
/-! SUPPORT. What each shared operation does, once: what a part of the state is after it was changed by number, and the equations of the
operations that record, send, raise, journal, log and finish. -/

namespace Sys2Proof.Machine

/-! ### Parts of the state, by number -/

@[simp] theorem State.core_onCore_same (s : State) (c : Nat) (f : Core → Core) : (s.onCore c f).core c = f (s.core c) := by
  simp [State.core, State.onCore]

theorem State.core_onCore_other (s : State) {c d : Nat} (f : Core → Core) (h : d ≠ c) : (s.onCore c f).core d = s.core d := by
  simp [State.core, State.onCore, mapGet_set_other, h]

@[simp] theorem State.router_onRouter_same (s : State) (r : Nat) (f : Router → Router) : (s.onRouter r f).router r = f (s.router r) := by
  simp [State.router, State.onRouter]

theorem State.router_onRouter_other (s : State) {r q : Nat} (f : Router → Router) (h : q ≠ r) : (s.onRouter r f).router q = s.router q := by
  simp [State.router, State.onRouter, mapGet_set_other, h]

@[simp] theorem State.port_onPort_same (s : State) (k : Nat) (f : Port → Port) : (s.onPort k f).port k = f (s.port k) := by
  simp [State.port, State.onPort]

theorem State.port_onPort_other (s : State) {k j : Nat} (f : Port → Port) (h : j ≠ k) : (s.onPort k f).port j = s.port j := by
  simp [State.port, State.onPort, mapGet_set_other, h]

@[simp] theorem State.role_onRole_same (s : State) (v : Nat) (f : VatRole → VatRole) : (s.onRole v f).role v = f (s.role v) := by
  simp [State.role, State.onRole]

theorem State.role_onRole_other (s : State) {v u : Nat} (f : VatRole → VatRole) (h : u ≠ v) : (s.onRole v f).role u = s.role u := by
  simp [State.role, State.onRole, mapGet_set_other, h]

@[simp] theorem State.vat?_onVat_same (s : State) (v : Nat) (f : Vat → Vat) : (s.onVat v f).vat? v = (s.vat? v).map f := by
  simp [State.vat?, State.onVat]

theorem State.vat?_onVat_other (s : State) {v u : Nat} (f : Vat → Vat) (h : u ≠ v) : (s.onVat v f).vat? u = s.vat? u := by
  simp [State.vat?, State.onVat, mapFind_modify_other, h]

@[simp] theorem State.func_onFunc_same (s : State) (f : Nat) (g : Func → Func) : (s.onFunc f g).func f = g (s.func f) := by
  simp [State.func, State.onFunc]

theorem State.func_onFunc_other (s : State) {f e : Nat} (g : Func → Func) (h : e ≠ f) : (s.onFunc f g).func e = s.func e := by
  simp [State.func, State.onFunc, mapGet_set_other, h]

@[simp] theorem State.slot_onSlot_same (s : State) (k : Nat) (f : KeySlot → KeySlot) : (s.onKeys fun v => v.onSlot k f).slot k = f (s.slot k) := by
  simp [State.slot, KeyVault.onSlot]

theorem State.slot_onSlot_other (s : State) {k j : Nat} (f : KeySlot → KeySlot) (h : j ≠ k) : (s.onKeys fun v => v.onSlot k f).slot j = s.slot j := by
  simp [State.slot, KeyVault.onSlot, mapGet_set_other, h]

/-- The two complexes: half 0, and half 1 for any other number. -/
theorem State.cplx_onCplx (s : State) (k j : Nat) (f : Cplx → Cplx) :
    (s.onCplx k f).cplx j = if (k = 0 ↔ j = 0) then f (s.cplx j) else s.cplx j := by
  by_cases hk : k = 0 <;> by_cases hj : j = 0 <;> simp [State.cplx, State.onCplx, hk, hj]

@[simp] theorem State.ctx_onCtx_same (s : State) (c : Nat) (f : Context → Context) : (s.onCtx c f).ctx c = f (s.ctx c) := by
  simp [State.ctx, State.onCtx]

theorem State.ctx_onCtx_other (s : State) {c d : Nat} (f : Context → Context) (h : d ≠ c) : (s.onCtx c f).ctx d = s.ctx d := by
  simp [State.ctx, State.onCtx, mapGet_set_other, h]

@[simp] theorem State.queue?_onQueue_same (s : State) (c q : Nat) (f : Queue → Queue) : (s.onQueue c q f).queue? c q = (s.queue? c q).map f := by
  simp [State.queue?, State.onQueue]

theorem State.queue?_onQueue_other (s : State) {c q d p : Nat} (f : Queue → Queue) (h : 16 * d + p ≠ 16 * c + q) :
    (s.onQueue c q f).queue? d p = s.queue? d p := by
  simp [State.queue?, State.onQueue, mapFind_modify_other, h]

@[simp] theorem State.extent_onExtent_other (s : State) {e d : Nat} (f : Extent → Extent) (h : d ≠ e) : (s.onExtent e f).extent d = s.extent d := by
  have : ∀ m : SMap Extent, mapGet Extent.empty (mapModify m e f) d = mapGet Extent.empty m d := by
    intro m
    induction m with
    | nil => rfl
    | cons p m ih =>
      obtain ⟨j, x⟩ := p
      simp only [mapModify, List.map_cons] at ih ⊢
      by_cases hj : j = e
      · subst hj; simp [mapGet, h.symm, ih]
      · simp [mapGet, hj, ih]
  simp [State.extent, State.onExtent, this]

@[simp] theorem State.cxlPort_onCxlPort_same (s : State) (p : Nat) (f : CxlPort → CxlPort) : (s.onCxlPort p f).cxlPort p = f (s.cxlPort p) := by
  simp [State.cxlPort, State.onCxlPort]

theorem State.cxlPort_onCxlPort_other (s : State) {p q : Nat} (f : CxlPort → CxlPort) (h : q ≠ p) : (s.onCxlPort p f).cxlPort q = s.cxlPort q := by
  simp [State.cxlPort, State.onCxlPort, mapGet_set_other, h]

@[simp] theorem State.cxlDev_onCxlDev_same (s : State) (k : Nat) (f : CxlDev → CxlDev) : (s.onCxlDev k f).cxlDev k = f (s.cxlDev k) := by
  simp [State.cxlDev, State.onCxlDev]

theorem State.cxlDev_onCxlDev_other (s : State) {k j : Nat} (f : CxlDev → CxlDev) (h : j ≠ k) : (s.onCxlDev k f).cxlDev j = s.cxlDev j := by
  simp [State.cxlDev, State.onCxlDev, mapGet_set_other, h]

/-! ### Host commands in dispatch -/

/-- A command after a change of it: the change keeps its reference. -/
theorem State.cmd?_onCmd_same (s : State) (r : CmdRef) (f : Cmd → Cmd) (h : ∀ c, c.ref = r → (f c).ref = r) :
    (s.onCmd r f).cmd? r = (s.cmd? r).map f := by
  simp only [State.cmd?, State.onCmd, State.onObjs_objs]
  generalize s.objs.cmds = l
  induction l with
  | nil => rfl
  | cons c l ih =>
    by_cases hc : c.ref = r
    · simp [hc, h c hc]
    · simp only [List.map_cons, List.find?_cons, hc, if_false, decide_false]
      exact ih

/-- Another command keeps what it was. -/
theorem State.cmd?_onCmd_other (s : State) {r q : CmdRef} (f : Cmd → Cmd) (h : q ≠ r) (hf : ∀ c, c.ref = r → (f c).ref = r) :
    (s.onCmd r f).cmd? q = s.cmd? q := by
  simp only [State.cmd?, State.onCmd, State.onObjs_objs]
  generalize s.objs.cmds = l
  induction l with
  | nil => rfl
  | cons c l ih =>
    by_cases hc : c.ref = r
    · simp only [List.map_cons, List.find?_cons, hc, if_true, hf c hc, h.symm, decide_false]
      exact ih
    · simp only [List.map_cons, List.find?_cons, hc, if_false, ih]

/-- A command finished: its completion is due, with the status, where it was not due before. -/
theorem State.cmd?_finish (s : State) (r : CmdRef) (st : Nat) :
    (s.finish r st).cmd? r = (s.cmd? r).map fun c => if c.phase = .done then c else { c with phase := .done, status := st } := by
  unfold State.finish
  apply State.cmd?_onCmd_same
  intro c hc
  split <;> exact hc

theorem State.cmd?_finish_other (s : State) {r q : CmdRef} (st : Nat) (h : q ≠ r) : (s.finish r st).cmd? q = s.cmd? q := by
  unfold State.finish
  apply State.cmd?_onCmd_other _ _ h
  intro c hc
  split <;> exact hc

/-- Finishing a command changes the commands in dispatch alone. -/
theorem State.finish_eq (s : State) (r : CmdRef) (st : Nat) :
    s.finish r st = { s with objs := { s.objs with cmds := (s.finish r st).objs.cmds } } := rfl

/-- A command whose effect is due, with a check that passes, has the effect. -/
theorem State.checked_ok (s : State) (r : CmdRef) (op : Nat) (check : State → Cmd → Nat) (f : Cmd → State) (c : Cmd)
    (hc : s.cmd? r = some c) (hp : c.phase = .ready) (ho : cmdOp c.bytes = op) (hb : s.qos.burstsOf r = 0) (ha : s.asleep = false) (h0 : check s c = 0) :
    s.checked r op check f = f c := by
  simp [State.checked, State.onDue, hc, hp, ho, hb, ha, h0]

/-- With a check that fails it finishes with the status of the check. -/
theorem State.checked_bad (s : State) (r : CmdRef) (op : Nat) (check : State → Cmd → Nat) (f : Cmd → State) (c : Cmd)
    (hc : s.cmd? r = some c) (hp : c.phase = .ready) (ho : cmdOp c.bytes = op) (hb : s.qos.burstsOf r = 0) (ha : s.asleep = false) (h0 : check s c ≠ 0) :
    s.checked r op check f = s.finish r (check s c) := by
  simp [State.checked, State.onDue, hc, hp, ho, hb, ha, h0]

theorem State.onDue_ok (s : State) (r : CmdRef) (op : Nat) (f : Cmd → State) (c : Cmd)
    (hc : s.cmd? r = some c) (hp : c.phase = .ready) (ho : cmdOp c.bytes = op) (hb : s.qos.burstsOf r = 0) (ha : s.asleep = false) : s.onDue r op f = f c := by
  simp [State.onDue, hc, hp, ho, hb, ha]

/-! ### Events, messages, interrupts -/

/-- Recording an event changes the events and their sequence numbers alone. -/
theorem State.note_frame (s : State) (src : Nat) (what : String) (arg : Nat) :
    ∃ es qs, s.note src what arg = { s with events := es, seqs := qs } := by
  unfold State.note
  extract_lets q
  generalize (q + 1) % 65536 = q'
  generalize hf : (fun es : List Event => insertEvent ⟨s.now, s.source src, q, what, arg⟩ (es.drop (es.length - 255))) = f
  exact ⟨f s.events, mapSet 0 s.seqs src q', rfl⟩

/-- An event inserted is there. -/
theorem mem_insertEvent (e : Event) (es : List Event) : e ∈ insertEvent e es := by
  simp [insertEvent]

/-- The event just recorded is among those kept. -/
theorem State.note_mem (s : State) (src : Nat) (what : String) (arg : Nat) :
    ⟨s.now, s.source src, mapGet 0 s.seqs src, what, arg⟩ ∈ (s.note src what arg).events := by
  exact mem_insertEvent _ _

/-- Sending a message adds it to the messages sent. -/
theorem State.send_eq (s : State) (kind : String) (dest : Nat) (args : List Nat) (body : List Byte) :
    s.send kind dest args body = { s with out := s.out ++ [⟨kind, dest, args, body⟩] } := rfl

/-- Control traffic of the host port changes the arbiters alone. -/
theorem State.hostTraffic_eq (s : State) (w : Bool) (n : Nat) : s.hostTraffic w n = { s with qos := (s.hostTraffic w n).qos } := rfl

/-- A control write to host memory changes host memory and the arbiters alone. -/
theorem State.hostPut_eq (s : State) (a : Nat) (bs : List Byte) :
    s.hostPut a bs = { s with host := (s.hostPut a bs).host, qos := (s.hostPut a bs).qos } := rfl

/-- Host memory after a control write is that after the write. -/
@[simp] theorem State.hostPut_host (s : State) (a : Nat) (bs : List Byte) : (s.hostPut a bs).host = (s.hostWrite a bs).host := rfl

/-- Raising a vector sends its message, with its traffic, or sets its pending bit, and changes nothing else. -/
theorem State.raise_eq (s : State) (f v : Nat) :
    s.raise f v = { s with msix := (s.raise f v).msix, hp := (s.raise f v).hp, qos := (s.raise f v).qos } := by
  unfold State.raise
  split <;> rfl

theorem State.raise_cases (s : State) (f v : Nat) :
    ((s.raise f v).msix = s.msix ++ [(f, v)] ∧ (s.raise f v).hp = s.hp) ∨
      ((s.raise f v).msix = s.msix ∧ ((s.raise f v).func f).pends.contains v = true) := by
  unfold State.raise
  split
  · right
    refine ⟨rfl, ?_⟩
    rw [State.func_onFunc_same]
    dsimp only
    split
    · rename_i h; exact h
    · simp
  · exact Or.inl ⟨rfl, rfl⟩

/-! ### Journals and fault logs -/

/-- A journal record goes to the journals alone. -/
theorem State.journalAdd_eq (s : State) (d : JData) : s.journalAdd d = { s with j0 := (s.journalAdd d).j0, j1 := (s.journalAdd d).j1 } := by
  unfold State.journalAdd
  dsimp only
  split <;> rfl

/-- A fault log record changes host memory, the log's counters and, by the vector it raises, interrupts; nothing else. -/
theorem State.faultLog_eq (s : State) (vat : Nat) (r : List Byte) : s.faultLog vat r =
    { s with host := (s.faultLog vat r).host, flt := (s.faultLog vat r).flt, msix := (s.faultLog vat r).msix, hp := (s.faultLog vat r).hp,
             qos := (s.faultLog vat r).qos } := by
  unfold State.faultLog
  split
  · rfl
  · split
    · rfl
    · rw [State.raise_eq]
      unfold State.hostPost
      split <;> rfl

/-- A posted host write changes host memory and the arbiters, or the writes the host port holds; nothing else. -/
theorem State.hostPost_eq (s : State) (f a : Nat) (bs : List Byte) : s.hostPost f a bs =
    { s with host := (s.hostPost f a bs).host, hp := (s.hostPost f a bs).hp, qos := (s.hostPost f a bs).qos } := by
  unfold State.hostPost
  split <;> rfl

/-- A posted host write of a function whose requests may issue is a write. -/
theorem State.hostPost_open (s : State) (f a : Nat) (bs : List Byte) (h : s.hostOpen f = true) : s.hostPost f a bs = s.hostPut a bs := by
  simp [State.hostPost, h]

/-! ### Fences and control messages -/

/-- A fence write changes the fences and, where a context owns it, host memory and the arbiters, or the writes the host port holds. -/
theorem State.putFence_eq (s : State) (f : Nat) (v : Fence) :
    s.putFence f v = { s with
      objs := { s.objs with fences := mapSet Fence.created s.objs.fences f v }, host := (s.putFence f v).host, hp := (s.putFence f v).hp,
      qos := (s.putFence f v).qos } := by
  unfold State.putFence
  dsimp only
  split
  · rw [State.hostPost_eq]
    rfl
  · rfl

theorem State.fence_putFence_same (s : State) (f : Nat) (v : Fence) : (s.putFence f v).fence f = v := by
  rw [State.putFence_eq]
  simp [State.fence]

theorem State.fence_putFence_other (s : State) {f g : Nat} (v : Fence) (h : g ≠ f) : (s.putFence f v).fence g = s.fence g := by
  rw [State.putFence_eq]
  simp [State.fence, mapGet_set_other, h]

/-- A control message that its next port takes is a message sent. -/
theorem State.control_eq (s : State) (v : Vat) (msg node tick arg : Nat) (body : List Byte) (h : s.wheyBlocked node 7 = false) :
    s.control v msg node tick arg body =
      { s with out := s.out ++ [⟨"CONTROL", node, [msg, v.desc.vatId], controlBytes v msg tick arg body⟩] } := by
  simp only [State.control, State.sendControl, h]
  rfl

/-- Sending a control message, or answering one that its next port drops, adds one message and changes nothing else. -/
theorem State.control_out (s : State) (v : Vat) (msg node tick arg : Nat) (body : List Byte) :
    ∃ m, s.control v msg node tick arg body = { s with out := s.out ++ [m] } := by
  unfold State.control State.sendControl
  split
  · exact ⟨_, rfl⟩
  · exact ⟨_, rfl⟩

/-! ### Steps of vats -/

/-- A Failed cause joins the step in progress of the vat; nothing else changes. -/
theorem State.failStep_eq (s : State) (vat : Nat) (c : Cause) : s.failStep vat c = { s with vats := (s.failStep vat c).vats } := rfl

theorem State.degradeStep_eq (s : State) (vat : Nat) : s.degradeStep vat = { s with vats := (s.degradeStep vat).vats } := rfl

theorem State.failAll_eq (s : State) (status src : Nat) : s.failAll status src = { s with vats := (s.failAll status src).vats } := by
  have h : ∀ (l : List Nat) (t : State), t = { s with vats := t.vats } → ∀ c : Cause,
      l.foldl (fun t v => t.failStep v c) t = { s with vats := (l.foldl (fun t v => t.failStep v c) t).vats } := by
    intro l
    induction l with
    | nil => intro t ht _; exact ht
    | cons v l ih =>
      intro t ht c
      rw [List.foldl_cons]
      apply ih
      rw [State.failStep_eq, ht]
  exact h _ s rfl _

end Sys2Proof.Machine
end

