-- ==== Sys2Proof/Laws/Units.lean ====
section
/-! SUPPORT. An operation that touches only its core: with no fault met, in a step that runs it, it is its effect on the core; the faults met
change only what counts and marks them. -/

namespace Sys2Proof.Machine
open Sys2Proof Sys2Proof.Safety

/-- With no fault met nothing is recorded. -/
theorem State.unitFaults_none (s : State) (vat c : Nat) : s.unitFaults vat c UnitFault.none = s := by
  simp [State.unitFaults, UnitFault.none]

/-- The step of the vat runs an operation whose word a verified Mould can hold. -/
theorem State.opRuns_of (s : State) (c vat code : Nat) (w : OpWord) (hb : (s.core c).state = .bound) (hv : (s.core c).vat = some vat)
    (h1 : s.fenced 1 c = false) (h2 : s.fenced 2 (c / 32) = false) (hs : ((s.vat? vat).bind (·.step)).isSome = true)
    (hi : (s.issued vat c w).isSome = true)
    (hc : opCode w = code) (hr : opReserved w = 0) (ho : operandOk w = true) : s.opRuns c code w = some vat := by
  simp [State.opRuns, opFits, State.coreActs, State.coreFenced, State.coreVat, hb, hv, h1, h2, hs, hi, hc, hr, ho]

/-- Such an operation on a core, with no fault met, is its effect on the core. -/
theorem State.unitOp_clean (s : State) (c vat code : Nat) (w : OpWord) (g : Core → Core) (hr : s.opRuns c code w = some vat) :
    s.unitOp c code w UnitFault.none g = s.onCore c g := by
  simp [State.unitOp, hr, State.unitFaults_none]

/-- An operation no step runs changes nothing. -/
theorem State.unitOp_idle (s : State) (c code : Nat) (w : OpWord) (f : UnitFault) (g : Core → Core) (hr : s.opRuns c code w = none) :
    s.unitOp c code w f g = s := by
  simp [State.unitOp, hr]

/-! ### What the faults of an operation leave of every core -/

/-- Every core is as before but for its state and its error counts. -/
@[irreducible] def CoresMarked (s t : State) : Prop := ∀ c, Marked (s.core c) (t.core c)

theorem CoresMarked.refl (s : State) : CoresMarked s s := by
  unfold CoresMarked
  exact fun _ => rfl

theorem CoresMarked.trans {a b c : State} (h : CoresMarked a b) (k : CoresMarked b c) : CoresMarked a c := by
  unfold CoresMarked at *
  intro x
  have h1 := h x; have h2 := k x
  unfold Marked at *
  rw [h2, h1]

theorem CoresMarked.of_cores {s t : State} (h : t.cores = s.cores) : CoresMarked s t := by
  unfold CoresMarked
  intro c
  have : t.core c = s.core c := by simp [State.core, h]
  unfold Marked
  rw [this]

theorem CoresMarked.foldl {α : Type} {g : State → α → State} (h : ∀ s a, CoresMarked s (g s a)) (l : List α) (s : State) : CoresMarked s (l.foldl g s) := by
  induction l generalizing s with
  | nil => exact CoresMarked.refl s
  | cons a l ih => exact (h s a).trans (ih _)

theorem CoresMarked.onCore (s : State) (c : Nat) (f : Core → Core) (h : ∀ u, Marked u (f u)) : CoresMarked s (s.onCore c f) := by
  unfold CoresMarked
  intro d
  by_cases e : d = c
  · subst e; rw [State.core_onCore_same]; exact h _
  · rw [State.core_onCore_other s f e]

@[simp] theorem State.faultLog_cores (s : State) (v r) : (s.faultLog v r).cores = s.cores := by rw [State.faultLog_eq]

@[simp] theorem State.journalAdd_cores (s : State) (d) : (s.journalAdd d).cores = s.cores := by rw [State.journalAdd_eq]

@[simp] theorem State.control_cores (s : State) (v m n t a b) : (s.control v m n t a b).cores = s.cores := by
  obtain ⟨x, h⟩ := State.control_out s v m n t a b; rw [h]

theorem CoresMarked.retireCore (s : State) (c k : Nat) : CoresMarked s (s.retireCore c k) := by
  unfold State.retireCore
  split
  · exact CoresMarked.refl s
  · dsimp only
    have h1 : CoresMarked s (((s.degradeCore c).journalAdd (.retireCore c k)).onCore c fun u => { u with state := .retired }) := by
      refine CoresMarked.trans (CoresMarked.of_cores ?_) (CoresMarked.onCore _ _ _ fun _ => rfl)
      rw [State.journalAdd_cores]
      unfold State.degradeCore
      split <;> rfl
    split
    · exact h1
    · split
      · exact h1.trans (CoresMarked.of_cores (by simp))
      · exact h1.trans (CoresMarked.of_cores (by simp))

theorem CoresMarked.coreError (s : State) (c k : Nat) : CoresMarked s (s.coreError c k) := by
  unfold State.coreError
  dsimp only
  split
  · exact CoresMarked.trans (CoresMarked.of_cores (by simp)) (CoresMarked.retireCore _ _ _)
  · exact CoresMarked.of_cores (by simp)

theorem State.unitError_cores (s : State) (v e o) : (s.unitError v e o).cores = s.cores := by
  unfold State.unitError; rw [State.failStep_eq]; rfl

theorem CoresMarked.bankCorrected (s : State) (c a : Nat) : CoresMarked s (s.bankCorrected c a) :=
  CoresMarked.trans (CoresMarked.onCore _ _ _ fun _ => rfl) (CoresMarked.coreError _ _ _)

theorem CoresMarked.bankError (s : State) (v c a : Nat) : CoresMarked s (s.bankError v c a) :=
  CoresMarked.trans (CoresMarked.trans (CoresMarked.onCore _ _ _ fun _ => rfl) (CoresMarked.of_cores (State.unitError_cores _ _ _ _))) (CoresMarked.coreError _ _ _)

theorem CoresMarked.parityError (s : State) (v c : Nat) : CoresMarked s (s.parityError v c) :=
  CoresMarked.trans (CoresMarked.trans (CoresMarked.onCore _ _ _ fun _ => rfl) (CoresMarked.of_cores (State.unitError_cores _ _ _ _))) (CoresMarked.coreError _ _ _)

theorem foldl_cores {α : Type} {g : State → α → State} (h : ∀ s a, (g s a).cores = s.cores) (l : List α) (s : State) :
    (l.foldl g s).cores = s.cores := by
  induction l generalizing s with
  | nil => rfl
  | cons a l ih => rw [List.foldl_cons, ih, h]

@[simp] theorem State.sendDown_cores (s : State) (v l n t) : (s.sendDown v l n t).cores = s.cores := by
  unfold State.sendDown State.sendControl
  (repeat' split) <;> rfl

@[simp] theorem State.startCopy_cores (s : State) (k) : (s.startCopy k).cores = s.cores := by
  unfold State.startCopy
  dsimp only
  (repeat' split)
  · rfl
  · rfl
  · exact foldl_cores (fun _ _ => State.sendDown_cores ..) _ _

@[simp] theorem State.retireSlice_cores (s : State) (k c) : (s.retireSlice k c).cores = s.cores := by
  unfold State.retireSlice
  dsimp only
  split
  · rfl
  · split
    · rw [foldl_cores (fun _ _ => State.faultLog_cores ..), State.journalAdd_cores]
    · rw [State.startCopy_cores, foldl_cores (fun _ _ => State.faultLog_cores ..), State.journalAdd_cores]

@[simp] theorem State.sliceError_cores (s : State) (k c) : (s.sliceError k c).cores = s.cores := by
  unfold State.sliceError
  dsimp only
  generalize (if c = 3 then 1024 else 2) = n
  split
  · rw [State.retireSlice_cores, State.journalAdd_cores]
  · rw [State.journalAdd_cores]

@[simp] theorem State.memCorrected_cores (s : State) (a) : (s.memCorrected a).cores = s.cores := by
  unfold State.memCorrected
  dsimp only
  split
  · rfl
  · split
    · rw [State.sliceError_cores]; rfl
    · rfl

@[simp] theorem State.memUncorrectable_cores (s : State) (a) : (s.memUncorrectable a).cores = s.cores := by
  unfold State.memUncorrectable
  dsimp only
  split
  · rfl
  · split
    · rw [State.sliceError_cores]; rfl
    · rfl

theorem State.curdError_cores (s : State) (v a) : (s.curdError v a).cores = s.cores := by
  unfold State.curdError
  rw [State.failStep_eq]
  simp

theorem State.slotError_cores (s : State) (v a) : (s.slotError v a).cores = s.cores := by
  unfold State.slotError; rw [State.failStep_eq]; rfl

theorem State.voidArrives_cores (s : State) (v a) : (s.voidArrives v a).cores = s.cores := by
  unfold State.voidArrives
  dsimp only
  obtain ⟨es, qs, h⟩ := State.note_frame (s.onTick fun k => { k with voids := sat32 k.voids 1 }) (0x28 + a / 256) "VOID_ARRIVAL" (s.atRouter a)
  rw [h]
  rfl

theorem CoresMarked.ite {a b d : State} (p : Prop) [Decidable p] (h : CoresMarked a b) (k : CoresMarked a d) : CoresMarked a (if p then b else d) := by
  split
  · exact h
  · exact k

theorem CoresMarked.fl {α : Type} {g : State → α → State} {a b : State} (h : CoresMarked a b) (k : ∀ s x, CoresMarked s (g s x)) (l : List α) : CoresMarked a (l.foldl g b) :=
  h.trans (CoresMarked.foldl k l b)

theorem CoresMarked.par {a b : State} (h : CoresMarked a b) (v c : Nat) : CoresMarked a (b.parityError v c) := h.trans (CoresMarked.parityError _ _ _)

theorem CoresMarked.tick {a b : State} (h : CoresMarked a b) (f) : CoresMarked a (b.onTick f) := h.trans (CoresMarked.of_cores (State.onTick_cores _ f))

theorem CoresMarked.unitFaults (s : State) (v c : Nat) (f : UnitFault) : CoresMarked s (s.unitFaults v c f) := by
  rw [State.unitFaults]
  generalize f.atUe = l1
  generalize f.atCe = l2
  generalize f.voids = l3
  generalize List.range f.slotUe = l4
  generalize f.slotCe = n5
  generalize f.memUe.filter isSlice = l6
  generalize f.memCe.filter isSlice = l7
  have e1 := fun (s : State) (x : Nat × Nat) => CoresMarked.bankError s v x.1 x.2
  have e2 := fun (s : State) (x : Nat × Nat) => CoresMarked.bankCorrected s x.1 x.2
  have e3 := fun (s : State) (_ : Nat) => CoresMarked.of_cores (State.voidArrives_cores s v c)
  have e4 := fun (s : State) (_ : Nat) => CoresMarked.of_cores (State.slotError_cores s v c)
  have e6 := fun (s : State) (a : Nat) => CoresMarked.of_cores (State.curdError_cores s v a)
  have e7 := fun (s : State) (a : Nat) => CoresMarked.of_cores (State.memCorrected_cores s a)
  have e8 := fun (s : State) (a : Nat) => CoresMarked.bankError s v c a
  have e9 := fun (s : State) (a : Nat) => CoresMarked.bankCorrected s c a
  have h2 := CoresMarked.fl (CoresMarked.foldl e9 f.ce s) e8 f.ue
  have h3 := CoresMarked.fl (CoresMarked.fl (CoresMarked.ite (f.parity = true) (CoresMarked.par h2 v c) h2) e7 l7) e6 l6
  have h4 := CoresMarked.ite (n5 = 0) h3 (CoresMarked.tick h3 fun k => { k with fabCe := sat32 k.fabCe n5 })
  have h5 := CoresMarked.fl (CoresMarked.fl (CoresMarked.fl (CoresMarked.fl h4 e4 l4) e3 l3) e2 l2) e1 l1
  exact h5

/-- The faults an operation met leave every core as it was but for its state and its error counts. -/
theorem State.unitFaults_marked (s : State) (vat c : Nat) (f : UnitFault) (d : Nat) : Marked (s.core d) ((s.unitFaults vat c f).core d) := by
  have h := CoresMarked.unitFaults s vat c f
  unfold CoresMarked at h
  exact h d

/-- An operation that a step runs: the core is its effect, and every other core what it was, but for what the faults met mark. -/
theorem State.unitOp_marked (s : State) (c vat code : Nat) (w : OpWord) (f : UnitFault) (g : Core → Core) (hr : s.opRuns c code w = some vat)
    (d : Nat) : Marked ((s.onCore c g).core d) ((s.unitOp c code w f g).core d) := by
  simp only [State.unitOp, hr]
  exact State.unitFaults_marked ..

end Sys2Proof.Machine
end

