-- ==== Sys2Proof/WellFormed.lean ====
section
/-! DEFINITION. The operands a command can carry: each within the range the specification gives its field. -/

namespace Sys2Proof

/-- A field of `n` bits. -/
def fieldOk (n v : Nat) : Bool := decide (v < 2 ^ n)

def byteOk (v : Nat) : Bool := fieldOk 8 v
def halfwordOk (v : Nat) : Bool := fieldOk 16 v
def wordOk (v : Nat) : Bool := fieldOk 32 v
/-- A Tick Count, or another 64-bit field. -/
def tickOk (v : Nat) : Bool := fieldOk 64 v

/-- A node number (R1). -/
def nodeFieldOk (v : Nat) : Bool := decide (v < 10240)
/-- A physical core ID (R1): cores 17 to 31 of a cluster are reserved. -/
def physCoreOk (v : Nat) : Bool := decide (v < 1024 ∧ v % 32 < 17)
def logicalCoreOk (v : Nat) : Bool := decide (v < 512)
def vatOk (v : Nat) : Bool := fieldOk 12 v
def stackOk (v : Nat) : Bool := fieldOk 4 v
def channelOk (v : Nat) : Bool := fieldOk 5 v
/-- A link port (R1). -/
def portOk (v : Nat) : Bool := fieldOk 3 v
/-- A CXL port (R1). -/
def cxlPortOk (v : Nat) : Bool := fieldOk 2 v
def dieOk (v : Nat) : Bool := fieldOk 2 v
/-- The gears of R146. -/
def gearFieldOk (v : Nat) : Bool := [72, 64, 60, 56, 48, 40, 32].contains v
/-- A phase of the fastest gear (R146). -/
def cycleOk (v : Nat) : Bool := decide (v < 72)
/-- A logical package of a vat, or 0xFFFF for none (R266, R289). -/
def lpkgOk (v : Nat) : Bool := decide (v < 10240)
def lpkgsOk (l : List Nat) : Bool := l.all lpkgOk
def senderOk (v : Nat) : Bool := lpkgOk v || decide (v = 0xFFFF)
/-- A session ID (R233). -/
def sessionOk (v : Nat) : Bool := wordOk v
/-- A context ID (R294). -/
def contextOk (v : Nat) : Bool := fieldOk 12 v
/-- A queue number (R294). -/
def queueOk (v : Nat) : Bool := fieldOk 4 v
/-- A command of a queue: its index is free-running and of 32 bits (R303). -/
def refOk (r : CmdRef) : Bool := contextOk r.ctx && queueOk r.q && wordOk r.idx
/-- An operand tile of a command (R226). -/
def operandNoOk (v : Nat) : Bool := decide (v < 4)
/-- The 32 MiB pages below a virtual address of 56 bits (R221). -/
def pageFieldOk (v : Nat) : Bool := fieldOk 39 v
/-- A memory object index (R294). -/
def objectOk (v : Nat) : Bool := fieldOk 20 v
/-- A function of the host port: the PF or one of 63 VFs (R463). -/
def functionOk (v : Nat) : Bool := fieldOk 6 v
/-- A vector of the PF or of a VF (R472). -/
def vectorFieldOk (v : Nat) : Bool := fieldOk 11 v
/-- A half of the package, and its complex. -/
def halfOk (v : Nat) : Bool := decide (v < 2)
/-- A hart of a complex (R340). -/
def hartOk (v : Nat) : Bool := decide (v < 16)
/-- A hart or an I/O agent of a complex (R344). -/
def ioAgentOk (v : Nat) : Bool := decide (v < 20)
def bridgeOk (v : Nat) : Bool := decide (v < 2)
/-- A line of 64 bytes of control memory (R341). -/
def lineOk (v : Nat) : Bool := fieldOk 42 v
/-- The bytes of a line as one number. -/
def lineDataOk (v : Nat) : Bool := fieldOk 512 v
/-- What an ownership request asks: a store's line is one. -/
def ownReqOk : OwnReq → Bool
  | .store d => lineDataOk d
  | .lr => true
/-- Why a complex met an error (R348): corrected, or one of four causes of loss. -/
def ccCauseOk (v : Nat) : Bool := decide (v < 5)
/-- A device slot of a CXL port (R479). -/
def deviceOk (v : Nat) : Bool := decide (v < 8)
/-- An entry of the extent table (R216). -/
def extentOk (v : Nat) : Bool := decide (v < 1024)
/-- A remote window (R194). -/
def windowOk (v : Nat) : Bool := decide (v < 64)
/-- A partition (R336). -/
def partitionOk (v : Nat) : Bool := fieldOk 4 v
def classOk (v : Nat) : Bool := fieldOk 3 v
/-- An arbiter (R325): 16 stacks of 32 channels, then two directions of four CXL ports and of the host port. -/
def arbiterOk (v : Nat) : Bool := decide (v < 522)
/-- A router of the fabric (R154). -/
def routerNoOk (v : Nat) : Bool := fieldOk 11 v
def routerPortOk (v : Nat) : Bool := fieldOk 3 v
def portMaskOk (v : Nat) : Bool := byteOk v
def tagOk (v : Nat) : Bool := halfwordOk v
def statusOk (v : Nat) : Bool := halfwordOk v
def statusesOk (l : List Nat) : Bool := l.all statusOk
/-- A curd slot of a link Tick (R170). -/
def linkSlotOk (v : Nat) : Bool := decide (v < 284)
/-- A lane pair of a link port (R180). -/
def fibreOk (v : Nat) : Bool := byteOk v
def lanesOk (v : Nat) : Bool := byteOk v
/-- A by-pass pair (R185). -/
def pairOk (v : Nat) : Bool := decide (v < 4)
/-- A whey virtual channel of a link (R176). -/
def channelVcOk (v : Nat) : Bool := decide (v < 2)
/-- A key slot (R364). -/
def keySlotOk (v : Nat) : Bool := byteOk v
/-- A kind of domain (R395). -/
def domainKindOk (v : Nat) : Bool := byteOk v
/-- A rail the tamper detectors watch (R489). -/
def railOk (v : Nat) : Bool := byteOk v
/-- A phase of a remould (R278). -/
def phaseOk (v : Nat) : Bool := byteOk v
/-- A register access is of 32 or 64 bits (R3, R4). -/
def accessOk (v : Nat) : Bool := decide (v = 4 ∨ v = 8)
/-- A device-physical address (R201). -/
def dpaOk (v : Nat) : Bool := decide (v < 2 ^ 49 + 4 * 2 ^ 31)
/-- A 32-byte granule of an HBM stack, as its scrubber counts them (R213). -/
def granuleFieldOk (v : Nat) : Bool := decide (v < 48000000000)
/-- The eight activity counters (R418). -/
def countersOk (l : List Nat) : Bool := decide (l.length = 8)
/-- The eight weights of a calibration record (R419). -/
def weightsOk (l : List Nat) : Bool := decide (l.length = 8) && l.all wordOk
/-- A nonce (R392). -/
def nonceOk (l : List Byte) : Bool := decide (l.length = 32)
/-- A shared secret of ML-KEM-1024, 32 bytes (R372). -/
def secretOk (v : Nat) : Bool := fieldOk 256 v
/-- An SLH-DSA-SHAKE-256s signature (R376). -/
def signatureOk (l : List Byte) : Bool := decide (l.length = 29792)
/-- A 128-byte fabric slot (R154). -/
def slotOk (h : Slot) : Bool := decide (h.data.length = 128)
/-- Bytes another package's window gave, in whole slots (R90). -/
def farOk (l : List Byte) : Bool := decide (l.length % 128 = 0)
/-- The faults an operation met name banks by byte address and slots by position. -/
def unitFaultOk (f : UnitFault) : Bool := f.ce.all wordOk && f.ue.all wordOk && f.memCe.all dpaOk && f.memUe.all dpaOk && f.voids.all wordOk &&
    (f.atCe ++ f.atUe).all fun p => physCoreOk p.1 && wordOk p.2
/-- Stalled cores (R400). -/
def stallsOk (l : List Stall) : Bool := l.all fun x => physCoreOk x.core && byteOk x.unit && halfwordOk x.expected
/-- A lane table (R253): at most 1,024 lanes, a parent row of at most 64 nodes, no token past the count. -/
def laneOk (l : Lane) : Bool :=
  wordOk l.session && wordOk l.posBase && halfwordOk l.resSlot && halfwordOk l.count && decide (l.parents.length ≤ 64) &&
    decide (l.tokens.length ≤ l.count)
def laneTableOk (t : LaneTable) : Bool := tickOk t.start && decide (t.lanes.length ≤ 1024) && t.lanes.all laneOk
def reportsOk (l : List MemberReport) : Bool := l.all fun r => nodeFieldOk r.node && r.causes.all fun c => statusOk c.1 && tickOk c.2.1 && fieldOk 24 c.2.2
/-- A whey header (R160): as the device makes them, nothing reserved. -/
def wheyFieldOk (p : WheyPacket) : Bool :=
  halfwordOk p.format && byteOk p.kind && fieldOk 2 p.dataSlots && classOk p.cls && halfwordOk p.dest && halfwordOk p.src && tagOk p.tag &&
    halfwordOk p.vat && wordOk p.arg && tickOk p.addr
/-- A flit (R170). -/
def flitOk (x : Flit) : Bool :=
  halfwordOk x.format && byteOk x.kind && fieldOk 3 x.session && classOk x.cls && fieldOk 2 x.sub && halfwordOk x.srcNode && halfwordOk x.dst &&
    wordOk x.flow && halfwordOk x.txTick && halfwordOk x.arg && decide (x.payload.length = 256)
/-- A transmit marker (R169). -/
def markerFieldOk (m : Marker) : Bool :=
  wordOk m.tickLow && halfwordOk m.creditVc0 && halfwordOk m.creditVc1 && byteOk m.keyPhase && byteOk m.tagValid && decide (m.authOk.length ≤ 8)
def offerOk (m : OfferMsg) : Bool :=
  vatOk m.vat && sessionOk m.session && halfwordOk m.count && fieldOk 4 m.partition && tickOk m.eligibleTick && contextOk m.ctx
def pageEntryOk (e : PageEntry) : Bool := halfwordOk e.ordinal && wordOk e.hbmBlock && wordOk e.caveSlot
def pageCmdOk (m : PageCmdMsg) : Bool :=
  vatOk m.vat && senderOk m.sender && sessionOk m.session && halfwordOk m.resSlot && wordOk m.epoch && halfwordOk m.holderPool && m.entries.all pageEntryOk
/-- Addresses whose read was uncorrectable (R212). -/
def dpasOk (l : List Nat) : Bool := l.all dpaOk
/-- The errors some reads met. -/
def readErrsOk (b : ReadErrs) : Bool := dpasOk (b.ue ++ b.ce)
/-- What a HALT asks for. -/
def haltForOk : HaltFor → Bool
  | .stop => true
  | .remould => true
  | .move n => halfwordOk n
/-- Where a VAT_HALT or VAT_UNBIND stands. -/
def vatOrderOk : VatOrder → Bool
  | .issued => true
  | .order vat boundary => vatOk vat && tickOk boundary
  | .others vat => vatOk vat
/-- What the members of a vat answer: status and two counts. -/
def membersOk (l : List (Nat × Nat × Nat)) : Bool := l.all fun m => statusOk m.1
def stageResultOk (r : StageResult) : Bool := r.hbmFailed.all stackOk && r.journalLost.all halfOk
/-- The readings of R430. -/
def tempsOk (t : Temps) : Bool := decide (t.die.length = 64 ∧ t.base.length = 32 ∧ t.stack.length = 16)

/-- A command whose operands all lie in range. -/
def Instr.wf : Instr → Bool
  | .tickEdge _ _ stalls => stallsOk stalls
  | .loadCommit value => wordOk value
  | .droopStretch cycle => cycleOk cycle
  | .gearArm vat gear seq => vatOk vat.val && gearFieldOk gear && byteOk seq
  | .gearAck node gear seq => nodeFieldOk node.val && gearFieldOk gear && byteOk seq
  | .gearReq node arg => nodeFieldOk node.val && wordOk arg
  | .restReq vat node f => vatOk vat.val && nodeFieldOk node && functionOk f
  | .laneTableFreeze vat => vatOk vat.id && vat.announced.all laneTableOk
  | .stepStart vat announced => vatOk vat && laneTableOk announced
  | .stepBoundary vat reports => vatOk vat && reportsOk reports
  | .boundaryMark vat => vatOk vat
  | .stepHang vat => vatOk vat
  | .samplerDraw vat => vatOk vat.vat && readErrsOk vat.bad
  | .refreshWindowStart stack channel => stackOk stack && channelOk channel
  | .mm core _ f => physCoreOk core && unitFaultOk f
  | .accStore core _ f => physCoreOk core && unitFaultOk f
  | .accLoad core _ f => physCoreOk core && unitFaultOk f
  | .tblLoad core _ f => physCoreOk core && unitFaultOk f
  | .decode core _ f => physCoreOk core && unitFaultOk f
  | .get core _ far f => physCoreOk core && farOk far && unitFaultOk f
  | .put core _ f => physCoreOk core && unitFaultOk f
  | .send core _ f => physCoreOk core && unitFaultOk f
  | .moverCopy core _ f => physCoreOk core && unitFaultOk f
  | .getx core _ far f => physCoreOk core && farOk far && unitFaultOk f
  | .getl core _ f => physCoreOk core && unitFaultOk f
  | .putl core _ f => physCoreOk core && unitFaultOk f
  | .curdHbmReadReady dpa _ => dpaOk dpa
  | .vld core _ f => physCoreOk core && unitFaultOk f
  | .vst core _ f => physCoreOk core && unitFaultOk f
  | .vldmx core _ f => physCoreOk core && unitFaultOk f
  | .vstmx core _ f => physCoreOk core && unitFaultOk f
  | .vmsk core _ f => physCoreOk core && unitFaultOk f
  | .vatom core _ f => physCoreOk core && unitFaultOk f
  | .vswap core _ f => physCoreOk core && unitFaultOk f
  | .add core _ f => physCoreOk core && unitFaultOk f
  | .sub core _ f => physCoreOk core && unitFaultOk f
  | .mul core _ f => physCoreOk core && unitFaultOk f
  | .div core _ f => physCoreOk core && unitFaultOk f
  | .fma core _ f => physCoreOk core && unitFaultOk f
  | .min core _ f => physCoreOk core && unitFaultOk f
  | .max core _ f => physCoreOk core && unitFaultOk f
  | .abs core _ f => physCoreOk core && unitFaultOk f
  | .neg core _ f => physCoreOk core && unitFaultOk f
  | .mov core _ f => physCoreOk core && unitFaultOk f
  | .bcast core _ f => physCoreOk core && unitFaultOk f
  | .rnd core _ f => physCoreOk core && unitFaultOk f
  | .rcp core _ f => physCoreOk core && unitFaultOk f
  | .sqrt core _ f => physCoreOk core && unitFaultOk f
  | .rsqrt core _ f => physCoreOk core && unitFaultOk f
  | .exp core _ f => physCoreOk core && unitFaultOk f
  | .exp2 core _ f => physCoreOk core && unitFaultOk f
  | .log2 core _ f => physCoreOk core && unitFaultOk f
  | .sinpi core _ f => physCoreOk core && unitFaultOk f
  | .cospi core _ f => physCoreOk core && unitFaultOk f
  | .tanh core _ f => physCoreOk core && unitFaultOk f
  | .rsum core _ f => physCoreOk core && unitFaultOk f
  | .rmax core _ f => physCoreOk core && unitFaultOk f
  | .rmin core _ f => physCoreOk core && unitFaultOk f
  | .rmsnorm core _ f => physCoreOk core && unitFaultOk f
  | .layernorm core _ f => physCoreOk core && unitFaultOk f
  | .softmax core _ f => physCoreOk core && unitFaultOk f
  | .rope core _ f => physCoreOk core && unitFaultOk f
  | .silu core _ f => physCoreOk core && unitFaultOk f
  | .gelu core _ f => physCoreOk core && unitFaultOk f
  | .swiglu core _ f => physCoreOk core && unitFaultOk f
  | .routerSlotMove router inPort outMask _ => routerNoOk router && routerPortOk inPort && portMaskOk outMask
  | .wheyPacketForward router inPort _ => routerNoOk router && routerPortOk inPort
  | .wheyReadRequest p _ => wheyFieldOk p
  | .wheyReadData p _ => wheyFieldOk p
  | .wheyWrite p _ => wheyFieldOk p
  | .wheyWriteAck p _ => wheyFieldOk p
  | .kvPageTransfer vat session ordinal _ _ => vatOk vat && sessionOk session && halfwordOk ordinal
  | .remoteWindowAccess srcNode _ p => nodeFieldOk srcNode.node && readErrsOk srcNode.bad && wheyFieldOk p
  | .linkSlotTransmit port slot h0 h1 => portOk port && linkSlotOk slot && slotOk h0 && slotOk h1
  | .curdFlitReceive port slot fl => portOk port && linkSlotOk slot && flitOk fl
  | .curdFlitDeliver port slot => portOk port && linkSlotOk slot
  | .wheyFlitReceive port vc fl => portOk port && channelVcOk vc && flitOk fl
  | .tickMarker port m => portOk port && markerFieldOk m
  | .portDown port _ => portOk port
  | .train port value => portOk port && wordOk value
  | .unfence port value => portOk port && wordOk value
  | .lightDetect port lanes => portOk port && lanesOk lanes
  | .lightLoss port lanes _ => portOk port && lanesOk lanes
  | .linkEqualiseDone port => portOk port
  | .linkStageTimeout port => portOk port
  | .peerId port node peerPort tx ty tz => portOk port.val && nodeFieldOk node && portOk peerPort && byteOk tx && byteOk ty && byteOk tz
  | .echoReq port seq holdQ => portOk port.val && byteOk seq && wordOk holdQ
  | .echoResp port seq roundTripQ holdQ => portOk port.val && byteOk seq && wordOk roundTripQ && wordOk holdQ
  | .align port tick _ phiQ => portOk port.val && tickOk tick && wordOk phiQ
  | .linkVerifyEnd port _ => portOk port
  | .bypassOpen value => wordOk value
  | .bypassSwitchDone pair => pairOk pair
  | .linkCommit value => wordOk value
  | .linkKeyVerifyRound port session _ => portOk port && sessionOk session
  | .winCommit window value => windowOk window && wordOk value
  | .mcReserve srcNode vat tag len window offset => nodeFieldOk srcNode.val && vatOk vat && tagOk tag && wordOk len && windowOk window && tickOk offset
  | .mcGrant target tag status => nodeFieldOk target.val && tagOk tag && statusOk status
  | .mcAck target tag => nodeFieldOk target.val && tagOk tag
  | .mcCommit srcNode tag => nodeFieldOk srcNode.val && tagOk tag
  | .mcCancel srcNode tag status => nodeFieldOk srcNode.val && tagOk tag && statusOk status
  | .multicastStall tag => tagOk tag
  | .memberDown vat node reporter => vatOk vat.val && nodeFieldOk node && nodeFieldOk reporter
  | .halt vat tick what => vatOk vat.val && tickOk tick && haltForOk what
  | .resume vat tick compSeq moved => vatOk vat.val && tickOk tick && wordOk compSeq && lpkgsOk moved
  | .memberReady vat lpkg phase => vatOk vat.val && lpkgOk lpkg && phaseOk phase
  | .remouldStageDone vat done => vatOk vat && statusOk done.status && halfwordOk done.move
  | .pauseLoadDone vat status => vatOk vat && statusOk status
  | .recoveryTimeout vat => vatOk vat
  | .boundaryReport vat tick => vatOk vat.val && tickOk tick
  | .boundaryReportTimer vat => vatOk vat
  | .deputyTakeover vat => vatOk vat
  | .takeover vat sender => vatOk vat.val && senderOk sender
  | .coreRetired vat lpkg core => vatOk vat.val && lpkgOk lpkg && logicalCoreOk core
  | .offer m => offerOk m
  | .sessionEligible vat session => vatOk vat && sessionOk session
  | .sessionPageIn vat session => vatOk vat && sessionOk session
  | .sessionEviction vat => vatOk vat
  | .pageCmd m tags => pageCmdOk m && tags.all fun t => wordOk t.session && wordOk t.epoch && halfwordOk t.pool
  | .pageAck vat session lpkg status => vatOk vat.val && sessionOk session && lpkgOk lpkg && statusOk status
  | .patrolScrubRead stack ca _ => stackOk stack && granuleFieldOk ca
  | .sliceCopyEnd die ok => dieOk die && (ok.ce ++ ok.ue.toList).all fun o => decide (o < 2 ^ 24)
  | .dcAddEvent port dev off bytes => cxlPortOk port && deviceOk dev && tickOk off && tickOk bytes
  | .extentLost entry => extentOk entry
  | .caveZeroingDone entry => extentOk entry
  | .pageWalkDone ref operand page => refOk ref && operandNoOk operand && pageFieldOk page.page && (page.ce ++ page.ue).all fun l => decide (l < 3)
  | .faultDone value => wordOk value
  | .faultEnable value => wordOk value
  | .faultTimeout ref => refOk ref
  | .sqTail ctx q value => contextOk ctx && queueOk q && wordOk value
  | .cqHead ctx q value => contextOk ctx && queueOk q && wordOk value
  | .commandFetch ctx q => contextOk ctx && queueOk q
  | .commandDispatch ctx q => contextOk ctx && queueOk q
  | .commandComplete ref => refOk ref
  | .commandHang ref => refOk ref
  | .contextSwapIn ctx => contextOk ctx
  | .contextTeardownDone ctx => contextOk ctx
  | .memobjFramesRelease index => objectOk index
  | .nop ref => refOk ref
  | .copy ref bad => refOk ref && readErrsOk bad
  | .copyIn ref => refOk ref
  | .copyOut ref bad => refOk ref && readErrsOk bad
  | .sealCmd ref bad => refOk ref && readErrsOk bad
  | .openCmd ref => refOk ref
  | .invalidateTranslation ref => refOk ref
  | .sessionOpen ref => refOk ref
  | .sessionClose ref => refOk ref
  | .sessionReset ref => refOk ref
  | .sessionCancel ref => refOk ref
  | .sessionQuery ref => refOk ref
  | .sessionSetSampling ref => refOk ref
  | .sessionSetBias ref bad => refOk ref && readErrsOk bad
  | .sessionTree ref bad => refOk ref && readErrsOk bad
  | .generate ref bad => refOk ref && readErrsOk bad
  | .contextCreate ref => refOk ref
  | .contextDestroy ref => refOk ref
  | .queueCreate ref => refOk ref
  | .queueDestroy ref => refOk ref
  | .memobjCreate ref => refOk ref
  | .memobjFree ref => refOk ref
  | .caveAccept ref => refOk ref
  | .caveRelease ref => refOk ref
  | .vatDefine ref => refOk ref
  | .mouldLoad ref _ deep => refOk ref && statusesOk deep.fails && readErrsOk deep.bad
  | .bindReserve ref => refOk ref
  | .bindComplete ref => refOk ref.ref && readErrsOk ref.bad
  | .sessionsConfigure ref members _ => refOk ref && membersOk members
  | .vatStart ref members _ => refOk ref && membersOk members
  | .vatHalt ref from' => refOk ref && vatOrderOk from'
  | .vatUnbind ref from' => refOk ref && vatOrderOk from'
  | .vatRemould req => refOk req.ref
  | .vatQuery ref => refOk ref
  | .meterRead ref => refOk ref
  | .meterAck ref => refOk ref
  | .arbiterDecision arb => arbiterOk arb
  | .waitLimitMiss arb cls => arbiterOk arb && classOk cls
  | .qosCommit value => wordOk value
  | .funcCommit f value => functionOk f && wordOk value
  | .heartbeat k _ epoch seq bridge => halfOk k.val && wordOk epoch && wordOk seq && bridgeOk bridge
  | .heartbeatSend k => halfOk k
  | .hbSeq k value => halfOk k && wordOk value
  | .watchdogExpiry k => halfOk k
  | .complexError k cause => halfOk k && ccCauseOk cause
  | .selfFail k value => halfOk k && wordOk value
  | .peerAliveLoss k => halfOk k
  | .takeoverDone k => halfOk k
  | .bridgeDown bridge => bridgeOk bridge
  | .heartbeatTimeout k => halfOk k
  | .peerRestart k value => halfOk k && wordOk value
  | .splitResume k => halfOk k
  | .splitRejoin k => halfOk k
  | .splitDeviceReset k => halfOk k
  | .hartReadMiss k hart line cycle => halfOk k && hartOk hart && lineOk line && tickOk cycle
  | .ownershipRequest k hart line data cycle => halfOk k && hartOk hart && lineOk line && ownReqOk data && tickOk cycle
  | .lineEviction k hart line cycle => halfOk k && hartOk hart && lineOk line && tickOk cycle
  | .placingWrite k agent hart line data cycle _ => halfOk k && ioAgentOk agent && hartOk hart && lineOk line && lineDataOk data && tickOk cycle
  | .invalidatingWrite k agent line mask data cycle => halfOk k && ioAgentOk agent && lineOk line && byteOk mask && lineDataOk data && tickOk cycle
  | .ioRead k agent line => halfOk k && ioAgentOk agent && lineOk line
  | .report sig => signatureOk sig
  | .keyLoad ss => secretOk ss
  | .slotQuiet slot => keySlotOk slot
  | .slotEmpty slot => keySlotOk slot
  | .washPatternStart _ => true
  | .washEnd _ _ => true
  | .tamperPin _ => true
  | .supplyTamper rail _ _ => railOk rail
  | .tickGlitch _ _ => true
  | .coldTamper _ => true
  | .domainResetRequest kind index => domainKindOk kind && halfwordOk index
  | .domainDrainTimeout kind index => domainKindOk kind && halfwordOk index
  | .dumpLimit kind index => domainKindOk kind && halfwordOk index
  | .domainResetDone kind index => domainKindOk kind && halfwordOk index
  | .routerParityError router => routerNoOk router
  | .hbmPhyTrainingLoss stack => stackOk stack
  | .cxlLinkDown port => cxlPortOk port
  | .vfFlr f => functionOk f
  | .d3hotExit f => functionOk f
  | .busMasterEnable f value => functionOk f && wordOk value
  | .hostPortError _ => true
  | .msixUnmask f vector => functionOk f && vectorFieldOk vector
  | .portEnable port value => cxlPortOk port && wordOk value
  | .poolId port dev value => cxlPortOk port && deviceOk dev && wordOk value
  | .powerEstimate counts => countersOk counts
  | .recalibration statDw statTc weights => halfwordOk statDw && halfwordOk statTc && weightsOk weights
  | .temperatureChange t => tempsOk t
  | .pwrCommit value => wordOk value
  | .cellarReq value => wordOk value
  | .cellarExit value => wordOk value
  | .meterInterval vat => vatOk vat
  | .resetRelease sbAddr => byteOk sbAddr
  | .bootStageDone r => stageResultOk r
  | .starterGo value => wordOk value
  | .starterDownloadDone _ _ => true
  | .starterReady statDw statTc weights => halfwordOk statDw && halfwordOk statTc && weightsOk weights
  | .svnCommit value => wordOk value
  | .toOpened _ => true
  | .pkgTelemetry format half rsv => halfwordOk format && byteOk half && byteOk rsv
  | .partitionPower format half rsv partition => halfwordOk format && byteOk half && byteOk rsv && partitionOk partition
  | .sbMeterRead format half rsv fromSeq count => halfwordOk format && byteOk half && byteOk rsv && wordOk fromSeq && wordOk count
  | .cellarWake format half rsv => halfwordOk format && byteOk half && byteOk rsv
  | .ccStatus format half rsv => halfwordOk format && byteOk half && byteOk rsv
  | .splitResolve format half rsv value => halfwordOk format && byteOk half && byteOk rsv && wordOk value
  | .lcSpent format half rsv confirm => halfwordOk format && byteOk half && byteOk rsv && wordOk confirm
  | .rcRegisterRead _ size => accessOk size
  | .registerWrite _ size value => accessOk size && wordOk value
  | .tickEdgeMissing => true
  | .holdoverExit => true
  | .tickCountLoadApply => true
  | .gearPllLocked => true
  | .gearArmFail => true
  | .gearChangeTick => true
  | .gearLockLost => true
  | .linkKeySwitch => true
  | .faultBatchClose => true
  | .keyRetire => true
  | .kemRotate => true
  | .identExport => true
  | .kvRequestEnd => true
  | .deviceResetRequest => true
  | .pcieHostReset => true
  | .pfFlr => true
  | .capUpdate => true
  | .hotExit => true
  | .tenantPowerWindow => true
  | .cellarEntryDone => true
  | .cellarWakeDone => true
  | .journalCompaction => true
  | .meterCompaction => true
  | .pwrgdFall => true
  | .perstNAssert => true
  | .bootStageTimeout => true
  | .toRipe => true
  | .toSpent => true
  | .vbypOutOfBand => true
  | .jtagTckEdge _ _ _ => true
  | .d3hotEntry f => functionOk f
  | .mctpControl command data => byteOk command && byteOk data
  | .lifecycleGet format half rsv => halfwordOk format && byteOk half && byteOk rsv
  | .reportStart format half rsv nonce => halfwordOk format && byteOk half && byteOk rsv && nonceOk nonce
  | .reportRead format half rsv offset len => halfwordOk format && byteOk half && byteOk rsv && wordOk offset && wordOk len
  | .deadLane port lane => portOk port && fibreOk lane
  | .lightReturn port => portOk port
  | .storeToExclusiveLine k hart line data => halfOk k && hartOk hart && lineOk line && lineDataOk data
  | .holdExpiry k line cycle => halfOk k && lineOk line && tickOk cycle
  | .cxlPortTrained port width rate _ => cxlPortOk port && byteOk width && byteOk rate
  | .idleFlitReceive port => portOk port.val

end Sys2Proof
end

