-- ==== Sys2Proof/Tests/Slice0.lean ====
section
/-! SUPPORT. Tests: commands out of range are refused; and for each clause of each statement a small state and operands that meet its hypotheses
together. -/

open Sys2Proof Sys2Proof.Machine
open Sys2Proof.Safety

namespace Sys2Proof.Tests

-- One thread: several hundred kernel evaluations at once ask for more threads than the host gives.
set_option Elab.async false
set_option linter.all false

/-- A head as R7 to R9 ask. -/
def tHdr : MsgHdr := ⟨0x1000, false⟩

/-! ### Ill-formed commands: for each check one command at the edge of its range, which is well-formed, and one past it, which is refused -/

def illWhey (cls dest : Nat) : WheyPacket := ⟨0x1000, 1, 0, cls, false, dest, 5, 1, 7, 0, 0, []⟩
def illFlit (sub payload : Nat) : Flit := ⟨0x1000, 1, 0, 2, sub, 5, 6, 0, 0, 0, zeros payload, false⟩
def illMarker (keyPhase : Nat) (auth : List Bool) : Marker := ⟨tHdr, true, false, true, 0, 0, 0, keyPhase, 0, auth, 0, 0⟩
def illPageCmd (resSlot ordinal : Nat) : PageCmdMsg := ⟨tHdr, 7, 0xFFFF, 0, 1, resSlot, true, 1, 0, [⟨ordinal, false, false, 0, 0⟩]⟩
def illVoids (p : Nat) : UnitFault := { UnitFault.none with voids := [p] }

def tIll1 : List (Instr × Instr) := [
  (.tickEdge true true [⟨16, 1, 2⟩], .tickEdge true true [⟨17, 1, 2⟩]),
  (.loadCommit (2 ^ 32 - 1), .loadCommit (2 ^ 32)),
  (.droopStretch 71, .droopStretch 72),
  (.gearArm (.good 4095) 32 255, .gearArm (.good 4096) 32 255),
  (.gearArm (.good 4095) 72 255, .gearArm (.good 4095) 33 255),
  (.gearArm (.good 4095) 60 255, .gearArm (.good 4095) 60 256),
  (.gearAck (.good 10239) 64 0, .gearAck (.good 10240) 64 0),
  (.restReq (.good 7) 0 63, .restReq (.good 7) 0 64),
  (.stepStart 7 ⟨0, 0, [⟨1, 0, 0, 1, [0], [5]⟩], false⟩, .stepStart 7 ⟨0, 0, [⟨1, 0, 0, 1, [0], [5, 6]⟩], false⟩),
  (.stepBoundary 7 [⟨10239, false, [], 0⟩], .stepBoundary 7 [⟨10240, false, [], 0⟩]),
  (.refreshWindowStart 15 31, .refreshWindowStart 16 31),
  (.refreshWindowStart 15 0, .refreshWindowStart 15 32)]

def tIll2 : List (Instr × Instr) := [
  (.mm 1008 0 UnitFault.none, .mm 1024 0 UnitFault.none),
  (.mm 0 0 (illVoids (2 ^ 32 - 1)), .mm 0 0 (illVoids (2 ^ 32))),
  (.get 0 0 (zeros 128) UnitFault.none, .get 0 0 (zeros 127) UnitFault.none),
  (.curdHbmReadReady (2 ^ 49 + 2 ^ 33 - 1) .clean, .curdHbmReadReady (2 ^ 49 + 2 ^ 33) .clean),
  (.routerSlotMove 2047 7 255 .clean, .routerSlotMove 2048 7 255 .clean),
  (.routerSlotMove 2047 0 255 .clean, .routerSlotMove 2047 8 255 .clean),
  (.routerSlotMove 2047 0 0 .clean, .routerSlotMove 2047 0 256 .clean),
  (.wheyReadRequest (illWhey 7 5) .clean, .wheyReadRequest (illWhey 8 5) .clean),
  (.kvPageTransfer 7 (2 ^ 32 - 1) 65535 true .clean, .kvPageTransfer 7 (2 ^ 32) 65535 true .clean),
  (.kvPageTransfer 7 0 0 true .clean, .kvPageTransfer 7 0 65536 true .clean),
  (.linkSlotTransmit 7 283 ⟨zeros 128, false⟩ ⟨zeros 128, true⟩, .linkSlotTransmit 8 283 ⟨zeros 128, false⟩ ⟨zeros 128, true⟩),
  (.linkSlotTransmit 7 0 ⟨zeros 128, false⟩ ⟨zeros 128, true⟩, .linkSlotTransmit 7 284 ⟨zeros 128, false⟩ ⟨zeros 128, true⟩),
  (.linkSlotTransmit 0 0 ⟨zeros 128, false⟩ ⟨zeros 128, true⟩, .linkSlotTransmit 0 0 ⟨zeros 128, false⟩ ⟨zeros 127, true⟩)]

def tIll3 : List (Instr × Instr) := [
  (.curdFlitReceive 0 0 (illFlit 3 256), .curdFlitReceive 0 0 (illFlit 4 256)),
  (.curdFlitReceive 0 0 (illFlit 0 256), .curdFlitReceive 0 0 (illFlit 0 255)),
  (.wheyFlitReceive 0 1 (illFlit 0 256), .wheyFlitReceive 0 2 (illFlit 0 256)),
  (.tickMarker 0 (illMarker 255 []), .tickMarker 0 (illMarker 256 [])),
  (.tickMarker 0 (illMarker 0 (List.replicate 8 true)), .tickMarker 0 (illMarker 0 (List.replicate 9 true))),
  (.lightDetect 0 255, .lightDetect 0 256),
  (.align (.good 0) (2 ^ 64 - 1) true 0, .align (.good 0) (2 ^ 64) true 0),
  (.bypassSwitchDone 3, .bypassSwitchDone 4),
  (.winCommit 63 0, .winCommit 64 0),
  (.mcGrant (.good 5) 65535 0, .mcGrant (.good 5) 65536 0),
  (.mcGrant (.good 5) 0 65535, .mcGrant (.good 5) 0 65536),
  (.resume (.good 7) 0 0 [10239], .resume (.good 7) 0 0 [0xFFFF]),
  (.memberReady (.good 7) 10239 0, .memberReady (.good 7) 10240 0),
  (.memberReady (.good 7) 0 255, .memberReady (.good 7) 0 256),
  (.takeover (.good 7) 0xFFFF, .takeover (.good 7) 10240),
  (.coreRetired (.good 7) 0 511, .coreRetired (.good 7) 0 512)]

def tIll4 : List (Instr × Instr) := [
  (.offer ⟨tHdr, 7, 1, false, 1, 0, 15, 0, 0⟩, .offer ⟨tHdr, 7, 1, false, 1, 0, 16, 0, 0⟩),
  (.pageCmd (illPageCmd 65535 0) [], .pageCmd (illPageCmd 65536 0) []),
  (.pageCmd (illPageCmd 0 65535) [], .pageCmd (illPageCmd 0 65536) []),
  (.patrolScrubRead 0 47999999999 .clean, .patrolScrubRead 0 48000000000 .clean),
  (.sliceCopyEnd 3 ⟨[], none⟩, .sliceCopyEnd 4 ⟨[], none⟩),
  (.dcAddEvent 3 7 0 0, .dcAddEvent 4 7 0 0),
  (.dcAddEvent 0 7 0 0, .dcAddEvent 0 8 0 0),
  (.extentLost 1023, .extentLost 1024),
  (.pageWalkDone ⟨4095, 15, 2 ^ 32 - 1⟩ 3 ⟨0, [], []⟩, .pageWalkDone ⟨4095, 15, 2 ^ 32⟩ 3 ⟨0, [], []⟩),
  (.pageWalkDone ⟨0, 0, 0⟩ 0 ⟨0, [], []⟩, .pageWalkDone ⟨0, 0, 0⟩ 4 ⟨0, [], []⟩),
  (.pageWalkDone ⟨0, 0, 0⟩ 0 ⟨(2 ^ 39 - 1), [], []⟩, .pageWalkDone ⟨0, 0, 0⟩ 0 ⟨(2 ^ 39), [], []⟩),
  (.sqTail 4095 15 0, .sqTail 4096 15 0),
  (.sqTail 0 15 0, .sqTail 0 16 0),
  (.memobjFramesRelease (2 ^ 20 - 1), .memobjFramesRelease (2 ^ 20)),
  (.copy ⟨0, 0, 0⟩ ⟨[2 ^ 49], []⟩, .copy ⟨0, 0, 0⟩ ⟨[2 ^ 50], []⟩),
  (.mouldLoad ⟨0, 0, 0⟩ true ⟨[65535], ReadErrs.none⟩, .mouldLoad ⟨0, 0, 0⟩ true ⟨[65536], ReadErrs.none⟩),
  (.sessionsConfigure ⟨0, 0, 0⟩ [(65535, 0, 0)] none, .sessionsConfigure ⟨0, 0, 0⟩ [(65536, 0, 0)] none)]

def tIll5 : List (Instr × Instr) := [
  (.waitLimitMiss 521 7, .waitLimitMiss 522 7),
  (.waitLimitMiss 0 7, .waitLimitMiss 0 8),
  (.heartbeat (.good 1) false 0 0 1, .heartbeat (.good 2) false 0 0 1),
  (.heartbeat (.good 1) false 0 0 0, .heartbeat (.good 1) false 0 0 2),
  (.complexError 0 4, .complexError 0 5),
  (.hartReadMiss 0 15 0 0, .hartReadMiss 0 16 0 0),
  (.hartReadMiss 0 0 (2 ^ 42 - 1) 0, .hartReadMiss 0 0 (2 ^ 42) 0),
  (.ownershipRequest 0 0 0 (.store (2 ^ 512 - 1)) 0, .ownershipRequest 0 0 0 (.store (2 ^ 512)) 0),
  (.ioRead 0 19 0, .ioRead 0 20 0),
  (.report (zeros 29792), .report (zeros 29791)),
  (.keyLoad (2 ^ 256 - 1), .keyLoad (2 ^ 256)),
  (.slotQuiet 255, .slotQuiet 256),
  (.supplyTamper 255 0 0, .supplyTamper 256 0 0),
  (.domainResetRequest 255 0, .domainResetRequest 256 0),
  (.msixUnmask 63 2047, .msixUnmask 63 2048),
  (.powerEstimate [0, 0, 0, 0, 0, 0, 0, 0], .powerEstimate [0, 0, 0, 0, 0, 0, 0])]

theorem test_wf_clock : (tIll1.all fun p => p.1.wf && !p.2.wf) = true := by decide +kernel
theorem test_wf_core : (tIll2.all fun p => p.1.wf && !p.2.wf) = true := by decide +kernel
theorem test_wf_link : (tIll3.all fun p => p.1.wf && !p.2.wf) = true := by decide +kernel
theorem test_wf_command : (tIll4.all fun p => p.1.wf && !p.2.wf) = true := by decide +kernel
theorem test_wf_complex : (tIll5.all fun p => p.1.wf && !p.2.wf) = true := by decide +kernel
theorem test_wf_boot : ((show List (Instr × Instr) from [
  (.recalibration 0 0 [0, 0, 0, 0, 0, 0, 0, 0], .recalibration 0 0 [0, 0, 0, 0, 0, 0, 0, 2 ^ 32]),
  (.temperatureChange ⟨List.replicate 64 0, List.replicate 32 0, List.replicate 16 0⟩,
    .temperatureChange ⟨List.replicate 64 0, List.replicate 32 0, List.replicate 15 0⟩),
  (.bootStageDone ⟨true, [15], [1]⟩, .bootStageDone ⟨true, [16], [1]⟩),
  (.bootStageDone ⟨true, [], [1]⟩, .bootStageDone ⟨true, [], [2]⟩),
  (.partitionPower 0x1000 0 0 15, .partitionPower 0x1000 0 0 16),
  (.rcRegisterRead 0 8, .rcRegisterRead 0 2),
  (.registerWrite 0 4 0, .registerWrite 0 4 (2 ^ 32)),
  (.reportStart 0x1000 0 0 (zeros 32), .reportStart 0x1000 0 0 (zeros 31)),
  (.deadLane 0 255, .deadLane 0 256)]).all fun p => p.1.wf && !p.2.wf) = true := by decide +kernel

/-! ### Small states the witnesses use -/

/-- A section of a small Mould. -/
def tSec (typ inst count : Nat) (body : List Byte) : Section :=
  ⟨typ, inst, leBytes 2 0x1000 ++ leBytes 2 typ ++ leBytes 4 count ++ zeros 8 ++ body⟩

/-- A package entry: one die with one cluster, two slices, one stack, one cave frame, at an X offset. -/
def tPkg (dx : Nat) : List Byte :=
  leBytes 1 1 ++ leBytes 1 1 ++ leBytes 1 2 ++ leBytes 1 0 ++ leBytes 2 1 ++ zeros 2 ++ leBytes 8 (2 ^ 25) ++ leBytes 2 dx ++ zeros 14

/-- A program index entry. -/
def tIdx (step off n : Nat) : List Byte := leBytes 1 step ++ zeros 3 ++ leBytes 4 off ++ leBytes 4 n ++ zeros 4

/-- A router table entry of one move at the start of a step. -/
def tRoute (inPort outs : Nat) : List Byte := leBytes 4 0 ++ leBytes 4 0 ++ leBytes 2 1 ++ leBytes 1 inPort ++ leBytes 1 outs ++ zeros 4

/-- A link table entry for slot 0 in the first Tick of a step, of flow 5. -/
def tLink (dir : Nat) : List Byte := zeros 4 ++ leBytes 2 1 ++ zeros 2 ++ leBytes 2 1 ++ leBytes 1 dir ++ zeros 1 ++ leBytes 4 5

/-- Two packages, head 0, one move; gears 64 and 32 with slack 4; one decode step of two lanes for each gear; in both, router 0 of package 0
moves a slot from port 0 to port 2 and one from port 1 to port 0, link router 1188 one from port 2 to port 0, and port 0 of the package carries slot 0 both ways. -/
def tMould : Mould := ⟨[1], [2], [], false, [], [
  tSec 1 0 2 (leBytes 2 2 ++ leBytes 2 0 ++ leBytes 4 64 ++ leBytes 2 1 ++ zeros 6 ++ tPkg 0 ++ tPkg 1 ++ leBytes 2 1 ++ leBytes 2 2 ++ zeros 4),
  tSec 2 0 2 (leBytes 2 32 ++ leBytes 2 4 ++ leBytes 2 0 ++ zeros 10 ++ leBytes 1 64 ++ leBytes 1 4 ++ zeros 6 ++
    leBytes 1 32 ++ leBytes 1 4 ++ zeros 6),
  tSec 3 0 2 (leBytes 1 2 ++ leBytes 1 0 ++ leBytes 2 2 ++ leBytes 2 64 ++ leBytes 2 32 ++ leBytes 2 1 ++ zeros 6 ++
    leBytes 1 2 ++ leBytes 1 1 ++ leBytes 2 2 ++ leBytes 2 64 ++ leBytes 2 32 ++ leBytes 2 1 ++ zeros 6),
  tSec 5 (16 * 2048) 2 (tIdx 0 48 2 ++ tIdx 1 48 2 ++ tRoute 0 4 ++ tRoute 1 1),
  tSec 5 1188 2 (tIdx 0 48 1 ++ tIdx 1 48 0 ++ tRoute 2 1),
  tSec 6 0 2 (tIdx 0 48 2 ++ tIdx 1 48 2 ++ tLink 0 ++ tLink 1)]⟩

/-- The descriptor of vat 7: two packages from node 0, time master 0, deputy 1. -/
def tDesc : VatDesc := ⟨7, 2, 0, 0, 1, [], 12500, []⟩

/-- Vat 7 as its head and time master holds it, Running. -/
def tVat : Vat := { newVat tDesc 0 [] with state := .running, mould := some tMould }

/-- Vat 7 as its other package holds it. -/
def tVat1 : Vat := { newVat tDesc 1 [] with state := .running, mould := some tMould }

/-- A step of no lane. -/
def tRun : StepRun := ⟨⟨0, 0, [], false⟩, 2, 1, 64, false, [], [], [], false, [], 0⟩

/-- A package that is Ready, its Tick unit Locked and aligned at gear 64. -/
def tS : State := { State.reset with
  boot := { Boot.reset with state := .ready, stage := 8 }
  pins := { Pins.reset with pwrgd := true, perstN := true, armed := true }
  hp := { HostPort.reset with rate := 5, width := 16, flit := true }
  tick := { TickUnit.reset with lock := .locked, aligned := true, count := 4096, gear := 64, edges := true } }

/-- It with one vat of ID 7. -/
def tV (u : Vat) : State := { tS with vats := [(7, u)] }

/-- Vat 7 with a step of no lane that began this Tick. -/
def tVrun : Vat :=
  { tVat with
    step := some { tRun with table := ⟨4096, 0, [], false⟩ }
    place := { Placement.empty with dies := [0], clusters := [0], spares := [16] } }

/-- An operation word of fields at byte offsets. -/
def tOp (l : List (Nat × Nat)) : OpWord := BitVec.ofNat 256 ((l.map fun p => p.2 * 2 ^ (8 * p.1)).sum)

/-- A microprogram that issues a word once, in usable cycle 0 of step 0. -/
def tProg (w : OpWord) : List Byte :=
  zeros 16 ++ tIdx 0 48 1 ++ tIdx 1 48 0 ++ leBytes 4 0 ++ leBytes 4 0 ++ leBytes 2 1 ++ leBytes 2 1 ++ leBytes 4 0 ++
    leBytes 4 0 ++ [0xFF] ++ zeros 11 ++ leBytes 32 w.toNat

/-- A core of vat 7 whose microprogram issues a word; a package whose core 0 runs it in the step of vat 7. -/
def tCore (w : OpWord) : Core := { Core.off with state := .bound, vat := some 7, program := tProg w }
def tC (w : OpWord) : State := { tV tVrun with cores := [(0, tCore w), (1, { Core.off with state := .bound, vat := some 7 })] }

/-- A whey packet of a kind to an address. -/
def tWhey (kind dest arg addr : Nat) : WheyPacket := ⟨0x1000, kind, 1, 1, false, dest, 9, 3, 7, arg, addr, zeros 256⟩

/-- A package with a link port in a state. -/
def tPort (k : Nat) (st : PortState) : State := { tS with links := { Links.reset with ports := [(k, { Port.off with state := st })] } }

/-- A curd flit of session 0 and flow 5 for slot 0. -/
def tFlit : Flit := ⟨0x1000, 1, 0, 0, 0, 0, 0, 5, 4096, 0, zeros 256, false⟩

/-- A step of one lane of session 0 that began at 4,032. -/
def tLaned : StepRun := { tRun with table := ⟨4032, 0, [⟨0, 0, 0, 1, [], []⟩], false⟩ }

/-- One that began now. -/
def tNow : StepRun := { tLaned with table := ⟨4096, 0, [⟨0, 0, 0, 1, [], []⟩], false⟩ }

/-- It with a Failed cause. -/
def tBad : StepRun := { tLaned with causes := [⟨0x0601, 4090, 0, 0⟩] }

/-- A Placed session with tokens left. -/
def tPlaced : Session := { Session.free with state := .placed, ctx := 1, len := 10, maxNew := 100, inCount := 50, inDone := 5 }

/-- Parameters of the session arena of vat 7. -/
def tParams : SessParams := ⟨16, 256, 65536, 4, 0, 64, 4, 16⟩

/-- Vat 7 with that step and session. -/
def tVlane : Vat := { tVat with step := some tLaned, sessions := [(0, tPlaced)] }

/-- A package whose core 0 runs it. -/
def tCl (w : OpWord) : State := { tV { tVlane with step := some tNow } with cores := [(0, tCore w)] }

theorem turnOf_first (p : WheyPacket) (r k n : Nat) (hk : wheyPort r p = k) (hn : n = 0) :
    (⟨[], [(0, [p])], [], false⟩ : Router).turnOf r (wheyPort r p) = some n := by
  subst hn; simp [Router.turnOf, mapGet, List.range, List.range.loop, hk]

/-- A package with one whey packet at router 0. -/
def tOne (p : WheyPacket) : State := { tS with routers := [(0, ⟨[], [(0, [p])], [], false⟩)] }

theorem farEnd_zero (p : WheyPacket) (k r' k' : Nat) (h : (tOne p).farEnd 0 k = some (r', k')) :
    r' ≠ 0 ∧ (mapGet [] ((tOne p).router r').whey k').length < 2 := by
  have h0 : r' ≠ 0 := by
    simp only [State.farEnd, portFar, coreFar] at h
    repeat' split at h
    all_goals first | (exfalso; omega) | (cases h; omega) | (simp at h <;> omega)
  refine ⟨h0, ?_⟩
  have : (tOne p).router r' = Router.empty := by simp [tOne, State.router, mapGet, h0.symm]
  rw [this]; simp [Router.empty, mapGet]

/-- A package whose port 0 carries slot 0 of vat 7, whose step began at a Tick. -/
def tLinked (start : Nat) (land : List (Nat × Nat × Flit)) : State :=
  { tV { tVrun with step := some { tRun with table := ⟨start, 0, [], false⟩ } } with
    links := { Links.reset with ports := [(0, { Port.off with state := .active, peer := 9, vats := [(7, 0)], landing := land })] } }

/-- A whey flit without data. -/
def tWheyFlit : Flit := ⟨0x1000, 2, 0, 1, 0, 0, 0, 7, 4096, 0, zeros 256, false⟩

/-- A marker of the Tick 4,096. -/
def tMark : Marker := ⟨tHdr, true, false, false, 4096, 1, 2, 0, 1, [true], 0, 0⟩

/-- A multicast source of tag 5 to node 9, and a target of it. -/
def tMc : McSource := ⟨5, 7, [9], [], [], 3000, false, 0, 8, [1, 2, 3, 4]⟩
def tMcIn : McTarget := ⟨9, 5, 7, 4, 0, 8, true, [(8, [1, 2, 3, 4])], 0⟩

/-- A package with a remote window for vat 7 and the vat's keys. -/
def tWin : State :=
  { tS with
    links := { Links.reset with winAct := [(0, ⟨true, 3, 7, 9, 9, 0, 2 ^ 16⟩)] }
    keys := { KeyVault.reset with slots := [(2, { KeySlot.none with state := .active, kind := 5, vat := 7, key := zeros 64 })] } }

/-- A burst of a window write to device memory, alone at its arbiter. -/
def tWinReq : ArbReq := ⟨0, 5, 0, .window 0 9 7 3 0 4 (some [1, 2, 3, 4]) .none, 0, [(4000, 1)], 0⟩
def tArbW : Arbiter := ⟨[tWinReq], none, 0, []⟩

/-- A package whose complex 0 is Lost. -/
def tDead : State := { tS with cc := { Complexes.reset with c0 := { Cplx.off with state := .lost } } }

/-- Vat 7 with a spare: move 1, warm. -/
def tSpared : Vat := { tVat with desc := { tDesc with spares := [⟨1, 0, 0⟩] } }

/-- A remould of vat 7 in its pause that awaits logical package 1. -/
def tRemould : Remould := ⟨[.spare 1 0], false, none, 1, [], [1], none, none, 0⟩

/-- A package with a vat and the remould at its time master. -/
def tRem (u : Vat) : State := { tV u with roles := [(7, { VatRole.empty with remould := some tRemould })] }

/-- It at a Tick Count. -/
def tAt (u : Vat) (n : Nat) : State := { tV u with tick := { tS.tick with count := n } }

/-- A Ready session with tokens left, not resident; it resident; vat 7 as its home. -/
def tReady : Session := { tPlaced with state := .ready }
def tResident : Session := { tReady with resSlot := 0, blocks := [⟨some 0, none, false, some 0⟩] }
def tHome (l : SMap Session) : Vat := { tVat with sessions := l, params := tParams }

/-- A page command of vat 7 for one zeroed block. -/
def tPage : PageCmdMsg := ⟨tHdr, 7, 0, 0, 0, 0, true, 1, 0xFFFF, [⟨0, false, true, 0, 0⟩]⟩

/-- A vat with a region in slice 3, whose copy to slice 5 is under way. -/
def tSliced (u : Vat) : State :=
  { tV { u with place := { u.place with slices := [3] } } with mem := { MemTier.reset with copies := [(0, ⟨3, 5, [], false⟩)] } }

/-- A package with a cave device of 1 GiB in slot 7 of port 3. -/
def tCxl : State := { tS with cxlPorts := [(3, ⟨2, 16, 6, true, 0, 0⟩)], cxlDevs := [(31, ⟨0xFFFF, 1, 2, 99, 2 ^ 30, 0⟩)] }

/-- It with an extent of that device. -/
def tExt (st : ExtState) : State := { tCxl with mem := { MemTier.reset with extents := [(5, ⟨st, 31 * 2 ^ 14, 16, 3, 7, .none⟩)] } }

/-- A command in a phase. -/
def tCmd (b : List Byte) (p : CmdPhase) : Cmd :=
  { ref := ⟨3, 0, 0⟩, bytes := b, phase := p, status := 0, result := 0, tiles := [], objs := [], fence := none, since := 4000, silent := false,
    orphan := false, gen := 0, faulted := none, heldAt := 0, excused := 0, staged := none }

/-- A fault of it, and a batch of that. -/
def tFault : FaultEnt := ⟨0x0401, ⟨3, 0, 0⟩, 0, 2, false, 0, 0, 0, 4000⟩
def tBatch : Batch := ⟨1, 4000, 4050, [tFault]⟩

/-- A package that holds the command and whose host answered the batch. -/
def tHeld (c : Cmd) (reply : Byte) : State :=
  { tS with
    objs := { HostObjs.reset with cmds := [c] }
    xl := { Xlate.reset with enable := true, ringBase := 0x2000, ringLog := 4, slots := [(0, tBatch)] }
    host := [(0x2000 + 112, reply)] }

/-- A resolved operand of one page, by virtual address. -/
def tTile : Tile := ⟨0, 0, 0, 64, false, true, 0, [], [], []⟩

/-- A 64-byte command: opcode, then values at byte offsets. -/
def tB (op : Nat) (l : List (Nat × Nat)) : List Byte := leBytes 64 (0x1000 + op * 2 ^ 16 + (l.map fun p => p.2 * 2 ^ (8 * p.1)).sum)

/-- Context 3, Active and resident, with fences 100 to 109. -/
def tCtx : Context := { Context.empty with state := .active, slot := some 1, fenceBus := 0x9000, fenceLo := 100, fenceN := 10 }

/-- Its queue 0. -/
def tQueue : Queue := newQueue 0x5000 0x6000 4 4 0xFFFF 2

/-- A package with that context, queue, doorbells and commands in dispatch. -/
def tQ (x : Context) (u : Queue) (d : Nat × Nat) (l : List Cmd) : State :=
  { tS with objs := { HostObjs.reset with ctxs := [(3, x)], queues := [(48, u)], doors := [(48, d)], cmds := l } }

/-- It with page tables that map virtual address 0 to frame 0 under slot 1. -/
def tPt (l : List Cmd) : State :=
  { tQ { tCtx with ptBase := 2 ^ 20 } tQueue (0, 0) l with
    keys := { KeyVault.reset with slots := [(0, { KeySlot.none with state := .active, kind := 1 }), (1, { KeySlot.none with state := .active, kind := 2 })] }
    mem := (({ MemTier.reset with frames := [(0, .object 0)] }.write [] (2 ^ 20) (leBytes 8 (1 + 2 ^ 21))).write [] (2 ^ 21) (leBytes 8 (1 + 2 ^ 22))).write [] (2 ^ 22)
      (leBytes 8 (15 + 2 ^ 52)) }

/-- A package with a command of context 3 due, and a vat. -/
def tD (c : Cmd) : State := tQ tCtx tQueue (1, 0) [c]
def tDV (u : Vat) (c : Cmd) : State := { tD c with vats := [(7, u)] }

/-- A command due with its opcode and fields; one whose first operand is 64 bytes of HBM. -/
def tDue (op : Nat) (l : List (Nat × Nat)) : Cmd := tCmd (tB op l) .ready
def tMem (op : Nat) (l : List (Nat × Nat)) : Cmd := { tDue op l with tiles := [⟨0, 0, 0, 64, false, false, 0, [], [], [(0, 64, 0)]⟩] }

/-- A session of context 3. -/
def tSess (st : SessState) : Session := { tPlaced with state := st, ctx := 3 }

/-- A SEAL slot of context 3, number 5, and a package with it. -/
def tSealSlot : KeySlot := { KeySlot.none with state := .active, kind := 7, ctx := 3, key := zeros 32, gen := 1 }
def tSeal (c : Cmd) (h : List Host.Cell) : State := { tD c with keys := { KeyVault.reset with slots := [(5, tSealSlot)] }, host := h }

/-- An empty sealed buffer of sequence number 1, at 0x8000. -/
def tSealed : List Byte :=
  sealHeader 1 5 1 1 0 ++ [0x9B, 0x7E, 0xD0, 0x57, 0x9B, 0x09, 0x53, 0x44, 0x17, 0x7D, 0x6E, 0x2C, 0xCA, 0x57, 0x0B, 0x8D]

/-- A command of context 0. -/
def tA (op : Nat) (l : List (Nat × Nat)) : Cmd := { tDue op l with ref := ⟨0, 0, 0⟩ }

/-- Object 0: one frame of context 0; a package with it. -/
def tObj : MemObj := ⟨1, 0, 2 ^ 25, 0, 2 ^ 25, [0], false, false, none⟩
def tO (o : MemObj) (s : State) : State := { s with objs := { s.objs with objs := [(0, o)], gens := [(0, 1)], nextIdx := 1 } }

/-- The bytes of the descriptor of vat 7. -/
def tDescBytes : List Byte :=
  leBytes 2 0x1000 ++ leBytes 2 7 ++ leBytes 2 2 ++ zeros 6 ++ leBytes 2 1 ++ zeros 34 ++ leBytes 4 12500 ++ zeros 12

/-- A Mould of one package without cave frames whose region 0 may hold candidates. -/
def tMould1 : Mould := { tMould with sections := [
  tSec 1 0 1 (leBytes 2 1 ++ leBytes 2 0 ++ leBytes 4 64 ++ leBytes 2 0 ++ zeros 6 ++
    leBytes 1 1 ++ leBytes 1 1 ++ leBytes 1 2 ++ leBytes 1 0 ++ leBytes 2 1 ++ zeros 26),
  tSec 7 0 1 (leBytes 1 1 ++ leBytes 1 2 ++ zeros 14 ++ leBytes 8 16384 ++ zeros 8)] }

/-- Vat 7 of one package. -/
def tVone (st : VatState) : Vat := { tVat with state := st, desc := { tDesc with packages := 1, deputy := 0, measure := [1] }, mould := some tMould1 }

theorem someGet {α : Type} {o : Option α} (d : α) (h : o.isSome = true) : o = some (o.getD d) := by
  cases o <;> simp_all

theorem tripleEta {α β : Type} {x : Nat × α × β} (h : x.1 = 0) : x = (0, x.2.1, x.2.2) := by
  obtain ⟨a, b, c⟩ := x; simp_all

/-- A package with an Active extent of 16 frames and no owner. -/
def tOffer (st : ExtState) (c : Cmd) : State := { tD c with cxlPorts := tCxl.cxlPorts, cxlDevs := [(31, ⟨4, 1, 2, 99, 2 ^ 30, 0⟩)], mem := (tExt st).mem }

/-- An arbiter's request of one burst; a package whose arbiter 3 holds it. -/
def tReq : ArbReq := ⟨5, 1, 0, .traffic, 0, [(4000, 1)], 0⟩
def tArb (x : QosCfg) : State := { tS with qos := { Qos.reset with arbs := [(3, ⟨[tReq], none, 0, []⟩)], active := x } }

/-- A Senior and a Junior complex; a package with two complexes, both bridges and a port of each half. -/
def tSen : Cplx := { Cplx.off with state := .senior, alive := true, epoch := 3, wdTick := 4090, hbSent := 4000 }
def tJun : Cplx := { tSen with state := .junior }
def tCc (a b : Cplx) (p : PortState) : State :=
  { tS with
    cc := { Complexes.reset with c0 := a, c1 := b, bridge0 := true, bridge1 := true }
    links := { Links.reset with ports := [(2, { Port.off with state := p }), (6, { Port.off with state := p })] } }

/-- A package whose Senior complex holds a line and waiters. -/
def tLines (x : Line) (w : List Waiter) : State := tCc { tSen with lines := [(5, x)], waiters := w } tJun .down

/-- A package whose vault has a request in progress. -/
def tKv (op : Nat) (life : Nat) : State := { tS with keys := { KeyVault.reset with reqOp := op, busy := true, lifecycle := life, reqBus := 0x8000 } }

/-- A package with a key slot 5. -/
def tSlot (k : KeySlot) : State := { tS with keys := { KeyVault.reset with slots := [(5, k)], reqOp := 3, busy := true, arg := 5 } }

/-- A package with a Wash of frame 5. -/
def tWash (x : Wash) : State :=
  { tS with
    mem := { MemTier.reset with frames := [(5, .washing 0)] }
    keys := { KeyVault.reset with washes := [(0, x)] } }

/-- A package whose core 0 is spare or fenced, with its reset. -/
def tReset (st : CoreState) (l : List DomReset) (n : Nat) : State :=
  { tS with
    cores := [(0, { Core.off with state := st, bank := [(3, 9)] })]
    tick := { tS.tick with count := n }
    flt := { Faults.reset with resets := l, dumpBus := 0x8000, dumpLen := 4096 } }

/-- A package armed against tamper. -/
def tArmed : State := { tS with pins := { tS.pins with armed := true } }

/-- A package with power fields over their reset values, and its two complexes. -/
def tPw (p : Power) (n : Nat) : State := { tCc tSen tJun .active with power := p, tick := { tS.tick with count := n } }

/-- A calibration record of gear 64. -/
def tCal : CalRec := ⟨1, 64, 800, 1000, 50, 40, [1, 1, 1, 1, 1, 1, 1, 1]⟩
def tPow : Power := { Power.reset with cals := [(64, tCal)], ests := [Frac.nat 2000], rest := 5 }

/-- A package in Cellar or on its way. -/
def tCellar (x : Cellar) : State :=
  { tPw { Power.reset with cellar := x } 4096 with cores := [(0, { Core.off with state := .bound, vat := some 7, bank := [(3, 9)] })] }

/-- A package in a state and stage of boot. -/
def tBoot (st : BootState) (k : Nat) : State := { tCc tSen tJun .active with boot := { Boot.reset with state := st, stage := k } }

/-- A Ready package of a lifecycle state whose host confirmed the device. -/
def tLife (n : Nat) : State := { tS with keys := { KeyVault.reset with lifecycle := n }, fuses := { Fuses.blank with programmed := true } }
def tConf (n : Nat) : State := { tLife n with boot := { tS.boot with lcConfirm := field (tLife n).deviceId 0 4 } }

/-- A package whose journal holds little free space. -/
def tFull : State := { tS with j0 := { Journal.blank with a := ⟨1, true, List.replicate 12300 ⟨5, .trim 1⟩⟩ } }

theorem tConf_ok (n : Nat) : (tConf n).boot.lcConfirm = field (tConf n).deviceId 0 4 := by
  have h : (tConf n).pub = (tLife n).pub := by
    simp only [State.pub, State.root, tConf, tLife]
    rfl
  have e : (tConf n).deviceId = (tLife n).deviceId := congrArg (fun x => shake256 x 16) h
  rw [e]; simp only [tConf]

/-- A pressed tensor header of one weight; vat 7 with it; a package whose core 0 decodes it. -/
def tHead : PressHdr := ⟨0x1000, 0x10, 4, 0, 0, 0, 1, 1, 1, 0x40, 0x50, 0x60, 1, 0, 1, 0⟩
def tVhead : Vat := { tVrun with headers := [tHead] }
def tDecoding (w : OpWord) (bank : List Host.Cell) : State := { tV tVhead with cores := [(0, { tCore w with bank := bank })] }

/-- A package whose core 0 runs a word over a bank. -/
def tBank (w : OpWord) (bank : List Host.Cell) : State := { tV tVrun with cores := [(0, { tCore w with bank := bank })] }

/-- Vat 7 with one cave region of KV blocks in the first frame of an extent, its session 0 held there alone. -/
def tVcave : Vat :=
  { tHome [(0, { tReady with blocks := [⟨none, some 0, false, some 0⟩] })] with
    mould := some { tMould with sections := tMould.sections ++ [tSec 7 0 1 (leBytes 1 3 ++ leBytes 1 3 ++ zeros 14 ++ leBytes 8 (2 ^ 20) ++ zeros 8)] }
    place := { Placement.empty with cave := [31 * 2 ^ 14] } }

theorem tRem_open (u : Vat) (n : Nat) : (tRem u).wheyBlocked n 7 = false := by
  have h : ∀ k, ((tRem u).port k).state = .off := fun _ => rfl
  simp only [State.wheyBlocked, h]
  cases (tRem u).links.route n <;> rfl

theorem witness_MissingEdgeEntersHoldover_1 : ∃ (s : State), s.tick.lock = .locked :=
  ⟨tS, by decide +kernel⟩

theorem witness_MissingEdgeEntersHoldover_2 : ∃ (s : State), s.tick.lock = .acquiring :=
  ⟨{ tS with tick := { tS.tick with lock := .acquiring } }, by decide +kernel⟩

theorem witness_MissingEdgeEntersHoldover_3 : ∃ (s : State), s.tick.lock = .holdover ∧ s.tick.edges = true ∧ (∀ p ∈ s.vats, p.2.step = none) :=
  ⟨{ tV tVat with tick := { tS.tick with lock := .holdover } }, by decide +kernel⟩

theorem witness_TickCountLoad_1 : ∃ (s : State) (value : Nat), s.boot.state = .ready ∧ (s.func 0).d3 = false ∧ value % 2 = 1 ∧
    ((∀ p ∈ s.vats, p.2.state = .defined ∨ p.2.state = .reserved)) :=
  ⟨tV { tVat with state := .defined }, 1, by decide +kernel⟩

theorem witness_TickCountLoad_2 : ∃ (s : State) (value : Nat), s.boot.state = .ready ∧ (s.func 0).d3 = false ∧ value % 2 = 1 ∧
    (∃ p ∈ s.vats, p.2.state ≠ .defined ∧ p.2.state ≠ .reserved) :=
  ⟨tV { tVat with state := .bound }, 2 ^ 32 - 1, by decide +kernel⟩

theorem witness_TickCountLoad_3 : ∃ (s : State) (value : Nat), value % 2 = 0 :=
  ⟨tS, 0, by decide +kernel⟩

theorem witness_TickCountLoad_4 : ∃ (s : State) (x : Nat), s.tick.atFrame = true ∧ s.tick.lock ≠ .unlocked ∧ s.tick.pending = some x :=
  ⟨{ tS with tick := { tS.tick with atFrame := true, pending := some 65536 } }, 65536, by decide +kernel⟩

theorem witness_DroopStretchCounts_1 : ∃ (s : State) (cycle : Nat) (v : Nat) (u : Vat) (m : Mould), s.vats = [(v, u)] ∧ u.step.isSome = true ∧
    u.mould = some m ∧ cycle < s.tick.gear - mSlack m s.tick.gear ∧ s.tick.stretches < mSlack m s.tick.gear :=
  ⟨{ tV { tVat with step := some tRun } with tick := { tS.tick with stretches := 3 } }, 59, 7, { tVat with step := some tRun }, tMould,
    by decide +kernel⟩

theorem witness_DroopStretchCounts_2 : ∃ (s : State) (cycle : Nat) (v : Nat) (u : Vat) (r : StepRun) (m : Mould), s.vats = [(v, u)] ∧
    u.step = some r ∧ u.mould = some m ∧ cycle < s.tick.gear - mSlack m s.tick.gear ∧ mSlack m s.tick.gear ≤ s.tick.stretches ∧
    s.tick.overrun = false ∧ s.tick.lastOver = 0 :=
  ⟨{ tV { tVat with step := some tRun } with tick := { tS.tick with stretches := 4 } }, 0, 7, { tVat with step := some tRun }, tRun, tMould,
    by decide +kernel⟩

theorem witness_DroopStretchCounts_3 : ∃ (s : State) (cycle : Nat), (∀ p ∈ s.vats, p.2.step = none) :=
  ⟨tV tVat, 63, by decide +kernel⟩

theorem witness_GearArming_1 : ∃ (s : State) (vat : Nat) (gear : Nat) (seq : Nat) (u : Vat), gear ∈ [72, 64, 60, 56, 48, 40, 32] ∧
    s.vat? vat = some u ∧ u.role = .member ∧ u.state = .running ∧ s.tick.change = none :=
  ⟨tV tVat, 7, 32, 255, tVat, by decide +kernel⟩

theorem witness_GearArming_2 : ∃ (s : State) (gear : Nat) (seq : Nat) (x : Nat) (v : Nat) (u : Vat), s.tick.locking = some (gear, seq, x) ∧
    s.tick.count ≤ x + 250 ∧ s.vats = [(v, u)] ∧ u.role = .member ∧ u.state = .running ∧ s.tick.armVat = v ∧
    s.wheyBlocked (s.lpkgNode u u.masterLpkg) 7 = false :=
  ⟨{ tV tVat with tick := { tS.tick with locking := some (32, 1, 3846), armVat := 7 } }, 32, 1, 3846, 7, tVat, by decide +kernel⟩

theorem witness_GearArming_3 : ∃ (s : State) (gear : Nat) (seq : Nat) (x : Nat), s.tick.locking = some (gear, seq, x) ∧ x + 250 < s.tick.count :=
  ⟨{ tS with tick := { tS.tick with locking := some (32, 1, 3845) } }, 32, 1, 3845, by decide +kernel⟩

theorem witness_GearArming_4 : ∃ (s : State), s.tick.armed ≠ 0 :=
  ⟨{ tS with tick := { tS.tick with armed := 32 } }, by decide +kernel⟩

theorem witness_GearGroup_1 : ∃ (s : State) (node : Nat) (arg : Nat) (v : Nat) (u : Vat), s.vats = [(v, u)] ∧ u.role = .member ∧ u.state = .running ∧
    u.lpkg = u.masterLpkg ∧ node ∈ s.gearNodes ∧ arg / 1024 % 2 = 0 ∧ arg % 256 ∈ [72, 64, 60, 56, 48, 40, 32] ∧ s.groupHas (arg % 256) = true ∧
    s.tick.change = none :=
  ⟨tV tVat, 1, 32, 7, tVat, by decide +kernel⟩

theorem witness_GearGroup_2 : ∃ (s : State) (node : Nat) (gear : Nat) (seq : Nat) (v : Nat) (u : Vat), s.vats = [(v, u)] ∧ u.role = .member ∧
    u.state = .running ∧ u.lpkg = u.masterLpkg ∧ u.lpkg ≠ u.headLpkg ∧ s.gears.arming = true ∧ s.gears.change = none ∧ gear = s.gears.gear ∧
    seq = s.gears.seq :=
  ⟨{ tV tVat1 with gears := { GearMaster.reset with arming := true, gear := 32, seq := 3, acks := [0] }, vats := [(7, { tVat1 with desc := { tDesc with tm := 1 } })] }, 1, 32, 3, 7, { tVat1 with desc := { tDesc with tm := 1 } },
    by decide +kernel⟩

theorem witness_GearGroup_3 : ∃ (s : State) (node : Nat) (gear : Nat) (seq : Nat) (v : Nat) (u : Vat), s.vats = [(v, u)] ∧ u.role = .member ∧
    u.state = .running ∧ u.lpkg = u.masterLpkg ∧ u.lpkg = u.headLpkg ∧ s.gears.arming = true ∧ s.gears.change = none ∧ gear = s.gears.gear ∧
    seq = s.gears.seq ∧ ((∀ n ∈ s.gearNodes, n = node ∨ n ∈ s.gears.acks)) :=
  ⟨{ tV tVat with gears := { GearMaster.reset with arming := true, gear := 32, seq := 3, acks := [0] } }, 1, 32, 3, 7, tVat, by decide +kernel⟩

theorem witness_GearGroup_4 : ∃ (s : State) (v : Nat) (u : Vat), s.vats = [(v, u)] ∧ u.role = .member ∧ u.state = .running ∧ u.lpkg ≠ u.masterLpkg ∧
    s.tick.armed ≠ 0 ∧ s.tick.change = some s.tick.count ∧ s.tick.lockLost = false :=
  ⟨{ tV tVat1 with tick := { tS.tick with armed := 32, change := some 4096 } }, 7, tVat1, by decide +kernel⟩

theorem witness_GearGroup_5 : ∃ (s : State) (v : Nat) (u : Vat), s.vats = [(v, u)] ∧ u.role = .member ∧ u.state = .running ∧ u.lpkg ≠ u.masterLpkg ∧
    s.tick.armed ≠ 0 ∧ s.tick.change = some s.tick.count ∧ s.tick.lockLost = true :=
  ⟨{ tV tVat1 with tick := { tS.tick with armed := 32, change := some 4096, lockLost := true } }, 7, tVat1, by decide +kernel⟩

theorem witness_GearGroup_6 : ∃ (s : State) (vat : Nat) (node : Nat) (f : Nat) (u : Vat), s.vat? vat = some u ∧ u.role = .member ∧
    u.lpkg = u.headLpkg ∧ f < 64 :=
  ⟨tV tVat, 7, 10239, 63, tVat, by decide +kernel⟩

theorem witness_HeadFreezesLanes_1 : ∃ (s : State) (vat : Nat) (u : Vat) (m : Mould), s.vat? vat = some u ∧ u.mould = some m ∧ u.desc.vatId = vat ∧
    u.role = .member ∧ u.lpkg = u.headLpkg ∧ u.state = .running ∧ u.frozen = none ∧ s.tick.lock = .locked ∧ s.tick.aligned = true ∧
    (s.role vat).haltAt = none ∧ (s.role vat).replay = none ∧ s.partMode vat = false ∧ (s.role vat).wasPart = false ∧ s.tick.change = none ∧
    s.tick.armed = 0 ∧ (∀ p ∈ u.work, p.2.pageFrom = none) ∧ gearSteps m s.tick.gear ≠ [] ∧
    s.tick.count + freezeLead (gearSteps m s.tick.gear) = u.boundary ∧ u.offers = [] ∧ (s.role vat).lastLen ≠ 0 :=
  ⟨{ tV { tVat with boundary := 4128 } with roles := [(7, { VatRole.empty with lastLen := 64 })] }, 7, { tVat with boundary := 4128 }, tMould,
    by decide +kernel⟩

theorem witness_HeadFreezesLanes_2 : ∃ (s : State) (vat : Nat) (id : Nat) (u : Vat) (m : Mould) (e : StepEnt) (o : Offer), s.vat? vat = some u ∧
    u.mould = some m ∧ u.desc.vatId = vat ∧ u.role = .member ∧ u.lpkg = u.headLpkg ∧ u.state = .running ∧ u.frozen = none ∧ s.tick.lock = .locked ∧
    s.tick.aligned = true ∧ (s.role vat).haltAt = none ∧ (s.role vat).replay = none ∧ s.partMode vat = false ∧ (s.role vat).wasPart = false ∧
    s.tick.change = none ∧ s.tick.armed = 0 ∧ (∀ p ∈ u.work, p.2.pageFrom = none) ∧ gearSteps m s.tick.gear = [(id, e)] ∧
    s.tick.count + e.freeze = u.boundary ∧ u.offers = [o] ∧ o.kind = e.kind ∧ 1 ≤ e.lanes ∧ (s.role vat).restReq = [] ∧
    (s.partCfg o.partition).laneLimit = 0 ∧ ((o.session / 2 ^ 18 = u.lpkg → s.canPlace u (o.session % 2 ^ 18) e.kind = true)) ∧
    ((∀ k < u.packages, k ≠ u.lpkg → s.wheyBlocked (s.lpkgNode u k) 7 = false)) :=
  ⟨tV { tVat with boundary := 4128, offers := [⟨2 ^ 18, 1, 2, 0, 0, 0⟩] }, 7, 0, { tVat with boundary := 4128, offers := [⟨2 ^ 18, 1, 2, 0, 0, 0⟩] }, tMould, ⟨2, 0, 2, 64, 32, 1⟩, ⟨2 ^ 18, 1, 2, 0, 0, 0⟩,
    by decide +kernel⟩

theorem witness_HeadFreezesLanes_3 : ∃ (s : State) (vat : Nat) (a : LaneTable) (u : Vat) (m : Mould), s.vat? vat = some u ∧ u.mould = some m ∧
    u.desc.vatId = vat ∧ u.role = .member ∧ u.lpkg ≠ u.headLpkg ∧ u.state = .running ∧ u.frozen = none ∧ s.tick.lock = .locked ∧
    s.tick.aligned = true ∧ (s.role vat).haltAt = none ∧ s.tick.change = none ∧ s.tick.armed = 0 ∧ (∀ p ∈ u.work, p.2.pageFrom = none) ∧
    a.stepId < (mSteps m).length ∧ a.lanes.length ≤ (mStep m a.stepId).lanes ∧ s.tick.count + freezeLead (gearSteps m s.tick.gear) = a.start ∧
    (∀ l ∈ a.lanes, l.session / 2 ^ 18 ≠ u.lpkg) :=
  ⟨tV { tVat1 with boundary := 4128 }, 7, ⟨4128, 0, [⟨0, 0, 0, 1, [], []⟩], false⟩, { tVat1 with boundary := 4128 }, tMould, by decide +kernel⟩

theorem witness_StepStarts_1 : ∃ (s : State) (vat : Nat) (a : LaneTable) (u : Vat) (m : Mould), s.vat? vat = some u ∧ u.mould = some m ∧
    u.desc.vatId = vat ∧ u.role = .member ∧ u.state = .running ∧ u.step = none ∧ (s.role vat).hangAt = none ∧ (s.role vat).haltAt = none ∧
    s.tick.lock = .locked ∧ s.tick.aligned = true ∧ s.tick.count = a.start ∧ s.tick.lostAt = none ∧ a.stepId < (mSteps m).length ∧
    a.lanes.length ≤ (mStep m a.stepId).lanes ∧ mVariantOf m s.tick.gear = some (mStep m a.stepId).variant ∧ (((∃ f, u.frozen = some f ∧
    f.start = a.start ∧ f.stepId = a.stepId) ∨ (u.frozen = none ∧ u.lpkg ≠ u.headLpkg))) :=
  ⟨tV { tVat with frozen := some ⟨4096, 0, [], false⟩ }, 7, ⟨4096, 0, [], false⟩, { tVat with frozen := some ⟨4096, 0, [], false⟩ }, tMould,
    by decide +kernel, by decide +kernel, by decide +kernel, rfl, by decide +kernel, by decide +kernel, by decide +kernel, rfl, by decide +kernel,
    by decide +kernel, by decide +kernel, rfl, by decide +kernel, by decide +kernel, by decide +kernel, by exact Or.inl ⟨_, rfl, rfl, rfl⟩⟩

theorem witness_StepEndsAtBoundary_1 : ∃ (s : State) (vat : Nat) (reps : List MemberReport) (u : Vat) (r : StepRun), s.vat? vat = some u ∧
    u.step = some r ∧ r.table.start + r.length ≤ s.tick.count ∧ r.table.lanes = [] ∧ r.errs = [] ∧ u.lpkg ≠ u.headLpkg ∧ s.tick.prev = none ∧
    s.tick.back = none ∧ s.cores = [] ∧ s.mem.copies = [] ∧ (s.role vat).haltAt = none ∧ (s.role vat).replay = none :=
  ⟨tV { tVat1 with step := some { tRun with table := ⟨4032, 0, [], false⟩ } }, 7, [], { tVat1 with step := some { tRun with table := ⟨4032, 0, [], false⟩ } }, { tRun with table := ⟨4032, 0, [], false⟩ },
    by decide +kernel⟩

theorem witness_StepEndsAtBoundary_2 : ∃ (s : State) (vat : Nat) (i : Nat) (reps : List MemberReport) (u : Vat) (r : StepRun) (l : Lane), s.vat? vat = some u ∧
    u.step = some r ∧ r.table.start + r.length ≤ s.tick.count ∧ r.table.lanes = [l] ∧ l.session = u.lpkg * 2 ^ 18 + i ∧ i < 2 ^ 18 ∧
    (u.sess i).state = .placed ∧ (u.sess i).close = false ∧ (u.wk i).cancel = false ∧ (u.wk i).lateTree = none ∧ (u.wk i).copies = [] ∧
    (s.role vat).haltAt = none ∧ (s.role vat).replay = none ∧ ((r.causes ≠ [] ∨ ∃ q ∈ reps, q.causes ≠ [])) ∧ (∀ c ∈ r.causes, 2 ≤ c.status) ∧
    (∀ q ∈ reps, ∀ c ∈ q.causes, 2 ≤ c.1) :=
  ⟨tV { tVat with step := some tBad, sessions := [(0, tPlaced)] }, 7, 0, [], { tVat with step := some tBad, sessions := [(0, tPlaced)] }, tBad, ⟨0, 0, 0, 1, [], []⟩,
    by decide +kernel⟩

theorem witness_StepEndsAtBoundary_3 : ∃ (s : State) (vat : Nat) (i : Nat) (reps : List MemberReport) (u : Vat) (r : StepRun) (l : Lane), s.vat? vat = some u ∧
    u.step = some r ∧ r.table.start + r.length ≤ s.tick.count ∧ r.table.lanes = [l] ∧ l.session = u.lpkg * 2 ^ 18 + i ∧ i < 2 ^ 18 ∧
    (u.sess i).state = .placed ∧ (u.sess i).close = false ∧ (u.wk i).cancel = false ∧ (u.wk i).lateTree = none ∧ (s.role vat).haltAt = none ∧
    (s.role vat).replay = none ∧ r.causes = [] ∧ (∀ q ∈ reps, q.causes = []) ∧ ((r.degraded = true ∨ ∃ q ∈ reps, q.degraded = true)) :=
  ⟨tV { tVat with step := some { tLaned with degraded := true }, sessions := [(0, tPlaced)] }, 7, 0, [], { tVat with step := some { tLaned with degraded := true }, sessions := [(0, tPlaced)] }, { tLaned with degraded := true }, ⟨0, 0, 0, 1, [], []⟩,
    by decide +kernel⟩

theorem witness_StepEndsAtBoundary_4 : ∃ (s : State) (vat : Nat) (i : Nat) (reps : List MemberReport) (u : Vat) (r : StepRun) (l : Lane), s.vat? vat = some u ∧
    u.step = some r ∧ r.table.start + r.length ≤ s.tick.count ∧ r.table.lanes = [l] ∧ l.session = u.lpkg * 2 ^ 18 + i ∧ i < 2 ^ 18 ∧
    (u.sess i).state = .placed ∧ (u.sess i).close = false ∧ (u.wk i).cancel = false ∧ (u.wk i).lateTree = none ∧ (s.role vat).haltAt = none ∧
    (s.role vat).replay = none ∧ r.causes = [] ∧ (∀ q ∈ reps, q.causes = []) ∧ r.degraded = false ∧ (∀ q ∈ reps, q.degraded = false) ∧ r.kind = 2 ∧
    r.draws = [] ∧ 1 ≤ l.count ∧ l.count < (u.sess i).left ∧ (u.sess i).len + l.count < u.params.maxPos :=
  ⟨tV { tVat with step := some tLaned, sessions := [(0, tPlaced)], params := tParams }, 7, 0, [], { tVat with step := some tLaned, sessions := [(0, tPlaced)], params := tParams }, tLaned, ⟨0, 0, 0, 1, [], []⟩,
    by decide +kernel⟩

theorem witness_DrawsMarksRefresh_1 : ∃ (s : State) (vat : Nat) (u : Vat) (r : StepRun), s.vat? vat = some u ∧ u.step = some r :=
  ⟨tV { tVat with step := some tLaned, sessions := [(0, tPlaced)] }, 7, { tVat with step := some tLaned, sessions := [(0, tPlaced)] }, tLaned,
    by decide +kernel⟩

theorem witness_DrawsMarksRefresh_2 : ∃ (s : State) (vat : Nat) (u : Vat), s.vat? vat = some u ∧ u.step = none ∧ (s.role vat).hangAt.isSome = true :=
  ⟨{ tV tVat with roles := [(7, { VatRole.empty with hangAt := some 9000 })] }, 7, tVat, by decide +kernel⟩

theorem witness_DrawsMarksRefresh_3 : ∃ (s : State) (q : Nat) (ch : Nat), q < 16 ∧ ch < 32 ∧
    s.tick.count % max 1 (s.ownerCadence q).1 = (s.ownerCadence q).2.2 :=
  ⟨tS, 15, 31, by decide +kernel⟩

theorem witness_EngineLoadsAndProducts_1 : ∃ (s : State) (core : Nat) (vat : Nat) (w : OpWord) (f : UnitFault), UnitRuns s core vat 0x01 w :=
  ⟨tC (tOp [(0, 1), (2, 4), (3, 4), (4, 3), (6, 1), (12, 4096), (16, 256), (20, 64)]), 0, 7, tOp [(0, 1), (2, 4), (3, 4), (4, 3), (6, 1), (12, 4096), (16, 256), (20, 64)], UnitFault.none,
    by decide +kernel⟩

theorem witness_EngineLoadsAndProducts_2 : ∃ (s : State) (core : Nat) (vat : Nat) (w : OpWord) (f : UnitFault), UnitRuns s core vat 0x03 w :=
  ⟨tC (tOp [(0, 3), (2, 1), (4, 3)]), 0, 7, tOp [(0, 3), (2, 1), (4, 3)], UnitFault.none, by decide +kernel⟩

theorem witness_EngineLoadsAndProducts_3 : ∃ (s : State) (core : Nat) (vat : Nat) (w : OpWord) (f : UnitFault), UnitRuns s core vat 0x04 w ∧
    ((s.core core).loadedTable w).ok = true :=
  ⟨tC (tOp [(0, 4), (2, 4), (3, 16)]), 0, 7, tOp [(0, 4), (2, 4), (3, 16)], UnitFault.none, by decide +kernel⟩

theorem witness_EngineLoadsAndProducts_4 : ∃ (s : State) (core : Nat) (vat : Nat) (w : OpWord) (v : Vat) (r : StepRun), UnitRuns s core vat 0x04 w ∧
    s.vat? vat = some v ∧ v.step = some r ∧ ((s.core core).loadedTable w).ok = false :=
  ⟨tBank (tOp [(0, 4), (2, 4), (3, 16)]) [(0, 0x7F)], 0, 7, tOp [(0, 4), (2, 4), (3, 16)], tVrun, { tRun with table := ⟨4096, 0, [], false⟩ },
    by decide +kernel⟩

theorem witness_EngineStoresAndDecode_1 : ∃ (s : State) (core : Nat) (vat : Nat) (w : OpWord) (f : UnitFault), UnitRuns s core vat 0x02 w :=
  ⟨tC (tOp [(0, 2), (2, 1), (4, 3)]), 0, 7, tOp [(0, 2), (2, 1), (4, 3)], UnitFault.none, by decide +kernel⟩

theorem witness_EngineStoresAndDecode_2 : ∃ (s : State) (core : Nat) (vat : Nat) (w : OpWord) (f : UnitFault) (v : Vat) (h : PressHdr), UnitRuns s core vat 0x10 w ∧
    s.vat? vat = some v ∧ v.headers[decTensor w]? = some h ∧ decSegN w ≠ 0 ∧ ((s.core core).decoded w h).errs = [] :=
  ⟨tDecoding (tOp [(0, 0x10), (12, 1), (16, 100)]) [(0x54, 1)], 0, 7, tOp [(0, 0x10), (12, 1), (16, 100)], UnitFault.none, tVhead, tHead,
    by decide +kernel⟩

theorem witness_EngineStoresAndDecode_3 : ∃ (s : State) (core : Nat) (vat : Nat) (w : OpWord) (v : Vat) (r : StepRun) (h : PressHdr), UnitRuns s core vat 0x10 w ∧
    s.vat? vat = some v ∧ v.step = some r ∧ v.headers[decTensor w]? = some h ∧ decSegN w ≠ 0 ∧ ((s.core core).decoded w h).errs ≠ [] :=
  ⟨tDecoding (tOp [(0, 0x10), (12, 1), (16, 100)]) [], 0, 7, tOp [(0, 0x10), (12, 1), (16, 100)], tVhead, { tRun with table := ⟨4096, 0, [], false⟩ }, tHead,
    by decide +kernel⟩

theorem witness_EngineStoresAndDecode_4 : ∃ (s : State) (core : Nat) (vat : Nat) (w : OpWord) (f : UnitFault) (v : Vat) (h : PressHdr), UnitRuns s core vat 0x10 w ∧
    s.vat? vat = some v ∧ v.headers[decTensor w]? = some h ∧ decSegN w = 0 :=
  ⟨tDecoding (tOp [(0, 0x10)]) [], 0, 7, tOp [(0, 0x10)], UnitFault.none, tVhead, tHead, by decide +kernel⟩

theorem witness_MoverFillsCoreBank_1 : ∃ (s : State) (core : Nat) (vat : Nat) (w : OpWord) (f : UnitFault), UnitRuns s core vat 0x1B w :=
  ⟨tC (tOp [(0, 0x1B), (1, 1), (4, 64), (12, 64)]), 0, 7, tOp [(0, 0x1B), (1, 1), (4, 64), (12, 64)], UnitFault.none, by decide +kernel⟩

theorem witness_MoverFillsCoreBank_2 : ∃ (s : State) (core : Nat) (vat : Nat) (w : OpWord) (far : List Byte) (f : UnitFault) (v : Vat), UnitRuns s core vat 0x18 w ∧
    s.vat? vat = some v ∧ v.desc.vatId = vat :=
  ⟨tC (tOp [(0, 0x18), (1, 1), (4, 64), (16, 2 ^ 60 + 2 ^ 46)]), 0, 7, tOp [(0, 0x18), (1, 1), (4, 64), (16, 2 ^ 60 + 2 ^ 46)], zeros 64, UnitFault.none, tVrun,
    by decide +kernel⟩

theorem witness_MoverFillsCoreBank_3 : ∃ (s : State) (core : Nat) (vat : Nat) (w : OpWord) (far : List Byte) (u : Vat), UnitRuns s core vat 0x1C w ∧
    s.vat? vat = some u ∧ u.desc.vatId = vat ∧ (∀ k < dmTarget w, (s.core core).index w k < dmDst w ∧
    (s.nearPieces u (rowAddr w ((s.core core).index w k)) (dmLength w)).all (fun p => !s.pieceFenced p) = true ∧
    (s.curdBytes u (rowAddr w ((s.core core).index w k)) (dmLength w) (far.drop (k * dmLength w))).length = dmLength w) :=
  ⟨tC (tOp [(0, 0x1C), (1, 1), (2, 1), (4, 64), (12, 1), (16, 2 ^ 60 + 2 ^ 46)]), 0, 7, tOp [(0, 0x1C), (1, 1), (2, 1), (4, 64), (12, 1), (16, 2 ^ 60 + 2 ^ 46)], zeros 64, tVrun,
    by decide +kernel⟩

theorem witness_MoverFillsCoreBank_4 : ∃ (s : State) (core : Nat) (vat : Nat) (w : OpWord) (far : List Byte) (u : Vat) (r : StepRun), UnitRuns s core vat 0x1C w ∧
    s.vat? vat = some u ∧ u.desc.vatId = vat ∧ u.step = some r ∧ dmTarget w = 1 ∧ dmDst w ≤ (s.core core).index w 0 :=
  ⟨tC (tOp [(0, 0x1C), (1, 1), (2, 1), (4, 64), (16, 2 ^ 60 + 2 ^ 46)]), 0, 7, tOp [(0, 0x1C), (1, 1), (2, 1), (4, 64), (16, 2 ^ 60 + 2 ^ 46)], [], tVrun, { tRun with table := ⟨4096, 0, [], false⟩ },
    by decide +kernel⟩

theorem witness_MoverFillsCoreBank_5 : ∃ (s : State) (core : Nat) (vat : Nat) (w : OpWord) (far : List Byte) (f : UnitFault), UnitRuns s core vat 0x1C w :=
  ⟨tC (tOp [(0, 0x1C), (1, 1), (2, 1), (4, 64), (12, 1), (16, 2 ^ 60 + 2 ^ 46)]), 0, 7, tOp [(0, 0x1C), (1, 1), (2, 1), (4, 64), (12, 1), (16, 2 ^ 60 + 2 ^ 46)], zeros 64, UnitFault.none,
    by decide +kernel⟩

theorem witness_MoverFillsCoreBank_6 : ∃ (s : State) (core : Nat) (vat : Nat) (w : OpWord) (f : UnitFault), UnitRuns s core vat 0x1D w :=
  ⟨tC (tOp [(0, 0x1D), (1, 1), (4, 64), (26, 1)]), 0, 7, tOp [(0, 0x1D), (1, 1), (4, 64), (26, 1)], UnitFault.none, by decide +kernel⟩

theorem witness_MoverFillsCoreBank_7 : ∃ (s : State) (core : Nat) (vat : Nat) (w : OpWord) (u : Vat) (r : StepRun), UnitRuns s core vat 0x1D w ∧
    s.vat? vat = some u ∧ u.desc.vatId = vat ∧ u.step = some r ∧ (s.allPieces u r w).all (fun p => !s.pieceFenced p) = true :=
  ⟨tC (tOp [(0, 0x1D), (1, 1), (4, 64), (26, 1)]), 0, 7, tOp [(0, 0x1D), (1, 1), (4, 64), (26, 1)], tVrun, { tRun with table := ⟨4096, 0, [], false⟩ },
    by decide +kernel⟩

theorem witness_MoverWritesFarSide_1 : ∃ (s : State) (core : Nat) (vat : Nat) (w : OpWord) (u : Vat), UnitRuns s core vat 0x19 w ∧
    s.vat? vat = some u ∧ u.desc.vatId = vat ∧ (s.nearPieces u (dmVatAddr w) (dmLength w)).all (fun p => !s.pieceFenced p) = true :=
  ⟨tC (tOp [(0, 0x19), (1, 1), (4, 64), (16, 2 ^ 60 + 2 ^ 46)]), 0, 7, tOp [(0, 0x19), (1, 1), (4, 64), (16, 2 ^ 60 + 2 ^ 46)], tVrun,
    by decide +kernel⟩

theorem witness_MoverWritesFarSide_2 : ∃ (s : State) (core : Nat) (vat : Nat) (d : Nat) (w : OpWord) (u : Vat), UnitRuns s core vat 0x1A w ∧
    s.vat? vat = some u ∧ u.desc.vatId = vat ∧ dmAtom w = 0 ∧ (u.sendTargets w).map (corePhys u.place) = [d] ∧ s.coreFenced d = false :=
  ⟨tC (tOp [(0, 0x1A), (1, 1), (2, 1), (4, 64)]), 0, 7, 1, tOp [(0, 0x1A), (1, 1), (2, 1), (4, 64)], tVrun, by decide +kernel⟩

theorem witness_MoverWritesFarSide_3 : ∃ (s : State) (core : Nat) (vat : Nat) (w : OpWord) (u : Vat) (r : StepRun), UnitRuns s core vat 0x1E w ∧
    s.vat? vat = some u ∧ u.desc.vatId = vat ∧ u.step = some r ∧ (∀ l ∈ laneRange w, r.lane l = none) :=
  ⟨tC (tOp [(0, 0x1E), (1, 1), (4, 64), (26, 1)]), 0, 7, tOp [(0, 0x1E), (1, 1), (4, 64), (26, 1)], tVrun, { tRun with table := ⟨4096, 0, [], false⟩ },
    by decide +kernel⟩

theorem witness_MoverWritesFarSide_4 : ∃ (s : State) (core : Nat) (vat : Nat) (w : OpWord) (u : Vat) (r : StepRun) (y : Lane), UnitRuns s core vat 0x1E w ∧
    s.vat? vat = some u ∧ u.desc.vatId = vat ∧ u.step = some r ∧ dmLaneCount w = 1 ∧ r.lane (dmLaneFirst w) = some y ∧
    (s.lanePieces u w y).all (fun p => !s.pieceFenced p) = true :=
  ⟨tCl (tOp [(0, 0x1E), (1, 1), (4, 64), (26, 1)]), 0, 7, tOp [(0, 0x1E), (1, 1), (4, 64), (26, 1)], { tVlane with step := some tNow }, tNow, ⟨0, 0, 0, 1, [], []⟩,
    by decide +kernel⟩

theorem witness_MoverWritesFarSide_5 : ∃ (s : State) (core : Nat) (vat : Nat) (w : OpWord) (f : UnitFault), UnitRuns s core vat 0x19 w :=
  ⟨tC (tOp [(0, 0x19), (1, 1), (4, 64), (16, 2 ^ 60 + 2 ^ 46)]), 0, 7, tOp [(0, 0x19), (1, 1), (4, 64), (16, 2 ^ 60 + 2 ^ 46)], UnitFault.none,
    by decide +kernel⟩

theorem witness_MoverWritesFarSide_6 : ∃ (s : State) (core : Nat) (vat : Nat) (w : OpWord) (f : UnitFault) (v : Vat), UnitRuns s core vat 0x1A w ∧
    s.vat? vat = some v :=
  ⟨tC (tOp [(0, 0x1A), (1, 1), (2, 1), (4, 64)]), 0, 7, tOp [(0, 0x1A), (1, 1), (2, 1), (4, 64)], UnitFault.none, tVrun, by decide +kernel⟩

theorem witness_MoverWritesFarSide_7 : ∃ (s : State) (core : Nat) (vat : Nat) (w : OpWord) (f : UnitFault), UnitRuns s core vat 0x1E w :=
  ⟨tC (tOp [(0, 0x1E), (1, 1), (4, 64), (26, 1)]), 0, 7, tOp [(0, 0x1E), (1, 1), (4, 64), (26, 1)], UnitFault.none, by decide +kernel⟩

theorem witness_MoverWritesFarSide_8 : ∃ (s : State) (dpa : Nat) (x : Nat), (dpa, x) ∈ s.mem.curd ∧ x + 2 ≤ s.tick.count ∧
    ((∀ e ∈ s.mem.curd, e.1 = dpa → e = (dpa, x))) :=
  ⟨{ tS with mem := { MemTier.reset with curd := [(128, 4094)] } }, 128, 4094, by decide +kernel⟩

theorem witness_VectorLoadsAndStores_1 : ∃ (s : State) (core : Nat) (vat : Nat) (w : OpWord) (f : UnitFault), UnitRuns s core vat 0x20 w :=
  ⟨tC (tOp [(0, 0x20), (1, 2), (2, 30), (6, 2), (8, 64)]), 0, 7, tOp [(0, 0x20), (1, 2), (2, 30), (6, 2), (8, 64)], UnitFault.none, by decide +kernel⟩

theorem witness_VectorLoadsAndStores_2 : ∃ (s : State) (core : Nat) (vat : Nat) (w : OpWord) (f : UnitFault), UnitRuns s core vat 0x22 w :=
  ⟨tC (tOp [(0, 0x22), (1, 2), (2, 30), (6, 8), (8, 64), (12, 4096)]), 0, 7, tOp [(0, 0x22), (1, 2), (2, 30), (6, 8), (8, 64), (12, 4096)], UnitFault.none,
    by decide +kernel⟩

theorem witness_VectorLoadsAndStores_3 : ∃ (s : State) (core : Nat) (vat : Nat) (w : OpWord) (f : UnitFault), UnitRuns s core vat 0x24 w :=
  ⟨tC (tOp [(0, 0x24), (1, 2), (2, 30), (12, 64)]), 0, 7, tOp [(0, 0x24), (1, 2), (2, 30), (12, 64)], UnitFault.none, by decide +kernel⟩

theorem witness_VectorLoadsAndStores_4 : ∃ (s : State) (core : Nat) (vat : Nat) (w : OpWord) (f : UnitFault), UnitRuns s core vat 0x21 w :=
  ⟨tC (tOp [(0, 0x21), (1, 2), (6, 1), (8, 64)]), 0, 7, tOp [(0, 0x21), (1, 2), (6, 1), (8, 64)], UnitFault.none, by decide +kernel⟩

theorem witness_VectorLoadsAndStores_5 : ∃ (s : State) (core : Nat) (vat : Nat) (w : OpWord) (f : UnitFault), UnitRuns s core vat 0x23 w :=
  ⟨tC (tOp [(0, 0x23), (1, 2), (6, 8), (8, 64), (12, 4096)]), 0, 7, tOp [(0, 0x23), (1, 2), (6, 8), (8, 64), (12, 4096)], UnitFault.none,
    by decide +kernel⟩

theorem witness_VectorLoadsAndStores_6 : ∃ (s : State) (core : Nat) (vat : Nat) (w : OpWord) (f : UnitFault), UnitRuns s core vat 0x25 w :=
  ⟨tC (tOp [(0, 0x25), (1, 2), (6, 1), (8, 64)]), 0, 7, tOp [(0, 0x25), (1, 2), (6, 1), (8, 64)], UnitFault.none, by decide +kernel⟩

theorem witness_VectorLoadsAndStores_7 : ∃ (s : State) (core : Nat) (vat : Nat) (w : OpWord) (f : UnitFault), UnitRuns s core vat 0x26 w :=
  ⟨tC (tOp [(0, 0x26), (1, 2), (6, 1), (8, 64)]), 0, 7, tOp [(0, 0x26), (1, 2), (6, 1), (8, 64)], UnitFault.none, by decide +kernel⟩

theorem witness_VectorArithmetic_1 : ∃ (s : State) (core : Nat) (vat : Nat) (w : OpWord) (f : UnitFault) (mk : Nat → OpWord → UnitFault →
    Instr) (code : Nat) (g : Word → Word →
    Word), (mk, code, g) ∈ [(Instr.add, 0x30, fAdd), (Instr.sub, 0x31, fSub), (Instr.mul, 0x32, fMul), (Instr.div, 0x33, fDiv), (Instr.min, 0x35, fMin), (Instr.max, 0x36, fMax), (Instr.swiglu, 0x5E, fun x y => fMul (siluLane x) y)] ∧
    UnitRuns s core vat code w :=
  ⟨tC (tOp [(0, 0x30), (1, 16), (3, 16)]), 0, 7, tOp [(0, 0x30), (1, 16), (3, 16)], UnitFault.none, Instr.add, 0x30, fAdd, by simp, by decide +kernel⟩

theorem witness_VectorArithmetic_2 : ∃ (s : State) (core : Nat) (vat : Nat) (w : OpWord) (f : UnitFault), UnitRuns s core vat 0x34 w :=
  ⟨tC (tOp [(0, 0x34), (1, 1), (2, 31)]), 0, 7, tOp [(0, 0x34), (1, 1), (2, 31)], UnitFault.none, by decide +kernel⟩

theorem witness_VectorFunctions_1 : ∃ (s : State) (core : Nat) (vat : Nat) (w : OpWord) (f : UnitFault) (mk : Nat → OpWord → UnitFault →
    Instr) (code : Nat) (g : Word →
    Word), (mk, code, g) ∈ [(Instr.abs, 0x37, fun x => x &&& 0x7FFFFFFF#32), (Instr.neg, 0x38, fun x => x ^^^ 0x80000000#32), (Instr.mov, 0x39, fun x => x), (Instr.rcp, 0x40, fRcp), (Instr.sqrt, 0x41, fSqrt), (Instr.rsqrt, 0x42, fRsqrt), (Instr.exp, 0x43, fExp), (Instr.exp2, 0x44, fExp2), (Instr.log2, 0x45, fLog2), (Instr.sinpi, 0x46, fSinPi), (Instr.cospi, 0x47, fCosPi), (Instr.tanh, 0x48, fTanh), (Instr.silu, 0x5C, fun x => fMul x (fRcp (fAdd 0x3F800000#32 (fExp (fNeg x))))), (Instr.gelu, 0x5D, geluLane)] ∧
    UnitRuns s core vat code w :=
  ⟨tC (tOp [(0, 0x43), (1, 1), (2, 31)]), 0, 7, tOp [(0, 0x43), (1, 1), (2, 31)], UnitFault.none, Instr.exp, 0x43, fExp, by simp, by decide +kernel⟩

theorem witness_VectorFunctions_2 : ∃ (s : State) (core : Nat) (vat : Nat) (w : OpWord) (f : UnitFault), UnitRuns s core vat 0x3A w :=
  ⟨tC (tOp [(0, 0x3A), (1, 1), (2, 31), (16, 127)]), 0, 7, tOp [(0, 0x3A), (1, 1), (2, 31), (16, 127)], UnitFault.none, by decide +kernel⟩

theorem witness_VectorFunctions_3 : ∃ (s : State) (core : Nat) (vat : Nat) (w : OpWord) (f : UnitFault), UnitRuns s core vat 0x3B w :=
  ⟨tC (tOp [(0, 0x3B), (1, 1), (2, 31), (6, 2)]), 0, 7, tOp [(0, 0x3B), (1, 1), (2, 31), (6, 2)], UnitFault.none, by decide +kernel⟩

theorem witness_VectorReductions_1 : ∃ (s : State) (core : Nat) (vat : Nat) (w : OpWord) (f : UnitFault) (mk : Nat → OpWord → UnitFault →
    Instr) (code : Nat) (g : Word → Word → Word), (mk, code, g) ∈ [(Instr.rsum, 0x50, fAdd), (Instr.rmax, 0x51, fMax), (Instr.rmin, 0x52, fMin)] ∧
    UnitRuns s core vat code w :=
  ⟨tC (tOp [(0, 0x50), (1, 16), (2, 31)]), 0, 7, tOp [(0, 0x50), (1, 16), (2, 31)], UnitFault.none, Instr.rsum, 0x50, fAdd, by simp,
    by decide +kernel⟩

theorem witness_VectorReductions_2 : ∃ (s : State) (core : Nat) (vat : Nat) (w : OpWord) (f : UnitFault), UnitRuns s core vat 0x5A w :=
  ⟨tC (tOp [(0, 0x5a), (1, 2)]), 0, 7, tOp [(0, 0x5a), (1, 2)], UnitFault.none, by decide +kernel⟩

theorem witness_VectorReductions_3 : ∃ (s : State) (core : Nat) (vat : Nat) (w : OpWord) (f : UnitFault), UnitRuns s core vat 0x58 w :=
  ⟨tC (tOp [(0, 0x58), (1, 2), (4, 4), (16, 7), (20, 9)]), 0, 7, tOp [(0, 0x58), (1, 2), (4, 4), (16, 7), (20, 9)], UnitFault.none, by decide +kernel⟩

theorem witness_VectorReductions_4 : ∃ (s : State) (core : Nat) (vat : Nat) (w : OpWord) (f : UnitFault), UnitRuns s core vat 0x59 w :=
  ⟨tC (tOp [(0, 0x59), (1, 2), (4, 4), (5, 6), (16, 7), (20, 9)]), 0, 7, tOp [(0, 0x59), (1, 2), (4, 4), (5, 6), (16, 7), (20, 9)], UnitFault.none,
    by decide +kernel⟩

theorem witness_VectorReductions_5 : ∃ (s : State) (core : Nat) (vat : Nat) (w : OpWord) (f : UnitFault), UnitRuns s core vat 0x5B w :=
  ⟨tC (tOp [(0, 0x5b), (1, 2), (4, 4)]), 0, 7, tOp [(0, 0x5b), (1, 2), (4, 4)], UnitFault.none, by decide +kernel⟩

theorem witness_MinMaxFollowR47_1 : ∃ (x : Word) (y : Word), fpIsNaN (fp32 x) = true ∧ fpIsNaN (fp32 y) = true :=
  ⟨0x7FC00001, 0xFFC00000, by decide +kernel⟩

theorem witness_MinMaxFollowR47_2 : ∃ (x : Word) (y : Word), fpIsNaN (fp32 x) = true ∧ fpIsNaN (fp32 y) = false :=
  ⟨0x7FC00001, 0x80000000, by decide +kernel⟩

theorem witness_MinMaxFollowR47_3 : ∃ (x : Word) (y : Word), fpIsNaN (fp32 x) = false ∧ fpIsNaN (fp32 y) = false :=
  ⟨0x80000000, 0, by decide +kernel⟩

theorem witness_MinMaxFollowR47_4 : ∃ (s : State) (core : Nat) (vat : Nat) (w : OpWord) (f : UnitFault), UnitRuns s core vat 0x35 w :=
  ⟨tC (tOp [(0, 0x35), (1, 2), (4, 4)]), 0, 7, tOp [(0, 0x35), (1, 2), (4, 4)], UnitFault.none, by decide +kernel⟩

theorem witness_MinMaxFollowR47_5 : ∃ (s : State) (core : Nat) (vat : Nat) (w : OpWord) (f : UnitFault), UnitRuns s core vat 0x36 w :=
  ⟨tC (tOp [(0, 0x36), (1, 2), (4, 4)]), 0, 7, tOp [(0, 0x36), (1, 2), (4, 4)], UnitFault.none, by decide +kernel⟩

theorem witness_RouterMovesSlots_1 : ∃ (s : State) (r : Nat) (i : Nat) (mask : Nat) (k : Nat) (r' : Nat) (k' : Nat) (vat : Nat) (ecc : Ecc) (x : Slot), s.moveDue r i mask = some vat ∧
    (s.router r).faulted = false ∧ ((r < 1024 ∧ i < 2 → s.coreFenced r = false)) ∧ (mapGet [] (s.router r).landing i).head? = some x ∧
    portBits mask = [k] ∧ s.bridgeCut r k = false ∧ s.farEnd r k = some (r', k') ∧ r' ≠ r :=
  ⟨{ tV tVrun with routers := [(0, ⟨[(0, [⟨zeros 128, false⟩])], [], [], false⟩)] }, 0, 0, 4, 2, 1, 4, 7, .clean, ⟨zeros 128, false⟩,
    by decide +kernel⟩

theorem witness_RouterMovesSlots_2 : ∃ (s : State) (r : Nat) (i : Nat) (mask : Nat) (k : Nat) (vat : Nat) (ecc : Ecc) (x : Slot) (u : Vat) (run : StepRun), s.moveDue r i mask = some vat ∧
    (s.router r).faulted = false ∧ ((r < 1024 → s.coreFenced r = false)) ∧ (mapGet [] (s.router r).landing i).head? = some x ∧ portBits mask = [k] ∧
    s.bridgeCut r k = false ∧ s.farEnd r k = none ∧ linkEnd r k = none ∧ x.void = true ∧ s.vat? vat = some u ∧ u.step = some run :=
  ⟨{ tV tVrun with routers := [(0, ⟨[(1, [⟨zeros 128, true⟩])], [], [], false⟩)] }, 0, 1, 1, 0, 7, .clean, ⟨zeros 128, true⟩, tVrun, { tRun with table := ⟨4096, 0, [], false⟩ },
    by decide +kernel⟩

theorem witness_RouterMovesSlots_3 : ∃ (s : State) (r : Nat) (i : Nat) (mask : Nat) (k : Nat) (n : Nat) (vat : Nat) (ecc : Ecc) (x : Slot), s.moveDue r i mask = some vat ∧
    (s.router r).faulted = false ∧ (mapGet [] (s.router r).landing i).head? = some x ∧ portBits mask = [k] ∧ s.farEnd r k = none ∧
    linkEnd r k = some n ∧ 1024 ≤ r ∧ s.bridgeCut r k = false :=
  ⟨{ tV tVrun with routers := [(1188, ⟨[(2, [⟨zeros 128, false⟩])], [], [], false⟩)] }, 1188, 2, 1, 0, 0, 7, .clean, ⟨zeros 128, false⟩,
    by decide +kernel⟩

theorem witness_RouterMovesSlots_4 : ∃ (s : State) (r : Nat) (i : Nat) (p : WheyPacket), (mapGet [] (s.router r).whey i).head? = some p ∧
    wheyOk p = true ∧ (s.router r).turnOf r (wheyPort r p) = some i ∧ p.dest / 8 ≠ r ∧ s.bridgeCut r (wheyPort r p) = false ∧
    (∀ c < 17, s.heldIn c = []) ∧ ((∀ r' k', s.farEnd r (wheyPort r p) = some (r', k') → r' ≠ r ∧ (mapGet [] (s.router r').whey k').length < 2)) :=
  ⟨tOne (tWhey 4 8 0 0), 0, 0, tWhey 4 8 0 0, by decide +kernel, by decide +kernel, by exact turnOf_first _ _ _ _ rfl rfl, by decide +kernel,
    by decide +kernel, by decide +kernel, by exact fun _ _ h => farEnd_zero _ _ _ _ h⟩

theorem witness_RouterMovesSlots_5 : ∃ (s : State) (r : Nat) (i : Nat) (p : WheyPacket), (mapGet [] (s.router r).whey i).head? = some p ∧
    wheyOk p = true ∧ (s.router r).turnOf r (wheyPort r p) = some i ∧ p.dest / 8 = r ∧ linkEnd r (p.dest % 8) = none ∧ s.deadComplex p = false ∧
    (∀ c < 17, s.heldIn c = []) :=
  ⟨{ tS with routers := [(0, ⟨[], [(7, [tWhey 4 1 0 0])], [], false⟩)] }, 0, 7, tWhey 4 1 0 0, by decide +kernel⟩

theorem witness_RouterMovesSlots_6 : ∃ (s : State) (r : Nat) (i : Nat) (p : WheyPacket), (mapGet [] (s.router r).whey i).head? = some p ∧
    wheyOk p = true ∧ (s.router r).turnOf r (wheyPort r p) = some i ∧ p.dest / 8 = r ∧ s.deadComplex p = true ∧ p.kind ≠ 2 ∧ p.kind ≠ 4 ∧
    (∀ c < 17, s.heldIn c = []) :=
  ⟨{ tCc { tSen with state := .lost } tJun .active with routers := [(1215, ⟨[], [(7, [tWhey 1 9722 0 0])], [], false⟩)] }, 1215, 7, tWhey 1 9722 0 0,
    by decide +kernel⟩

theorem witness_WheyPacketsServed_1 : ∃ (s : State) (p : WheyPacket) (ecc : Ecc), p.format ≠ 0x1000 :=
  ⟨tS, { tWhey 1 0 0 0 with format := 0x1001 }, .clean, by decide +kernel⟩

theorem witness_WheyPacketsServed_2 : ∃ (s : State) (p : WheyPacket) (die : Nat) (slice : Nat) (off : Nat), wheyOk p = true ∧ p.kind = 1 ∧
    s.deadComplex p = false ∧ dpaSpace p.addr = some (.slice die slice off) :=
  ⟨tS, tWhey 1 0 (16 * 65536) (2 ^ 49), 0, 0, 0, by decide +kernel⟩

theorem witness_WheyPacketsServed_3 : ∃ (s : State) (p : WheyPacket) (q : Nat) (off : Nat), wheyOk p = true ∧ p.kind = 1 ∧ s.deadComplex p = false ∧
    dpaSpace p.addr = some (.hbm q off) :=
  ⟨tS, tWhey 1 0 (16 * 65536) 47999999999, 0, 47999999999, by decide +kernel⟩

theorem witness_WheyPacketsServed_4 : ∃ (s : State) (p : WheyPacket), wheyOk p = true ∧ p.kind = 1 ∧ s.deadComplex p = true :=
  ⟨tDead, tWhey 1 9722 (16 * 65536) 0, by decide +kernel⟩

theorem witness_WheyPacketsServed_5 : ∃ (s : State) (p : WheyPacket), wheyOk p = true ∧ p.kind = 1 ∧ s.deadComplex p = false ∧
    dpaSpace p.addr = none :=
  ⟨tS, tWhey 1 0 (16 * 65536) 48000000000, by decide +kernel⟩

theorem witness_WheyPacketsServed_6 : ∃ (s : State) (p : WheyPacket), wheyOk p = true ∧ p.kind = 2 :=
  ⟨tS, tWhey 2 0 0 0, by decide +kernel⟩

theorem witness_WheyPacketsServed_7 : ∃ (s : State) (p : WheyPacket) (die : Nat) (slice : Nat) (off : Nat), wheyOk p = true ∧ p.kind = 3 ∧
    s.deadComplex p = false ∧ dpaSpace p.addr = some (.slice die slice off) :=
  ⟨tS, tWhey 3 0 0 (2 ^ 49 + 3 * 2 ^ 31 + 65 * 2 ^ 24), 3, 65, 0, by decide +kernel⟩

theorem witness_WheyPacketsServed_8 : ∃ (s : State) (p : WheyPacket), wheyOk p = true ∧ p.kind = 4 :=
  ⟨tS, tWhey 4 0 0 0, by decide +kernel⟩

theorem witness_WheyPacketsServed_9 : ∃ (s : State) (p : WheyPacket), wheyOk p = true ∧ p.kind = 4 :=
  ⟨tS, tWhey 4 0 0 0, by decide +kernel⟩

theorem witness_WheyPacketsServed_10 : ∃ (s : State) (p : WheyPacket), wheyOk p = true ∧ p.kind = 3 :=
  ⟨tS, tWhey 3 0 0 0, by decide +kernel⟩

theorem witness_RemoteWindowChecks_1 : ∃ (s : State) (src : Nat) (bad : ReadErrs) (write : Bool) (p : WheyPacket), wheyOk p = true ∧ p.kind = 7 ∧
    s.wheyBlocked src 0 = false ∧ ((write = true → s.links.mcIn = [])) ∧ (s.window (p.arg % 256)).valid = false :=
  ⟨tS, 9, .none, true, tWhey 7 0 255 0, by decide +kernel⟩

theorem witness_RemoteWindowChecks_2 : ∃ (s : State) (src : Nat) (bad : ReadErrs) (write : Bool) (p : WheyPacket), wheyOk p = true ∧ p.kind = 7 ∧
    s.wheyBlocked src 0 = false ∧ ((write = true → s.links.mcIn = [])) ∧ (s.window (p.arg % 256)).valid = true ∧
    (((s.window (p.arg % 256)).vat ≠ p.vat ∨ src < (s.window (p.arg % 256)).lo ∨ (s.window (p.arg % 256)).hi < src ∨ (s.window (p.arg % 256)).perm / (if write then 2 else 1) % 2 = 0)) :=
  ⟨{ tS with links := { Links.reset with winAct := [(0, ⟨true, 3, 7, 8, 0, 0, 256⟩)] } }, 9, .none, true, tWhey 7 0 0 0, by decide +kernel⟩

theorem witness_RemoteWindowChecks_3 : ∃ (s : State) (src : Nat) (bad : ReadErrs) (write : Bool) (p : WheyPacket) (x : Window), wheyOk p = true ∧
    p.kind = 7 ∧ s.wheyBlocked src 0 = false ∧ ((write = true → s.links.mcIn = [])) ∧ s.window (p.arg % 256) = x ∧ x.valid = true ∧ x.vat = p.vat ∧
    x.lo ≤ src ∧ src ≤ x.hi ∧ x.perm / (if write then 2 else 1) % 2 = 1 ∧ ((x.size < p.addr + accessLen write p ∨ x.placed = false)) :=
  ⟨{ tS with links := { Links.reset with winAct := [(0, ⟨true, 3, 7, 9, 0, 0, 127⟩)] } }, 9, .none, true, tWhey 7 0 0 0, ⟨true, 3, 7, 9, 0, 0, 127⟩,
    by decide +kernel⟩

theorem witness_RemoteWindowChecks_4 : ∃ (s : State) (src : Nat) (k : Nat) (bad : ReadErrs) (p : WheyPacket) (x : Window), wheyOk p = true ∧
    p.kind = 7 ∧ s.window (p.arg % 256) = x ∧ x.valid = true ∧ x.vat = p.vat ∧ x.lo ≤ src ∧ src ≤ x.hi ∧ x.perm / 2 % 2 = 1 ∧
    p.addr + 128 * p.dataSlots ≤ x.size ∧ x.placed = true ∧ x.base + x.size ≤ 2 ^ 40 ∧ s.vatSlot p.vat 5 = some k ∧ (s.slot k).state = .active ∧
    s.fenced 5 ((x.base + p.addr) / 2 ^ 36) = false ∧ s.links.mcIn = [] ∧ 1 ≤ p.dataSlots :=
  ⟨{ tS with links := { Links.reset with winAct := [(0, ⟨true, 3, 7, 9, 9, 0, 128⟩)] }, keys := { KeyVault.reset with slots := [(2, { KeySlot.none with state := .active, kind := 5, vat := 7, key := zeros 64 })] } }, 9, 2, .none, tWhey 7 0 0 0, ⟨true, 3, 7, 9, 9, 0, 128⟩,
    by decide +kernel⟩

theorem witness_RemoteWindowChecks_5 : ∃ (s : State) (a : Nat) (n : Nat) (src : Nat) (vat : Nat) (tag : Nat) (dpa : Nat) (len : Nat) (k : Nat) (y : Nat) (bs : List Byte) (bad : ReadErrs) (x : Arbiter) (r : ArbReq), a < 522 ∧
    s.arbFenced a = false ∧ s.arbRefreshes a = false ∧ s.qos.arbs = [(a, x)] ∧ x.queue = [r] ∧ r.cls < 8 ∧ r.held = 0 ∧ r.here = [(y, 1)] ∧
    r.work = .window n src vat tag dpa len (some bs) bad ∧ s.dpaFenced dpa = false ∧ s.caveRange dpa len = 0 ∧ s.vatSlot vat 5 = some k ∧
    (s.slot k).state = .active ∧ s.wheyBlocked src 0 = false :=
  ⟨{ tWin with qos := { Qos.reset with arbs := [(3, tArbW)] }, mem := { MemTier.reset with refresh := [(3, (3840, 256, 1000))] } }, 3, 0, 9, 7, 3, 0, 4, 2, 4000, [1, 2, 3, 4], .none, tArbW, tWinReq,
    by decide +kernel⟩

theorem witness_RemoteWindowChecks_6 : ∃ (s : State) (n : Nat) (value : Nat), HostServed s ∧ n < 256 ∧ value % 2 = 1 :=
  ⟨tS, 255, 1, by decide +kernel⟩

theorem witness_LinkTraining_1 : ∃ (s : State) (k : Nat) (value : Nat), HostServed s ∧ value / 256 % 2 = 1 ∧ k < 8 ∧
    ((s.port k).state = .off ∨ (s.port k).state = .failed) :=
  ⟨tPort 2 .failed, 2, 0x100, by decide +kernel⟩

theorem witness_LinkTraining_2 : ∃ (s : State) (k : Nat) (value : Nat), HostServed s ∧ value / 512 % 2 = 1 ∧ (s.port k).state = .fenced ∧
    s.portSplit k = false :=
  ⟨tPort 5 .fenced, 5, 0x200, by decide +kernel⟩

theorem witness_LinkTraining_3 : ∃ (s : State) (k : Nat) (lanes : Nat), (s.port k).state = .detect ∧ (lanes = 63 ∨ lanes = 64) :=
  ⟨tPort 2 .detect, 2, 63, by decide +kernel⟩

theorem witness_LinkTraining_4 : ∃ (s : State) (k : Nat), (s.port k).state = .equalise :=
  ⟨tPort 2 .equalise, 2, by decide +kernel⟩

theorem witness_LinkTraining_5 : ∃ (s : State) (k : Nat) (lanes : Nat) (lock : Bool), (s.port k).state ∈ [.equalise, .lock, .measure, .align, .verify] ∧
    (lanes < 63 ∨ lock = false) :=
  ⟨tPort 2 .measure, 2, 62, true, by decide +kernel⟩

theorem witness_LinkTraining_6 : ∃ (s : State) (k : Nat), (s.port k).state = .down :=
  ⟨tPort 2 .down, 2, by decide +kernel⟩

theorem witness_LinkTraining_7 : ∃ (s : State) (k : Nat) (lane : Nat), ((s.port k).state = .active ∨ (s.port k).state = .fenced) ∧ lane < 64 ∧
    lane ∉ (s.port k).dead :=
  ⟨tPort 2 .active, 2, 63, by decide +kernel⟩

theorem witness_LinkMeasures_1 : ∃ (s : State) (k : Nat) (node : Nat) (pp : Nat) (tx : Nat) (ty : Nat) (tz : Nat), (s.port k).state = .lock :=
  ⟨tPort 2 .lock, 2, 256, 6, 16, 16, 40, by decide +kernel⟩

theorem witness_LinkMeasures_2 : ∃ (s : State) (k : Nat) (seq : Nat) (hold : Nat), (s.port k).state ∈ [.measure, .align, .verify, .active, .fenced] :=
  ⟨tPort 2 .measure, 2, 1, 640, by decide +kernel⟩

theorem witness_LinkMeasures_3 : ∃ (s : State) (k : Nat) (seq : Nat) (rt : Nat) (hold : Nat), (s.port k).state = .measure ∧
    (s.port k).echoes.length < 63 :=
  ⟨tPort 2 .measure, 2, 1, 5000, 640, by decide +kernel⟩

theorem witness_LinkMeasures_4 : ∃ (s : State) (k : Nat) (seq : Nat) (d : Nat), (s.port k).state = .measure ∧
    (s.port k).echoes = List.replicate 63 (2 * d) :=
  ⟨{ tS with links := { Links.reset with ports := [(2, { Port.off with state := .measure, echoes := List.replicate 63 3520 })] } }, 2, 63, 1760,
    by decide +kernel⟩

theorem witness_LinkMeasures_5 : ∃ (s : State) (k : Nat) (n : Nat) (st : Nat), (s.port k).state.limit = some (n, st) ∧
    (s.port k).entered + n < s.tick.count ∧ s.tick.count < 2 ^ 64 ∧ s.boot.state = .ready :=
  ⟨{ tPort 2 .detect with tick := { tS.tick with count := 125001 } }, 2, 125000, 0x0703, by decide +kernel⟩

theorem witness_LinkAligns_1 : ∃ (s : State) (k : Nat) (x : Nat) (phi : Nat), (s.port k).state = .align ∧ s.boot.state = .ready ∧
    s.tick.aligned = true ∧ (s.port k).sent = true ∧ s.tick.count < 2 ^ 64 ∧ ((x : Int) + alignOffset (s.port k).delayQ phi) = s.tick.count :=
  ⟨{ tS with links := { Links.reset with ports := [(2, { Port.off with state := .align, sent := true, delayQ := 480 })] } }, 2, 4094, 0,
    by decide +kernel⟩

theorem witness_LinkAligns_2 : ∃ (s : State) (k : Nat) (x : Nat) (phi : Nat), (s.port k).state = .align ∧ s.boot.state = .ready ∧
    s.tick.aligned = true ∧ s.tick.count < 2 ^ 64 ∧ 0 ≤ (x : Int) + alignOffset (s.port k).delayQ phi ∧
    (x : Int) + alignOffset (s.port k).delayQ phi < 2 ^ 64 ∧ ((x : Int) + alignOffset (s.port k).delayQ phi) ≠ s.tick.count :=
  ⟨{ tS with links := { Links.reset with ports := [(2, { Port.off with state := .align, sent := true, delayQ := 480 })] } }, 2, 4093, 0,
    by decide +kernel⟩

theorem witness_LinkAligns_3 : ∃ (s : State) (k : Nat) (x : Nat) (phi : Nat), (s.port k).state = .align ∧ s.boot.state = .ready ∧
    s.tick.aligned = false ∧ s.tick.alignLoad = none ∧ s.links.root = false :=
  ⟨{ tPort 2 .align with tick := { tS.tick with aligned := false } }, 2, 8192, 0, by decide +kernel⟩

theorem witness_LinkAligns_4 : ∃ (s : State) (k : Nat) (x : Nat) (phi : Nat), (s.port k).state = .align ∧ s.boot.state = .ready ∧
    s.tick.aligned = false ∧ s.links.root = true :=
  ⟨{ tPort 2 .align with tick := { tS.tick with aligned := false }, links := { (tPort 2 .align).links with root := true } }, 2, 0, 5,
    by decide +kernel⟩

theorem witness_LinkAligns_5 : ∃ (s : State) (k : Nat) (r : VerifyResult), (s.port k).state = .verify ∧ (s.port k).entered + 262144 ≤ s.tick.count ∧
    s.tick.count < 2 ^ 64 ∧ s.boot.state = .ready :=
  ⟨{ tPort 2 .verify with tick := { tS.tick with count := 262144 } }, 2, ⟨0, 0, 1, true, 8⟩, by decide +kernel⟩

theorem witness_CurdFlits_1 : ∃ (s : State) (k : Nat) (slot : Nat) (vat : Nat) (h0 : Slot) (h1 : Slot) (x : LinkEnt), (s.port k).state = .active ∧
    s.claimAt k 0 slot s.tick.count = some (vat, x) ∧ ((s.vat? vat).bind (·.step)).isSome = true ∧ (s.tick.count, slot) ∉ (s.port k).sentSlots ∧
    vat ∉ (s.port k).stale :=
  ⟨tLinked 4096 [], 0, 0, 7, ⟨zeros 128, false⟩, ⟨zeros 128, false⟩, ⟨0, 0, 1, 0, 1, 0, 0, 5⟩, by decide +kernel⟩

theorem witness_CurdFlits_2 : ∃ (s : State) (k : Nat) (slot : Nat) (fl : Flit), (s.port k).state = .active ∧ fl.bad = false ∧
    (fl.format ≠ 0x1000 ∨ fl.arg ≠ slot) :=
  ⟨tLinked 4096 [], 0, 1, tFlit, by decide +kernel⟩

theorem witness_CurdFlits_3 : ∃ (s : State) (k : Nat) (slot : Nat) (vat : Nat) (fl : Flit) (x : LinkEnt), (s.port k).state = .active ∧
    fl.bad = false ∧ fl.format = 0x1000 ∧ fl.kind = 1 ∧ fl.cls = 0 ∧ fl.srcNode < 10240 ∧ fl.sub < 4 ∧ fl.dst = 0 ∧ fl.session < 8 ∧ fl.arg = slot ∧
    fl.txTick = s.rxTick k % 65536 ∧ s.claimAt k 1 slot (s.rxTick k) = some (vat, x) ∧ x.flow = fl.flow ∧ (s.port k).session vat = some fl.session ∧
    (s.port k).landing = [] :=
  ⟨tLinked 4096 [], 0, 0, 7, tFlit, ⟨0, 0, 1, 0, 1, 1, 0, 5⟩, by decide +kernel⟩

theorem witness_CurdFlits_4 : ∃ (s : State) (k : Nat) (slot : Nat) (vat : Nat) (x : LinkEnt), 7 ≤ s.tick.count ∧
    (s.tick.count, slot) ∉ (s.port k).doneSlots ∧ s.claimAt k 1 slot (s.tick.count - 7) = some (vat, x) ∧ (s.port k).landing = [] ∧
    s.newDown vat (s.port k).peer = false :=
  ⟨{ tLinked 4089 [] with roles := [(7, { VatRole.empty with downs := [(9, 1, 4096)] })] }, 0, 0, 7, ⟨0, 0, 1, 0, 1, 1, 0, 5⟩, by decide +kernel⟩

theorem witness_CurdFlits_5 : ∃ (s : State) (k : Nat) (slot : Nat) (vat : Nat) (x : LinkEnt) (fl : Flit), 7 ≤ s.tick.count ∧
    (s.tick.count, slot) ∉ (s.port k).doneSlots ∧ s.claimAt k 1 slot (s.tick.count - 7) = some (vat, x) ∧ (s.port k).state = .active ∧
    (s.port k).landing = [(s.tick.count, slot, fl)] ∧ vat ∉ (s.port k).stale ∧ fl.sub = 0 :=
  ⟨tLinked 4089 [(4096, 0, tFlit)], 0, 0, 7, ⟨0, 0, 1, 0, 1, 1, 0, 5⟩, tFlit, by decide +kernel⟩

theorem witness_CurdFlits_6 : ∃ (s : State) (k : Nat) (slot : Nat), (s.claimAt k 1 slot (s.tick.count - 7) = none ∨ (s.tick.count, slot) ∈ (s.port k).doneSlots) :=
  ⟨tLinked 4088 [], 0, 0, by decide +kernel⟩

theorem witness_WheyFlitsAndMarkers_1 : ∃ (s : State) (k : Nat) (vc : Nat) (fl : Flit), (s.port k).state = .active ∧ k % 4 ≠ 3 ∧ vc ≤ 1 ∧
    wheyFlitOk fl = true ∧ fl.bad = false ∧ (s.port k).buffered vc < 512 :=
  ⟨tPort 0 .active, 0, 1, tWheyFlit, by decide +kernel⟩

theorem witness_WheyFlitsAndMarkers_2 : ∃ (s : State) (k : Nat) (vc : Nat) (fl : Flit), (s.port k).state = .active ∧ fl.bad = false ∧
    (k % 4 = 3 ∨ 1 < vc ∨ wheyFlitOk fl = false ∨ 512 ≤ (s.port k).buffered vc) :=
  ⟨tPort 3 .active, 3, 1, tWheyFlit, by decide +kernel⟩

theorem witness_WheyFlitsAndMarkers_3 : ∃ (s : State) (k : Nat) (m : Marker), (s.port k).state = .active ∧ m.present = true ∧ m.hdr = MsgHdr.good ∧
    m.tickLow = s.rxTick k % 2 ^ 32 ∧ (∀ c < 17, s.heldIn c = []) ∧ (s.port k).whey = [] ∧ (s.port k).landing = [] :=
  ⟨tPort 0 .active, 0, tMark, by decide +kernel⟩

theorem witness_WheyFlitsAndMarkers_4 : ∃ (s : State) (k : Nat) (m : Marker), (s.port k).state = .active ∧ m.present = true ∧ m.hdr = MsgHdr.good ∧
    m.tickLow ≠ s.rxTick k % 2 ^ 32 ∧ (∀ c < 17, s.heldIn c = []) ∧ (s.port k).lost = 1 ∧ (s.port k).whey = [] ∧ (s.port k).landing = [] ∧
    (s.port k).vats = [] ∧ s.links.mcOut = [] :=
  ⟨{ tS with links := { Links.reset with ports := [(0, { Port.off with state := .active, lost := 1 })] } }, 0, { tMark with tickLow := 4095 },
    by decide +kernel⟩

theorem witness_WheyFlitsAndMarkers_5 : ∃ (s : State) (k : Nat) (m : Marker), (s.port k).state = .active ∧ (m.present = false ∨ m.hdr.ok = false) :=
  ⟨tPort 0 .active, 0, { tMark with present := false }, by decide +kernel⟩

theorem witness_WheyFlitsAndMarkers_6 : ∃ (s : State) (k : Nat) (lock : Bool), ((s.port k).state = .active ∨ (s.port k).state = .fenced) ∧
    (lock = true ∨ 2 ≤ (s.port k).badTicks) ∧ (s.port k).vats = [] ∧ s.links.mcOut = [] :=
  ⟨{ tS with links := { Links.reset with ports := [(0, { Port.off with state := .fenced, badTicks := 2 })] } }, 0, false, by decide +kernel⟩

theorem witness_BypassAndLinkKeys_1 : ∃ (s : State) (value : Nat) (p : Nat), HostServed s ∧ s.power.cellar = .awake ∧ s.pins.vbyp = true ∧
    s.links.moving = [] ∧ p < 4 :=
  ⟨{ tS with links := { Links.reset with pairs := 3 }, pins := { tS.pins with vbyp := true } }, 6, 3, by decide +kernel⟩

theorem witness_BypassAndLinkKeys_2 : ∃ (s : State) (p : Nat), mapFind s.links.moving p = some true ∧ s.links.pairs / 2 ^ p % 2 = 0 :=
  ⟨{ tS with links := { Links.reset with moving := [(3, true)] } }, 3, by decide +kernel⟩

theorem witness_BypassAndLinkKeys_3 : ∃ (s : State) (p : Nat), mapFind s.links.moving p = some false ∧ p < 4 ∧ s.links.pairs / 2 ^ p % 2 = 1 ∧
    (s.port p).state = .active ∧ (s.port p).vats = [] ∧ (s.port (p + 4)).state = .off ∧ s.links.mcOut = [] :=
  ⟨{ tPort 3 .active with links := { (tPort 3 .active).links with moving := [(3, false)], pairs := 8 } }, 3, by decide +kernel⟩

theorem witness_BypassAndLinkKeys_4 : ∃ (s : State) (value : Nat), HostServed s ∧ value % 2 = 1 ∧
    (∀ k < 8, (s.port k).state ∈ [.off, .down, .failed]) :=
  ⟨tPort 3 .down, 1, by decide +kernel⟩

theorem witness_BypassAndLinkKeys_5 : ∃ (s : State) (value : Nat) (k : Nat), HostServed s ∧ value % 2 = 1 ∧ k < 8 ∧ (s.port k).state = .active :=
  ⟨tPort 7 .active, 1, 7, by decide +kernel⟩

theorem witness_BypassAndLinkKeys_6 : ∃ (s : State) (e : Nat) (x : Nat) (k : Nat) (p : Port), s.keys.pendSwitch = some (e, x) ∧ x ≤ s.tick.count ∧
    mapFind s.links.ports k = some p ∧ p.state = .active :=
  ⟨{ tPort 7 .active with keys := { KeyVault.reset with pendSwitch := some (3, 4096) } }, 3, 4096, 7, { Port.off with state := .active },
    by decide +kernel⟩

theorem witness_BypassAndLinkKeys_7 : ∃ (s : State) (k : Nat) (n : Nat), n ∈ (s.port k).verifying :=
  ⟨{ tS with links := { Links.reset with ports := [(7, { Port.off with state := .active, verifying := [0, 3] })] } }, 7, 3, by decide +kernel⟩

theorem witness_BypassAndLinkKeys_8 : ∃ (s : State) (k : Nat) (n : Nat), n ∈ (s.port k).verifying ∧ (s.port k).vats = [] ∧ s.links.mcOut = [] :=
  ⟨{ tS with links := { Links.reset with ports := [(7, { Port.off with state := .active, verifying := [0, 3] })] } }, 7, 3, by decide +kernel⟩

theorem witness_WheyMulticast_1 : ∃ (s : State) (src : Nat) (vat : Nat) (tag : Nat) (len : Nat) (n : Nat) (off : Nat), 1 ≤ len ∧ len ≤ 65536 ∧
    s.links.mcIn = [] ∧ s.windowStatus src vat n off len true = 0 ∧ s.wheyBlocked src 7 = false :=
  ⟨tWin, 9, 7, 5, 65536, 0, 0, by decide +kernel⟩

theorem witness_WheyMulticast_2 : ∃ (s : State) (src : Nat) (vat : Nat) (tag : Nat) (len : Nat) (n : Nat) (off : Nat), 1 ≤ len ∧ len ≤ 65536 ∧
    s.links.mcIn = [] ∧ s.windowStatus src vat n off len true ≠ 0 ∧ s.wheyBlocked src 7 = false :=
  ⟨tWin, 9, 7, 5, 65536, 0, 1, by decide +kernel⟩

theorem witness_WheyMulticast_3 : ∃ (s : State) (d : Nat) (tag : Nat) (m : McSource), s.links.mcOut = [m] ∧ m.tag = tag ∧ m.targets = [d] ∧
    m.grants = [] ∧ m.sent = false ∧ s.wheyBlocked d 0 = false :=
  ⟨{ tS with links := { Links.reset with mcOut := [tMc] } }, 9, 5, tMc, by decide +kernel⟩

theorem witness_WheyMulticast_4 : ∃ (s : State) (d : Nat) (tag : Nat) (st : Nat) (m : McSource), s.links.mcOut = [m] ∧ m.tag = tag ∧
    m.targets = [d] ∧ st ≠ 0 :=
  ⟨{ tS with links := { Links.reset with mcOut := [tMc] } }, 9, 5, 0x0310, tMc, by decide +kernel⟩

theorem witness_WheyMulticast_5 : ∃ (s : State) (d : Nat) (tag : Nat) (m : McSource), s.links.mcOut = [m] ∧ m.tag = tag ∧ m.targets = [d] ∧
    m.sent = true :=
  ⟨{ tS with links := { Links.reset with mcOut := [{ tMc with sent := true, grants := [9] }] } }, 9, 5, { tMc with sent := true, grants := [9] },
    by decide +kernel⟩

theorem witness_WheyMulticast_6 : ∃ (s : State) (src : Nat) (tag : Nat) (m : McTarget) (bs : List Byte), s.links.mcIn = [m] ∧ m.src = src ∧
    m.tag = tag ∧ m.granted = true ∧ m.data = [(m.off, bs)] ∧ bs.length = m.len :=
  ⟨{ tWin with links := { tWin.links with mcIn := [tMcIn] } }, 9, 5, tMcIn, [1, 2, 3, 4], by decide +kernel⟩

theorem witness_WheyMulticast_7 : ∃ (s : State) (src : Nat) (tag : Nat) (st : Nat) (m : McTarget), s.links.mcIn = [m] ∧ m.src = src ∧ m.tag = tag :=
  ⟨{ tWin with links := { tWin.links with mcIn := [tMcIn] } }, 9, 5, 0x0702, tMcIn, by decide +kernel⟩

theorem witness_WheyMulticast_8 : ∃ (s : State) (tag : Nat) (m : McSource), s.links.mcOut = [m] ∧ m.tag = tag ∧ m.first + 1024 ≤ s.tick.count :=
  ⟨{ tS with links := { Links.reset with mcOut := [{ tMc with first := 3072 }] } }, 5, { tMc with first := 3072 }, by decide +kernel⟩

theorem witness_HeadsAreChecked_1 : ∃ (s : State) (x : Headed) (a : Nat) (b : Nat) (d : Nat) (e : Nat) (f : Nat) (l : List Nat) (r : Bool) (w : HaltFor), x.ok = false :=
  ⟨tS, ⟨⟨0x1001, false⟩, 7⟩, 1, 0, 0, 0, 0, [], true, .stop, by decide +kernel⟩

theorem witness_HeadsAreChecked_2 : ∃ (s : State) (x : Headed) (a : Nat) (b : Nat) (d : Nat) (e : Nat) (f : Nat) (r : Bool), x.ok = false :=
  ⟨tPort 2 .active, ⟨⟨0x1000, true⟩, 2⟩, 1, 0, 0, 0, 0, true, by decide +kernel⟩

theorem witness_HeadsAreChecked_3 : ∃ (s : State) (x : PageCmdMsg) (y : OfferMsg) (l : List TagClaim), x.hdr.ok = false ∧ y.hdr.ok = false :=
  ⟨tV tVat, { tPage with hdr := ⟨0x1001, false⟩ }, ⟨⟨0x1000, true⟩, 7, 262144, false, 45, 2, 15, 4096, 3⟩, [], by decide +kernel⟩

theorem witness_MemberLossHaltsVat_1 : ∃ (s : State) (vat : Nat) (node : Nat) (reporter : Nat) (l : Nat) (u : Vat), s.vat? vat = some u ∧
    u.desc.vatId = vat ∧ s.newDown vat node = true ∧ u.state = .running ∧ (s.role vat).remould = none ∧ (s.role vat).staged = none ∧
    s.lpkgAt u node = some l ∧ u.desc.spares = [] ∧ u.moves = [] ∧ (∀ m ∈ s.links.mcOut, m.targets.contains node = false) ∧
    s.wheyBlocked (s.lpkgNode u u.headLpkg) 7 = false :=
  ⟨tV tVat, 7, 1, 0, 1, tVat, by decide +kernel⟩

theorem witness_MemberLossHaltsVat_2 : ∃ (s : State) (vat : Nat) (node : Nat) (reporter : Nat) (l : Nat) (k : Nat) (u : Vat), s.vat? vat = some u ∧
    u.desc.vatId = vat ∧ s.newDown vat node = true ∧ u.state = .running ∧ (s.role vat).remould = none ∧ s.lpkgAt u node = some l ∧
    (s.onRole vat fun r => { r with downs := r.downs ++ [(node, reporter, s.tick.count)] }).spareFor u l = some k ∧
    (∀ m ∈ s.links.mcOut, m.targets.contains node = false) ∧ s.wheyBlocked (s.lpkgNode u u.headLpkg) 7 = false :=
  ⟨tV tSpared, 7, 1, 0, 1, 1, tSpared, by decide +kernel⟩

theorem witness_MemberLossHaltsVat_3 : ∃ (s : State) (vat : Nat) (l : Nat) (core : Nat) (u : Vat), s.vat? vat = some u ∧ u.desc.vatId = vat ∧
    u.role = .member ∧ u.lpkg = u.masterLpkg ∧ l ≠ u.lpkg ∧ coreOk core = true ∧ (s.role vat).retired = [] ∧ (s.role vat).remould = none ∧
    s.wheyBlocked (s.lpkgNode u u.headLpkg) 7 = false :=
  ⟨tV tVat, 7, 1, 0, tVat, by decide +kernel⟩

theorem witness_HaltAndResume_1 : ∃ (s : State) (vat : Nat) (b : Nat) (what : HaltFor) (u : Vat), s.vat? vat = some u ∧ u.role = .member ∧
    u.lpkg ≠ u.masterLpkg ∧ u.state = .running ∧ (u.step.isSome = true ∨ s.tick.count < b) ∧ (s.role vat).haltAt = none :=
  ⟨tV tVat1, 7, 4097, .move 0, tVat1, by decide +kernel⟩

theorem witness_HaltAndResume_2 : ∃ (s : State) (vat : Nat) (b : Nat) (what : HaltFor) (u : Vat), s.vat? vat = some u ∧ u.role = .member ∧
    u.lpkg ≠ u.masterLpkg ∧ u.state = .running ∧ u.step = none ∧ b ≤ s.tick.count ∧ (s.role vat).haltAt = none ∧ (s.role vat).haltCmds = [] ∧
    (s.role vat).unbound = false ∧ u.sessions = [] :=
  ⟨tV tVat1, 7, 4096, .move 0, tVat1, by decide +kernel⟩

theorem witness_HaltAndResume_3 : ∃ (s : State) (vat : Nat) (l : Nat) (u : Vat) (m : Mould) (q : Remould), s.vat? vat = some u ∧ u.desc.vatId = vat ∧
    u.mould = some m ∧ u.role = .member ∧ u.lpkg = u.masterLpkg ∧ (s.role vat).remould = some q ∧ l ∈ q.affected ∧ q.resume = none ∧ 1 ≤ q.phase ∧
    (∀ a ∈ s.awaited u m q, (s.awaited u m q).count a ≤ (q.ready ++ [l]).count a) ∧ (∀ n, s.wheyBlocked n 7 = false) :=
  ⟨tRem tVat, 7, 1, tVat, tMould, tRemould, by decide +kernel, by decide +kernel, by decide +kernel, rfl, by decide +kernel, by decide +kernel,
    by decide +kernel, rfl, by decide +kernel, by decide +kernel, by exact tRem_open tVat⟩

theorem witness_HaltAndResume_4 : ∃ (s : State) (vat : Nat) (x : Nat) (seq : Nat) (u : Vat) (m : Mould), s.vat? vat = some u ∧ u.desc.vatId = vat ∧
    u.mould = some m ∧ u.role = .member ∧ u.state = .remoulding ∧ 1 ≤ u.comp ∧ seq ≤ u.comp + 1 ∧ (s.role vat).remould = none ∧
    (s.role vat).staged = none ∧ s.newSpares u.place [] = u.place.spares ∧ u.sessions = [] ∧ u.moves = [] :=
  ⟨tV { tVat1 with state := .remoulding, comp := 1 }, 7, 8192, 1, { tVat1 with state := .remoulding, comp := 1 }, tMould, by decide +kernel⟩

theorem witness_HaltAndResume_5 : ∃ (s : State) (vat : Nat) (u : Vat), s.vat? vat = some u ∧ u.role = .member ∧ u.state = .remoulding ∧
    (s.role vat).started = none ∧ (s.role vat).haltFrom + u.desc.limit < s.tick.count ∧ ((∀ m, (s.role vat).remould = some m → m.resume = none)) ∧
    u.moves = [] :=
  ⟨tAt { tVat with state := .remoulding } 12501, 7, { tVat with state := .remoulding }, by decide +kernel⟩

theorem witness_TimeMasterAndDeputy_1 : ∃ (s : State) (vat : Nat) (e : StageEnd) (u : Vat) (m : Mould), s.vat? vat = some u ∧ u.desc.vatId = vat ∧
    u.mould = some m ∧ u.delta = none ∧ (u.state = .running ∨ u.state = .halted) ∧ u.role = .member ∧ (s.role vat).staged = none ∧ e.status = 0 ∧
    ((mMove m e.move).1 ≠ u.lpkg ∨ mMoveCount m < e.move) ∧ s.wheyBlocked (s.lpkgNode u u.masterLpkg) 7 = false :=
  ⟨tV tVat, 7, ⟨0, 1, []⟩, tVat, tMould, by decide +kernel⟩

theorem witness_TimeMasterAndDeputy_2 : ∃ (s : State) (vat : Nat) (e : StageEnd) (u : Vat) (m : Mould), s.vat? vat = some u ∧ u.desc.vatId = vat ∧
    u.mould = some m ∧ u.delta = none ∧ u.state = .standby ∧ u.role = .standby ∧ u.moves.contains e.move = true ∧ (s.role vat).staged = none ∧
    e.status = 0 ∧ s.wheyBlocked (s.lpkgNode u u.masterLpkg) 7 = false :=
  ⟨tV { tVat1 with state := .standby, role := .standby, moves := [1] }, 7, ⟨0, 1, [5]⟩, { tVat1 with state := .standby, role := .standby, moves := [1] }, tMould,
    by decide +kernel⟩

theorem witness_TimeMasterAndDeputy_3 : ∃ (s : State) (vat : Nat) (e : StageEnd) (u : Vat) (m : Mould) (q : Remould), s.vat? vat = some u ∧
    u.mould = some m ∧ u.delta = none ∧ u.state = .running ∧ (s.role vat).staged = none ∧ e.status ≠ 0 ∧ u.role = .member ∧ u.lpkg = u.masterLpkg ∧
    u.moves = [] ∧ (s.role vat).remould = some q :=
  ⟨tRem tVat, 7, ⟨0x0211, 0xFFFF, []⟩, tVat, tMould, tRemould, by decide +kernel⟩

theorem witness_TimeMasterAndDeputy_4 : ∃ (s : State) (vat : Nat) (u : Vat), s.vat? vat = some u ∧ u.desc.vatId = vat ∧ u.state = .remoulding ∧
    (s.role vat).started = none ∧ s.pauseReady u = true ∧ s.wheyBlocked (s.lpkgNode u u.masterLpkg) 7 = false :=
  ⟨tV { tVat1 with state := .remoulding }, 7, { tVat1 with state := .remoulding }, by decide +kernel⟩

theorem witness_TimeMasterAndDeputy_5 : ∃ (s : State) (vat : Nat) (u : Vat), s.vat? vat = some u ∧ u.state = .remoulding ∧
    (s.role vat).started = none ∧ s.pauseReady u = false :=
  ⟨{ tV { tVat1 with state := .remoulding } with roles := [(7, { VatRole.empty with pageJobs := [⟨0, 0, 0, [⟨0, true, false, 0, 0⟩], false, 0⟩] })] }, 7, { tVat1 with state := .remoulding },
    by decide +kernel⟩

theorem witness_TimeMasterAndDeputy_6 : ∃ (s : State) (vat : Nat) (x : Nat) (u : Vat), s.vat? vat = some u ∧ u.role = .member ∧
    u.lpkg = u.desc.deputy ∧ u.desc.deputy ≠ u.masterLpkg :=
  ⟨tV tVat1, 7, 4096, tVat1, by decide +kernel⟩

theorem witness_TimeMasterAndDeputy_7 : ∃ (s : State) (vat : Nat) (u : Vat), s.vat? vat = some u ∧ u.desc.vatId = vat ∧ u.role = .member ∧
    u.lpkg = u.masterLpkg ∧ u.desc.tm ≠ u.desc.deputy ∧ u.state ≠ .defined ∧ u.state ≠ .reserved ∧ u.state ≠ .washing ∧ s.tick.lock = .locked ∧
    s.tick.aligned = true ∧ (s.role vat).lastSent + 4096 ≤ s.tick.count ∧ s.wheyBlocked (s.lpkgNode u u.desc.deputy) 7 = false :=
  ⟨tV tVat, 7, tVat, by decide +kernel⟩

theorem witness_TimeMasterAndDeputy_8 : ∃ (s : State) (vat : Nat) (u : Vat), s.vat? vat = some u ∧ u.desc.vatId = vat ∧ u.role = .member ∧
    u.lpkg = u.desc.deputy ∧ u.desc.deputy ≠ u.masterLpkg ∧ u.acting = none ∧ (s.role vat).reported + 8192 ≤ s.tick.count ∧ u.state = .running ∧
    (s.role vat).remould = none ∧ u.desc.spares = [] ∧ u.moves = [] :=
  ⟨tAt tVat1 8192, 7, tVat1, by decide +kernel⟩

theorem witness_TimeMasterAndDeputy_9 : ∃ (s : State) (vat : Nat) (u : Vat), s.vat? vat = some u ∧ u.role = .member ∧ (s.role vat).sentDown = [] :=
  ⟨tV tVat1, 7, tVat1, by decide +kernel⟩

theorem witness_SessionOffers_1 : ∃ (s : State) (vat : Nat) (i : Nat) (u : Vat), s.vat? vat = some u ∧ u.desc.vatId = vat ∧ s.eligible u i = true ∧
    (u.wk i).offered = none ∧ s.wheyBlocked (s.lpkgNode u u.headLpkg) 7 = false :=
  ⟨tV (tHome [(0, tResident)]), 7, 0, tHome [(0, tResident)], by decide +kernel⟩

theorem witness_SessionOffers_2 : ∃ (s : State) (m : OfferMsg) (u : Vat), s.vat? m.vat = some u ∧ u.role = .member ∧ u.lpkg = u.headLpkg ∧
    m.hdr.ok = true ∧ m.withdraw = false :=
  ⟨tV tVat, ⟨tHdr, 7, 262144, false, 45, 2, 15, 4096, 3⟩, tVat, by decide +kernel⟩

theorem witness_SessionOffers_3 : ∃ (s : State) (m : OfferMsg) (u : Vat), s.vat? m.vat = some u ∧ u.role = .member ∧ u.lpkg = u.headLpkg ∧
    m.hdr.ok = true ∧ m.withdraw = true :=
  ⟨tV { tVat with offers := [⟨262144, 1, 2, 0, 0, 0⟩] }, ⟨tHdr, 7, 262144, true, 45, 2, 15, 4096, 3⟩, { tVat with offers := [⟨262144, 1, 2, 0, 0, 0⟩] },
    by decide +kernel⟩

theorem witness_HomePagesSessions_1 : ∃ (s : State) (vat : Nat) (i : Nat) (u : Vat) (r : Session), s.vat? vat = some u ∧ s.needsPaging u i = true ∧
    (u.wk i).copies = [] ∧ (u.wk i).offered = none ∧ s.allocate u i = some r :=
  ⟨tV (tHome [(0, tReady)]), 7, 0, tHome [(0, tReady)], { tReady with resSlot := 0, blocks := [⟨none, none, false, some 0⟩] }, by decide +kernel⟩

theorem witness_HomePagesSessions_2 : ∃ (s : State) (vat : Nat) (i : Nat) (u : Vat), s.vat? vat = some u ∧ s.needsPaging u i = true ∧
    (u.wk i).copies = [] ∧ (u.wk i).starved = false ∧ s.allocate u i = none ∧ s.lacksBlocks u i = true :=
  ⟨tV { tHome [(0, tReady)] with params := { tParams with blocksH := 0 } }, 7, 0, { tHome [(0, tReady)] with params := { tParams with blocksH := 0 } },
    by decide +kernel⟩

theorem witness_HomePagesSessions_3 : ∃ (s : State) (vat : Nat) (i : Nat) (u : Vat), s.vat? vat = some u ∧ s.needsPaging u i = true ∧
    (u.wk i).copies = [] ∧ s.allocate u i = none ∧ s.lacksBlocks u i = false :=
  ⟨tV { tHome [(0, tReady)] with params := { tParams with resH := 0 } }, 7, 0, { tHome [(0, tReady)] with params := { tParams with resH := 0 } },
    by decide +kernel⟩

theorem witness_HomePagesSessions_4 : ∃ (s : State) (vat : Nat) (i : Nat) (u : Vat), s.vat? vat = some u ∧ s.lacksRoom u = true ∧
    u.evictFirst = some i ∧ (u.sess i).blocks.all (fun b => !b.dirty) = true :=
  ⟨tV { tHome [(0, tReady), (1, { tResident with state := .idle })] with params := { tParams with resH := 1 } }, 7, 1, { tHome [(0, tReady), (1, { tResident with state := .idle })] with params := { tParams with resH := 1 } },
    by decide +kernel⟩

theorem witness_PageTransfers_1 : ∃ (s : State) (m : PageCmdMsg) (u : Vat) (e : PageEntry), s.vat? m.vat = some u ∧ u.desc.vatId = m.vat ∧
    u.role = .member ∧ m.hdr.ok = true ∧ m.arg = 0 ∧ m.last = true ∧ m.entries = [e] ∧ e.ordinal = 0 ∧ e.copy = false ∧ e.zero = false ∧
    (s.role m.vat).pageJobs = [] ∧ s.pageWaits m.vat m.session = false ∧ s.wheyBlocked (s.lpkgNode u (m.session / 2 ^ 18)) 7 = false :=
  ⟨tV tVat1, { tPage with entries := [⟨0, false, false, 0, 0⟩] }, tVat1, ⟨0, false, false, 0, 0⟩, by decide +kernel⟩

theorem witness_PageTransfers_2 : ∃ (s : State) (m : PageCmdMsg) (u : Vat) (e : PageEntry), s.vat? m.vat = some u ∧ u.role = .member ∧
    m.hdr.ok = true ∧ m.arg = 0 ∧ m.entries = [e] ∧ e.ordinal = 0 ∧ e.copy = false ∧ e.zero = true ∧ (s.role m.vat).pageJobs = [] ∧
    (s.pullAsk true (s.blockPieces u e.hbmBlock 0 65536) (.keep m.vat m.session)).pageWaits m.vat m.session = true :=
  ⟨{ tV tVat1 with qos := { Qos.reset with arbs := [(520, ⟨[{ tReq with work := .keep 7 tPage.session }], none, 0, []⟩)] } }, tPage, tVat1, ⟨0, false, true, 0, 0⟩,
    by decide +kernel⟩

theorem witness_PageTransfers_3 : ∃ (s : State) (vat : Nat) (session : Nat) (u : Vat) (j : PageJob) (e : PageEntry), s.vat? vat = some u ∧
    u.desc.vatId = vat ∧ s.power.cellar = .awake ∧ (s.role vat).pageJobs = [j] ∧ j.session = session ∧ j.arg = 0 ∧ j.status = 0 ∧ j.entries = [e] ∧
    j.last = false ∧ e.copy = true ∧ s.qos.leftOf (fun w => decide (w = .page vat session e.ordinal)) = 0 ∧ s.transferStatus u e false .clean = 0 :=
  ⟨{ tV tVat1 with roles := [(7, { VatRole.empty with pageJobs := [⟨0, 0, 0, [⟨0, true, false, 0, 0⟩], false, 0⟩] })] }, 7, 0, tVat1, ⟨0, 0, 0, [⟨0, true, false, 0, 0⟩], false, 0⟩, ⟨0, true, false, 0, 0⟩,
    by decide +kernel⟩

theorem witness_PageTransfers_4 : ∃ (s : State) (vat : Nat) (l : Nat) (i : Nat) (u : Vat), s.vat? vat = some u ∧ u.role = .member ∧ i < 2 ^ 18 ∧
    (u.wk i).paging = some (0, [l]) :=
  ⟨tV { tHome [(0, { tReady with blocks := [⟨none, none, false, some 0⟩] })] with work := [(0, { SessWork.empty with paging := some (0, [1]) })] }, 7, 1, 0, { tHome [(0, { tReady with blocks := [⟨none, none, false, some 0⟩] })] with work := [(0, { SessWork.empty with paging := some (0, [1]) })] },
    by decide +kernel⟩

theorem witness_PageTransfers_5 : ∃ (s : State) (vat : Nat) (l : Nat) (i : Nat) (st : Nat) (n : Nat) (ls : List Nat) (u : Vat), s.vat? vat = some u ∧
    u.role = .member ∧ i < 2 ^ 18 ∧ (u.wk i).paging = some (n, ls) ∧ l ∈ ls ∧ st ≠ 0 :=
  ⟨tV { tHome [(0, { tReady with blocks := [⟨none, none, false, some 0⟩] })] with work := [(0, { SessWork.empty with paging := some (0, [0, 1]) })] }, 7, 1, 0, 0x0560, 0, [0, 1], { tHome [(0, { tReady with blocks := [⟨none, none, false, some 0⟩] })] with work := [(0, { SessWork.empty with paging := some (0, [0, 1]) })] },
    by decide +kernel⟩

theorem witness_ScrubAndSliceCopies_1 : ∃ (s : State) (q : Nat) (ca : Nat), q < 16 ∧ granuleOk ca = true ∧ s.mem.hbmOut.contains q = false ∧
    s.fenced 5 q = false ∧ 6 ≤ s.boot.stage ∧ (s.stackRegs q).scrub + 1 ≠ 750000000 :=
  ⟨tS, 15, 31 * 2 ^ 31 + 1499999936, by decide +kernel⟩

theorem witness_ScrubAndSliceCopies_2 : ∃ (s : State) (q : Nat) (ca : Nat), q < 16 ∧ granuleOk ca = true ∧ s.mem.hbmOut.contains q = false ∧
    s.fenced 5 q = false ∧ 6 ≤ s.boot.stage :=
  ⟨tS, 15, 31 * 2 ^ 31 + 1499999936, by decide +kernel⟩

theorem witness_ScrubAndSliceCopies_3 : ∃ (s : State) (die : Nat) (c : SliceCopy), mapFind s.mem.copies die = some c ∧ c.done = false ∧
    ((s.vats.any fun v => v.2.place.slices.contains c.src) = true ∨ s.mem.retired = []) ∧ Memory.wf s.mem.cells = true :=
  ⟨tSliced tVat, 0, ⟨3, 5, [], false⟩, by decide +kernel⟩

theorem witness_ScrubAndSliceCopies_4 : ∃ (s : State) (die : Nat) (vat : Nat) (o : Nat) (c : SliceCopy) (u : Vat), mapFind s.mem.copies die = some c ∧
    c.done = false ∧ c.src < 264 ∧ o < 2 ^ 24 ∧ s.sliceVats c.src = [vat] ∧ s.vat? vat = some u ∧ u.role ≠ .standby ∧ u.step.isSome = true ∧
    s.mem.retired = [] :=
  ⟨tSliced tVrun, 0, 7, 64, ⟨3, 5, [], false⟩, { tVrun with place := { tVrun.place with slices := [3] } }, by decide +kernel⟩

theorem witness_ExtentsComeAndGo_1 : ∃ (s : State) (p : Nat) (d : Nat) (off : Nat) (bytes : Nat) (e : Nat), p < 4 ∧ d < 8 ∧ (s.cxlPort p).state = 2 ∧
    (s.cxlDev (8 * p + d)).state = 2 ∧ s.extentMeets ((8 * p + d) * 2 ^ 14 + off / 2 ^ 25) (bytes / 2 ^ 25) = false ∧
    addFits (s.cxlDev (8 * p + d)) off bytes = true ∧ (freeEntries s.mem.extents).head? = some e :=
  ⟨tCxl, 3, 7, 2 ^ 29, 2 ^ 29, 0, by decide +kernel⟩

theorem witness_ExtentsComeAndGo_2 : ∃ (s : State) (p : Nat) (d : Nat) (off : Nat) (bytes : Nat), p < 4 ∧ d < 8 ∧ (s.cxlPort p).state = 2 ∧
    (s.cxlDev (8 * p + d)).state = 2 ∧ s.extentMeets ((8 * p + d) * 2 ^ 14 + off / 2 ^ 25) (bytes / 2 ^ 25) = false ∧
    addFits (s.cxlDev (8 * p + d)) off bytes = false :=
  ⟨tCxl, 3, 7, 2 ^ 29 + 2 ^ 25, 2 ^ 29, by decide +kernel⟩

theorem witness_ExtentsComeAndGo_3 : ∃ (s : State) (e : Nat), (s.extent e).state = .zeroing ∧
    s.caveQuiet (s.extent e).base (s.extent e).frames = true :=
  ⟨tExt .zeroing, 5, by decide +kernel⟩

theorem witness_ExtentsComeAndGo_4 : ∃ (s : State) (e : Nat), ((s.extent e).state = .zeroing ∨ (s.extent e).state = .offered ∨ (s.extent e).state = .active) :=
  ⟨tExt .active, 5, by decide +kernel⟩

theorem witness_ExtentsComeAndGo_5 : ∃ (s : State) (e : Nat) (vat : Nat) (i : Nat) (u : Vat) (r : Session), (s.extent e).state = .active ∧
    s.vats = [(vat, u)] ∧ s.vat? vat = some u ∧ u.sessions = [(i, r)] ∧ r.state ≠ .free ∧ r.state ≠ .orphaned ∧ (u.wk i).req = none ∧
    (u.wk i).offered = none ∧ (r.blocks.any fun b => b.cave.any (s.slotLost u (s.extent e).base (s.extent e).frames)) = true :=
  ⟨{ tV tVcave with cxlPorts := tCxl.cxlPorts, cxlDevs := tCxl.cxlDevs, mem := (tExt .active).mem }, 5, 7, 0, tVcave, { tReady with blocks := [⟨none, some 0, false, some 0⟩] },
    by decide +kernel⟩

theorem witness_StackAndCxlLoss_1 : ∃ (s : State) (q : Nat), q < 16 ∧ q ≠ 0 ∧ q ≠ 8 ∧ s.mem.hbmOut.contains q = false ∧ 5 ≤ s.boot.stage ∧
    s.fenced 5 q = false :=
  ⟨tS, 15, by decide +kernel⟩

theorem witness_StackAndCxlLoss_2 : ∃ (s : State) (p : Nat), p < 4 ∧ (s.cxlPort p).state = 2 ∧ s.fenced 6 p = false :=
  ⟨tExt .active, 3, by decide +kernel⟩

theorem witness_FaultBatches_1 : ∃ (s : State), s.xl.openEnts ≠ [] ∧ (64 ≤ s.xl.openEnts.length ∨ s.xl.openTick + 1250 ≤ s.tick.count) ∧
    s.xl.enable = false :=
  ⟨{ tS with xl := { Xlate.reset with openEnts := [tFault], openTick := 2846 } }, by decide +kernel⟩

theorem witness_FaultBatches_2 : ∃ (s : State) (k : Nat) (b : Batch) (e : FaultEnt) (c : Cmd), HostServed s ∧ s.xl.slots = [(k, b)] ∧ b.ents = [e] ∧
    b.seq < 2 ^ 32 ∧ s.xl.closed = [] ∧ s.cmd? e.ref = some c ∧ c.phase = .held ∧ c.ref = e.ref ∧
    Memory.get s.host (s.xl.ringBase + 8192 * k + 112) = 2 :=
  ⟨tHeld (tCmd [] .held) 2, 0, tBatch, tFault, tCmd [] .held, by decide +kernel⟩

theorem witness_FaultBatches_3 : ∃ (s : State) (k : Nat) (b : Batch) (e : FaultEnt) (c : Cmd), HostServed s ∧ s.xl.slots = [(k, b)] ∧ b.ents = [e] ∧
    b.seq < 2 ^ 32 ∧ s.xl.closed = [] ∧ s.cmd? e.ref = some c ∧ c.phase = .held ∧ c.ref = e.ref ∧ c.tiles.all (fun t => t.virt) = true ∧
    c.tiles ≠ [] ∧ c.tiles.all (fun t => decide (t.len ≠ 0)) = true ∧ s.xl.cache = [] ∧ Memory.get s.host (s.xl.ringBase + 8192 * k + 112) = 1 :=
  ⟨tHeld { tCmd [] .held with tiles := [tTile] } 1, 0, tBatch, tFault, { tCmd [] .held with tiles := [tTile] }, by decide +kernel⟩

theorem witness_FaultBatches_4 : ∃ (s : State) (b : Batch), HostServed s ∧ s.xl.closed = [b] ∧ s.xl.ringLog ≠ 0 ∧ s.hostOpen 0 = true ∧
    (mapFind s.xl.slots (s.xl.pos % 2 ^ s.xl.ringLog)).isNone = true ∧ ((s.func 0).entry 1).2.2 = false ∧ s.xl.producer < 0xFFFFFFFF :=
  ⟨{ tS with xl := { Xlate.reset with ringBase := 0x2000, ringLog := 4, closed := [tBatch] }, hp := { tS.hp with funcs := [(0, ⟨false, true, [(1, (0x7000, 5, false))], []⟩)] } }, tBatch,
    by decide +kernel⟩

theorem witness_FaultBatches_5 : ∃ (s : State) (r : CmdRef) (c : Cmd) (a : Nat), s.cmd? r = some c ∧ c.phase = .held ∧ c.faulted = some a ∧
    a + 12500000 ≤ s.tick.count :=
  ⟨{ tHeld { tCmd [] .held with faulted := some 0 } 0 with tick := { tS.tick with count := 12500000 } }, ⟨3, 0, 0⟩, { tCmd [] .held with faulted := some 0 }, 0,
    by decide +kernel⟩

theorem witness_DoorbellsAndFetch_1 : ∃ (s : State) (ctx : Nat) (q : Nat) (v : Nat) (u : Queue), s.doorOpen ctx = true ∧ v < 2 ^ 32 ∧
    s.queue? ctx q = some u ∧ (v + 2 ^ 32 - u.sqHead) % 2 ^ 32 ≤ 2 ^ u.sqLog ∧ (u.cqTail + 2 ^ 32 - (s.door ctx q).2) % 2 ^ 32 ≤ 2 ^ u.cqLog :=
  ⟨tQ tCtx tQueue (0, 0) [], 3, 0, 16, tQueue, by decide +kernel⟩

theorem witness_DoorbellsAndFetch_2 : ∃ (s : State) (ctx : Nat) (q : Nat) (v : Nat) (u : Queue), s.doorOpen ctx = true ∧ v < 2 ^ 32 ∧
    s.queue? ctx q = some u ∧ ((s.door ctx q).1 + 2 ^ 32 - u.sqHead) % 2 ^ 32 ≤ 2 ^ u.sqLog ∧ (u.cqTail + 2 ^ 32 - v) % 2 ^ 32 ≤ 2 ^ u.cqLog :=
  ⟨tQ tCtx { tQueue with cqTail := 16 } (0, 0) [], 3, 0, 16, { tQueue with cqTail := 16 }, by decide +kernel⟩

theorem witness_DoorbellsAndFetch_3 : ∃ (s : State) (ctx : Nat) (q : Nat) (v : Nat) (u : Queue), s.doorOpen ctx = true ∧ v < 2 ^ 32 ∧
    s.queue? ctx q = some u ∧ u.error = false ∧ 2 ^ u.sqLog < (v + 2 ^ 32 - u.sqHead) % 2 ^ 32 ∧ (s.ctx ctx).function = 0 :=
  ⟨tQ tCtx tQueue (0, 0) [], 3, 0, 17, tQueue, by decide +kernel⟩

theorem witness_DoorbellsAndFetch_4 : ∃ (s : State) (ctx : Nat) (q : Nat) (u : Queue), s.canFetch ctx q = true ∧ s.queue? ctx q = some u :=
  ⟨tQ tCtx tQueue (1, 0) [], 3, 0, tQueue, by decide +kernel⟩

theorem witness_DispatchChecks_1 : ∃ (s : State) (ctx : Nat) (q : Nat) (u : Queue) (h : Fetched) (hs : List Fetched), s.canDispatch ctx q = true ∧
    s.queue? ctx q = some u ∧ u.fetched = h :: hs ∧ cmdFlag h.bytes 1 = false ∧ cmdFlag h.bytes 3 = false ∧ s.formStatus h.bytes ≠ 0 :=
  ⟨tQ tCtx { tQueue with fetched := [⟨0, tB 1 [(0, 1)], 4000⟩] } (1, 0) [], 3, 0, { tQueue with fetched := [⟨0, tB 1 [(0, 1)], 4000⟩] }, ⟨0, tB 1 [(0, 1)], 4000⟩, [],
    by decide +kernel⟩

theorem witness_DispatchChecks_2 : ∃ (s : State) (ctx : Nat) (q : Nat) (u : Queue) (h : Fetched) (hs : List Fetched) (x : Cmd), s.canDispatch ctx q = true ∧
    s.queue? ctx q = some u ∧ u.fetched = h :: hs ∧ cmdFlag h.bytes 0 = false ∧ cmdFlag h.bytes 1 = false ∧ cmdFlag h.bytes 3 = false ∧
    x = newCmd ⟨ctx, q, h.idx⟩ h.bytes s.tick.count (s.slot (cmdSlot h.bytes)).gen ∧ s.formStatus h.bytes = 0 ∧ kindOk ctx (cmdOp h.bytes) = true ∧
    cmdObjs h.bytes = [] ∧ s.objStatus ctx h.bytes = 0 ∧ cmdZero h.bytes = false ∧ ownCheck s x = 0 ∧ s.cutStatus x = 0 ∧ cmdOp h.bytes ≠ 0x21 :=
  ⟨tQ tCtx { tQueue with fetched := [⟨0, tB 1 [], 4000⟩] } (1, 0) [], 3, 0, { tQueue with fetched := [⟨0, tB 1 [], 4000⟩] }, ⟨0, tB 1 [], 4000⟩, [], newCmd ⟨3, 0, 0⟩ (tB 1 []) 4096 0,
    by decide +kernel⟩

theorem witness_DispatchChecks_3 : ∃ (s : State) (ctx : Nat) (q : Nat) (st : Nat) (u : Queue) (h : Fetched) (hs : List Fetched), s.canDispatch ctx q = true ∧
    s.queue? ctx q = some u ∧ u.fetched = h :: hs ∧ cmdFlag h.bytes 0 = false ∧ cmdFlag h.bytes 1 = true ∧ cmdFlag h.bytes 2 = true ∧
    u.met = some st ∧ 256 ≤ st :=
  ⟨tQ tCtx { tQueue with fetched := [⟨0, tB 1 [(3, 6)], 4000⟩], met := some 256 } (1, 0) [], 3, 0, 256, { tQueue with fetched := [⟨0, tB 1 [(3, 6)], 4000⟩], met := some 256 }, ⟨0, tB 1 [(3, 6)], 4000⟩, [],
    by decide +kernel⟩

theorem witness_CompletionWritesEntry_1 : ∃ (s : State) (r : CmdRef) (c : Cmd) (u : Queue), s.cmd? r = some c ∧ c.phase = .done ∧ c.orphan = false ∧
    c.fence = none ∧ s.hostOpen (s.ctx r.ctx).function = true ∧ s.queue? r.ctx r.q = some u ∧ u.error = false ∧ (s.ctx r.ctx).state = .active ∧
    u.vector = 0xFFFF :=
  ⟨tQ tCtx { tQueue with reserved := 1, cqTail := 16 } (1, 0) [{ tCmd (tB 1 []) .done with status := 0x0141, result := 7 }], ⟨3, 0, 0⟩, { tCmd (tB 1 []) .done with status := 0x0141, result := 7 }, { tQueue with reserved := 1, cqTail := 16 },
    by decide +kernel⟩

theorem witness_CompletionWritesEntry_2 : ∃ (s : State) (r : CmdRef) (c : Cmd) (u : Queue) (f : Nat), s.cmd? r = some c ∧ c.phase = .done ∧
    c.orphan = false ∧ c.fence = some f ∧ c.silent = false ∧ (s.fence f).pending = some r ∧ s.hostOpen (s.ctx r.ctx).function = true ∧
    s.queue? r.ctx r.q = some u ∧ u.error = false ∧ (s.ctx r.ctx).state = .active ∧ u.vector = 0xFFFF :=
  ⟨{ tQ tCtx { tQueue with reserved := 1 } (1, 0) [] with objs := { (tQ tCtx { tQueue with reserved := 1 } (1, 0) [{ tCmd (tB 1 []) .done with fence := some 109 }]).objs with fences := [(109, ⟨0, false, 2 ^ 31 - 1, 0, some ⟨3, 0, 0⟩⟩)] } }, ⟨3, 0, 0⟩, { tCmd (tB 1 []) .done with fence := some 109 }, { tQueue with reserved := 1 }, 109,
    by decide +kernel⟩

theorem witness_PageWalks_1 : ∃ (s : State) (r : CmdRef) (c : Cmd) (x : Tile) (p : Nat) (w : WalkEnd), s.cmd? r = some c ∧ c.phase = .resolving ∧
    c.tiles = [x] ∧ x.spans = [p] ∧ x.trans = [] ∧ x.fails = [] ∧ w = s.walk r.ctx (p * 2 ^ 25) ∧ w.status = 0 ∧ s.leafStatus r.ctx w x.write = 0 ∧
    s.bridgesUp ≠ [] ∧ s.outHalf 0 = false ∧ s.outHalf 1 = false ∧ s.walkWaits r x.operand p = false :=
  ⟨{ tPt [{ tCmd (tB 2 []) .resolving with tiles := [tTile] }] with cc := { Complexes.reset with bridge0 := true } }, ⟨3, 0, 0⟩, { tCmd (tB 2 []) .resolving with tiles := [tTile] }, tTile, 0, ⟨0, 0, 15 + 2 ^ 52, 25⟩,
    by decide +kernel⟩

theorem witness_PageWalks_2 : ∃ (s : State) (r : CmdRef) (c : Cmd) (x : Tile) (p : Nat) (w : WalkEnd), s.cmd? r = some c ∧ c.phase = .resolving ∧
    c.tiles = [x] ∧ x.spans = [p] ∧ x.trans = [] ∧ x.fails = [] ∧ w = s.walk r.ctx (p * 2 ^ 25) ∧ (w.status = 0x0401 ∨ w.status = 0x0403) ∧
    s.walkWaits r x.operand p = false ∧ (s.ctx r.ctx).state = .active ∧ s.xl.waiting < 4096 ∧ s.xl.openEnts.length < 63 :=
  ⟨tQ tCtx tQueue (1, 0) [{ tCmd (tB 2 []) .resolving with tiles := [tTile] }], ⟨3, 0, 0⟩, { tCmd (tB 2 []) .resolving with tiles := [tTile] }, tTile, 0, ⟨0x0401, 2, 0, 43⟩,
    by decide +kernel⟩

theorem witness_PageWalks_3 : ∃ (s : State) (r : CmdRef) (c : Cmd) (x : Tile) (p : Nat) (q : Nat), s.cmd? r = some c ∧ c.phase = .resolving ∧
    c.tiles = [x] ∧ x.spans = [p] ∧ x.trans = [] ∧ x.fails = [] ∧ s.walkWaits r x.operand p = false ∧
    q = ((s.ctx r.ctx).ptBase + 8 * (p * 2 ^ 25 / 2 ^ 43 % 2 ^ 13)) / 2 ^ 36 :=
  ⟨tQ tCtx tQueue (1, 0) [{ tCmd (tB 2 []) .resolving with tiles := [tTile] }], ⟨3, 0, 0⟩, { tCmd (tB 2 []) .resolving with tiles := [tTile] }, tTile, 0, 0,
    by decide +kernel⟩

theorem witness_SwapsAndHangs_1 : ∃ (s : State) (c : Nat) (k : Nat), (s.ctx c).state = .active ∧ (s.ctx c).slot = none ∧ c ≠ 0 ∧
    (s.ctx c).cls = .runnable ∧ s.firstRunnable c = true ∧ (s.residents (s.ctx c).function).length < s.slotMax (s.ctx c).function ∧
    s.freeSlot = some k :=
  ⟨tQ { tCtx with slot := none, cls := .runnable } tQueue (1, 0) [], 3, 0, by decide +kernel⟩

theorem witness_SwapsAndHangs_2 : ∃ (s : State) (r : CmdRef) (c : Cmd), s.cmd? r = some c ∧ s.cmdHung c = true ∧ s.oldestReq r = none ∧ r.ctx ≠ 0 :=
  ⟨{ tQ tCtx tQueue (1, 0) [tCmd (tB 1 []) .waiting] with tick := { tS.tick with count := 12504001 } }, ⟨3, 0, 0⟩, tCmd (tB 1 []) .waiting,
    by decide +kernel⟩

theorem witness_SwapsAndHangs_3 : ∃ (s : State) (vat : Nat) (a : Nat), (s.role vat).hangAt = some a ∧ a ≤ s.tick.count :=
  ⟨{ tV tVat with roles := [(7, { VatRole.empty with hangAt := some 4096 })] }, 7, 4096, by decide +kernel⟩

theorem witness_HostCopies_1 : ∃ (s : State) (r : CmdRef) (c : Cmd), CmdDue s r 0x01 c :=
  ⟨tD (tDue 0x01 []), ⟨3, 0, 0⟩, tDue 0x01 [], by decide +kernel⟩

theorem witness_HostCopies_2 : ∃ (s : State) (r : CmdRef) (c : Cmd) (bad : ReadErrs), CmdDue s r 0x02 c ∧ readStatus bad (c.piecesAt 0) = 0 :=
  ⟨tD (tMem 0x02 []), ⟨3, 0, 0⟩, tMem 0x02 [], ⟨[], []⟩, by decide +kernel⟩

theorem witness_HostCopies_3 : ∃ (s : State) (r : CmdRef) (c : Cmd) (bad : ReadErrs) (st : Nat), CmdDue s r 0x02 c ∧
    readStatus bad (c.piecesAt 0) = st ∧ st ≠ 0 :=
  ⟨tD (tMem 0x02 []), ⟨3, 0, 0⟩, tMem 0x02 [], ⟨[0], []⟩, 0x0560, by decide +kernel⟩

theorem witness_HostCopies_4 : ∃ (s : State) (r : CmdRef) (c : Cmd), CmdDue s r 0x03 c ∧ s.hostOpen (s.ctx r.ctx).function = true :=
  ⟨tD (tMem 0x03 [(0x18, 0x1000), (0x20, 64)]), ⟨3, 0, 0⟩, tMem 0x03 [(0x18, 0x1000), (0x20, 64)], by decide +kernel⟩

theorem witness_HostCopies_5 : ∃ (s : State) (r : CmdRef) (c : Cmd) (bad : ReadErrs), CmdDue s r 0x04 c ∧ s.hostOpen (s.ctx r.ctx).function = true ∧
    readStatus bad (c.piecesAt 0) = 0 :=
  ⟨tD (tMem 0x04 [(0x18, 0x1000), (0x20, 64)]), ⟨3, 0, 0⟩, tMem 0x04 [(0x18, 0x1000), (0x20, 64)], ⟨[64], []⟩, by decide +kernel⟩

theorem witness_HostCopies_6 : ∃ (s : State) (r : CmdRef) (c : Cmd), CmdDue s r 0x07 c ∧
    s.movingIn r (field c.bytes 0x10 8) (field c.bytes 0x18 8) = false :=
  ⟨{ tD (tDue 0x07 [(0x18, 2 ^ 25)]) with xl := { Xlate.reset with cache := [(3, 0, 25, 15), (3, 2 ^ 25, 25, 15)] } }, ⟨3, 0, 0⟩, tDue 0x07 [(0x18, 2 ^ 25)],
    by decide +kernel⟩

theorem witness_SealAndOpen_1 : ∃ (s : State) (r : CmdRef) (c : Cmd) (bad : ReadErrs) (key : List Byte) (hi : Nat) (h : List Byte), CmdDue s r 0x05 c ∧
    s.hostOpen (s.ctx r.ctx).function = true ∧ ownSeal s c = 0 ∧ readStatus bad (c.piecesAt 0) = 0 ∧
    (s.slot (cmdSlot c.bytes)).sealKey c.gen = some (key, hi) ∧ c.gen = (s.slot (cmdSlot c.bytes)).gen ∧
    h = leBytes 2 0x1000 ++ [2] ++ leBytes 1 (cmdSlot c.bytes) ++ leBytes 4 c.gen ++ leBytes 8 (cmdSeq c.bytes) ++ leBytes 8 (cmdLen c.bytes) ++ zeros 8 :=
  ⟨tSeal { tMem 0x05 [(0x18, 0x8000), (0x20, 64), (0x28, 5), (0x30, 1)] with gen := 1 } [], ⟨3, 0, 0⟩, { tMem 0x05 [(0x18, 0x8000), (0x20, 64), (0x28, 5), (0x30, 1)] with gen := 1 }, ⟨[], []⟩, zeros 32, 0, leBytes 2 0x1000 ++ [2] ++ leBytes 1 5 ++ leBytes 4 1 ++ leBytes 8 1 ++ leBytes 8 64 ++ zeros 8,
    by decide +kernel⟩

theorem witness_SealAndOpen_2 : ∃ (s : State) (r : CmdRef) (c : Cmd) (p : List Byte), CmdDue s r 0x06 c ∧ s.hostOpen (s.ctx r.ctx).function = true ∧
    ownOpen s c = 0 ∧ c.staged = none ∧ s.openBuffer c = some ((s.slot (cmdSlot c.bytes)).gen, p) ∧ c.tiles.all (fun x => !x.virt) = true :=
  ⟨tSeal { tDue 0x06 [(0x18, 0x8000), (0x28, 5), (0x30, 1)] with gen := 1 } (Memory.write [] 0x8000 tSealed), ⟨3, 0, 0⟩, { tDue 0x06 [(0x18, 0x8000), (0x28, 5), (0x30, 1)] with gen := 1 }, [],
    by decide +kernel⟩

theorem witness_SealAndOpen_3 : ∃ (s : State) (r : CmdRef) (c : Cmd) (p : List Byte), CmdDue s r 0x06 c ∧ c.staged = some p :=
  ⟨tSeal { tMem 0x06 [(0x18, 0x8000), (0x20, 64), (0x28, 5), (0x30, 1)] with staged := some (zeros 64) } [], ⟨3, 0, 0⟩, { tMem 0x06 [(0x18, 0x8000), (0x20, 64), (0x28, 5), (0x30, 1)] with staged := some (zeros 64) }, zeros 64,
    by decide +kernel⟩

theorem witness_SealAndOpen_4 : ∃ (s : State) (r : CmdRef) (c : Cmd), CmdDue s r 0x06 c ∧ s.hostOpen (s.ctx r.ctx).function = true ∧
    ownOpen s c = 0 ∧ c.staged = none ∧ s.openBuffer c = none :=
  ⟨tSeal { tDue 0x06 [(0x18, 0x8000), (0x28, 5), (0x30, 1)] with gen := 1 } [], ⟨3, 0, 0⟩, { tDue 0x06 [(0x18, 0x8000), (0x28, 5), (0x30, 1)] with gen := 1 },
    by decide +kernel⟩

theorem witness_SessionCommands_1 : ∃ (s : State) (r : CmdRef) (c : Cmd) (u : Vat), CmdDue s r 0x10 c ∧ ownSessionOpen s c = 0 ∧
    s.vat? (cmdVat c.bytes) = some u ∧ (u.wk (cmdRec c.bytes)).offered = none ∧ (u.sess (cmdRec c.bytes)).biasSet = 0xFFFF :=
  ⟨tDV (tHome []) (tDue 0x10 [(8, 15), (12, 7), (0x10, 99), (0x18, 5)]), ⟨3, 0, 0⟩, tDue 0x10 [(8, 15), (12, 7), (0x10, 99), (0x18, 5)], tHome [],
    by decide +kernel⟩

theorem witness_SessionCommands_2 : ∃ (s : State) (r : CmdRef) (c : Cmd) (u : Vat), CmdDue s r 0x11 c ∧ ownSessionClose s c = 0 ∧
    s.vat? (cmdVat c.bytes) = some u ∧ (u.sess (cmdRec c.bytes)).state = .idle ∧ (u.wk (cmdRec c.bytes)).req = none ∧
    (u.wk (cmdRec c.bytes)).offered = none ∧ (u.sess (cmdRec c.bytes)).biasSet = 0xFFFF :=
  ⟨tDV (tHome [(0, tSess .idle)]) (tDue 0x11 [(12, 7)]), ⟨3, 0, 0⟩, tDue 0x11 [(12, 7)], tHome [(0, tSess .idle)], by decide +kernel⟩

theorem witness_SessionCommands_3 : ∃ (s : State) (r : CmdRef) (c : Cmd) (u : Vat), CmdDue s r 0x12 c ∧ ownSessionReset s c = 0 ∧
    s.vat? (cmdVat c.bytes) = some u ∧ (u.sess (cmdRec c.bytes)).state = .faulted :=
  ⟨tDV (tHome [(0, tSess .faulted)]) (tDue 0x12 [(12, 7)]), ⟨3, 0, 0⟩, tDue 0x12 [(12, 7)], tHome [(0, tSess .faulted)], by decide +kernel⟩

theorem witness_SessionCommands_4 : ∃ (s : State) (r : CmdRef) (c : Cmd) (u : Vat), CmdDue s r 0x13 c ∧ ownSessionCancel s c = 0 ∧
    s.vat? (cmdVat c.bytes) = some u ∧ (u.sess (cmdRec c.bytes)).state = .placed :=
  ⟨tDV (tHome [(0, tSess .placed)]) (tDue 0x13 [(12, 7)]), ⟨3, 0, 0⟩, tDue 0x13 [(12, 7)], tHome [(0, tSess .placed)], by decide +kernel⟩

theorem witness_SessionCommands_5 : ∃ (s : State) (r : CmdRef) (c : Cmd), CmdDue s r 0x14 c ∧ ownSessionQuery s c = 0 :=
  ⟨tDV (tHome [(0, tSess .placed)]) (tMem 0x14 [(12, 7)]), ⟨3, 0, 0⟩, tMem 0x14 [(12, 7)], by decide +kernel⟩

theorem witness_SessionCommands_6 : ∃ (s : State) (r : CmdRef) (c : Cmd) (u : Vat), CmdDue s r 0x15 c ∧ ownSessionSetSampling s c = 0 ∧
    s.vat? (cmdVat c.bytes) = some u :=
  ⟨tDV (tHome [(0, tSess .placed)]) (tDue 0x15 [(12, 7), (0x10, 0x3F800000), (0x14, 0x3F800000), (0x18, 0x3F000000), (0x1C, 1024), (0x20, 9)]), ⟨3, 0, 0⟩, tDue 0x15 [(12, 7), (0x10, 0x3F800000), (0x14, 0x3F800000), (0x18, 0x3F000000), (0x1C, 1024), (0x20, 9)], tHome [(0, tSess .placed)],
    by decide +kernel⟩

theorem witness_SessionCommands_7 : ∃ (s : State) (r : CmdRef) (c : Cmd) (bad : ReadErrs) (u : Vat), CmdDue s r 0x16 c ∧ ownSessionSetBias s c = 0 ∧
    s.vat? (cmdVat c.bytes) = some u ∧ field c.bytes 0x1C 2 = 0 ∧ (u.sess (cmdRec c.bytes)).biasSet ≠ 0xFFFF :=
  ⟨{ tDV (tHome [(0, { tSess .idle with biasSet := 3 })]) (tDue 0x16 [(12, 7)]) with objs := { (tD (tDue 0x16 [(12, 7)])).objs with bias := [(3, [(1, 0)])] } }, ⟨3, 0, 0⟩, tDue 0x16 [(12, 7)], ⟨[], []⟩, tHome [(0, { tSess .idle with biasSet := 3 })],
    by decide +kernel⟩

theorem witness_TreesAndRequests_1 : ∃ (s : State) (r : CmdRef) (c : Cmd) (bad : ReadErrs) (u : Vat) (k : Nat) (es : List (Nat × Word)), CmdDue s r 0x16 c ∧
    ownSessionSetBias s c = 0 ∧ s.vat? (cmdVat c.bytes) = some u ∧ field c.bytes 0x1C 2 ≠ 0 ∧ readStatus bad (c.piecesAt 0) = 0 ∧
    es = biasEntries (s.readPieces (c.piecesAt 0)) (field c.bytes 0x1C 2) ∧ biasOk es (s.vocab (cmdVat c.bytes)) = true ∧
    (u.sess (cmdRec c.bytes)).biasSet = 0xFFFF ∧ s.freeBias = some k :=
  ⟨tDV (tHome [(0, tSess .idle)]) (tDue 0x16 [(12, 7), (0x1C, 1)]), ⟨3, 0, 0⟩, tDue 0x16 [(12, 7), (0x1C, 1)], ⟨[], []⟩, tHome [(0, tSess .idle)], 0, [(0, 0)],
    by decide +kernel⟩

theorem witness_TreesAndRequests_2 : ∃ (s : State) (r : CmdRef) (c : Cmd) (bad : ReadErrs) (u : Vat) (ns : List TreeNode), CmdDue s r 0x17 c ∧
    ownSessionTree s c = 0 ∧ s.vat? (cmdVat c.bytes) = some u ∧ readStatus bad (c.piecesAt 0) = 0 ∧
    ns = treeOf (s.readPieces (c.piecesAt 0)) (field c.bytes 0x1C 1) ∧
    treeOk ns (s.vocab (cmdVat c.bytes)) (decide ((u.sess (cmdRec c.bytes)).rule = 1)) = true ∧ (u.wk (cmdRec c.bytes)).offered = none ∧
    (u.sess (cmdRec c.bytes)).state = .idle :=
  ⟨tDV (tHome [(0, { tSess .idle with spec := 2 })]) (tDue 0x17 [(12, 7), (0x1C, 1)]), ⟨3, 0, 0⟩, tDue 0x17 [(12, 7), (0x1C, 1)], ⟨[], []⟩, tHome [(0, { tSess .idle with spec := 2 })], [⟨0, 0, 0⟩],
    by decide +kernel⟩

theorem witness_TreesAndRequests_3 : ∃ (s : State) (r : CmdRef) (c : Cmd) (bad : ReadErrs) (u : Vat), CmdDue s r 0x18 c ∧ ownGenerate s c = 0 ∧
    s.vat? (cmdVat c.bytes) = some u ∧ readStatus bad (c.piecesAt 0) = 0 ∧ (field c.bytes 0x1C 4 ≠ 0 ∨ field c.bytes 0x2C 4 ≠ 0) ∧
    (tokensOf (s.readPieces (c.piecesAt 0)) (field c.bytes 0x1C 4)).all (fun k => decide (k < s.vocab (cmdVat c.bytes))) = true :=
  ⟨tDV (tHome [(0, tSess .idle)]) (tDue 0x18 [(12, 7), (0x1C, 1), (0x2C, 5)]), ⟨3, 0, 0⟩, tDue 0x18 [(12, 7), (0x1C, 1), (0x2C, 5)], ⟨[], []⟩, tHome [(0, tSess .idle)],
    by decide +kernel⟩

theorem witness_TreesAndRequests_4 : ∃ (s : State) (r : CmdRef) (c : Cmd) (bad : ReadErrs), CmdDue s r 0x18 c ∧ ownGenerate s c = 0 ∧
    readStatus bad (c.piecesAt 0) = 0 ∧
    (tokensOf (s.readPieces (c.piecesAt 0)) (field c.bytes 0x1C 4)).any (fun k => decide (s.vocab (cmdVat c.bytes) ≤ k)) = true :=
  ⟨tDV { tHome [(0, tSess .idle)] with mould := none } (tDue 0x18 [(12, 7), (0x1C, 1), (0x2C, 5)]), ⟨3, 0, 0⟩, tDue 0x18 [(12, 7), (0x1C, 1), (0x2C, 5)], ⟨[], []⟩,
    by decide +kernel⟩

theorem witness_ContextsComeAndGo_1 : ∃ (s : State) (r : CmdRef) (c : Cmd) (o : MemObj), CmdDue s r 0x20 c ∧ ownContextCreate s c = 0 ∧
    s.obj? (hIdx (field c.bytes 0x18 4)) = some o ∧ field c.bytes 0x1F 1 % 2 = 0 :=
  ⟨tO tObj (tD (tA 0x20 [(8, 5), (0x1C, 0x1000), (0x20, 0x9000), (0x28, 200), (0x2C, 10)])), ⟨0, 0, 0⟩, tA 0x20 [(8, 5), (0x18, 2 ^ 20 / 2 ^ 20 - 1), (0x1C, 0x1000), (0x20, 0x9000), (0x28, 200), (0x2C, 10)], tObj,
    by decide +kernel⟩

theorem witness_ContextsComeAndGo_2 : ∃ (s : State) (r : CmdRef) (c : Cmd), CmdDue s r 0x21 c ∧ ownContextDestroy s c = 0 ∧
    r.ctx ≠ cmdTarget c.bytes ∧ (s.ctx (cmdTarget c.bytes)).destroyer = none :=
  ⟨tD (tA 0x21 [(8, 3)]), ⟨0, 0, 0⟩, tA 0x21 [(8, 3)], by decide +kernel⟩

theorem witness_ContextsComeAndGo_3 : ∃ (s : State) (r : CmdRef) (c : Cmd), CmdDue s r 0x21 c ∧ (s.ctx (cmdTarget c.bytes)).destroyer = some r :=
  ⟨tQ { tCtx with state := .tearing, destroyer := some ⟨0, 0, 0⟩ } tQueue (1, 0) [tA 0x21 [(8, 3)]], ⟨0, 0, 0⟩, tA 0x21 [(8, 3)], by decide +kernel⟩

theorem witness_ContextsComeAndGo_4 : ∃ (s : State) (k : Nat) (r : CmdRef) (c : Cmd), s.tornDown k = true ∧ (s.ctx k).conf = false ∧
    (s.ctx k).destroyer = some r ∧ s.cmd? r = some c ∧ c.phase = .waiting :=
  ⟨{ tQ { tCtx with state := .tearing, destroyer := some ⟨0, 0, 0⟩ } tQueue (1, 0) [{ tA 0x21 [(8, 3)] with phase := .waiting }] with xl := { Xlate.reset with cache := [(3, 0, 25, 15)] } }, 3, ⟨0, 0, 0⟩, { tA 0x21 [(8, 3)] with phase := .waiting },
    by decide +kernel⟩

theorem witness_QueuesComeAndGo_1 : ∃ (s : State) (r : CmdRef) (c : Cmd), CmdDue s r 0x22 c ∧ ownQueueCreate s c = 0 :=
  ⟨tD (tA 0x22 [(8, 3), (12, 1), (0x10, 0x5000), (0x18, 0x6000), (0x20, 4), (0x21, 4), (0x22, 0xFFFF), (0x24, 2)]), ⟨0, 0, 0⟩, tA 0x22 [(8, 3), (12, 1), (0x10, 0x5000), (0x18, 0x6000), (0x20, 4), (0x21, 4), (0x22, 0xFFFF), (0x24, 2)],
    by decide +kernel⟩

theorem witness_QueuesComeAndGo_2 : ∃ (s : State) (r : CmdRef) (c : Cmd), CmdDue s r 0x23 c ∧ ownQueueDestroy s c = 0 :=
  ⟨tD (tA 0x23 [(8, 3)]), ⟨0, 0, 0⟩, tA 0x23 [(8, 3)], by decide +kernel⟩

theorem witness_ObjectsComeAndGo_1 : ∃ (s : State) (r : CmdRef) (c : Cmd) (i : Nat), CmdDue s r 0x24 c ∧ ownMemobjCreate s c = 0 ∧
    field c.bytes 0x28 1 ≠ 2 ∧ s.freeIndex = some i :=
  ⟨tD (tA 0x24 [(8, 3), (0x10, 2 ^ 25), (0x28, 1)]), ⟨0, 0, 0⟩, tA 0x24 [(8, 3), (0x10, 2 ^ 25), (0x28, 1)], 0, by decide +kernel⟩

theorem witness_ObjectsComeAndGo_2 : ∃ (s : State) (r : CmdRef) (c : Cmd) (o : MemObj), CmdDue s r 0x25 c ∧
    s.obj? (hIdx (cmdTarget c.bytes)) = some o ∧ o.freed = false :=
  ⟨tO tObj (tD (tA 0x25 [(8, 1)])), ⟨0, 0, 0⟩, tA 0x25 [(8, 1)], tObj, by decide +kernel⟩

theorem witness_ObjectsComeAndGo_3 : ∃ (s : State) (i : Nat) (o : MemObj), s.obj? i = some o ∧ o.freed = true ∧ s.referenced i = false ∧
    o.pages ≠ [] :=
  ⟨{ tO { tObj with freed := true } tS with mem := { MemTier.reset with frames := [(0, .object 0)] } }, 0, { tObj with freed := true },
    by decide +kernel⟩

theorem witness_CaveCommands_1 : ∃ (s : State) (r : CmdRef) (c : Cmd), CmdDue s r 0x26 c ∧ ownCaveAccept s c = 0 :=
  ⟨tOffer .offered (tA 0x26 [(8, 5)]), ⟨0, 0, 0⟩, tA 0x26 [(8, 5)], by decide +kernel⟩

theorem witness_CaveCommands_2 : ∃ (s : State) (r : CmdRef) (c : Cmd), CmdDue s r 0x27 c ∧ ownCaveRelease s c = 0 ∧
    (s.extent (cmdTarget c.bytes)).state = .active :=
  ⟨tOffer .active (tA 0x27 [(8, 5)]), ⟨0, 0, 0⟩, tA 0x27 [(8, 5)], by decide +kernel⟩

theorem witness_CaveCommands_3 : ∃ (s : State) (r : CmdRef) (c : Cmd), CmdDue s r 0x27 c ∧ (s.extent (cmdTarget c.bytes)).state = .offered :=
  ⟨tOffer .offered (tA 0x27 [(8, 5)]), ⟨0, 0, 0⟩, tA 0x27 [(8, 5)], by decide +kernel⟩

theorem witness_VatsAreDefined_1 : ∃ (s : State) (r : CmdRef) (c : Cmd), CmdDue s r 0x30 c ∧ s.hostOpen 0 = true ∧ ownVatDefine s c = 0 ∧
    s.vat? (cmdVatId c.bytes) = none :=
  ⟨{ tD (tA 0x30 [(8, 7), (0x10, 0x8000), (0x18, 1)]) with host := Memory.write [] 0x8000 tDescBytes }, ⟨0, 0, 0⟩, tA 0x30 [(8, 7), (0x10, 0x8000), (0x18, 1)],
    by decide +kernel⟩

theorem witness_VatsAreDefined_2 : ∃ (s : State) (r : CmdRef) (c : Cmd) (u : Vat) (m : Mould) (s' : State) (p : SessParams), CmdDue s r 0x34 c ∧
    ownSessionsConfigure s c = 0 ∧ s.vat? (cmdVatId c.bytes) = some u ∧ u.desc.vatId = cmdVatId c.bytes ∧ u.mould = some m ∧ u.desc.packages = 1 ∧
    geometryOk m u.lpkg 1 (field c.bytes 0x10 4) (field c.bytes 0x14 4) (field c.bytes 0x18 4) (field c.bytes 0x1C 2) (field c.bytes 0x1E 2) = true ∧
    u.allFree = true ∧
    p = ⟨field c.bytes 0x10 4, field c.bytes 0x1C 2, field c.bytes 0x14 4, field c.bytes 0x18 4, field c.bytes 0x1E 2, kvBlocks m u.lpkg, field c.bytes 0x18 4, kvCaves m u.lpkg⟩ ∧
    s.giveParams (cmdVatId c.bytes) p = some s' :=
  ⟨tDV (tVone .bound) (tA 0x34 [(8, 7), (0x10, 16), (0x14, 256), (0x18, 4), (0x1C, 16)]), ⟨0, 0, 0⟩, tA 0x34 [(8, 7), (0x10, 16), (0x14, 256), (0x18, 4), (0x1C, 16)], tVone .bound, tMould1, ((tDV (tVone .bound) (tA 0x34 [(8, 7), (0x10, 16), (0x14, 256), (0x18, 4), (0x1C, 16)])).giveParams 7 ⟨16, 16, 256, 4, 0, 0, 4, 0⟩).getD State.reset, ⟨16, 16, 256, 4, 0, 0, 4, 0⟩,
    by decide +kernel, by decide +kernel, by decide +kernel, rfl, by decide +kernel, by decide +kernel, by decide +kernel, rfl, by decide +kernel,
    by (apply someGet; decide +kernel)⟩

theorem witness_MouldsAreVerified_1 : ∃ (s : State) (r : CmdRef) (c : Cmd) (sig : Bool) (met : LoadMet) (u : Vat) (o : MemObj) (m : Mould) (bs : List Byte), met.bad = ReadErrs.none ∧
    CmdDue s r 0x31 c ∧ ownMouldLoad s c = 0 ∧ s.vat? (cmdVatId c.bytes) = some u ∧ u.desc.vatId = cmdVatId c.bytes ∧
    s.obj? (hIdx (field c.bytes 0x18 4)) = some o ∧ bs = s.container o (field c.bytes 0x10 8) ∧ u.state ≠ .defined ∧ u.mould = some m ∧
    field bs 0x18 1 = 1 ∧ s.hostOpen 0 = true ∧
    checkMoulds s.torus bs (o.size - field c.bytes 0x10 8) (u.readsFor m) (s.signersOf (cmdVatId c.bytes)) sig (some (m, u.chain)) met.fails = none :=
  ⟨{ tO tObj (tDV { tVat with role := .standby } (tA 0x31 [(8, 7), (0x20, 0x8000)])) with mem := MemTier.reset.write [] 0 (zeros 24 ++ [1]) }, ⟨0, 0, 0⟩, tA 0x31 [(8, 7), (0x20, 0x8000)], true, ⟨[], .none⟩, { tVat with role := .standby }, tObj, tMould, zeros 24 ++ [1] ++ zeros 103,
    by decide +kernel⟩

theorem witness_MouldsAreVerified_2 : ∃ (s : State) (r : CmdRef) (c : Cmd) (sig : Bool) (met : LoadMet) (u : Vat) (o : MemObj) (bs : List Byte) (f : MouldFail), met.bad = ReadErrs.none ∧
    CmdDue s r 0x31 c ∧ s.hostOpen 0 = true ∧ ownMouldLoad s c = 0 ∧ s.vat? (cmdVatId c.bytes) = some u ∧ u.desc.vatId = cmdVatId c.bytes ∧
    s.obj? (hIdx (field c.bytes 0x18 4)) = some o ∧ bs = s.container o (field c.bytes 0x10 8) ∧ u.state = .defined ∧ field bs 0x18 1 ≠ 1 ∧
    checkMoulds s.torus bs (o.size - field c.bytes 0x10 8) (u.readsFor (mouldOf bs fun e => decide (e.typ = secVat))) (s.signersOf (cmdVatId c.bytes)) sig none met.fails = some f :=
  ⟨tO tObj (tDV { tVat with state := .defined } (tA 0x31 [(8, 7), (0x20, 0x8000)])), ⟨0, 0, 0⟩, tA 0x31 [(8, 7), (0x20, 0x8000)], true, ⟨[], .none⟩, { tVat with state := .defined }, tObj, zeros 128, (checkMoulds tS.torus (zeros 128) (2 ^ 25) [0] [] true none []).getD { status := 0, sec := 0 },
    by decide +kernel, by decide +kernel, by decide +kernel, rfl, by decide +kernel, by decide +kernel, by decide +kernel, rfl, by decide +kernel,
    by decide +kernel, by (apply someGet; decide +kernel)⟩

theorem witness_MouldsAreVerified_3 : ∃ (s : State) (r : CmdRef) (c : Cmd) (sig : Bool) (met : LoadMet) (u : Vat) (o : MemObj) (bs : List Byte) (st : Nat), CmdDue s r 0x31 c ∧
    s.hostOpen 0 = true ∧ ownMouldLoad s c = 0 ∧ s.vat? (cmdVatId c.bytes) = some u ∧ u.state = .defined ∧
    s.obj? (hIdx (field c.bytes 0x18 4)) = some o ∧ bs = s.container o (field c.bytes 0x10 8) ∧
    readStatus met.bad (o.piecesOf (field c.bytes 0x10 8) (min 128 (o.size - field c.bytes 0x10 8))) = st ∧ st ≠ 0 :=
  ⟨tO tObj (tDV { tVat with state := .defined } (tA 0x31 [(8, 7), (0x20, 0x8000)])), ⟨0, 0, 0⟩, tA 0x31 [(8, 7), (0x20, 0x8000)], true, ⟨[], ⟨[0], []⟩⟩, { tVat with state := .defined }, tObj, zeros 128, 0x0560,
    by decide +kernel⟩

theorem witness_VatsAreBound_1 : ∃ (s : State) (s' : State) (r : CmdRef) (c : Cmd) (u : Vat) (m : Mould) (ps : SMap Placement), CmdDue s r 0x32 c ∧
    ownBindReserve s c = 0 ∧ s.vat? (cmdVatId c.bytes) = some u ∧ u.desc.vatId = cmdVatId c.bytes ∧ u.mould = some m ∧ s.bindStatus u m = 0 ∧
    State.reserveAll (cmdVatId c.bytes) m (u.reserveList m) s [] = (0, s', ps) ∧ field c.bytes 0x10 2 % 4096 = 0 ∧ u.role = .member :=
  ⟨tDV (tVone .defined) (tA 0x32 [(8, 7)]), (State.reserveAll (cmdVatId (tA 0x32 [(8, 7)]).bytes) tMould1 ((tVone .defined).reserveList tMould1) (tDV (tVone .defined) (tA 0x32 [(8, 7)])) []).2.1, ⟨0, 0, 0⟩, tA 0x32 [(8, 7)], tVone .defined, tMould1, (State.reserveAll (cmdVatId (tA 0x32 [(8, 7)]).bytes) tMould1 ((tVone .defined).reserveList tMould1) (tDV (tVone .defined) (tA 0x32 [(8, 7)])) []).2.2,
    by decide +kernel, by decide +kernel, by decide +kernel, by decide +kernel, by decide +kernel, by decide +kernel,
    by exact @tripleEta _ _ (State.reserveAll (cmdVatId (tA 0x32 [(8, 7)]).bytes) tMould1 ((tVone .defined).reserveList tMould1) (tDV (tVone .defined) (tA 0x32 [(8, 7)])) []) (by decide +kernel),
    by decide +kernel⟩

theorem witness_VatsAreBound_2 : ∃ (s : State) (r : CmdRef) (c : Cmd) (u : Vat) (m : Mould), CmdDue s r 0x32 c ∧ ownBindReserve s c = 0 ∧
    s.vat? (cmdVatId c.bytes) = some u ∧ u.mould = some m ∧ m.measure ≠ u.desc.measure :=
  ⟨tDV { tVat with state := .defined } (tA 0x32 [(8, 7)]), ⟨0, 0, 0⟩, tA 0x32 [(8, 7)], { tVat with state := .defined }, tMould, by decide +kernel⟩

theorem witness_VatsAreBound_3 : ∃ (s : State) (r : CmdRef) (c : Cmd) (u : Vat) (m : Mould) (o : MemObj) (bs : List Byte), CmdDue s r 0x33 c ∧
    ownBindComplete s c = 0 ∧ s.vat? (cmdVatId c.bytes) = some u ∧ u.desc.vatId = cmdVatId c.bytes ∧ u.mould = some m ∧ s.regionsHeld c = false ∧
    u.regionObj = [] ∧ s.obj? (hIdx (field c.bytes 0x18 4)) = some o ∧ bs = s.container o (field c.bytes 0x10 8) ∧ mouldMeasure bs = m.measure ∧
    (u.readsFor m).all (fun l => (checkDigests s.torus bs none l).isNone) = true ∧ u.role = .member ∧ s.checkTensors u m u.lpkg u.place = none ∧
    u.reserves = [] ∧ u.place.clusters.all (fun k => decide ((s.retiredIn k).length < 2)) = true :=
  ⟨tO tObj (tDV { tVone .reserved with mould := some { tMould1 with measure := mouldMeasure (zeros 128) } } (tA 0x33 [(8, 7)])), ⟨0, 0, 0⟩, tA 0x33 [(8, 7)], { tVone .reserved with mould := some { tMould1 with measure := mouldMeasure (zeros 128) } }, { tMould1 with measure := mouldMeasure (zeros 128) }, tObj, zeros 128,
    by decide +kernel⟩

theorem witness_VatsAreBound_4 : ∃ (s : State) (r : CmdRef) (c : Cmd) (u : Vat) (m : Mould) (o : MemObj), CmdDue s r 0x33 c ∧
    ownBindComplete s c = 0 ∧ s.vat? (cmdVatId c.bytes) = some u ∧ u.desc.vatId = cmdVatId c.bytes ∧ u.mould = some m ∧ s.regionsHeld c = false ∧
    u.regionObj = [] ∧ s.obj? (hIdx (field c.bytes 0x18 4)) = some o ∧ mouldMeasure (s.container o (field c.bytes 0x10 8)) ≠ m.measure :=
  ⟨tO tObj (tDV (tVone .reserved) (tA 0x33 [(8, 7)])), ⟨0, 0, 0⟩, tA 0x33 [(8, 7)], tVone .reserved, tMould1, tObj, by decide +kernel⟩

theorem witness_StartAndHalt_1 : ∃ (s : State) (r : CmdRef) (c : Cmd) (u : Vat) (m : Mould), CmdDue s r 0x35 c ∧ ownVatStart s c = 0 ∧
    s.vat? (cmdVatId c.bytes) = some u ∧ u.desc.vatId = cmdVatId c.bytes ∧ u.mould = some m ∧ gearOk m s.tick.gear = true ∧
    gearOk m s.tick.armed = true ∧ (s.role (cmdVatId c.bytes)).started = none :=
  ⟨tDV { tVat with state := .bound } (tA 0x35 [(8, 7)]), ⟨0, 0, 0⟩, tA 0x35 [(8, 7)], { tVat with state := .bound }, tMould, by decide +kernel⟩

theorem witness_StartAndHalt_2 : ∃ (s : State) (r : CmdRef) (c : Cmd) (u : Vat) (b : Nat), CmdDue s r 0x36 c ∧ ownVatHalt s c = 0 ∧
    s.vat? (cmdVatId c.bytes) = some u ∧ u.desc.vatId = cmdVatId c.bytes ∧ u.state = .running ∧ s.nextBoundary u = b ∧
    (s.tick.count < b ∨ u.step.isSome = true) ∧ (s.role (cmdVatId c.bytes)).haltAt = none :=
  ⟨tDV tVrun (tA 0x36 [(8, 7)]), ⟨0, 0, 0⟩, tA 0x36 [(8, 7)], tVrun, (tDV tVrun (tA 0x36 [(8, 7)])).nextBoundary tVrun, by decide +kernel⟩

theorem witness_StartAndHalt_3 : ∃ (s : State) (r : CmdRef) (c : Cmd) (u : Vat), CmdDue s r 0x36 c ∧ ownVatHalt s c = 0 ∧
    s.vat? (cmdVatId c.bytes) = some u ∧ u.state = .halted :=
  ⟨tDV { tVat with state := .halted } (tA 0x36 [(8, 7)]), ⟨0, 0, 0⟩, tA 0x36 [(8, 7)], { tVat with state := .halted }, by decide +kernel⟩

theorem witness_StartAndHalt_4 : ∃ (s : State) (r : CmdRef) (vat : Nat) (b : Nat) (u : Vat), s.vat? vat = some u ∧ u.role = .member ∧
    u.lpkg ≠ u.headLpkg ∧ u.state = .running ∧ (s.tick.count < b ∨ u.step.isSome = true) ∧ (s.role vat).haltAt = none :=
  ⟨tV tVat1, ⟨0, 0, 0⟩, 7, 4097, tVat1, by decide +kernel⟩

theorem witness_StartAndHalt_5 : ∃ (s : State) (r : CmdRef) (vat : Nat) (u : Vat), s.vat? vat = some u ∧ u.state = .halted ∧
    (s.role vat).haltCmds ≠ [] :=
  ⟨{ tDV { tVat with state := .halted } { tA 0x36 [(8, 7)] with phase := .waiting } with roles := [(7, { VatRole.empty with haltCmds := [⟨0, 0, 0⟩] })] }, ⟨0, 0, 0⟩, 7, { tVat with state := .halted },
    by decide +kernel⟩

theorem witness_UnbindAndRemould_1 : ∃ (s : State) (r : CmdRef) (c : Cmd) (u : Vat), CmdDue s r 0x37 c ∧ ownVatUnbind s c = 0 ∧
    s.vat? (cmdVatId c.bytes) = some u ∧ u.state = .defined ∧ (s.role (cmdVatId c.bytes)).unbind = [] :=
  ⟨tDV { tVat with state := .defined } (tA 0x37 [(8, 7)]), ⟨0, 0, 0⟩, tA 0x37 [(8, 7)], { tVat with state := .defined }, by decide +kernel⟩

theorem witness_UnbindAndRemould_2 : ∃ (s : State) (r : CmdRef) (c : Cmd) (u : Vat), CmdDue s r 0x37 c ∧ ownVatUnbind s c = 0 ∧
    s.vat? (cmdVatId c.bytes) = some u ∧ u.desc.vatId = cmdVatId c.bytes ∧ u.state = .running ∧ (s.role (cmdVatId c.bytes)).remould = none ∧
    (s.role (cmdVatId c.bytes)).staged = none ∧ u.moves = [] ∧ (s.role (cmdVatId c.bytes)).haltAt = none ∧ u.step.isSome = true :=
  ⟨tDV tVrun (tA 0x37 [(8, 7)]), ⟨0, 0, 0⟩, tA 0x37 [(8, 7)], tVrun, by decide +kernel⟩

theorem witness_UnbindAndRemould_3 : ∃ (s : State) (r : CmdRef) (vat : Nat), (s.role vat).unbind ≠ [] ∧ (s.role vat).unbound = false :=
  ⟨{ tD { tA 0x37 [(8, 7)] with phase := .waiting } with roles := [(7, { VatRole.empty with unbind := [⟨0, 0, 0⟩] })] }, ⟨0, 0, 0⟩, 7,
    by decide +kernel⟩

theorem witness_UnbindAndRemould_4 : ∃ (s : State) (r : CmdRef) (x : Bool) (y : Bool) (c : Cmd) (u : Vat) (m : Mould), CmdDue s r 0x38 c ∧
    ownVatRemould s c = 0 ∧ s.vat? (cmdVatId c.bytes) = some u ∧ u.desc.vatId = cmdVatId c.bytes ∧ u.mould = some m ∧ field c.bytes 0x10 1 = 2 ∧
    field c.bytes 0x12 2 ∈ s.usableMoves u :=
  ⟨tDV tSpared (tA 0x38 [(8, 7), (0x10, 2), (0x12, 1)]), ⟨0, 0, 0⟩, false, false, tA 0x38 [(8, 7), (0x10, 2), (0x12, 1)], tSpared, tMould,
    by decide +kernel⟩

theorem witness_UnbindAndRemould_5 : ∃ (s : State) (r : CmdRef) (x : Bool) (y : Bool) (c : Cmd) (u : Vat) (m : Mould), CmdDue s r 0x38 c ∧
    ownVatRemould s c = 0 ∧ s.vat? (cmdVatId c.bytes) = some u ∧ u.mould = some m ∧ field c.bytes 0x10 1 = 2 ∧
    field c.bytes 0x12 2 ∉ s.usableMoves u :=
  ⟨tDV tSpared (tA 0x38 [(8, 7), (0x10, 2), (0x12, 2)]), ⟨0, 0, 0⟩, false, false, tA 0x38 [(8, 7), (0x10, 2), (0x12, 2)], tSpared, tMould,
    by decide +kernel⟩

theorem witness_QueryAndMetering_1 : ∃ (s : State) (r : CmdRef) (c : Cmd) (u : Vat), CmdDue s r 0x39 c ∧ ownVatQuery s c = 0 ∧
    s.vat? (cmdVatId c.bytes) = some u :=
  ⟨tDV tVrun (tA 0x39 [(8, 7), (0x10, 0x8000)]), ⟨0, 0, 0⟩, tA 0x39 [(8, 7), (0x10, 0x8000)], tVrun, by decide +kernel⟩

theorem witness_QueryAndMetering_2 : ∃ (s : State) (vat : Nat) (u : Vat), s.vat? vat = some u ∧ 1 ≤ u.comp ∧ u.state ≠ .washing ∧
    u.meter.first + 16777216 ≤ s.tick.count ∧ s.meterFits = true ∧ s.senior = 0 ∧ s.jReach 0 = true :=
  ⟨tAt { tVat with comp := 1 } (2 ^ 25), 7, { tVat with comp := 1 }, by decide +kernel⟩

theorem witness_QueryAndMetering_3 : ∃ (s : State) (r : CmdRef) (c : Cmd), CmdDue s r 0x3A c ∧ s.hostOpen 0 = true :=
  ⟨tD (tA 0x3A [(0x10, 1), (0x14, 2), (0x18, 0x8000)]), ⟨0, 0, 0⟩, tA 0x3A [(0x10, 1), (0x14, 2), (0x18, 0x8000)], by decide +kernel⟩

theorem witness_QueryAndMetering_4 : ∃ (s : State) (r : CmdRef) (c : Cmd), CmdDue s r 0x3B c ∧ s.senior = 0 ∧ s.jReach 0 = true :=
  ⟨tD (tA 0x3B [(0x10, 1)]), ⟨0, 0, 0⟩, tA 0x3B [(0x10, 1)], by decide +kernel⟩

theorem witness_ArbitersAndCommits_1 : ∃ (s : State) (a : Nat) (q : ArbReq), a < 522 ∧ s.arbFenced a = false ∧ s.arbRefreshes a = false ∧
    (s.arb a).decide? s.qos.active.prio = some q ∧ ((∃ k, q.work = .command k) ∨ q.work = .traffic) ∧ (s.arb a).holder = none ∧
    (∀ e ∈ s.qos.arbs, ∀ y ∈ e.2.queue, y.held = 0) :=
  ⟨{ tArb QosCfg.reset with mem := { MemTier.reset with refresh := [(3, (3840, 256, 1000))] } }, 3, tReq, by decide +kernel, by decide +kernel,
    by decide +kernel, by decide +kernel, by exact .inr rfl, by decide +kernel,
    by (show ∀ e ∈ ([(3, ⟨[tReq], none, 0, []⟩)] : List (Nat × Arbiter)), ∀ y ∈ e.2.queue, y.held = 0; simp [tReq])⟩

theorem witness_ArbitersAndCommits_2 : ∃ (s : State) (a : Nat) (q : ArbReq) (y : ArbReq) (k : CmdRef), a < 522 ∧ s.arbFenced a = false ∧
    s.arbRefreshes a = false ∧ (s.arb a).decide? s.qos.active.prio = some q ∧ ((∃ k, q.work = .command k) ∨ q.work = .traffic) ∧
    (s.arb a).revoked q = some y ∧ y.ref = some k ∧ (s.ctx k.ctx).conf = false :=
  ⟨{ tS with qos := { Qos.reset with arbs := [(520, ⟨[tReq, { tReq with stream := 6, cls := 0, work := .command ⟨3, 0, 0⟩, here := [(4001, 1)] }], some (6, 2), 0, []⟩)] } }, 520, tReq, { tReq with stream := 6, cls := 0, work := .command ⟨3, 0, 0⟩, here := [(4001, 1)] }, ⟨3, 0, 0⟩,
    by decide +kernel, by decide +kernel, by decide +kernel, by decide +kernel, by exact .inr rfl, by decide +kernel⟩

theorem witness_ArbitersAndCommits_3 : ∃ (s : State) (a : Nat), s.arbRefreshes a = true :=
  ⟨{ tArb QosCfg.reset with mem := { MemTier.reset with refresh := [(3, (3840, 256, 4096))] } }, 3, by decide +kernel⟩

theorem witness_ArbitersAndCommits_4 : ∃ (s : State) (a : Nat) (cls : Nat) (q : ArbReq), (s.arb a).queue = [q] ∧ q.cls = cls ∧
    q.pastLimit s.tick.count (nth 0 s.qos.active.waitLimit cls) = true ∧ mapFind s.qos.arbs a = some (s.arb a) ∧ q.stream < s.qos.streams :=
  ⟨{ tArb { QosCfg.reset with waitLimit := [9, 9, 9, 9, 9, 9] } with qos := { Qos.reset with streams := 6, arbs := [(3, ⟨[tReq], none, 0, []⟩)], active := { QosCfg.reset with waitLimit := [9, 9, 9, 9, 9, 9] } } }, 3, 1, tReq,
    by decide +kernel⟩

theorem witness_ArbitersAndCommits_5 : ∃ (s : State) (v : Nat), HostServed s ∧ v % 2 = 1 ∧ ((∀ k, k < 3 → congBad s.qos.shadow k = false)) ∧
    s.qos.shadow.congHi.length = 3 ∧ s.qos.shadow.congLo.length = 3 :=
  ⟨tS, 1, by decide +kernel⟩

theorem witness_ArbitersAndCommits_6 : ∃ (s : State) (f : Nat) (v : Nat), HostServed s ∧ f < 64 ∧ f ≠ 0 ∧ v % 2 = 1 ∧
    s.funcRefused f (mapGet FuncCfg.zero s.qos.funcShad f) = false :=
  ⟨tS, 1, 1, by decide +kernel⟩

theorem witness_ArbitersAndCommits_7 : ∃ (s : State) (f : Nat) (v : Nat), HostServed s ∧ f < 64 ∧ f ≠ 0 ∧ v % 2 = 1 ∧
    s.funcRefused f (mapGet FuncCfg.zero s.qos.funcShad f) = true :=
  ⟨{ tS with qos := { Qos.reset with funcShad := [(1, { FuncCfg.zero with classMax := 6 })] } }, 1, 1, by decide +kernel⟩

theorem witness_HigherEpochStaysSenior_1 : ∃ (s : State) (k : Nat) (epoch : Nat) (seq : Nat) (bridge : Nat), k < 2 ∧ (s.cplx k).state = .senior ∧
    s.bridgesUp.contains bridge = true ∧ ((s.cplx k).epoch < epoch ∨ ((s.cplx k).epoch = epoch ∧ k = 1)) :=
  ⟨tCc tSen tJun .active, 0, 4, 1, 0, by decide +kernel⟩

theorem witness_HigherEpochStaysSenior_2 : ∃ (s : State) (k : Nat) (epoch : Nat) (seq : Nat) (bridge : Nat), k < 2 ∧ (s.cplx k).state = .senior ∧
    s.bridgesUp.contains bridge = true ∧ (epoch < (s.cplx k).epoch ∨ ((s.cplx k).epoch = epoch ∧ k = 0)) :=
  ⟨tCc tSen tSen .active, 0, 3, 1, 1, by decide +kernel⟩

theorem witness_WatchdogStopsComplex_1 : ∃ (s : State) (k : Nat) (v : Nat), k < 2 ∧ (s.cplx k).runs = true ∧ v < 2 ^ 32 :=
  ⟨tCc tSen tJun .active, 0, 5, by decide +kernel⟩

theorem witness_WatchdogStopsComplex_2 : ∃ (s : State) (k : Nat), k < 2 ∧ (s.cplx k).serves = true ∧ (s.cplx k).wdTick + 1250 ≤ s.tick.count :=
  ⟨tCc tSen { tJun with wdTick := 2846 } .active, 1, by decide +kernel⟩

theorem witness_WatchdogStopsComplex_3 : ∃ (s : State) (k : Nat), k < 2 ∧ (s.cplx k).runs = true ∧ s.tick.count < (s.cplx k).wdTick + 1250 :=
  ⟨tCc tSen { tJun with wdTick := 2847 } .active, 1, by decide +kernel⟩

theorem witness_LossAndTakeover_1 : ∃ (s : State) (k : Nat) (cause : Nat), k < 2 ∧ (s.cplx k).runs = true ∧ 1 ≤ cause ∧ cause ≤ 3 :=
  ⟨tCc tSen tJun .active, 0, 1, by decide +kernel⟩

theorem witness_LossAndTakeover_2 : ∃ (s : State) (k : Nat) (v : Nat), k < 2 ∧ (s.cplx k).runs = true ∧ bit v 1 = true :=
  ⟨tCc tSen tJun .active, 1, 2, by decide +kernel⟩

theorem witness_LossAndTakeover_3 : ∃ (s : State) (k : Nat), k < 2 ∧ (s.cplx k).serves = true ∧ (s.cplx k).hbSent + 16 ≤ s.tick.count ∧
    s.cc.bridge0 = true ∧ s.cc.bridge1 = true :=
  ⟨tCc tSen tJun .active, 0, by decide +kernel⟩

theorem witness_LossAndTakeover_4 : ∃ (s : State) (k : Nat), k < 2 ∧ (s.cplx k).state = .junior ∧ (s.cplx k).split = false ∧
    (s.cplx k).peerGone = false ∧ s.bridgesUp ≠ [] ∧ s.peerDead k = true ∧ (s.cplx (1 - k)).hadSenior = true :=
  ⟨{ tCc { tSen with state := .lost, alive := false, lowFrom := some 4094, hadSenior := true } tJun .active with objs := (tD (tA 0x37 [(8, 7)])).objs }, 1,
    by decide +kernel⟩

theorem witness_LossAndTakeover_5 : ∃ (s : State) (k : Nat), k < 2 ∧ (s.cplx k).taking.isSome = true :=
  ⟨tCc { tSen with state := .lost } { tSen with taking := some 4000 } .active, 1, by decide +kernel⟩

theorem witness_SplitFence_1 : ∃ (s : State), s.cc.bridge0 = true ∧ s.cc.bridge1 = false ∧ (s.cplx 0).serves = true ∧ (s.cplx 0).split = false ∧
    (s.cplx 1).serves = true ∧ (s.cplx 1).split = false ∧ (s.cplx 0).otherOut = false ∧ (s.cplx 1).otherOut = false :=
  ⟨{ tCc tSen tJun .active with cc := { (tCc tSen tJun .active).cc with bridge1 := false } }, by decide +kernel⟩

theorem witness_SplitFence_2 : ∃ (s : State) (k : Nat), k < 2 ∧ s.bridgesUp ≠ [] ∧ s.peerDead k = false ∧ s.beatsGone k = true ∧
    (s.cplx k).serves = true ∧ (s.cplx k).split = false :=
  ⟨tCc tSen tJun .active, 1, by decide +kernel⟩

theorem witness_SplitFence_3 : ∃ (s : State) (k : Nat), HostServed s ∧ k < 2 ∧ s.groupHidden k = false ∧ (s.cplx k).split = true ∧
    (s.cplx k).state = .senior :=
  ⟨tCc { tSen with split := true } tJun .fenced, 0, by decide +kernel⟩

theorem witness_SplitFence_4 : ∃ (s : State) (k : Nat), HostServed s ∧ k < 2 ∧ s.groupHidden k = false ∧ s.mayRejoin k = true :=
  ⟨tCc { tSen with split := true, heard := [(0, 4090), (1, 4090)], hbSince := some 2846 } { tJun with split := true } .fenced, 0, by decide +kernel⟩

theorem witness_SplitFence_5 : ∃ (s : State) (k : Nat), HostServed s ∧ k < 2 ∧ s.groupHidden k = false ∧ (s.cplx k).split = true :=
  ⟨tCc { tSen with split := true } tJun .fenced, 0, by decide +kernel⟩

theorem witness_SplitFence_6 : ∃ (s : State) (k : Nat) (v : Nat), HostServed s ∧ k < 2 ∧ v % 2 = 1 ∧ s.groupHidden k = false ∧
    s.mayRestart k = true :=
  ⟨tCc tSen { tJun with state := .lost } .active, 0, 1, by decide +kernel⟩

theorem witness_SplitFence_7 : ∃ (s : State) (k : Nat) (v : Nat), HostServed s ∧ k < 2 ∧ v % 2 = 1 ∧ s.mayRestart k = false :=
  ⟨tCc tSen tJun .active, 0, 1, by decide +kernel⟩

theorem witness_SplitFence_8 : ∃ (s : State) (k : Nat) (v : Nat) (c : Instr), HostServed s ∧ s.groupHidden k = true ∧
    c ∈ [.splitResume k, .splitRejoin k, .splitDeviceReset k, .peerRestart k v] :=
  ⟨tCc { tSen with split := true } tJun .fenced, 1, 1, .splitRejoin 1, by decide +kernel⟩

theorem witness_CoherentAccesses_1 : ∃ (s : State) (k : Nat) (h : Nat) (l : Nat) (cy : Nat) (f : Nat), s.lineOk k l = true ∧ h < 16 ∧
    (s.cplx k).cacheFull h = false ∧ ((s.cplx k).line l).copies = [] ∧ ((s.cplx k).line l).free = f ∧ (s.cplx k).waiters = [] :=
  ⟨tLines ⟨[], some 7, 90⟩ [], 0, 3, 5, 100, 90, by decide +kernel⟩

theorem witness_CoherentAccesses_2 : ∃ (s : State) (k : Nat) (h : Nat) (g : Nat) (l : Nat) (cy : Nat) (d : Nat) (e : Nat) (f : Nat), s.lineOk k l = true ∧
    h < 16 ∧ (s.cplx k).cacheFull h = false ∧ g ≠ h ∧ ((s.cplx k).line l).copies = [⟨g, .dirty, d, e⟩] ∧ ((s.cplx k).line l).free = f ∧ e ≤ cy ∧
    (s.cplx k).waiters = [] :=
  ⟨tLines ⟨[⟨1, .dirty, 9, 100⟩], some 7, 90⟩ [], 0, 3, 1, 5, 100, 9, 100, 90, by decide +kernel⟩

theorem witness_CoherentAccesses_3 : ∃ (s : State) (k : Nat) (h : Nat) (l : Nat) (data : Nat) (cy : Nat), s.lineOk k l = true ∧ h < 16 ∧
    (s.cplx k).cacheFull h = false ∧ (((s.cplx k).line l).copies.all (fun c => decide (c.state = .shared ∨ c.state = .forward)) = true) ∧
    (s.cplx k).waiters = [] ∧ data < 2 ^ 512 :=
  ⟨tLines ⟨[⟨1, .shared, 9, 0⟩, ⟨2, .forward, 9, 0⟩], some 7, 90⟩ [], 0, 1, 5, 11, 100, by decide +kernel⟩

theorem witness_CoherentAccesses_4 : ∃ (s : State) (k : Nat) (h : Nat) (l : Nat) (cy : Nat), s.lineOk k l = true ∧ h < 16 ∧
    (s.cplx k).cacheFull h = false ∧ (((s.cplx k).line l).copies.all (fun c => decide (c.state = .shared ∨ c.state = .forward)) = true) ∧
    (s.cplx k).waiters = [] :=
  ⟨tLines ⟨[⟨1, .shared, 9, 0⟩, ⟨2, .forward, 9, 0⟩], some 7, 90⟩ [], 0, 1, 5, 100, by decide +kernel⟩

theorem witness_CoherentAccesses_5 : ∃ (s : State) (k : Nat) (h : Nat) (l : Nat) (data : Nat) (d : Nat) (e : Nat), s.lineOk k l = true ∧
    ((s.cplx k).line l).copies = [⟨h, .exclusive, d, e⟩] ∧ data < 2 ^ 512 :=
  ⟨tLines ⟨[⟨1, .exclusive, 9, 120⟩], some 7, 90⟩ [], 0, 1, 5, 11, 9, 120, by decide +kernel⟩

theorem witness_CoherentAccesses_6 : ∃ (s : State) (k : Nat) (h : Nat) (l : Nat) (cy : Nat) (d : Nat) (e : Nat), s.lineOk k l = true ∧
    ((s.cplx k).line l).copies = [⟨h, .dirty, d, e⟩] ∧ e ≤ cy :=
  ⟨tLines ⟨[⟨1, .dirty, 9, 100⟩], some 7, 90⟩ [], 0, 1, 5, 100, 9, 100, by decide +kernel⟩

theorem witness_CoherentAccesses_7 : ∃ (s : State) (k : Nat) (a : Nat) (h : Nat) (l : Nat) (data : Nat) (cy : Nat), s.lineOk k l = true ∧ 16 ≤ a ∧
    a < 20 ∧ h < 16 ∧ ((s.cplx k).line l).kept cy = false ∧ (s.cplx k).waiters = [] ∧ data < 2 ^ 512 :=
  ⟨tLines ⟨[⟨1, .dirty, 9, 100⟩], some 7, 90⟩ [], 0, 16, 4, 5, 11, 100, by decide +kernel⟩

theorem witness_CoherentAccesses_8 : ∃ (s : State) (k : Nat) (a : Nat) (l : Nat) (mask : Nat) (data : Nat) (cy : Nat) (d : Nat) (f : Nat), s.lineOk k l = true ∧
    16 ≤ a ∧ a < 20 ∧ (s.cplx k).line l = ⟨[], some d, f⟩ ∧ (s.cplx k).waiters = [] ∧ data < 2 ^ 512 :=
  ⟨tLines ⟨[], some 7, 90⟩ [], 0, 16, 5, 1, 11, 100, 7, 90, by decide +kernel⟩

theorem witness_CoherentAccesses_9 : ∃ (s : State) (k : Nat) (h : Nat) (l : Nat) (data : Nat) (cy : Nat) (at' : Nat), s.lineOk k l = true ∧
    ((s.cplx k).line l).kept cy = false ∧ (s.cplx k).waiters = [⟨l, h, at', .own data⟩] ∧ data < 2 ^ 512 :=
  ⟨tLines ⟨[⟨1, .dirty, 9, 100⟩], some 7, 90⟩ [⟨5, 2, 90, .own 11⟩], 0, 2, 5, 11, 100, 90, by decide +kernel⟩

theorem witness_CoherentAccesses_10 : ∃ (s : State) (k : Nat) (h : Nat) (l : Nat) (cy : Nat) (d : OwnReq), s.lineOk k l = true ∧
    ((s.cplx k).line l).copyOf h = none ∧ (s.cplx k).cacheFull h = true :=
  ⟨tCc { tSen with lines := List.replicate 512 (6, ⟨[⟨3, .shared, 9, 0⟩], some 9, 0⟩) } tJun .down, 0, 3, 5, 100, .lr, by decide +kernel⟩

theorem witness_CoherentAccesses_11 : ∃ (s : State) (k : Nat) (h : Nat) (l : Nat) (data : Nat) (cy : Nat), k < 2 ∧ h < 16 ∧ 2 ^ 24 ≤ l ∧
    l < 2 ^ 46 - 2 ^ 24 ∧ (s.cplx k).runs = true :=
  ⟨tLines ⟨[], some 7, 90⟩ [], 0, 3, 2 ^ 24, 11, 100, by decide +kernel⟩

theorem witness_IoReadChangesNothing_1 : ∃ (s : State) (k : Nat) (a : Nat) (l : Nat) (g : CopyLine), s.lineOk k l = true ∧ 16 ≤ a ∧ a < 20 ∧
    ((s.cplx k).line l).supplier = some g :=
  ⟨tLines ⟨[⟨1, .dirty, 9, 100⟩], some 7, 90⟩ [], 0, 16, 5, ⟨1, .dirty, 9, 100⟩, by decide +kernel⟩

theorem witness_IoReadChangesNothing_2 : ∃ (s : State) (k : Nat) (a : Nat) (l : Nat), s.lineOk k l = true ∧ 16 ≤ a ∧ a < 20 ∧
    ((s.cplx k).line l).supplier = none :=
  ⟨tLines ⟨[⟨1, .shared, 9, 100⟩], some 7, 90⟩ [], 0, 16, 5, by decide +kernel⟩

theorem witness_LineStatesStayLegal_2 : ∃ (s : State) (c : Instr), LinesLegal s ∧
    ((∃ k h l cy, c = .hartReadMiss k h l cy) ∨ (∃ k h l d cy, c = .ownershipRequest k h l d cy) ∨ (∃ k h l d, c = .storeToExclusiveLine k h l d) ∨ (∃ k h l cy, c = .lineEviction k h l cy) ∨ (∃ k l cy, c = .holdExpiry k l cy) ∨ (∃ k a h l d cy w, c = .placingWrite k a h l d cy w) ∨ (∃ k a l m d cy, c = .invalidatingWrite k a l m d cy) ∨ (∃ k a l, c = .ioRead k a l)) :=
  ⟨tCc tSen tJun .down, .ioRead 0 16 5, by (intro k l; by_cases hk : k = 0 <;> simp [State.cplx, tCc, tSen, tJun, Cplx.off, Cplx.line, mapGet, hk]),
    by simp⟩

theorem witness_VaultRequests_1 : ∃ (s : State) (sig : List Byte), s.kvDue 0x01 = true ∧ s.keys.lifecycle ≠ 3 ∧ s.hostOpen 0 = true :=
  ⟨tKv 1 0, [1, 2], by decide +kernel⟩

theorem witness_VaultRequests_2 : ∃ (s : State), s.kvDue 0x05 = true ∧ s.keys.lifecycle = 0 ∧ s.hostOpen 0 = true :=
  ⟨tKv 5 0, by decide +kernel⟩

theorem witness_VaultRequests_3 : ∃ (s : State), s.kvDue 0x05 = true ∧ s.keys.lifecycle ≠ 0 :=
  ⟨tKv 5 1, by decide +kernel⟩

theorem witness_VaultRequests_4 : ∃ (s : State), s.kvDue 0x04 = true :=
  ⟨tKv 4 1, by decide +kernel⟩

theorem witness_VaultRequests_5 : ∃ (s : State) (st : Nat) (r : Nat), s.keys.answer = some (st, r) ∧ s.keys.busy = true :=
  ⟨{ tKv 4 1 with keys := { (tKv 4 1).keys with answer := some (0, 3) } }, 0, 3, by decide +kernel⟩

theorem witness_CapsulesFillSlots_2 : ∃ (s : State) (ss : Nat) (st : Nat), s.kvDue 0x02 = true ∧ s.hostOpen 0 = true ∧
    s.capsuleStatus (Memory.read s.host s.keys.reqBus 1776) (leBytes 32 ss) = st ∧ st ≠ 0 :=
  ⟨tKv 2 0, 0, 0x0102, by decide +kernel⟩

theorem witness_SlotsRetire_1 : ∃ (s : State), s.kvDue 0x03 = true ∧ (s.slot s.keys.arg).kind = 7 ∧ (s.slot s.keys.arg).usable = true :=
  ⟨tSlot tSealSlot, by decide +kernel⟩

theorem witness_SlotsRetire_2 : ∃ (s : State) (k : Nat) (x : Nat), (s.slot k).state = .retiring ∧ (s.slot k).retire = some x ∧
    x + 1024 ≤ s.tick.count ∧ (s.slot k).kind ≠ 5 :=
  ⟨tSlot { tSealSlot with state := .retiring, retire := some 3072 }, 5, 3072, by decide +kernel⟩

theorem witness_SlotsRetire_3 : ∃ (s : State) (k : Nat) (x : Nat), (s.slot k).state = .quiet ∧ (s.slot k).retire = some x ∧ x + 5120 ≤ s.tick.count :=
  ⟨{ tSlot { tSealSlot with state := .quiet, retire := some 3072 } with tick := { tS.tick with count := 8192 } }, 5, 3072, by decide +kernel⟩

theorem witness_WashCoversFrames_1 : ∃ (s : State) (w : Nat) (f : Nat) (x : Wash), mapFind s.keys.washes w = some x ∧ x.pattern = false ∧
    x.start + 1024 ≤ s.tick.count ∧ x.frames = [f] ∧ f < 16 * 1430 :=
  ⟨tWash ⟨.frames, 3072, 8192, [], [5], [], false⟩, 0, 5, ⟨.frames, 3072, 8192, [], [5], [], false⟩, by decide +kernel⟩

theorem witness_WashCoversFrames_2 : ∃ (s : State) (w : Nat) (x : Wash), mapFind s.keys.washes w = some x ∧ x.start + x.span ≤ s.tick.count ∧
    x.pattern = true ∧ x.kind = .frames :=
  ⟨tWash ⟨.frames, 1024, 3072, [], [5], [], true⟩, 0, ⟨.frames, 1024, 3072, [], [5], [], true⟩, by decide +kernel⟩

theorem witness_WashCoversFrames_3 : ∃ (s : State) (w : Nat) (x : Wash), mapFind s.keys.washes w = some x ∧ x.start + x.span ≤ s.tick.count ∧
    x.pattern = true ∧ x.frames ≠ [] :=
  ⟨tWash ⟨.frames, 1024, 3072, [], [5], [], true⟩, 0, ⟨.frames, 1024, 3072, [], [5], [], true⟩, by decide +kernel⟩

theorem witness_DomainResets_1 : ∃ (s : State) (c : Nat), HostServed s ∧ coreOk c = true ∧ s.cc.both = false ∧ s.fenced 1 c = false ∧
    (s.core c).state = .spare ∧ (s.core c).vat = none :=
  ⟨tReset .spare [] 4096, 0, by decide +kernel⟩

theorem witness_DomainResets_2 : ∃ (s : State) (q : Nat) (v : Nat), HostServed s ∧ q < 16 ∧ s.cc.both = false ∧ v ∈ s.stackVats q ∧ s.runs v = true :=
  ⟨{ tV tVrun with mem := { MemTier.reset with frames := [(5, .blocked 7)] } }, 0, 7, by decide +kernel⟩

theorem witness_DomainResets_3 : ∃ (s : State) (k : Nat) (i : Nat) (r : DomReset), s.resetOf k i = some r ∧ r.fence + 1250 ≤ s.tick.count ∧
    r.drained = false ∧ k ≤ 4 :=
  ⟨tReset .fenced [⟨1, 0, 0x0730, 2846, false, false⟩] 4096, 1, 0, ⟨1, 0, 0x0730, 2846, false, false⟩, by decide +kernel⟩

theorem witness_DomainResets_4 : ∃ (s : State) (i : Nat) (r : DomReset), s.resetOf 1 i = some r ∧ r.dumped = false ∧ r.fence + 12500 ≤ s.tick.count ∧
    s.flt.dumpLen ≠ 0 ∧ s.hostOpen 0 = true :=
  ⟨tReset .fenced [⟨1, 0, 0x0730, 2846, true, false⟩] 20000, 0, ⟨1, 0, 0x0730, 2846, true, false⟩, by decide +kernel⟩

theorem witness_DomainResets_5 : ∃ (s : State) (c : Nat) (r : DomReset), s.resetOf 1 c = some r ∧ r.kind = 1 ∧ r.index = c ∧ r.dumped = true ∧
    (s.core c).state = .fenced ∧ (s.core c).vat = none :=
  ⟨tReset .fenced [⟨1, 0, 0x0730, 2846, true, true⟩] 20000, 0, ⟨1, 0, 0x0730, 2846, true, true⟩, by decide +kernel⟩

theorem witness_DomainResets_6 : ∃ (s : State) (c : Nat), (s.core c).state = .clearing :=
  ⟨{ tS with cores := [(0, { Core.off with state := .clearing, after := .bound, clearEnd := 4096 })] }, 0, by decide +kernel⟩

theorem witness_DomainResets_7 : ∃ (s : State) (r : Nat), r < 1024 ∧ routerOk r = true ∧ (s.router r).faulted = false ∧ 7 ≤ s.boot.stage ∧
    s.routerErrors r = 0 ∧ s.senior = 0 ∧ s.fenced 2 (r / 32) = false :=
  ⟨tS, 0, by decide +kernel⟩

theorem witness_DeviceResets_1 : ∃ (s : State), HostServed s :=
  ⟨tS, by decide +kernel⟩

theorem witness_DeviceResets_2 : ∃ (s : State) (vat : Nat) (a : Nat), (s.role vat).hangAt = some a ∧ a ≤ s.tick.count :=
  ⟨{ tV tVat with roles := [(7, { VatRole.empty with hangAt := some 4096 })] }, 7, 4096, by decide +kernel⟩

theorem witness_DeviceResets_3 : ∃ (s : State) (ns : Nat), s.pins.armed = true ∧ 1000 ≤ ns ∧ s.senior = 0 :=
  ⟨tArmed, 1000, by decide +kernel⟩

theorem witness_DeviceResets_4 : ∃ (s : State) (rail : Nat) (mv : Nat) (ns : Nat) (lo : Nat) (hi : Nat), s.pins.watched rail = true ∧
    railLimits rail = some (lo, hi) ∧ (mv < lo ∨ hi < mv) ∧ 1000 ≤ ns ∧ s.senior = 0 :=
  ⟨tArmed, 0, 719, 1000, 720, 900, by decide +kernel⟩

theorem witness_DeviceResets_5 : ∃ (s : State) (p : Nat) (g : Nat), s.pins.armed = true ∧ (p < 20 ∨ g < 60) ∧ s.senior = 0 :=
  ⟨tArmed, 20, 59, by decide +kernel⟩

theorem witness_DeviceResets_6 : ∃ (s : State) (d : Int), s.pins.armed = true ∧ d < -20 ∧ s.senior = 0 :=
  ⟨tArmed, -21, by decide +kernel⟩

theorem witness_DeviceResets_9 : ∃ (s : State) (a : Nat), (s.pins.pwrgd = false ∨ s.pins.perstN = false) ∧ s.pins.trip = false :=
  ⟨{ tS with pins := { tS.pins with perstN := false } }, 3, by decide +kernel⟩

theorem witness_HostPortEvents_1 : ∃ (s : State) (c : Instr), (c = .pcieHostReset ∨ c = .pfFlr) ∧ 2 ≤ s.boot.stage ∧ s.fenced 7 0 = false :=
  ⟨tD (tDue 1 []), .pfFlr, by decide +kernel⟩

theorem witness_HostPortEvents_2 : ∃ (s : State), 2 ≤ s.boot.stage :=
  ⟨tS, by decide +kernel⟩

theorem witness_HostPortEvents_3 : ∃ (s : State), 2 ≤ s.boot.stage ∧ s.fenced 7 0 = false :=
  ⟨tS, by decide +kernel⟩

theorem witness_HostPortEvents_4 : ∃ (s : State) (f : Nat), 1 ≤ f ∧ f < 64 :=
  ⟨tQ { tCtx with function := 5 } tQueue (0, 0) [], 5, by decide +kernel⟩

theorem witness_HostPortEvents_5 : ∃ (s : State) (f : Nat), f < 64 :=
  ⟨tS, 5, by decide +kernel⟩

theorem witness_HostPortEvents_6 : ∃ (s : State) (f : Nat), 1 ≤ f ∧ f < 64 ∧ (s.func f).d3 = true :=
  ⟨{ tQ { tCtx with function := 5 } tQueue (0, 0) [] with hp := { tS.hp with funcs := [(5, { Func.reset with d3 := true })] } }, 5, by decide +kernel⟩

theorem witness_HostPortEvents_7 : ∃ (s : State) (v : Nat), v % 2 = 0 :=
  ⟨tS, 0, by decide +kernel⟩

theorem witness_HostPortEvents_8 : ∃ (s : State) (f : Nat) (k : Nat), HostServed s ∧ (s.func f).d3 = false ∧ f < 64 ∧ k < vectorsOf f ∧
    s.hostOpen f = true ∧ ((s.func f).entry k).2.2 = true ∧ (s.func f).pends = [k] :=
  ⟨{ tS with hp := { tS.hp with funcs := [(0, ⟨false, true, [(1, (0x7000, 5, true))], [1]⟩)] } }, 0, 1, by decide +kernel⟩

theorem witness_CxlPorts_1 : ∃ (s : State) (p : Nat) (v : Nat), HostServed s ∧ p < 4 ∧ v % 2 = 1 ∧ (s.cxlPort p).state = 0 ∧ s.fenced 6 p = false :=
  ⟨tS, 3, 1, by decide +kernel⟩

theorem witness_CxlPorts_2 : ∃ (s : State) (p : Nat) (v : Nat), HostServed s ∧ p < 4 ∧ v % 2 = 0 ∧
    s.extentsLive (fun e => decide (e.port = p)) = false :=
  ⟨tCxl, 3, 0, by decide +kernel⟩

theorem witness_CxlPorts_3 : ∃ (s : State) (p : Nat) (w : Nat) (r : Nat) (d : Nat) (k : Nat) (n : Nat) (b : Nat), p < 4 ∧ (s.cxlPort p).state = 1 ∧
    w < 256 ∧ r < 16 ∧ d < 8 ∧ 1 ≤ k ∧ k ≤ 3 ∧ n < 2 ^ 64 ∧ b ≤ 2 ^ 39 :=
  ⟨{ tS with cxlPorts := [(3, ⟨1, 0, 0, true, 0, 0⟩)] }, 3, 16, 6, 7, 1, 99, 2 ^ 30, by decide +kernel⟩

theorem witness_CxlPorts_4 : ∃ (s : State) (p : Nat) (d : Nat) (v : Nat), HostServed s ∧ p < 4 ∧ d < 8 ∧ v < 2 ^ 32 ∧
    s.extentsLive (fun e => decide (e.port = p ∧ e.dev = d)) = false :=
  ⟨tCxl, 3, 7, 5 * 2 ^ 16, by decide +kernel⟩

theorem witness_PowerEstimates_1 : ∃ (s : State) (n : List Nat) (r : CalRec), s.tick.count % 32 = 0 ∧ mapFind s.power.cals s.tick.gear = some r ∧
    s.vats = [] ∧ s.power.whey = [] ∧ s.power.refit = false ∧ loadClass (s.dynamicW r n) ≤ r.tag :=
  ⟨tPw tPow 4096, [1, 2, 3], tCal, by decide +kernel⟩

theorem witness_PowerEstimates_2 : ∃ (s : State) (n : List Nat) (r : CalRec), s.tick.count % 32 = 0 ∧ mapFind s.power.cals s.tick.gear = some r ∧
    s.vats = [] ∧ s.power.whey = [] ∧ r.tag < loadClass (s.dynamicW r n) :=
  ⟨tPw { tPow with cals := [(64, { tCal with tag := 0 })] } 4096, [2 ^ 40, 2 ^ 40], { tCal with tag := 0 }, by decide +kernel⟩

theorem witness_PowerEstimates_3 : ∃ (s : State) (dw : Nat) (tc : Nat) (l : Nat) (ws : List Nat), s.tick.count % 65536 = 0 ∧ s.power.refit = true ∧
    s.power.frameLow = some l ∧ l ≤ 1 ∧ dw < 65536 ∧ tc < 65536 ∧ ws.length = 8 ∧ (∀ w ∈ ws, w < 2 ^ 32) :=
  ⟨tPw { tPow with refit := true, frameLow := some 1 } 65536, 5, 7, 1, [1, 2, 3, 4, 5, 6, 7, 8], by decide +kernel⟩

theorem witness_CapUpdateMovesRest_1 : ∃ (s : State), s.tick.count % 32768 = 0 ∧ s.power.firstCal = false ∧ s.power.halve = false ∧
    Frac.lt (Frac.nat s.power.active.cap) s.power.average = true :=
  ⟨tPw { tPow with ests := [Frac.nat 3001] } 32768, by decide +kernel⟩

theorem witness_CapUpdateMovesRest_2 : ∃ (s : State), s.tick.count % 32768 = 0 ∧ s.power.firstCal = false ∧ s.power.halve = false ∧
    0 < s.power.rest ∧ s.power.rest ≤ 60 ∧ Frac.lt (Frac.nat s.power.active.cap) s.power.average = false ∧
    tempOver s.power.temps s.power.active.throttle = false ∧
    Frac.lt s.power.average (Frac.mul (Frac.nat s.power.active.cap) (Frac.of 97 100)) = true :=
  ⟨tPw tPow 32768, by decide +kernel⟩

theorem witness_CapUpdateMovesRest_3 : ∃ (s : State) (v : Nat), HostServed s ∧ v % 2 = 1 :=
  ⟨tPw tPow 4096, 1, by decide +kernel⟩

theorem witness_CapUpdateMovesRest_4 : ∃ (s : State), s.tick.count % 1250000 = 0 :=
  ⟨tPw tPow 1250000, by decide +kernel⟩

theorem witness_ThermalLimits_1 : ∃ (s : State) (x : Temps), s.pins.trip = false ∧ s.pins.released = true ∧ tempTrip x = false ∧ tempHot x = false ∧
    s.power.therm ≠ 2 :=
  ⟨tPw tPow 4096, ⟨[95 * 8], [0], [0]⟩, by decide +kernel⟩

theorem witness_ThermalLimits_2 : ∃ (s : State) (x : Temps), s.pins.trip = false ∧ s.pins.released = true ∧ tempTrip x = false ∧ tempHot x = true ∧
    s.power.therm ≠ 2 :=
  ⟨tPw tPow 4096, ⟨[105 * 8], [0], [0]⟩, by decide +kernel⟩

theorem witness_ThermalLimits_3 : ∃ (s : State) (x : Temps), s.pins.trip = false ∧ s.pins.released = true ∧ tempTrip x = true :=
  ⟨tPw tPow 4096, ⟨[115 * 8], [0], [0]⟩, by decide +kernel⟩

theorem witness_ThermalLimits_4 : ∃ (s : State) (a : Nat), s.power.therm = 2 ∧ s.power.coolFrom = some a ∧ a + 65536 ≤ s.tick.count ∧
    s.boot.state ≠ .starting ∧ ((∀ m, s.power.beforeHot = some m → m.drop = false)) :=
  ⟨tPw { tPow with therm := 2, coolFrom := some 4096, temps := ⟨[95 * 8], [0], [0]⟩ } 69632, 4096, by decide +kernel⟩

theorem witness_CellarRefusals_1 : ∃ (s : State) (v : Nat), HostServed s ∧ v % 2 = 1 ∧ s.power.cellar ≠ .waking ∧
    ((∃ p ∈ s.vats, p.2.state = .running ∨ p.2.state = .remoulding ∨ p.2.state = .washing) ∨ (∃ w ∈ s.keys.washes, w.2.kind = .frames) ∨ s.flt.resets ≠ [] ∨ s.power.cellar ≠ .awake) :=
  ⟨{ tV tVat with boot := { tS.boot with count := 1 } }, 1, by decide +kernel⟩

theorem witness_CellarRefusals_2 : ∃ (s : State) (v : Nat), HostServed s ∧ s.power.cellar = .waking :=
  ⟨tCellar .waking, 1, by decide +kernel⟩

theorem witness_CellarRefusals_3 : ∃ (s : State) (v : Nat), HostServed s ∧ v % 2 = 1 ∧ s.power.cellar = .awake ∧ s.flt.resets = [] ∧
    (∀ w ∈ s.keys.washes, w.2.kind ≠ .frames) ∧ (∀ p ∈ s.vats, p.2.state ≠ .running ∧ p.2.state ≠ .remoulding ∧ p.2.state ≠ .washing) :=
  ⟨{ tCellar .awake with vats := [(7, { tVat with state := .halted })] }, 1, by decide +kernel⟩

theorem witness_CellarComesAndGoes_1 : ∃ (s : State), s.power.cellar = .entering ∧ (∀ c ∈ s.objs.cmds, c.phase = .held) ∧ s.links.pairs = 0 ∧
    s.links.moving = [] :=
  ⟨tCellar .entering, by decide +kernel⟩

theorem witness_CellarComesAndGoes_2 : ∃ (s : State) (v : Nat), HostServed s ∧ v % 2 = 1 ∧ s.power.cellar = .cellar :=
  ⟨tCellar .cellar, 1, by decide +kernel⟩

theorem witness_CellarComesAndGoes_3 : ∃ (s : State), s.power.cellar = .waking :=
  ⟨tCellar .waking, by decide +kernel⟩

theorem witness_BootStages_1 : ∃ (s : State) (r : StageResult), s.boot.state = .preparing ∧ s.boot.stage = 1 ∧ r.ok = true ∧ r.journalLost = [] :=
  ⟨tBoot .preparing 1, ⟨true, [], []⟩, by decide +kernel⟩

theorem witness_BootStages_2 : ∃ (s : State) (r : StageResult), s.boot.state = .preparing ∧ s.boot.stage = 2 ∧ r.ok = true ∧ s.tick.lock = .locked :=
  ⟨tBoot .preparing 2, ⟨true, [], []⟩, by decide +kernel⟩

theorem witness_BootStages_3 : ∃ (s : State) (r : StageResult), s.boot.state = .preparing ∧ s.boot.stage = 3 ∧ r.ok = true :=
  ⟨tBoot .preparing 3, ⟨true, [], []⟩, by decide +kernel⟩

theorem witness_BootStages_4 : ∃ (s : State) (r : StageResult), s.boot.state = .preparing ∧ s.boot.stage = 4 ∧ r.ok = true ∧ 0 ∉ r.hbmFailed ∧
    8 ∉ r.hbmFailed :=
  ⟨tBoot .preparing 4, ⟨true, [3, 15], []⟩, by decide +kernel⟩

theorem witness_BootStages_5 : ∃ (s : State) (r : StageResult), s.boot.state = .preparing ∧ s.boot.stage = 4 ∧ (0 ∈ r.hbmFailed ∨ 8 ∈ r.hbmFailed) :=
  ⟨tBoot .preparing 4, ⟨true, [8], []⟩, by decide +kernel⟩

theorem witness_BootStages_6 : ∃ (s : State) (k : Nat) (e : Nat), (k, e) ∈ [(1, 0x13), (2, 0x10), (3, 0x11), (4, 0x12)] ∧ s.boot.state = .preparing ∧
    s.boot.stage = k :=
  ⟨tBoot .preparing 3, 3, 0x11, by decide +kernel⟩

theorem witness_BootStages_7 : ∃ (s : State), s.boot.state = .verifying :=
  ⟨tBoot .verifying 6, by decide +kernel⟩

theorem witness_BootStages_8 : ∃ (s : State), s.boot.state = .starting :=
  ⟨tBoot .starting 7, by decide +kernel⟩

theorem witness_BootStages_9 : ∃ (s : State) (v : Nat), (s.func 0).d3 = false ∧ v % 2 = 1 ∧ s.boot.state = .awaitStarter :=
  ⟨tBoot .awaitStarter 5, 1, by decide +kernel⟩

theorem witness_StarterBringsUp_1 : ∃ (s : State) (sig : Bool) (eq : Bool), s.boot.state = .verifying ∧ s.hostOpen 0 = true ∧ s.senior = 0 :=
  ⟨tBoot .verifying 6, true, true, by decide +kernel⟩

theorem witness_StarterBringsUp_2 : ∃ (s : State) (dw : Nat) (tc : Nat) (ws : List Nat), s.readyOk = true ∧ dw < 65536 ∧ tc < 65536 ∧ ws.length = 8 ∧
    (∀ w ∈ ws, w < 2 ^ 32) :=
  ⟨{ tBoot .starting 7 with boot := { Boot.reset with state := .starting, stage := 7, bringup := 3, params := zeros 64 } }, 5, 7, [1, 2, 3, 4, 5, 6, 7, 8],
    by decide +kernel⟩

theorem witness_SvnCommitRaisesFloor_1 : ∃ (s : State) (v : Nat), HostServed s ∧ v % 2 = 1 ∧ s.keys.lifecycle = 1 ∧ s.senior = 0 :=
  ⟨{ tLife 1 with boot := { tS.boot with svn := 5 } }, 1, by decide +kernel⟩

theorem witness_SvnCommitRaisesFloor_2 : ∃ (s : State) (v : Nat), (s.boot.state ≠ .ready ∨ s.keys.lifecycle ≠ 1 ∨ v % 2 = 0) :=
  ⟨tLife 0, 1, by decide +kernel⟩

theorem witness_LifecycleTransitions_1 : ∃ (s : State), HostServed s ∧ s.keys.lifecycle = 0 ∧ s.vats = [] ∧ s.boot.lcConfirm = field s.deviceId 0 4 ∧
    s.fuses.programmed = true :=
  ⟨tConf 0, by decide +kernel, by decide +kernel, by decide +kernel, by exact tConf_ok 0, by decide +kernel⟩

theorem witness_LifecycleTransitions_3 : ∃ (s : State), HostServed s ∧ (s.keys.lifecycle = 1 ∨ s.keys.lifecycle = 2) ∧ s.vats = [] ∧
    s.boot.lcConfirm = field s.deviceId 0 4 :=
  ⟨tConf 2, by decide +kernel, by decide +kernel, by decide +kernel, by exact tConf_ok 2⟩

theorem witness_LifecycleTransitions_4 : ∃ (s : State) (c : Instr) (k : Nat) (e : Nat), (c, k) ∈ [(Instr.toRipe, 1), (Instr.toOpened false, 2), (Instr.toOpened true, 2), (Instr.toSpent, 3)] ∧
    (s.func 0).d3 = false ∧ ((s.boot.state ≠ .ready ∧ e = 6) ∨ (s.boot.state = .ready ∧ transitionOk s.keys.lifecycle k = false ∧
    e = 2) ∨ (s.boot.state = .ready ∧ transitionOk s.keys.lifecycle k = true ∧ s.vats ≠ [] ∧ e = 3) ∨ (s.boot.state = .ready ∧
    transitionOk s.keys.lifecycle k = true ∧ s.vats = [] ∧ s.boot.lcConfirm ≠ field s.deviceId 0 4 ∧ e = 4)) :=
  ⟨{ tConf 0 with vats := [(7, tVat)] }, .toRipe, 1, 3, by simp, by decide +kernel⟩

theorem witness_JournalCompacts_1 : ∃ (s : State), s.journal.free < 262144 ∧ s.senior = 0 :=
  ⟨tFull, by decide +kernel⟩

theorem witness_JournalCompacts_2 : ∃ (s : State), s.journal.free < 262144 ∧ s.senior = 0 :=
  ⟨tFull, by decide +kernel⟩

theorem witness_SidebandReads_1 : ∃ (s : State) (d : Nat), s.sideUp = true ∧ 8 ≤ d ∧ d < 255 :=
  ⟨tPw tPow 4096, 8, by decide +kernel⟩

theorem witness_SidebandReads_2 : ∃ (s : State) (d : Nat), s.sideUp = true :=
  ⟨tPw tPow 4096, 0, by decide +kernel⟩

theorem witness_SidebandReads_3 : ∃ (s : State) (h : Nat), s.sideUp = true ∧ h < 2 :=
  ⟨tPw tPow 4096, 1, by decide +kernel⟩

theorem witness_SidebandReads_4 : ∃ (s : State) (h : Nat), s.sideUp = true ∧ h < 2 :=
  ⟨tPw tPow 4096, 1, by decide +kernel⟩

theorem witness_SidebandReads_5 : ∃ (s : State) (h : Nat) (p : Nat), s.sideUp = true ∧ s.boot.state = .ready ∧ h < 2 ∧ p < 16 :=
  ⟨tPw tPow 4096, 1, 15, by decide +kernel⟩

theorem witness_SidebandReads_6 : ∃ (s : State) (h : Nat), s.sideUp = true ∧ s.boot.state = .ready ∧ h < 2 :=
  ⟨tPw tPow 4096, 1, by decide +kernel⟩

theorem witness_SidebandReads_7 : ∃ (s : State) (h : Nat) (q : Nat) (n : Nat), s.sideUp = true ∧ s.boot.state = .ready ∧ h < 2 ∧ 1 ≤ n ∧ n ≤ 7 :=
  ⟨tPw tPow 4096, 1, 0, 7, by decide +kernel⟩

theorem witness_SidebandRequests_1 : ∃ (s : State) (c : Instr) (m : Nat) (h : Nat) (f : Nat) (z : Nat) (n : List Byte) (p : Nat) (q : Nat) (k : Nat) (v : Nat), (c, m) ∈ [(Instr.partitionPower f h z p, 2), (Instr.reportStart f h z n, 3), (Instr.reportRead f h z p q, 5), (Instr.sbMeterRead f h z p q, 6), (Instr.cellarWake f h z, 7), (Instr.ccStatus f h z, 8), (Instr.splitResolve f h z v, 9), (Instr.lcSpent f h z k, 10)] ∧
    s.sideUp = true :=
  ⟨tPw tPow 4096, .ccStatus 0 1 1, 8, 1, 0, 1, [], 0, 0, 0, 0, by simp, by decide +kernel⟩

theorem witness_SidebandRequests_2 : ∃ (s : State) (h : Nat) (n : List Byte), s.sideUp = true ∧ s.boot.state = .ready ∧ h < 2 ∧ n.length = 32 ∧
    s.keys.sideReq = none :=
  ⟨tPw tPow 4096, 1, zeros 32, by decide +kernel⟩

theorem witness_SidebandRequests_3 : ∃ (s : State) (h : Nat) (n : List Byte), s.sideUp = true ∧ s.boot.state = .ready ∧ h < 2 ∧
    s.keys.sideReq.isSome = true :=
  ⟨{ tPw tPow 4096 with keys := { KeyVault.reset with sideReq := some (zeros 32) } }, 1, zeros 32, by decide +kernel⟩

theorem witness_SidebandRequests_4 : ∃ (s : State) (h : Nat) (o : Nat) (n : Nat) (r : List Byte), s.sideUp = true ∧ s.boot.state = .ready ∧ h < 2 ∧
    n ≤ 1000 ∧ s.keys.report = some r :=
  ⟨{ tPw tPow 4096 with keys := { KeyVault.reset with report := some [1, 2, 3] } }, 1, 1, 1000, [1, 2, 3], by decide +kernel⟩

theorem witness_SidebandRequests_5 : ∃ (s : State) (h : Nat), s.sideUp = true ∧ s.boot.state = .ready ∧ h < 2 ∧ s.power.cellar = .cellar :=
  ⟨tCellar .cellar, 1, by decide +kernel⟩

theorem witness_SidebandRequests_6 : ∃ (s : State) (h : Nat), s.sideUp = true ∧ s.boot.state = .ready ∧ h < 2 ∧ (s.cplx h).serves = true ∧
    (s.cplx h).split = true ∧ (s.cplx h).state = .senior :=
  ⟨tCc { tSen with split := true } tJun .fenced, 0, by decide +kernel⟩

theorem witness_SidebandRequests_7 : ∃ (s : State) (h : Nat) (k : Nat), s.sideUp = true ∧ s.boot.state = .ready ∧ h < 2 ∧ s.keys.lifecycle = 1 ∧
    s.vats = [] ∧ k = field s.deviceId 0 4 :=
  ⟨{ tLife 1 with boot := { tS.boot with count := 2 } }, 1, field ({ tLife 1 with boot := { tS.boot with count := 2 } } : State).deviceId 0 4,
    by decide +kernel, by decide +kernel, by decide +kernel, by decide +kernel, by decide +kernel, by rfl⟩

theorem witness_RegisterReads_1 : ∃ (s : State) (o : Nat), (s.func 0).d3 = false ∧ o < 0x1000 ∧ o % 4 = 0 ∧ wideAt 0 o = false ∧
    wideAt 0 (o - 4) = false :=
  ⟨tS, 0xFFC, by decide +kernel⟩

theorem witness_RegisterReads_2 : ∃ (s : State) (o : Nat) (n : Nat), (s.func 0).d3 = false ∧ s.boot.state ≠ .ready ∧ 0x1000 ≤ o ∧ o < 0x2_0000 ∧
    (n = 4 ∨ n = 8) ∧ o % n = 0 :=
  ⟨tBoot .awaitStarter 5, 0x1008, 8, by decide +kernel⟩

theorem witness_RegisterReads_3 : ∃ (s : State), HostServed s :=
  ⟨{ tS with keys := { KeyVault.reset with verifyFail := 3 } }, by decide +kernel⟩

theorem witness_RegisterReads_4 : ∃ (s : State) (o : Nat) (n : Nat), (s.func 0).d3 = false ∧ o < 0x2_0000 ∧ ((n ≠ 4 ∧ n ≠ 8) ∨ o % n ≠ 0) :=
  ⟨tS, 0x1004, 8, by decide +kernel⟩

theorem witness_RegisterReads_5 : ∃ (s : State) (o : Nat) (n : Nat) (v : Nat), barPlace o = none :=
  ⟨tS, 2 ^ 40, 4, 1, by decide +kernel⟩

theorem witness_RegisterWrites_1 : ∃ (s : State) (v : Nat), (s.func 0).d3 = false ∧ v < 2 ^ 32 :=
  ⟨tS, 5, by decide +kernel⟩

theorem witness_RegisterWrites_2 : ∃ (s : State) (v : Nat) (w : Nat), (s.func 0).d3 = false ∧ v < 2 ^ 32 ∧ w < 2 ^ 32 ∧ w % 64 = 0 ∧
    mapFind s.lowHeld 0x010 = some w :=
  ⟨{ tS with lowHeld := [(0x010, 64)] }, 5, 64, by decide +kernel⟩

theorem witness_RegisterWrites_3 : ∃ (s : State) (v : Nat), HostServed s ∧ 500 ≤ v ∧ v ≤ 3300 :=
  ⟨tS, 3300, by decide +kernel⟩

theorem witness_RegisterWrites_4 : ∃ (s : State) (v : Nat), HostServed s ∧ (v < 500 ∨ (3300 < v ∧ v < 65536)) :=
  ⟨tS, 3301, by decide +kernel⟩

theorem witness_RegisterWrites_5 : ∃ (s : State) (o : Nat) (n : Nat) (v : Nat), (s.func 0).d3 = false ∧ s.boot.state ≠ .ready ∧ 0x1000 ≤ o ∧
    o < 0x10_0000 :=
  ⟨tBoot .awaitStarter 5, 0x1008, 4, 1, by decide +kernel⟩

theorem witness_RegisterWrites_6 : ∃ (s : State) (o : Nat) (n : Nat) (v : Nat), (s.func 0).d3 = false ∧ o < 0x10_0000 ∧ ((n ≠ 4 ∧
    n ≠ 8) ∨ o % n ≠ 0) :=
  ⟨tS, 0x1004, 8, 1, by decide +kernel⟩

theorem witness_TapHeldInRipeAndSpent_1 : ∃ (s : State) (tms : Bool) (tdi : Bool) (trst : Bool), (s.fuses.state = 1 ∨ s.fuses.state = 3) :=
  ⟨{ tS with fuses := { Fuses.blank with ripe := [true, true, false] } }, true, false, true, by decide +kernel⟩

theorem witness_PinsMove_1 : ∃ (s : State) (tms : Bool) (tdi : Bool), (s.fuses.state = 0 ∨ s.fuses.state = 2) :=
  ⟨tS, false, true, by decide +kernel⟩

theorem witness_StepRunsFrontCommand_1 : ∃ (s : State) (c : Instr) (q : List Instr), s.pending = c :: q :=
  ⟨{ tS with pending := [.hotExit] }, .hotExit, [], by decide +kernel⟩

theorem witness_StepRunsFrontCommand_2 : ∃ (s : State), s.pending = [] :=
  ⟨tS, by decide +kernel⟩

theorem witness_ResetState_18 : ∃ (k : Nat), k < 256 ∧ 2 ≤ k :=
  ⟨2, by decide +kernel⟩

theorem witness_BeforeReadyOnlyBoot_1 : ∃ (s : State) (c : Instr), hostRegister c = true ∧ s.boot.state ≠ .ready :=
  ⟨tBoot .awaitStarter 5, .cellarReq 1, by decide +kernel⟩

theorem witness_BeforeReadyOnlyBoot_2 : ∃ (s : State) (o : Nat) (n : Nat) (v : Nat), (s.func 0).d3 = false ∧ s.boot.state ≠ .ready ∧ 0x1000 ≤ o ∧
    o < 2 ^ 24 ∧ (n = 4 ∨ n = 8) ∧ o % n = 0 :=
  ⟨tBoot .awaitStarter 5, 0x4_0000, 4, 700, by decide +kernel⟩

theorem witness_BeforeReadyOnlyBoot_3 : ∃ (s : State) (o : Nat) (n : Nat), (s.func 0).d3 = false ∧ s.boot.state ≠ .ready ∧ 0x1000 ≤ o ∧
    (o < 0x2_0000 ∨ (0x3_0000 ≤ o ∧ o < 2 ^ 24)) ∧ (n = 4 ∨ n = 8) ∧ o % n = 0 :=
  ⟨tBoot .awaitStarter 5, 0x4_0000, 4, by decide +kernel⟩

theorem witness_MemoryKeepsWhatIsWritten_1 : ∃ (s : State) (key : List Byte) (bs : List Byte) (a : Nat), s.mem.copies = [] ∧ a % 16 = 0 ∧
    bs.length % 16 = 0 :=
  ⟨tS, [1], zeros 16, 32, by decide +kernel⟩

theorem witness_MemoryKeepsWhatIsWritten_2 : ∃ (s : State) (key : List Byte) (other : List Byte) (bs : List Byte) (a : Nat) (b : Nat), s.mem.copies = [] ∧
    (∀ p ∈ s.mem.keys, p.2 ≤ s.mem.keyTags.length) ∧ a % 16 = 0 ∧ bs.length % 16 = 0 ∧ (16 * b + 16 ≤ a ∨ a + bs.length ≤ 16 * b) :=
  ⟨tS, [1], [2], zeros 16, 32, 1, by decide +kernel⟩

theorem witness_MemoryKeepsWhatIsWritten_3 : ∃ (s : State) (bs : List Byte) (a : Nat), s.mem.copies = [] ∧ s.mem.keys = [] :=
  ⟨tS, [1, 2], 33, by decide +kernel⟩

theorem witness_MemoryKeepsWhatIsWritten_4 : ∃ (s : State) (bs : List Byte) (a : Nat) (c : Nat), s.mem.copies = [] ∧ s.mem.keys = [] ∧
    (c < a ∨ a + bs.length ≤ c) :=
  ⟨tS, [1, 2], 33, 35, by decide +kernel⟩

theorem witness_MemoryStaysCanonical_3 : ∃ (s : State) (key : List Byte) (bs : List Byte) (a : Nat), Memory.wf s.mem.cells = true :=
  ⟨tS, [1], [1, 2], 33, by decide +kernel⟩

theorem witness_MemoryStaysCanonical_4 : ∃ (s : State) (bs : List Byte) (a : Nat), Memory.wf s.host = true :=
  ⟨tS, [1, 2], 33, by decide +kernel⟩

theorem witness_MemoryStaysCanonical_5 : ∃ (m : MemTier) (a : Nat) (n : Nat), Memory.wf m.cells = true :=
  ⟨{ MemTier.reset with cells := [(33, 1)] }, 32, 16, by decide +kernel⟩

theorem witness_FuseBitStaysBurnt_1 : ∃ (s : State) (t : State), FuseBank s.fuses ∧ s.boot.svn ≤ 64 ∧ step s = .next t :=
  ⟨{ tS with pending := [.toSpent] }, { tS with boot := { tS.boot with lcReq := 3, lcResult := 2 } }, by decide +kernel, by decide +kernel, by rfl⟩

theorem witness_FuseBankKeepsShape_1 : ∃ (s : State) (t : State), FuseBank s.fuses ∧ s.boot.svn ≤ 64 ∧ step s = .next t :=
  ⟨{ tS with pending := [.toSpent] }, { tS with boot := { tS.boot with lcReq := 3, lcResult := 2 } }, by decide +kernel, by decide +kernel, by rfl⟩

theorem witness_LifecycleFollowsFuses_3 : ∃ (s : State) (a : Nat), (s.pins.pwrgd = false ∨ s.pins.perstN = false) ∧ s.pins.trip = false ∧
    openIntent s.jdata = none :=
  ⟨{ tBoot .preparing 0 with pins := Pins.reset }, 3, by decide +kernel⟩

theorem witness_EventsWaitForTheirCondition_1 : ∃ (s : State) (c : Nat) (w : OpWord), (s.core c).state ≠ .bound :=
  ⟨tS, 0, 0, by decide +kernel⟩

theorem witness_EventsWaitForTheirCondition_2 : ∃ (s : State) (n : List Nat), s.tick.count % 32 ≠ 0 :=
  ⟨tPw tPow 4097, [1], by decide +kernel⟩

theorem witness_EventsWaitForTheirCondition_3 : ∃ (s : State), s.tick.count % 32768 ≠ 0 :=
  ⟨tPw tPow 4096, by decide +kernel⟩

theorem witness_EventsWaitForTheirCondition_4 : ∃ (s : State) (d : Draw), s.vat? d.vat = none :=
  ⟨tS, ⟨7, .none⟩, by decide +kernel⟩

theorem witness_EventsWaitForTheirCondition_5 : ∃ (s : State) (r : CmdRef), s.cmd? r = none :=
  ⟨tS, ⟨3, 0, 0⟩, by decide +kernel⟩

theorem witness_EventsWaitForTheirCondition_6 : ∃ (s : State), s.power.cellar ≠ .entering :=
  ⟨tS, by decide +kernel⟩

/-- An opening authorisation of a device whose boot count is 1. -/
def tAuth (id : List Byte) : List Byte := (leBytes 2 0x1000 ++ zeros 6 ++ leBytes 8 1) ++ (id ++ zeros 32)

/-- A Ripe package whose host confirmed the device and left the authorisation at 0x8000. -/
def tOpen : State := ({ tConf 1 with boot := { (tConf 1).boot with count := 1, lcAuth := 0x8000 } } : State).hostWrite 0x8000 (tAuth (tLife 1).deviceId)

theorem tOpen_id : tOpen.deviceId = (tLife 1).deviceId := by
  have h : tOpen.pub = (tLife 1).pub := by
    simp only [State.pub, State.root, tOpen, tConf, tLife]
    rfl
  exact congrArg (fun x => shake256 x 16) h

theorem tAuth_ok (s : State) (id : List Byte) (hi : s.deviceId = id) (hl : id.length = 16) (hc : s.boot.count = 1) : s.authOk (tAuth id) = true := by
  have h1 : ((tAuth id).drop 0x10).take 16 = id := by
    rw [tAuth, List.drop_append, List.drop_eq_nil_of_le (by decide), List.nil_append]
    show ((id ++ zeros 32).drop 0).take 16 = id
    rw [List.drop_zero, List.take_append_of_le_length (by omega), List.take_of_length_le (by omega)]
  have h2 : ((tAuth id).drop 0x20).take 32 = zeros 32 := by
    rw [tAuth, ← List.append_assoc, List.drop_append, List.drop_eq_nil_of_le (by simp; omega), List.nil_append]
    have : 0x20 - ((leBytes 2 0x1000 ++ zeros 6 ++ leBytes 8 1) ++ id).length = 0 := by simp; omega
    rw [this]; rfl
  have h3 : ∀ off n, off + n ≤ 16 → field (tAuth id) off n = field (leBytes 2 0x1000 ++ zeros 6 ++ leBytes 8 1) off n := by
    intro off n h
    exact field_append_left _ _ _ _ (by simpa using h)
  unfold State.authOk
  rw [h1, h2, h3 0 2 (by omega), h3 2 6 (by omega), h3 8 8 (by omega), hi, hc]
  simp only [and_true]
  decide

theorem tOpen_auth : tOpen.authOk (tOpen.hostRead tOpen.boot.lcAuth 64) = true := by
  have hl : (tAuth (tLife 1).deviceId).length = 64 := by simp [tAuth, State.deviceId]
  have h : tOpen.hostRead tOpen.boot.lcAuth 64 = tAuth (tLife 1).deviceId := by
    have e := State.hostRead_hostWrite ({ tConf 1 with boot := { (tConf 1).boot with count := 1, lcAuth := 0x8000 } } : State) 0x8000 (tAuth (tLife 1).deviceId)
    rw [hl] at e
    exact e
  rw [h]
  exact tAuth_ok tOpen _ tOpen_id (by simp [State.deviceId]) rfl

theorem tOpen_conf : tOpen.boot.lcConfirm = field tOpen.deviceId 0 4 := by rw [tOpen_id]; simp only [tOpen, State.hostWrite_eq, tConf]

theorem witness_LifecycleTransitions_2 : ∃ (s : State), HostServed s ∧ s.keys.lifecycle = 1 ∧ s.vats = [] ∧ s.boot.lcConfirm = field s.deviceId 0 4 ∧
    s.hostOpen 0 = true ∧ s.authOk (s.hostRead s.boot.lcAuth 64) = true :=
  ⟨tOpen, by first | decide +kernel | rfl, rfl, rfl, tOpen_conf, rfl, tOpen_auth⟩

/-! A capsule of vat 7's secret, encapsulated with the shared secret 0. -/

def tKey : List Byte := derive (leBytes 32 0) "KMV.CAPSULE" [] 32
def tSecret : List Byte := xorBytes (zeros 64) (gctr tKey (zeros 12) 4 2)
def tCapHead : List Byte := leBytes 2 0x1000 ++ leBytes 1 1 ++ leBytes 1 0 ++ leBytes 2 7 ++ zeros 10
def tCapKcv : List Byte := shake256 (ascii "KMVKCV" ++ tSecret) 8
def tCapTail : List Byte := zeros 8 ++ zeros 1568

/-- What the tag of the capsule covers. -/
def tCapAad (id eh : List Byte) : List Byte := tCapHead ++ id ++ eh ++ zeros 48 ++ tCapKcv ++ tCapTail
def tCap (id eh : List Byte) : List Byte := tCapAad id eh ++ zeros 64 ++ gcmTag tKey (zeros 12) (tCapAad id eh) (zeros 64)

theorem drop_take_mid (a b c : List Byte) (n k : Nat) (ha : a.length = n) (hb : b.length = k) : ((a ++ b ++ c).drop n).take k = b := by
  subst ha hb
  rw [List.append_assoc, List.drop_left, List.take_left]

theorem tCapAad_length (id eh : List Byte) (h1 : id.length = 16) (h2 : eh.length = 32) : (tCapAad id eh).length = 0x6A0 := by
  simp [tCapAad, tCapHead, tCapKcv, tCapTail, h1, h2]

theorem tag_length (x : List Byte) (ct : List Byte) : (gcmTag tKey (zeros 12) x ct).length = 16 := by
  have h : (aesEnc tKey (zeros 12 ++ beBytes 4 1)).length = 16 := by decide +kernel
  simp only [gcmTag, xorBytes, List.length_zipWith, h]
  simp [beBytes]

theorem tCap_length (id eh : List Byte) (h1 : id.length = 16) (h2 : eh.length = 32) : (tCap id eh).length = 1776 := by
  simp [tCap, tCapAad_length id eh h1 h2, tag_length]

theorem tCap_field (id eh : List Byte) (o n : Nat) (h : o + n ≤ 16) : field (tCap id eh) o n = field tCapHead o n := by
  simp only [tCap, tCapAad, List.append_assoc]
  exact field_append_left _ _ _ _ (by simpa [tCapHead] using h)

theorem tCap_id (id eh : List Byte) (h1 : id.length = 16) : ((tCap id eh).drop 0x10).take 16 = id := by
  have e : tCap id eh = tCapHead ++ id ++ (eh ++ zeros 48 ++ tCapKcv ++ tCapTail ++ zeros 64 ++ gcmTag tKey (zeros 12) (tCapAad id eh) (zeros 64)) := by
    simp only [tCap, tCapAad, List.append_assoc]
  rw [e]
  exact drop_take_mid _ _ _ _ _ (by simp [tCapHead]) h1

theorem tCap_eh (id eh : List Byte) (h1 : id.length = 16) (h2 : eh.length = 32) : ((tCap id eh).drop 0x20).take 32 = eh := by
  have e : tCap id eh = (tCapHead ++ id) ++ eh ++ (zeros 48 ++ tCapKcv ++ tCapTail ++ zeros 64 ++ gcmTag tKey (zeros 12) (tCapAad id eh) (zeros 64)) := by
    simp only [tCap, tCapAad, List.append_assoc]
  rw [e]
  exact drop_take_mid _ _ _ _ _ (by simp [tCapHead, h1]) h2

theorem tCap_kcv (id eh : List Byte) (h1 : id.length = 16) (h2 : eh.length = 32) : ((tCap id eh).drop 0x70).take 8 = tCapKcv := by
  have e : tCap id eh = (tCapHead ++ id ++ eh ++ zeros 48) ++ tCapKcv ++ (tCapTail ++ zeros 64 ++ gcmTag tKey (zeros 12) (tCapAad id eh) (zeros 64)) := by
    simp only [tCap, tCapAad, List.append_assoc]
  rw [e]
  exact drop_take_mid _ _ _ _ _ (by simp [tCapHead, h1, h2]) (by simp [tCapKcv])

theorem tCap_fixed (id eh : List Byte) (h1 : id.length = 16) (h2 : eh.length = 32) : field (tCap id eh) 0x78 8 = 0 := by
  have e : tCap id eh = (tCapHead ++ id ++ eh ++ zeros 48 ++ tCapKcv) ++ zeros 8 ++
      (zeros 1568 ++ zeros 64 ++ gcmTag tKey (zeros 12) (tCapAad id eh) (zeros 64)) := by
    simp only [tCap, tCapAad, tCapTail, List.append_assoc]
  unfold field
  rw [e, drop_take_mid _ _ _ _ _ (by simp [tCapHead, h1, h2, tCapKcv]) (by simp)]
  decide

theorem tCap_payload (s : State) (id eh : List Byte) (h1 : id.length = 16) (h2 : eh.length = 32) :
    s.capsulePayload (tCap id eh) (leBytes 32 0) = some tSecret := by
  have hk : s.capsuleKey (tCap id eh) (leBytes 32 0) = some tKey := by
    have : capKind (tCap id eh) = 1 := (tCap_field id eh 2 1 (by omega)).trans (by decide)
    simp only [State.capsuleKey, this]
    rfl
  have ha : (tCap id eh).take 0x6A0 = tCapAad id eh := by
    rw [tCap, List.append_assoc, ← tCapAad_length id eh h1 h2, List.take_left]
  have hc : ((tCap id eh).drop 0x6A0).take 64 = zeros 64 := drop_take_mid _ _ _ _ _ (tCapAad_length id eh h1 h2) (by simp)
  have ht : ((tCap id eh).drop 0x6E0).take 16 = gcmTag tKey (zeros 12) (tCapAad id eh) (zeros 64) := by
    have := drop_take_mid (tCapAad id eh ++ zeros 64) (gcmTag tKey (zeros 12) (tCapAad id eh) (zeros 64)) [] 0x6E0 16
      (by simp [tCapAad_length id eh h1 h2]) (tag_length _ _)
    rwa [List.append_nil] at this
  rw [State.capsulePayload, hk, ha, hc, ht]
  rw [Option.bind_some, gcmDec, if_pos rfl, zeros_length, show ceilDiv 64 16 = 4 by decide, tSecret]

/-- A Ripe package that knows vat 7, with the capsule at 0x8000 and the request for it in progress. -/
def tBare : State := { tKv 2 1 with vats := [(7, tVat)] }
def tCapsuled : State := tBare.hostWrite 0x8000 (tCap tBare.deviceId (shake256 KeyVault.reset.ek 32))

theorem tCapsuled_cap : Memory.read tCapsuled.host tCapsuled.keys.reqBus 1776 = tCap tBare.deviceId (shake256 KeyVault.reset.ek 32) := by
  have e := State.hostRead_hostWrite tBare 0x8000 (tCap tBare.deviceId (shake256 KeyVault.reset.ek 32))
  rw [tCap_length _ _ (by simp [State.deviceId]) (by simp)] at e
  unfold State.hostRead at e
  have k : tCapsuled.keys.reqBus = 0x8000 := rfl
  rw [k]
  exact e

theorem tCapsuled_id : tCapsuled.deviceId = tBare.deviceId := by
  have h : tCapsuled.pub = tBare.pub := by
    simp only [State.pub, State.root, tCapsuled, State.hostWrite_eq]
    rfl
  exact congrArg (fun x => shake256 x 16) h

theorem tCapsuled_status : tCapsuled.capsuleStatus (Memory.read tCapsuled.host tCapsuled.keys.reqBus 1776) (leBytes 32 0) = 0 := by
  rw [tCapsuled_cap]
  have h1 : tBare.deviceId.length = 16 := by simp [State.deviceId]
  have h2 : (shake256 KeyVault.reset.ek 32).length = 32 := by simp
  generalize hd : tBare.deviceId = id at h1
  generalize he : shake256 KeyVault.reset.ek 32 = eh at h2
  have f := tCap_field id eh
  have hk : capKind (tCap id eh) = 1 := (f 2 1 (by omega)).trans (by decide)
  have hv : capVat (tCap id eh) = 7 := (f 4 2 (by omega)).trans (by decide)
  have hx : capCtx (tCap id eh) = 0 := (f 6 2 (by omega)).trans (by decide)
  have hs : capSlot (tCap id eh) = 0 := (f 8 1 (by omega)).trans (by decide)
  have hf : field (tCap id eh) 3 1 = 0 := (f 3 1 (by omega)).trans (by decide)
  have hr : capReplace (tCap id eh) = false := by rw [capReplace, hf]; decide
  have hz : field (tCap id eh) 9 7 = 0 := (f 9 7 (by omega)).trans (by decide)
  have hok : capReservedOk (tCap id eh) = true := by
    simp [capReservedOk, hk, hv, hx, hs, hf, hz, hr, tCap_fixed id eh h1 h2]
  have hid : tCapsuled.deviceId = id := tCapsuled_id.trans hd
  have hek : shake256 tCapsuled.keys.ek 32 = eh := he
  have hvat : (tCapsuled.vat? 7).isNone = false := rfl
  have hfit : tCapsuled.capsuleFits (tCap id eh) tSecret = true := by
    simp only [State.capsuleFits, hk, hv]
    rfl
  have hem : ¬ tCapsuled.emptySlots.length < capSlots (tCap id eh) := by
    have : tCapsuled.emptySlots.length = 254 := by decide +kernel
    rw [this, capSlots, hk, if_pos rfl]
    decide
  have hlife : ¬ 3 ≤ tCapsuled.keys.lifecycle := by
    have : tCapsuled.keys.lifecycle = 1 := rfl
    omega
  rw [State.capsuleStatus]
  simp only [f 0 2 (by omega), hok, hk, hr, hv, tCap_id id eh h1, tCap_eh id eh h1 h2, tCap_payload tCapsuled id eh h1 h2,
    tCap_kcv id eh h1 h2, hid, hek, hvat, hfit]
  rw [if_neg (by decide)]
  simp [hem, hlife, tCapKcv]

theorem witness_CapsulesFillSlots_1 : ∃ (s : State) (ss a b c : Nat) (l : List Nat) (cap p : List Byte), s.kvDue 0x02 = true ∧ s.hostOpen 0 = true ∧
    cap = Memory.read s.host s.keys.reqBus 1776 ∧ s.capsuleStatus cap (leBytes 32 ss) = 0 ∧ capKind cap = 1 ∧
    s.capsulePayload cap (leBytes 32 ss) = some p ∧ s.emptySlots = a :: b :: c :: l := by
  refine ⟨tCapsuled, 0, 2, 3, 4, (List.range 251).map (· + 5), _, tSecret, by decide +kernel, rfl, rfl, tCapsuled_status, ?_, ?_, by decide +kernel⟩
  · rw [tCapsuled_cap]
    exact (tCap_field _ _ 2 1 (by omega)).trans (by decide)
  · rw [tCapsuled_cap]
    exact tCap_payload _ _ _ (by simp [State.deviceId]) (by simp)

end Sys2Proof.Tests
end

section
/-! The accesses of a host to BAR0 of the PF (R3 to R8, R441, R464, R468): where a read or a write lands and when it has no effect. -/

namespace Sys2Proof.Machine
open Sys2Proof Sys2Proof.Safety

/-- The first 16 MiB of the model's offsets are BAR0 of the PF (R464). -/
theorem barPlace_pf {o : Nat} (h : o < 2 ^ 24) : barPlace o = some (0, o) := if_pos h

theorem exec_rcRegisterRead_pf (s : State) {o : Nat} (n : Nat) (h : o < 2 ^ 24) :
    exec (.rcRegisterRead o n) s = .next (s.barRead 0 o o n) := by
  change execRcRegisterRead o n s = _
  rw [execRcRegisterRead, barPlace_pf h]

theorem exec_registerWrite_pf (s : State) {o : Nat} (n v : Nat) (h : o < 2 ^ 24) :
    exec (.registerWrite o n v) s = .next (s.barWrite 0 o o n v) := by
  change execRegisterWrite o n v s = _
  rw [execRegisterWrite, barPlace_pf h]

/-- No register of the package stands outside every BAR0: the model stops (log entry 48). -/
theorem exec_register_outside (s : State) {o : Nat} (n v : Nat) (h : barPlace o = none) :
    exec (.rcRegisterRead o n) s = .fault .outsideBar0 ∧ exec (.registerWrite o n v) s = .fault .outsideBar0 := by
  constructor
  · change execRcRegisterRead o n s = _
    rw [execRcRegisterRead, h]
  · change execRegisterWrite o n v s = _
    rw [execRegisterWrite, h]

theorem State.barUp_of_d3 {s : State} {f : Nat} (h : (s.func f).d3 = false) : s.barUp f = true := by simp [State.barUp, h]

theorem State.served_of_host {s : State} (h : HostServed s) : s.served = true := decide_eq_true h.1

theorem State.barUp_of_host {s : State} (h : HostServed s) : s.barUp 0 = true := State.barUp_of_d3 h.2

theorem State.barOpen_of_host {s : State} (h : HostServed s) : s.barOpen 0 = true := by
  rw [State.barOpen, State.served_of_host h, State.barUp_of_host h]
  rfl

/-- BOOT is reached in every phase, and the other blocks once the package is Ready (R441). -/
theorem State.reached_boot (s : State) {o : Nat} (h : o < 0x1000) : s.reached 0 o = true := by simp [State.reached, h]

theorem State.reached_of_host {s : State} (h : HostServed s) (f o : Nat) : s.reached f o = true := by simp [State.reached, State.served_of_host h]

theorem State.not_reached {s : State} {o : Nat} (h : s.boot.state ≠ .ready) (ho : 0x1000 ≤ o) : s.reached 0 o = false := by
  simp [State.reached, State.served, h, ho]

/-! ### Reads -/

/-- Below the CAP block a read answers the register as it stands, with no table brought up to date first. -/
theorem State.barRead_low {s : State} {o : Nat} (key n : Nat) (hs : s.barUp 0 = true) (ho : o < 0x2_0000) :
    s.barRead 0 o key n = if (n = 4 ∨ n = 8) ∧ o % n = 0 then
      if !s.reached 0 o then s.answer 0 else if n = 4 then s.read4 0 o key else s.read8 0 o else s := by
  have hcap : ¬(0x2_0000 ≤ o ∧ o < 0x3_0000) := by omega
  simp [State.barRead, hs, hcap]

/-- A read of another size, or not aligned, has no effect (R468). -/
theorem State.barRead_misfit {s : State} {o : Nat} (key n : Nat) (hs : s.barUp 0 = true) (ho : o < 0x2_0000)
    (hn : (n ≠ 4 ∧ n ≠ 8) ∨ o % n ≠ 0) : s.barRead 0 o key n = s := by
  rw [State.barRead_low key n hs ho, if_neg (by omega)]

/-- A register that the host does not reach yet reads 0 (R441). -/
theorem State.barRead_unreached {s : State} {o : Nat} (key : Nat) {n : Nat} (hs : s.barUp 0 = true) (ho : o < 0x2_0000)
    (hr : s.reached 0 o = false) (hn : n = 4 ∨ n = 8) (ha : o % n = 0) : s.barRead 0 o key n = { s with readData := 0 } := by
  rw [State.barRead_low key n hs ho, if_pos ⟨hn, ha⟩, hr]
  rfl

/-- A 4-byte read of a word that is no half of a 64-bit register answers it and clears what reading clears (R4, R5). -/
theorem State.barRead_word {s : State} {o : Nat} (key : Nat) (hs : s.barUp 0 = true) (ho : o < 0x2_0000) (hr : s.reached 0 o = true)
    (ha : o % 4 = 0) (hl : wideAt 0 o = false) (hh : wideAt 0 (o - 4) = false) :
    s.barRead 0 o key 4 = (s.rcClear o).answer (s.word 0 o) := by
  have hread : s.read4 0 o key = (s.rcClear o).answer (s.word 0 o) := by
    simp only [State.read4, hl, hh]
    cases mapFind s.highHeld (key - 4) <;> simp
  simp [State.barRead_low key 4 hs ho, ha, hr, hread]

theorem State.rcClear_boot (s : State) {o : Nat} (h : o < 0x1000) : s.rcClear o = s := by simp [State.rcClear, h]

/-- Reading `KV_VERIFY_FAIL` clears it (R5, R391). -/
theorem State.rcClear_verifyFail {s : State} (h : s.served = true) : s.rcClear 0x6038 = { s with keys := { s.keys with verifyFail := 0 } } := by
  simp [State.rcClear, h, State.clearKey, State.onKeys]

/-! ### Writes -/

/-- A write of another size, or not aligned, has no effect (R468). -/
theorem State.barWrite_misfit (s : State) {o : Nat} (f key : Nat) {n : Nat} (v : Nat) (hn : (n ≠ 4 ∧ n ≠ 8) ∨ o % n ≠ 0) :
    s.barWrite f o key n v = s := by
  have h4 : ¬(n = 4 ∧ o % 4 = 0) := by rintro ⟨rfl, h⟩; omega
  have h8 : ¬(n = 8 ∧ o % 8 = 0) := by rintro ⟨rfl, h⟩; omega
  rw [State.barWrite, if_neg h4, if_neg h8, ite_self]

/-- A write of a register that the host does not reach yet is ignored (R441). -/
theorem State.barWrite_unreached {s : State} {f o : Nat} (key n v : Nat) (hr : s.reached f o = false) : s.barWrite f o key n v = s := by
  simp [State.barWrite, hr]

/-- A 4-byte write to a register that is reached (R468). -/
theorem State.barWrite_word {s : State} {f o : Nat} (key : Nat) {v : Nat} (hs : s.barUp f = true) (hr : s.reached f o = true)
    (ha : o % 4 = 0) (hv : v < 2 ^ 32) : s.barWrite f o key 4 v = s.write4 f o key v := by
  rw [State.barWrite, if_neg (by simp [hs, hr]), if_pos ⟨rfl, ha⟩, Nat.mod_eq_of_lt hv]

/-- The high word of a 64-bit register brings the low word that is held (R4). -/
theorem State.write4_high {s : State} {f o key w : Nat} (v : Nat) (hl : wideAt f o = false) (ha : o % 8 = 4)
    (hh : wideAt f (o - 4) = true) (hw : mapFind s.lowHeld (key - 4) = some w) :
    s.write4 f o key v = (s.put f (o - 4) (w + 2 ^ 32 * v)).onLowHeld fun m => mapDel m (key - 4) := by
  simp [State.write4, hl, ha, hh, hw, at', Nat.mul_comm v]

theorem State.put_bootBus {s : State} {x : Nat} (ha : x % 64 = 0) (hx : x < 2 ^ 64) :
    s.put 0 0x010 x = { s with boot := { s.boot with bus := x } } := by
  have : dropLow x 6 = x := by unfold dropLow; omega
  simp [State.put, State.pfWrite, State.writeBoot, this, State.onBoot]

/-- The power cap's shadow takes a value of its range and keeps the old one against another (R8, R436). -/
theorem State.write4_cap {s : State} (key : Nat) {v : Nat} (hs : s.served = true) (hv : v < 65536) :
    s.write4 0 0x4_0000 key v = { s with power := { s.power with shadow := { s.power.shadow with
      cap := if 500 ≤ v ∧ v ≤ 3300 then v else s.power.shadow.cap } } } := by
  have hb : bits v 15 0 = v := by unfold bits; omega
  have hw : wideAt 0 0x4_0000 = false := by decide
  simp [State.write4, hw, State.put, State.pfWrite, hs, State.writePwr, State.onPwrShadow, State.onPower, fieldWrite, hb]

/-! ### The statement -/

/-- Settles O48: every clause is one access to BAR0 of the PF, read off the rules for a read or a write there. -/
theorem registersAreReadAndWritten : Obligations.RegistersAreReadAndWritten := by
  unfold Obligations.RegistersAreReadAndWritten
  refine ⟨⟨?bootRead, ?earlyRead, ?clearingRead, ?misfitRead, fun s o n v h => exec_register_outside s n v h⟩,
    ?lowWord, ?highWord, ?capTaken, ?capReserved, ?earlyWrite, ?misfitWrite⟩
  case bootRead =>
    intro s o hd ho ha hl hh
    rw [exec_rcRegisterRead_pf s 4 (by omega),
      State.barRead_word o (State.barUp_of_d3 hd) (by omega) (s.reached_boot ho) ha hl hh, s.rcClear_boot ho]
    rfl
  case earlyRead =>
    intro s o n hd hb h1 h2 hn ha
    rw [exec_rcRegisterRead_pf s n (by omega),
      State.barRead_unreached o (State.barUp_of_d3 hd) h2 (State.not_reached hb h1) hn ha]
  case clearingRead =>
    intro s h
    rw [exec_rcRegisterRead_pf s 4 (by omega),
      State.barRead_word _ (State.barUp_of_host h) (by omega) (State.reached_of_host h 0 _) (by omega) (by decide) (by decide),
      State.rcClear_verifyFail (State.served_of_host h)]
    rfl
  case misfitRead =>
    intro s o n hd ho hn
    rw [exec_rcRegisterRead_pf s n (by omega), State.barRead_misfit o n (State.barUp_of_d3 hd) ho hn]
  case lowWord =>
    intro s v hd hv
    rw [exec_registerWrite_pf s 4 v (by omega),
      State.barWrite_word _ (State.barUp_of_d3 hd) (s.reached_boot (by omega)) (by omega) hv]
    rfl
  case highWord =>
    intro s v w hd hv hw ha hheld
    rw [exec_registerWrite_pf s 4 v (by omega),
      State.barWrite_word _ (State.barUp_of_d3 hd) (s.reached_boot (by omega)) (by omega) hv,
      State.write4_high v (by decide) (by omega) (by decide) hheld, State.put_bootBus (by omega) (by omega)]
    rfl
  case capTaken =>
    intro s v h hlo hhi
    rw [exec_registerWrite_pf s 4 v (by omega), State.barWrite_word _ (State.barUp_of_host h) (State.reached_of_host h 0 _) (by omega) (by omega),
      State.write4_cap _ (State.served_of_host h) (by omega), if_pos ⟨hlo, hhi⟩]
  case capReserved =>
    intro s v h hv
    rw [exec_registerWrite_pf s 4 v (by omega), State.barWrite_word _ (State.barUp_of_host h) (State.reached_of_host h 0 _) (by omega) (by omega),
      State.write4_cap _ (State.served_of_host h) (by omega), if_neg (by omega)]
  case earlyWrite =>
    intro s o n v hd hb h1 h2
    rw [exec_registerWrite_pf s n v (by omega), State.barWrite_unreached o n v (State.not_reached hb h1)]
  case misfitWrite =>
    intro s o n v hd ho hn
    rw [exec_registerWrite_pf s n v (by omega), State.barWrite_misfit s 0 o v hn]

end Sys2Proof.Machine
end

section
/-! Soanduo Link ports as the statements speak of them (R166 to R192): what each operation of a port changes and what it leaves. -/

namespace Sys2Proof.Machine
open Sys2Proof Sys2Proof.Safety

/-! ### One port changes -/

theorem onlyPort_onPort (s : State) (k : Nat) (f : Port → Port) : OnlyPort s (s.onPort k f) k :=
  ⟨rfl, fun _ hj => State.port_onPort_other s f hj⟩

theorem onlyPort_trans {s t u : State} {k : Nat} (h : OnlyPort s t k) (h' : OnlyPort t u k) : OnlyPort s u k := by
  obtain ⟨ht, hp⟩ := h
  obtain ⟨hu, hq⟩ := h'
  refine ⟨?_, fun j hj => (hq j hj).trans (hp j hj)⟩
  calc u = { t with links := { t.links with ports := u.links.ports } } := hu
    _ = { s with links := { s.links with ports := u.links.ports } } := by rw [ht]

/-- What a change makes of the port it is given is all that counts. -/
theorem State.onPort_congr {s : State} {k : Nat} {f g : Port → Port} (h : f (s.port k) = g (s.port k)) : s.onPort k f = s.onPort k g := by
  change { s with links := { s.links with ports := mapSet Port.off s.links.ports k (f (s.port k)) } } = _
  rw [h]
  rfl

theorem sat32_one (n : Nat) : sat32 n 1 = min (n + 1) (2 ^ 32 - 1) := by
  unfold sat32
  split <;> omega

/-- A discarded flit is counted at its port, up to the counter's last value (R171). -/
theorem State.discardFlit_spec (s : State) (k : Nat) : OnlyPort s (s.discardFlit k) k ∧
    (s.discardFlit k).port k = { s.port k with discards := min ((s.port k).discards + 1) (2 ^ 32 - 1) } := by
  refine ⟨onlyPort_onPort s k _, ?_⟩
  rw [State.discardFlit, State.port_onPort_same, sat32_one]

/-! ### Heads of messages (R7 to R9) -/

/-- A message whose head is not good is not acted on. -/
theorem ignored_of_head {x : Headed} (h : x.ok = false) (s u : State) :
    (.next (if !x.ok then s else u) : Host.Outcome State Fault Refusal) = .next s := by simp [h]

/-- A flit with such a head is discarded. -/
theorem discarded_of_head {x : Headed} (h : x.ok = false) (s u : State) :
    (.next (if !x.ok then s.discardFlit x.val else u) : Host.Outcome State Fault Refusal) = .next (s.discardFlit x.val) := by simp [h]

theorem exec_idleFlit_badHead {x : Headed} (h : x.ok = false) (s : State) :
    exec (.idleFlitReceive x) s = .next (s.discardFlit x.val) := by
  change Host.Outcome.next (if x.ok then s else s.discardFlit x.val) = _
  simp [h]

/-! ### Curd flits (R170 to R174, R188 to R190) -/

/-- The queues of a link router's port after half `h` of a slot has left. -/
def dropTx (slot h : Nat) (q : SMap (List Slot)) : SMap (List Slot) := mapSet [] q (txKey slot h) ((mapGet [] q (txKey slot h)).drop 1)

/-- Each half of a slot leaves its own queue. -/
theorem mapGet_dropTx (slot : Nat) (q : SMap (List Slot)) {h : Nat} (hh : h < 2) :
    mapGet [] (dropTx slot 1 (dropTx slot 0 q)) (txKey slot h) = (mapGet [] q (txKey slot h)).drop 1 := by
  have hne : txKey slot 0 ≠ txKey slot 1 := by simp [txKey]
  obtain rfl | rfl : h = 0 ∨ h = 1 := by omega
  · simp [dropTx, mapGet_set_other, hne]
  · simp [dropTx, mapGet_set_other, hne.symm]

/-- The flit that takes a claimed slot in a step the package runs. -/
def State.slotFlit (s : State) (k slot vat : Nat) (x : LinkEnt) (a b : Slot) : Flit :=
  ⟨0x1000, 1, ((s.port k).session vat).getD 0, 0, voidMask a b, owingNode s.links.node a b, 0, x.flow, s.now % 65536, slot,
    fitBytes 128 a.data ++ fitBytes 128 b.data, false⟩

/-- The message of a flit sent by a port. -/
def flitMsg (k : Nat) (f : Flit) : Msg :=
  ⟨"FLIT", k, [f.format, f.kind, f.session, f.cls, f.sub, f.srcNode, f.dst, f.flow, f.txTick, f.arg], f.payload⟩

theorem State.sendFlit_eq (s : State) (k : Nat) (f : Flit) :
    s.sendFlit k f = (s.onOut fun o => o ++ [flitMsg k f]).onPort k fun p => { p with used := p.used + 1 } := rfl

/-- A claimed slot of an Active port leaves with the two halves its link routers hold or else are given (R170, R174). -/
theorem State.transmit_live {s : State} {k slot vat : Nat} (h0 h1 : Slot) {x : LinkEnt} (hact : (s.port k).state = .active)
    (hclaim : s.claimAt k 0 slot s.now = some (vat, x)) (hstep : ((s.vat? vat).bind (·.step)).isSome = true)
    (hsent : (s.now, slot) ∉ (s.port k).sentSlots) (hstale : vat ∉ (s.port k).stale) :
    s.transmit k slot h0 h1 = (s.sendFlit k (s.slotFlit k slot vat x (s.halfOut k slot 0 h0) (s.halfOut k slot 1 h1))).onPort k fun p =>
      { p with sentSlots := p.sentSlots ++ [(s.now, slot)], txq := dropTx slot 1 (dropTx slot 0 p.txq) } := by
  have hrun : (((s.vat? vat).bind (·.step)).isNone || decide ((s.port k).state = .fenced)) = false := by
    simp [hact, Option.isNone_eq_false_iff.mpr hstep]
  simp only [State.transmit, hclaim, hrun]
  simp [hsent, hstale, State.slotFlit, dropTx]

/-- A flit that is not of this slot, or whose format is reserved, is discarded and counted (R171). -/
theorem State.curdArrives_other (s : State) {k slot : Nat} {fl : Flit} (hb : fl.bad = false) (h : fl.format ≠ 0x1000 ∨ fl.arg ≠ slot) :
    s.curdArrives k slot fl = s.discardFlit k := by
  unfold State.curdArrives State.discardFlit
  rcases h with h | h
  · simp [hb, curdFlitOk, h]
  · simp [hb, h]

/-- A curd flit of the Tick at hand that is what the claim expects, the first one for its slot, is kept for delivery 7 Ticks later (R171, R174). -/
theorem State.curdArrives_expected {s : State} {k slot vat : Nat} {fl : Flit} {x : LinkEnt} (hb : fl.bad = false)
    (hok : curdFlitOk fl = true) (harg : fl.arg = slot) (htick : fl.txTick = s.rxTick k % 65536)
    (hclaim : s.claimAt k 1 slot (s.rxTick k) = some (vat, x)) (hflow : x.flow = fl.flow)
    (hses : (s.port k).session vat = some fl.session) (hl : (s.port k).landing = []) :
    s.curdArrives k slot fl = s.onPort k fun p => { p with landing := p.landing ++ [(s.rxTick k + 7, slot, fl)] } := by
  have hnow : ¬(1 ≤ s.rxTick k ∧ fl.txTick = (s.rxTick k - 1) % 65536) := by omega
  simp only [State.curdArrives, hb, if_neg hnow, hclaim, Bool.false_eq_true, if_false]
  apply State.onPort_congr
  simp [hok, harg, htick, hflow, hses, hl]

/-- The port's entries for a delivery: the slot is done, its flit is taken, and a void in its place is counted (R188, R190). -/
def Port.delivered (now slot : Nat) (hit : Bool) (p : Port) : Port :=
  { p with
    doneSlots := p.doneSlots ++ [(now, slot)], landing := p.landing.filter fun e => !decide (e.1 = now ∧ e.2.1 = slot),
    voidIns := if hit then p.voidIns else sat32 p.voidIns 1 }

/-- The two halves of a flit land at the link router of its slot. -/
def State.landPair (s : State) (k slot : Nat) (a b : Slot) : State := (s.landSlot k slot 0 a).landSlot k slot 1 b

theorem State.landPair_last (s : State) (k slot : Nat) (a b : Slot) :
    (mapGet [] ((s.landPair k slot a b).router (linkRouter k slot)).landing 0).getLast? = some a ∧
    (mapGet [] ((s.landPair k slot a b).router (linkRouter k slot)).landing 1).getLast? = some b := by
  simp [State.landPair, State.landSlot, mapGet_put_same, mapGet_put_other]

/-- A landing changes the routers alone. -/
theorem State.landPair_eq (s : State) (k slot : Nat) (a b : Slot) :
    s.landPair k slot a b = { s with routers := (s.landPair k slot a b).routers } := by
  unfold State.landPair State.landSlot
  generalize linkRouter k slot = r
  rfl

@[simp] theorem State.port_landPair (s : State) (k slot : Nat) (a b : Slot) (j : Nat) : (s.landPair k slot a b).port j = s.port j := by
  rw [State.landPair_eq]
  rfl

/-- What the time master has recorded of its nodes depends on the vats and their roles alone. -/
theorem State.newDown_congr {s t : State} (hv : t.vats = s.vats) (hr : t.roles = s.roles) (vat node : Nat) :
    t.newDown vat node = s.newDown vat node := by
  have hvat : t.vat? vat = s.vat? vat := congrArg (mapFind · vat) hv
  have hrole (v : Nat) : t.role v = s.role v := congrArg (mapGet VatRole.empty · v) hr
  have hfrom (v : Vat) : t.stepFrom v = s.stepFrom v := by rw [State.stepFrom, State.stepFrom, hrole]
  simp only [State.newDown, hvat, hrole, hfrom]

/-- Where no flit is due a void that names the peer lands in both halves (R188). -/
theorem State.deliver_void {s : State} {k slot vat : Nat} {x : LinkEnt} (h7 : 7 ≤ s.now) (hdone : (s.now, slot) ∉ (s.port k).doneSlots)
    (hclaim : s.claimAt k 1 slot (s.now - 7) = some (vat, x)) (hl : (s.port k).landing = [])
    (hnew : s.newDown vat (s.port k).peer = false) :
    s.deliver k slot = (s.onPort k (Port.delivered s.now slot false)).landPair k slot
      ⟨voidBytes (s.port k).peer, true⟩ ⟨voidBytes (s.port k).peer, true⟩ := by
  have hnew' (f : Port → Port) (a b : Slot) :
      ((s.onPort k f).landPair k slot a b).newDown vat (s.port k).peer = false := by
    rw [← hnew]
    apply State.newDown_congr
    · rw [State.landPair_eq]
      rfl
    · rw [State.landPair_eq]
      rfl
  have hlt : ¬ s.now < 7 := by omega
  unfold State.deliver
  simp only [hlt, List.contains_eq_mem, hdone, hclaim, hl, List.find?_nil, ite_self, decide_false, Bool.false_eq_true, or_self, if_false]
  unfold State.voidLands
  rw [← State.landPair, hnew']
  rfl

/-- A flit that is due, neither of its halves void, lands whole (R174). -/
theorem State.deliver_flit {s : State} {k slot vat : Nat} {x : LinkEnt} {fl : Flit} (h7 : 7 ≤ s.now)
    (hdone : (s.now, slot) ∉ (s.port k).doneSlots) (hclaim : s.claimAt k 1 slot (s.now - 7) = some (vat, x))
    (hact : (s.port k).state = .active) (hl : (s.port k).landing = [(s.now, slot, fl)]) (hstale : vat ∉ (s.port k).stale)
    (hsub : fl.sub = 0) :
    s.deliver k slot = (s.onPort k (Port.delivered s.now slot true)).landPair k slot
      ⟨fitBytes 128 (fl.payload.take 128), false⟩ ⟨fitBytes 128 (fl.payload.drop 128), false⟩ := by
  have hlt : ¬ s.now < 7 := by omega
  have hbit (i : Nat) : bit fl.sub i = false := by simp [hsub, bit]
  have hfind : [(s.now, slot, fl)].find? (fun e => decide (e.1 = s.now ∧ e.2.1 = slot)) = some (s.now, slot, fl) := by simp
  unfold State.deliver
  simp only [hlt, List.contains_eq_mem, hdone, hclaim, hact, hstale, hl, hfind, hbit, decide_false, Bool.false_eq_true, or_self, if_false,
    Bool.not_false, and_self, if_true]
  rfl

/-- What a delivery changes: the port, and the link router its slot's two halves land at; the slot is done (R174, R190). -/
theorem State.landed_spec (s : State) (k slot : Nat) (hit : Bool) (a b : Slot) :
    let t := (s.onPort k (Port.delivered s.now slot hit)).landPair k slot a b
    t.port k = (s.port k).delivered s.now slot hit ∧ (s.now, slot) ∈ (t.port k).doneSlots ∧
      (mapGet [] (t.router (linkRouter k slot)).landing 0).getLast? = some a ∧
      (mapGet [] (t.router (linkRouter k slot)).landing 1).getLast? = some b ∧
      t = { s with routers := t.routers, links := { s.links with ports := t.links.ports } } := by
  intro t
  have hport : t.port k = (s.port k).delivered s.now slot hit := by rw [State.port_landPair, State.port_onPort_same]
  obtain ⟨hfirst, hsecond⟩ := State.landPair_last (s.onPort k (Port.delivered s.now slot hit)) k slot a b
  refine ⟨hport, ?_, hfirst, hsecond, ?_⟩
  · rw [hport]
    exact List.mem_append_right _ List.mem_cons_self
  · exact State.landPair_eq (s.onPort k (Port.delivered s.now slot hit)) k slot a b

/-- A slot without a claim, or delivered in this Tick before, delivers nothing (R190). -/
theorem State.deliver_idle (s : State) {k slot : Nat}
    (h : s.claimAt k 1 slot (s.now - 7) = none ∨ (s.now, slot) ∈ (s.port k).doneSlots) : s.deliver k slot = s := by
  unfold State.deliver
  rcases h with h | h
  · simp [h]
  · simp [h]

end Sys2Proof.Machine
end

section
/-! Whey flits, Tick markers and port down (R169, R176, R177, R179, R184, R191), the by-pass and the link keys (R185, R383). -/

namespace Sys2Proof.Machine
open Sys2Proof Sys2Proof.Safety

/-! ### Whey flits (R176, R177) -/

/-- A good flit with room in its channel's buffer joins it. -/
theorem State.wheyArrives_good {s : State} {k vc : Nat} {fl : Flit} (hk : k % 4 ≠ 3) (hvc : vc ≤ 1) (hok : wheyFlitOk fl = true)
    (hb : fl.bad = false) (hroom : (s.port k).buffered vc < 512) :
    s.wheyArrives k vc fl = s.onPort k fun p => { p with whey := mapPut p.whey vc (mapGet [] p.whey vc ++ [fl]) } := by
  have h1 : ¬ 1 < vc := by omega
  have h2 : ¬ wheyBuffer ≤ (s.port k).buffered vc := Nat.not_le.mpr hroom
  apply State.onPort_congr
  simp [hb, hok, isAux, hk, h1, h2]

/-- A flit at an Aux port, on a channel above 1, with a reserved value or past the buffer's room is discarded and counted. -/
theorem State.wheyArrives_bad {s : State} {k vc : Nat} {fl : Flit} (hb : fl.bad = false)
    (h : k % 4 = 3 ∨ 1 < vc ∨ wheyFlitOk fl = false ∨ 512 ≤ (s.port k).buffered vc) : s.wheyArrives k vc fl = s.discardFlit k := by
  have hno : (!wheyFlitOk fl || isAux k || decide (1 < vc ∨ wheyBuffer ≤ (s.port k).buffered vc)) = true := by
    rcases h with h | h | h | h
    · simp [isAux, h]
    · simp [h]
    · simp [h]
    · simp [wheyBuffer, h]
  apply State.onPort_congr
  simp only [hb, hno, Bool.false_eq_true, if_false, if_true]

/-! ### Waiting packets (R176) -/

/-- Where no packet waits for a link none moves. -/
theorem State.wheyMove_idle {s : State} (h : ∀ c < 17, s.heldIn c = []) : s.wheyMove = s := by
  have hlen : (List.range 17).map (fun c => (s.heldIn c).length) = (List.range 17).map fun _ => 0 :=
    List.map_congr_left fun c hc => by rw [h c (List.mem_range.mp hc)]; rfl
  unfold State.wheyMove
  rw [hlen]
  rfl

/-- What waits is that of the ports' buffers and the package's own packets. -/
theorem State.heldIn_congr {s t : State} (hp : ∀ j d, mapGet [] (t.port j).held d = mapGet [] (s.port j).held d)
    (ho : t.links.own = s.links.own) (c : Nat) : t.heldIn c = s.heldIn c := by
  simp only [State.heldIn, hp, ho]

/-- A change of a port that leaves its buffered packets leaves what waits. -/
theorem State.heldIn_onPort (s : State) (k : Nat) {f : Port → Port}
    (h : ∀ d, mapGet [] (f (s.port k)).held d = mapGet [] (s.port k).held d) (c : Nat) : (s.onPort k f).heldIn c = s.heldIn c := by
  refine State.heldIn_congr (s := s) (t := s.onPort k f) (fun j d => ?_) rfl c
  by_cases hj : j = k
  · rw [hj, State.port_onPort_same, h]
  · rw [State.port_onPort_other s f hj]

/-- A port whose channel holds no flit of a whole packet: its buffers as they were, in their canonical form. -/
def Port.drained (vc : Nat) (p : Port) : Port :=
  { p with whey := mapSet [] p.whey vc [], held := mapSet [] p.held vc (mapGet [] p.held vc ++ []) }

theorem Port.drained_held (vc : Nat) (p : Port) (d : Nat) : mapGet [] (p.drained vc).held d = mapGet [] p.held d := by
  simp only [Port.drained, List.append_nil, mapGet_set]
  split
  · next h => rw [h]
  · rfl

/-- Where no flit waits for its marker and no packet for a link, a marker's tag moves nothing. -/
theorem State.drainWhey_idle {s : State} {k : Nat} (vc : Nat) (hw : (s.port k).whey = []) (hheld : ∀ c < 17, s.heldIn c = []) :
    s.drainWhey k vc = s.onPort k (Port.drained vc) ∧ ((s.drainWhey k vc).port k).whey = [] ∧
      ∀ c < 17, (s.drainWhey k vc).heldIn c = [] := by
  have hkept : ∀ c < 17, (s.onPort k (Port.drained vc)).heldIn c = [] := fun c hc => by
    rw [State.heldIn_onPort s k (Port.drained_held vc (s.port k)), hheld c hc]
  have heq : s.drainWhey k vc = s.onPort k (Port.drained vc) := by
    unfold State.drainWhey
    rw [hw, mapGet_nil]
    exact State.wheyMove_idle hkept
  rw [heq]
  refine ⟨rfl, ?_, hkept⟩
  rw [State.port_onPort_same, Port.drained, hw]
  simp [mapSet, mapDel]

/-- The two channels drained, only what the port's record of its packets looks like may differ. -/
theorem State.drainBoth_idle {s : State} {k : Nat} (hw : (s.port k).whey = []) (hheld : ∀ c < 17, s.heldIn c = []) :
    OnlyPort s ((s.drainWhey k 0).drainWhey k 1) k ∧
      ∃ held, ((s.drainWhey k 0).drainWhey k 1).port k = { s.port k with held := held } := by
  obtain ⟨h0, hw0, hheld0⟩ := State.drainWhey_idle 0 hw hheld
  obtain ⟨h1, hw1, -⟩ := State.drainWhey_idle 1 hw0 hheld0
  refine ⟨?_, (((s.drainWhey k 0).drainWhey k 1).port k).held, ?_⟩
  · rw [h1, h0]
    exact onlyPort_trans (onlyPort_onPort s k _) (onlyPort_onPort _ k _)
  · have hrest : ((s.drainWhey k 0).drainWhey k 1).port k =
        { s.port k with whey := (((s.drainWhey k 0).drainWhey k 1).port k).whey,
                        held := (((s.drainWhey k 0).drainWhey k 1).port k).held } := by
      rw [h1, State.port_onPort_same, h0, State.port_onPort_same]
      rfl
    rw [hw1, ← hw] at hrest
    exact hrest

/-! ### Port down (R191) -/

/-- A port as it goes Down: the time, and nothing kept of what it received or had to send. -/
def Port.fallen (p : Port) (now : Nat) : Port :=
  { p.enter .down now with landing := [], whey := [], held := [], txq := [], badTicks := 0, lost := 0 }

/-- With no multicast standing at its source none is lost (R193). -/
theorem State.mcLost_none {s : State} {node : Nat} (h : s.links.mcOut = []) : s.mcLost node = s := by simp [State.mcLost, h]

/-- With no vat on the port and no multicast standing, nobody else is told: the port falls and `PORT_DOWN` is recorded. -/
theorem State.portDown_alone {s : State} {k : Nat} (hv : (s.port k).vats = []) (hm : s.links.mcOut = []) :
    s.portDown k = (s.onPort k fun p => p.fallen s.now).note (portSource k) "PORT_DOWN" k := by
  unfold State.portDown
  simp only [hv, List.foldl_nil]
  exact State.mcLost_none hm

/-- Recording an event leaves every port. -/
@[simp] theorem State.port_note (s : State) (src : Nat) (what : String) (arg j : Nat) : (s.note src what arg).port j = s.port j := by
  obtain ⟨es, qs, h⟩ := s.note_frame src what arg
  rw [h]
  rfl

/-- What a port that goes Down leaves, said once: the port, the others, the event, the rest of the package. -/
theorem State.portDown_spec {s : State} {k : Nat} (hv : (s.port k).vats = []) (hm : s.links.mcOut = []) :
    (s.portDown k).port k = (s.port k).fallen s.now ∧ (∀ j, j ≠ k → (s.portDown k).port j = s.port j) ∧
      (∃ e ∈ (s.portDown k).events, e.what = "PORT_DOWN" ∧ e.tick = s.now) ∧
      s.portDown k = { s with
        links := { s.links with ports := (s.portDown k).links.ports }, events := (s.portDown k).events, seqs := (s.portDown k).seqs } := by
  rw [State.portDown_alone hv hm]
  refine ⟨?_, fun j hj => ?_, ⟨_, State.note_mem _ _ _ _, rfl, rfl⟩, ?_⟩
  · rw [State.port_note, State.port_onPort_same]
  · rw [State.port_note, State.port_onPort_other s _ hj]
  · obtain ⟨es, qs, h⟩ := (s.onPort k fun p => p.fallen s.now).note_frame (portSource k) "PORT_DOWN" k
    rw [h]
    rfl

/-! ### Markers (R169, R179, R184) -/

/-- The port after its codewords' errors are counted and the flits the marker does not authenticate are rejected. -/
def Port.hear (p : Port) (m : Marker) (t : Nat) : Port :=
  { p.authenticate m (t - 1) with feCe := sat32 p.feCe m.corrected, feUe := sat32 p.feUe m.lostWords }

/-- The port after a marker that is present and has no reserved value: its credits, and its Tick against the one expected. -/
def Port.accept (p : Port) (m : Marker) (t : Nat) : Port :=
  { p.takeCredits m with badTicks := 0, voidFrom := none, lost := if m.tickLow = t % 2 ^ 32 then 0 else p.lost + 1 }

/-- Hearing a marker leaves the port's service, its faults, its vats and its whole packets. -/
theorem Port.hear_rest (p : Port) (m : Marker) (t : Nat) : (p.hear m t).state = p.state ∧ (p.hear m t).badTicks = p.badTicks ∧
    (p.hear m t).lost = p.lost ∧ (p.hear m t).vats = p.vats ∧ (p.hear m t).held = p.held := by
  simp only [Port.hear, Port.authenticate, and_self]

/-- A marker that is missing, or that has a reserved value, counts against the port and does nothing else to its service (R179). -/
theorem State.marker_missing {s : State} {k : Nat} {m : Marker} (h : m.present = false ∨ m.hdr.ok = false) :
    OnlyPort s (s.marker k m) k ∧ ((s.marker k m).port k).badTicks = (s.port k).badTicks + 1 ∧
      ((s.marker k m).port k).state = (s.port k).state := by
  have hmiss : (!m.present || !m.hdr.ok) = true := by
    rcases h with h | h
    · simp [h]
    · simp [h]
  have heq : s.marker k m = (s.onPort k fun p => p.hear m (s.rxTick k)).onPort k fun p =>
      { p with badTicks := p.badTicks + 1, voidFrom := some (p.voidFrom.getD (s.rxTick k + 6)) } := by
    simp only [State.marker, hmiss, if_true]
    rfl
  rw [heq]
  refine ⟨onlyPort_trans (onlyPort_onPort s k _) (onlyPort_onPort _ k _), ?_⟩
  obtain ⟨hstate, hbad, -⟩ := Port.hear_rest (s.port k) m (s.rxTick k)
  rw [State.port_onPort_same, State.port_onPort_same, hstate, hbad]
  exact ⟨rfl, rfl⟩

/-- With no whey in its buffer a marker rejects none: no flit is left, and what it may send stays. -/
theorem Port.hear_quiet {p : Port} (m : Marker) (t : Nat) (hw : p.whey = []) :
    (p.hear m t).whey = [] ∧ ∀ c, 2 ≤ c → mapGet 0 (p.hear m t).credits c = mapGet 0 p.credits c := by
  refine ⟨?_, fun c hc => ?_⟩
  · simp [Port.hear, Port.authenticate, hw]
  · have h0 : c ≠ 0 := by omega
    have h1 : c ≠ 1 := by omega
    simp [Port.hear, Port.authenticate, mapGet_set_other, h0, h1]

/-- The credits of an accepted marker join those the port may send on each channel (R169, R176). -/
theorem Port.accept_credits (p : Port) (m : Marker) (t : Nat) :
    mapGet 0 (p.accept m t).credits 2 = mapGet 0 p.credits 2 + m.creditVc0 ∧
    mapGet 0 (p.accept m t).credits 3 = mapGet 0 p.credits 3 + m.creditVc1 := by
  simp [Port.accept, Port.takeCredits, mapGet_set_other]

/-- Accepting it clears what counted against the port but the wrong Ticks in a row. -/
theorem Port.accept_rest (p : Port) (m : Marker) (t : Nat) : (p.accept m t).state = p.state ∧ (p.accept m t).badTicks = 0 ∧
    (p.accept m t).voidFrom = none ∧ (p.accept m t).vats = p.vats ∧ (p.accept m t).held = p.held ∧
    (p.accept m t).lost = if m.tickLow = t % 2 ^ 32 then 0 else p.lost + 1 := by
  simp only [Port.accept, Port.takeCredits, and_self]

/-- A port with no whey in its buffer, and no packet waiting for a link, takes a marker: only the port changes, and it goes Down where the
marker's Tick was wrong twice in a row. -/
theorem State.marker_quiet {s : State} {k : Nat} {m : Marker} (hp : m.present = true) (hh : m.hdr = MsgHdr.good)
    (hheld : ∀ c < 17, s.heldIn c = []) (hw : (s.port k).whey = []) :
    ∃ u : State, OnlyPort s u k ∧ (∃ held, u.port k = { ((s.port k).hear m (s.rxTick k)).accept m (s.rxTick k) with held := held }) ∧
      s.marker k m = if 2 ≤ (u.port k).lost then (u.portDown k).onPort k fun p => { p with last := 0x0606 } else u := by
  have hhead : (!m.present || !m.hdr.ok) = false := by rw [hp, hh]; rfl
  generalize hu : (s.onPort k fun p => p.hear m (s.rxTick k)).onPort k (fun p => p.accept m (s.rxTick k)) = u
  have hport : u.port k = ((s.port k).hear m (s.rxTick k)).accept m (s.rxTick k) := by
    rw [← hu, State.port_onPort_same, State.port_onPort_same]
  have honly : OnlyPort s u k := by
    rw [← hu]
    exact onlyPort_trans (onlyPort_onPort s k _) (onlyPort_onPort _ k _)
  obtain ⟨-, -, -, -, hearHeld⟩ := Port.hear_rest (s.port k) m (s.rxTick k)
  obtain ⟨-, -, -, -, acceptHeld, -⟩ :=
    Port.accept_rest ((s.onPort k fun p => p.hear m (s.rxTick k)).port k) m (s.rxTick k)
  have hkept : ∀ c < 17, u.heldIn c = [] := fun c hc => by
    rw [← hu, State.heldIn_onPort _ k fun _ => by rw [acceptHeld], State.heldIn_onPort s k fun _ => by rw [hearHeld], hheld c hc]
  have hwhey : (u.port k).whey = [] := by
    rw [hport]
    exact (Port.hear_quiet m (s.rxTick k) hw).1
  have hmark : s.marker k m =
      (fun v : State => if 2 ≤ (v.port k).lost then (v.portDown k).onPort k fun p => { p with last := 0x0606 } else v)
        (if markerOk m 0 then (u.drainWhey k 0).drainWhey k 1 else u.wheyMove) := by
    rw [← hu]
    simp only [State.marker, hhead, Bool.false_eq_true, if_false]
    rfl
  cases hok : markerOk m 0 with
  | true =>
    obtain ⟨hd, held, hheld'⟩ := State.drainBoth_idle hwhey hkept
    refine ⟨(u.drainWhey k 0).drainWhey k 1, onlyPort_trans honly hd, ⟨held, by rw [hheld', hport]⟩, ?_⟩
    simp only [hmark, hok, if_true]
  | false =>
    refine ⟨u, honly, ⟨(u.port k).held, by rw [hport]⟩, ?_⟩
    simp only [hmark, hok, Bool.false_eq_true, if_false, State.wheyMove_idle hkept]

/-- A marker with the Tick expected leaves the port in service, nothing counted against it, with the marker's credits (R169, R184). -/
theorem State.marker_rightTick {s : State} {k : Nat} {m : Marker} (hp : m.present = true) (hh : m.hdr = MsgHdr.good)
    (htick : m.tickLow = s.rxTick k % 2 ^ 32) (hheld : ∀ c < 17, s.heldIn c = []) (hw : (s.port k).whey = []) :
    OnlyPort s (s.marker k m) k ∧ ((s.marker k m).port k).state = (s.port k).state ∧ ((s.marker k m).port k).badTicks = 0 ∧
      ((s.marker k m).port k).lost = 0 ∧ ((s.marker k m).port k).voidFrom = none ∧
      mapGet 0 ((s.marker k m).port k).credits 2 = mapGet 0 (s.port k).credits 2 + m.creditVc0 ∧
      mapGet 0 ((s.marker k m).port k).credits 3 = mapGet 0 (s.port k).credits 3 + m.creditVc1 := by
  obtain ⟨u, honly, ⟨held, hport⟩, hmark⟩ := State.marker_quiet hp hh hheld hw
  generalize s.rxTick k = t at htick hport
  obtain ⟨hc2, hc3⟩ := Port.accept_credits ((s.port k).hear m t) m t
  obtain ⟨-, hkeep⟩ := Port.hear_quiet m t hw
  obtain ⟨hstate, -⟩ := Port.hear_rest (s.port k) m t
  obtain ⟨hstate', hbad, hvoid, -, -, hcount⟩ := Port.accept_rest ((s.port k).hear m t) m t
  have hzero : (((s.port k).hear m t).accept m t).lost = 0 := by rw [hcount, if_pos htick]
  have hlost : (u.port k).lost = 0 := by rw [hport, hzero]
  rw [hmark, hlost, if_neg (by omega), hport]
  refine ⟨honly, hstate'.trans hstate, hbad, hzero, hvoid, ?_, ?_⟩
  · rw [hc2, hkeep 2 (by omega)]
  · rw [hc3, hkeep 3 (by omega)]

/-- The second marker in a row with a wrong Tick puts the port Down with 0x0606 (R184). -/
theorem State.marker_wrongTick {s : State} {k : Nat} {m : Marker} (hp : m.present = true) (hh : m.hdr = MsgHdr.good)
    (htick : m.tickLow ≠ s.rxTick k % 2 ^ 32) (hheld : ∀ c < 17, s.heldIn c = []) (hlost : (s.port k).lost = 1)
    (hw : (s.port k).whey = []) (hv : (s.port k).vats = []) (hmc : s.links.mcOut = []) :
    ((s.marker k m).port k).state = .down ∧ ((s.marker k m).port k).last = 0x0606 ∧
      ∃ e ∈ (s.marker k m).events, e.what = "PORT_DOWN" ∧ e.tick = s.now := by
  obtain ⟨u, ⟨hframe, -⟩, ⟨held, hport⟩, hmark⟩ := State.marker_quiet hp hh hheld hw
  generalize s.rxTick k = t at htick hport
  obtain ⟨-, -, hlost₁, hvats₁, -⟩ := Port.hear_rest (s.port k) m t
  obtain ⟨-, -, -, hvats₂, -, hlost₂⟩ := Port.accept_rest ((s.port k).hear m t) m t
  have hlost' : (u.port k).lost = 2 := by rw [hport, hlost₂, if_neg htick, hlost₁, hlost]
  have hv' : (u.port k).vats = [] := by rw [hport, hvats₂, hvats₁, hv]
  have hmc' : u.links.mcOut = [] := by
    rw [hframe]
    exact hmc
  have hnow : u.now = s.now := by
    rw [hframe]
    rfl
  obtain ⟨hdown, -, ⟨e, hmem, hwhat, hat⟩, -⟩ := State.portDown_spec hv' hmc'
  rw [hmark, if_pos (by omega), State.port_onPort_same, hdown]
  exact ⟨rfl, rfl, e, hmem, hwhat, hat.trans hnow⟩

/-! ### The by-pass (R185) -/

theorem bit_eq_bit (v w i : Nat) : bit v i = bit w i ↔ v / 2 ^ i % 2 = w / 2 ^ i % 2 := by
  unfold bit
  have := Nat.mod_two_eq_zero_or_one (v / 2 ^ i)
  have := Nat.mod_two_eq_zero_or_one (w / 2 ^ i)
  constructor
  · intro h
    rw [Bool.eq_iff_iff, beq_iff_eq, beq_iff_eq] at h
    omega
  · intro h
    rw [h]

/-- Which way a pair moves at a write of the positions, if it does. -/
def pairMove (v pairs p : Nat) : Option Bool := if bit v p = bit pairs p then none else some (bit v p)

/-- A write sets the pairs it names moving, each by its own bit, and leaves the others as they were. -/
theorem mapFind_moves (v pairs : Nat) (l : List Nat) (m : SMap Bool) (p : Nat) :
    mapFind (l.foldl (fun m p => if bit v p = bit pairs p then mapDel m p else mapPut m p (bit v p)) m) p =
      if p ∈ l then pairMove v pairs p else mapFind m p := by
  induction l generalizing m with
  | nil => simp
  | cons q l ih =>
    rw [List.foldl_cons, ih]
    by_cases hl : p ∈ l
    · simp [hl]
    · by_cases hq : p = q
      · subst hq
        by_cases hb : bit v p = bit pairs p <;> simp [hl, hb, pairMove]
      · by_cases hb : bit v q = bit pairs q <;> simp [hl, hq, hb, mapFind_del_other, mapFind_put_other]

/-- A write of the positions sets moving the pairs whose position it changes. -/
theorem Links.movePairs_moving (l : Links) (v : Nat) {p : Nat} (hp : p < 4) : mapFind (l.movePairs v).moving p =
    if v / 2 ^ p % 2 = l.pairs / 2 ^ p % 2 then none else some (decide (v / 2 ^ p % 2 = 1)) := by
  refine (mapFind_moves v l.pairs (List.range 4) l.moving p).trans ?_
  rw [if_pos (List.mem_range.mpr hp)]
  simp only [pairMove, bit_eq_bit]
  rfl

theorem State.pairDone_opens {s : State} {p : Nat} (hm : mapFind s.links.moving p = some true) (hb : bit s.links.pairs p = false) :
    s.pairDone p = s.onLinks fun l => { l with moving := mapDel l.moving p, pairs := l.pairs + 2 ^ p } := by
  simp [State.pairDone, hm, State.onLinks, hb]

/-- A pair that closes puts its own Active port Down and leaves a port that is Off. -/
theorem State.pairDone_closes {s : State} {p : Nat} (hm : mapFind s.links.moving p = some false) (hb : bit s.links.pairs p = true)
    (hact : (s.port p).state = .active) (hoff : (s.port (p + 4)).state = .off) (hv : (s.port p).vats = []) (hmc : s.links.mcOut = []) :
    (s.pairDone p).links.pairs = s.links.pairs - 2 ^ p ∧ ((s.pairDone p).port p).state = .down ∧
      ((s.pairDone p).port (p + 4)).state = .off := by
  generalize ht : (s.onLinks fun l => { l with moving := mapDel l.moving p, pairs := l.pairs - 2 ^ p }) = t
  have hport (j : Nat) : t.port j = s.port j := by
    rw [← ht]
    rfl
  obtain ⟨hdown, hothers, -, hframe⟩ := State.portDown_spec (s := t) (k := p) (by rw [hport, hv]) (by rw [← ht]; exact hmc)
  have hleft : ((t.portDown p).port (p + 4)).state = .off := by rw [hothers _ (by omega), hport, hoff]
  have hmove : s.pairDone p = [p, p + 4].foldl (fun t k =>
      if (t.port k).state = .active ∨ (t.port k).state = .fenced then t.portDown k else t) t := by
    rw [← ht]
    simp only [State.pairDone, hm]
    simp [State.onLinks, hb]
  have hdone : s.pairDone p = t.portDown p := by
    rw [hmove]
    simp [hport, hact, hleft]
  rw [hdone]
  refine ⟨?_, by rw [hdown]; rfl, hleft⟩
  rw [hframe, ← ht]
  rfl

theorem two_pow_le_of_bit {v p : Nat} (h : bit v p = true) : 2 ^ p ≤ v := by
  refine Nat.not_lt.mp fun hlt => ?_
  simp [bit, Nat.div_eq_of_lt hlt] at h

/-! ### Link keys (R383) -/

/-- From the switch Tick each Active or Fenced port sends in the new phase, and its sessions await a verify round. -/
theorem State.keySwitch_due {s : State} {e x : Nat} (h : s.keys.pendSwitch = some (e, x)) (hx : x ≤ s.now) :
    s.keySwitch = (s.onKeys fun v => { v with epoch := e, pendSwitch := none }).onLinks fun l =>
      { l with ports := mapAll l.ports fun _ p =>
          if p.state = .active ∨ p.state = .fenced then { p with txPhase := 1 - p.txPhase, verifying := 0 :: p.vats.map (·.2) } else p } := by
  simp [State.keySwitch, h, Nat.not_lt.mpr hx]

/-- The port after a verify round of one of its sessions (R383). -/
def Port.verified (n : Nat) (p : Port) : Port := { p with verifying := p.verifying.filter (· ≠ n) }

/-- A round that fails is counted, and puts the port Down (R383). -/
theorem State.failedRound_spec {s : State} {k : Nat} (n : Nat) (hv : (s.port k).vats = []) (hmc : s.links.mcOut = []) :
    let t := ((s.onPort k (Port.verified n)).onKeys fun v => { v with verifyFail := sat32 v.verifyFail 1 }).portDown k
    (t.port k).state = .down ∧ t.keys.verifyFail = min (s.keys.verifyFail + 1) (2 ^ 32 - 1) := by
  generalize ht : (s.onPort k (Port.verified n)).onKeys (fun v => { v with verifyFail := sat32 v.verifyFail 1 }) = t
  have hport : t.port k = (s.port k).verified n := by
    rw [← ht]
    exact State.port_onPort_same s k _
  obtain ⟨hdown, -, -, hframe⟩ := State.portDown_spec (s := t) (k := k) (by rw [hport]; exact hv) (by rw [← ht]; exact hmc)
  refine ⟨by rw [hdown]; rfl, ?_⟩
  rw [hframe, ← ht]
  exact sat32_one _

theorem PortState.dark_of_mem {p : PortState} (h : p ∈ [PortState.off, .down, .failed]) : p.dark = true := by
  simp only [List.mem_cons, List.not_mem_nil, or_false] at h
  rcases h with rfl | rfl | rfl
  · rfl
  · rfl
  · rfl

/-- With every port out of service the next epoch applies at once (R391). -/
theorem State.regLinkCommit_dark {s : State} {value : Nat} (hb : bit value 0 = true)
    (hdark : ∀ k < 8, (s.port k).state ∈ [PortState.off, .down, .failed]) :
    s.regLinkCommit value = s.onKeys fun v => { v with epoch := v.epochNext, pendSwitch := none } := by
  have hall : ((List.range 8).all fun k => (s.port k).state.dark) = true :=
    List.all_eq_true.mpr fun k hk => PortState.dark_of_mem (hdark k (List.mem_range.mp hk))
  rw [State.regLinkCommit, hb, hall]
  rfl

/-- With a port in service it waits for the switch Tick (R383, R391). -/
theorem State.regLinkCommit_later {s : State} {value k : Nat} (hb : bit value 0 = true) (hk : k < 8) (hact : (s.port k).state = .active) :
    s.regLinkCommit value = s.onKeys fun v => { v with pendSwitch := some (v.epochNext, v.switchNext) } := by
  have hall : ((List.range 8).all fun k => (s.port k).state.dark) = false :=
    List.all_eq_false.mpr ⟨k, List.mem_range.mpr hk, by rw [hact]; decide⟩
  rw [State.regLinkCommit, hb, hall]
  rfl

end Sys2Proof.Machine
end

section
/-! Flits, markers, the by-pass and the link keys at a port: each group of clauses, then the statement. -/

namespace Sys2Proof.Machine
open Sys2Proof Sys2Proof.Safety

/-- Every command whose head is not good is not acted on, and a flit of link control is discarded (R7 to R9, R171). -/
theorem badHeads_ignored {x : Headed} (hx : x.ok = false) (s : State) (a b d e f : Nat) (l : List Nat) (r : Bool) (w : HaltFor) :
    ∀ c ∈ [Instr.memberDown x a b, .halt x a w, .resume x a b l, .memberReady x a b, .boundaryReport x a, .takeover x a,
      .coreRetired x a b, .pageAck x a b d, .heartbeat x r a b d, .gearArm x a b, .gearAck x a b, .gearReq x a, .restReq x a b,
      .mcReserve x a b d e f, .mcGrant x a b, .mcAck x a, .mcCommit x a, .mcCancel x a b], exec c s = .next s := by
  simp only [List.forall_mem_cons]
  refine ⟨?_, ?_, ?_, ?_, ?_, ?_, ?_, ?_, ?_, ?_, ?_, ?_, ?_, ?_, ?_, ?_, ?_, ?_, by simp⟩
  all_goals exact ignored_of_head hx s _

theorem badFlits_discarded {x : Headed} (hx : x.ok = false) (s : State) (a b d e f : Nat) (r : Bool) :
    ∀ c ∈ [Instr.peerId x a b d e f, .echoReq x a b, .echoResp x a b d, .align x a r b, .idleFlitReceive x],
      exec c s = .next (s.discardFlit x.val) := by
  simp only [List.forall_mem_cons]
  refine ⟨?_, ?_, ?_, ?_, exec_idleFlit_badHead hx s, by simp⟩
  all_goals exact discarded_of_head hx s _

theorem exec_linkSlotTransmit_active {s : State} {k slot : Nat} (h0 h1 : Slot) (h : (s.port k).state = .active) :
    exec (.linkSlotTransmit k slot h0 h1) s = .next (s.transmit k slot h0 h1) := congrArg _ (if_pos (.inl h))

theorem exec_curdFlitReceive_active {s : State} {k slot : Nat} (fl : Flit) (h : (s.port k).state = .active) :
    exec (.curdFlitReceive k slot fl) s = .next (s.curdArrives k slot fl) := congrArg _ (if_pos h)

theorem exec_curdFlitDeliver (s : State) (k slot : Nat) : exec (.curdFlitDeliver k slot) s = .next (s.deliver k slot) := rfl

theorem exec_wheyFlitReceive_active {s : State} {k vc : Nat} (fl : Flit) (h : (s.port k).state = .active) :
    exec (.wheyFlitReceive k vc fl) s = .next (s.wheyArrives k vc fl) := congrArg _ (if_pos (.inl h))

theorem exec_tickMarker_active {s : State} {k : Nat} (m : Marker) (h : (s.port k).state = .active) :
    exec (.tickMarker k m) s = .next (s.marker k m) := by
  change execTickMarker k m s = _
  simp only [execTickMarker, h]

theorem exec_portDown {s : State} {k : Nat} {lock : Bool} (h : (s.port k).state = .active ∨ (s.port k).state = .fenced)
    (h' : lock = true ∨ 2 ≤ (s.port k).badTicks) : exec (.portDown k lock) s = .next (s.portDown k) := congrArg _ (if_pos ⟨h, h'⟩)

theorem exec_bypassOpen {s : State} (value : Nat) (h : HostServed s) (ha : s.power.cellar = .awake) (hv : s.pins.vbyp = true) :
    exec (.bypassOpen value) s = .next (s.onLinks fun l => l.movePairs value) := by
  change Host.Outcome.next (if s.barOpen 0 then s.regBypassOpen value else s) = _
  simp [State.barOpen_of_host h, State.regBypassOpen, ha, State.movePairs, hv]

theorem exec_bypassSwitchDone (s : State) (p : Nat) : exec (.bypassSwitchDone p) s = .next (s.pairDone p) := rfl

theorem exec_linkKeySwitch (s : State) : exec .linkKeySwitch s = .next s.keySwitch := rfl

theorem exec_linkCommit {s : State} (value : Nat) (h : HostServed s) : exec (.linkCommit value) s = .next (s.regLinkCommit value) :=
  congrArg _ (if_pos (State.barOpen_of_host h))

theorem exec_linkKeyVerifyRound {s : State} {k n : Nat} (ok : Bool) (h : n ∈ (s.port k).verifying) :
    exec (.linkKeyVerifyRound k n ok) s = .next (if ok then s.onPort k (Port.verified n) else
      ((s.onPort k (Port.verified n)).onKeys fun v => { v with verifyFail := sat32 v.verifyFail 1 }).portDown k) := by
  have : ¬((!(s.port k).verifying.contains n) = true) := by simp [h]
  exact congrArg _ (if_neg this)

/-- Settles O13: every clause names the operation its command runs and reads what that operation does off the operation's own lemma. -/
theorem flitsAndMarkersArrive : Obligations.FlitsAndMarkersArrive := by
  unfold Obligations.FlitsAndMarkersArrive
  refine ⟨⟨?heads, ?flitHeads, ?bodies⟩, ⟨?transmit, ?curdOther, ?curdExpected, ?deliverVoid, ?deliverFlit, ?deliverNone, ?idle⟩,
    ⟨?wheyGood, ?wheyBad, ?markerGood, ?markerWrong, ?markerMissing, ?portDown⟩,
    ?bypassOpen, ?pairOpens, ?pairCloses, ?commitDark, ?commitLater, ?keySwitch, ?verifyOk, ?verifyFails⟩
  case heads => exact fun s x a b d e f l r w hx => badHeads_ignored hx s a b d e f l r w
  case flitHeads =>
    intro s x a b d e f r hx c hc
    exact ⟨s.discardFlit x.val, badFlits_discarded hx s a b d e f r c hc, s.discardFlit_spec x.val⟩
  case bodies =>
    intro s x y l hx hy
    constructor
    · exact congrArg _ (if_pos (by simp [hx]))
    · exact congrArg _ (if_pos (by simp [hy]))
  case transmit =>
    intro s k slot vat h0 h1 x hact hclaim hstep hsent hstale
    rw [exec_linkSlotTransmit_active h0 h1 hact, State.transmit_live h0 h1 hact hclaim hstep hsent hstale, State.sendFlit_eq]
    refine ⟨_, flitMsg k (s.slotFlit k slot vat x (s.halfOut k slot 0 h0) (s.halfOut k slot 1 h1)), rfl, ?_⟩
    simp only [State.port_onPort_same]
    exact ⟨rfl, rfl, rfl, rfl, rfl, rfl, fun h hh => mapGet_dropTx slot _ hh, rfl⟩
  case curdOther =>
    intro s k slot fl hact hb h
    rw [exec_curdFlitReceive_active fl hact, State.curdArrives_other s hb h]
    exact ⟨_, rfl, s.discardFlit_spec k⟩
  case curdExpected =>
    intro s k slot vat fl x hact hb hfmt hkind hcls hsrc hsub hdst hses harg htick hclaim hflow hvat hl
    have hok : curdFlitOk fl = true := decide_eq_true ⟨hfmt, hkind, hcls, hsub, hsrc, hdst, hses⟩
    rw [exec_curdFlitReceive_active fl hact, State.curdArrives_expected hb hok harg htick hclaim hflow hvat hl]
    refine ⟨_, rfl, onlyPort_onPort s k _, ?_⟩
    rw [State.port_onPort_same, hl, List.nil_append]
  case deliverVoid =>
    intro s k slot vat x h7 hdone hclaim hl hnew
    rw [exec_curdFlitDeliver, State.deliver_void h7 hdone hclaim hl hnew]
    obtain ⟨hport, hmem, hfirst, hsecond, hframe⟩ :=
      s.landed_spec k slot false ⟨voidBytes (s.port k).peer, true⟩ ⟨voidBytes (s.port k).peer, true⟩
    refine ⟨_, rfl, hmem, ?_, fun h hh => ?_, hframe⟩
    · rw [hport]
      exact sat32_one _
    · obtain rfl | rfl : h = 0 ∨ h = 1 := by omega
      · exact hfirst
      · exact hsecond
  case deliverFlit =>
    intro s k slot vat x fl h7 hdone hclaim hact hl hstale hsub
    rw [exec_curdFlitDeliver, State.deliver_flit h7 hdone hclaim hact hl hstale hsub]
    obtain ⟨hport, hmem, hfirst, hsecond, hframe⟩ :=
      s.landed_spec k slot true ⟨fitBytes 128 (fl.payload.take 128), false⟩ ⟨fitBytes 128 (fl.payload.drop 128), false⟩
    refine ⟨_, rfl, hmem, ?_, hfirst, hsecond, hframe⟩
    rw [hport]
    simp [Port.delivered, hl, State.now]
  case deliverNone =>
    intro s k slot h
    rw [exec_curdFlitDeliver, State.deliver_idle s h]
  case idle => exact fun s k => rfl
  case wheyGood =>
    intro s k vc fl hact hk hvc hok hb hroom
    rw [exec_wheyFlitReceive_active fl hact, State.wheyArrives_good hk hvc hok hb hroom]
    refine ⟨_, rfl, onlyPort_onPort s k _, ?_⟩
    rw [State.port_onPort_same]
    exact ⟨mapGet_put_same _ _ _ _, rfl⟩
  case wheyBad =>
    intro s k vc fl hact hb h
    rw [exec_wheyFlitReceive_active fl hact, State.wheyArrives_bad hb h]
    exact ⟨_, rfl, s.discardFlit_spec k⟩
  case markerGood =>
    intro s k m hact hp hh htick hheld hw _
    obtain ⟨honly, hstate, hrest⟩ := State.marker_rightTick hp hh htick hheld hw
    exact ⟨_, exec_tickMarker_active m hact, honly, hstate.trans hact, hrest⟩
  case markerWrong =>
    intro s k m hact hp hh htick hheld hlost hw _ hv hmc
    exact ⟨_, exec_tickMarker_active m hact, State.marker_wrongTick hp hh htick hheld hlost hw hv hmc⟩
  case markerMissing =>
    intro s k m hact h
    obtain ⟨honly, hbad, hstate⟩ := State.marker_missing (s := s) (k := k) h
    exact ⟨_, exec_tickMarker_active m hact, honly, hbad, hstate.trans hact⟩
  case portDown =>
    intro s k lock hserves hcause hv hmc
    obtain ⟨hdown, hothers, hevent, hframe⟩ := State.portDown_spec hv hmc
    exact ⟨_, exec_portDown hserves hcause, hdown, hevent, hothers, by rw [hframe], by rw [hframe]⟩
  case bypassOpen =>
    intro s value p hserved hawake hvbyp hstill hp
    exact ⟨_, exec_bypassOpen value hserved hawake hvbyp, rfl, rfl, Links.movePairs_moving s.links value hp, rfl⟩
  case pairOpens =>
    intro s p hmoving hpair
    have hb : bit s.links.pairs p = false := by simp [bit, hpair]
    rw [exec_bypassSwitchDone, State.pairDone_opens hmoving hb]
    exact ⟨_, rfl, rfl, mapFind_del_same _ _, rfl⟩
  case pairCloses =>
    intro s p hmoving hp hpair hact hv hoff hmc
    have hb : bit s.links.pairs p = true := by simp [bit, hpair]
    obtain ⟨hpairs, hdown, hleft⟩ := State.pairDone_closes hmoving hb hact hoff hv hmc
    refine ⟨_, exec_bypassSwitchDone s p, ?_, hdown, hleft⟩
    rw [hpairs, Nat.sub_add_cancel (two_pow_le_of_bit hb)]
  case commitDark =>
    intro s value hserved hbit hdark
    rw [exec_linkCommit value hserved, State.regLinkCommit_dark (by simp [bit, hbit]) hdark]
    rfl
  case commitLater =>
    intro s value k hserved hbit hk hact
    rw [exec_linkCommit value hserved, State.regLinkCommit_later (by simp [bit, hbit]) hk hact]
    rfl
  case keySwitch =>
    intro s e x k p hpend hx hport hact
    rw [exec_linkKeySwitch, State.keySwitch_due hpend hx]
    refine ⟨_, rfl, rfl, ?_, rfl⟩
    simp [mapFind_all, hport, hact]
  case verifyOk =>
    intro s k n hn
    exact ⟨_, exec_linkKeyVerifyRound true hn, onlyPort_onPort s k _, State.port_onPort_same s k _⟩
  case verifyFails =>
    intro s k n hn hv hmc
    exact ⟨_, exec_linkKeyVerifyRound false hn, State.failedRound_spec n hv hmc⟩

end Sys2Proof.Machine
end

section
/-! The freeze of a lane table (R22, R151, R252, R253): what the head and another member do at the freeze Tick of the next step. -/

namespace Sys2Proof.Machine
open Sys2Proof Sys2Proof.Safety

/-! ### Vats and their roles are held apart -/

@[simp] theorem State.vat?_onRole (s : State) (v : Nat) (f : VatRole → VatRole) (x : Nat) : (s.onRole v f).vat? x = s.vat? x := rfl
@[simp] theorem State.role_onVat (s : State) (v : Nat) (f : Vat → Vat) (x : Nat) : (s.onVat v f).role x = s.role x := rfl

theorem State.vat?_onVat_of {s : State} {vat : Nat} {u : Vat} (hu : s.vat? vat = some u) (f : Vat → Vat) :
    (s.onVat vat f).vat? vat = some (f u) := by
  rw [State.vat?_onVat_same, hu, Option.map_some]

theorem State.vat?_congr {s t : State} (h : t.vats = s.vats) (x : Nat) : t.vat? x = s.vat? x := congrArg (mapFind · x) h

theorem State.role_congr {s t : State} (h : t.roles = s.roles) (x : Nat) : t.role x = s.role x := congrArg (mapGet VatRole.empty · x) h

/-! ### Gears with no change armed -/

/-- With no gear armed a step runs in the gear in force (R149). -/
theorem State.gearAt_unarmed {s : State} (h : s.tick.armed = 0) (x : Nat) : s.gearAt x = s.tick.gear := by
  simp [State.gearAt, h]

theorem State.stepGear_unarmed {s : State} (h : s.tick.armed = 0) (m : Mould) (id : Nat) : s.stepGear m id = s.tick.gear := by
  simp [State.stepGear, h]

theorem State.commitGear_unarmed {s : State} (h : s.tick.armed = 0) (m : Mould) (id start : Nat) : s.commitGear m id start = s := by
  simp [State.commitGear, h]

theorem State.cutAtChange_none {s : State} (h : s.tick.change = none) (b r after : Nat) : s.cutAtChange b r after = r := by
  simp [State.cutAtChange, h]

/-! ### When a member acts at a freeze Tick -/

/-- A Running member with its Tick locked, no table frozen and no halt set: it may freeze, or start the step announced (R22, R143). -/
structure State.Runs (s : State) (vat : Nat) (u : Vat) (m : Mould) : Prop where
  found   : s.vat? vat = some u
  mould   : u.mould = some m
  id      : u.desc.vatId = vat
  member  : u.role = .member
  running : u.state = .running
  locked  : s.tick.lock = .locked
  aligned : s.tick.aligned = true
  noHalt  : (s.role vat).haltAt = none

section
variable {s : State} {vat : Nat} {u : Vat} {m : Mould}

theorem State.Runs.vatRuns (h : s.Runs vat u m) : s.vatRuns u = true := by simp [State.vatRuns, h.running]

theorem State.Runs.canStep (h : s.Runs vat u m) : s.canStep = true := by simp [State.canStep, h.locked, h.aligned]

theorem State.Runs.notHalting (h : s.Runs vat u m) (b : Nat) : (s.role u.desc.vatId).halting b = false := by
  simp [VatRole.halting, h.id, h.noHalt]

theorem State.Runs.isHead (h : s.Runs vat u m) : u.isHead = decide (u.lpkg = u.headLpkg) := by simp [Vat.isHead, Vat.isMember, h.member]

/-- At the freeze Tick of the next step the head freezes (R22). -/
theorem State.Runs.freezeDue (h : s.Runs vat u m) (hhead : u.lpkg = u.headLpkg) (hfrozen : u.frozen = none) (harmed : s.tick.armed = 0)
    (hes : gearSteps m s.tick.gear ≠ []) (hnow : s.tick.count + freezeLead (gearSteps m s.tick.gear) = u.boundary) :
    (s.vat? vat).any s.freezeDue = true := by
  simp [State.freezeDue, h.found, h.mould, h.isHead, hhead, h.vatRuns, hfrozen, h.canStep, h.notHalting, State.gearAt_unarmed harmed, hes,
    State.now, hnow]

theorem State.Runs.freezeDue_other (h : s.Runs vat u m) (hhead : u.lpkg ≠ u.headLpkg) : (s.vat? vat).any s.freezeDue = false := by
  simp [State.freezeDue, h.found, h.mould, h.isHead, hhead]

/-- At the freeze Tick of the announced step another member freezes (R22). -/
theorem State.Runs.announceDue (h : s.Runs vat u m) {a : LaneTable} (hhead : u.lpkg ≠ u.headLpkg) (hfrozen : u.frozen = none)
    (harmed : s.tick.armed = 0) (hid : a.stepId < (mSteps m).length) (hlanes : a.lanes.length ≤ (mStep m a.stepId).lanes)
    (hnow : s.tick.count + freezeLead (gearSteps m s.tick.gear) = a.start) :
    ((s.vat? vat).any fun v => s.announceDue v a) = true := by
  simp [State.announceDue, h.found, h.mould, h.isHead, hhead, Vat.isMember, h.member, h.vatRuns, hfrozen, h.canStep, h.notHalting,
    State.stepGear_unarmed harmed, hid, hlanes, State.now, hnow]

end

/-- With no page-in of a session pending no deadline is judged (R331). -/
theorem State.checkPageIns_none {s : State} {vat : Nat} {u : Vat} (hu : s.vat? vat = some u) (h : ∀ p ∈ u.work, p.2.pageFrom = none)
    (freeze : Nat) : s.checkPageIns vat freeze = s := by
  simp only [State.checkPageIns, hu]
  refine List.foldlRecOn (motive := (· = s)) u.work _ rfl fun t ht p hp => ?_
  simp only [h p hp, ht]

/-! ### The head's choice -/

/-- A head in shared mode with no replay and no partition left over: its plan is made of all the offers, and changes nothing (R252). -/
theorem State.planStep_shared {s : State} {vat : Nat} {u : Vat} (es : List (Nat × StepEnt)) (hreplay : (s.role vat).replay = none)
    (hmode : s.partMode vat = false) (hwas : (s.role vat).wasPart = false) :
    s.planStep vat u es = (s, (pickKind es (offerOrder u.offers)).map fun e => ⟨e.1, e.2, offerOrder u.offers, none⟩) := by
  simp [State.planStep, hreplay, State.rotate, hmode, hwas, State.plainPlan]

theorem freezeLead_single (id : Nat) (e : StepEnt) : freezeLead [(id, e)] = e.freeze := by
  simp only [freezeLead, maxNat, List.map_cons, List.map_nil, List.foldl_cons, List.foldl_nil]
  split <;> omega

/-- With one step of its kind the offer takes that step. -/
theorem pickKind_single {id : Nat} {e : StepEnt} {o : Offer} (h : o.kind = e.kind) : pickKind [(id, e)] (offerOrder [o]) = some (id, e) := by
  simp [pickKind, offerOrder, offerInsert, chooseEntry, h]

/-- With no rest requested no rest Ticks are owed before a step (R426). -/
theorem State.restOwed_none {s : State} {u : Vat} (h : (s.role u.desc.vatId).restReq = []) (len : Nat) : s.restOwed u len = 0 := by
  simp [State.restOwed, h, maxNat]

/-- With no lane limit one offer that can be placed takes the first lane (R252). -/
theorem State.fillLanes_single {s : State} {v : Vat} {p : StepPlan} {o : Offer} (hc : p.cands = [o]) (hk : o.kind = p.entry.kind)
    (hl : 1 ≤ p.entry.lanes) (hlim : (s.partCfg o.partition).laneLimit = 0)
    (hplace : o.session / 2 ^ 18 = v.lpkg → s.canPlace v (o.session % 2 ^ 18) p.entry.kind = true) : s.fillLanes v p = [o] := by
  have hroom : ¬ p.entry.lanes = 0 := by omega
  simpa [-Nat.reducePow, State.fillLanes, hc, hk, hlim, hroom] using hplace

/-- A lane has the session of its offer. -/
theorem State.offerLane_session (s : State) (v : Vat) (p : StepPlan) (o : Offer) : (s.offerLane v p o).session = o.session := by
  unfold State.offerLane
  split
  · next h =>
    change v.lpkg * 2 ^ 18 + o.session % 2 ^ 18 = o.session
    omega
  · rfl

/-- A step of the variant is the step table's entry of its ID. -/
theorem mStep_of_gearSteps {m : Mould} {gear id : Nat} {e : StepEnt} (h : (id, e) ∈ gearSteps m gear) : mStep m id = e := by
  have hzip : (id, e) ∈ (List.range (mSteps m).length).zip (mSteps m) := by
    unfold gearSteps at h
    split at h
    · simp at h
    · exact (List.mem_filter.mp h).1
  obtain ⟨k, hk, hget⟩ := List.mem_iff_getElem.mp hzip
  simp only [List.getElem_zip, List.getElem_range, Prod.mk.injEq] at hget
  obtain ⟨rfl, rfl⟩ := hget
  have hlt : k < (mSteps m).length := by simp at hk; exact hk
  simp [mStep, nth, hlt]

/-! ### What a freeze changes -/

/-- Placing a session changes its record and its work alone, and leaves it Placed (R236, R252). -/
theorem State.placeSess_spec {s : State} {vat : Nat} {v : Vat} (hv : s.vat? vat = some v) (i kind start : Nat) (l : Lane) :
    ∃ v', (s.placeSess vat i kind start l).vat? vat = some v' ∧ (v'.sess i).state = .placed ∧
      v' = { v with sessions := v'.sessions, work := v'.work } ∧
      s.placeSess vat i kind start l = { s with vats := (s.placeSess vat i kind start l).vats } := by
  simp only [State.placeSess, hv, State.onSess, State.onWk]
  refine ⟨_, by rw [State.vat?_onVat_same, State.vat?_onVat_same, hv]; rfl, ?_, rfl, rfl⟩
  simp [Vat.onWk, Vat.onSess, Vat.sess]

/-- The vat with a table frozen and the offers gone that it took. -/
def Vat.withTable (v : Vat) (t : LaneTable) (gone : List Nat) : Vat :=
  { v with frozen := some t, offers := v.offers.filter fun o => !gone.contains o.session }

/-- The head's record of a table frozen for one offer, before its session is placed: the offer is gone and its context is kept. -/
def State.holdTable (s : State) (vat : Nat) (t : LaneTable) (o : Offer) : State :=
  (s.onVat vat fun v => v.withTable t [o.session]).onRole vat fun r => { r with laneCtx := mapPut r.laneCtx o.session o.ctx }

theorem State.freezeTable_eq {s : State} {vat : Nat} {v : Vat} (hv : s.vat? vat = some v) (b : Nat) (p : StepPlan) (o : Offer) :
    s.freezeTable vat b p [o] =
      if o.session / 2 ^ 18 = v.lpkg then
        (s.holdTable vat ⟨b, p.id, [s.offerLane v p o], p.ctx.isSome⟩ o).placeSess vat (o.session % 2 ^ 18) p.entry.kind b (s.offerLane v p o)
      else s.holdTable vat ⟨b, p.id, [s.offerLane v p o], p.ctx.isSome⟩ o := by
  simp only [State.freezeTable, hv, List.map_cons, List.map_nil, List.filter_cons, List.filter_nil, State.offerLane_session, decide_eq_true_eq]
  split
  · rw [List.foldl_cons, State.offerLane_session]
    rfl
  · rfl

/-- A table frozen for one offer: the offer is gone, and its session is Placed where it is homed here (R252). -/
theorem State.freezeTable_single {s : State} {vat : Nat} {v : Vat} (hv : s.vat? vat = some v) (b : Nat) (p : StepPlan) (o : Offer) :
    let w := v.withTable ⟨b, p.id, [s.offerLane v p o], p.ctx.isSome⟩ [o.session]
    let t := s.freezeTable vat b p [o]
    ∃ v', t.vat? vat = some v' ∧ v' = { w with sessions := v'.sessions, work := v'.work } ∧
      (o.session / 2 ^ 18 = v.lpkg → (v'.sess (o.session % 2 ^ 18)).state = .placed) ∧
      t = { s with vats := t.vats, roles := t.roles } := by
  intro w t
  have hheld : (s.holdTable vat ⟨b, p.id, [s.offerLane v p o], p.ctx.isSome⟩ o).vat? vat = some w := by
    rw [State.holdTable, State.vat?_onRole]
    exact State.vat?_onVat_of hv _
  by_cases hhome : o.session / 2 ^ 18 = v.lpkg
  · obtain ⟨v', hv', hplaced, hkept, hframe⟩ :=
      State.placeSess_spec hheld (o.session % 2 ^ 18) p.entry.kind b (s.offerLane v p o)
    have ht : t = _ := (State.freezeTable_eq hv b p o).trans (if_pos hhome)
    refine ⟨v', ht ▸ hv', hkept, fun _ => hplaced, ?_⟩
    rw [ht, hframe]
    rfl
  · have ht : t = _ := (State.freezeTable_eq hv b p o).trans (if_neg hhome)
    refine ⟨w, ht ▸ hheld, rfl, fun h => absurd h hhome, ?_⟩
    rw [ht]
    rfl

/-! ### The announced table (R19, R253) -/

/-- The message that announces a frozen table to one member. -/
def State.tableMsg (s : State) (vat : Nat) (v : Vat) (m : Mould) (t : LaneTable) (l : Nat) : Msg :=
  ⟨"LANE_TABLE", s.lpkgNode v l, [vat, t.start, t.stepId, b2n t.replay], laneTableBytes (mStep m t.stepId) t.lanes⟩

/-- Messages to members that the links reach all go out, in the order of the members. -/
theorem State.foldl_sendWhey (v : Vat) (kind : String) (args : List Nat) (body : List Byte) (ls : List Nat) (s : State)
    (h : ∀ l ∈ ls, s.wheyBlocked (s.lpkgNode v l) 7 = false) :
    ls.foldl (fun s l => s.sendWhey 7 kind (s.lpkgNode v l) args body) s =
      s.onOut fun o => o ++ ls.map fun l => ⟨kind, s.lpkgNode v l, args, body⟩ := by
  induction ls generalizing s with
  | nil => simp [State.onOut]
  | cons l ls ih =>
    have hsent : s.sendWhey 7 kind (s.lpkgNode v l) args body = s.onOut fun o => o ++ [⟨kind, s.lpkgNode v l, args, body⟩] :=
      if_neg (by simp [h l List.mem_cons_self])
    rw [List.foldl_cons, hsent, ih (s.onOut _) fun k hk => h k (List.mem_cons_of_mem l hk), State.onOut_onOut]
    simp only [List.append_assoc, List.map_cons, List.singleton_append]
    rfl

/-- With its links up a package announces its table to every other member. -/
theorem State.announce_open {s : State} {vat : Nat} {v : Vat} {m : Mould} {t : LaneTable} (hv : s.vat? vat = some v)
    (hm : v.mould = some m) (ht : v.frozen = some t) (h : ∀ k < v.packages, k ≠ v.lpkg → s.wheyBlocked (s.lpkgNode v k) 7 = false) :
    s.announce vat =
      s.onOut fun o => o ++ ((List.range v.packages).filter fun l => decide (l ≠ v.lpkg)).map (s.tableMsg vat v m t) := by
  simp only [State.announce, hv, hm, ht, Option.bind_some, Option.map_some]
  refine State.foldl_sendWhey v _ _ _ _ s fun l hl => ?_
  rw [List.mem_filter] at hl
  exact h l (List.mem_range.mp hl.1) (of_decide_eq_true hl.2)

/-! ### The freeze, case by case -/

/-- With no offer the head inserts rest Ticks as long as the last step (R151; log entry 68). -/
theorem State.freeze_idle {s : State} {vat : Nat} {u : Vat} {m : Mould} (h : s.Runs vat u m) (hreplay : (s.role vat).replay = none)
    (hmode : s.partMode vat = false) (hwas : (s.role vat).wasPart = false) (hchange : s.tick.change = none)
    (hpage : ∀ p ∈ u.work, p.2.pageFrom = none) (hoffers : u.offers = []) (hlast : (s.role vat).lastLen ≠ 0) :
    s.freeze vat = s.insertRest vat (s.role vat).lastLen := by
  have hplan (es : List (Nat × StepEnt)) : s.planStep vat u es = (s, none) := by
    rw [State.planStep_shared es hreplay hmode hwas, hoffers]
    rfl
  simp [State.freeze, State.checkPageIns_none h.found hpage, h.found, h.mould, hplan, State.cutAtChange_none hchange, idleLength, hlast]

/-- With one offer that fits, no rest owed and no gear armed the head freezes and announces the offer's table (R252, R253). -/
theorem State.freeze_single {s : State} {vat id : Nat} {u : Vat} {m : Mould} {e : StepEnt} {o : Offer} (h : s.Runs vat u m)
    (hreplay : (s.role vat).replay = none) (hmode : s.partMode vat = false) (hwas : (s.role vat).wasPart = false)
    (hchange : s.tick.change = none) (harmed : s.tick.armed = 0) (hpage : ∀ p ∈ u.work, p.2.pageFrom = none)
    (hes : gearSteps m s.tick.gear = [(id, e)]) (hoffers : u.offers = [o]) (hkind : o.kind = e.kind) (hlanes : 1 ≤ e.lanes)
    (hrest : (s.role vat).restReq = []) (hlim : (s.partCfg o.partition).laneLimit = 0)
    (hplace : o.session / 2 ^ 18 = u.lpkg → s.canPlace u (o.session % 2 ^ 18) e.kind = true) :
    s.freeze vat = (s.freezeTable vat u.boundary ⟨id, e, [o], none⟩ [o]).announce vat := by
  have hplan : s.planStep vat u [(id, e)] = (s, some ⟨id, e, [o], none⟩) := by
    rw [State.planStep_shared _ hreplay hmode hwas, hoffers, pickKind_single hkind]
    rfl
  have hfill : s.fillLanes u ⟨id, e, [o], none⟩ = [o] := State.fillLanes_single rfl hkind hlanes hlim hplace
  have htick : (s.freezeTable vat u.boundary ⟨id, e, [o], none⟩ [o]).tick.armed = 0 := by
    obtain ⟨_, _, _, _, hframe⟩ := State.freezeTable_single h.found u.boundary ⟨id, e, [o], none⟩ o
    rw [hframe]
    exact harmed
  simp [State.freeze, State.checkPageIns_none h.found hpage, h.found, h.mould, State.gearAt_unarmed harmed, hes, hplan,
    State.restOwed_none (h.id ▸ hrest), State.cutAtChange_none hchange, hfill, State.commitGear_unarmed htick]

/-- A fold that keeps its state and collects each element collects the list. -/
theorem foldl_keep_append {σ α : Type} {g : σ × List α → α → σ × List α} {l : List α}
    (h : ∀ acc, ∀ a ∈ l, g acc a = (acc.1, acc.2 ++ [a])) (acc : σ × List α) : l.foldl g acc = (acc.1, acc.2 ++ l) := by
  induction l generalizing acc with
  | nil => simp
  | cons a l ih =>
    rw [List.foldl_cons, h acc a List.mem_cons_self, ih fun acc b hb => h acc b (List.mem_cons_of_mem a hb)]
    simp

/-- An announced table with no lane of this package is frozen as announced (R22). -/
theorem State.freezeAnnounced_remote {s : State} {vat : Nat} {u : Vat} {m : Mould} {a : LaneTable} (h : s.Runs vat u m)
    (harmed : s.tick.armed = 0) (hpage : ∀ p ∈ u.work, p.2.pageFrom = none) (hlanes : ∀ l ∈ a.lanes, l.session / 2 ^ 18 ≠ u.lpkg) :
    s.freezeAnnounced vat a = s.onVat vat fun v => { v with frozen := some a } := by
  have hplaced : s.placeAnnounced vat u (mStep m a.stepId) a = (s, a.lanes) := by
    refine foldl_keep_append (fun acc l hl => ?_) (s, [])
    exact if_pos (.inl (hlanes l hl))
  have hmine : (a.lanes.any fun l => decide (l.session / 2 ^ 18 = u.lpkg)) = false := by
    rw [List.any_eq_false]
    exact fun l hl => by simpa [-Nat.reducePow] using hlanes l hl
  simp only [State.freezeAnnounced, State.checkPageIns_none h.found hpage, h.found, h.mould, Option.bind_some, Option.map_some, hplaced, hmine]
  exact State.commitGear_unarmed (s := s.onVat vat _) harmed m a.stepId a.start

/-! ### The statement -/

theorem exec_laneTableFreeze_head {s : State} {vat : Nat} (h : (s.vat? vat).any s.freezeDue = true) :
    exec (.laneTableFreeze ⟨vat, none⟩) s = .next (s.freeze vat) := congrArg _ (if_pos h)

theorem exec_laneTableFreeze_announced {s : State} {vat : Nat} {a : LaneTable} (h : (s.vat? vat).any s.freezeDue = false)
    (ha : ((s.vat? vat).any fun v => s.announceDue v a) = true) :
    exec (.laneTableFreeze ⟨vat, some a⟩) s = .next (s.freezeAnnounced vat a) :=
  congrArg _ ((if_neg (by simp [h])).trans (if_pos ha))

/-- Settles O3: each clause is one of the three freezes. -/
theorem headFreezesLanes : Obligations.HeadFreezesLanes := by
  unfold Obligations.HeadFreezesLanes
  refine ⟨?idle, ?offered, ?announced⟩
  case idle =>
    intro s vat u m hu hm hid hrole hhead hrun hfrozen hlock haligned hhalt hreplay hmode hwas hchange harmed hpage hes hnow hoffers hlast
    have h : s.Runs vat u m := ⟨hu, hm, hid, hrole, hrun, hlock, haligned, hhalt⟩
    rw [exec_laneTableFreeze_head (h.freezeDue hhead hfrozen harmed hes hnow),
      State.freeze_idle h hreplay hmode hwas hchange hpage hoffers hlast]
    refine ⟨_, rfl, ?_, State.role_onRole_same _ vat _, rfl⟩
    rw [State.insertRest, State.vat?_onRole]
    exact State.vat?_onVat_of hu _
  case offered =>
    intro s vat id u m e o hu hm hid hrole hhead hrun hfrozen hlock haligned hhalt hreplay hmode hwas hchange harmed hpage hes hnow hoffers
      hkind hlanes hrest hlim hplace hopen
    have h : s.Runs vat u m := ⟨hu, hm, hid, hrole, hrun, hlock, haligned, hhalt⟩
    have hlead : freezeLead (gearSteps m s.tick.gear) = e.freeze := by rw [hes, freezeLead_single]
    have hdue := h.freezeDue hhead hfrozen harmed (by simp [hes]) (hlead ▸ hnow)
    rw [exec_laneTableFreeze_head hdue,
      State.freeze_single h hreplay hmode hwas hchange harmed hpage hes hoffers hkind hlanes hrest hlim hplace]
    obtain ⟨v, hv, hkept, hplaced, hframe⟩ := State.freezeTable_single hu u.boundary ⟨id, e, [o], none⟩ o
    generalize s.freezeTable vat u.boundary ⟨id, e, [o], none⟩ [o] = t at hv hframe ⊢
    have hnode (k : Nat) : t.lpkgNode v k = s.lpkgNode u k := by
      rw [hkept, hframe]
      rfl
    have hpkgs : v.packages = u.packages ∧ v.lpkg = u.lpkg := by
      rw [hkept]
      exact ⟨rfl, rfl⟩
    have hlinks : ∀ k < v.packages, k ≠ v.lpkg → t.wheyBlocked (t.lpkgNode v k) 7 = false := by
      rw [hpkgs.1, hpkgs.2]
      intro k hk hother
      rw [hnode, hframe]
      exact hopen k hk hother
    have hmould : v.mould = some m := by rw [hkept]; exact hm
    have htable : v.frozen = some ⟨u.boundary, id, [s.offerLane u ⟨id, e, [o], none⟩ o], false⟩ := by rw [hkept]; rfl
    rw [State.announce_open hv hmould htable hlinks]
    refine ⟨_, v, _, _, rfl, hv, htable, rfl, rfl, rfl, rfl, s.offerLane_session u _ o, ?_, hplaced, fun k hk hother => ?_, ?_⟩
    · rw [hkept]
      simp [Vat.withTable, hoffers]
    · refine ⟨t.tableMsg vat v m _ k, List.mem_append_right _ (List.mem_map_of_mem ?_), rfl, hnode k, rfl, ?_⟩
      · simpa [hpkgs] using ⟨hk, hother⟩
      · rw [State.tableMsg, mStep_of_gearSteps (hes ▸ List.mem_singleton_self _)]
    · rw [hframe]
      rfl
  case announced =>
    intro s vat a u m hu hm hid hrole hhead hrun hfrozen hlock haligned hhalt hchange harmed hpage hstep hfit hnow hlanes
    have h : s.Runs vat u m := ⟨hu, hm, hid, hrole, hrun, hlock, haligned, hhalt⟩
    rw [exec_laneTableFreeze_announced (h.freezeDue_other hhead) (h.announceDue hhead hfrozen harmed hstep hfit hnow),
      State.freezeAnnounced_remote h harmed hpage hlanes]
    exact ⟨_, rfl, State.vat?_onVat_of hu _, rfl⟩

end Sys2Proof.Machine
end

section
/-! The start of a step (R19), and what stands beside it: the draws, the boundary mark and the refresh cadence (R152, R256, R401). -/

namespace Sys2Proof.Machine
open Sys2Proof Sys2Proof.Safety

/-! ### STEP_START -/

/-- At its start Tick the announced step starts on a member that froze its table, or that is not the head and froze none (R19). -/
theorem State.Runs.startDue {s : State} {vat : Nat} {u : Vat} {m : Mould} {a : LaneTable} (h : s.Runs vat u m) (hstep : u.step = none)
    (hmark : (s.role vat).hangAt = none) (hnow : s.tick.count = a.start) (hid : a.stepId < (mSteps m).length)
    (hlanes : a.lanes.length ≤ (mStep m a.stepId).lanes) (hvariant : mVariantOf m s.tick.gear = some (mStep m a.stepId).variant)
    (htable : (∃ f, u.frozen = some f ∧ f.start = a.start ∧ f.stepId = a.stepId) ∨ (u.frozen = none ∧ u.lpkg ≠ u.headLpkg)) :
    ((s.vat? vat).any fun v => s.startDue v a) = true := by
  have hhalt : (s.role vat).halting a.start = false := by simpa [h.id] using h.notHalting a.start
  simp only [h.found, Option.any_some, State.startDue, h.mould, h.vatRuns, h.canStep, h.id, hhalt, hmark, Vat.isMember, h.member, hstep,
    State.now, hnow, hid, hlanes, hvariant]
  rcases htable with ⟨f, hf, hsame⟩ | ⟨hnone, hother⟩
  · simp [hf, hsame]
  · simp [hnone, h.isHead, hother]

theorem exec_stepStart_due {s : State} {vat : Nat} {a : LaneTable} (h : ((s.vat? vat).any fun v => s.startDue v a) = true) :
    exec (.stepStart vat a) s = .next (s.startStep vat a) := congrArg _ (if_pos h)

/-- The rest Ticks end: the vat's meter takes them (R292). -/
theorem State.closeRest_found {s : State} {vat : Nat} {u : Vat} (hu : s.vat? vat = some u) :
    (s.closeRest vat).vat? vat = some { u with meter := { u.meter with rest := s.restTicks u s.now } } := by
  simp only [State.closeRest, hu, State.vat?_onRole, State.vat?_onVat_same, Option.map_some]

theorem State.closeRest_frame (s : State) (vat : Nat) :
    s.closeRest vat = { s with vats := (s.closeRest vat).vats, roles := (s.closeRest vat).roles } := by
  unfold State.closeRest
  split <;> rfl

/-- What the start of a step sets: the step in progress, the next boundary and the Tick of a hang (R19, R24, R402). -/
theorem State.startStep_spec {s : State} {vat : Nat} {u : Vat} {m : Mould} (hu : s.vat? vat = some u) (hm : u.mould = some m) (a : LaneTable)
    (hlost : s.tick.lostAt = none) :
    let e := mStep m a.stepId
    let t := s.startStep vat a
    (∃ u' r, t.vat? vat = some u' ∧ u'.step = some r ∧ r.table.start = a.start ∧ r.table.stepId = a.stepId ∧ r.kind = e.kind ∧
      r.length = e.length ∧ r.causes = [] ∧ r.degraded = false ∧ u'.state = .running ∧ u'.frozen = none ∧
      u'.boundary = a.start + e.length) ∧
    (t.role vat).hangAt = some (a.start + 20 * e.length) ∧ (t.role vat).credit = 0 ∧
    t = { s with vats := t.vats, roles := t.roles } := by
  intro e t
  have hrest := State.closeRest_found hu
  have hframe := s.closeRest_frame vat
  generalize hc : s.closeRest vat = c at hrest hframe
  simp only [t, State.startStep, hu, hm, Option.bind_some, Option.map_some, hc, hlost, State.vat?_onRole, State.role_onRole_same]
  refine ⟨⟨_, _, State.vat?_onVat_of hrest _, rfl, rfl, rfl, rfl, rfl, rfl, rfl, rfl, rfl, rfl⟩, rfl, trivial, ?_⟩
  rw [hframe]
  rfl

/-! ### SAMPLER_DRAW, BOUNDARY_MARK and REFRESH_WINDOW_START -/

theorem exec_samplerDraw_clean {s : State} {vat : Nat} {u : Vat} {r : StepRun} (hu : s.vat? vat = some u) (hr : u.step = some r) :
    exec (.samplerDraw ⟨vat, ReadErrs.none⟩) s = .next (s.onVat vat fun v => { v with step := some { r with draws := s.drawAll u r } }) := by
  change Host.Outcome.next (s.sampleStep vat ReadErrs.none) = _
  simp [State.sampleStep, hu, hr, State.setsMet, ReadErrs.none]

/-- A draw is the draw of its lane (R256). -/
theorem State.drawLane_lane (s : State) (v : Vat) (run : StepRun) (idx : Nat) (l : Lane) : (s.drawLane v run idx l).lane = idx := by
  unfold State.drawLane
  dsimp only
  split
  · split
    · split <;> rfl
    · rfl
  · split
    · split <;> rfl
    · rfl

/-- Each draw of a step is one made before or that of its home lane. -/
theorem State.drawAll_get {s : State} {v : Vat} {run : StepRun} {k : Nat} {d : LaneDraw} (h : (s.drawAll v run)[k]? = some d) :
    (∃ e ∈ run.draws, e = d) ∨ ∃ p : Nat × Lane, (v.homeLanes run)[k]? = some p ∧ d.lane = p.1 := by
  rw [State.drawAll, List.getElem?_map, Option.map_eq_some_iff] at h
  obtain ⟨p, hp, rfl⟩ := h
  cases hfound : run.draws.find? fun d => decide (d.lane = p.1) with
  | none => exact .inr ⟨p, hp, s.drawLane_lane v run p.1 p.2⟩
  | some e => exact .inl ⟨e, List.mem_of_find?_eq_some hfound, rfl⟩

theorem exec_boundaryMark_ended {s : State} {vat : Nat} {u : Vat} (hu : s.vat? vat = some u) (hstep : u.step = none)
    (hhang : (s.role vat).hangAt.isSome = true) :
    exec (.boundaryMark vat) s = .next (s.onRole vat fun r => { r with hangAt := none }) :=
  congrArg _ (if_pos ⟨by simp [hu, hstep], hhang⟩)

theorem exec_refreshWindowStart_due {s : State} {q ch : Nat} (hq : q < 16) (hch : ch < 32)
    (h : s.tick.count % max 1 (s.ownerCadence q).1 = (s.ownerCadence q).2.2) :
    exec (.refreshWindowStart q ch) s = .next (s.onMem fun m =>
      { m with refresh := mapSet defaultCadence m.refresh (q * 32 + ch) (s.ownerCadence q) }) :=
  congrArg _ (if_pos ⟨hq, hch, decide_eq_true h⟩)

end Sys2Proof.Machine
end

section
/-! The end of a step (R24, R236, R241): the parts of a boundary, and what those after the lanes leave of a session that has left the step. -/

namespace Sys2Proof.Machine
open Sys2Proof Sys2Proof.Safety

/-! ### The parts of a boundary -/

/-- The draw of a lane at the boundary: the one made before, or made now (R256). -/
def State.drawOf (s : State) (v : Vat) (run : StepRun) (idx : Nat) : LaneDraw :=
  ((s.drawAll v run).find? fun d => decide (d.lane = idx)).getD ⟨idx, some [], []⟩

/-- The lanes of the step homed here leave it, with the outcome and their draws; before them the counts and the stalls that members report. -/
def State.settleLanes (s : State) (vat : Nat) (v : Vat) (run : StepRun) (reps : List MemberReport) : State :=
  (v.homeLanes run).foldl (fun t p => t.endLane vat run p (stepStatus run reps) (s.drawOf v run p.1))
    ((s.countLanes v run).remoteStalls vat v run reps)

/-- The outcome is recorded: the logs, the verdict of a replay, the overrun. -/
def State.recordStep (s : State) (vat : Nat) (v : Vat) (run : StepRun) (reps : List MemberReport) : State :=
  ((s.logStep vat v run reps (stepStatus run reps)).replayVerdict vat run).overrunStep run

/-- The vat after a step that ended at Tick `x`: none in progress, its Ticks metered. -/
def Vat.stepOver (v : Vat) (run : StepRun) : Vat :=
  { v with step := none, meter := { v.meter with step := v.meter.step + (run.table.start + run.length - max run.table.start v.meter.first) } }

/-- The role after a step that ended: rest Ticks run from its boundary, and it is the step before. -/
def VatRole.stepOver (r : VatRole) (run : StepRun) (first : Nat) : VatRole :=
  { r with
    restFrom := some (max (run.table.start + run.length) first), lastRep := run.table.start + run.length,
    lastStep := some (run.table.start, run.length, run.table.stepId) }

/-- The vat leaves the step, and what waited for the boundary is done, but a halt. -/
def State.leaveStep (s : State) (vat : Nat) (v : Vat) (run : StepRun) (reps : List MemberReport) : State :=
  ((((s.onVat vat fun u => u.stepOver run).gearBack run reps).rejoin vat).switchSlices vat).onRole vat fun r =>
    r.stepOver run v.meter.first

theorem State.endStep_eq {s : State} {vat : Nat} {v : Vat} {run : StepRun} (hv : s.vat? vat = some v) (hrun : v.step = some run)
    (reps : List MemberReport) :
    s.endStep vat reps =
      let t := ((s.settleLanes vat v run reps).recordStep vat v run reps).leaveStep vat v run reps
      if (t.role vat).halting (run.table.start + run.length) then (t.haltVat vat).pausePages vat else t := by
  simp only [State.endStep, hv, hrun, Option.bind_some, Option.map_some]
  rfl

/-! ### What the operations on requests change -/

theorem State.writePieces_eq (s : State) (ps : Pieces) (bs : List Byte) : s.writePieces ps bs = { s with mem := (s.writePieces ps bs).mem } := by
  induction ps generalizing s bs with
  | nil => rfl
  | cons p ps ih =>
    rw [State.writePieces, ih]
    rfl

/-- An output write changes device memory and the arbiters alone. -/
theorem State.outWrite_eq (s : State) (w : SessWork) (off : Nat) (bs : List Byte) :
    s.outWrite w off bs = { s with mem := (s.outWrite w off bs).mem, qos := (s.outWrite w off bs).qos } := by
  unfold State.outWrite
  dsimp only
  split
  · rfl
  · split
    · rw [State.writePieces_eq]
    · rw [State.writePieces_eq]
      rfl

@[simp] theorem State.vat?_outWrite (s : State) (w : SessWork) (off : Nat) (bs : List Byte) (x : Nat) :
    (s.outWrite w off bs).vat? x = s.vat? x := by rw [State.outWrite_eq]; rfl

@[simp] theorem State.outWrite_roles (s : State) (w : SessWork) (off : Nat) (bs : List Byte) : (s.outWrite w off bs).roles = s.roles := by
  rw [State.outWrite_eq]

theorem State.signalFor_eq (s : State) (f : Nat) (r : CmdRef) (status : Nat) : s.signalFor f r status =
    { s with objs := (s.signalFor f r status).objs, host := (s.signalFor f r status).host, hp := (s.signalFor f r status).hp,
             qos := (s.signalFor f r status).qos } := by
  unfold State.signalFor
  split
  · unfold State.signalFence
    rw [State.putFence_eq]
    rfl
  · rfl

/-- A request that ends leaves every vat and role but for the record and the work of its session. -/
theorem State.endReq_eq {s : State} {vat : Nat} {v : Vat} (hv : s.vat? vat = some v) (i status : Nat) (into : SessState) :
    ∃ t : State, t.vats = s.vats ∧ t.roles = s.roles ∧ s.endReq vat i status into =
      (t.onSess vat i fun r => { r with state := into }).onWk vat i fun w =>
        { w with req := none, inTile := [], outTile := [], objs := [], cancel := false, starved := false } := by
  simp only [State.endReq, hv]
  refine ⟨_, ?_, ?_, rfl⟩
  all_goals
    split
    · rfl
    · split
      · rw [State.signalFor_eq, State.outWrite_eq]
      · rw [State.outWrite_eq]

/-! ### A session that has left the step -/

/-- Session `i` of the vat has the record `r`, the vat runs no step and no halt of it is set. -/
def State.Settled (vat i : Nat) (r : Session) (s : State) : Prop :=
  (s.role vat).haltAt = none ∧ ∃ u, s.vat? vat = some u ∧ u.step = none ∧ u.sess i = r

section
variable {s : State} {vat i : Nat} {r : Session}

theorem State.Settled.congr (h : s.Settled vat i r) {t : State} (hv : t.vats = s.vats) (hr : t.roles = s.roles) : t.Settled vat i r := by
  obtain ⟨hhalt, u, hu, hrest⟩ := h
  exact ⟨by rw [State.role_congr hr, hhalt], u, (State.vat?_congr hv vat).trans hu, hrest⟩

/-- A change of a role that leaves the halt. -/
theorem State.Settled.onRole (h : s.Settled vat i r) (x : Nat) {f : VatRole → VatRole} (hf : ∀ o, (f o).haltAt = o.haltAt) :
    (s.onRole x f).Settled vat i r := by
  obtain ⟨hhalt, hvat⟩ := h
  refine ⟨?_, hvat⟩
  by_cases hx : vat = x
  · rw [← hx, State.role_onRole_same, hf, hhalt]
  · rw [State.role_onRole_other s f hx, hhalt]

/-- A change of a vat that starts no step of this vat and leaves this session's record. -/
theorem State.Settled.onVat (h : s.Settled vat i r) (x : Nat) {f : Vat → Vat}
    (hf : ∀ u, u.step = none → (f u).step = none ∧ (x = vat → (f u).sess i = u.sess i)) : (s.onVat x f).Settled vat i r := by
  obtain ⟨hhalt, u, hu, hstep, hsess⟩ := h
  by_cases hx : x = vat
  · subst hx
    obtain ⟨hstep', hsess'⟩ := hf u hstep
    exact ⟨hhalt, f u, State.vat?_onVat_of hu f, hstep', (hsess' rfl).trans hsess⟩
  · exact ⟨hhalt, u, (State.vat?_onVat_other s f (Ne.symm hx)).trans hu, hstep, hsess⟩

theorem State.Settled.onWk (h : s.Settled vat i r) (x j : Nat) (f : SessWork → SessWork) : (s.onWk x j f).Settled vat i r :=
  h.onVat x fun _ hu => ⟨hu, fun _ => rfl⟩

/-- A change of another session's record. -/
theorem State.Settled.onSess (h : s.Settled vat i r) {x j : Nat} (hne : x = vat → j ≠ i) (f : Session → Session) :
    (s.onSess x j f).Settled vat i r :=
  h.onVat x fun _ hu => ⟨hu, fun hx => mapGet_set_other _ _ _ (Ne.symm (hne hx))⟩

theorem State.Settled.endReq (h : s.Settled vat i r) {x j : Nat} (hne : x = vat → j ≠ i) (status : Nat) (into : SessState) :
    (s.endReq x j status into).Settled vat i r := by
  cases hx : s.vat? x with
  | none =>
    simp only [State.endReq, hx]
    exact h
  | some v =>
    obtain ⟨t, hv, hr, ht⟩ := State.endReq_eq hx j status into
    rw [ht]
    exact ((h.congr hv hr).onSess hne _).onWk x j _

theorem State.Settled.withdraw (h : s.Settled vat i r) (x j : Nat) : (s.withdraw x j).Settled vat i r := by
  unfold State.withdraw
  split
  · exact h
  · next v hx =>
    split
    · refine State.Settled.onWk ?_ x j _
      simp only [State.offer, hx]
      obtain ⟨m, hm⟩ := State.control_out s v 0x0C _ s.now _ _
      rw [hm]
      exact h
    · exact h

theorem State.Settled.dropBias (h : s.Settled vat i r) {x j : Nat} (hne : x = vat → j ≠ i) : (s.dropBias x j).Settled vat i r := by
  unfold State.dropBias
  split
  · exact h
  · dsimp only
    split
    · exact h
    · exact State.Settled.onSess (h.congr rfl rfl) hne _

theorem State.Settled.freeSess (h : s.Settled vat i r) {x j : Nat} (hne : x = vat → j ≠ i) : (s.freeSess x j).Settled vat i r :=
  ((h.withdraw x j).dropBias hne).onVat x fun _ hu => ⟨hu, fun hx => mapGet_del_other _ _ (Ne.symm (hne hx))⟩

/-- What leaves a table that does not start is a session that is Placed: not one that has left the step. -/
theorem State.Settled.degradeSess (h : s.Settled vat i r) (hr : r.state ≠ .placed) (x j : Nat) : (s.degradeSess x j).Settled vat i r := by
  unfold State.degradeSess
  split
  · exact h
  · next v hx =>
    split
    · exact h
    · next hplaced =>
      have hne : x = vat → j ≠ i := by
        obtain ⟨-, u, hu, -, hsess⟩ := h
        rintro rfl rfl
        obtain rfl : u = v := Option.some.inj (hu.symm.trans hx)
        exact hplaced (hsess ▸ hr)
      have hready := h.onSess hne fun r => { r with state := .ready }
      have hcancel : (if (v.wk j).cancel then (s.onSess x j fun r => { r with state := .ready }).endReq x j 0x0012 .idle
          else s.onSess x j fun r => { r with state := .ready }).Settled vat i r := by
        split
        · exact hready.endReq hne _ _
        · exact hready
      dsimp only
      split
      · exact (hcancel.endReq hne _ _).freeSess hne
      · split
        · exact (hcancel.onSess hne _).onWk x j _
        · exact hcancel

theorem State.Settled.dropFrozen (h : s.Settled vat i r) (hr : r.state ≠ .placed) (x : Nat) : (s.dropFrozen x).Settled vat i r := by
  unfold State.dropFrozen
  split
  · exact h
  · refine State.Settled.onVat ?_ x fun _ hu => ⟨hu, fun _ => rfl⟩
    exact List.foldlRecOn (motive := State.Settled vat i r) _ _ h fun t ht j _ => ht.degradeSess hr x j

theorem State.Settled.insertRest (h : s.Settled vat i r) (x n : Nat) : (s.insertRest x n).Settled vat i r :=
  State.Settled.onRole (h.onVat x (f := fun v => { v with boundary := v.boundary + n }) fun _ hu => ⟨hu, fun _ => rfl⟩) x fun _ => rfl

theorem State.Settled.failStep (h : s.Settled vat i r) (x : Nat) (c : Cause) : (s.failStep x c).Settled vat i r :=
  h.onVat x fun u hu => ⟨by simp [hu], fun _ => rfl⟩

theorem State.Settled.failGroup (h : s.Settled vat i r) (x : Nat) : (s.failGroup x).Settled vat i r := by
  refine List.foldlRecOn (motive := State.Settled vat i r) _ _ h fun t ht v _ => ?_
  split
  · exact ht.failStep _ _
  · exact ht

theorem State.Settled.refreeze (h : s.Settled vat i r) (hr : r.state ≠ .placed) : s.refreeze.Settled vat i r := by
  refine List.foldlRecOn (motive := State.Settled vat i r) _ _ h fun t ht v _ => ?_
  split
  · split
    · exact ht
    · dsimp only
      split
      · exact (ht.dropFrozen hr _).insertRest _ _
      · exact ht.dropFrozen hr _
  · exact ht

/-- Failing the group and returning to the old gear (R150). -/
theorem State.Settled.gearBack (h : s.Settled vat i r) (hr : r.state ≠ .placed) (run : StepRun) (reps : List MemberReport) :
    (s.gearBack run reps).Settled vat i r := by
  unfold State.gearBack
  extract_lets t
  have ht : t.Settled vat i r := by
    unfold t
    split
    · split
      · exact (h.failGroup _).congr rfl rfl
      · exact h
    · exact h
  clear_value t
  split
  · split
    · refine State.Settled.refreeze (ht.congr ?_ ?_) hr
      · rfl
      · rfl
    · exact ht
  · exact ht

theorem State.Settled.rejoin (h : s.Settled vat i r) (x : Nat) : (s.rejoin x).Settled vat i r := by
  refine List.foldlRecOn (motive := State.Settled vat i r) _ _ h fun t ht c _ => ?_
  split
  · exact ht.congr rfl rfl
  · exact ht

theorem State.Settled.startCopy (h : s.Settled vat i r) (k : Nat) : (s.startCopy k).Settled vat i r := by
  unfold State.startCopy
  dsimp only
  split
  · exact h.congr rfl rfl
  · split
    · exact h.congr rfl rfl
    · refine List.foldlRecOn (motive := State.Settled vat i r) _ _ h fun t ht x _ => ?_
      unfold State.sendDown State.sendControl
      split
      · exact ht
      · split
        · exact ht.congr rfl rfl
        · exact ht.congr rfl rfl

theorem State.Settled.switchSlices (h : s.Settled vat i r) (x : Nat) : (s.switchSlices x).Settled vat i r := by
  refine List.foldlRecOn (motive := State.Settled vat i r) _ _ h fun t ht c _ => ?_
  refine List.foldlRecOn (motive := State.Settled vat i r) _ _ ?_ fun t ht k _ => ht.startCopy k
  have hswapped := ht.onVat x (f := fun v => { v with place := v.place.swap c.2.src c.2.spare, gone := v.gone ++ [c.2.src] })
    fun _ hu => ⟨hu, fun _ => rfl⟩
  exact hswapped.congr rfl rfl

end

/-- What is done at the boundary after the lanes leaves a session that has left the step (R148, R150, R399). -/
theorem State.leaveStep_settled {s : State} {vat i : Nat} {v : Vat} (hv : s.vat? vat = some v) (hr : (v.sess i).state ≠ .placed)
    (hhalt : (s.role vat).haltAt = none) (w : Vat) (run : StepRun) (reps : List MemberReport) :
    (s.leaveStep vat w run reps).Settled vat i (v.sess i) := by
  have hover : (s.onVat vat fun u => u.stepOver run).Settled vat i (v.sess i) := ⟨hhalt, _, State.vat?_onVat_of hv _, rfl, rfl⟩
  exact (((hover.gearBack hr run reps).rejoin vat).switchSlices vat).onRole vat fun _ => rfl

/-! ### What the boundary records -/

@[simp] theorem State.faultLog_vats (s : State) (v : Nat) (b : List Byte) : (s.faultLog v b).vats = s.vats := by rw [State.faultLog_eq]
@[simp] theorem State.faultLog_roles (s : State) (v : Nat) (b : List Byte) : (s.faultLog v b).roles = s.roles := by rw [State.faultLog_eq]

@[simp] theorem State.note_vats (s : State) (src : Nat) (what : String) (arg : Nat) : (s.note src what arg).vats = s.vats := by
  obtain ⟨es, qs, h⟩ := s.note_frame src what arg
  rw [h]

@[simp] theorem State.note_roles (s : State) (src : Nat) (what : String) (arg : Nat) : (s.note src what arg).roles = s.roles := by
  obtain ⟨es, qs, h⟩ := s.note_frame src what arg
  rw [h]

/-- The records of a step leave every vat and role (R408). -/
theorem State.logStep_members (s : State) (vat : Nat) (v : Vat) (run : StepRun) (reps : List MemberReport) (status : Nat) :
    (s.logStep vat v run reps status).vats = s.vats ∧ (s.logStep vat v run reps status).roles = s.roles := by
  unfold State.logStep
  extract_lets t mine others
  have ht : t.vats = s.vats ∧ t.roles = s.roles :=
    List.foldlRecOn (motive := fun t : State => t.vats = s.vats ∧ t.roles = s.roles) _ _ ⟨rfl, rfl⟩ fun t ht e _ => by simpa using ht
  clear_value t
  split
  · simpa using ht
  · exact ht

/-- A step that is no replay, or a vat without one, has no verdict to give (R404). -/
theorem State.replayVerdict_none {s : State} {vat : Nat} {run : StepRun} (h : run.table.replay = true → (s.role vat).replay = none) :
    s.replayVerdict vat run = s := by
  unfold State.replayVerdict
  split
  · rfl
  · next r hr =>
    have hplain : run.table.replay = false := by
      refine Bool.eq_false_iff.mpr fun htrue => ?_
      rw [h htrue] at hr
      cases hr
    simp [hplain]

theorem State.recordStep_members {s : State} {vat : Nat} {run : StepRun} (h : run.table.replay = true → (s.role vat).replay = none) (v : Vat)
    (reps : List MemberReport) : (s.recordStep vat v run reps).vats = s.vats ∧ (s.recordStep vat v run reps).roles = s.roles := by
  obtain ⟨hvats, hroles⟩ := s.logStep_members vat v run reps (stepStatus run reps)
  have hsame : run.table.replay = true → ((s.logStep vat v run reps (stepStatus run reps)).role vat).replay = none := by
    rw [State.role_congr hroles]
    exact h
  rw [State.recordStep, State.replayVerdict_none hsame]
  exact ⟨hvats, hroles⟩

/-- Counting lanes for contexts leaves every vat and role (R334). -/
theorem State.countLanes_members (s : State) (v : Vat) (run : StepRun) :
    (s.countLanes v run).vats = s.vats ∧ (s.countLanes v run).roles = s.roles := by
  refine List.foldlRecOn (motive := fun t : State => t.vats = s.vats ∧ t.roles = s.roles) _ _ ⟨rfl, rfl⟩ fun t ht p _ => ?_
  dsimp only
  split
  · exact ht
  · exact ht

theorem State.replayStall_none {s : State} {vat : Nat} (h : (s.role vat).replay = none) (core : Option Nat) : s.replayStall vat core = s := by
  simp only [State.replayStall, h]

theorem State.foldl_replayStall_none {s : State} {vat : Nat} (h : (s.role vat).replay = none) (l : List Nat) :
    l.foldl (fun t _ => t.replayStall vat none) s = s :=
  List.foldlRecOn (motive := (· = s)) l _ rfl fun t ht _ _ => by rw [ht, State.replayStall_none h]

theorem State.replayBegin_members (s : State) (vat : Nat) (cores : List Nat) :
    (s.replayBegin vat cores).vats = s.vats ∧ ((s.replayBegin vat cores).role vat).haltAt = (s.role vat).haltAt := by
  unfold State.replayBegin
  split
  · exact ⟨rfl, rfl⟩
  · dsimp only
    split
    · exact ⟨rfl, rfl⟩
    · rw [State.role_onRole_same]
      split
      · exact ⟨rfl, rfl⟩
      · exact ⟨rfl, rfl⟩

/-- Stalls that members report begin a replay where none stands and the step was none; they set no halt (R403, R404). -/
theorem State.remoteStalls_members {s : State} {vat : Nat} (h : (s.role vat).replay = none) (v : Vat) (run : StepRun)
    (reps : List MemberReport) :
    let t := s.remoteStalls vat v run reps
    t.vats = s.vats ∧ (t.role vat).haltAt = (s.role vat).haltAt ∧ (run.table.replay = true → (t.role vat).replay = none) := by
  intro t
  have hkept : s.vats = s.vats ∧ (s.role vat).haltAt = (s.role vat).haltAt ∧ (run.table.replay = true → (s.role vat).replay = none) :=
    ⟨rfl, rfl, fun _ => h⟩
  simp only [t, State.remoteStalls]
  split
  · exact hkept
  · split
    · rw [State.foldl_replayStall_none h]
      exact hkept
    · next hplain =>
      obtain ⟨hvats, hhalt⟩ := s.replayBegin_members vat []
      exact ⟨hvats, hhalt, fun hreplay => absurd hreplay hplain⟩

/-! ### A lane leaves its step -/

/-- What the outcome does to a lane's session, before a cancel, a close or a tree that waits (R24, R236). -/
def State.laneOutcome (s : State) (vat : Nat) (run : StepRun) (l : Lane) (status : Nat) (d : LaneDraw) : State :=
  if status = 0 then s.commitLane vat run l d
  else if status = 1 then s.onSess vat (l.session % 2 ^ 18) fun r => { r with state := .ready }
  else s.endReq vat (l.session % 2 ^ 18) status .faulted

/-- From `s` to `t` session `i` of the vat leaves its step with the record `r`, and no cancel and no tree waits for it. -/
def State.LaneLeft (s t : State) (vat i : Nat) (r : Session) : Prop :=
  t.roles = s.roles ∧ ∃ v, t.vat? vat = some v ∧ v.sess i = r ∧ (v.wk i).cancel = false ∧ (v.wk i).lateTree = none

/-- Where nothing waits for the boundary the outcome is all that the record sees of it. -/
theorem State.endLane_quiet {s : State} {vat : Nat} {run : StepRun} {p : Nat × Lane} {status : Nat} {d : LaneDraw} {i : Nat} {r : Session}
    (hi : p.2.session % 2 ^ 18 = i) (hclose : r.close = false) (h : s.LaneLeft (s.laneOutcome vat run p.2 status d) vat i r) :
    (s.endLane vat run p status d).roles = s.roles ∧
      ∃ v, (s.endLane vat run p status d).vat? vat = some v ∧ v.sess i = r := by
  obtain ⟨hroles, v, hv, hsess, hcancel, htree⟩ := h
  have hleft : s.endLane vat run p status d = (s.laneOutcome vat run p.2 status d).onWk vat i fun w => { w with
      cancel := false, lateTree := none, sampling := none, bias := [], stops := [], runTree := [] } := by
    unfold State.endLane
    extract_lets j t
    have ht : t.vat? vat = some v := hv
    obtain rfl : j = i := hi
    have hopen : (v.sess j).close = false := hsess ▸ hclose
    simp only [ht, hcancel, hopen, htree, Bool.false_eq_true, false_and, if_false]
    rfl
  rw [hleft]
  exact ⟨hroles, _, State.vat?_onVat_of hv _, hsess⟩

@[simp] theorem Vat.sess_onSess_same (v : Vat) (i : Nat) (f : Session → Session) : (v.onSess i f).sess i = f (v.sess i) :=
  mapGet_set_same _ _ _ _

@[simp] theorem Vat.wk_onWk_same (v : Vat) (i : Nat) (f : SessWork → SessWork) : (v.onWk i f).wk i = f (v.wk i) :=
  mapGet_set_same _ _ _ _

@[simp] theorem Vat.sess_onWk (v : Vat) (i : Nat) (f : SessWork → SessWork) (j : Nat) : (v.onWk i f).sess j = v.sess j := rfl
@[simp] theorem Vat.wk_onSess (v : Vat) (i : Nat) (f : Session → Session) (j : Nat) : (v.onSess i f).wk j = v.wk j := rfl

section
variable {s : State} {vat i : Nat} {v : Vat} {l : Lane} (hv : s.vat? vat = some v) (hi : l.session % 2 ^ 18 = i)
  (hcancel : (v.wk i).cancel = false) (htree : (v.wk i).lateTree = none)
include hv hi htree

/-- A Failed step ends the session's request with the deciding cause and leaves the session Faulted (R24, R236). -/
theorem State.laneOutcome_failed (run : StepRun) {status : Nat} (hstatus : 2 ≤ status) (d : LaneDraw) :
    s.LaneLeft (s.laneOutcome vat run l status d) vat i { v.sess i with state := .faulted } := by
  have hne : ¬ status = 0 ∧ ¬ status = 1 := by omega
  obtain ⟨t, hvats, hroles, ht⟩ := State.endReq_eq hv i status .faulted
  have hvt : t.vat? vat = some v := (State.vat?_congr hvats vat).trans hv
  rw [State.laneOutcome, if_neg hne.1, if_neg hne.2, hi, ht]
  refine ⟨hroles, _, State.vat?_onVat_of (State.vat?_onVat_of hvt _) _, ?_, ?_, ?_⟩
  · rw [Vat.sess_onWk, Vat.sess_onSess_same]
  · rw [Vat.wk_onWk_same]
  · rw [Vat.wk_onWk_same]
    exact htree

include hcancel

/-- A Degraded step leaves the session Ready, its request as it was (R24, R236). -/
theorem State.laneOutcome_degraded (run : StepRun) (d : LaneDraw) :
    s.LaneLeft (s.laneOutcome vat run l 1 d) vat i { v.sess i with state := .ready } := by
  rw [State.laneOutcome, if_neg (by omega), if_pos rfl, hi]
  exact ⟨rfl, _, State.vat?_onVat_of hv _, Vat.sess_onSess_same v i _, hcancel, htree⟩

end

/-- The record after a lane that ran `n` positions of input and drew no token (R240). -/
def Session.ranInputs (r : Session) (blockPos n : Nat) : Session := { r.commit blockPos n n [] with state := .ready }

/-- Fewer positions than are left leave input (R239). -/
theorem Session.input_left {r : Session} {n : Nat} (hn : 1 ≤ n) (hleft : n < r.left) : r.inDone + (n - b2n r.pend.isSome) < r.inCount := by
  have hone : b2n r.pend.isSome ≤ 1 := by
    unfold b2n
    split <;> omega
  unfold Session.left at hleft
  omega

theorem Session.commit_inDone {r : Session} (blockPos : Nat) {n : Nat} (hn : 1 ≤ n) (hleft : n < r.left) :
    (r.commit blockPos n n []).inDone = r.inDone + (n - b2n r.pend.isSome) :=
  Nat.min_eq_right (Nat.le_of_lt (Session.input_left hn hleft))

/-- While input is left after the lane, and positions, the request goes on (R241). -/
theorem Session.endStatus_inputs {r : Session} {blockPos n maxPos : Nat} (stops : List Nat) (hn : 1 ≤ n) (hleft : n < r.left)
    (hmax : r.len + n < maxPos) : (r.commit blockPos n n []).endStatus stops [] maxPos = none := by
  have hinput : ¬(r.commit blockPos n n []).inCount ≤ (r.commit blockPos n n []).inDone := by
    rw [Session.commit_inDone blockPos hn hleft]
    exact Nat.not_le.mpr (Session.input_left hn hleft)
  have hroom : ¬maxPos ≤ (r.commit blockPos n n []).len := Nat.not_le.mpr hmax
  simp [Session.endStatus, hinput, hroom]

/-- In a PREFILL step whose lane ends before the input does no token is drawn (R256). -/
theorem State.drawOf_inputs {s : State} {v : Vat} {run : StepRun} {l : Lane} (hhome : v.homeLanes run = [(0, l)]) (hkind : run.kind = 2)
    (hdraws : run.draws = []) (hleft : l.count < (v.sess (l.session % 2 ^ 18)).left) : s.drawOf v run 0 = ⟨0, some [], []⟩ := by
  have hno : ¬(run.kind ≠ 3 ∧ (v.sess (l.session % 2 ^ 18)).left ≤ l.count ∧
      (v.sess (l.session % 2 ^ 18)).produced < (v.sess (l.session % 2 ^ 18)).maxNew) := by omega
  have hdraw : s.drawLane v run 0 l = ⟨0, some [], []⟩ := (if_neg (by omega)).trans (if_neg hno)
  simp [State.drawOf, State.drawAll, hhome, hdraws, hdraw]

/-- The commit of a PREFILL lane that leaves input: its rows, its input, and the output's header (R240, R241). -/
theorem State.commitLane_inputs {s : State} {vat i : Nat} {v : Vat} {run : StepRun} {l : Lane} (hv : s.vat? vat = some v)
    (hi : l.session % 2 ^ 18 = i) (hkind : run.kind = 2) (hn : 1 ≤ l.count) (hleft : l.count < (v.sess i).left)
    (hmax : (v.sess i).len + l.count < v.params.maxPos) :
    s.commitLane vat run l ⟨0, some [], []⟩ =
      (((s.outWrite (v.wk i) (16 + 4 * (v.sess i).produced) []).onSess vat i fun _ =>
        (v.sess i).ranInputs v.params.blockPos l.count).onWk vat i fun w => { w with copies := [] }).outWrite (v.wk i) 0
          (outHeader 0 (v.sess i).produced s.now) := by
  simp only [State.commitLane, hv, hi, hkind, keptCount, indexWhere, List.length_nil, List.range_zero, List.zip_nil_left, List.take_nil,
    Nat.reduceEqDiff, reduceIte]
  rw [Session.endStatus_inputs _ hn hleft hmax]
  rfl

theorem State.laneOutcome_inputs {s : State} {vat i : Nat} {v : Vat} {run : StepRun} {l : Lane} (hv : s.vat? vat = some v)
    (hi : l.session % 2 ^ 18 = i) (hcancel : (v.wk i).cancel = false) (htree : (v.wk i).lateTree = none) (hkind : run.kind = 2)
    (hn : 1 ≤ l.count) (hleft : l.count < (v.sess i).left) (hmax : (v.sess i).len + l.count < v.params.maxPos) :
    s.LaneLeft (s.laneOutcome vat run l 0 ⟨0, some [], []⟩) vat i ((v.sess i).ranInputs v.params.blockPos l.count) := by
  have hwritten := (s.vat?_outWrite (v.wk i) (16 + 4 * (v.sess i).produced) [] vat).trans hv
  rw [State.laneOutcome, if_pos rfl, State.commitLane_inputs hv hi hkind hn hleft hmax, State.LaneLeft, State.outWrite_roles, State.vat?_outWrite]
  refine ⟨State.outWrite_roles s _ _ _, _, State.vat?_onVat_of (State.vat?_onVat_of hwritten _) _, ?_, ?_, ?_⟩
  · rw [Vat.sess_onWk, Vat.sess_onSess_same]
  · rw [Vat.wk_onWk_same]
    exact hcancel
  · rw [Vat.wk_onWk_same]
    exact htree

/-- The lane of a session that lives here is the one home lane of its step. -/
theorem Vat.homeLanes_single {v : Vat} {run : StepRun} {l : Lane} {i : Nat} (hlanes : run.table.lanes = [l])
    (hses : l.session = v.lpkg * 2 ^ 18 + i) (hi : i < 2 ^ 18) (hplaced : (v.sess i).state = .placed) :
    v.homeLanes run = [(0, l)] ∧ l.session % 2 ^ 18 = i := by
  have hpkg : l.session / 2 ^ 18 = v.lpkg := by omega
  have hidx : l.session % 2 ^ 18 = i := by omega
  have hzip : (List.range [l].length).zip [l] = [(0, l)] := rfl
  refine ⟨?_, hidx⟩
  rw [Vat.homeLanes, hlanes, hzip, List.filter_cons_of_pos (by simp only [hpkg, hidx, hplaced, and_self, decide_true]), List.filter_nil]

/-- A boundary with one home lane and no halt: the session has the record its lane's outcome gave it, and the vat runs no step. -/
theorem State.endStep_lane {s : State} {vat i : Nat} {v : Vat} {run : StepRun} {l : Lane} (hv : s.vat? vat = some v)
    (hrun : v.step = some run) (hhome : v.homeLanes run = [(0, l)]) (hi : l.session % 2 ^ 18 = i) (hhalt : (s.role vat).haltAt = none)
    (hreplay : (s.role vat).replay = none) (reps : List MemberReport) {r : Session} (hclose : r.close = false) (hr : r.state ≠ .placed)
    (hout : ∀ t : State, t.vat? vat = some v → t.LaneLeft (t.laneOutcome vat run l (stepStatus run reps) (s.drawOf v run 0)) vat i r) :
    ∃ u, (s.endStep vat reps).vat? vat = some u ∧ u.step = none ∧ u.sess i = r := by
  obtain ⟨hvats, hroles⟩ := s.countLanes_members v run
  have hcounted := State.role_congr hroles vat
  obtain ⟨hvats', hhalt', hreplay'⟩ := State.remoteStalls_members (s := s.countLanes v run) (hcounted ▸ hreplay) v run reps
  generalize hc : (s.countLanes v run).remoteStalls vat v run reps = c at hvats' hhalt' hreplay'
  have hcv : c.vat? vat = some v := (State.vat?_congr (hvats'.trans hvats) vat).trans hv
  obtain ⟨hleftRoles, w, hw, hsess⟩ := State.endLane_quiet (p := (0, l)) hi hclose (hout c hcv)
  have hsettle : s.settleLanes vat v run reps = c.endLane vat run (0, l) (stepStatus run reps) (s.drawOf v run 0) := by
    rw [State.settleLanes, hhome, hc]
    rfl
  rw [State.endStep_eq hv hrun, hsettle]
  generalize c.endLane vat run (0, l) (stepStatus run reps) (s.drawOf v run 0) = e at hleftRoles hw
  have hleft := State.role_congr hleftRoles vat
  obtain ⟨hlogVats, hlogRoles⟩ := State.recordStep_members (hleft.symm ▸ hreplay') v reps
  generalize e.recordStep vat v run reps = q at hlogVats hlogRoles
  have hqv : q.vat? vat = some w := (State.vat?_congr hlogVats vat).trans hw
  have hqhalt : (q.role vat).haltAt = none := by
    rw [State.role_congr hlogRoles, hleft, hhalt', hcounted, hhalt]
  obtain ⟨hstay, u, hu, hstep, hkept⟩ := State.leaveStep_settled hqv (hsess ▸ hr) hqhalt v run reps
  have hnot : ((q.leaveStep vat v run reps).role vat).halting (run.table.start + run.length) = false := by simp [VatRole.halting, hstay]
  refine ⟨u, ?_, hstep, hkept.trans hsess⟩
  simp only [hnot]
  exact hu

end Sys2Proof.Machine
end

section
/-! A step starts and ends: the status of a step (R24, R407), the boundary of one without lanes, and the statement. -/

namespace Sys2Proof.Machine
open Sys2Proof Sys2Proof.Safety

/-! ### The status of a step -/

/-- The cause that decides is one of the causes. -/
theorem firstCause_mem {cs : List Cause} {c : Cause} (h : firstCause cs = some c) : c ∈ cs := by
  cases cs with
  | nil => cases h
  | cons a l =>
    obtain rfl := Option.some.inj h
    refine List.foldlRecOn (motive := (· ∈ a :: l)) l _ List.mem_cons_self fun b hb c hc => ?_
    split
    · exact List.mem_cons_of_mem a hc
    · exact hb

theorem firstCause_of_ne_nil {cs : List Cause} (h : cs ≠ []) : ∃ c ∈ cs, firstCause cs = some c := by
  cases hfirst : firstCause cs with
  | some c => exact ⟨c, firstCause_mem hfirst, rfl⟩
  | none =>
    cases cs with
    | nil => exact absurd rfl h
    | cons a l => cases hfirst

/-- A cause of a step is one of its own or one that a member reports (R24). -/
theorem mem_allCauses {run : StepRun} {reps : List MemberReport} {c : Cause} :
    c ∈ allCauses run reps ↔ c ∈ run.causes ∨ ∃ q ∈ reps, ∃ x ∈ q.causes, c = ⟨x.1, x.2.1, x.2.2, 0⟩ := by
  simp only [allCauses, List.mem_append, List.mem_flatMap, List.mem_map, eq_comm]

/-- A step with a Failed cause, its own or a member's, has a Failed status (R24, R407). -/
theorem stepStatus_failed {run : StepRun} {reps : List MemberReport} (h : run.causes ≠ [] ∨ ∃ q ∈ reps, q.causes ≠ [])
    (hown : ∀ c ∈ run.causes, 2 ≤ c.status) (hreps : ∀ q ∈ reps, ∀ c ∈ q.causes, 2 ≤ c.1) : 2 ≤ stepStatus run reps := by
  have hne : allCauses run reps ≠ [] := by
    rcases h with h | ⟨q, hq, h⟩
    · obtain ⟨c, hc⟩ := List.exists_mem_of_ne_nil _ h
      exact List.ne_nil_of_mem (mem_allCauses.mpr (.inl hc))
    · obtain ⟨x, hx⟩ := List.exists_mem_of_ne_nil _ h
      exact List.ne_nil_of_mem (mem_allCauses.mpr (.inr ⟨q, hq, x, hx, rfl⟩))
  obtain ⟨c, hc, hfirst⟩ := firstCause_of_ne_nil hne
  simp only [stepStatus, hfirst]
  rcases mem_allCauses.mp hc with hc | ⟨q, hq, x, hx, rfl⟩
  · exact hown c hc
  · exact hreps q hq x hx

/-- Without a Failed cause a step is Degraded where a part of it is, else Completed (R24). -/
theorem stepStatus_clean {run : StepRun} {reps : List MemberReport} (hown : run.causes = []) (hreps : ∀ q ∈ reps, q.causes = []) :
    stepStatus run reps = if run.degraded || reps.any (·.degraded) then 1 else 0 := by
  have hnone : allCauses run reps = [] := by
    refine List.eq_nil_iff_forall_not_mem.mpr fun c hc => ?_
    rcases mem_allCauses.mp hc with hc | ⟨q, hq, x, hx, -⟩
    · simp [hown] at hc
    · simp [hreps q hq] at hx
  simp only [stepStatus, hnone, firstCause]

/-! ### A boundary with nothing to settle -/

/-- Where no gear change stands the boundary moves no gear (R150). -/
theorem State.gearBack_none {s : State} (hprev : s.tick.prev = none) (hback : s.tick.back = none) (run : StepRun) (reps : List MemberReport) :
    s.gearBack run reps = s := by
  simp only [State.gearBack, hprev, hback]

theorem State.rejoin_none {s : State} (h : s.cores = []) (vat : Nat) : s.rejoin vat = s := by
  simp [State.rejoin, State.vatCores, h]

theorem State.switchSlices_none {s : State} (h : s.mem.copies = []) (vat : Nat) : s.switchSlices vat = s := by
  simp [State.switchSlices, h]

/-- The boundary of a step without lanes, errors or a head's outcome on this package: its vat leaves the step (R24, R148). -/
theorem State.endStep_bare {s : State} {vat : Nat} {u : Vat} {run : StepRun} (hu : s.vat? vat = some u) (hrun : u.step = some run)
    (hlanes : run.table.lanes = []) (herrs : run.errs = []) (hhead : u.lpkg ≠ u.headLpkg) (hprev : s.tick.prev = none)
    (hback : s.tick.back = none) (hcores : s.cores = []) (hcopies : s.mem.copies = []) (hhalt : (s.role vat).haltAt = none)
    (hreplay : (s.role vat).replay = none) (reps : List MemberReport) :
    s.endStep vat reps = (((s.overrunStep run).onVat vat fun v => v.stepOver run).onRole vat fun r => r.stepOver run u.meter.first) := by
  have hno : u.isHead = false := by simp [Vat.isHead, hhead]
  have hhome : u.homeLanes run = [] := by simp [Vat.homeLanes, hlanes]
  have hsettle : s.settleLanes vat u run reps = s := by
    simp [State.settleLanes, State.countLanes, hhome, State.remoteStalls, hno]
  have hrecord : s.recordStep vat u run reps = s.overrunStep run := by
    have hlog : s.logStep vat u run reps (stepStatus run reps) = s := by simp [State.logStep, herrs, hno]
    rw [State.recordStep, hlog, State.replayVerdict_none fun _ => hreplay]
  have hleave : (s.overrunStep run).leaveStep vat u run reps =
      ((s.overrunStep run).onVat vat fun v => v.stepOver run).onRole vat fun r => r.stepOver run u.meter.first := by
    rw [State.leaveStep, State.gearBack_none, State.rejoin_none, State.switchSlices_none]
    · exact hcopies
    · exact hcores
    · exact hprev
    · exact hback
  rw [State.endStep_eq hu hrun, hsettle, hrecord, hleave]
  refine if_neg ?_
  rw [State.role_onRole_same]
  have hrole : ((s.overrunStep run).onVat vat fun v => v.stepOver run).role vat = s.role vat := rfl
  simp [hrole, VatRole.stepOver, VatRole.halting, hhalt]

/-! ### The statement -/

theorem exec_stepBoundary_due {s : State} {vat : Nat} {u : Vat} {run : StepRun} (hu : s.vat? vat = some u) (hrun : u.step = some run)
    (hdue : run.table.start + run.length ≤ s.tick.count) (reps : List MemberReport) :
    exec (.stepBoundary vat reps) s = .next (s.endStep vat reps) :=
  congrArg _ (if_pos (by simp [hu, hrun, State.boundaryDue, State.now, hdue]))

/-- Settles O4: each clause is one start, one boundary, one draw, one mark or one window, read off what the operation does. -/
theorem stepsStartAndEnd : Obligations.StepsStartAndEnd := by
  unfold Obligations.StepsStartAndEnd
  refine ⟨?start, ⟨?bare, ?failed, ?degraded, ?inputs⟩, ?draw, ?mark, ?refresh⟩
  case start =>
    intro s vat a u m hu hm hid hrole hrun hstep hmark hhalt hlock haligned hnow hlost hstepId hfit hvariant htable
    have h : s.Runs vat u m := ⟨hu, hm, hid, hrole, hrun, hlock, haligned, hhalt⟩
    rw [exec_stepStart_due (h.startDue hstep hmark hnow hstepId hfit hvariant htable)]
    obtain ⟨⟨u', r, hu', hr, hstart, hstep', hkind, hlen, hcauses, hdegraded, hrunning, hfrozen, hbound⟩, hhang, hcredit, hframe⟩ :=
      State.startStep_spec hu hm a hlost
    refine ⟨_, u', r, rfl, hu', hr, hstart, hstep', hkind, hlen, hcauses, hdegraded, hrunning, hfrozen, hbound, hhang, hcredit, ?_⟩
    rw [hframe]
    exact ⟨rfl, rfl, rfl, rfl⟩
  case bare =>
    intro s vat reps u r hu hr hdue hlanes herrs hhead hprev hback hcores hcopies hhalt hreplay
    rw [exec_stepBoundary_due hu hr hdue,
      State.endStep_bare hu hr hlanes herrs hhead hprev hback hcores hcopies hhalt hreplay]
    refine ⟨_, rfl, ?_, rfl, ?_, ?_, rfl⟩
    · rw [State.vat?_onRole]
      exact State.vat?_onVat_of (s := s.overrunStep r) hu _
    · rw [State.role_onRole_same]
      rfl
    · rw [State.role_onRole_same]
      rfl
  case failed =>
    intro s vat i reps u r l hu hr hdue hlanes hses hi hplaced hclose hcancel htree _ hhalt hreplay hcause hown hreps
    obtain ⟨hhome, hidx⟩ := Vat.homeLanes_single hlanes hses hi hplaced
    obtain ⟨u', hu', hstep, hsess⟩ := State.endStep_lane hu hr hhome hidx hhalt hreplay reps (r := { u.sess i with state := .faulted })
      hclose (by simp) fun t ht => State.laneOutcome_failed ht hidx htree r (stepStatus_failed hcause hown hreps) _
    exact ⟨_, u', exec_stepBoundary_due hu hr hdue reps, hu', hstep, by rw [hsess], by rw [hsess]⟩
  case degraded =>
    intro s vat i reps u r l hu hr hdue hlanes hses hi hplaced hclose hcancel htree hhalt hreplay hown hreps hdegraded
    obtain ⟨hhome, hidx⟩ := Vat.homeLanes_single hlanes hses hi hplaced
    have hstatus : stepStatus r reps = 1 := by
      rw [stepStatus_clean hown hreps, if_pos (by simpa using hdegraded)]
    obtain ⟨u', hu', hstep, hsess⟩ := State.endStep_lane hu hr hhome hidx hhalt hreplay reps (r := { u.sess i with state := .ready })
      hclose (by simp) fun t ht => hstatus ▸ State.laneOutcome_degraded ht hidx hcancel htree r _
    exact ⟨_, u', exec_stepBoundary_due hu hr hdue reps, hu', hstep, by rw [hsess], by rw [hsess]⟩
  case inputs =>
    intro s vat i reps u r l hu hr hdue hlanes hses hi hplaced hclose hcancel htree hhalt hreplay hown hreps hwhole hwholes hkind hdraws
      hcount hleft hmax
    obtain ⟨hhome, hidx⟩ := Vat.homeLanes_single hlanes hses hi hplaced
    have hstatus : stepStatus r reps = 0 := by
      rw [stepStatus_clean hown hreps]
      simpa [hwhole] using hwholes
    have hdraw : s.drawOf u r 0 = ⟨0, some [], []⟩ := State.drawOf_inputs hhome hkind hdraws (hidx.symm ▸ hleft)
    obtain ⟨u', hu', hstep, hsess⟩ := State.endStep_lane hu hr hhome hidx hhalt hreplay reps
      (r := (u.sess i).ranInputs u.params.blockPos l.count) hclose (by simp [Session.ranInputs]) fun t ht => by
        rw [hstatus, hdraw]
        exact State.laneOutcome_inputs ht hidx hcancel htree hkind hcount hleft hmax
    refine ⟨_, u', exec_stepBoundary_due hu hr hdue reps, hu', hstep, ?_⟩
    rw [hsess]
    exact ⟨rfl, rfl, rfl, rfl, Session.commit_inDone u.params.blockPos hcount hleft⟩
  case draw =>
    intro s vat u r hu hr
    refine ⟨_, s.drawAll u r, exec_samplerDraw_clean hu hr, State.vat?_onVat_of hu _, List.length_map _, ?_, rfl⟩
    exact fun k d hd => State.drawAll_get hd
  case mark =>
    intro s vat u hu hstep hhang
    exact ⟨_, exec_boundaryMark_ended hu hstep hhang, State.role_onRole_same s vat _, fun v hv => State.role_onRole_other s _ hv, rfl⟩
  case refresh =>
    intro s q ch hq hch hdue
    refine ⟨_, exec_refreshWindowStart_due hq hch hdue, mapGet_set_same _ _ _ _, fun p c hpc => mapGet_set_other _ _ _ hpc, rfl⟩

end Sys2Proof.Machine
end

section
/-! What an operation of one core leaves (R75, R101), and reads of its accumulators, tables and vector registers after they were written. -/

namespace Sys2Proof.Machine
open Sys2Proof Sys2Proof.Safety

/-! ### The operation of a unit -/

theorem State.opRuns_unit {s : State} {core vat code : Nat} {w : OpWord} (h : UnitRuns s core vat code w) :
    s.opRuns core code w = some vat := by
  obtain ⟨⟨hb, hv, h1, h2, hs⟩, ⟨hc, hr, ho⟩, hi⟩ := h
  exact s.opRuns_of core vat code w hb hv h1 h2 hs hi hc hr ho

/-- A unit's operation leaves its core as its effect, and everything else as it was but for the errors met. -/
theorem State.unitOp_done {s : State} {core vat code : Nat} {w : OpWord} (h : UnitRuns s core vat code w) (f : UnitFault) (g : Core → Core) :
    UnitDone s (s.unitOp core code w f g) core f (g (s.core core)) := by
  have hr := State.opRuns_unit h
  refine ⟨?_, fun c hc => ?_, ?_⟩
  · simpa using s.unitOp_marked core vat code w f g hr core
  · simpa [State.core_onCore_other s g hc] using s.unitOp_marked core vat code w f g hr c
  · rintro rfl
    rw [s.unitOp_clean core vat code w g hr]
    exact ⟨State.core_onCore_same s core g, rfl, fun c hc => State.core_onCore_other s g hc⟩

/-! ### Sparse maps after a list of writes -/

/-- A list of writes leaves a key that none of them names. -/
theorem mapGet_sets_other {α β : Type} [DecidableEq α] (d : α) (key : β → Nat) (val : β → α) (l : List β) (m : SMap α) {k : Nat}
    (h : ∀ x ∈ l, key x ≠ k) : mapGet d (l.foldl (fun m x => mapSet d m (key x) (val x)) m) k = mapGet d m k := by
  induction l generalizing m with
  | nil => rfl
  | cons x l ih =>
    rw [List.foldl_cons, ih _ fun y hy => h y (List.mem_cons_of_mem x hy)]
    exact mapGet_set_other d m (val x) (h x List.mem_cons_self).symm

/-- A key that a list of writes names holds the value they all give it. -/
theorem mapGet_sets_same {α β : Type} [DecidableEq α] (d : α) (key : β → Nat) (val : β → α) (l : List β) (m : SMap α) {k : Nat} {v : α}
    (hk : ∃ x ∈ l, key x = k) (hv : ∀ x ∈ l, key x = k → val x = v) : mapGet d (l.foldl (fun m x => mapSet d m (key x) (val x)) m) k = v := by
  induction l generalizing m with
  | nil => simp at hk
  | cons x l ih =>
    rw [List.foldl_cons]
    by_cases htail : ∃ y ∈ l, key y = k
    · exact ih _ htail fun y hy => hv y (List.mem_cons_of_mem x hy)
    · have hx : key x = k := by simpa [htail] using hk
      rw [mapGet_sets_other d key val l _ fun y hy h => htail ⟨y, hy, h⟩, hx, mapGet_set_same]
      exact hv x List.mem_cons_self hx

/-! ### Vector registers (R95) -/

@[simp] theorem nth_of_lt {α : Type} (d : α) {l : List α} {i : Nat} (h : i < l.length) : nth d l i = l[i] := by
  rw [nth, List.getD_eq_getElem?_getD, List.getElem?_eq_getElem h, Option.getD_some]

@[simp] theorem Core.vec_length (u : Core) (r : Nat) : (u.vec r).length = 128 := by simp [Core.vec]
@[simp] theorem Core.vecs_length (u : Core) (r n : Nat) : (u.vecs r n).length = n := by simp [Core.vecs]

theorem Core.length_of_mem_vecs {u : Core} {r n : Nat} {x : List Word} (h : x ∈ u.vecs r n) : x.length = 128 := by
  obtain ⟨v, -, rfl⟩ := List.mem_map.mp h
  exact u.vec_length _

@[simp] theorem Core.getElem_vecs (u : Core) (r n v : Nat) (h : v < (u.vecs r n).length) : (u.vecs r n)[v] = u.vec (r + v) := by
  simp [Core.vecs]

/-- The register written holds what was written, and every other what it held. -/
theorem Core.vec_setVec (u : Core) (r q : Nat) {xs : List Word} (hl : xs.length = 128) :
    (u.setVec r xs).vec q = if q = r then xs else u.vec q := by
  split
  case isTrue h =>
    subst h
    refine List.ext_getElem (by simp [hl]) fun l _ hxs => ?_
    have hget : mapGet 0 (u.setVec q xs).vregs (q * 128 + l) = xs[l] := by
      refine mapGet_sets_same 0 (fun x : Word × Nat => q * 128 + x.2) Prod.fst xs.zipIdx u.vregs ⟨(xs[l], l), ?_, rfl⟩ fun x hx hkey => ?_
      · exact List.mk_mem_zipIdx_iff_getElem?.mpr (List.getElem?_eq_getElem hxs)
      · obtain rfl : x.2 = l := by omega
        exact (List.mem_zipIdx' hx).2
    simpa [Core.vec] using hget
  case isFalse h =>
    refine List.map_congr_left fun l hl' => mapGet_sets_other 0 (fun x : Word × Nat => r * 128 + x.2) Prod.fst xs.zipIdx u.vregs fun x hx => ?_
    have hlane := List.mem_range.mp hl'
    have hidx := List.snd_lt_of_mem_zipIdx hx
    omega

theorem Core.setVec_frame (u : Core) (r : Nat) (xs : List Word) : VectorOnly u (u.setVec r xs) := rfl

theorem Core.setVecs_cons (u : Core) (r : Nat) (x : List Word) (xs : List (List Word)) :
    u.setVecs r (x :: xs) = (u.setVec r x).setVecs (r + 1) xs := by
  simp only [Core.setVecs, List.zipIdx_cons, List.foldl_cons, Nat.add_zero]
  rw [List.zipIdx_succ, List.foldl_map]
  simp only [Nat.add_assoc, Nat.add_comm 1]

/-- A row of registers written holds what was written, and every other register what it held. -/
theorem Core.vec_setVecs (u : Core) (r q : Nat) {xs : List (List Word)} (hl : ∀ x ∈ xs, x.length = 128) :
    (u.setVecs r xs).vec q = if r ≤ q ∧ q < r + xs.length then nth [] xs (q - r) else u.vec q := by
  induction xs generalizing u r with
  | nil => rw [if_neg (by simp only [List.length_nil]; omega)]; rfl
  | cons x xs ih =>
    have hx : x.length = 128 := hl x List.mem_cons_self
    rw [Core.setVecs_cons, ih (u.setVec r x) (r + 1) fun y hy => hl y (List.mem_cons_of_mem x hy), u.vec_setVec r q hx, List.length_cons]
    obtain h | rfl | h := Nat.lt_trichotomy q r
    · rw [if_neg (by omega), if_neg (by omega), if_neg (by omega)]
    · rw [if_neg (by omega), if_pos rfl, if_pos (by omega), Nat.sub_self]
      rfl
    · have hsub : q - r = q - (r + 1) + 1 := by omega
      rw [if_neg (show q ≠ r by omega), hsub]
      by_cases hlast : q < r + 1 + xs.length
      · rw [if_pos (by omega), if_pos (by omega)]
        rfl
      · rw [if_neg (by omega), if_neg (by omega)]

theorem Core.setVecs_frame (u : Core) (r : Nat) (xs : List (List Word)) : VectorOnly u (u.setVecs r xs) := by
  induction xs generalizing u r with
  | nil => rfl
  | cons x xs ih =>
    rw [Core.setVecs_cons]
    have h := ih (u.setVec r x) (r + 1)
    rwa [VectorOnly, u.setVec_frame r x] at h

/-- A core after a row of registers was written, and what else it keeps. -/
theorem Core.setVecs_spec (u : Core) (r n : Nat) {xs : List (List Word)} {rows : Nat → List Word} (hn : xs.length = n)
    (hrow : ∀ v < n, nth [] xs v = rows v) (hlen : ∀ v < n, (rows v).length = 128) :
    VectorOnly u (u.setVecs r xs) ∧ (∀ v < n, (u.setVecs r xs).vec (r + v) = rows v) ∧
      ∀ q, (q < r ∨ r + n ≤ q) → (u.setVecs r xs).vec q = u.vec q := by
  subst hn
  have hl : ∀ x ∈ xs, x.length = 128 := by
    intro x hx
    obtain ⟨v, hv, rfl⟩ := List.getElem_of_mem hx
    have h := hlen v hv
    rwa [← hrow v hv, nth_of_lt [] hv] at h
  refine ⟨u.setVecs_frame r xs, fun v hv => ?_, fun q hq => ?_⟩
  · rw [u.vec_setVecs r _ hl, if_pos (by omega), Nat.add_sub_cancel_left, hrow v hv]
  · rw [u.vec_setVecs r _ hl, if_neg (by omega)]

end Sys2Proof.Machine
end

section
/-! The order of FP32 numbers (R47): the value of a number rises with its bits below the sign, so that MIN and MAX compare the bits. -/

namespace Sys2Proof.Machine
open Sys2Proof Sys2Proof.Safety

/-- The sign bit of an FP32 word. -/
def fp32Neg (w : Word) : Bool := decide (2 ^ 31 ≤ w.toNat)

/-- The bits of an FP32 word below its sign. -/
def fp32Bits (w : Word) : Nat := w.toNat % 2 ^ 31

/-- The magnitude that bits below the sign encode, in units of the smallest subnormal; an infinity counts as the power of two past the
largest finite value (R27). -/
def fp32Mag (g : Nat) : Nat := if g / 2 ^ 23 = 0 then g else (2 ^ 23 + g % 2 ^ 23) * 2 ^ (g / 2 ^ 23 - 1)

/-- The place of an FP32 number in the order of R47: −0 just below +0. -/
def fp32Rank (w : Word) : Int := if fp32Neg w then -(fp32Bits w : Int) - 1 else fp32Bits w

theorem fp32Rank_of_pos {w : Word} (h : w.toNat < 2 ^ 31) : fp32Rank w = w.toNat := by
  simp only [fp32Rank, fp32Neg, fp32Bits, decide_eq_true_eq]
  omega

theorem fp32Rank_of_neg {w : Word} (h : 2 ^ 31 ≤ w.toNat) : fp32Rank w = 2 ^ 31 - 1 - w.toNat := by
  have := w.isLt
  simp only [fp32Rank, fp32Neg, fp32Bits, decide_eq_true_eq]
  omega

/-! ### Magnitudes -/

theorem fp32Mag_lt_succ (g : Nat) : fp32Mag g < fp32Mag (g + 1) := by
  have hp : 0 < 2 ^ (g / 2 ^ 23 - 1) := Nat.two_pow_pos _
  by_cases hcarry : g % 2 ^ 23 = 2 ^ 23 - 1
  case neg =>
    have hdiv : (g + 1) / 2 ^ 23 = g / 2 ^ 23 := by omega
    have hmod : (g + 1) % 2 ^ 23 = g % 2 ^ 23 + 1 := by omega
    rw [fp32Mag, fp32Mag, hdiv, hmod]
    split
    · exact Nat.lt_succ_self g
    · exact Nat.mul_lt_mul_of_pos_right (by omega) hp
  case pos =>
    have hdiv : (g + 1) / 2 ^ 23 = g / 2 ^ 23 + 1 := by omega
    have hmod : (g + 1) % 2 ^ 23 = 0 := by omega
    rw [fp32Mag, fp32Mag, hdiv, hmod, if_neg (Nat.succ_ne_zero _), Nat.add_sub_cancel, hcarry]
    split
    case isTrue h => rw [h]; omega
    case isFalse h =>
      have hdouble : 2 ^ (g / 2 ^ 23) = 2 * 2 ^ (g / 2 ^ 23 - 1) := by
        rw [← Nat.pow_add_one', Nat.sub_add_cancel (Nat.pos_of_ne_zero h)]
      rw [hdouble]
      omega

theorem fp32Mag_lt {g h : Nat} (hlt : g < h) : fp32Mag g < fp32Mag h := by
  induction hlt with
  | refl => exact fp32Mag_lt_succ g
  | step _ ih => exact Nat.lt_trans ih (fp32Mag_lt_succ _)

theorem fp32Mag_lt_iff {g h : Nat} : fp32Mag g < fp32Mag h ↔ g < h := by
  refine ⟨fun hmag => Nat.lt_of_not_le fun hle => ?_, fp32Mag_lt⟩
  obtain heq | hlt := Nat.eq_or_lt_of_le hle
  · exact Nat.lt_irrefl _ (heq ▸ hmag)
  · exact Nat.lt_asymm hmag (fp32Mag_lt hlt)

theorem fp32Mag_eq_zero {g : Nat} : fp32Mag g = 0 ↔ g = 0 := by
  have hpos : 0 < fp32Mag g ↔ 0 < g := fp32Mag_lt_iff (g := 0)
  omega

/-! ### What a word decodes to -/

theorem fp32_eq (w : Word) : fp32 w =
    if fp32Bits w / 2 ^ 23 = 255 then (if fp32Bits w % 2 ^ 23 = 0 then .inf (fp32Neg w) else .nan)
    else if fp32Bits w / 2 ^ 23 = 0 then .fin (fp32Neg w) (fp32Bits w % 2 ^ 23) (-149)
    else .fin (fp32Neg w) (2 ^ 23 + fp32Bits w % 2 ^ 23) (-149 + (fp32Bits w / 2 ^ 23 : Nat) - 1) := by
  have hw := w.isLt
  have hneg : bit w.toNat 31 = fp32Neg w := by
    rw [Bool.eq_iff_iff, bit, fp32Neg, beq_iff_eq, decide_eq_true_eq]
    omega
  have hexp : bits w.toNat 30 23 = fp32Bits w / 2 ^ 23 := by
    rw [bits, fp32Bits]
    omega
  have hfrac : w.toNat % 2 ^ 23 = fp32Bits w % 2 ^ 23 := by
    rw [fp32Bits]
    omega
  simp only [fp32, fpDecode, fmtFp32, hneg, hexp, hfrac]
  simp

/-- A number is an infinity, or finite with the magnitude of its bits. -/
theorem fp32_number {w : Word} (h : fpIsNaN (fp32 w) = false) :
    (fp32Bits w = 255 * 2 ^ 23 ∧ fp32 w = .inf (fp32Neg w)) ∨
    (fp32Bits w < 255 * 2 ^ 23 ∧ ∃ m, ∃ k : Nat, fp32 w = .fin (fp32Neg w) m (k - 149) ∧ m * 2 ^ k = fp32Mag (fp32Bits w)) := by
  have hlt : fp32Bits w < 2 ^ 31 := Nat.mod_lt _ (Nat.two_pow_pos 31)
  rw [fp32_eq] at h ⊢
  by_cases htop : fp32Bits w / 2 ^ 23 = 255
  · rw [if_pos htop] at h ⊢
    by_cases hinf : fp32Bits w % 2 ^ 23 = 0
    · exact .inl ⟨by omega, if_pos hinf⟩
    · rw [if_neg hinf] at h
      cases h
  · refine .inr ⟨by omega, ?_⟩
    rw [if_neg htop]
    by_cases hsub : fp32Bits w / 2 ^ 23 = 0
    · refine ⟨fp32Bits w % 2 ^ 23, 0, if_pos hsub, ?_⟩
      rw [fp32Mag, if_pos hsub]
      omega
    · refine ⟨2 ^ 23 + fp32Bits w % 2 ^ 23, fp32Bits w / 2 ^ 23 - 1, ?_, ?_⟩
      · rw [if_neg hsub]
        congr 1
        omega
      · rw [fp32Mag, if_neg hsub]

/-! ### Comparison -/

/-- A value aligned to the lower of two exponents, scaled up by what that exponent lies above the smallest subnormal's. -/
theorem alignTo_scaled (neg : Bool) (m : Nat) {k q : Nat} (h : q ≤ k) :
    alignTo neg m (k - 149) (q - 149) * 2 ^ q = if neg then -((m * 2 ^ k : Nat) : Int) else (m * 2 ^ k : Nat) := by
  have hsub : ((k : Int) - 149 - (q - 149)).toNat = k - q := by omega
  have hpow : ((m * 2 ^ (k - q) : Nat) : Int) * 2 ^ q = (m * 2 ^ k : Nat) := by
    rw [← Nat.pow_sub_mul_pow 2 h, ← Nat.mul_assoc, Int.natCast_mul (m * _), Int.natCast_pow 2 q]
    rfl
  rw [alignTo, hsub, ← hpow]
  split
  · exact Int.neg_mul _ _
  · rfl

/-- Finite values compare by their signed magnitudes, but that −0 is below +0. -/
theorem fpLt_fin (n1 n2 : Bool) (m1 m2 k1 k2 : Nat) :
    fpLt (.fin n1 m1 (k1 - 149)) (.fin n2 m2 (k2 - 149)) = true ↔
      (if n1 then -((m1 * 2 ^ k1 : Nat) : Int) else (m1 * 2 ^ k1 : Nat)) < (if n2 then -((m2 * 2 ^ k2 : Nat) : Int) else (m2 * 2 ^ k2 : Nat)) ∨
      (m1 * 2 ^ k1 = 0 ∧ m2 * 2 ^ k2 = 0 ∧ n1 = true ∧ n2 = false) := by
  have hq : (if (k1 : Int) - 149 < k2 - 149 then (k1 : Int) - 149 else k2 - 149) = (min k1 k2 : Nat) - 149 := by
    split <;> omega
  have hpos : (0 : Int) < 2 ^ min k1 k2 := Int.pow_pos (by decide)
  have hzero (m k : Nat) : m * 2 ^ k = 0 ↔ m = 0 := Nat.mul_eq_zero.trans (or_iff_left (Nat.ne_of_gt (Nat.two_pow_pos k)))
  simp only [fpLt, hq, ← alignTo_scaled n1 m1 (Nat.min_le_left k1 k2), ← alignTo_scaled n2 m2 (Nat.min_le_right k1 k2),
    Int.mul_lt_mul_right hpos]
  simp only [Bool.or_eq_true, Bool.and_eq_true, decide_eq_true_eq, beq_iff_eq, Bool.not_eq_true', hzero, and_assoc]

/-- Numbers compare by their ranks. -/
theorem fpLt_fp32 {x y : Word} (hx : fpIsNaN (fp32 x) = false) (hy : fpIsNaN (fp32 y) = false) :
    fpLt (fp32 x) (fp32 y) = true ↔ fp32Rank x < fp32Rank y := by
  have hmono := fp32Mag_lt_iff (g := fp32Bits x) (h := fp32Bits y)
  have hmono' := fp32Mag_lt_iff (g := fp32Bits y) (h := fp32Bits x)
  obtain ⟨hxb, hxv⟩ | ⟨hxb, mx, kx, hxv, hxm⟩ := fp32_number hx <;> obtain ⟨hyb, hyv⟩ | ⟨hyb, my, ky, hyv, hym⟩ := fp32_number hy
  case inl.inl | inl.inr | inr.inl =>
    rw [hxv, hyv, fp32Rank, fp32Rank]
    cases fp32Neg x <;> cases fp32Neg y <;> simp [fpLt] <;> omega
  case inr.inr =>
    have hx0 := fp32Mag_eq_zero (g := fp32Bits x)
    have hy0 := fp32Mag_eq_zero (g := fp32Bits y)
    rw [hxv, hyv, fpLt_fin, hxm, hym, fp32Rank, fp32Rank]
    cases fp32Neg x <;> cases fp32Neg y <;> simp <;> omega

/-! ### MIN and MAX -/

theorem fMin_nan {x y : Word} (hx : fpIsNaN (fp32 x) = true) (hy : fpIsNaN (fp32 y) = true) : fMin x y = fp32NaN := by simp [fMin, hx, hy]

theorem fMax_nan {x y : Word} (hx : fpIsNaN (fp32 x) = true) (hy : fpIsNaN (fp32 y) = true) : fMax x y = fp32NaN := by simp [fMax, hx, hy]

/-- The number stands where the other operand is NaN. -/
theorem minMax_number {x y : Word} (hx : fpIsNaN (fp32 x) = true) (hy : fpIsNaN (fp32 y) = false) :
    fMin x y = y ∧ fMin y x = y ∧ fMax x y = y ∧ fMax y x = y := by simp [fMin, fMax, hx, hy]

/-- Of two numbers MIN takes the second only where it ranks below the first. -/
theorem fMin_eq {x y : Word} (hx : fpIsNaN (fp32 x) = false) (hy : fpIsNaN (fp32 y) = false) :
    fMin x y = if fp32Rank y < fp32Rank x then y else x := by simp [fMin, hx, hy, fpLt_fp32]

/-- Of two numbers MAX takes the second only where it ranks above the first. -/
theorem fMax_eq {x y : Word} (hx : fpIsNaN (fp32 x) = false) (hy : fpIsNaN (fp32 y) = false) :
    fMax x y = if fp32Rank x < fp32Rank y then y else x := by simp [fMax, hx, hy, fpLt_fp32]

/-- Of two numbers of different rank MIN is the lower and MAX the higher, in either order. -/
theorem minMax_of_rank {x y : Word} (hx : fpIsNaN (fp32 x) = false) (hy : fpIsNaN (fp32 y) = false) (h : fp32Rank x < fp32Rank y) :
    fMin x y = x ∧ fMin y x = x ∧ fMax x y = y ∧ fMax y x = y := by
  have hnot : ¬fp32Rank y < fp32Rank x := Int.not_lt.mpr (Int.le_of_lt h)
  exact ⟨(fMin_eq hx hy).trans (if_neg hnot), (fMin_eq hy hx).trans (if_pos h), (fMax_eq hx hy).trans (if_pos h),
    (fMax_eq hy hx).trans (if_neg hnot)⟩

theorem minMax_self {x : Word} (hx : fpIsNaN (fp32 x) = false) : fMin x x = x ∧ fMax x x = x :=
  ⟨(fMin_eq hx hx).trans (ite_self x), (fMax_eq hx hx).trans (ite_self x)⟩

/-- Two numbers of positive sign are ordered as their bits. -/
theorem minMax_pos {x y : Word} (hx : fpIsNaN (fp32 x) = false) (hy : fpIsNaN (fp32 y) = false) (px : x.toNat < 2 ^ 31)
    (py : y.toNat < 2 ^ 31) : fMin x y = (if x.toNat ≤ y.toNat then x else y) ∧ fMax x y = if x.toNat ≤ y.toNat then y else x := by
  have rx := fp32Rank_of_pos px
  have ry := fp32Rank_of_pos py
  obtain h | h | h := Nat.lt_trichotomy x.toNat y.toNat
  · obtain ⟨hmin, -, hmax, -⟩ := minMax_of_rank hx hy (by omega)
    rw [hmin, hmax, if_pos (Nat.le_of_lt h), if_pos (Nat.le_of_lt h)]
    exact ⟨rfl, rfl⟩
  · obtain rfl := BitVec.eq_of_toNat_eq h
    rw [ite_self]
    exact minMax_self hx
  · obtain ⟨-, hmin, -, hmax⟩ := minMax_of_rank hy hx (by omega)
    rw [hmin, hmax, if_neg (Nat.not_le_of_lt h), if_neg (Nat.not_le_of_lt h)]
    exact ⟨rfl, rfl⟩

/-- Two numbers of negative sign are ordered against their bits. -/
theorem minMax_neg {x y : Word} (hx : fpIsNaN (fp32 x) = false) (hy : fpIsNaN (fp32 y) = false) (nx : 2 ^ 31 ≤ x.toNat)
    (ny : 2 ^ 31 ≤ y.toNat) : fMin x y = (if x.toNat ≤ y.toNat then y else x) ∧ fMax x y = if x.toNat ≤ y.toNat then x else y := by
  have rx := fp32Rank_of_neg nx
  have ry := fp32Rank_of_neg ny
  obtain h | h | h := Nat.lt_trichotomy x.toNat y.toNat
  · obtain ⟨-, hmin, -, hmax⟩ := minMax_of_rank hy hx (by omega)
    rw [hmin, hmax, if_pos (Nat.le_of_lt h), if_pos (Nat.le_of_lt h)]
    exact ⟨rfl, rfl⟩
  · obtain rfl := BitVec.eq_of_toNat_eq h
    rw [ite_self]
    exact minMax_self hx
  · obtain ⟨hmin, -, hmax, -⟩ := minMax_of_rank hx hy (by omega)
    rw [hmin, hmax, if_neg (Nat.not_le_of_lt h), if_neg (Nat.not_le_of_lt h)]
    exact ⟨rfl, rfl⟩

/-- A number of negative sign is below one of positive sign, the zeros too. -/
theorem minMax_mixed {x y : Word} (hx : fpIsNaN (fp32 x) = false) (hy : fpIsNaN (fp32 y) = false) (nx : 2 ^ 31 ≤ x.toNat)
    (py : y.toNat < 2 ^ 31) : fMin x y = x ∧ fMin y x = x ∧ fMax x y = y ∧ fMax y x = y := by
  have rx := fp32Rank_of_neg nx
  have ry := fp32Rank_of_pos py
  exact minMax_of_rank hx hy (by omega)

end Sys2Proof.Machine
end

section
/-! Operations of the vector unit whose results go to registers (R46 to R49, R95 to R97): the registers they leave, lane by lane. -/

namespace Sys2Proof.Machine
open Sys2Proof Sys2Proof.Safety

variable {s : State} {core vat code : Nat} {w : OpWord} {f : UnitFault} {i : Instr}

/-- An operation that puts one row after another into the registers from VD on. -/
theorem exec_rows {g : Core → Core} (h : UnitRuns s core vat code w) (he : exec i s = .next (s.unitOp core code w f g))
    (xs : List (List Word)) (rows : Nat → List Word) (hg : g (s.core core) = (s.core core).setVecs (vD w) xs) (hn : xs.length = vN w)
    (hrow : ∀ v < vN w, nth [] xs v = rows v) (hlen : ∀ v < vN w, (rows v).length = 128) :
    ∃ t u, exec i s = .next t ∧ UnitDone s t core f u ∧ VectorOnly (s.core core) u ∧ (∀ v < vN w, u.vec (vD w + v) = rows v) ∧
      ∀ r, (r < vD w ∨ vD w + vN w ≤ r) → u.vec r = (s.core core).vec r :=
  ⟨_, _, he, State.unitOp_done h f g, hg ▸ Core.setVecs_spec _ _ _ hn hrow hlen⟩

/-! ### The operands -/

/-- Row `v` of the second operand: register VB + v, or the immediate in every lane. -/
def Core.rowB (u : Core) (w : OpWord) (v : Nat) : List Word := if vImmB w then List.replicate 128 (vImm w) else u.vec (vB w + v)

@[simp] theorem Core.rowB_length (u : Core) (w : OpWord) (v : Nat) : (u.rowB w v).length = 128 := by
  unfold Core.rowB
  split
  · exact List.length_replicate
  · exact u.vec_length _

/-- A lane of the second operand: one of VB, or the immediate. -/
theorem Core.nth_rowB (u : Core) (w : OpWord) (v : Nat) {l : Nat} (h : l < 128) :
    nth 0 (u.rowB w v) l = if vImmB w then vImm w else nth 0 (u.vec (vB w + v)) l := by
  unfold Core.rowB
  split
  · rw [nth_of_lt 0 (by simpa using h), List.getElem_replicate]
  · rfl

@[simp] theorem Core.opB_length (u : Core) (w : OpWord) : (u.opB w).length = vN w := by
  unfold Core.opB
  split
  · exact List.length_replicate
  · exact u.vecs_length _ _

@[simp] theorem Core.getElem_opB (u : Core) (w : OpWord) (v : Nat) (h : v < (u.opB w).length) : (u.opB w)[v] = u.rowB w v := by
  unfold Core.rowB
  simp only [Core.opB] at h ⊢
  split <;> simp

/-! ### Lane-wise operations (R46 to R48, R95, R96) -/

theorem exec_lane1 {g : Word → Word} (h : UnitRuns s core vat code w) (he : exec i s = .next (s.unitOp core code w f (lane1 g w))) :
    ∃ t u, exec i s = .next t ∧ UnitDone s t core f u ∧ VectorOnly (s.core core) u ∧
      (∀ v < vN w, u.vec (vD w + v) = ((s.core core).vec (vA w + v)).map g) ∧
      ∀ r, (r < vD w ∨ vD w + vN w ≤ r) → u.vec r = (s.core core).vec r := by
  refine exec_rows h he _ (fun v => ((s.core core).vec (vA w + v)).map g) rfl (by simp) (fun v hv => ?_) (by simp)
  simp [hv]

theorem exec_lane2 {g : Word → Word → Word} (h : UnitRuns s core vat code w)
    (he : exec i s = .next (s.unitOp core code w f (lane2 g w))) :
    ∃ t u, exec i s = .next t ∧ UnitDone s t core f u ∧ VectorOnly (s.core core) u ∧
      (∀ v < vN w, u.vec (vD w + v) = List.zipWith g ((s.core core).vec (vA w + v)) ((s.core core).rowB w v)) ∧
      ∀ r, (r < vD w ∨ vD w + vN w ≤ r) → u.vec r = (s.core core).vec r := by
  refine exec_rows h he _ (fun v => List.zipWith g ((s.core core).vec (vA w + v)) ((s.core core).rowB w v)) rfl (by simp) (fun v hv => ?_)
    (by simp)
  simp [hv]

/-- A lane of a two-operand operation is the function of the operands' lanes. -/
theorem exec_lane2_lane {g : Word → Word → Word} (h : UnitRuns s core vat code w)
    (he : exec i s = .next (s.unitOp core code w f (lane2 g w))) :
    ∃ t u, exec i s = .next t ∧ UnitDone s t core f u ∧ ∀ v < vN w, ∀ l < 128,
      nth 0 (u.vec (vD w + v)) l = g (nth 0 ((s.core core).vec (vA w + v)) l)
        (if vImmB w then vImm w else nth 0 ((s.core core).vec (vB w + v)) l) := by
  obtain ⟨t, u, he, hdone, -, hrow, -⟩ := exec_lane2 h he
  refine ⟨t, u, he, hdone, fun v hv l hl => ?_⟩
  rw [hrow v hv, ← Core.nth_rowB _ _ _ hl]
  simp [hl]

/-- Settles O9: numbers are ordered by their rank, and each lane of the two operations is MIN or MAX of the operands' lanes. -/
theorem minMaxFollowR47 : Obligations.MinMaxFollowR47 := by
  unfold Obligations.MinMaxFollowR47
  refine ⟨fun _ _ hx hy => ⟨fMin_nan hx hy, fMax_nan hx hy⟩, fun _ _ => minMax_number, fun _ _ hx hy => ⟨?_, ?_, ?_⟩, ?_, ?_⟩
  · exact minMax_pos hx hy
  · exact minMax_neg hx hy
  · exact minMax_mixed hx hy
  · exact fun _ _ _ _ _ h => exec_lane2_lane h rfl
  · exact fun _ _ _ _ _ h => exec_lane2_lane h rfl

end Sys2Proof.Machine
end

section
/-! The functions of the vector unit (R46 to R49, R95 to R97): for each operation the rows it puts into the registers from VD on. -/

namespace Sys2Proof.Machine
open Sys2Proof Sys2Proof.Safety

variable {s : State} {core vat : Nat} {w : OpWord} {f : UnitFault}

/-! ### Lane-wise operations -/

/-- The operations of two operands with their opcodes and functions (R46, R47, R97). -/
def lane2Ops : List ((Nat → OpWord → UnitFault → Instr) × Nat × (Word → Word → Word)) :=
  [(Instr.add, 0x30, fAdd), (Instr.sub, 0x31, fSub), (Instr.mul, 0x32, fMul), (Instr.div, 0x33, fDiv), (Instr.min, 0x35, fMin),
    (Instr.max, 0x36, fMax), (Instr.swiglu, 0x5E, fun x y => fMul (siluLane x) y)]

theorem exec_of_lane2Ops {op : (Nat → OpWord → UnitFault → Instr) × Nat × (Word → Word → Word)} (h : op ∈ lane2Ops) :
    exec (op.1 core w f) s = .next (s.unitOp core op.2.1 w f (lane2 op.2.2 w)) := by
  simp only [lane2Ops, List.mem_cons, List.not_mem_nil, or_false] at h
  obtain rfl | rfl | rfl | rfl | rfl | rfl | rfl := h <;> rfl

/-- The operations of one operand whose lanes take a function of it (R48, R96, R97). -/
def lane1Ops : List ((Nat → OpWord → UnitFault → Instr) × Nat × (Word → Word)) :=
  [(Instr.abs, 0x37, fAbs), (Instr.neg, 0x38, fNeg), (Instr.mov, 0x39, id), (Instr.rcp, 0x40, fRcp), (Instr.sqrt, 0x41, fSqrt),
    (Instr.rsqrt, 0x42, fRsqrt), (Instr.exp, 0x43, fExp), (Instr.exp2, 0x44, fExp2), (Instr.log2, 0x45, fLog2), (Instr.sinpi, 0x46, fSinPi),
    (Instr.cospi, 0x47, fCosPi), (Instr.tanh, 0x48, fTanh), (Instr.silu, 0x5C, siluLane), (Instr.gelu, 0x5D, geluLane)]

theorem exec_of_lane1Ops {op : (Nat → OpWord → UnitFault → Instr) × Nat × (Word → Word)} (h : op ∈ lane1Ops) :
    exec (op.1 core w f) s = .next (s.unitOp core op.2.1 w f (lane1 op.2.2 w)) := by
  simp only [lane1Ops, List.mem_cons, List.not_mem_nil, or_false] at h
  obtain rfl | rfl | rfl | rfl | rfl | rfl | rfl | rfl | rfl | rfl | rfl | rfl | rfl | rfl := h <;> rfl

theorem exec_fma (h : UnitRuns s core vat 0x34 w) :
    ∃ t u, exec (.fma core w f) s = .next t ∧ UnitDone s t core f u ∧ VectorOnly (s.core core) u ∧
      (∀ v < vN w, ∀ l < 128, nth 0 (u.vec (vD w + v)) l =
        fFma (nth 0 ((s.core core).vec (vA w + v)) l) (if vImmB w then vImm w else nth 0 ((s.core core).vec (vB w + v)) l)
          (nth 0 ((s.core core).vec (vC w + v)) l)) ∧
      ∀ r, (r < vD w ∨ vD w + vN w ≤ r) → u.vec r = (s.core core).vec r := by
  obtain ⟨t, u, he, hdone, honly, hrow, hkeep⟩ := exec_rows (i := .fma core w f) (f := f) h rfl _
    (fun v => List.zipWith (fun (p : Word × Word) z => fFma p.1 p.2 z) (List.zip ((s.core core).vec (vA w + v)) ((s.core core).rowB w v))
      ((s.core core).vec (vC w + v))) rfl (by simp) (fun v hv => by simp [hv]) (by simp)
  refine ⟨t, u, he, hdone, honly, fun v hv l hl => ?_, hkeep⟩
  rw [hrow v hv, ← Core.nth_rowB _ _ _ hl]
  simp [hl]

/-- The lane that the immediate of a BCAST names. -/
theorem vImm_toNat (w : OpWord) : (vImm w).toNat = opF w 0x10 4 := by
  rw [vImm, BitVec.toNat_ofNat]
  exact Nat.mod_mod _ _

theorem exec_bcast (h : UnitRuns s core vat 0x3A w) :
    ∃ t u, exec (.bcast core w f) s = .next t ∧ UnitDone s t core f u ∧ VectorOnly (s.core core) u ∧
      (∀ v < vN w, u.vec (vD w + v) = List.replicate 128 (nth 0 ((s.core core).vec (vA w + v)) (vImm w).toNat)) ∧
      ∀ r, (r < vD w ∨ vD w + vN w ≤ r) → u.vec r = (s.core core).vec r := by
  rw [vImm_toNat]
  exact exec_rows h rfl _ _ rfl (by simp) (fun v hv => by simp [hv]) fun _ _ => List.length_replicate

/-! ### Reductions (R49) -/

/-- The reductions with their opcodes and functions. -/
def reduceOps : List ((Nat → OpWord → UnitFault → Instr) × Nat × (Word → Word → Word)) :=
  [(Instr.rsum, 0x50, fAdd), (Instr.rmax, 0x51, fMax), (Instr.rmin, 0x52, fMin)]

theorem exec_of_reduceOps {op : (Nat → OpWord → UnitFault → Instr) × Nat × (Word → Word → Word)} (h : op ∈ reduceOps) :
    exec (op.1 core w f) s = .next (s.unitOp core op.2.1 w f (reduceEffect op.2.2 w)) := by
  simp only [reduceOps, List.mem_cons, List.not_mem_nil, or_false] at h
  obtain rfl | rfl | rfl := h <;> rfl

theorem reduceEffect_none {g : Word → Word → Word} (u : Core) (h : vN w = 0) : reduceEffect g w u = u := if_pos h

theorem reduceEffect_some {g : Word → Word → Word} (u : Core) (h : vN w ≠ 0) :
    reduceEffect g w u = u.setVec (vD w) (List.replicate 128 (laneReduce g (u.vecs (vA w) (vN w)))) := if_neg h

theorem reduceEffect_spec (g : Word → Word → Word) (w : OpWord) (u : Core) :
    VectorOnly u (reduceEffect g w u) ∧ (vN w = 0 → reduceEffect g w u = u) ∧
      (vN w ≠ 0 → (reduceEffect g w u).vec (vD w) = List.replicate 128 (laneReduce g (u.vecs (vA w) (vN w)))) ∧
      ∀ r, r ≠ vD w → (reduceEffect g w u).vec r = u.vec r := by
  by_cases hn : vN w = 0
  · rw [reduceEffect_none u hn]
    exact ⟨rfl, fun _ => rfl, fun h => absurd hn h, fun _ _ => rfl⟩
  · rw [reduceEffect_some u hn]
    refine ⟨u.setVec_frame _ _, fun h => absurd h hn, fun _ => ?_, fun r hr => ?_⟩
    · rw [u.vec_setVec _ _ List.length_replicate, if_pos rfl]
    · rw [u.vec_setVec _ _ List.length_replicate, if_neg hr]

/-! ### Composite operations (R97) -/

/-- A row of SOFTMAX whose maximum is −∞: 0 in every lane (log entry 122). -/
theorem softmaxVecs_masked {xs : List (List Word)} (h : laneReduce fMax xs = fp32NegInf) :
    softmaxVecs xs = xs.map fun x => x.map fun _ => 0 := if_pos h

theorem softmaxVecs_unmasked {xs : List (List Word)} (h : laneReduce fMax xs ≠ fp32NegInf) :
    softmaxVecs xs = xs.map fun x => x.map fun y => fMul (fExp (fSub y (laneReduce fMax xs)))
      (fRcp (laneReduce fAdd (xs.map fun y => y.map fun z => fExp (fSub z (laneReduce fMax xs))))) := by
  refine (if_neg h).trans ?_
  simp only [List.map_map, Function.comp_def]

@[simp] theorem softmaxVecs_length (xs : List (List Word)) : (softmaxVecs xs).length = xs.length := by
  by_cases h : laneReduce fMax xs = fp32NegInf
  · rw [softmaxVecs_masked h, List.length_map]
  · rw [softmaxVecs_unmasked h, List.length_map]

theorem nth_softmaxVecs (xs : List (List Word)) {v : Nat} (hv : v < xs.length) (hl : xs[v].length = 128) :
    nth [] (softmaxVecs xs) v = if laneReduce fMax xs = 0xFF800000#32 then List.replicate 128 0
      else xs[v].map fun x => fMul (fExp (fSub x (laneReduce fMax xs)))
        (fRcp (laneReduce fAdd (xs.map fun y => y.map fun z => fExp (fSub z (laneReduce fMax xs))))) := by
  rw [nth_of_lt [] (by simpa using hv)]
  split
  case isTrue h => simp only [softmaxVecs_masked h, List.getElem_map, List.map_const', hl]
  case isFalse h => simp only [softmaxVecs_unmasked h, List.getElem_map]

theorem exec_softmax (h : UnitRuns s core vat 0x5A w) :
    ∃ t u, exec (.softmax core w f) s = .next t ∧ UnitDone s t core f u ∧ VectorOnly (s.core core) u ∧
      (∀ v < vN w, u.vec (vD w + v) =
        if laneReduce fMax ((s.core core).vecs (vA w) (vN w)) = 0xFF800000#32 then List.replicate 128 0
        else ((s.core core).vec (vA w + v)).map fun x =>
          fMul (fExp (fSub x (laneReduce fMax ((s.core core).vecs (vA w) (vN w)))))
            (fRcp (laneReduce fAdd (((s.core core).vecs (vA w) (vN w)).map fun y => y.map fun z =>
              fExp (fSub z (laneReduce fMax ((s.core core).vecs (vA w) (vN w)))))))) ∧
      ∀ r, (r < vD w ∨ vD w + vN w ≤ r) → u.vec r = (s.core core).vec r := by
  refine exec_rows h rfl _ _ rfl (by simp) (fun v hv => ?_) fun v _ => ?_
  · have hv' : v < ((s.core core).vecs (vA w) (vN w)).length := by simpa using hv
    rw [nth_softmaxVecs _ hv' (by simp), Core.getElem_vecs]
  · split <;> simp

theorem exec_rmsnorm (h : UnitRuns s core vat 0x58 w) :
    ∃ t u, exec (.rmsnorm core w f) s = .next t ∧ UnitDone s t core f u ∧ VectorOnly (s.core core) u ∧
      ∀ v < vN w, ∀ l < 128, nth 0 (u.vec (vD w + v)) l =
        fMul (fMul (nth 0 ((s.core core).vec (vA w + v)) l) (rmsScale (sumSq ((s.core core).vecs (vA w) (vN w))) (vImm2 w) (vImm w)))
          (if vImmB w then vImm w else nth 0 ((s.core core).vec (vB w + v)) l) := by
  obtain ⟨t, u, he, hdone, honly, hrow, -⟩ := exec_rows (i := .rmsnorm core w f) (f := f) h rfl _
    (fun v => List.zipWith (fun x g => fMul (fMul x (rmsScale (sumSq ((s.core core).vecs (vA w) (vN w))) (vImm2 w) (vImm w))) g)
      ((s.core core).vec (vA w + v)) ((s.core core).rowB w v)) rfl (by simp [rmsnormVecs]) (fun v hv => by simp [rmsnormVecs, hv]) (by simp)
  refine ⟨t, u, he, hdone, honly, fun v hv l hl => ?_⟩
  rw [hrow v hv, ← Core.nth_rowB _ _ _ hl]
  simp [hl]

@[simp] theorem layernormVecs_length (xs gs bs : List (List Word)) (eps inv : Word) :
    (layernormVecs xs gs bs eps inv).length = min (min xs.length gs.length) bs.length := by simp [layernormVecs]

theorem layernormVecs_row_length {xs gs bs : List (List Word)} {eps inv : Word} {v : Nat} (hv : v < (layernormVecs xs gs bs eps inv).length)
    (hx : ∀ h, (xs[v]'h).length = 128) (hg : ∀ h, (gs[v]'h).length = 128) (hb : ∀ h, (bs[v]'h).length = 128) :
    (layernormVecs xs gs bs eps inv)[v].length = 128 := by simp [layernormVecs, hx, hg, hb]

theorem exec_layernorm (h : UnitRuns s core vat 0x59 w) :
    ∃ t u, exec (.layernorm core w f) s = .next t ∧ UnitDone s t core f u ∧ VectorOnly (s.core core) u ∧
      u.vecs (vD w) (vN w) = layernormVecs ((s.core core).vecs (vA w) (vN w)) ((s.core core).opB w)
        ((s.core core).vecs (vC w) (vN w)) (vImm w) (vImm2 w) := by
  have hn : (layernormVecs ((s.core core).vecs (vA w) (vN w)) ((s.core core).opB w) ((s.core core).vecs (vC w) (vN w)) (vImm w)
    (vImm2 w)).length = vN w := by simp
  obtain ⟨t, u, he, hdone, honly, hrow, -⟩ := exec_rows (i := .layernorm core w f) (f := f) h rfl _ _ rfl hn (fun _ _ => rfl) fun v hv => by
    rw [nth_of_lt [] (hn.symm ▸ hv)]
    exact layernormVecs_row_length _ (by simp) (by simp) (by simp)
  refine ⟨t, u, he, hdone, honly, List.ext_getElem (by simp) fun v hv hv' => ?_⟩
  rw [Core.getElem_vecs, hrow v (by simpa using hv), nth_of_lt [] hv']

theorem nth_append_left {α : Type} (d : α) {l k : List α} {i : Nat} (h : i < l.length) : nth d (l ++ k) i = nth d l i := by
  rw [nth, nth, List.getD_eq_getElem?_getD, List.getD_eq_getElem?_getD, List.getElem?_append_left h]

theorem nth_append_right {α : Type} (d : α) (l k : List α) (i : Nat) : nth d (l ++ k) (l.length + i) = nth d k i := by
  rw [nth, nth, List.getD_eq_getElem?_getD, List.getD_eq_getElem?_getD, List.getElem?_append_right (Nat.le_add_right _ _),
    Nat.add_sub_cancel_left]

/-- Pairs laid end to end. -/
def pairs {α : Type} (a b : Nat → α) (n : Nat) : List α := (List.range n).flatMap fun j => [a j, b j]

theorem pairs_succ {α : Type} (a b : Nat → α) (n : Nat) : pairs a b (n + 1) = pairs a b n ++ [a n, b n] := by
  rw [pairs, List.range_succ, List.flatMap_append]
  rfl

theorem pairs_length {α : Type} (a b : Nat → α) (n : Nat) : (pairs a b n).length = 2 * n := by
  induction n with
  | zero => rfl
  | succ n ih =>
    rw [pairs_succ, List.length_append, ih]
    rfl

/-- Pair `i` stands at 2i and 2i + 1. -/
theorem nth_pairs {α : Type} (d : α) (a b : Nat → α) {i n : Nat} (h : i < n) :
    nth d (pairs a b n) (2 * i) = a i ∧ nth d (pairs a b n) (2 * i + 1) = b i := by
  induction n with
  | zero => exact absurd h (Nat.not_lt_zero i)
  | succ n ih =>
    have hlen := pairs_length a b n
    rw [pairs_succ]
    obtain h | rfl := Nat.lt_succ_iff_lt_or_eq.mp h
    · rw [nth_append_left d (by omega), nth_append_left d (by omega)]
      exact ih h
    · rw [← hlen]
      exact ⟨nth_append_right d _ _ 0, nth_append_right d _ _ 1⟩

/-- A register that ROPE turns: lanes 2i and 2i + 1 are one pair. -/
theorem ropeVec_eq (x ts : List Word) : ropeVec x ts = pairs
    (fun i => fSub (fMul (nth 0 x (2 * i)) (fCosPi (nth 0 ts (2 * i)))) (fMul (nth 0 x (2 * i + 1)) (fSinPi (nth 0 ts (2 * i)))))
    (fun i => fAdd (fMul (nth 0 x (2 * i)) (fSinPi (nth 0 ts (2 * i)))) (fMul (nth 0 x (2 * i + 1)) (fCosPi (nth 0 ts (2 * i))))) 64 := rfl

@[simp] theorem ropeVec_length (x ts : List Word) : (ropeVec x ts).length = 128 := by
  rw [ropeVec_eq, pairs_length]

theorem exec_rope (h : UnitRuns s core vat 0x5B w) :
    ∃ t u, exec (.rope core w f) s = .next t ∧ UnitDone s t core f u ∧ VectorOnly (s.core core) u ∧
      ∀ v < vN w, u.vec (vD w + v) = ropeVec ((s.core core).vec (vA w + v)) ((s.core core).rowB w v) := by
  obtain ⟨t, u, he, hdone, honly, hrow, -⟩ := exec_rows (i := .rope core w f) (f := f) h rfl _
    (fun v => ropeVec ((s.core core).vec (vA w + v)) ((s.core core).rowB w v)) rfl (by simp) (fun v hv => by simp [hv]) (by simp)
  exact ⟨t, u, he, hdone, honly, hrow⟩

/-- Settles O8: each operation puts the rows it names into the registers from VD on and keeps the rest of its core. -/
theorem vectorLanesFollowTheirFunctions : Obligations.VectorLanesFollowTheirFunctions := by
  unfold Obligations.VectorLanesFollowTheirFunctions
  refine ⟨⟨?two, ?fma⟩, ⟨?one, ?bcast, ?rnd⟩, ?reduce, ?softmax, ?rmsnorm, ?layernorm, ?rope⟩
  case two => exact fun _ _ _ _ _ _ _ _ hop h => exec_lane2 h (exec_of_lane2Ops hop)
  case fma => exact fun _ _ _ _ _ h => exec_fma h
  case one => exact fun _ _ _ _ _ _ _ _ hop h => exec_lane1 h (exec_of_lane1Ops hop)
  case bcast =>
    intro s core vat w f h
    obtain ⟨t, u, he, hdone, honly, hrow, -⟩ := exec_bcast (f := f) h
    exact ⟨t, u, he, hdone, honly, hrow⟩
  case rnd =>
    intro s core vat w f h
    obtain ⟨t, u, he, hdone, honly, hrow, -⟩ := exec_lane1 (i := .rnd core w f) (f := f) h rfl
    exact ⟨t, u, he, hdone, honly, hrow⟩
  case reduce => exact fun s core _ w f _ _ g hop h =>
    ⟨_, _, exec_of_reduceOps hop, State.unitOp_done h f _, reduceEffect_spec g w (s.core core)⟩
  case softmax =>
    intro s core vat w f h
    obtain ⟨t, u, he, hdone, honly, hrow, -⟩ := exec_softmax (f := f) h
    exact ⟨t, u, he, hdone, honly, hrow⟩
  case rmsnorm => exact fun _ _ _ _ _ h => exec_rmsnorm h
  case layernorm => exact fun _ _ _ _ _ h => exec_layernorm h
  case rope =>
    intro s core vat w f h
    obtain ⟨t, u, he, hdone, honly, hrow⟩ := exec_rope (f := f) h
    refine ⟨t, u, he, hdone, honly, ?_⟩
    rintro v hv i hi _ _ _ rfl rfl rfl
    rw [hrow v hv, ← Core.nth_rowB _ _ _ (by omega), ropeVec_eq]
    exact nth_pairs 0 _ _ hi

end Sys2Proof.Machine
end

section
/-! The tensor engines and the press decoder (R87 to R94): what an operation writes of its core's accumulators, tables and bank, and what it
leaves. -/

namespace Sys2Proof.Machine
open Sys2Proof Sys2Proof.Safety

/-! ### Fields of a word and the places of a tile -/

theorem opAccBank_lt (w : OpWord) : opAccBank w < 2 := Nat.mod_lt _ (Nat.two_pow_pos _)

theorem tblReg_lt (w : OpWord) : tblReg w < 8 := Nat.mod_lt _ (Nat.two_pow_pos _)

theorem mem_tilePlaces {w : OpWord} {m n : Nat} : (m, n) ∈ tilePlaces w ↔ m < 2 ^ opTmLog2 w ∧ n < 2 ^ opTnLog2 w := by
  simp [tilePlaces]

theorem tileIndex_inj {w : OpWord} {m n m' n' : Nat} (hn : n < 2 ^ opTnLog2 w) (hn' : n' < 2 ^ opTnLog2 w)
    (h : tileIndex w m n = tileIndex w m' n') : m = m' ∧ n = n' := by
  have hpos := Nat.two_pow_pos (opTnLog2 w)
  have hdiv := congrArg (· / 2 ^ opTnLog2 w) h
  have hmod := congrArg (· % 2 ^ opTnLog2 w) h
  simp only [tileIndex, Nat.mul_add_mod_self_right, Nat.mod_eq_of_lt hn, Nat.mod_eq_of_lt hn'] at hmod
  simp only [tileIndex, Nat.mul_comm _ (2 ^ opTnLog2 w), Nat.mul_add_div hpos, Nat.div_eq_of_lt hn, Nat.div_eq_of_lt hn',
    Nat.add_zero] at hdiv
  exact ⟨hdiv, hmod⟩

/-- The tile of an MM fits a bank of accumulators (R87, R89). -/
theorem tile_fits {w : OpWord} (hc : opCode w = 0x01) (h : operandOk w = true) : 2 ^ opTmLog2 w * 2 ^ opTnLog2 w ≤ 2048 := by
  simp only [operandOk, hc, if_true, Bool.and_eq_true, decide_eq_true_eq] at h
  obtain ⟨⟨⟨⟨⟨⟨-, hfits⟩, -⟩, -⟩, -⟩, -⟩, -⟩ := h
  exact hfits

theorem tileIndex_lt {w : OpWord} {m n : Nat} (hfits : 2 ^ opTmLog2 w * 2 ^ opTnLog2 w ≤ 2048) (hm : m < 2 ^ opTmLog2 w)
    (hn : n < 2 ^ opTnLog2 w) : tileIndex w m n < 2048 := by
  calc m * 2 ^ opTnLog2 w + n < (m + 1) * 2 ^ opTnLog2 w := by rw [Nat.succ_mul]; omega
    _ ≤ 2 ^ opTmLog2 w * 2 ^ opTnLog2 w := Nat.mul_le_mul_right _ hm
    _ ≤ 2048 := hfits

/-! ### Accumulators (R87) -/

/-- A value for every accumulator of the tile a word names. -/
def Core.setTile (u : Core) (w : OpWord) (val : Nat × Nat → Word) : Core :=
  u.setAcc (opEngine w) (opAccBank w) ((tilePlaces w).map fun p => (tileIndex w p.1 p.2, val p))

theorem mmEffect_eq (w : OpWord) (u : Core) : mmEffect w u = u.setTile w fun p => u.mmElem w p.1 p.2 := rfl

theorem accLoadEffect_eq (w : OpWord) (u : Core) :
    accLoadEffect w u = u.setTile w fun p => toFp32 (fp32 (BitVec.ofNat 32 (leNat (u.rd (tileAddr w 4 p.1 p.2) 4)))) := rfl

theorem Core.setTile_frame (u : Core) (w : OpWord) (val : Nat × Nat → Word) : u.setTile w val = { u with acc := (u.setTile w val).acc } := rfl

/-- Each accumulator of the tile holds its value. -/
theorem Core.getAcc_setTile (u : Core) (w : OpWord) (val : Nat × Nat → Word) {m n : Nat} (hm : m < 2 ^ opTmLog2 w) (hn : n < 2 ^ opTnLog2 w) :
    (u.setTile w val).getAcc (opEngine w) (opAccBank w) (tileIndex w m n) = val (m, n) := by
  refine mapGet_sets_same 0 (fun x : Nat × Word => (opEngine w * 2 + opAccBank w) * 2048 + x.1) Prod.snd _ u.acc
    ⟨_, List.mem_map_of_mem (mem_tilePlaces.mpr ⟨hm, hn⟩), rfl⟩ fun x hx hkey => ?_
  obtain ⟨⟨m', n'⟩, hp, rfl⟩ := List.mem_map.mp hx
  obtain ⟨rfl, rfl⟩ := tileIndex_inj (mem_tilePlaces.mp hp).2 hn (Nat.add_left_cancel hkey)
  rfl

/-- The accumulators of another engine or another bank hold what they held. -/
theorem Core.getAcc_setTile_other (u : Core) (w : OpWord) (val : Nat × Nat → Word) (hfits : 2 ^ opTmLog2 w * 2 ^ opTnLog2 w ≤ 2048)
    {e b i : Nat} (hi : i < 2048) (hb : b < 2) (h : e ≠ opEngine w ∨ b ≠ opAccBank w) : (u.setTile w val).getAcc e b i = u.getAcc e b i := by
  refine mapGet_sets_other 0 (fun x : Nat × Word => (opEngine w * 2 + opAccBank w) * 2048 + x.1) Prod.snd _ u.acc fun x hx => ?_
  obtain ⟨⟨m, n⟩, hp, rfl⟩ := List.mem_map.mp hx
  obtain ⟨hm, hn⟩ := mem_tilePlaces.mp hp
  have hlt := tileIndex_lt hfits hm hn
  have hbank := opAccBank_lt w
  simp only
  omega

/-- An element of a tile after MM, with the tables as a decode under way has set them: they are no part of what it held. -/
theorem mmElem_tabled (s : State) (core : Nat) (w : OpWord) (u : Core) (m n : Nat) : (s.tabled core w 1 u).mmElem w m n =
    accumulate (if mmInit w = 0 then 0 else u.getAcc (opEngine w) (opAccBank w) (tileIndex w m n))
      ((List.range (mmG w)).map fun i => (s.tabled core w 1 u).mmGroup w m n i) := rfl

/-! ### Table registers (R92) -/

@[simp] theorem Core.table_setTable_same (u : Core) (e r : Nat) (t : Table) : (u.setTable e r t).table e r = t := mapGet_set_same _ _ _ _

theorem Core.table_setTable_other (u : Core) {e r e' r' : Nat} (t : Table) (hr : r < 8) (hr' : r' < 8) (h : e' ≠ e ∨ r' ≠ r) :
    (u.setTable e r t).table e' r' = u.table e' r' := mapGet_set_other _ _ _ (by omega)

/-! ### The core bank (R79, R91) -/

/-- Only the bank of a core changes. -/
def BankOnly (u u' : Core) : Prop := u' = { u with bank := u'.bank }

theorem BankOnly.refl (u : Core) : BankOnly u u := rfl

theorem BankOnly.trans {u v x : Core} (h : BankOnly u v) (k : BankOnly v x) : BankOnly u x := by
  unfold BankOnly at *
  rw [k, h]

theorem BankOnly.wr (u : Core) (a : Nat) (bs : List Byte) : BankOnly u (u.wr a bs) := rfl

theorem BankOnly.foldl {α : Type} {g : Core → α → Core} (h : ∀ u x, BankOnly u (g u x)) (l : List α) (u : Core) : BankOnly u (l.foldl g u) := by
  induction l generalizing u with
  | nil => exact .refl u
  | cons x l ih => exact (h u x).trans (ih _)

/-- An ACC_STORE writes the bank alone. -/
theorem accStoreEffect_bankOnly (w : OpWord) (u : Core) : BankOnly u (accStoreEffect w u) := by
  unfold accStoreEffect
  split
  · exact .foldl (fun u' _ => (BankOnly.wr u' _ _).trans (.foldl (fun u' _ => .wr u' _ _) _ _)) _ _
  · exact .foldl (fun u' _ => .wr u' _ _) _ _

theorem Core.byte_wr_out (u : Core) {a c : Nat} {bs : List Byte} (h : c < a ∨ a + bs.length ≤ c) : (u.wr a bs).byte c = u.byte c :=
  congrArg BitVec.toNat (Memory.get_write_out u.bank a bs h)

/-- A list of writes to the bank leaves a byte outside all of them. -/
theorem Core.byte_wrs_out {α : Type} (addr : α → Nat) (val : α → List Byte) (l : List α) (u : Core) {c : Nat}
    (h : ∀ x ∈ l, c < addr x ∨ addr x + (val x).length ≤ c) : (l.foldl (fun u x => u.wr (addr x) (val x)) u).byte c = u.byte c := by
  induction l generalizing u with
  | nil => rfl
  | cons x l ih =>
    rw [List.foldl_cons, ih _ fun y hy => h y (List.mem_cons_of_mem x hy)]
    exact u.byte_wr_out (h x List.mem_cons_self)

/-- A byte of no tile element keeps its value where the elements are whole bytes. -/
theorem accStoreEffect_byte_out {w : OpWord} (u : Core) (hplain : isMx (accFmt w) = false) {a : Nat}
    (h : ∀ m n, m < 2 ^ opTmLog2 w → n < 2 ^ opTnLog2 w →
      a < tileAddr w (codeBits (accFmt w) / 8) m n ∨ tileAddr w (codeBits (accFmt w) / 8) m n + codeBits (accFmt w) / 8 ≤ a) :
    (accStoreEffect w u).byte a = u.byte a := by
  rw [accStoreEffect, hplain]
  refine Core.byte_wrs_out (fun p : Nat × Nat => tileAddr w (codeBits (accFmt w) / 8) p.1 p.2) _ (tilePlaces w) u fun p hp => ?_
  obtain ⟨hm, hn⟩ := mem_tilePlaces.mp hp
  simpa using h p.1 p.2 hm hn

/-! ### The press decoder (R61 to R72, R93, R94) -/

/-- Only the decoder's tables, the tables under way and the weight stage of a core change. -/
def DecoderOnly (u u' : Core) : Prop := u' = { u with decTables := u'.decTables, tblNext := u'.tblNext, stage := u'.stage }

theorem DecoderOnly.keeps {u u' : Core} (h : DecoderOnly u u') : u'.bank = u.bank ∧ u'.acc = u.acc ∧ u'.vregs = u.vregs := by
  rw [h]
  exact ⟨rfl, rfl, rfl⟩

theorem DecoderOnly.trans {u v x : Core} (h : DecoderOnly u v) (k : DecoderOnly v x) : DecoderOnly u x := by
  unfold DecoderOnly at *
  rw [k, h]

theorem DecoderOnly.foldl {α : Type} {g : Core → α → Core} (h : ∀ u x, DecoderOnly u (g u x)) (l : List α) (u : Core) :
    DecoderOnly u (l.foldl g u) := by
  induction l generalizing u with
  | nil => rfl
  | cons x l ih => exact (h u x).trans (ih _)

theorem Core.fetchTable_decoderOnly (u : Core) (w : OpWord) (h : PressHdr) (t : Nat) : DecoderOnly u (u.fetchTable w h t).1 := by
  unfold Core.fetchTable
  split <;> rfl

/-- What a DECODE puts out goes to the decoder's tables, the tables under way and the weight stage. -/
theorem decodeEffect_decoderOnly (w : OpWord) (h : PressHdr) (cycle : Nat → Nat × Nat) (u : Core) :
    DecoderOnly u (decodeEffect w h cycle u) := by
  refine DecoderOnly.trans (v := List.foldl _ u (u.decoded w h).tables) (.foldl (fun u t => ?_) _ u) rfl
  exact (u.fetchTable_decoderOnly w h t.1).trans rfl

/-- A list that holds something has a least element. -/
theorem leastBy_of_ne_nil {α : Type} (lt : α → α → Bool) {l : List α} (h : l ≠ []) : ∃ a ∈ l, leastBy lt l = some a := by
  obtain ⟨a, l, rfl⟩ := List.exists_cons_of_ne_nil h
  refine ⟨_, ?_, rfl⟩
  clear h
  induction l generalizing a with
  | nil => exact List.mem_cons_self
  | cons b l ih =>
    rw [List.foldl_cons]
    split
    · exact List.mem_cons_of_mem a (ih b)
    · obtain hfirst | hrest := List.mem_cons.mp (ih a)
      · rw [hfirst]
        exact List.mem_cons_self
      · exact List.mem_cons_of_mem a (List.mem_cons_of_mem b hrest)

/-- Of the errors of an operation one is recorded first (R69, R71). -/
theorem firstPressErr_of_ne_nil {es : List PressErr} (h : es ≠ []) : ∃ e ∈ es, firstPressErr es = some e := by
  simp only [firstPressErr]
  by_cases hlate : (es.filter fun e => e.status == 0x0534) = []
  · have hall : (es.filter fun e => e.status != 0x0534) = es := List.filter_eq_self.mpr fun e he => by
      simpa using List.filter_eq_nil_iff.mp hlate e he
    rw [hlate, hall]
    simpa [leastBy] using leastBy_of_ne_nil pressBefore h
  · obtain ⟨a, ha, hleast⟩ := leastBy_of_ne_nil (fun a b : PressErr => decide (a.seg < b.seg)) hlate
    obtain ⟨e, he, hfirst⟩ := leastBy_of_ne_nil pressBefore
      (l := (es.filter fun e => e.status != 0x0534) ++ [a]) (List.append_ne_nil_of_right_ne_nil _ (List.cons_ne_nil a []))
    rw [hleast]
    refine ⟨e, ?_, hfirst⟩
    obtain he | he := List.mem_append.mp he
    · exact (List.mem_filter.mp he).1
    · exact List.mem_singleton.mp he ▸ (List.mem_filter.mp ha).1

/-! ### Errors of the step (R71, R101) -/

theorem State.core_congr {s t : State} (h : t.cores = s.cores) (c : Nat) : t.core c = s.core c := congrArg (mapGet Core.off · c) h

/-- The source of a core's errors: its cluster of the package (R144). -/
theorem State.source_core (s : State) (c : Nat) : s.source (coreSource c) = s.links.node * 256 + 0x30 + c / 256 :=
  (Nat.add_assoc _ _ _).symm

/-- An error of a core is a cause of the failed step of its vat, and leaves every core. -/
theorem State.unitError_spec {s : State} {vat : Nat} {v : Vat} {r : StepRun} (hv : s.vat? vat = some v) (hr : v.step = some r) (e : CoreErr)
    (order : Nat) : (∀ c, (s.unitError vat e order).core c = s.core c) ∧ ∃ v' r', (s.unitError vat e order).vat? vat = some v' ∧
      v'.step = some r' ∧ r'.causes = r.causes ++ [⟨e.first.1, e.tick, s.links.node * 256 + 0x30 + e.core / 256, order⟩] := by
  refine ⟨State.core_congr (s.unitError_cores vat e order), ?_⟩
  rw [← State.source_core, State.unitError, State.failStep, State.vat?_onVat_of (State.vat?_onVat_of hv _) _, hr]
  exact ⟨_, _, rfl, rfl, rfl⟩

theorem State.pressErrors_nil (s : State) (vat core : Nat) (w : OpWord) : s.pressErrors vat core w [] = s := rfl

/-- The press errors of a DECODE fail the step with the status of one of them. -/
theorem State.pressErrors_spec {s : State} {vat : Nat} {v : Vat} {r : StepRun} (hv : s.vat? vat = some v) (hr : v.step = some r) (core : Nat)
    (w : OpWord) {errs : List PressErr} (h : errs ≠ []) : (∀ c, (s.pressErrors vat core w errs).core c = s.core c) ∧
      ∃ v' r' c, (s.pressErrors vat core w errs).vat? vat = some v' ∧ v'.step = some r' ∧ r'.causes = r.causes ++ [c] ∧
        ∃ e ∈ errs, c.status = e.status := by
  unfold State.pressErrors
  generalize hph : (s.issued vat core w).getD (0, 1) = ph
  obtain ⟨e', he', hfirst⟩ := firstPressErr_of_ne_nil
    (es := errs.map fun e => { e with cycle := (ph.1 + e.cycle) / ph.2 }) (mt List.map_eq_nil_iff.mp h)
  obtain ⟨e, he, rfl⟩ := List.mem_map.mp he'
  simp only [hfirst]
  obtain ⟨hcores, v', r', hv', hr', hcauses⟩ := State.unitError_spec hv hr _ _
  exact ⟨hcores, v', r', _, hv', hr', hcauses, e, he, rfl⟩

end Sys2Proof.Machine
end

section
/-! The operations of the tensor engines and of the press decoder (R89 to R94), each as its effect on the core that runs it. -/

namespace Sys2Proof.Machine
open Sys2Proof Sys2Proof.Safety

variable {s : State} {core vat : Nat} {w : OpWord} {f : UnitFault}

theorem exec_mm (h : UnitRuns s core vat 0x01 w) : ∃ t u, exec (.mm core w f) s = .next t ∧ UnitDone s t core f u ∧
    u = (s.tabled core w 1 (s.core core)).setTile w fun p => (s.tabled core w 1 (s.core core)).mmElem w p.1 p.2 :=
  ⟨_, _, rfl, State.unitOp_done h f _, mmEffect_eq w _⟩

theorem exec_accLoad (h : UnitRuns s core vat 0x03 w) : ∃ t u, exec (.accLoad core w f) s = .next t ∧ UnitDone s t core f u ∧
    u = (s.core core).setTile w fun p => toFp32 (fp32 (BitVec.ofNat 32 (leNat ((s.core core).rd (tileAddr w 4 p.1 p.2) 4)))) :=
  ⟨_, _, rfl, State.unitOp_done h f _, accLoadEffect_eq w _⟩

theorem exec_accStore (h : UnitRuns s core vat 0x02 w) :
    ∃ t u, exec (.accStore core w f) s = .next t ∧ UnitDone s t core f u ∧ u = accStoreEffect w (s.core core) :=
  ⟨_, _, rfl, State.unitOp_done h f _, rfl⟩

/-! ### TBL_LOAD (R92) -/

/-- What a TBL_LOAD does to its core: the register it names over what a decode has put there by then. -/
def State.tblLoadEffect (s : State) (core : Nat) (w : OpWord) (u : Core) : Core :=
  (s.tabled core w 3 u).setTable (opEngine w) (tblReg w) (u.loadedTable w)

theorem State.tblLoad_of_ok (h : UnitRuns s core vat 0x04 w) (hok : ((s.core core).loadedTable w).ok = true) :
    s.tblLoad core w f = s.unitOp core 0x04 w f (s.tblLoadEffect core w) := by
  simp only [State.tblLoad, State.opRuns_unit h, hok, if_true]
  rfl

theorem State.tblLoad_of_bad (h : UnitRuns s core vat 0x04 w) (hbad : ((s.core core).loadedTable w).ok = false) :
    s.tblLoad core w f = (s.unitOp core 0x04 w f (s.tblLoadEffect core w)).unitError vat ⟨core, s.now, 0, (0x053B, tblSrc w, 0, 0), 1⟩ 0 := by
  simp only [State.tblLoad, State.opRuns_unit h, hbad]
  rfl

/-! ### DECODE (R93, R94) -/

section
variable {v : Vat} {hd : PressHdr}

theorem State.decode_empty (h : UnitRuns s core vat 0x10 w) (hv : s.vat? vat = some v) (hh : v.headers[decTensor w]? = some hd)
    (hn : decSegN w = 0) : s.decode core w f = s := by
  simp [State.decode, State.opRuns_unit h, hv, hh, hn]

theorem State.decode_some (h : UnitRuns s core vat 0x10 w) (hv : s.vat? vat = some v) (hh : v.headers[decTensor w]? = some hd)
    (hn : decSegN w ≠ 0) : s.decode core w f =
      (s.unitOp core 0x10 w f (decodeEffect w hd (s.cycleOf core w))).pressErrors vat core w ((s.core core).decoded w hd).errs := by
  simp [State.decode, State.opRuns_unit h, hv, hh, hn]

theorem exec_decode_clean (h : UnitRuns s core vat 0x10 w) (hv : s.vat? vat = some v) (hh : v.headers[decTensor w]? = some hd)
    (hn : decSegN w ≠ 0) (hclean : ((s.core core).decoded w hd).errs = []) :
    ∃ t u, exec (.decode core w f) s = .next t ∧ UnitDone s t core f u ∧ u = decodeEffect w hd (s.cycleOf core w) (s.core core) := by
  have he : exec (.decode core w f) s = .next (s.unitOp core 0x10 w f (decodeEffect w hd (s.cycleOf core w))) := by
    change Host.Outcome.next (s.decode core w f) = _
    rw [State.decode_some h hv hh hn, hclean, State.pressErrors_nil]
  exact ⟨_, _, he, State.unitOp_done h f _, rfl⟩

end

/-- Settles O5: each operation leaves its core as its effect, and each clause is read off the rules for what the effect writes. -/
theorem enginesFollowTheirOperations : Obligations.EnginesFollowTheirOperations := by
  unfold Obligations.EnginesFollowTheirOperations
  refine ⟨⟨?mm, ?accLoad, ?table, ?badTable⟩, ?accStore, ?decode, ?badPress, ?empty⟩
  case mm =>
    intro s core vat w f h
    obtain ⟨t, u, he, hdone, rfl⟩ := exec_mm (f := f) h
    obtain ⟨-, ⟨hcode, -, hok⟩, -⟩ := h
    refine ⟨t, _, he, hdone, fun m n hm hn => ?_, fun e b i hi hb hother => ?_, Core.setTile_frame _ w _⟩
    · exact (Core.getAcc_setTile _ w _ hm hn).trans (mmElem_tabled s core w _ m n)
    · exact Core.getAcc_setTile_other _ w _ (tile_fits hcode hok) hi hb hother
  case accLoad =>
    intro s core vat w f h
    obtain ⟨t, u, he, hdone, rfl⟩ := exec_accLoad (f := f) h
    exact ⟨t, _, he, hdone, fun m n hm hn => Core.getAcc_setTile _ w _ hm hn, Core.setTile_frame _ w _⟩
  case table =>
    intro s core vat w f h hok
    exact ⟨_, _, congrArg Host.Outcome.next (State.tblLoad_of_ok h hok), State.unitOp_done h f _, Core.table_setTable_same _ _ _ _,
      fun e r hr hother => Core.table_setTable_other _ _ (tblReg_lt w) hr hother, rfl⟩
  case badTable =>
    intro s core vat w v r h hv hr hbad
    have he := State.tblLoad_of_bad (f := UnitFault.none) h hbad
    rw [s.unitOp_clean core vat 0x04 w _ (State.opRuns_unit h)] at he
    obtain ⟨hcores, v', r', hv', hr', hcauses⟩ := State.unitError_spec (s := s.onCore core (s.tblLoadEffect core w)) hv hr
      ⟨core, s.now, 0, (0x053B, tblSrc w, 0, 0), 1⟩ 0
    exact ⟨_, v', r', congrArg Host.Outcome.next he, (hcores core).trans (State.core_onCore_same s core _), hv', hr', hcauses⟩
  case accStore =>
    intro s core vat w f h
    obtain ⟨t, u, he, hdone, rfl⟩ := exec_accStore (f := f) h
    exact ⟨t, _, he, hdone, rfl, accStoreEffect_bankOnly w _, fun hplain a hout => accStoreEffect_byte_out _ hplain hout⟩
  case decode =>
    intro s core vat w f v hd h hv hh hn hclean
    obtain ⟨t, u, he, hdone, rfl⟩ := exec_decode_clean (f := f) h hv hh hn hclean
    exact ⟨t, _, he, hdone, rfl, (decodeEffect_decoderOnly w hd _ _).keeps⟩
  case badPress =>
    intro s core vat w v r hd h hv hr hh hn herrs
    have he := State.decode_some (f := UnitFault.none) h hv hh hn
    rw [s.unitOp_clean core vat 0x10 w _ (State.opRuns_unit h)] at he
    obtain ⟨hcores, v', r', c, hv', hr', hcauses, hstatus⟩ :=
      State.pressErrors_spec (s := s.onCore core (decodeEffect w hd (s.cycleOf core w))) hv hr core w herrs
    exact ⟨_, v', r', c, congrArg Host.Outcome.next he, (hcores core).trans (State.core_onCore_same s core _), hv', hr', hcauses, hstatus⟩
  case empty => exact fun s core vat w f v hd h hv hh hn => congrArg Host.Outcome.next (State.decode_empty h hv hh hn)

end Sys2Proof.Machine
end

section
/-! The core bank (R79, R84, R85): what a read or a byte gives after writes to the bank, and what a write leaves. -/

namespace Sys2Proof.Machine
open Sys2Proof Sys2Proof.Safety

@[simp] theorem Core.rd_length (u : Core) (a n : Nat) : (u.rd a n).length = n := Memory.read_length u.bank a n

/-- The range written reads back. -/
theorem Core.rd_wr_same (u : Core) (a : Nat) (bs : List Byte) : (u.wr a bs).rd a bs.length = bs := Memory.read_write u.bank a bs

/-- A range apart from the one written reads as before. -/
theorem Core.rd_wr_out (u : Core) (a : Nat) (bs : List Byte) {c n : Nat} (h : c + n ≤ a ∨ a + bs.length ≤ c) :
    (u.wr a bs).rd c n = u.rd c n := Memory.read_write_out u.bank a bs c n h

/-- A byte of the range written is the one written there. -/
theorem Core.byte_wr_in (u : Core) (a : Nat) {bs : List Byte} {i : Nat} (h : i < bs.length) : (u.wr a bs).byte (a + i) = bs[i].toNat :=
  congrArg BitVec.toNat (Memory.get_write_in u.bank a bs h)

/-- A byte that no change of a list touches is as before. -/
theorem Core.byte_foldl_out {α : Type} {g : Core → α → Core} {c : Nat} {l : List α} (h : ∀ x ∈ l, ∀ u : Core, (g u x).byte c = u.byte c)
    (u : Core) : (l.foldl g u).byte c = u.byte c := by
  induction l generalizing u with
  | nil => rfl
  | cons x l ih => exact (ih (fun y hy => h y (List.mem_cons_of_mem x hy)) _).trans (h x List.mem_cons_self u)

/-- A change of vector registers alone leaves the bank. -/
theorem Core.byte_of_vectorOnly {u u' : Core} (h : VectorOnly u u') (a : Nat) : u'.byte a = u.byte a := by
  rw [h]
  rfl

/-! ### Elements of an atomic (R84, R85) -/

/-- Elements of one size in the bank from an address on, each written from what the core then holds; a row whose read failed is not
written. -/
def Core.putElems {α : Type} (u : Core) (esize : Nat) (f : UnitFault) (a : Nat) (val : Core → α × Nat → Nat) (xs : List α) : Core :=
  xs.zipIdx.foldl (fun u x => if badRow f (a + esize * x.2) then u else u.wr (a + esize * x.2) (leBytes esize (val u x))) u

theorem Core.putElems_bankOnly {α : Type} (u : Core) (esize : Nat) (f : UnitFault) (a : Nat) (val : Core → α × Nat → Nat) (xs : List α) :
    BankOnly u (u.putElems esize f a val xs) := by
  refine .foldl (fun u x => ?_) _ u
  split
  · exact .refl u
  · exact .wr u _ _

/-- A byte outside the elements keeps its value. -/
theorem Core.putElems_byte_out {α : Type} (u : Core) {esize : Nat} (f : UnitFault) {a : Nat} (val : Core → α × Nat → Nat) {xs : List α}
    {c : Nat} (h : c < a ∨ a + esize * xs.length ≤ c) : (u.putElems esize f a val xs).byte c = u.byte c := by
  refine Core.byte_foldl_out (fun x hx u => ?_) u
  have hlast : esize * (x.2 + 1) ≤ esize * xs.length := Nat.mul_le_mul_left _ (List.snd_lt_of_mem_zipIdx hx)
  rw [Nat.mul_succ] at hlast
  split
  · rfl
  · refine u.byte_wr_out ?_
    rw [leBytes_length]
    omega

theorem Core.flatten_vecs_length (u : Core) (r n : Nat) : (u.vecs r n).flatten.length = 128 * n := by
  have h : (u.vecs r n).map List.length = List.replicate n 128 :=
    List.eq_replicate_iff.mpr ⟨by simp, fun k hk => by
      obtain ⟨x, hx, rfl⟩ := List.mem_map.mp hk
      exact Core.length_of_mem_vecs hx⟩
  rw [List.length_flatten, h, List.sum_replicate_nat, Nat.mul_comm]

end Sys2Proof.Machine
end

section
/-! Vector loads, stores, masks and atomics (R84, R95, R97): the registers a load leaves, and the bytes of the core bank a store changes. -/

namespace Sys2Proof.Machine
open Sys2Proof Sys2Proof.Safety

variable {s : State} {core vat : Nat} {w : OpWord} {f : UnitFault}

/-! ### Loads and masks -/

@[simp] theorem Core.loadVec_length (u : Core) (code a : Nat) : (u.loadVec code a).length = 128 := by simp [Core.loadVec]

@[simp] theorem Core.loadBlock_length (u : Core) (w : OpWord) (b : Nat) : (u.loadBlock w b).length = 32 := by simp [Core.loadBlock]

/-- What VLD puts into register VD + v. -/
def Core.vldRow (u : Core) (w : OpWord) (v : Nat) : List Word := u.loadVec (vFmt w) (vAddr w + v * vecBytes w)

/-- What VLDMX puts into register VD + v: four blocks. -/
def Core.vldmxRow (u : Core) (w : OpWord) (v : Nat) : List Word := (List.range 4).flatMap fun b => u.loadBlock w (4 * v + b)

/-- What VMSK puts into register VD + v. -/
def Core.vmskRow (u : Core) (w : OpWord) (v : Nat) : List Word :=
  (u.vec (vA w + v)).zipIdx.map fun y => if bit (u.byte (vAddr2 w + 16 * v + y.2 / 8)) (y.2 % 8) then y.1 else fp32NegInf

theorem Core.vldRow_length (u : Core) (w : OpWord) (v : Nat) : (u.vldRow w v).length = 128 := u.loadVec_length _ _

theorem Core.vldmxRow_length (u : Core) (w : OpWord) (v : Nat) : (u.vldmxRow w v).length = 128 := by
  rw [Core.vldmxRow, List.length_flatMap]
  simp only [Core.loadBlock_length]
  decide

theorem Core.vmskRow_length (u : Core) (w : OpWord) (v : Nat) : (u.vmskRow w v).length = 128 := by simp [Core.vmskRow]

/-- A lane after VMSK: that of VA where its mask bit is 1, else −infinity. -/
theorem Core.nth_vmskRow (u : Core) (w : OpWord) (v : Nat) {l : Nat} (h : l < 128) : nth 0 (u.vmskRow w v) l =
    if u.byte (vAddr2 w + 16 * v + l / 8) / 2 ^ (l % 8) % 2 = 1 then nth 0 (u.vec (vA w + v)) l else 0xFF800000#32 := by
  rw [nth_of_lt 0 (by rwa [u.vmskRow_length]), nth_of_lt 0 (by rwa [u.vec_length])]
  simp [Core.vmskRow, bit, fp32NegInf]

theorem exec_vld (h : UnitRuns s core vat 0x20 w) : ∃ t u, exec (.vld core w f) s = .next t ∧ UnitDone s t core f u ∧
    VectorOnly (s.core core) u ∧ (∀ v < vN w, u.vec (vD w + v) = (s.core core).vldRow w v) ∧
      ∀ r, (r < vD w ∨ vD w + vN w ≤ r) → u.vec r = (s.core core).vec r :=
  exec_rows h rfl _ _ rfl (by simp) (fun v hv => by simp [hv, Core.vldRow]) fun v _ => Core.vldRow_length _ w v

theorem exec_vldmx (h : UnitRuns s core vat 0x22 w) : ∃ t u, exec (.vldmx core w f) s = .next t ∧ UnitDone s t core f u ∧
    VectorOnly (s.core core) u ∧ (∀ v < vN w, u.vec (vD w + v) = (s.core core).vldmxRow w v) ∧
      ∀ r, (r < vD w ∨ vD w + vN w ≤ r) → u.vec r = (s.core core).vec r :=
  exec_rows h rfl _ _ rfl (by simp) (fun v hv => by simp [hv, Core.vldmxRow]) fun v _ => Core.vldmxRow_length _ w v

theorem exec_vmsk (h : UnitRuns s core vat 0x24 w) : ∃ t u, exec (.vmsk core w f) s = .next t ∧ UnitDone s t core f u ∧
    VectorOnly (s.core core) u ∧ (∀ v < vN w, u.vec (vD w + v) = (s.core core).vmskRow w v) ∧
      ∀ r, (r < vD w ∨ vD w + vN w ≤ r) → u.vec r = (s.core core).vec r :=
  exec_rows h rfl _ _ rfl (by simp) (fun v hv => by simp [hv, Core.vmskRow]) fun v _ => Core.vmskRow_length _ w v

/-! ### Stores and atomics -/

/-- VSTMX writes the elements and then the scales, outside both nothing. -/
theorem vstmxEffect_byte_out {w : OpWord} (u : Core) {a : Nat}
    (helems : a < vAddr w ∨ vAddr w + (packElems (codeBits (vFmt w)) ((u.vecBlocks w).flatMap (·.2))).length ≤ a)
    (hscales : a < vAddr2 w ∨ vAddr2 w + (u.vecBlocks w).length ≤ a) : (vstmxEffect w u).byte a = u.byte a :=
  (Core.byte_wr_out _ (by rwa [List.length_map])).trans (u.byte_wr_out helems)

/-- The scales of VSTMX read back as written. -/
theorem vstmxEffect_scales (w : OpWord) (u : Core) :
    (vstmxEffect w u).rd (vAddr2 w) (u.vecBlocks w).length = (u.vecBlocks w).map fun b => BitVec.ofNat 8 b.1 := by
  have h := Core.rd_wr_same (u.wr (vAddr w) (packElems (codeBits (vFmt w)) ((u.vecBlocks w).flatMap (·.2)))) (vAddr2 w)
    ((u.vecBlocks w).map fun b => BitVec.ofNat 8 b.1)
  rwa [List.length_map] at h

/-- The operand's lanes as elements in the order of memory. -/
def Core.atomElems (u : Core) (w : OpWord) : List Nat := (u.vecs (vA w) (vN w)).flatten.map (atomicElem (vFmt w))

theorem Core.atomElems_length (u : Core) (w : OpWord) : (u.atomElems w).length = 128 * vN w := by
  rw [Core.atomElems, List.length_map, u.flatten_vecs_length]

theorem Core.addElems_eq (u : Core) (code : Nat) (f : UnitFault) (a : Nat) (xs : List Nat) :
    u.addElems code f a xs = u.putElems (codeBits code / 8) f a
      (fun u x => atomicAdd code (leNat (u.rd (a + codeBits code / 8 * x.2) (codeBits code / 8))) x.1) xs := rfl

theorem vatomEffect_eq (w : OpWord) (f : UnitFault) (u : Core) :
    vatomEffect w f u = u.addElems (vFmt w) f (vAddr w) (u.atomElems w) := rfl

theorem vatomEffect_bankOnly (w : OpWord) (f : UnitFault) (u : Core) : BankOnly u (vatomEffect w f u) := by
  rw [vatomEffect_eq, Core.addElems_eq]
  exact u.putElems_bankOnly _ _ _ _ _

theorem vatomEffect_byte_out {w : OpWord} (f : UnitFault) (u : Core) {a : Nat}
    (h : a < vAddr w ∨ vAddr w + 128 * vN w * (codeBits (vFmt w) / 8) ≤ a) : (vatomEffect w f u).byte a = u.byte a := by
  rw [vatomEffect_eq, Core.addElems_eq]
  refine u.putElems_byte_out f _ ?_
  rwa [u.atomElems_length, Nat.mul_comm]

/-- The bank after a VSWAP: every element replaced but those of rows whose read failed. -/
def Core.swapped (u : Core) (w : OpWord) (f : UnitFault) : Core :=
  u.putElems 4 f (vAddr w) (fun _ x => atomicElem (vFmt w) x.1) (u.vecs (vA w) (vN w)).flatten

/-- VSWAP replaces the elements and then loads the old ones. -/
theorem vswapEffect_eq (w : OpWord) (f : UnitFault) (u : Core) :
    vswapEffect w f u = (u.swapped w f).setVecs (vD w) ((List.range (vN w)).map (u.vldRow w)) := rfl

theorem Core.swapped_byte_out (u : Core) {w : OpWord} (f : UnitFault) {a : Nat} (h : a < vAddr w ∨ vAddr w + 512 * vN w ≤ a) :
    (u.swapped w f).byte a = u.byte a := by
  refine u.putElems_byte_out f _ ?_
  rw [u.flatten_vecs_length]
  omega

theorem vswapEffect_spec (w : OpWord) (f : UnitFault) (u : Core) :
    (∀ v < vN w, (vswapEffect w f u).vec (vD w + v) = u.vldRow w v) ∧
      vswapEffect w f u = { u with bank := (vswapEffect w f u).bank, vregs := (vswapEffect w f u).vregs } ∧
      ∀ a, (a < vAddr w ∨ vAddr w + 512 * vN w ≤ a) → (vswapEffect w f u).byte a = u.byte a := by
  obtain ⟨honly, hrow, -⟩ := (u.swapped w f).setVecs_spec (vD w) (vN w) (xs := (List.range (vN w)).map (u.vldRow w)) (rows := u.vldRow w)
    (by simp) (fun v hv => by simp [hv]) fun v _ => u.vldRow_length w v
  rw [← vswapEffect_eq] at honly hrow
  have hbank : BankOnly u (u.swapped w f) := u.putElems_bankOnly _ _ _ _ _
  refine ⟨hrow, ?_, fun a ha => (Core.byte_of_vectorOnly honly a).trans (u.swapped_byte_out f ha)⟩
  rw [honly, hbank]

/-- Settles O7: a load or mask puts its rows into the registers from VD on, and each store or atomic is the list of its writes to the bank. -/
theorem vectorLoadsAndStores : Obligations.VectorLoadsAndStores := by
  unfold Obligations.VectorLoadsAndStores
  refine ⟨?vld, ?vldmx, ?vmsk, ?vst, ?vstmx, ?vatom, ?vswap⟩
  case vld =>
    intro s core vat w f h
    obtain ⟨t, u, he, hdone, honly, hrow, -⟩ := exec_vld (f := f) h
    exact ⟨t, u, he, hdone, honly, hrow⟩
  case vldmx =>
    intro s core vat w f h
    obtain ⟨t, u, he, hdone, honly, hrow, -⟩ := exec_vldmx (f := f) h
    exact ⟨t, u, he, hdone, honly, hrow⟩
  case vmsk =>
    intro s core vat w f h
    obtain ⟨t, u, he, hdone, honly, hrow, -⟩ := exec_vmsk (f := f) h
    exact ⟨t, u, he, hdone, honly, fun v hv l hl => by rw [hrow v hv, Core.nth_vmskRow _ w v hl]⟩
  case vst =>
    intro s core vat w f h
    exact ⟨_, _, rfl, State.unitOp_done h f (vstEffect w), BankOnly.wr _ _ _, Core.rd_wr_same _ _ _, fun a ha => Core.byte_wr_out _ ha⟩
  case vstmx =>
    intro s core vat w f h
    exact ⟨_, _, rfl, State.unitOp_done h f (vstmxEffect w), (BankOnly.wr _ _ _).trans (.wr _ _ _), vstmxEffect_scales w _,
      fun a helems hscales => vstmxEffect_byte_out _ helems hscales⟩
  case vatom =>
    intro s core vat w f h
    exact ⟨_, _, rfl, State.unitOp_done h f (vatomEffect w f), rfl, vatomEffect_bankOnly w f _, fun a ha => vatomEffect_byte_out f _ ha⟩
  case vswap =>
    intro s core vat w f h
    exact ⟨_, _, rfl, State.unitOp_done h f (vswapEffect w f), vswapEffect_spec w f _⟩

end Sys2Proof.Machine
end

section
/-! What the data mover shares (R98, R99, R162, R210, R407): bytes landed in a core bank but for void slots, pieces read and written, and what
the end of an operation leaves. -/

namespace Sys2Proof.Machine
open Sys2Proof Sys2Proof.Safety

/-! ### Bytes landed in a core bank (R162) -/

@[simp] theorem fitBytes_length (n : Nat) (bs : List Byte) : (fitBytes n bs).length = n := by
  simp only [fitBytes, List.length_append, List.length_take, zeros_length]
  omega

@[simp] theorem keepVoids_length (voids : List Nat) (first : Nat) {old new : List Byte} (h : old.length = new.length) :
    (keepVoids voids first old new).length = new.length := by
  simp [keepVoids, h]

theorem getElem_keepVoids (voids : List Nat) (first : Nat) {old new : List Byte} {i : Nat} (hold : i < old.length) (hnew : i < new.length)
    (h : i < (keepVoids voids first old new).length) :
    (keepVoids voids first old new)[i] = if voids.contains (first + i / 128) then old[i] else new[i] := by
  simp [keepVoids]

/-- With no void slot every byte is new. -/
theorem keepVoids_none (first : Nat) {old new : List Byte} (h : old.length = new.length) : keepVoids [] first old new = new := by
  refine List.ext_getElem (keepVoids_length [] first h) fun i hi hnew => ?_
  rw [getElem_keepVoids [] first (h ▸ hnew) hnew hi]
  rfl

theorem Core.land_bankOnly (u : Core) (voids : List Nat) (first a : Nat) (bs : List Byte) : BankOnly u (u.land voids first a bs) := .wr u _ _

theorem Core.land_none (u : Core) (first a : Nat) (bs : List Byte) : u.land [] first a bs = u.wr a bs := by
  rw [Core.land, keepVoids_none first (u.rd_length a _)]

/-- A byte of the range landed: as it was where its slot is void, else the one brought. -/
theorem Core.byte_land (u : Core) (voids : List Nat) (first a : Nat) {bs : List Byte} {i : Nat} (h : i < bs.length) :
    (u.land voids first a bs).byte (a + i) = if voids.contains (first + i / 128) then u.byte (a + i) else (nth 0 bs i).toNat := by
  have hlen : i < (keepVoids voids first (u.rd a bs.length) bs).length := by rwa [keepVoids_length voids first (u.rd_length a _)]
  rw [Core.land, u.byte_wr_in a hlen, getElem_keepVoids voids first (by rwa [u.rd_length]) h hlen, nth_of_lt 0 h]
  split
  · simp [Core.rd, Memory.read, Core.byte]
  · rfl

/-- A byte outside the range landed is as it was. -/
theorem Core.byte_land_out (u : Core) (voids : List Nat) (first : Nat) {a c : Nat} {bs : List Byte} (h : c < a ∨ a + bs.length ≤ c) :
    (u.land voids first a bs).byte c = u.byte c :=
  u.byte_wr_out (by rwa [keepVoids_length voids first (u.rd_length a _)])

/-- Rows of `len` bytes landed one after another from an address on. -/
def Core.landRows (u : Core) (voids : List Nat) (len a : Nat) (rows : List (List Byte)) : Core :=
  rows.zipIdx.foldl (fun u x => u.land voids (x.2 * slotsOf len) (a + x.2 * len) x.1) u

theorem Core.landRows_bankOnly (u : Core) (voids : List Nat) (len a : Nat) (rows : List (List Byte)) :
    BankOnly u (u.landRows voids len a rows) := .foldl (fun u _ => u.land_bankOnly _ _ _ _) _ u

theorem Core.landRows_concat (u : Core) (voids : List Nat) (len a : Nat) (rows : List (List Byte)) (bs : List Byte) :
    u.landRows voids len a (rows ++ [bs]) =
      (u.landRows voids len a rows).land voids (rows.length * slotsOf len) (a + rows.length * len) bs := by
  simp [Core.landRows, List.zipIdx_append]

/-- With no void slot each row reads back. -/
theorem Core.rd_landRows (u : Core) (len a : Nat) (rows : Nat → List Byte) {n : Nat} (hlen : ∀ k < n, (rows k).length = len) {k : Nat}
    (hk : k < n) : (u.landRows [] len a ((List.range n).map rows)).rd (a + k * len) len = rows k := by
  induction n with
  | zero => exact absurd hk (Nat.not_lt_zero k)
  | succ n ih =>
    rw [List.range_succ, List.map_append, List.map_singleton, u.landRows_concat, Core.land_none, List.length_map, List.length_range]
    obtain hlt | rfl := Nat.lt_succ_iff_lt_or_eq.mp hk
    · have hrow : (k + 1) * len ≤ n * len := Nat.mul_le_mul_right len hlt
      rw [Nat.succ_mul] at hrow
      rw [Core.rd_wr_out _ _ _ (.inl (by omega)), ih (fun j hj => hlen j (Nat.lt_succ_of_lt hj)) hlt]
    · have h := Core.rd_wr_same (u.landRows [] len a ((List.range k).map rows)) (a + k * len) (rows k)
      rwa [hlen k hk] at h

/-! ### Only memory changes -/

/-- Only the memory tiers of the package change. -/
def MemOnly (s t : State) : Prop := t = { s with mem := t.mem }

theorem MemOnly.refl (s : State) : MemOnly s s := rfl

theorem MemOnly.trans {s t x : State} (h : MemOnly s t) (k : MemOnly t x) : MemOnly s x := by
  unfold MemOnly at *
  rw [k, h]

theorem MemOnly.foldl {α : Type} {g : State → α → State} (h : ∀ s x, MemOnly s (g s x)) (l : List α) (s : State) :
    MemOnly s (l.foldl g s) := by
  induction l generalizing s with
  | nil => exact .refl s
  | cons x l ih => exact (h s x).trans (ih _)

theorem MemOnly.cores {s t : State} (h : MemOnly s t) : t.cores = s.cores := by rw [h]

theorem MemOnly.pieceFenced {s t : State} (h : MemOnly s t) : t.pieceFenced = s.pieceFenced := by
  rw [h]
  rfl

theorem State.curdWrite_memOnly (ps : Pieces) (bs : List Byte) (s : State) : MemOnly s (s.curdWrite ps bs) := by
  induction ps generalizing s bs with
  | nil => exact .refl s
  | cons p ps ih =>
    refine .trans ?_ (ih (bs.drop p.2.1) _)
    split
    · exact .refl s
    · rfl

theorem State.store_memOnly (s : State) (ps : Pieces) (voids : List Nat) (first : Nat) (bs : List Byte) :
    MemOnly s (s.store ps voids first bs) := State.curdWrite_memOnly ps _ s

/-! ### Fenced stacks (R407) -/

/-- With no piece in a fenced stack the step meets no cause. -/
theorem State.curdFence_open {s : State} {ps : Pieces} (vat : Nat) (h : ps.all (fun p => !s.pieceFenced p) = true) : s.curdFence vat ps = s := by
  have hnone : ps.find? s.pieceFenced = none := List.find?_eq_none.mpr fun p hp => by simpa using List.all_eq_true.mp h p hp
  rw [State.curdFence, hnone]

theorem State.curdFence_cores (s : State) (vat : Nat) (ps : Pieces) : (s.curdFence vat ps).cores = s.cores := by
  unfold State.curdFence
  split <;> rfl

/-! ### The end of an operation -/

/-- How every operation of the mover ends: its pieces in fenced stacks and the errors it met. -/
def State.moverEnd (s : State) (vat c : Nat) (f : UnitFault) (ps : Pieces) : State := (s.curdFence vat ps).unitFaults vat c f

theorem State.moverEnd_marked (s : State) (vat c : Nat) (f : UnitFault) (ps : Pieces) (d : Nat) :
    Marked (s.core d) ((s.moverEnd vat c f ps).core d) := by
  rw [← State.core_congr (s.curdFence_cores vat ps) d]
  exact State.unitFaults_marked _ vat c f d

theorem State.moverEnd_clean {s : State} {ps : Pieces} (vat c : Nat) (h : ps.all (fun p => !s.pieceFenced p) = true) :
    s.moverEnd vat c UnitFault.none ps = s := by
  rw [State.moverEnd, State.curdFence_open vat h, State.unitFaults_none]

/-- An operation that brings bytes to its core: they land, and its reads of HBM begin. -/
def State.bring (s : State) (vat c : Nat) (f : UnitFault) (ps : Pieces) (g : Core → Core) : State :=
  ((s.onCore c g).beginReads ps).moverEnd vat c f ps

/-- It leaves its core as the bytes landed, and every other, but for what the errors it met mark. -/
theorem State.bring_marked (s : State) (vat c : Nat) (f : UnitFault) (ps : Pieces) (g : Core → Core) :
    Marked (g (s.core c)) ((s.bring vat c f ps g).core c) ∧ ∀ d, d ≠ c → Marked (s.core d) ((s.bring vat c f ps g).core d) := by
  have h := State.moverEnd_marked ((s.onCore c g).beginReads ps) vat c f ps
  refine ⟨?_, fun d hd => ?_⟩
  · rw [← State.core_onCore_same s c g]
    exact h c
  · rw [← State.core_onCore_other s g hd]
    exact h d

/-- With no error met and no fenced stack reached it is the bytes landed and the reads begun. -/
theorem State.bring_clean {s : State} {ps : Pieces} (vat c : Nat) (g : Core → Core) (h : ps.all (fun p => !s.pieceFenced p) = true) :
    s.bring vat c UnitFault.none ps g = (s.onCore c g).beginReads ps :=
  State.moverEnd_clean (s := (s.onCore c g).beginReads ps) vat c h

/-- Bytes landed and reads begun change the core and the list of reads alone. -/
theorem State.landed_frame (s : State) (c : Nat) (g : Core → Core) (ps : Pieces) :
    (s.onCore c g).beginReads ps = { s with
      cores := ((s.onCore c g).beginReads ps).cores
      mem := { s.mem with curd := ((s.onCore c g).beginReads ps).mem.curd } } ∧
    ((s.onCore c g).beginReads ps).core c = g (s.core c) ∧ ∀ d, d ≠ c → ((s.onCore c g).beginReads ps).core d = s.core d :=
  ⟨rfl, State.core_onCore_same s c g, fun _ hd => State.core_onCore_other s g hd⟩

end Sys2Proof.Machine
end

section
/-! The operations of the data mover (R99, R131, R210, R254), each as what it lands in cores, writes to memory and marks. -/

namespace Sys2Proof.Machine
open Sys2Proof Sys2Proof.Safety

variable {s : State} {core vat code : Nat} {w : OpWord} {f : UnitFault} {v : Vat} {r : StepRun} {far : List Byte}

/-! ### The vat and step an operation serves -/

theorem State.moverRuns_unit (h : UnitRuns s core vat code w) (hv : s.vat? vat = some v) (hr : v.step = some r) :
    s.moverRuns core code w = some (v, r) := by
  simp [State.moverRuns, State.opRuns_unit h, hv, hr]

/-- The vat whose step runs an operation is there, with its step. -/
theorem exists_step_of_unitRuns (h : UnitRuns s core vat code w) : ∃ v r, s.vat? vat = some v ∧ v.step = some r := by
  obtain ⟨⟨-, -, -, -, hstep⟩, -⟩ := h
  cases hv : s.vat? vat with
  | none => simp [hv] at hstep
  | some v =>
    rw [hv, Option.bind_some] at hstep
    exact ⟨v, _, rfl, (Option.some_get hstep).symm⟩

/-- The vat of the operation, named, has a step. -/
theorem exists_step_of_vat (h : UnitRuns s core vat code w) (hv : s.vat? vat = some v) : ∃ r, v.step = some r := by
  obtain ⟨v', r, hv', hr⟩ := exists_step_of_unitRuns h
  obtain rfl : v' = v := Option.some.inj (hv'.symm.trans hv)
  exact ⟨r, hr⟩

/-! ### GET -/

theorem State.moverGet_eq (hrun : s.moverRuns core 0x18 w = some (v, r)) : s.moverGet core w far f =
    s.bring v.desc.vatId core f (s.nearPieces v (dmVatAddr w) (dmLength w)) fun u =>
      u.land f.voids 0 (dmBank w) (s.curdBytes v (dmVatAddr w) (dmLength w) far) := by
  simp only [State.moverGet, hrun]
  rfl

/-! ### GETX -/

/-- The pieces the rows of a GETX reach. -/
def State.indexPieces (s : State) (v : Vat) (u : Core) (w : OpWord) : Pieces :=
  (List.range (dmTarget w)).flatMap fun k =>
    if (u.badIndices w).contains k then [] else s.nearPieces v (rowAddr w (u.index w k)) (dmLength w)

/-- The rows of a GETX brought, before indices at or above LIMIT fail the step. -/
def State.bringRows (s : State) (v : Vat) (core : Nat) (w : OpWord) (far : List Byte) (f : UnitFault) : State :=
  s.bring v.desc.vatId core f (s.indexPieces v (s.core core) w) fun u =>
    u.landRows f.voids (dmLength w) (dmBank w) (s.indexRows v (s.core core) w far)

theorem State.moverGetx_good (hrun : s.moverRuns core 0x1C w = some (v, r)) (hgood : (s.core core).badIndices w = []) :
    s.moverGetx core w far f = s.bringRows v core w far f := by
  simp only [State.moverGetx, hrun, State.bringRows, State.indexPieces, hgood]
  rfl

theorem State.moverGetx_bad {k : Nat} {ks : List Nat} (hrun : s.moverRuns core 0x1C w = some (v, r))
    (hbad : (s.core core).badIndices w = k :: ks) : s.moverGetx core w far f =
      (s.bringRows v core w far f).unitError v.desc.vatId
        ⟨core, (s.bringRows v core w far f).now, 0, (0x0542, dmIndexAddr w + 4 * k, 0, 0), ks.length + 1⟩ 0 := by
  simp only [State.moverGetx, hrun, State.bringRows, State.indexPieces, hbad]
  rfl

/-- An index at or above LIMIT leaves every core as the rows do. -/
theorem State.moverGetx_core (hrun : s.moverRuns core 0x1C w = some (v, r)) (c : Nat) :
    (s.moverGetx core w far f).core c = (s.bringRows v core w far f).core c := by
  cases hbad : (s.core core).badIndices w with
  | nil => rw [State.moverGetx_good hrun hbad]
  | cons k ks =>
    rw [State.moverGetx_bad hrun hbad]
    exact State.core_congr (State.unitError_cores _ _ _ _) c

theorem Core.badIndices_nil {u : Core} (h : ∀ k < dmTarget w, u.index w k < dmDst w) : u.badIndices w = [] :=
  List.filter_eq_nil_iff.mpr fun k hk => by simpa using h k (List.mem_range.mp hk)

/-- With every index below LIMIT row k is the one at its index. -/
theorem State.indexRows_good {u : Core} (h : ∀ k < dmTarget w, u.index w k < dmDst w) : s.indexRows v u w far =
    (List.range (dmTarget w)).map fun k => s.curdBytes v (rowAddr w (u.index w k)) (dmLength w) (far.drop (k * dmLength w)) :=
  List.map_congr_left fun k hk => if_pos (h k (List.mem_range.mp hk))

/-- With every row in stacks that are not fenced, no piece is in one. -/
theorem State.indexPieces_open {u : Core} (h : ∀ k < dmTarget w,
      (s.nearPieces v (rowAddr w (u.index w k)) (dmLength w)).all (fun p => !s.pieceFenced p) = true) :
    (s.indexPieces v u w).all (fun p => !s.pieceFenced p) = true := by
  simp only [State.indexPieces, List.all_flatMap, List.all_eq_true (l := List.range _), List.mem_range]
  intro k hk
  split
  · rfl
  · exact h k hk

section
variable {u : Core} (hone : dmTarget w = 1) (hlimit : dmDst w ≤ u.index w 0)
include hone hlimit

theorem Core.badIndices_one : u.badIndices w = [0] := by simp [Core.badIndices, hone, List.range_one, hlimit]

theorem State.indexPieces_one : s.indexPieces v u w = [] := by
  simp [State.indexPieces, Core.badIndices_one hone hlimit, hone, List.range_one]

/-- A row whose index is not below LIMIT is zeros (R100). -/
theorem State.indexRows_one : s.indexRows v u w far = [zeros (dmLength w)] := by
  simp [State.indexRows, hone, List.range_one, Nat.not_lt.mpr hlimit]

end

/-! ### GETL -/

theorem State.moverGetl_eq (hrun : s.moverRuns core 0x1D w = some (v, r)) : s.moverGetl core w f =
    s.bring v.desc.vatId core f (s.allPieces v r w) fun u =>
      u.landRows f.voids (dmLength w) (dmBank w) ((laneRange w).map (s.laneBytes v r w)) := by
  simp only [State.moverGetl, hrun]
  rfl

@[simp] theorem State.laneBytes_length (s : State) (v : Vat) (r : StepRun) (w : OpWord) (l : Nat) :
    (s.laneBytes v r w l).length = dmLength w := by
  unfold State.laneBytes
  split
  · exact zeros_length _
  · split <;> exact fitBytes_length _ _

/-- A null lane brings zeros (R20). -/
theorem State.laneBytes_null {l : Nat} (h : r.lane l = none) : s.laneBytes v r w l = zeros (dmLength w) := by
  rw [State.laneBytes, h]

/-! ### PUT and PUTL -/

theorem State.moverPut_eq (hrun : s.moverRuns core 0x19 w = some (v, r)) : s.moverPut core w f =
    (s.store (s.nearPieces v (dmVatAddr w) (dmLength w)) f.voids 0 ((s.core core).rd (dmBank w) (dmLength w))).moverEnd
      v.desc.vatId core f (s.nearPieces v (dmVatAddr w) (dmLength w)) := by
  simp only [State.moverPut, hrun]
  rfl

/-- With no void slot, bytes as many as the pieces hold are written as they are. -/
theorem State.store_whole {ps : Pieces} {bs : List Byte} (first : Nat) (h : (s.readPieces ps).length = bs.length) :
    s.store ps [] first bs = s.curdWrite ps bs := by
  rw [State.store, keepVoids_none first h]

/-- The row a PUTL writes for one lane, none for a null lane. -/
def State.storeLane (s : State) (v : Vat) (r : StepRun) (core : Nat) (w : OpWord) (f : UnitFault) (t : State) (x : Nat × Nat) : State :=
  match r.lane x.1 with
  | none => t
  | some y => t.store (s.lanePieces v w y) f.voids (x.2 * slotsOf (dmLength w)) ((s.core core).rd (dmBank w + x.2 * dmLength w) (dmLength w))

/-- The rows of a PUTL written, lane by lane. -/
def State.storeLanes (s : State) (v : Vat) (r : StepRun) (core : Nat) (w : OpWord) (f : UnitFault) : State :=
  (laneRange w).zipIdx.foldl (s.storeLane v r core w f) s

theorem State.moverPutl_eq (hrun : s.moverRuns core 0x1E w = some (v, r)) : s.moverPutl core w f =
    (s.storeLanes v r core w f).moverEnd v.desc.vatId core f (s.allPieces v r w) := by
  simp only [State.moverPutl, hrun]
  rfl

theorem State.storeLanes_memOnly (s : State) (v : Vat) (r : StepRun) (core : Nat) (w : OpWord) (f : UnitFault) :
    MemOnly s (s.storeLanes v r core w f) := by
  refine .foldl (fun t x => ?_) _ s
  unfold State.storeLane
  split
  · exact .refl t
  · exact t.store_memOnly _ _ _ _

/-- Null lanes write nothing and reach nothing (R20). -/
theorem State.storeLanes_null (h : ∀ l ∈ laneRange w, r.lane l = none) : s.storeLanes v r core w f = s :=
  List.foldlRecOn (motive := (· = s)) _ _ rfl fun t ht x hx => by
    rw [State.storeLane, h x.1 (List.fst_mem_of_mem_zipIdx hx)]
    exact ht

theorem State.allPieces_null (h : ∀ l ∈ laneRange w, r.lane l = none) : s.allPieces v r w = [] :=
  List.flatMap_eq_nil_iff.mpr fun l hl => by rw [h l hl]; rfl

section
variable {y : Lane} (hone : dmLaneCount w = 1) (hlane : r.lane (dmLaneFirst w) = some y)
include hone hlane

theorem State.storeLanes_one : s.storeLanes v r core w f =
    s.store (s.lanePieces v w y) f.voids 0 ((s.core core).rd (dmBank w) (dmLength w)) := by
  simp [State.storeLanes, State.storeLane, laneRange, hone, List.range_one, hlane]

theorem State.allPieces_one : s.allPieces v r w = s.lanePieces v w y := by
  simp [State.allPieces, laneRange, hone, List.range_one, hlane]

end

/-! ### SEND -/

theorem State.slotDiscarded_cores (s : State) (vat c : Nat) : (s.slotDiscarded vat c).cores = s.cores := by
  unfold State.slotDiscarded
  dsimp only
  obtain ⟨es, qs, h⟩ := State.note_frame (s.onTick fun k => { k with discards := sat32 k.discards 1 }) (0x28 + c / 256) "FENCED_CORE_DISCARD"
    (s.atRouter c)
  rw [h]
  rfl

/-- A SEND leaves every core that it does not reach. -/
theorem State.core_sendTo_other (s : State) (vat : Nat) (w : OpWord) (f : UnitFault) (bs : List Byte) {c d : Nat} (h : d ≠ c) :
    (s.sendTo vat w f bs c).core d = s.core d := by
  unfold State.sendTo
  split
  · exact State.core_congr (foldl_cores (fun t _ => t.slotDiscarded_cores vat c) _ s) d
  · exact State.core_onCore_other s _ h

/-- The bytes of a SEND at each of its targets. -/
def State.sendAll (s : State) (v : Vat) (core : Nat) (w : OpWord) (f : UnitFault) : State :=
  ((v.sendTargets w).map (corePhys v.place)).foldl
    (fun t d => t.sendTo v.desc.vatId w f ((s.core core).rd (dmBank w) (dmLength w)) d) s

theorem State.moverSend_eq (hrun : s.moverRuns core 0x1A w = some (v, r)) :
    s.moverSend core w f = (s.sendAll v core w f).unitFaults v.desc.vatId core f := by
  simp only [State.moverSend, hrun]
  rfl

theorem State.core_sendAll_other {d : Nat} (h : d ∉ (v.sendTargets w).map (corePhys v.place)) :
    (s.sendAll v core w f).core d = s.core d := by
  unfold State.sendAll
  generalize (v.sendTargets w).map (corePhys v.place) = ds at h
  generalize (s.core core).rd (dmBank w) (dmLength w) = bs
  induction ds generalizing s with
  | nil => rfl
  | cons c ds ih =>
    obtain ⟨hc, hds⟩ := List.ne_and_not_mem_of_not_mem_cons h
    exact (ih hds).trans (s.core_sendTo_other _ w f bs hc)

/-- A plain SEND to one core that is not fenced writes its bytes there. -/
theorem State.sendAll_one {d : Nat} (hplain : dmAtom w = 0) (hone : (v.sendTargets w).map (corePhys v.place) = [d])
    (hopen : s.coreFenced d = false) : s.sendAll v core w UnitFault.none =
      s.onCore d fun u => u.wr (dmDst w) ((s.core core).rd (dmBank w) (dmLength w)) := by
  have heffect (g : UnitFault) (hg : g.voids = []) (bs : List Byte) : sendEffect w g bs = fun u => u.wr (dmDst w) bs := by
    funext u
    rw [sendEffect, if_pos hplain, hg, Core.land_none]
  rw [State.sendAll, hone, List.foldl_cons, List.foldl_nil, State.sendTo, hopen, heffect _ rfl]
  rfl

/-! ### Curd reads of HBM (R210) -/

/-- A read that is due, the only one of its address, is over. -/
theorem State.readReady_clean {dpa x : Nat} (hmem : (dpa, x) ∈ s.mem.curd) (hdue : x + 2 ≤ s.tick.count)
    (honly : ∀ e ∈ s.mem.curd, e.1 = dpa → e = (dpa, x)) :
    s.readReady dpa .clean = { s with mem := { s.mem with curd := s.mem.curd.erase (dpa, x) } } := by
  cases hfind : s.mem.curd.find? fun e => decide (e.1 = dpa ∧ e.2 + 2 ≤ s.now) with
  | none => simpa [State.now, hdue] using List.find?_eq_none.mp hfind (dpa, x) hmem
  | some e =>
    have hat : e.1 = dpa ∧ e.2 + 2 ≤ s.now := by simpa using List.find?_some hfind
    obtain rfl := honly e (List.mem_of_find?_eq_some hfind) hat.1
    simp only [State.readReady, hfind]
    rfl

end Sys2Proof.Machine
end

section
/-! What each operation of the data mover moves: bytes to its core (R99, R131, R254) and bytes to the far side (R99, R162, R210, R254). -/

namespace Sys2Proof.Machine
open Sys2Proof Sys2Proof.Safety

variable {s : State} {core vat : Nat} {w : OpWord} {f : UnitFault} {v : Vat} {r : StepRun} {far : List Byte}

/-! ### Core side -/

theorem exec_moverCopy (h : UnitRuns s core vat 0x1B w) : ∃ t u, exec (.moverCopy core w f) s = .next t ∧ UnitDone s t core f u ∧
    BankOnly (s.core core) u ∧ u.rd (dmDst w) (dmLength w) = (s.core core).rd (dmBank w) (dmLength w) ∧
    ∀ a, (a < dmDst w ∨ dmDst w + dmLength w ≤ a) → u.byte a = (s.core core).byte a := by
  have hread := (s.core core).rd_wr_same (dmDst w) ((s.core core).rd (dmBank w) (dmLength w))
  rw [Core.rd_length] at hread
  exact ⟨_, _, rfl, State.unitOp_done h f (copyEffect w), .wr _ _ _, hread, fun a ha => Core.byte_wr_out _ (by rwa [Core.rd_length])⟩

theorem exec_get (h : UnitRuns s core vat 0x18 w) (hv : s.vat? vat = some v) :
    ∃ t u, exec (.get core w far f) s = .next t ∧ Marked u (t.core core) ∧
      (∀ c, c ≠ core → Marked (s.core c) (t.core c)) ∧ BankOnly (s.core core) u ∧
      (∀ i < (s.curdBytes v (dmVatAddr w) (dmLength w) far).length, u.byte (dmBank w + i) =
        if f.voids.contains (i / 128) then (s.core core).byte (dmBank w + i)
        else (nth 0 (s.curdBytes v (dmVatAddr w) (dmLength w) far) i).toNat) ∧
      (∀ a, (a < dmBank w ∨ dmBank w + (s.curdBytes v (dmVatAddr w) (dmLength w) far).length ≤ a) → u.byte a = (s.core core).byte a) ∧
      (f = UnitFault.none → (s.nearPieces v (dmVatAddr w) (dmLength w)).all (fun p => !s.pieceFenced p) = true →
        t = { s with cores := t.cores, mem := { s.mem with curd := t.mem.curd } } ∧ t.core core = u ∧ ∀ c, c ≠ core → t.core c = s.core c) := by
  obtain ⟨r, hr⟩ := exists_step_of_vat h hv
  have he : exec (.get core w far f) s = .next (s.bring v.desc.vatId core f (s.nearPieces v (dmVatAddr w) (dmLength w)) fun u =>
      u.land f.voids 0 (dmBank w) (s.curdBytes v (dmVatAddr w) (dmLength w) far)) :=
    congrArg Host.Outcome.next (State.moverGet_eq (State.moverRuns_unit h hv hr))
  obtain ⟨hcore, hother⟩ := s.bring_marked v.desc.vatId core f (s.nearPieces v (dmVatAddr w) (dmLength w)) fun u =>
    u.land f.voids 0 (dmBank w) (s.curdBytes v (dmVatAddr w) (dmLength w) far)
  refine ⟨_, _, he, hcore, hother, Core.land_bankOnly _ _ _ _ _, fun i hi => ?_, fun a ha => Core.byte_land_out _ _ _ ha, ?_⟩
  · simpa using Core.byte_land (s.core core) f.voids 0 (dmBank w) hi
  · rintro rfl hopen
    rw [State.bring_clean _ _ _ hopen]
    exact s.landed_frame core _ _

/-- A GETX or GETL that brings rows of `len` bytes, with no error met and no fenced stack reached: they read back from the bank one after
another, and besides its bank and the list of reads nothing changes. -/
theorem State.bring_rows (s : State) (vat core len a : Nat) {ps : Pieces} {n : Nat} (rows : Nat → List Byte)
    (hopen : ps.all (fun p => !s.pieceFenced p) = true) (hlen : ∀ k < n, (rows k).length = len) :
    ∃ t, s.bring vat core UnitFault.none ps (fun u => u.landRows [] len a ((List.range n).map rows)) = t ∧
      t = { s with cores := t.cores, mem := t.mem } ∧ t.mem = { s.mem with curd := t.mem.curd } ∧
      (∀ c, c ≠ core → t.core c = s.core c) ∧ BankOnly (s.core core) (t.core core) ∧
      ∀ k < n, (t.core core).rd (a + k * len) len = rows k := by
  obtain ⟨-, hcore, hother⟩ := s.landed_frame core (fun u => u.landRows [] len a ((List.range n).map rows)) ps
  refine ⟨_, State.bring_clean vat core _ hopen, rfl, rfl, hother, ?_, fun k hk => ?_⟩
  · rw [hcore]
    exact Core.landRows_bankOnly _ _ _ _ _
  · rw [hcore]
    exact Core.rd_landRows _ len a rows hlen hk

theorem exec_getx_good (h : UnitRuns s core vat 0x1C w) (hv : s.vat? vat = some v)
    (hrows : ∀ k < dmTarget w, (s.core core).index w k < dmDst w ∧
      (s.nearPieces v (rowAddr w ((s.core core).index w k)) (dmLength w)).all (fun p => !s.pieceFenced p) = true ∧
      (s.curdBytes v (rowAddr w ((s.core core).index w k)) (dmLength w) (far.drop (k * dmLength w))).length = dmLength w) :
    ∃ t, exec (.getx core w far UnitFault.none) s = .next t ∧ t = { s with cores := t.cores, mem := t.mem } ∧
      t.mem = { s.mem with curd := t.mem.curd } ∧ (∀ c, c ≠ core → t.core c = s.core c) ∧ BankOnly (s.core core) (t.core core) ∧
      ∀ k < dmTarget w, (t.core core).rd (dmBank w + k * dmLength w) (dmLength w) =
        s.curdBytes v (rowAddr w ((s.core core).index w k)) (dmLength w) (far.drop (k * dmLength w)) := by
  obtain ⟨r, hr⟩ := exists_step_of_vat h hv
  have hindex : ∀ k < dmTarget w, (s.core core).index w k < dmDst w := fun k hk => (hrows k hk).1
  have hopen := State.indexPieces_open fun k hk => (hrows k hk).2.1
  obtain ⟨t, ht, hspec⟩ := s.bring_rows v.desc.vatId core (dmLength w) (dmBank w)
    (fun k => s.curdBytes v (rowAddr w ((s.core core).index w k)) (dmLength w) (far.drop (k * dmLength w))) hopen
    fun k hk => (hrows k hk).2.2
  refine ⟨t, congrArg Host.Outcome.next ?_, hspec⟩
  rw [State.moverGetx_good (State.moverRuns_unit h hv hr) (Core.badIndices_nil hindex), State.bringRows, State.indexRows_good hindex]
  exact ht

/-- One index at or above LIMIT: zeros, and the step fails with 0x0542 (R100). -/
theorem exec_getx_limit (h : UnitRuns s core vat 0x1C w) (hv : s.vat? vat = some v) (hid : v.desc.vatId = vat) (hr : v.step = some r)
    (hone : dmTarget w = 1) (hlimit : dmDst w ≤ (s.core core).index w 0) :
    ∃ t v' r', exec (.getx core w far UnitFault.none) s = .next t ∧ (t.core core).rd (dmBank w) (dmLength w) = zeros (dmLength w) ∧
      t.vat? vat = some v' ∧ v'.step = some r' ∧
      r'.causes = r.causes ++ [⟨0x0542, s.tick.count, s.links.node * 256 + 0x30 + core / 256, 0⟩] := by
  obtain ⟨t, ht, hframe, -, -, -, hread⟩ := s.bring_rows vat core (dmLength w) (dmBank w) (ps := []) (n := 1) (fun _ => zeros (dmLength w)) rfl
    fun _ _ => zeros_length _
  have hrows : s.bringRows v core w far UnitFault.none = t := by
    rw [State.bringRows, State.indexPieces_one hone hlimit, State.indexRows_one hone hlimit, hid]
    exact ht
  have he := State.moverGetx_bad (far := far) (f := UnitFault.none) (State.moverRuns_unit h hv hr) (Core.badIndices_one hone hlimit)
  rw [hrows, hid, List.length_nil, Nat.zero_add] at he
  have hvt : t.vat? vat = some v := by
    rw [hframe]
    exact hv
  obtain ⟨hcores, v', r', hv', hr', hcauses⟩ := State.unitError_spec hvt hr ⟨core, t.now, 0, (0x0542, dmIndexAddr w + 4 * 0, 0, 0), 1⟩ 0
  refine ⟨_, v', r', congrArg Host.Outcome.next he, ?_, hv', hr', ?_⟩
  · rw [hcores]
    simpa using hread 0 Nat.one_pos
  · rw [hcauses, State.now, hframe]

theorem exec_getx (h : UnitRuns s core vat 0x1C w) : ∃ t u, exec (.getx core w far f) s = .next t ∧ Marked u (t.core core) ∧
    BankOnly (s.core core) u ∧ ∀ c, c ≠ core → Marked (s.core c) (t.core c) := by
  obtain ⟨v, r, hv, hr⟩ := exists_step_of_unitRuns h
  have hcore (c : Nat) := State.moverGetx_core (far := far) (f := f) (State.moverRuns_unit h hv hr) c
  obtain ⟨hown, hother⟩ := s.bring_marked v.desc.vatId core f (s.indexPieces v (s.core core) w) fun u =>
    u.landRows f.voids (dmLength w) (dmBank w) (s.indexRows v (s.core core) w far)
  refine ⟨_, (s.core core).landRows f.voids (dmLength w) (dmBank w) (s.indexRows v (s.core core) w far), rfl, ?_,
    Core.landRows_bankOnly _ _ _ _ _, fun c hc => ?_⟩
  · rw [hcore]
    exact hown
  · rw [hcore]
    exact hother c hc

theorem exec_getl (h : UnitRuns s core vat 0x1D w) : ∃ t u, exec (.getl core w f) s = .next t ∧ Marked u (t.core core) ∧
    BankOnly (s.core core) u ∧ ∀ c, c ≠ core → Marked (s.core c) (t.core c) := by
  obtain ⟨v, r, hv, hr⟩ := exists_step_of_unitRuns h
  obtain ⟨hown, hother⟩ := s.bring_marked v.desc.vatId core f (s.allPieces v r w) fun u =>
    u.landRows f.voids (dmLength w) (dmBank w) ((laneRange w).map (s.laneBytes v r w))
  exact ⟨_, _, congrArg Host.Outcome.next (State.moverGetl_eq (State.moverRuns_unit h hv hr)), hown, Core.landRows_bankOnly _ _ _ _ _, hother⟩

theorem exec_getl_clean (h : UnitRuns s core vat 0x1D w) (hv : s.vat? vat = some v) (hr : v.step = some r)
    (hopen : (s.allPieces v r w).all (fun p => !s.pieceFenced p) = true) :
    ∃ t, exec (.getl core w UnitFault.none) s = .next t ∧ t = { s with cores := t.cores, mem := t.mem } ∧
      t.mem = { s.mem with curd := t.mem.curd } ∧ (∀ c, c ≠ core → t.core c = s.core c) ∧ BankOnly (s.core core) (t.core core) ∧
      ∀ k < dmLaneCount w, (t.core core).rd (dmBank w + k * dmLength w) (dmLength w) = s.laneBytes v r w (dmLaneFirst w + k) := by
  obtain ⟨t, ht, hspec⟩ := s.bring_rows v.desc.vatId core (dmLength w) (dmBank w) (fun k => s.laneBytes v r w (dmLaneFirst w + k)) hopen
    fun k _ => s.laneBytes_length v r w _
  refine ⟨t, congrArg Host.Outcome.next ?_, hspec⟩
  rw [State.moverGetl_eq (State.moverRuns_unit h hv hr), laneRange, List.map_map]
  exact ht

/-! ### Far side -/

theorem exec_put (h : UnitRuns s core vat 0x19 w) : ∃ t, exec (.put core w f) s = .next t ∧ ∀ c, Marked (s.core c) (t.core c) := by
  obtain ⟨v, r, hv, hr⟩ := exists_step_of_unitRuns h
  refine ⟨_, congrArg Host.Outcome.next (State.moverPut_eq (State.moverRuns_unit h hv hr)), fun c => ?_⟩
  rw [← State.core_congr (s.store_memOnly _ _ _ _).cores c]
  exact State.moverEnd_marked _ _ _ _ _ c

/-- A PUT with no error met, whose pieces lie in no fenced stack, is its write. -/
theorem exec_put_clean (h : UnitRuns s core vat 0x19 w) (hv : s.vat? vat = some v)
    (hopen : (s.nearPieces v (dmVatAddr w) (dmLength w)).all (fun p => !s.pieceFenced p) = true) :
    exec (.put core w UnitFault.none) s =
      .next (s.store (s.nearPieces v (dmVatAddr w) (dmLength w)) [] 0 ((s.core core).rd (dmBank w) (dmLength w))) := by
  obtain ⟨r, hr⟩ := exists_step_of_vat h hv
  refine congrArg Host.Outcome.next ?_
  rw [State.moverPut_eq (State.moverRuns_unit h hv hr)]
  refine State.moverEnd_clean _ _ ?_
  rwa [(s.store_memOnly _ _ _ _).pieceFenced]

theorem exec_send (h : UnitRuns s core vat 0x1A w) (hv : s.vat? vat = some v) : ∃ t, exec (.send core w f) s = .next t ∧
    ∀ c, c ∉ (v.sendTargets w).map (corePhys v.place) → Marked (s.core c) (t.core c) := by
  obtain ⟨r, hr⟩ := exists_step_of_vat h hv
  refine ⟨_, congrArg Host.Outcome.next (State.moverSend_eq (State.moverRuns_unit h hv hr)), fun c hc => ?_⟩
  rw [← State.core_sendAll_other hc]
  exact State.unitFaults_marked _ _ _ _ c

theorem exec_send_one {d : Nat} (h : UnitRuns s core vat 0x1A w) (hv : s.vat? vat = some v) (hplain : dmAtom w = 0)
    (hone : (v.sendTargets w).map (corePhys v.place) = [d]) (hopen : s.coreFenced d = false) :
    ∃ t, exec (.send core w UnitFault.none) s = .next t ∧ OnlyCore s t d ∧ BankOnly (s.core d) (t.core d) ∧
      (t.core d).rd (dmDst w) (dmLength w) = (s.core core).rd (dmBank w) (dmLength w) ∧
      ∀ a, (a < dmDst w ∨ dmDst w + dmLength w ≤ a) → (t.core d).byte a = (s.core d).byte a := by
  obtain ⟨r, hr⟩ := exists_step_of_vat h hv
  have he := State.moverSend_eq (f := UnitFault.none) (State.moverRuns_unit h hv hr)
  rw [State.unitFaults_none, State.sendAll_one hplain hone hopen] at he
  have hread := (s.core d).rd_wr_same (dmDst w) ((s.core core).rd (dmBank w) (dmLength w))
  rw [Core.rd_length] at hread
  refine ⟨_, congrArg Host.Outcome.next he, ⟨rfl, fun c hc => State.core_onCore_other s _ hc⟩, ?_⟩
  rw [State.core_onCore_same]
  exact ⟨.wr _ _ _, hread, fun a ha => Core.byte_wr_out _ (by rwa [Core.rd_length])⟩

theorem exec_putl (h : UnitRuns s core vat 0x1E w) : ∃ t, exec (.putl core w f) s = .next t ∧ ∀ c, Marked (s.core c) (t.core c) := by
  obtain ⟨v, r, hv, hr⟩ := exists_step_of_unitRuns h
  refine ⟨_, congrArg Host.Outcome.next (State.moverPutl_eq (State.moverRuns_unit h hv hr)), fun c => ?_⟩
  rw [← State.core_congr (s.storeLanes_memOnly v r core w f).cores c]
  exact State.moverEnd_marked _ _ _ _ _ c

/-- A PUTL with no error met, whose pieces lie in no fenced stack, is the writes of its lanes. -/
theorem exec_putl_clean (h : UnitRuns s core vat 0x1E w) (hv : s.vat? vat = some v) (hr : v.step = some r)
    (hopen : (s.allPieces v r w).all (fun p => !s.pieceFenced p) = true) :
    exec (.putl core w UnitFault.none) s = .next (s.storeLanes v r core w UnitFault.none) := by
  refine congrArg Host.Outcome.next ?_
  rw [State.moverPutl_eq (State.moverRuns_unit h hv hr)]
  refine State.moverEnd_clean _ _ ?_
  rwa [(s.storeLanes_memOnly v r core w UnitFault.none).pieceFenced]

/-! ### The statement -/

/-- Settles O6: each operation is bytes landed in a core or written to pieces, then the marks of the errors it met. -/
theorem moverMovesItsBytes : Obligations.MoverMovesItsBytes := by
  unfold Obligations.MoverMovesItsBytes
  refine ⟨⟨?copy, ?get, ?getxGood, ?getxLimit, ?getx, ?getl, ?getlClean⟩,
    ?putClean, ?sendOne, ?putlNull, ?putlOne, ?put, ?send, ?putl, ?ready⟩
  case copy => exact fun _ _ _ _ _ h => exec_moverCopy h
  case get => exact fun _ _ _ _ _ _ _ h hv _ => exec_get h hv
  case getxGood => exact fun _ _ _ _ _ _ h hv _ hrows => exec_getx_good h hv hrows
  case getxLimit => exact fun _ _ _ _ _ _ _ h hv hid hr hone hlimit => exec_getx_limit h hv hid hr hone hlimit
  case getx => exact fun _ _ _ _ _ _ h => exec_getx h
  case getl => exact fun _ _ _ _ _ h => exec_getl h
  case getlClean =>
    intro s core vat w v r h hv _ hr hopen
    obtain ⟨t, he, hframe, hmem, hother, hbank, hread⟩ := exec_getl_clean h hv hr hopen
    refine ⟨t, he, hframe, hmem, hother, hbank, fun k hk => ?_⟩
    rw [hread k hk]
    split
    case isTrue hnull => exact State.laneBytes_null hnull
    case isFalse => rfl
  case putClean =>
    intro s core vat w v h hv _ hopen
    refine ⟨_, exec_put_clean h hv hopen, s.store_memOnly _ _ _ _, fun hfar => ?_, fun hlen => ?_⟩
    · rw [State.nearPieces, if_neg hfar]
      rfl
    · exact State.store_whole 0 (by rw [hlen, Core.rd_length])
  case sendOne => exact fun _ _ _ _ _ _ h hv _ hplain hone hopen => exec_send_one h hv hplain hone hopen
  case putlNull =>
    intro s core vat w v r h hv _ hr hnull
    rw [exec_putl_clean h hv hr (by rw [State.allPieces_null hnull]; rfl), State.storeLanes_null hnull]
  case putlOne =>
    intro s core vat w v r y h hv _ hr hone hlane hopen
    rw [exec_putl_clean h hv hr (by rwa [State.allPieces_one hone hlane]), State.storeLanes_one hone hlane]
    exact ⟨_, rfl, rfl, s.store_memOnly _ _ _ _⟩
  case put => exact fun _ _ _ _ _ h => exec_put h
  case send => exact fun _ _ _ _ _ _ h hv => exec_send h hv
  case putl => exact fun _ _ _ _ _ h => exec_putl h
  case ready => exact fun _ _ _ hmem hdue honly => congrArg Host.Outcome.next (State.readReady_clean hmem hdue honly)

end Sys2Proof.Machine
end

section
/-! Commands that write a report (R137, R314), and the cores and stores that binding fills (R86, R133, R275): what each changes and what it
leaves. -/

namespace Sys2Proof.Machine
open Sys2Proof Sys2Proof.Safety

variable {s t : State} {r : CmdRef} {c : Cmd} {op st : Nat}

/-! ### Commands in dispatch -/

theorem State.cmd?_congr (h : t.objs = s.objs) (r : CmdRef) : t.cmd? r = s.cmd? r := by rw [State.cmd?, h, State.cmd?]

theorem State.ref_of_cmd? (h : s.cmd? r = some c) : c.ref = r := by simpa using List.find?_some h

/-- A due command whose own check passes has its effect. -/
theorem State.reported_ok {check : State → Cmd → Nat} (h : CmdDue s r op c) (h0 : check s c = 0) (f : Cmd → State) :
    s.reported r op check f = f c := by
  obtain ⟨hc, hp, ho, hb, ha⟩ := h
  rw [State.reported, State.onDue_ok s r op _ c hc hp ho hb ha]
  exact if_neg (not_not_intro h0)

theorem State.report_eq (s : State) (c : Cmd) (st : Nat) (f : Option MouldFail) (l : Nat) (ms : List Byte) : s.report c st f l ms =
    { s with
      host := (s.report c st f l ms).host, hp := (s.report c st f l ms).hp, qos := (s.report c st f l ms).qos,
      objs := { s.objs with cmds := (s.report c st f l ms).objs.cmds } } := by
  unfold State.report
  rw [State.finish_eq, State.hostPost_eq]

section
variable (s : State) (c : Cmd) (st : Nat) (f : Option MouldFail) (l : Nat) (ms : List Byte)

@[simp] theorem State.report_vats : (s.report c st f l ms).vats = s.vats := by rw [State.report_eq]
@[simp] theorem State.vat?_report (v : Nat) : (s.report c st f l ms).vat? v = s.vat? v := State.vat?_congr (s.report_vats c st f l ms) v
@[simp] theorem State.report_mem : (s.report c st f l ms).mem = s.mem := by rw [State.report_eq]
@[simp] theorem State.report_cores : (s.report c st f l ms).cores = s.cores := by rw [State.report_eq]
@[simp] theorem State.report_tick : (s.report c st f l ms).tick = s.tick := by rw [State.report_eq]

end

/-- The command that a report is of ends with the report's status. -/
theorem State.cmd?_report (hc : s.cmd? r = some c) (hp : c.phase = .ready) (st : Nat) (f : Option MouldFail) (l : Nat) (ms : List Byte) :
    (s.report c st f l ms).cmd? r = some { c with phase := .done, status := st } := by
  have hpost : (s.hostPost 0 (field c.bytes 0x20 8) (mouldReport st f l ms)).cmd? r = some c := by
    rw [State.hostPost_eq]
    exact hc
  rw [State.report, State.ref_of_cmd? hc, State.cmd?_finish, hpost]
  simp [hp, State.ref_of_cmd? hc]

/-! ### Lists of writes -/

/-- What one element of a list establishes and every element keeps holds after all of them. -/
theorem foldl_of_mem {α β : Type} {P : β → Prop} {g : β → α → β} {l : List α} {x : α} (hx : x ∈ l) (hset : ∀ b, P (g b x))
    (hkeep : ∀ b y, P b → P (g b y)) (b : β) : P (l.foldl g b) := by
  obtain ⟨before, after, rfl⟩ := List.append_of_mem hx
  rw [List.foldl_append, List.foldl_cons]
  exact List.foldlRecOn (motive := P) after g (hset _) fun b hb y _ => hkeep b y hb

theorem exists_zipIdx_of_mem {α : Type} {x : α} {l : List α} (h : x ∈ l) : ∃ i, (x, i) ∈ l.zipIdx := by
  obtain ⟨i, hi⟩ := List.mem_iff_getElem?.mp h
  exact ⟨i, List.mem_zipIdx_iff_getElem?.mpr hi⟩

theorem mapFind_foldl_del {α : Type} {k : Nat} {l : List Nat} (h : k ∈ l) (m : SMap α) : mapFind (l.foldl mapDel m) k = none := by
  refine foldl_of_mem (P := fun m : SMap α => mapFind m k = none) h (fun m => mapFind_del_same m k) (fun m j hm => ?_) m
  by_cases hj : k = j
  · rw [hj, mapFind_del_same]
  · rw [mapFind_del_other m hj, hm]

/-! ### The cores of a placement (R86, R275) -/

/-- A core of position `p` in the cluster `x` (its number and index in the placement) as binding leaves it. -/
def State.boundCore (s : State) (vat : Nat) (m : Mould) (l : Nat) (pl : Placement) (x : Nat × Nat) (p : Nat) (u : Core) : Core :=
  let sp := nth 16 pl.spares x.2
  let c := 16 * x.2 + (if p < sp then p else p - 1)
  if u.state = .retired then { u.cleared with vat := some vat }
  else if p = sp then { u.clear .spare s.clearUntil with vat := some vat, logical := 0, program := [] }
  else { u.clear .bound s.clearUntil with vat := some vat, logical := c, program := secBytes m secMicro (l * 2 ^ 18 + c) }

@[simp] theorem State.boundCore_vat (s : State) (vat : Nat) (m : Mould) (l : Nat) (pl : Placement) (x : Nat × Nat) (p : Nat) (u : Core) :
    (s.boundCore vat m l pl x p u).vat = some vat := by
  unfold State.boundCore
  extract_lets
  split
  case isTrue => rfl
  case isFalse => split <;> rfl

/-- The 17 cores of one cluster bound. -/
def State.bindCluster (s : State) (vat : Nat) (m : Mould) (l : Nat) (pl : Placement) (t : State) (x : Nat × Nat) : State :=
  (List.range 17).foldl (fun t p => t.onCore (x.1 * 32 + p) (s.boundCore vat m l pl x p)) t

theorem State.bindCores_eq (s : State) (vat : Nat) (m : Mould) (l : Nat) (pl : Placement) :
    s.bindCores vat m l pl = (pl.clusters.zipIdx.foldl (s.bindCluster vat m l pl) s).assignLinks vat m l := rfl

/-- Only cores and link ports change. -/
def CoresAndLinks (s t : State) : Prop := t = { s with cores := t.cores, links := t.links }

theorem CoresAndLinks.trans {s t x : State} (h : CoresAndLinks s t) (k : CoresAndLinks t x) : CoresAndLinks s x := by
  unfold CoresAndLinks at *
  rw [k, h]

theorem CoresAndLinks.foldl {α : Type} {g : State → α → State} (h : ∀ s x, CoresAndLinks s (g s x)) (l : List α) (s : State) :
    CoresAndLinks s (l.foldl g s) :=
  List.foldlRecOn l g rfl fun t ht x _ => ht.trans (h t x)

theorem State.onCore_coresAndLinks (s : State) (k : Nat) (f : Core → Core) : CoresAndLinks s (s.onCore k f) := rfl

theorem State.onPort_coresAndLinks (s : State) (k : Nat) (f : Port → Port) : CoresAndLinks s (s.onPort k f) := rfl

theorem State.bindCores_frame (s : State) (vat : Nat) (m : Mould) (l : Nat) (pl : Placement) : CoresAndLinks s (s.bindCores vat m l pl) := by
  have hcores : CoresAndLinks s (pl.clusters.zipIdx.foldl (s.bindCluster vat m l pl) s) :=
    .foldl (fun t x => .foldl (fun t p => t.onCore_coresAndLinks _ _) _ t) _ s
  exact hcores.trans (.foldl (fun t k => t.onPort_coresAndLinks k _) _ _)

@[simp] theorem State.assignLinks_cores (s : State) (vat : Nat) (m : Mould) (l : Nat) : (s.assignLinks vat m l).cores = s.cores :=
  List.foldlRecOn (motive := fun t : State => t.cores = s.cores) _ _ rfl fun _ ht _ _ => ht

/-- A core bound to a vat stays so while cores are bound to the vat. -/
theorem State.onCore_keeps_vat {vat j : Nat} (h : (t.core j).vat = some vat) (k : Nat) {g : Core → Core} (hg : ∀ u, (g u).vat = some vat) :
    ((t.onCore k g).core j).vat = some vat := by
  by_cases hj : j = k
  · rw [hj, State.core_onCore_same, hg]
  · rw [State.core_onCore_other t g hj, h]

theorem State.bindCluster_keeps_vat {vat j : Nat} (h : (t.core j).vat = some vat) (s : State) (m : Mould) (l : Nat) (pl : Placement)
    (x : Nat × Nat) : ((s.bindCluster vat m l pl t x).core j).vat = some vat :=
  List.foldlRecOn (motive := fun t : State => (t.core j).vat = some vat) _ _ h fun _ ht p _ =>
    State.onCore_keeps_vat ht _ (s.boundCore_vat vat m l pl x p)

theorem State.bindCluster_vat (s t : State) (vat : Nat) (m : Mould) (l : Nat) (pl : Placement) (x : Nat × Nat) {p : Nat} (hp : p < 17) :
    ((s.bindCluster vat m l pl t x).core (x.1 * 32 + p)).vat = some vat := by
  refine foldl_of_mem (P := fun t : State => (t.core (x.1 * 32 + p)).vat = some vat) (List.mem_range.mpr hp) (fun t => ?_)
    (fun t q ht => State.onCore_keeps_vat ht _ (s.boundCore_vat vat m l pl x q)) t
  rw [State.core_onCore_same, State.boundCore_vat]

/-- Every core of a placement's clusters belongs to the vat, its spares and Retired cores too. -/
theorem State.bindCores_vat (s : State) (vat : Nat) (m : Mould) (l : Nat) {pl : Placement} {k p : Nat} (hk : k ∈ pl.clusters) (hp : p < 17) :
    ((s.bindCores vat m l pl).core (k * 32 + p)).vat = some vat := by
  obtain ⟨i, hi⟩ := exists_zipIdx_of_mem hk
  rw [State.bindCores_eq, State.core_congr (State.assignLinks_cores ..)]
  exact foldl_of_mem (P := fun t : State => (t.core (k * 32 + p)).vat = some vat) hi (fun t => s.bindCluster_vat t vat m l pl (k, i) hp)
    (fun t x ht => State.bindCluster_keeps_vat ht s m l pl x) s

/-! ### The alternate store (R133) -/

theorem State.slotKey_congr (h : t.keys = s.keys) (k : Nat) : t.slotKey k = s.slotKey k := by
  rw [State.slotKey, State.slotKey, State.slot, State.slot, h]

/-- What is written through key slots depends on memory and keys alone. -/
theorem State.writePieces_mem_congr (hm : t.mem = s.mem) (hk : t.keys = s.keys) (ps : Pieces) (bs : List Byte) :
    (t.writePieces ps bs).mem = (s.writePieces ps bs).mem := by
  induction ps generalizing s t bs with
  | nil => exact hm
  | cons p ps ih =>
    rw [State.writePieces, State.writePieces]
    refine ih (s := s.dpaWrite _ _ _) (t := t.dpaWrite _ _ _) ?_ hk _
    rw [State.dpaWrite_eq, State.dpaWrite_eq, hm, State.slotKey_congr hk]

theorem State.storeAlternates_memOnly (s : State) (m : Mould) (l : Nat) (pl : Placement) : MemOnly s (s.storeAlternates m l pl) :=
  .foldl (fun t _ => t.writePieces_eq _ _) _ s

theorem State.storeAlternates_mem_congr (hm : t.mem = s.mem) (hk : t.keys = s.keys) (m : Mould) (l : Nat) (pl : Placement) :
    (t.storeAlternates m l pl).mem = (s.storeAlternates m l pl).mem := by
  refine (List.foldl_rel (r := fun t s : State => t.mem = s.mem ∧ t.keys = s.keys) ⟨hm, hk⟩ fun x _ t s hts => ?_).1
  refine ⟨State.writePieces_mem_congr hts.1 hts.2 _ _, ?_⟩
  rw [State.writePieces_eq, State.writePieces_eq s]
  exact hts.2

end Sys2Proof.Machine
end

section
/-! BIND_RESERVE and BIND_COMPLETE (R138 to R140, R270, R275): what each does to its vat, then the statement. -/

namespace Sys2Proof.Machine
open Sys2Proof Sys2Proof.Safety

variable {s s' : State} {r : CmdRef} {c : Cmd} {vat : Nat} {u : Vat} {m : Mould} {o : MemObj}

/-! ### What is reserved (R138, R139) -/

theorem State.onMem_memOnly (s : State) (f : MemTier → MemTier) : MemOnly s (s.onMem f) := rfl

theorem State.holdFrames_memOnly (s : State) (frs : List Nat) (use : FrameUse) : MemOnly s (s.holdFrames frs use) := rfl

theorem State.reserve_memOnly (s : State) (vat : Nat) (m : Mould) (l : Nat) : MemOnly s (s.reserve vat m l).2.1 := by
  unfold State.reserve
  split
  case isTrue => exact .refl s
  case isFalse =>
    split
    · exact .refl s
    · extract_lets used alt runs
      split
      · exact .refl s
      · dsimp only
        exact ((s.holdFrames_memOnly used _).trans (State.holdFrames_memOnly _ alt _)).trans (State.onMem_memOnly _ _)

/-- Only memory and the vats of the package change. -/
def MemAndVats (s t : State) : Prop := t = { s with mem := t.mem, vats := t.vats }

theorem MemAndVats.trans {s t x : State} (h : MemAndVats s t) (k : MemAndVats t x) : MemAndVats s x := by
  unfold MemAndVats at *
  rw [k, h]

theorem MemAndVats.of_memOnly {s t : State} (h : MemOnly s t) : MemAndVats s t := by
  unfold MemAndVats
  rw [h]

theorem MemAndVats.objs {s t : State} (h : MemAndVats s t) : t.objs = s.objs := by rw [h]

theorem MemAndVats.cores {s t : State} (h : MemAndVats s t) : t.cores = s.cores := by rw [h]

theorem MemAndVats.tick {s t : State} (h : MemAndVats s t) : t.tick = s.tick := by rw [h]

theorem State.onVat_memAndVats (s : State) (vat : Nat) (f : Vat → Vat) : MemAndVats s (s.onVat vat f) := rfl

theorem State.reserveAll_memAndVats (vat : Nat) (m : Mould) (es : List (Nat × Nat)) (s : State) (acc : SMap Placement) :
    MemAndVats s (State.reserveAll vat m es s acc).2.1 := by
  induction es generalizing s acc with
  | nil => exact rfl
  | cons e es ih =>
    rw [State.reserveAll]
    split
    case isTrue => exact rfl
    case isFalse => exact (MemAndVats.of_memOnly (s.reserve_memOnly ..)).trans ((State.onVat_memAndVats ..).trans (ih _ _))

/-- The vat that reserves changes in what it has reserved alone. -/
theorem State.reserveAll_vat? (m : Mould) (es : List (Nat × Nat)) (acc : SMap Placement) {rs : SMap Placement}
    (h : s.vat? vat = some { u with reserves := rs }) :
    ∃ rs', (State.reserveAll vat m es s acc).2.1.vat? vat = some { u with reserves := rs' } := by
  induction es generalizing s acc rs with
  | nil => exact ⟨rs, h⟩
  | cons e es ih =>
    rw [State.reserveAll]
    split
    case isTrue => exact ⟨rs, h⟩
    case isFalse =>
      have hres : (s.reserve vat (mouldFor m e.1) e.2).2.1.vat? vat = some { u with reserves := rs } := by
        rw [s.reserve_memOnly]
        exact h
      exact ih _ (State.vat?_onVat_of hres _)

/-! ### BIND_RESERVE -/

/-- R138: a Mould whose measurement is not the descriptor's is not bound. -/
theorem State.bindStatus_measure (s : State) (h : m.measure ≠ u.desc.measure) : s.bindStatus u m = 0x0155 := by simp [State.bindStatus, h]

theorem State.bindReserve_refused (hv : s.vat? (cmdVatId c.bytes) = some u) (hm : u.mould = some m) (h : s.bindStatus u m ≠ 0) :
    s.bindReserve c = s.report c (s.bindStatus u m) none u.lpkg [] := by
  simp [State.bindReserve, hv, hm, h]

theorem State.bindReserve_room {ps : SMap Placement} (hv : s.vat? (cmdVatId c.bytes) = some u) (hid : u.desc.vatId = cmdVatId c.bytes)
    (hm : u.mould = some m) (hst : s.bindStatus u m = 0)
    (hres : State.reserveAll (cmdVatId c.bytes) m (u.reserveList m) s [] = (0, s', ps)) (hload : field c.bytes 0x10 2 % 4096 = 0) :
    s.bindReserve c = (s'.onVat (cmdVatId c.bytes) fun v => { v with
      state := .reserved, place := mapGet Placement.empty ps 0, reserves := if v.role = .standby then ps else [], loader := 0,
      regionObj := [] }).report c 0 none u.lpkg [] := by
  simp [State.bindReserve, State.loaderStatus, hv, hid, hm, hst, hres, hload]

theorem exec_bindReserve {t : State} (hdue : CmdDue s r 0x32 c) (hown : ownBindReserve s c = 0) (ht : s.bindReserve c = t) :
    exec (.bindReserve r) s = .next t :=
  congrArg Host.Outcome.next ((State.reported_ok hdue hown _).trans ht)

theorem exec_bindReserve_room {ps : SMap Placement} (hdue : CmdDue s r 0x32 c) (hown : ownBindReserve s c = 0)
    (hv : s.vat? (cmdVatId c.bytes) = some u) (hid : u.desc.vatId = cmdVatId c.bytes) (hm : u.mould = some m) (hst : s.bindStatus u m = 0)
    (hres : State.reserveAll (cmdVatId c.bytes) m (u.reserveList m) s [] = (0, s', ps)) (hload : field c.bytes 0x10 2 % 4096 = 0)
    (hrole : u.role = .member) : ∃ t, exec (.bindReserve r) s = .next t ∧
      t.vat? (cmdVatId c.bytes) = some { u with
        state := .reserved, place := mapGet Placement.empty ps 0, reserves := [], loader := 0, regionObj := [] } ∧
      t.mem = s'.mem ∧ t.cmd? r = some { c with phase := .done, status := 0 } ∧ t.cores = s.cores ∧ t.tick = s.tick := by
  have ⟨hc, hp, _⟩ := hdue
  have hframe : MemAndVats s s' := by simpa [hres] using State.reserveAll_memAndVats (cmdVatId c.bytes) m (u.reserveList m) s []
  obtain ⟨rs, hrs⟩ : ∃ rs, s'.vat? (cmdVatId c.bytes) = some { u with reserves := rs } := by
    simpa [hres] using State.reserveAll_vat? m (u.reserveList m) [] (u := u) hv
  refine ⟨_, exec_bindReserve hdue hown (State.bindReserve_room hv hid hm hst hres hload), ?_, ?_, State.cmd?_report ?_ hp .., ?_, ?_⟩
  · rw [State.vat?_report, State.vat?_onVat_of hrs]
    simp [hrole]
  · rw [State.report_mem]
    rfl
  · exact (State.cmd?_congr hframe.objs r).trans hc
  · exact (State.report_cores ..).trans hframe.cores
  · exact (State.report_tick ..).trans hframe.tick

theorem exec_bindReserve_measure (hdue : CmdDue s r 0x32 c) (hown : ownBindReserve s c = 0) (hv : s.vat? (cmdVatId c.bytes) = some u)
    (hm : u.mould = some m) (hmeas : m.measure ≠ u.desc.measure) :
    ∃ t, exec (.bindReserve r) s = .next t ∧ t.vats = s.vats ∧ t.mem = s.mem ∧
      t.cmd? r = some { c with phase := .done, status := 0x0155 } := by
  have ⟨hc, hp, _⟩ := hdue
  have hst := s.bindStatus_measure hmeas
  have heff := State.bindReserve_refused hv hm (by rw [hst]; decide)
  rw [hst] at heff
  exact ⟨_, exec_bindReserve hdue hown heff, State.report_vats .., State.report_mem .., State.cmd?_report hc hp ..⟩

/-! ### BIND_COMPLETE of another container (R140) -/

theorem State.freeRegions_none (hv : s.vat? vat = some u) (h : u.regionObj = []) : s.freeRegions vat = s := by
  simp [State.freeRegions, hv, h]

theorem readStatus_none (ps : Pieces) : readStatus .none ps = 0 := rfl

theorem State.readsMet_none (s : State) (ps : Pieces) : s.readsMet .none ps = s := rfl

theorem State.unreserve_memAndVats (s : State) (vat : Nat) : MemAndVats s (s.unreserve vat) := rfl

/-- A vat that has given back what BIND_RESERVE took. -/
def Vat.unreserved (v : Vat) : Vat :=
  { v with state := .defined, place := Placement.empty, reserves := [], regionObj := [], loader := 0 }

theorem State.vat?_unreserve (h : s.vat? vat = some u) : (s.unreserve vat).vat? vat = some u.unreserved :=
  State.vat?_onVat_of (s := (s.dropFrames (s.vatFrames vat)).freeExtents fun o => decide (o = .vat vat)) h _

theorem State.unreserve_frames {f : Nat} (h : f ∈ s.vatFrames vat) : mapFind (s.unreserve vat).mem.frames f = none :=
  mapFind_foldl_del h s.mem.frames

theorem State.bindComplete_other (hv : s.vat? (cmdVatId c.bytes) = some u) (hid : u.desc.vatId = cmdVatId c.bytes) (hm : u.mould = some m)
    (hreg : u.regionObj = []) (ho : s.obj? (hIdx (field c.bytes 0x18 4)) = some o)
    (hother : mouldMeasure (s.container o (field c.bytes 0x10 8)) ≠ m.measure) : s.bindComplete c .none =
      (s.unreserve (cmdVatId c.bytes)).report c 0x0812 (some { status := 0x0812 }) u.lpkg [] := by
  simp [State.bindComplete, hv, hid, hm, State.freeRegions_none hv hreg, ho, readStatus_none, State.readsMet_none, hother]

theorem exec_bindComplete {t : State} (hdue : CmdDue s r 0x33 c) (hown : ownBindComplete s c = 0) (hheld : s.regionsHeld c = false)
    (ht : s.bindComplete c .none = t) : exec (.bindComplete ⟨r, .none⟩) s = .next t := by
  refine congrArg Host.Outcome.next ((State.reported_ok hdue hown _).trans ?_)
  rw [hheld]
  exact ht

theorem exec_bindComplete_other (hdue : CmdDue s r 0x33 c) (hown : ownBindComplete s c = 0) (hv : s.vat? (cmdVatId c.bytes) = some u)
    (hid : u.desc.vatId = cmdVatId c.bytes) (hm : u.mould = some m) (hheld : s.regionsHeld c = false) (hreg : u.regionObj = [])
    (ho : s.obj? (hIdx (field c.bytes 0x18 4)) = some o) (hother : mouldMeasure (s.container o (field c.bytes 0x10 8)) ≠ m.measure) :
    ∃ t u', exec (.bindComplete ⟨r, .none⟩) s = .next t ∧ t.vat? (cmdVatId c.bytes) = some u' ∧ u'.state = .defined ∧
      u'.place = Placement.empty ∧ (∀ f ∈ s.vatFrames (cmdVatId c.bytes), mapFind t.mem.frames f = none) ∧
      t.cmd? r = some { c with phase := .done, status := 0x0812 } ∧ t.cores = s.cores ∧ t.tick = s.tick := by
  have ⟨hc, hp, _⟩ := hdue
  have hframe := s.unreserve_memAndVats (cmdVatId c.bytes)
  refine ⟨_, u.unreserved, exec_bindComplete hdue hown hheld (State.bindComplete_other hv hid hm hreg ho hother), ?_, rfl, rfl, fun f hf => ?_,
    State.cmd?_report ?_ hp .., ?_, ?_⟩
  · rw [State.vat?_report, State.vat?_unreserve hv]
  · rw [State.report_mem, State.unreserve_frames hf]
  · rw [State.cmd?_congr hframe.objs, hc]
  · rw [State.report_cores, hframe.cores]
  · rw [State.report_tick, hframe.tick]

/-! ### BIND_COMPLETE of the same container (R133, R140, R275) -/

/-- The record of a vat whose binding is complete, `n` its tensors. -/
def State.boundVat (s : State) (m : Mould) (pl : Placement) (n : Nat) (v : Vat) : Vat :=
  { v with
    state := if v.isMember then .bound else .standby, place := pl, chain := m.measure, comp := 1, meter := ⟨s.now, 0, 0⟩, regionObj := [],
    headers := if v.isMember then (List.range n).map fun i => pressHdr (s.tensorBytes v v.lpkg v.place i).1 else [] }

/-- The member `v` bound at its placement: its cores bound with the spares as the journal has them now, its alternates stored, its record
complete. -/
def State.bindMember (s : State) (vat : Nat) (v : Vat) (m : Mould) : State :=
  (((s.bindCores vat m v.lpkg (s.respare m v.lpkg v.place)).storeAlternates m v.lpkg v.place).onRole vat fun r =>
    { r with reported := s.now, lastSent := s.now }).onVat vat
      (s.boundVat m (s.respare m v.lpkg v.place) (mTensors m v.lpkg).length)

theorem State.bindComplete_same (hv : s.vat? (cmdVatId c.bytes) = some u) (hid : u.desc.vatId = cmdVatId c.bytes) (hm : u.mould = some m)
    (hreg : u.regionObj = []) (ho : s.obj? (hIdx (field c.bytes 0x18 4)) = some o)
    (hsame : mouldMeasure (s.container o (field c.bytes 0x10 8)) = m.measure)
    (hdig : (u.readsFor m).all (fun l => (checkDigests s.torus (s.container o (field c.bytes 0x10 8)) none l).isNone) = true)
    (hrole : u.role = .member) (htens : s.checkTensors u m u.lpkg u.place = none) (hres : u.reserves = [])
    (hcl : u.place.clusters.all (fun k => decide ((s.retiredIn k).length < 2)) = true) :
    s.bindComplete c .none = (s.bindMember (cmdVatId c.bytes) u m).report c 0 none u.lpkg [] := by
  have hmember : u.isMember = true := by simp [Vat.isMember, hrole]
  have hbad : ((u.readsFor m).findSome? fun l => checkDigests s.torus (s.container o (field c.bytes 0x10 8)) none l) = none :=
    List.findSome?_eq_none_iff.mpr fun l hl => Option.isNone_iff_eq_none.mp (List.all_eq_true.mp hdig l hl)
  have hretired : ((u.place.clusters ++ u.reserves.flatMap fun r => r.2.clusters).any fun k => decide (2 ≤ (s.retiredIn k).length)) = false := by
    simpa [hres] using hcl
  simp [State.bindComplete, hv, hid, hm, State.freeRegions_none hv hreg, ho, readStatus_none, State.readsMet_none, hsame, hbad,
    Vat.weightsHere, hmember, firstFail, htens, hretired, State.bindMember]
  rfl

theorem State.bindMember_frame (s : State) (vat : Nat) (v : Vat) (m : Mould) : s.bindMember vat v m =
    { s with
      cores := (s.bindCores vat m v.lpkg (s.respare m v.lpkg v.place)).cores, links := (s.bindMember vat v m).links,
      mem := (s.bindMember vat v m).mem, roles := (s.bindMember vat v m).roles, vats := (s.bindMember vat v m).vats } := by
  unfold State.bindMember
  rw [State.storeAlternates_memOnly, s.bindCores_frame]
  rfl

theorem State.bindMember_mem (s : State) (vat : Nat) (v : Vat) (m : Mould) :
    (s.bindMember vat v m).mem = (s.storeAlternates m v.lpkg v.place).mem := by
  have hbind : CoresAndLinks s _ := s.bindCores_frame vat m v.lpkg (s.respare m v.lpkg v.place)
  exact State.storeAlternates_mem_congr (by rw [hbind]) (by rw [hbind]) m v.lpkg v.place

theorem State.vat?_bindMember (hv : s.vat? vat = some u) : (s.bindMember vat u m).vat? vat =
    some (s.boundVat m (s.respare m u.lpkg u.place) (mTensors m u.lpkg).length u) := by
  refine State.vat?_onVat_of ?_ _
  rw [State.vat?_onRole, State.storeAlternates_memOnly, State.bindCores_frame]
  exact hv

theorem exec_bindComplete_same (hdue : CmdDue s r 0x33 c) (hown : ownBindComplete s c = 0) (hv : s.vat? (cmdVatId c.bytes) = some u)
    (hid : u.desc.vatId = cmdVatId c.bytes) (hm : u.mould = some m) (hheld : s.regionsHeld c = false) (hreg : u.regionObj = [])
    (ho : s.obj? (hIdx (field c.bytes 0x18 4)) = some o) (hsame : mouldMeasure (s.container o (field c.bytes 0x10 8)) = m.measure)
    (hdig : (u.readsFor m).all (fun l => (checkDigests s.torus (s.container o (field c.bytes 0x10 8)) none l).isNone) = true)
    (hrole : u.role = .member) (htens : s.checkTensors u m u.lpkg u.place = none) (hres : u.reserves = [])
    (hcl : u.place.clusters.all (fun k => decide ((s.retiredIn k).length < 2)) = true) :
    ∃ t u', exec (.bindComplete ⟨r, .none⟩) s = .next t ∧ t.vat? (cmdVatId c.bytes) = some u' ∧ u'.state = .bound ∧ u'.comp = 1 ∧
      u'.chain = m.measure ∧ u'.meter = ⟨s.tick.count, 0, 0⟩ ∧ u'.mould = some m ∧
      (∀ k q, k ∈ u.place.clusters → q < 17 → (s.core (k * 32 + q)).state ≠ .retired →
        (t.core (k * 32 + q)).vat = some (cmdVatId c.bytes)) ∧
      t.cmd? r = some { c with phase := .done, status := 0 } ∧ t.mem = (s.storeAlternates m u.lpkg u.place).mem ∧ t.tick = s.tick := by
  have ⟨hc, hp, _⟩ := hdue
  have hframe := s.bindMember_frame (cmdVatId c.bytes) u m
  refine ⟨_, s.boundVat m (s.respare m u.lpkg u.place) (mTensors m u.lpkg).length u,
    exec_bindComplete hdue hown hheld (State.bindComplete_same hv hid hm hreg ho hsame hdig hrole htens hres hcl),
    ?_, ?_, rfl, rfl, rfl, hm, fun k q hk hq _ => ?_, State.cmd?_report ?_ hp .., ?_, ?_⟩
  · rw [State.vat?_report, State.vat?_bindMember hv]
  · simp [State.boundVat, Vat.isMember, hrole]
  · rw [State.core_congr (State.report_cores ..), State.core_congr (congrArg State.cores hframe)]
    exact s.bindCores_vat _ m u.lpkg (pl := s.respare m u.lpkg u.place) hk hq
  · exact (State.cmd?_congr (congrArg State.objs hframe) r).trans hc
  · rw [State.report_mem, State.bindMember_mem]
  · rw [State.report_tick, hframe]

/-! ### The statement -/

/-- Settles O24: each command is one effect (a reservation, a member bound, all given back, none) under the report it writes, and the report
leaves the vats, memory and cores of that effect. -/
theorem vatsAreBound : Obligations.VatsAreBound := by
  unfold Obligations.VatsAreBound
  refine ⟨?room, ?measure, ?same, ?other⟩
  case room => exact fun _ _ _ _ _ _ _ hdue hown hv hid hm hst hres hload hrole =>
    exec_bindReserve_room hdue hown hv hid hm hst hres hload hrole
  case measure => exact fun _ _ _ _ _ hdue hown hv hm hmeas => exec_bindReserve_measure hdue hown hv hm hmeas
  case same =>
    intro s r c u m o bs hdue hown hv hid hm hheld hreg ho hbs hsame hdig hrole htens hres hcl
    rw [hbs] at hsame hdig
    exact exec_bindComplete_same hdue hown hv hid hm hheld hreg ho hsame hdig hrole htens hres hcl
  case other => exact fun _ _ _ _ _ _ hdue hown hv hid hm hheld hreg ho hother =>
    exec_bindComplete_other hdue hown hv hid hm hheld hreg ho hother

end Sys2Proof.Machine
end

section
/-! The Tick unit and the commands that wait, after each operation that a new Tick or a stalled core can reach: none of them changes either. -/

namespace Sys2Proof.Machine
open Sys2Proof

/-- What only the Tick unit's own operations and the queue's change. -/
def State.clock (s : State) : TickUnit × List Instr := (s.tick, s.pending)

theorem State.tick_of_clock {s : State} {x : TickUnit × List Instr} (h : s.clock = x) : s.tick = x.1 := congrArg Prod.fst h

theorem State.pending_of_clock {s : State} {x : TickUnit × List Instr} (h : s.clock = x) : s.pending = x.2 := congrArg Prod.snd h

@[simp] theorem clock_ite (c : Prop) [Decidable c] (s t : State) : (if c then s else t).clock = if c then s.clock else t.clock := apply_ite ..

@[simp] theorem clock_foldl {α : Type} {g : State → α → State} (h : ∀ t a, (g t a).clock = t.clock) (l : List α) (s : State) :
    (l.foldl g s).clock = s.clock := by
  induction l generalizing s with
  | nil => rfl
  | cons a l ih => rw [List.foldl_cons, ih, h]

theorem MemOnly.clock {s t : State} (h : MemOnly s t) : t.clock = s.clock := by
  rw [h]
  rfl

section
variable (s : State)

/-! ### Parts of the state -/

@[simp] theorem State.onLinks_clock (f) : (s.onLinks f).clock = s.clock := rfl
@[simp] theorem State.onSeqs_clock (f) : (s.onSeqs f).clock = s.clock := rfl
@[simp] theorem State.onEvents_clock (f) : (s.onEvents f).clock = s.clock := rfl
@[simp] theorem State.onVats_clock (f) : (s.onVats f).clock = s.clock := rfl
@[simp] theorem State.onCc_clock (f) : (s.onCc f).clock = s.clock := rfl
@[simp] theorem State.onKeys_clock (f) : (s.onKeys f).clock = s.clock := rfl
@[simp] theorem State.onObjs_clock (f) : (s.onObjs f).clock = s.clock := rfl
@[simp] theorem State.onRoles_clock (f) : (s.onRoles f).clock = s.clock := rfl
@[simp] theorem State.onHp_clock (f) : (s.onHp f).clock = s.clock := rfl
@[simp] theorem State.onQos_clock (f) : (s.onQos f).clock = s.clock := rfl
@[simp] theorem State.onMsix_clock (f) : (s.onMsix f).clock = s.clock := rfl
@[simp] theorem State.onBoot_clock (f) : (s.onBoot f).clock = s.clock := rfl
@[simp] theorem State.onJ1_clock (f) : (s.onJ1 f).clock = s.clock := rfl
@[simp] theorem State.onJ0_clock (f) : (s.onJ0 f).clock = s.clock := rfl
@[simp] theorem State.onMem_clock (f) : (s.onMem f).clock = s.clock := rfl
@[simp] theorem State.onOut_clock (f) : (s.onOut f).clock = s.clock := rfl
@[simp] theorem State.onHost_clock (f) : (s.onHost f).clock = s.clock := rfl
@[simp] theorem State.onCores_clock (f) : (s.onCores f).clock = s.clock := rfl
@[simp] theorem State.onCap_clock (f) : (s.onCap f).clock = s.clock := rfl
@[simp] theorem State.onFlt_clock (f) : (s.onFlt f).clock = s.clock := rfl

/-! ### Shared operations -/

@[simp] theorem State.note_clock (src : Nat) (what : String) (arg : Nat) : (s.note src what arg).clock = s.clock := by simp [State.note]
@[simp] theorem State.send_clock (kind : String) (dest : Nat) (args : List Nat) (body : List Byte) :
    (s.send kind dest args body).clock = s.clock := by
  simp [State.send]
@[simp] theorem State.sendControl_clock (node msg vat : Nat) (bytes : List Byte) : (s.sendControl node msg vat bytes).clock = s.clock := by
  simp [State.sendControl]
@[simp] theorem State.control_clock (v : Vat) (msg node tick arg : Nat) (body : List Byte) :
    (s.control v msg node tick arg body).clock = s.clock := by
  simp [State.control]
@[simp] theorem State.controlAll_clock (v : Vat) (msg tick arg : Nat) (body : List Byte) : (s.controlAll v msg tick arg body).clock = s.clock := by
  simp [State.controlAll]
@[simp] theorem State.onVat_clock (v : Nat) (f : Vat → Vat) : (s.onVat v f).clock = s.clock := by simp [State.onVat]
@[simp] theorem State.onRole_clock (v : Nat) (f : VatRole → VatRole) : (s.onRole v f).clock = s.clock := by simp [State.onRole]
@[simp] theorem State.onCore_clock (c : Nat) (f : Core → Core) : (s.onCore c f).clock = s.clock := by simp [State.onCore]
@[simp] theorem State.onFunc_clock (f : Nat) (g : Func → Func) : (s.onFunc f g).clock = s.clock := by simp [State.onFunc]
@[simp] theorem State.onCplx_clock (k : Nat) (f : Cplx → Cplx) : (s.onCplx k f).clock = s.clock := by simp [State.onCplx]
@[simp] theorem State.onPort_clock (k : Nat) (f : Port → Port) : (s.onPort k f).clock = s.clock := by simp [State.onPort]
@[simp] theorem State.onCmd_clock (r : CmdRef) (f : Cmd → Cmd) : (s.onCmd r f).clock = s.clock := by simp [State.onCmd]
@[simp] theorem State.onSess_clock (vat i : Nat) (f : Session → Session) : (s.onSess vat i f).clock = s.clock := by simp [State.onSess]
@[simp] theorem State.onWk_clock (vat i : Nat) (f : SessWork → SessWork) : (s.onWk vat i f).clock = s.clock := by simp [State.onWk]
@[simp] theorem State.failStep_clock (vat : Nat) (c : Cause) : (s.failStep vat c).clock = s.clock := by simp [State.failStep]
@[simp] theorem State.degradeStep_clock (vat : Nat) : (s.degradeStep vat).clock = s.clock := by simp [State.degradeStep]
@[simp] theorem State.failAll_clock (status src : Nat) : (s.failAll status src).clock = s.clock := by simp [State.failAll]
@[simp] theorem State.hostTraffic_clock (write : Bool) (n : Nat) : (s.hostTraffic write n).clock = s.clock := by simp [State.hostTraffic]
@[simp] theorem State.raise_clock (f v : Nat) : (s.raise f v).clock = s.clock := by simp [State.raise]
@[simp] theorem State.bothHalves_clock : s.bothHalves.clock = s.clock := by simp [State.bothHalves]
@[simp] theorem State.journalAdd_clock (d : JData) : (s.journalAdd d).clock = s.clock := by simp [State.journalAdd]
@[simp] theorem State.dpaWrite_clock (key : List Byte) (a : Nat) (bs : List Byte) : (s.dpaWrite key a bs).clock = s.clock := by simp [State.dpaWrite]
@[simp] theorem State.writePieces_clock (ps : Pieces) (bs : List Byte) : (s.writePieces ps bs).clock = s.clock := by
  induction ps generalizing s bs with
  | nil => rfl
  | cons p ps ih => rw [State.writePieces, ih, State.dpaWrite_clock]
@[simp] theorem State.hostWrite_clock (a : Nat) (bs : List Byte) : (s.hostWrite a bs).clock = s.clock := by simp [State.hostWrite]
@[simp] theorem State.hostPut_clock (a : Nat) (bs : List Byte) : (s.hostPut a bs).clock = s.clock := by simp [State.hostPut]
@[simp] theorem State.hostPost_clock (f a : Nat) (bs : List Byte) : (s.hostPost f a bs).clock = s.clock := by simp [State.hostPost]
@[simp] theorem State.faultLog_clock (vat : Nat) (r : List Byte) : (s.faultLog vat r).clock = s.clock := by
  unfold State.faultLog
  split <;> simp
@[simp] theorem State.finish_clock (r : CmdRef) (status : Nat) : (s.finish r status).clock = s.clock := by simp [State.finish]
@[simp] theorem State.putFence_clock (f : Nat) (v : Fence) : (s.putFence f v).clock = s.clock := by
  unfold State.putFence
  split <;> simp
@[simp] theorem State.signalFence_clock (f status : Nat) : (s.signalFence f status).clock = s.clock := by simp [State.signalFence]
@[simp] theorem State.signalFor_clock (f : Nat) (r : CmdRef) (status : Nat) : (s.signalFor f r status).clock = s.clock := by simp [State.signalFor]

/-! ### Frames, objects and keys -/

@[simp] theorem State.holdFrames_clock (frs : List Nat) (u : FrameUse) : (s.holdFrames frs u).clock = s.clock := by simp [State.holdFrames]
@[simp] theorem State.dropFrames_clock (frs : List Nat) : (s.dropFrames frs).clock = s.clock := by simp [State.dropFrames]
@[simp] theorem State.zeroSlices_clock (ks : List Nat) : (s.zeroSlices ks).clock = s.clock := by simp [State.zeroSlices]
@[simp] theorem State.retireSlots_clock (ks : List Nat) : (s.retireSlots ks).clock = s.clock := by
  unfold State.retireSlots
  exact clock_foldl (fun t k => State.onKeys_clock t _) ks s
@[simp] theorem State.startWash_clock (k : WashKind) (slots frames cave : List Nat) : (s.startWash k slots frames cave).clock = s.clock := by
  simp [State.startWash]
@[simp] theorem State.freeObj_clock (i : Nat) : (s.freeObj i).clock = s.clock := by simp [State.freeObj]
@[simp] theorem State.freeRegions_clock (vat : Nat) : (s.freeRegions vat).clock = s.clock := by
  unfold State.freeRegions
  split <;> simp
@[simp] theorem State.freeCore_clock (c : Nat) : (s.freeCore c).clock = s.clock := by simp [State.freeCore]

/-! ### Sessions and pages (R241 to R248) -/

@[simp] theorem State.dropBias_clock (vat i : Nat) : (s.dropBias vat i).clock = s.clock := by
  unfold State.dropBias
  split <;> simp
@[simp] theorem State.offer_clock (vat i : Nat) (withdraw : Bool) : (s.offer vat i withdraw).clock = s.clock := by
  unfold State.offer
  split <;> simp
@[simp] theorem State.withdraw_clock (vat i : Nat) : (s.withdraw vat i).clock = s.clock := by
  unfold State.withdraw
  split <;> simp
@[simp] theorem State.freeSess_clock (vat i : Nat) : (s.freeSess vat i).clock = s.clock := by simp [State.freeSess]
@[simp] theorem State.outWrite_clock (w : SessWork) (off : Nat) (bs : List Byte) : (s.outWrite w off bs).clock = s.clock := by
  unfold State.outWrite
  split <;> simp
@[simp] theorem State.endReq_clock (vat i status : Nat) (into : SessState) : (s.endReq vat i status into).clock = s.clock := by
  unfold State.endReq
  dsimp only
  (repeat' split) <;> simp
@[simp] theorem State.cancelSessions_clock (vat : Nat) : (s.cancelSessions vat).clock = s.clock := by
  unfold State.cancelSessions
  split <;> simp
@[simp] theorem State.degradeSess_clock (vat i : Nat) : (s.degradeSess vat i).clock = s.clock := by
  unfold State.degradeSess
  dsimp only
  (repeat' split) <;> simp
@[simp] theorem State.pageCommand_clock (vat i arg epoch holder : Nat) (es : List (List Byte)) :
    (s.pageCommand vat i arg epoch holder es).clock = s.clock := by
  unfold State.pageCommand
  split <;> simp
@[simp] theorem State.pageIn_clock (vat i : Nat) : (s.pageIn vat i).clock = s.clock := by
  unfold State.pageIn
  (repeat' split) <;> simp
@[simp] theorem State.pageOut_clock (vat i : Nat) : (s.pageOut vat i).clock = s.clock := by
  unfold State.pageOut
  split <;> simp
@[simp] theorem State.pausePages_clock (vat : Nat) : (s.pausePages vat).clock = s.clock := by
  unfold State.pausePages
  split
  · rfl
  · dsimp only
    split
    · rfl
    · refine clock_foldl (fun t p => ?_) _ _
      split <;> simp

/-! ### Binding, and a standby that takes a move (R138, R275, R280) -/

@[simp] theorem State.storeAlternates_clock (m : Mould) (l : Nat) (pl : Placement) : (s.storeAlternates m l pl).clock = s.clock := by
  simp [State.storeAlternates]
@[simp] theorem State.assignLinks_clock (vat : Nat) (m : Mould) (l : Nat) : (s.assignLinks vat m l).clock = s.clock := by simp [State.assignLinks]
@[simp] theorem State.bindCores_clock (vat : Nat) (m : Mould) (l : Nat) (pl : Placement) : (s.bindCores vat m l pl).clock = s.clock := by
  simp [State.bindCores]
@[simp] theorem State.readHeaders_clock (vat : Nat) : (s.readHeaders vat).clock = s.clock := by
  unfold State.readHeaders
  split <;> simp
@[simp] theorem State.zeroWorking_clock (vat : Nat) : (s.zeroWorking vat).clock = s.clock := by
  unfold State.zeroWorking
  split <;> simp
@[simp] theorem State.joinNew_clock (vat : Nat) : (s.joinNew vat).clock = s.clock := by
  unfold State.joinNew
  split <;> simp
@[simp] theorem State.reserve_clock (vat : Nat) (m : Mould) (l : Nat) : (s.reserve vat m l).2.1.clock = s.clock := (s.reserve_memOnly vat m l).clock
@[simp] theorem State.pullWeights_clock (vat k : Nat) : (s.pullWeights vat k).clock = s.clock := by
  unfold State.pullWeights
  (repeat' split) <;> simp
@[simp] theorem State.giveParams_clock (vat : Nat) (p : SessParams) : ((s.giveParams vat p).getD s).clock = s.clock := by
  unfold State.giveParams
  dsimp only
  split
  · rfl
  · split <;> simp
@[simp] theorem State.takeMove_clock (vat k : Nat) : (s.takeMove vat k).clock = s.clock := by
  unfold State.takeMove
  split
  · rfl
  · extract_lets l r bytes cold pl t t1 t2 t3
    have hreserved : r.2.1.clock = s.clock := by
      dsimp only [r]
      split
      · rfl
      · exact State.reserve_clock ..
    split
    · exact State.note_clock ..
    · simp [t, t1, t2, t3, hreserved]

/-! ### Remoulds (R277 to R283) -/

@[simp] theorem State.writeMeter_clock (vat kind : Nat) : (s.writeMeter vat kind).clock = s.clock := by
  unfold State.writeMeter
  split <;> simp
@[simp] theorem State.excuse_clock (vat : Nat) : (s.excuse vat).clock = s.clock := by simp [State.excuse]
@[simp] theorem State.washVat_clock (vat : Nat) : (s.washVat vat).clock = s.clock := by
  unfold State.washVat
  split <;> simp
@[simp] theorem State.doLater_clock (vat : Nat) (x : Later) : (s.doLater vat x).clock = s.clock := by simp [State.doLater]
@[simp] theorem State.sendHalt_clock (vat b : Nat) : (s.sendHalt vat b).clock = s.clock := by
  unfold State.sendHalt
  split <;> simp
@[simp] theorem State.autoFresh_clock (vat : Nat) (ks : List RemouldKind) : (s.autoFresh vat ks).clock = s.clock := by
  unfold State.autoFresh
  split <;> simp
@[simp] theorem State.releaseBeyond_clock (vat : Nat) (a b : Mould × Nat × Placement) : (s.releaseBeyond vat a b).clock = s.clock := by
  simp [State.releaseBeyond]
@[simp] theorem State.releasePlace_clock (vat : Nat) (m : Mould) (l : Nat) (pl : Placement) : (s.releasePlace vat m l pl).clock = s.clock := by
  simp [State.releasePlace]
@[simp] theorem State.stepBack_clock (vat : Nat) : (s.stepBack vat).clock = s.clock := by
  unfold State.stepBack
  split <;> simp
@[simp] theorem State.unstage_clock (vat : Nat) : (s.unstage vat).clock = s.clock := by
  unfold State.unstage
  split <;> simp
@[simp] theorem State.abandon_clock (vat status : Nat) : (s.abandon vat status).clock = s.clock := by
  unfold State.abandon
  dsimp only
  (repeat' split) <;> simp
@[simp] theorem State.autoRemould_clock (vat : Nat) (k : RemouldKind) (loss : Bool) (wait : Later) :
    (s.autoRemould vat k loss wait).clock = s.clock := by
  unfold State.autoRemould
  split <;> simp
@[simp] theorem State.noSpare_clock (vat : Nat) : (s.noSpare vat).clock = s.clock := by
  unfold State.noSpare
  dsimp only
  split <;> simp
@[simp] theorem State.replacePkg_clock (vat l : Nat) (loss : Bool) : (s.replacePkg vat l loss).clock = s.clock := by
  unfold State.replacePkg
  (repeat' split) <;> simp
@[simp] theorem State.spareRemould_clock (vat l core : Nat) : (s.spareRemould vat l core).clock = s.clock := by simp [State.spareRemould]
@[simp] theorem State.lateRemoulds_clock (vat : Nat) : (s.lateRemoulds vat).clock = s.clock := by
  refine (clock_foldl (fun t x => ?_) _ _).trans (State.onRole_clock ..)
  cases x with
  | pkg l loss => exact State.replacePkg_clock ..
  | spare l c => exact State.spareRemould_clock ..

/-! ### Halts (R277, R283) -/

@[simp] theorem State.dropFrozen_clock (vat : Nat) : (s.dropFrozen vat).clock = s.clock := by
  unfold State.dropFrozen
  split <;> simp
@[simp] theorem State.closeRest_clock (vat : Nat) : (s.closeRest vat).clock = s.clock := by
  unfold State.closeRest
  split <;> simp
@[simp] theorem State.haltsDone_clock (vat : Nat) : (s.haltsDone vat).clock = s.clock := by simp [State.haltsDone]
@[simp] theorem State.haltVat_clock (vat : Nat) : (s.haltVat vat).clock = s.clock := by
  unfold State.haltVat
  split <;> simp

/-! ### What a Tick brings -/

@[simp] theorem State.settleCores_clock : s.settleCores.clock = s.clock := by simp [State.settleCores]
@[simp] theorem State.haltDue_clock : s.haltDue.clock = s.clock := by
  refine clock_foldl (fun t p => ?_) _ _
  (repeat' split) <;> simp
@[simp] theorem State.readyDue_clock : s.readyDue.clock = s.clock := by
  refine clock_foldl (fun t p => ?_) _ _
  split <;> simp
@[simp] theorem State.enterRunning_clock : s.enterRunning.clock = s.clock := by
  refine clock_foldl (fun t p => ?_) _ _
  dsimp only
  (repeat' split) <;> simp
@[simp] theorem State.keepSeen_clock (k : Nat) : (s.keepSeen k).clock = s.clock := by simp [State.keepSeen]
@[simp] theorem State.setVault_clock (k : Nat) (b : Bool) : (s.setVault k b).clock = s.clock := by simp [State.setVault]
@[simp] theorem State.cutAdmin_clock (r : CmdRef) : (s.cutAdmin r).clock = s.clock := by
  unfold State.cutAdmin
  split <;> simp
@[simp] theorem State.splitFence_clock (k : Nat) : (s.splitFence k).clock = s.clock := by simp [State.splitFence]
@[simp] theorem State.pathLost_clock (k : Nat) : (s.pathLost k).clock = s.clock := by simp [State.pathLost]
@[simp] theorem State.classifyPaths_clock : s.classifyPaths.clock = s.clock := by simp [State.classifyPaths]
@[simp] theorem State.refreshCap_clock : s.refreshCap.clock = s.clock := by simp [State.refreshCap]
@[simp] theorem State.countBeats_clock : s.countBeats.clock = s.clock := by simp [State.countBeats]
@[simp] theorem State.classify_clock : s.classify.clock = s.clock := by simp [State.classify]
@[simp] theorem State.excuseTick_clock : s.excuseTick.clock = s.clock := by simp [State.excuseTick]
@[simp] theorem State.countWaits_clock : s.countWaits.clock = s.clock := by simp [State.countWaits]
@[simp] theorem State.fillTick_clock (k : Nat) : (s.fillTick k).clock = s.clock := by simp [State.fillTick]
@[simp] theorem State.sendFlit_clock (k : Nat) (f : Flit) : (s.sendFlit k f).clock = s.clock := by simp [State.sendFlit]
@[simp] theorem State.leaveAlign_clock (k : Nat) : (s.leaveAlign k).clock = s.clock := by simp [State.leaveAlign]
@[simp] theorem State.sendMarkers_clock : s.sendMarkers.clock = s.clock := by simp [State.sendMarkers]

/-! ### Stalled cores (R400, R403, R404, R409) -/

@[simp] theorem State.degradeCore_clock (c : Nat) : (s.degradeCore c).clock = s.clock := by
  unfold State.degradeCore
  split <;> simp
@[simp] theorem State.beginReset_clock (kind index cause : Nat) : (s.beginReset kind index cause).clock = s.clock := by simp [State.beginReset]
@[simp] theorem State.retireCore_clock (c cause : Nat) : (s.retireCore c cause).clock = s.clock := by
  unfold State.retireCore
  (repeat' split) <;> simp
@[simp] theorem State.replayStall_clock (vat : Nat) (core : Option Nat) : (s.replayStall vat core).clock = s.clock := by
  unfold State.replayStall
  (repeat' split) <;> simp
@[simp] theorem State.replayBegin_clock (vat : Nat) (cores : List Nat) : (s.replayBegin vat cores).clock = s.clock := by
  unfold State.replayBegin
  split <;> simp
@[simp] theorem State.coreStall_clock (st : Stall) : (s.coreStall st).clock = s.clock := by
  unfold State.coreStall
  (repeat' split) <;> simp

end

end Sys2Proof.Machine
end

section
/-! Tick edges and the Tick Count (R141 to R143): the Tick unit after an edge, a missing edge and a count load, and the vats where no halt and
no start is awaited. -/

namespace Sys2Proof.Machine
open Sys2Proof

/-! ### What a new Tick leaves of the Tick unit and the queue -/

/-- The stretches of the Tick that ends no longer count (R147, R148). -/
def TickUnit.fresh (k : TickUnit) : TickUnit := { k with stretches := 0, overrun := false }

theorem State.newTick_clock (s : State) : s.newTick.clock = (s.tick.fresh, s.pending) := by
  simp only [State.newTick, clock_ite, State.sendMarkers_clock, State.refreshCap_clock, State.countBeats_clock, State.classify_clock,
    State.excuseTick_clock, State.countWaits_clock, State.onQos_clock, State.classifyPaths_clock, State.enterRunning_clock,
    State.readyDue_clock, State.haltDue_clock, State.settleCores_clock, ite_self]
  rfl

/-- The Tick unit in Holdover (R143). -/
def TickUnit.held (k : TickUnit) (status : Nat) : TickUnit :=
  { k with
    lock := .holdover, aligned := false, nLoss := sat32 k.nLoss 1, slip := decide (status = 0x0605), edges := decide (status = 0x0605),
    frames := 0, sinceFrm := none, atFrame := false }

theorem TickUnit.held_nLoss (k : TickUnit) (status : Nat) : (k.held status).nLoss = min (k.nLoss + 1) (2 ^ 32 - 1) := sat32_one k.nLoss

theorem State.enterHoldover_clock (s : State) (status : Nat) : (s.enterHoldover status).clock = (s.tick.held status, s.pending) := by
  simp only [State.enterHoldover, State.note_clock, State.failAll_clock]
  rfl

/-! ### An edge (R141, R142) -/

/-- The Tick unit after an edge with its TICK_FRAME: a slip takes a Locked unit to Holdover. -/
def TickUnit.edged (k : TickUnit) (frame inTol : Bool) : TickUnit :=
  if k.lock = .locked ∧ frame ∧ (k.edge frame inTol).count % 65536 ≠ 0 then (k.edge frame inTol).held 0x0605 else k.edge frame inTol

/-- An edge moves the Tick unit and leaves the commands that wait: shifted ports, the record of a lock and stalled cores are none of it. -/
theorem State.tickEdge_clock (s : State) (frame inTol : Bool) (stalls : List Stall) :
    (s.tickEdge frame inTol stalls).clock = ((s.tick.edged frame inTol).fresh, s.pending) := by
  unfold State.tickEdge
  extract_lets was t d t1 t2 t3
  have hedge : t2.clock = (s.tick.edge frame inTol, s.pending) := by
    have hshift : t1.clock = t.clock := by simp [t1]
    have hnoted : t2.clock = t1.clock := by simp [t2]
    rw [hnoted, hshift]
    rfl
  have hslip : t3.clock = (s.tick.edged frame inTol, s.pending) := by
    simp only [t3, TickUnit.edged, was, State.tick_of_clock hedge]
    split
    · rw [State.enterHoldover_clock, State.tick_of_clock hedge, State.pending_of_clock hedge]
    · exact hedge
  have hstalled : (stalls.foldl (fun t c => t.coreStall c) t3).clock = (s.tick.edged frame inTol, s.pending) :=
    (clock_foldl State.coreStall_clock stalls t3).trans hslip
  rw [State.newTick_clock, State.tick_of_clock hstalled, State.pending_of_clock hstalled]

/-- What every edge does: the count, and the Ticks since the last TICK_FRAME (R142). -/
def TickUnit.counted (k : TickUnit) (frame inTol : Bool) : TickUnit :=
  { k with
    count := (k.count + 1) % 2 ^ 64, edges := true, atFrame := frame
    sinceFrm := if frame then some 0 else if inTol then k.sinceFrm.map (· + 1) else none }

section
variable {k : TickUnit} {frame inTol : Bool}

theorem TickUnit.edge_unlocked (h : k.lock = .unlocked) : k.edge frame inTol = { k.counted frame inTol with lock := .acquiring, frames := 0 } := by
  simp only [TickUnit.edge, h]
  rfl

theorem TickUnit.edge_locked (h : k.lock = .locked) : k.edge frame inTol = k.counted frame inTol := by
  simp only [TickUnit.edge, TickUnit.counted, h]

theorem TickUnit.edge_holdover (h : k.lock = .holdover) : k.edge frame inTol = k.counted frame inTol := by
  simp only [TickUnit.edge, TickUnit.counted, h]

/-- In Acquiring an edge out of tolerance restarts the frame count. -/
theorem TickUnit.edge_acquiring_bad (h : k.lock = .acquiring) : k.edge frame false =
    { k.counted frame false with
      count := if frame then (k.count + 1) % 2 ^ 64 / 65536 * 65536 else (k.count + 1) % 2 ^ 64, frames := 0, sinceFrm := none } := by
  cases frame <;> simp [-Nat.reducePow, TickUnit.edge, TickUnit.counted, h]

theorem TickUnit.edge_acquiring_plain (h : k.lock = .acquiring) : k.edge false true = k.counted false true := by
  simp [-Nat.reducePow, TickUnit.edge, TickUnit.counted, h]

/-- In Acquiring a TICK_FRAME rounds the count; the second full frame locks the unit, a frame cut short restarts the frame count. -/
theorem TickUnit.edge_acquiring_frame (h : k.lock = .acquiring) : k.edge true true =
    { k.counted true true with
      count := (k.count + 1) % 2 ^ 64 / 65536 * 65536
      lock := if k.sinceFrm = some 65535 ∧ 1 ≤ k.frames then .locked else .acquiring
      frames := if k.sinceFrm = some 65535 ∧ k.frames = 0 then 1 else 0 } := by
  by_cases hfull : k.sinceFrm = some 65535 <;> by_cases hframes : k.frames = 0 <;>
    simp [-Nat.reducePow, TickUnit.edge, TickUnit.counted, h, hfull, hframes, Nat.one_le_iff_ne_zero]

theorem TickUnit.edge_count (h : ¬(k.lock = .acquiring ∧ frame = true)) : (k.edge frame inTol).count = (k.count + 1) % 2 ^ 64 := by
  match hlock : k.lock, frame, inTol with
  | .unlocked, _, _ => rw [TickUnit.edge_unlocked hlock]; rfl
  | .locked, _, _ => rw [TickUnit.edge_locked hlock]; rfl
  | .holdover, _, _ => rw [TickUnit.edge_holdover hlock]; rfl
  | .acquiring, false, false => rw [TickUnit.edge_acquiring_bad hlock]; rfl
  | .acquiring, false, true => rw [TickUnit.edge_acquiring_plain hlock]; rfl
  | .acquiring, true, _ => exact absurd ⟨hlock, rfl⟩ h

theorem TickUnit.edge_count_rounded (h : k.lock = .acquiring) : (k.edge true inTol).count = (k.count + 1) % 2 ^ 64 / 65536 * 65536 := by
  cases inTol with
  | false => rw [TickUnit.edge_acquiring_bad h]; rfl
  | true => rw [TickUnit.edge_acquiring_frame h]

/-- The frame of a count is that of the count before it is taken modulo 2^64. -/
theorem mod_frame (n : Nat) : n % 2 ^ 64 % 65536 = n % 65536 := Nat.mod_mod_of_dvd n (by decide)

theorem TickUnit.edged_count : (k.edged frame inTol).count = (k.edge frame inTol).count := by
  unfold TickUnit.edged
  split <;> rfl

/-- Only a Locked unit slips. -/
theorem TickUnit.edged_unlocked (h : k.lock ≠ .locked) : k.edged frame inTol = k.edge frame inTol := if_neg fun hslip => h hslip.1

theorem TickUnit.edged_slip (h : k.lock = .locked) (hslip : (k.count + 1) % 65536 ≠ 0) :
    k.edged true inTol = (k.counted true inTol).held 0x0605 := by
  rw [TickUnit.edged, TickUnit.edge_locked h, if_pos ⟨h, rfl, by rw [TickUnit.counted, mod_frame]; exact hslip⟩]

theorem TickUnit.edged_locked (h : k.lock = .locked) (hframe : ¬(frame = true ∧ (k.count + 1) % 65536 ≠ 0)) :
    k.edged frame inTol = k.counted frame inTol := by
  have hcount : (k.counted frame inTol).count % 65536 = (k.count + 1) % 65536 := mod_frame _
  rw [TickUnit.edged, TickUnit.edge_locked h, hcount, if_neg fun hslip => hframe hslip.2]

end

/-! ### Vats on a new Tick -/

/-- No halt and no start of a vat is awaited. -/
def State.NoneDue (s : State) : Prop := ∀ p ∈ s.roles, p.2.haltAt = none ∧ p.2.started = none

theorem State.haltDue_none {s : State} (h : s.NoneDue) : s.haltDue = s := by
  have hnone : (s.roles.filter fun p => p.2.haltAt.any fun b => decide (b ≤ s.now)) = [] :=
    List.filter_eq_nil_iff.mpr fun p hp => by simp [(h p hp).1]
  rw [State.haltDue, hnone]
  rfl

theorem State.enterRunning_none {s : State} (h : s.NoneDue) : s.enterRunning = s := by
  have hnone : (s.roles.filter fun p => p.2.started.any fun x => decide (x ≤ s.now)) = [] :=
    List.filter_eq_nil_iff.mpr fun p hp => by simp [(h p hp).2]
  rw [State.enterRunning, hnone]
  rfl

theorem mem_mapSet {α : Type} [DecidableEq α] {d : α} {m : SMap α} {k : Nat} {v : α} {p : Nat × α} (h : p ∈ mapSet d m k v) :
    p = (k, v) ∨ p ∈ m := by
  unfold mapSet at h
  split at h
  · exact .inr (mem_del h)
  · exact mem_put h

/-- The entry of a map at a key is in the map, or the default. -/
theorem mapGet_mem {α : Type} (d : α) (m : SMap α) (k : Nat) : (k, mapGet d m k) ∈ m ∨ mapGet d m k = d := by
  induction m with
  | nil => exact .inr rfl
  | cons p m ih =>
    by_cases hk : p.1 = k
    · subst hk
      exact .inl (by simp [mapGet])
    · rw [mapGet, if_neg hk]
      exact ih.imp_left (List.mem_cons_of_mem _)

theorem mapFind_mem {α : Type} {m : SMap α} {k : Nat} {v : α} (h : mapFind m k = some v) : (k, v) ∈ m := by
  induction m with
  | nil => cases h
  | cons p m ih =>
    rw [mapFind] at h
    split at h
    · next hk =>
      cases h
      exact hk ▸ List.mem_cons_self
    · exact List.mem_cons_of_mem _ (ih h)

/-- A change of a role that starts and halts nothing keeps it so. -/
theorem State.NoneDue.onRole {s : State} (h : s.NoneDue) (v : Nat) {f : VatRole → VatRole}
    (hf : ∀ r, r.haltAt = none ∧ r.started = none → (f r).haltAt = none ∧ (f r).started = none) : (s.onRole v f).NoneDue := by
  intro p hp
  rcases mem_mapSet hp with rfl | hp
  · refine hf _ ?_
    rcases mapGet_mem VatRole.empty s.roles v with hmem | hempty
    · exact h _ hmem
    · rw [hempty]
      exact ⟨rfl, rfl⟩
  · exact h p hp

@[simp] theorem State.control_vats (s : State) (v : Vat) (msg node tick arg : Nat) (body : List Byte) :
    (s.control v msg node tick arg body).vats = s.vats := by
  obtain ⟨m, h⟩ := s.control_out v msg node tick arg body
  rw [h]

/-- MEMBER_READY that no longer waits is sent: no vat changes, no halt or start begins. -/
theorem State.readyDue_none {s : State} (h : s.NoneDue) : s.readyDue.vats = s.vats ∧ s.readyDue.NoneDue := by
  refine List.foldlRecOn (motive := fun t : State => t.vats = s.vats ∧ t.NoneDue) _ _ ⟨rfl, h⟩ fun t ht p _ => ?_
  obtain ⟨hvats, hnone⟩ := ht
  split
  · exact ⟨hvats, hnone⟩
  · next v _ =>
    split
    · obtain ⟨m, hm⟩ := t.control_out v 0x04 (t.lpkgNode v v.masterLpkg) t.now 1 []
      rw [hm]
      exact ⟨hvats, State.NoneDue.onRole (s := { t with out := t.out ++ [m] }) hnone p.1 fun r hr => hr⟩
    · exact ⟨hvats, hnone⟩

theorem State.settleCores_eq (s : State) : s.settleCores = { s with cores := s.settleCores.cores } := by
  unfold State.settleCores
  split <;> rfl

/-- An operation that leaves the vats leaves them however often it is done. -/
theorem foldl_vats {α : Type} {g : State → α → State} (h : ∀ t a, (g t a).vats = t.vats) (l : List α) (s : State) :
    (l.foldl g s).vats = s.vats :=
  List.foldlRecOn (motive := fun t : State => t.vats = s.vats) l g rfl fun t ht a _ => (h t a).trans ht

theorem State.cutAdmin_vats (s : State) (r : CmdRef) : (s.cutAdmin r).vats = s.vats := by
  unfold State.cutAdmin
  split
  · rfl
  · split <;> rfl

theorem State.setVault_vats (s : State) (k : Nat) (b : Bool) : (s.setVault k b).vats = s.vats := rfl

theorem State.onCplx_vats (s : State) (k : Nat) (f : Cplx → Cplx) : (s.onCplx k f).vats = s.vats := rfl

theorem State.splitFence_vats (s : State) (k : Nat) : (s.splitFence k).vats = s.vats := by
  have hseen : (s.keepSeen k).vats = s.vats := by
    unfold State.keepSeen
    split <;> rfl
  refine (foldl_vats State.cutAdmin_vats _ _).trans ?_
  rw [State.setVault_vats, State.onCplx_vats]
  refine (foldl_vats (fun t p => ?_) _ _).trans hseen
  rfl

theorem State.pathLost_vats (s : State) (k : Nat) : (s.pathLost k).vats = s.vats := by
  unfold State.pathLost
  split
  · exact s.splitFence_vats k
  · rfl

theorem State.classifyPaths_vats (s : State) : s.classifyPaths.vats = s.vats := by
  unfold State.classifyPaths
  split
  · rw [State.pathLost_vats, State.pathLost_vats]
  · rfl

theorem State.refreshCap_vats (s : State) : s.refreshCap.vats = s.vats := by
  unfold State.refreshCap
  dsimp only
  split
  · rfl
  · split <;> rfl

theorem State.countBeats_vats (s : State) : s.countBeats.vats = s.vats := rfl

theorem State.fillTick_vats (s : State) (k : Nat) : (s.fillTick k).vats = s.vats := by
  unfold State.fillTick
  dsimp only
  split
  · rfl
  · split <;> rfl

theorem State.sendMarkers_vats (s : State) : s.sendMarkers.vats = s.vats := by
  refine foldl_vats (fun t k => ?_) _ _
  extract_lets p t1 t2 n t3
  have hmarked : t2.vats = t.vats := t.fillTick_vats k
  have hechoed : t3.vats = t.vats := by
    dsimp only [t3]
    split <;> exact hmarked
  split
  · rfl
  · split <;> exact hechoed

/-- What falls due where no halt and no start is awaited changes no vat. -/
theorem State.due_vats {s : State} (h : s.NoneDue) : s.settleCores.haltDue.readyDue.enterRunning.classifyPaths.vats = s.vats := by
  have hsettled : s.settleCores.NoneDue := by
    rw [State.settleCores_eq]
    exact h
  obtain ⟨hready, hnone⟩ := State.readyDue_none hsettled
  rw [State.haltDue_none hsettled, State.enterRunning_none hnone, State.classifyPaths_vats, hready, State.settleCores_eq]

theorem State.countWaits_vats (s : State) : s.countWaits.vats = s.vats := rfl

theorem State.excuseTick_vats (s : State) : s.excuseTick.vats = s.vats := rfl

theorem State.classify_vats (s : State) : s.classify.vats = s.vats := rfl

/-- A new Tick on which no halt and no start is due leaves the vats. -/
theorem State.newTick_vats {s : State} (h : s.NoneDue) : s.newTick.vats = s.vats := by
  have hdue := State.due_vats (s := s.onTick TickUnit.fresh) h
  unfold State.newTick
  extract_lets t0 t1 t2
  have hcounted : t2.vats = s.vats := by
    dsimp only [t2]
    rw [State.refreshCap_vats, State.countBeats_vats, State.classify_vats, State.excuseTick_vats, State.countWaits_vats,
      State.onQos_vats]
    exact hdue
  split
  · exact t2.sendMarkers_vats.trans hcounted
  · exact hcounted

/-! ### Holdover (R143) -/

theorem State.mem_stepping {s : State} {v : Nat} {u : Vat} (hv : s.vat? v = some u) (hstep : u.step.isSome = true) : v ∈ s.stepping :=
  List.mem_map.mpr ⟨(v, u), List.mem_filter.mpr ⟨mapFind_mem hv, hstep⟩, rfl⟩

/-- A vat with a cause against the step it runs. -/
def Vat.withCause (u : Vat) (c : Cause) : Vat := { u with step := u.step.map fun r => { r with causes := r.causes ++ [c] } }

theorem State.vat?_failStep (s : State) (x v : Nat) (c : Cause) :
    (s.failStep x c).vat? v = if v = x then (s.vat? v).map (·.withCause c) else s.vat? v := by
  split
  · next h =>
    subst h
    exact State.vat?_onVat_same ..
  · next h => exact State.vat?_onVat_other _ _ h

/-- Every step in progress takes the cause with which the Tick unit fails them (R143, R148). -/
theorem State.failAll_cause {s : State} {v : Nat} {u : Vat} {r : StepRun} (hv : s.vat? v = some u) (hr : u.step = some r) (status src : Nat) :
    ∃ u' r', (s.failAll status src).vat? v = some u' ∧ u'.step = some r' ∧ ⟨status, s.now, s.source src, 0⟩ ∈ r'.causes := by
  have hruns : ∃ u' r', (s.failAll status src).vat? v = some u' ∧ u'.step = some r' := by
    refine List.foldlRecOn (motive := fun t : State => ∃ u' r', t.vat? v = some u' ∧ u'.step = some r') _ _ ⟨u, r, hv, hr⟩ ?_
    rintro t ⟨u', r', hu', hr'⟩ x _
    rw [State.vat?_failStep, hu']
    split
    · exact ⟨_, _, rfl, congrArg (Option.map _) hr'⟩
    · exact ⟨u', r', rfl, hr'⟩
  have hcause : ∀ u' r', (s.failAll status src).vat? v = some u' → u'.step = some r' → ⟨status, s.now, s.source src, 0⟩ ∈ r'.causes := by
    refine foldl_of_mem
      (P := fun t : State => ∀ u' r', t.vat? v = some u' → u'.step = some r' → ⟨status, s.now, s.source src, 0⟩ ∈ r'.causes)
      (State.mem_stepping hv (by simp [hr])) (fun t u' r' hu' hr' => ?_) (fun t x ht u' r' hu' hr' => ?_) s
    · rw [State.vat?_failStep, if_pos rfl] at hu'
      obtain ⟨w, _, rfl⟩ := Option.map_eq_some_iff.mp hu'
      obtain ⟨q, _, rfl⟩ := Option.map_eq_some_iff.mp hr'
      exact List.mem_append_right _ List.mem_cons_self
    · rw [State.vat?_failStep] at hu'
      split at hu'
      · obtain ⟨w, hw, rfl⟩ := Option.map_eq_some_iff.mp hu'
        obtain ⟨q, hq, rfl⟩ := Option.map_eq_some_iff.mp hr'
        exact List.mem_append_left _ (ht w q hw hq)
      · exact ht u' r' hu' hr'
  obtain ⟨u', r', hu', hr'⟩ := hruns
  exact ⟨u', r', hu', hr', hcause u' r' hu' hr'⟩

/-- The Tick unit is local source 0 (R144). -/
theorem State.source_tickUnit (s : State) : s.source 0x00 = s.links.node * 256 := Nat.add_zero _

/-- The package that loses its lock to a missing edge, with the Tick that its internal oscillator counts (R143). -/
def State.missedEdge (s : State) : State := (s.enterHoldover 0x0602).onTick fun k => { k with count := (k.count + 1) % 2 ^ 64 }

theorem State.missedEdge_clock (s : State) :
    s.missedEdge.clock = ({ s.tick.held 0x0602 with count := (s.tick.count + 1) % 2 ^ 64 }, s.pending) := by
  have hheld := s.enterHoldover_clock 0x0602
  rw [State.missedEdge, State.clock, State.onTick_tick, State.onTick_pending, State.tick_of_clock hheld, State.pending_of_clock hheld]
  rfl

/-- Holdover fails the steps in progress and changes nothing else of the vats. -/
theorem State.missedEdge_vats (s : State) : s.missedEdge.vats = ((s.onTick fun k => k.held 0x0602).failAll 0x0602 0x00).vats := by
  rw [State.missedEdge, State.onTick_vats, State.enterHoldover, State.note_vats]
  rfl

theorem State.missedEdge_noneDue {s : State} (h : s.NoneDue) : s.missedEdge.NoneDue := by
  have hroles : s.missedEdge.roles = s.roles := by
    rw [State.missedEdge, State.onTick_roles, State.enterHoldover, State.note_roles, State.failAll_eq]
    rfl
  rwa [State.NoneDue, hroles]

theorem State.missedEdge_fuses (s : State) : s.missedEdge.fuses = s.fuses := by
  rw [State.missedEdge, State.onTick_fuses, State.enterHoldover_fuses]

/-- TICK_EDGE_MISSING in Locked (R141, R143). -/
theorem exec_tickEdgeMissing_locked {s : State} (h : s.tick.lock = .locked) : exec .tickEdgeMissing s = .next s.missedEdge.newTick := by
  change Host.Outcome.next s.tickMissing = _
  rw [State.tickMissing, h]
  rfl

/-- In Acquiring a missing edge restarts the frame count and is no Tick. -/
theorem exec_tickEdgeMissing_acquiring {s : State} (h : s.tick.lock = .acquiring) :
    exec .tickEdgeMissing s = .next (s.onTick fun k => { k with frames := 0, sinceFrm := none, atFrame := false, edges := false }) := by
  change Host.Outcome.next s.tickMissing = _
  rw [State.tickMissing, h]

/-- HOLDOVER_EXIT (R141): edges are present and no vat runs a step. -/
theorem exec_holdoverExit {s : State} (hlock : s.tick.lock = .holdover) (hedges : s.tick.edges = true) (hstill : s.stepping = []) :
    exec .holdoverExit s = .next (s.onTick fun k => { k with lock := .acquiring, frames := 0, sinceFrm := none, slip := false }) :=
  congrArg Host.Outcome.next (if_pos ⟨hlock, hedges, hstill⟩)

theorem State.stepping_none {s : State} (h : ∀ p ∈ s.vats, p.2.step = none) : s.stepping = [] := by
  have hnone : (s.vats.filter fun p => p.2.step.isSome) = [] := List.filter_eq_nil_iff.mpr fun p hp => by simp [h p hp]
  rw [State.stepping, hnone]
  rfl

end Sys2Proof.Machine
end

section
/-! The Tick Count load and droop (R142, R147, R148), then the statement on the Tick unit. -/

namespace Sys2Proof.Machine
open Sys2Proof

/-! ### The Tick Count load (R142) -/

/-- The host reaches LOAD_COMMIT of a Ready package that is not in D3hot. -/
theorem exec_loadCommit {s : State} (value : Nat) (hready : s.boot.state = .ready) (hup : (s.func 0).d3 = false) :
    exec (.loadCommit value) s = .next (s.regLoadCommit value) := by
  have hopen : s.barOpen 0 = true := by rw [State.barOpen, State.served, State.barUp_of_d3 hup, decide_eq_true hready, Bool.and_true]
  exact congrArg Host.Outcome.next (if_pos hopen)

theorem State.anyBound_iff (s : State) : s.anyBound = true ↔ ∃ p ∈ s.vats, p.2.state ≠ .defined ∧ p.2.state ≠ .reserved := by
  simp [State.anyBound]

theorem State.regLoadCommit_zero {s : State} {value : Nat} (h : value % 2 = 0) : s.regLoadCommit value = s := by
  simp [State.regLoadCommit, bit, h]

theorem State.regLoadCommit_one {s : State} {value : Nat} (h : value % 2 = 1) : s.regLoadCommit value =
    if s.anyBound then s.onTick fun k => { k with refused := true } else s.onTick fun k => { k with pending := some k.loadShad } := by
  simp [State.regLoadCommit, bit, h]

/-- Ports that leave Align change the links alone. -/
theorem State.leaveAligns_eq (ks : List Nat) (s : State) : ∃ l, ks.foldl (fun t k => t.leaveAlign k) s = { s with links := l } :=
  List.foldlRecOn (motive := fun t : State => ∃ l, t = { s with links := l }) ks _ ⟨s.links, rfl⟩ fun t ht k _ => by
    obtain ⟨l, rfl⟩ := ht
    exact ⟨_, rfl⟩

/-- At a TICK_FRAME the committed load becomes the count, and the ports that wait for an aligned count may leave Align (R142, R183). -/
theorem exec_tickCountLoadApply {s : State} {x : Nat} (hframe : s.tick.atFrame = true) (hlock : s.tick.lock ≠ .unlocked)
    (hload : s.tick.pending = some x) :
    exec .tickCountLoadApply s = .next ((List.range 8).foldl (fun t k => t.leaveAlign k) (s.setCount x)) := by
  change Host.Outcome.next (if s.tick.atFrame ∧ s.tick.lock ≠ .unlocked then s.applyLoad else s) = _
  rw [if_pos ⟨hframe, hlock⟩, State.applyLoad, hload]

/-! ### Droop (R147, R148) -/

theorem exec_droopStretch (s : State) (cycle : Nat) : exec (.droopStretch cycle) s = .next (s.stretch cycle) := rfl

section
variable {s : State} {cycle v : Nat} {u : Vat} {m : Mould}

theorem State.stepping_one (hvats : s.vats = [(v, u)]) (hstep : u.step.isSome = true) : s.stepping = [v] := by
  simp [State.stepping, hvats, hstep]

/-- The one vat that runs a step sets the stretches a Tick admits. -/
theorem State.slack_one (hvats : s.vats = [(v, u)]) (hstep : u.step.isSome = true) (hm : u.mould = some m) :
    s.slack = some (mSlack m s.tick.gear) := by
  have hv : s.vat? v = some u := by simp [State.vat?, hvats, mapFind]
  simp [State.slack, State.stepping_one hvats hstep, hv, hm, minNat?]

theorem State.slack_none (h : ∀ p ∈ s.vats, p.2.step = none) : s.slack = none := by
  rw [State.slack, State.stepping_none h]
  rfl

/-- A usable cycle is stretched while the Tick has stretches left. -/
theorem State.stretch_counts {k : Nat} (hslack : s.slack = some k) (huse : cycle < s.tick.gear - k) (hleft : s.tick.stretches < k) :
    s.stretch cycle = s.onTick fun u => { u with
      stretches := u.stretches + 1, nStretch := sat32 u.nStretch 1, maxStr := max u.maxStr (u.stretches + 1) } := by
  rw [State.stretch, hslack]
  dsimp only
  rw [if_neg (by omega), if_pos hleft]

/-- One stretch more than the Tick admits is an overrun. -/
theorem State.stretch_overruns {k : Nat} (hslack : s.slack = some k) (huse : cycle < s.tick.gear - k) (hnone : k ≤ s.tick.stretches) :
    s.stretch cycle = s.overrun := by
  rw [State.stretch, hslack]
  dsimp only
  rw [if_neg (by omega), if_neg (by omega)]

/-- The first overrun of a Tick, after a step without one: it is counted, and the step in progress takes its cause (R148). -/
theorem State.overrun_one {r : StepRun} (hvats : s.vats = [(v, u)]) (hr : u.step = some r) (hfirst : s.tick.overrun = false)
    (hlast : s.tick.lastOver = 0) :
    s.overrun = { s with
      tick := { s.tick with overrun := true, nOverrun := sat32 s.tick.nOverrun 1 }
      vats := [(v, { u with step := some { r with
        causes := r.causes ++ [⟨0x0601, s.tick.count, s.links.node * 256, 0⟩], overrun := true } })] } := by
  have hfailed : (s.onTick fun k => { k with overrun := true, nOverrun := sat32 k.nOverrun 1 }).failAll 0x0601 0x00 = { s with
      tick := { s.tick with overrun := true, nOverrun := sat32 s.tick.nOverrun 1 }
      vats := [(v, u.withCause ⟨0x0601, s.tick.count, s.source 0x00, 0⟩)] } := by
    have hone : (s.onTick fun k => { k with overrun := true, nOverrun := sat32 k.nOverrun 1 }).stepping = [v] :=
      State.stepping_one hvats (by simp [hr])
    rw [State.failAll, hone, List.foldl_cons, List.foldl_nil, State.failStep, State.onVat, State.onVats, State.onTick_vats, hvats, mapModify,
      List.map_cons, List.map_nil, if_pos rfl]
    rfl
  have hmarked : State.stepping { s with
      tick := { s.tick with overrun := true, nOverrun := sat32 s.tick.nOverrun 1 }
      vats := [(v, u.withCause ⟨0x0601, s.tick.count, s.source 0x00, 0⟩)] } = [v] :=
    State.stepping_one rfl (by simp [Vat.withCause, hr])
  rw [State.overrun, hfirst, hlast, hfailed]
  dsimp only
  rw [hmarked]
  simp [State.onVat, State.onVats, mapModify, Vat.withCause, hr, State.source_tickUnit]

end

/-! ### The statement -/

/-- Settles O1: an edge is the Tick unit's own transition, which a new Tick leaves but for the stretches; Holdover fails every step in
progress, and a load or a stretch changes what its row names. -/
theorem tickEdgesLockTheClock : Obligations.TickEdgesLockTheClock := by
  unfold Obligations.TickEdgesLockTheClock
  refine ⟨?edge, ⟨?missing, fun s h => exec_tickEdgeMissing_acquiring h, fun s hlock hedges hstill =>
    exec_holdoverExit hlock hedges (State.stepping_none hstill)⟩, ⟨?commit, ?refused, ?zero, ?apply⟩, ?stretch, ?overrun, ?idle⟩
  case edge =>
    intro frame inTol stalls s
    have hclock := s.tickEdge_clock frame inTol stalls
    have htick : (s.tickEdge frame inTol stalls).tick = (s.tick.edged frame inTol).fresh := State.tick_of_clock hclock
    refine ⟨_, rfl, ?_⟩
    rw [htick]
    refine ⟨fun h => TickUnit.edged_count.trans (TickUnit.edge_count h), ?_, ?_, ?_, ?_, ?_, ?_, State.pending_of_clock hclock,
      s.tickEdge_fuses frame inTol stalls⟩
    · rintro hlock rfl
      exact TickUnit.edged_count.trans (TickUnit.edge_count_rounded hlock)
    · intro hlock
      rw [TickUnit.edged_unlocked (by simp [hlock]), TickUnit.edge_unlocked hlock]
      rfl
    · rintro hlock rfl rfl hfull hframes
      rw [TickUnit.edged_unlocked (by simp [hlock]), TickUnit.edge_acquiring_frame hlock]
      exact if_pos ⟨hfull, hframes⟩
    · rintro hlock rfl
      rw [TickUnit.edged_unlocked (by simp [hlock]), TickUnit.edge_acquiring_bad hlock]
      exact ⟨hlock, rfl⟩
    · rintro hlock rfl hslip
      rw [TickUnit.edged_slip hlock hslip]
      exact ⟨rfl, rfl, rfl⟩
    · intro hlock hframe
      rw [TickUnit.edged_locked hlock hframe]
      exact ⟨hlock, rfl⟩
  case missing =>
    intro s hlock
    have hclock : s.missedEdge.newTick.clock = _ := State.newTick_clock _
    rw [State.tick_of_clock s.missedEdge_clock, State.pending_of_clock s.missedEdge_clock] at hclock
    refine ⟨_, exec_tickEdgeMissing_locked hlock, ?_⟩
    rw [State.tick_of_clock hclock]
    refine ⟨rfl, rfl, rfl, s.tick.held_nLoss 0x0602, State.pending_of_clock hclock, ?_, fun hnone v u r hv hr => ?_⟩
    · rw [State.newTick_fuses, State.missedEdge_fuses]
    · obtain ⟨u', r', hu', hr', hmem⟩ := State.failAll_cause (s := s.onTick fun k => k.held 0x0602) hv hr 0x0602 0x00
      rw [State.source_tickUnit] at hmem
      refine ⟨u', r', ?_, hr', hmem⟩
      rwa [State.vat?_congr ((State.newTick_vats (State.missedEdge_noneDue hnone)).trans s.missedEdge_vats)]
  case commit =>
    intro s value hready hup hvalue hunbound
    have hnone : ¬ s.anyBound = true := by
      rw [State.anyBound_iff]
      rintro ⟨p, hp, hdefined, hreserved⟩
      exact (hunbound p hp).elim hdefined hreserved
    rw [exec_loadCommit value hready hup, State.regLoadCommit_one hvalue, if_neg hnone]
    rfl
  case refused =>
    intro s value hready hup hvalue hbound
    rw [exec_loadCommit value hready hup, State.regLoadCommit_one hvalue, if_pos (s.anyBound_iff.mpr hbound)]
    rfl
  case zero =>
    intro s value hvalue
    change Host.Outcome.next (if s.barOpen 0 then s.regLoadCommit value else s) = _
    rw [State.regLoadCommit_zero hvalue, ite_self]
  case apply =>
    intro s x hframe hlock hload
    refine ⟨_, exec_tickCountLoadApply hframe hlock hload, ?_⟩
    obtain ⟨l, h⟩ := State.leaveAligns_eq (List.range 8) (s.setCount x)
    rw [h]
    exact ⟨rfl, rfl⟩
  case stretch =>
    intro s cycle v u m hvats hstep hm huse hleft
    rw [exec_droopStretch, State.stretch_counts (State.slack_one hvats hstep hm) huse hleft, ← sat32_one]
    rfl
  case overrun =>
    intro s cycle v u r m hvats hr hm huse hnone hfirst hlast
    rw [exec_droopStretch, State.stretch_overruns (State.slack_one hvats (by simp [hr]) hm) huse hnone, State.overrun_one hvats hr hfirst hlast,
      sat32_one]
  case idle =>
    intro s cycle h
    rw [exec_droopStretch, State.stretch, State.slack_none h]

end Sys2Proof.Machine
end

section
/-! Gears (R149, R150, R423, R427): the supply a gear asks for, the gear group of a package with one Running vat, and what arming, its
acknowledgements and the change Tick do. -/

namespace Sys2Proof.Machine
open Sys2Proof

/-! ### The supply (R149, R423) -/

/-- The core setpoint: the higher of the gear in force and the gear armed. -/
def State.coreMv (s : State) : Nat := max (s.setpoint s.tick.gear) (if s.tick.armed = 0 then 0 else s.setpoint s.tick.armed)

/-- The supply follows the gears at the setpoints of the four regulators, and nothing else changes. -/
theorem State.supply_eq (s : State) :
    s.supply = { s with power := { s.power with setpoints := [(0, s.coreMv), (1, s.coreMv), (2, s.coreMv), (3, s.coreMv)] } } := rfl

theorem State.mem_supply (s : State) {k : Nat} (hk : k < 4) : (k, s.coreMv) ∈ s.supply.power.setpoints := by
  rw [State.supply_eq]
  have hreg : k = 0 ∨ k = 1 ∨ k = 2 ∨ k = 3 := by omega
  rcases hreg with rfl | rfl | rfl | rfl <;> simp only [List.mem_cons, true_or, or_true]

theorem State.coreMv_unarmed {s : State} (h : s.tick.armed = 0) : s.coreMv = s.setpoint s.tick.gear := by simp [State.coreMv, h]

/-- With no change Tick chosen an arm may be taken back or replaced (R149). -/
theorem State.gearCommitted_none {s : State} (h : s.tick.change = none) : s.gearCommitted = false := by simp [State.gearCommitted, h]

theorem gearList_contains {g : Nat} (h : g ∈ [72, 64, 60, 56, 48, 40, 32]) : gearList.contains g = true := List.contains_iff_mem.mpr h

/-! ### Bounds of the change Tick -/

theorem foldl_max_eq (l : List Nat) (a : Nat) : l.foldl (fun a b => if a < b then b else a) a = l.foldl max a := by
  congr 1
  funext a b
  split <;> omega

theorem le_maxNat_cons (a : Nat) (l : List Nat) : a ≤ maxNat (a :: l) := by
  have hbase : ∀ (l : List Nat) (b : Nat), b ≤ l.foldl max b := fun l => by
    induction l with
    | nil => exact Nat.le_refl
    | cons c l ih => exact fun b => Nat.le_trans (Nat.le_max_left b c) (ih _)
  rw [maxNat, foldl_max_eq, List.foldl_cons, Nat.zero_max]
  exact hbase l a

theorem le_mul_ceilDiv (n : Nat) {k : Nat} (hk : 0 < k) : n ≤ k * ceilDiv n k := by
  have hdiv := Nat.div_add_mod (n + k - 1) k
  have hmod := Nat.mod_lt (n + k - 1) hk
  rw [ceilDiv]
  omega

theorem State.groupPeriod_pos (s : State) : 0 < s.groupPeriod :=
  List.foldlRecOn (motive := (0 < ·)) s.gearVats _ Nat.one_pos fun _ hn _ _ => Nat.lcm_pos hn (by omega)

/-- The change Tick is not in the past. -/
theorem State.now_le_changeTick (s : State) (g : Nat) : s.tick.count ≤ s.changeTick g :=
  Nat.le_trans (le_maxNat_cons _ _) (le_mul_ceilDiv _ s.groupPeriod_pos)

theorem Vat.bound_of_running {u : Vat} (hrole : u.role = .member) (hstate : u.state = .running) : u.bound = true := by
  simp [Vat.bound, Vat.isMember, hrole, hstate]

/-! ### A package with one Running vat -/

section
variable {s : State} {v : Nat} {u : Vat}

/-- The one vat of the package is Running and the package is a member of it. -/
structure State.RunsOne (s : State) (v : Nat) (u : Vat) : Prop where
  vats    : s.vats = [(v, u)]
  member  : u.role = .member
  running : u.state = .running

theorem State.RunsOne.gearVats (h : s.RunsOne v u) : s.gearVats = [u] := by
  simp [State.gearVats, h.vats, Vat.bound_of_running h.member h.running]

theorem State.RunsOne.gearVat (h : s.RunsOne v u) : s.gearVat = some u := by rw [State.gearVat, h.gearVats, List.head?_cons]

theorem State.RunsOne.isGearMaster (h : s.RunsOne v u) : s.isGearMaster = decide (u.lpkg = u.masterLpkg) := by
  simp [State.isGearMaster, h.gearVat, Vat.isMaster, Vat.isMember, h.member]

theorem State.RunsOne.headsAll (h : s.RunsOne v u) : s.headsAll = decide (u.lpkg = u.headLpkg) := by
  simp [State.headsAll, h.gearVats, Vat.isHead, Vat.isMember, h.member, h.running]

theorem State.RunsOne.vat? (h : s.RunsOne v u) : s.vat? v = some u := by simp [State.vat?, h.vats, mapFind]

/-- A state with the same vats is the time master of its group no more than this one is. -/
theorem State.RunsOne.notMaster (h : s.RunsOne v u) (hmaster : u.lpkg ≠ u.masterLpkg) {t : State} (ht : t.vats = s.vats) :
    ¬ t.isGearMaster = true := by
  have hone : t.RunsOne v u := ⟨ht.trans h.vats, h.member, h.running⟩
  simp [hone.isGearMaster, hmaster]

theorem State.RunsOne.changeDue (h : s.RunsOne v u) (harmed : s.tick.armed ≠ 0) (hchange : s.tick.change = some s.tick.count) :
    s.changeDue = true := by
  simp [State.changeDue, h.gearVat, harmed, hchange, State.now]

end

/-! ### Arming (R149) -/

/-- GEAR_ARM from the time master of a Running vat arms the gear. -/
theorem exec_gearArm {s : State} {vat gear : Nat} {u : Vat} (seq : Nat) (hgear : gear ∈ [72, 64, 60, 56, 48, 40, 32]) (hu : s.vat? vat = some u)
    (hrole : u.role = .member) (hstate : u.state = .running) (hchange : s.tick.change = none) :
    exec (.gearArm (.good vat) gear seq) s = .next (s.onTick fun k => { k with
      armed := 0, change := none, locking := some (gear, seq, s.now), armVat := vat, lockLost := false }).supply := by
  have hval : (Headed.good vat).val = vat := rfl
  change Host.Outcome.next _ = _
  rw [hval, gearList_contains hgear, hu, Option.any_some, Vat.bound_of_running hrole hstate]
  simp [Headed.good, Headed.ok, MsgHdr.good, MsgHdr.ok, State.armGear, State.gearCommitted_none hchange]

/-- The package with a gear armed: its supply at the setpoint, its four regulators there (R149). -/
def State.gearReady (s : State) (g : Nat) : State :=
  (s.onTick fun k => { k with armed := g, locking := none }).supply.onPins fun p => { p with atSet := [true, true, true, true] }

/-- GEAR_PLL_LOCKED in time: the gear is armed, and the time master of the vat that armed it is told (R149). -/
theorem exec_gearPllLocked {s : State} {gear seq x v : Nat} {u : Vat} (hone : s.RunsOne v u) (hlock : s.tick.locking = some (gear, seq, x))
    (hx : s.tick.count ≤ x + 250) (harm : s.tick.armVat = v) :
    exec .gearPllLocked s = .next ((s.gearReady gear).control u 0x0B (s.lpkgNode u u.masterLpkg) s.now gear (leBytes 4 seq)) := by
  have htime : ¬ x + 250 < s.now := Nat.not_lt.mpr hx
  have hgroup : (s.gearReady gear).gearVat = some u := hone.gearVat
  have hvat : (s.gearReady gear).vat? s.tick.armVat = some u := harm ▸ hone.vat?
  change Host.Outcome.next (State.pllLocked s) = _
  rw [State.pllLocked, hlock]
  change Host.Outcome.next (if x + 250 < s.now then s else match (s.gearReady gear).gearVat with
    | none => _
    | some _ => match (s.gearReady gear).vat? s.tick.armVat with
      | some _ => _
      | none => _) = _
  rw [if_neg htime, hgroup, hvat]
  rfl

/-- GEAR_ARM_FAIL past the limit gives the arm up, records it and returns the supply (R149). -/
theorem exec_gearArmFail {s : State} {gear seq x : Nat} (hlock : s.tick.locking = some (gear, seq, x)) (hx : x + 250 < s.tick.count) :
    exec .gearArmFail s = .next ((s.onTick fun k => { k with locking := none }).note 0x00 "GEAR_ARM_FAIL" gear).supply := by
  change execGearArmFail s = _
  rw [execGearArmFail, hlock]
  exact congrArg _ (if_pos hx)

/-! ### Requests (R427) -/

/-- Control messages to a list of nodes only add messages. -/
theorem State.controls_out (s : State) (v : Vat) (msg tick arg : Nat) (body : List Byte) (ns : List Nat) :
    ∃ ms, ns.foldl (fun t n => t.control v msg n tick arg body) s = { s with out := s.out ++ ms } := by
  induction ns generalizing s with
  | nil => exact ⟨[], by simp⟩
  | cons n ns ih =>
    obtain ⟨m, hm⟩ := s.control_out v msg n tick arg body
    obtain ⟨ms, hms⟩ := ih { s with out := s.out ++ [m] }
    exact ⟨m :: ms, by rw [List.foldl_cons, hm, hms]; simp⟩

/-- What a decision on the gear leaves of a state whose change Tick is not chosen: the requests, the Tick unit, the vats, the fuse bank. -/
structure State.Decided (s t : State) : Prop where
  reqs  : t.gears.reqs = s.gears.reqs
  tick  : t.tick = s.tick
  vats  : t.vats = s.vats
  fuses : t.fuses = s.fuses

theorem State.decideGear_decided {s : State} (hchange : s.tick.change = none) : s.Decided s.decideGear := by
  have hsame : s.Decided s := ⟨rfl, rfl, rfl, rfl⟩
  unfold State.decideGear
  rw [State.gearCommitted_none hchange]
  dsimp only
  split
  · contradiction
  split
  case h_2 => exact hsame
  next g v _ _ =>
    generalize (if s.gears.arming then s.gears.gear else s.tick.gear) = cur
    split
    · exact hsame
    split
    · refine ⟨rfl, ?_, rfl, rfl⟩
      rw [State.onTick_tick, State.onGears_tick, ← hchange]
    split
    · obtain ⟨es, qs, h⟩ := s.note_frame 0 "GEAR_NO_VARIANT" 0x0604
      rw [h]
      exact ⟨rfl, rfl, rfl, rfl⟩
    · obtain ⟨ms, h⟩ := (s.onGears fun m => { m with
        arming := true, change := none, gear := g, seq := s.gears.seq + 1, acks := [] }).controls_out v 0x0A s.now g
          (leBytes 4 (s.gears.seq + 1)) s.gearNodes
      rw [h]
      exact ⟨rfl, rfl, rfl, rfl⟩

/-- The package with the request of a node recorded. -/
def State.withReq (s : State) (node arg : Nat) : State := s.onGears fun m => { m with reqs := mapPut m.reqs node (arg % 1024) }

/-- Fixed requests that name different gears are recorded as a conflict. -/
def State.fixedNoted (s : State) (node : Nat) : State :=
  if fixedDiffer (s.gears.reqs.map (·.2)) then
    (s.note 0x00 "FIXED_CONFLICT" node).onPower fun p => if p.active.fixed then { p with conflict := true } else p
  else s

theorem State.fixedNoted_decided (s : State) (node : Nat) : s.Decided (s.fixedNoted node) := by
  unfold State.fixedNoted
  split
  · obtain ⟨es, qs, h⟩ := s.note_frame 0x00 "FIXED_CONFLICT" node
    rw [h]
    exact ⟨rfl, rfl, rfl, rfl⟩
  · exact ⟨rfl, rfl, rfl, rfl⟩

/-- GEAR_REQ of a node of the group, for a gear each vat has a variant of: the request is recorded, then the group decides (R427). -/
theorem exec_gearReq {s : State} {node arg v : Nat} {u : Vat} (hone : s.RunsOne v u) (hmaster : u.lpkg = u.masterLpkg) (hnode : node ∈ s.gearNodes)
    (hkeep : arg / 1024 % 2 = 0) (hgear : arg % 256 ∈ [72, 64, 60, 56, 48, 40, 32]) (hgroup : s.groupHas (arg % 256) = true) :
    exec (.gearReq (.good node) arg) s = .next ((s.withReq node arg).fixedNoted node).decideGear := by
  have hstands : bit arg 10 = false := by simp [bit, hkeep]
  change Host.Outcome.next (State.gearReq s node arg) = _
  rw [State.gearReq, if_neg (by simp [hone.isGearMaster, hmaster, hnode]), hstands, gearList_contains hgear, hgroup]
  rfl

/-! ### Acknowledgements (R149) -/

/-- The package with the acknowledgement of a node taken. -/
def State.withAck (s : State) (node : Nat) : State := s.onGears fun m => { m with acks := (m.acks ++ [node]).eraseDups }

theorem State.mem_withAck (s : State) {node n : Nat} : n ∈ (s.withAck node).gears.acks ↔ n = node ∨ n ∈ s.gears.acks := by
  simp [State.withAck, or_comm]

/-- GEAR_ACK of the change under way: taken, and with the last one at a package that heads its vats T is chosen (R149). -/
theorem exec_gearAck {s : State} {node gear seq v : Nat} {u : Vat} (hone : s.RunsOne v u) (hmaster : u.lpkg = u.masterLpkg)
    (harming : s.gears.arming = true) (hchange : s.gears.change = none) (hgear : gear = s.gears.gear) (hseq : seq = s.gears.seq) :
    exec (.gearAck (.good node) gear seq) s = .next
      (if !(s.gearNodes.all fun n => (s.withAck node).gears.acks.contains n) || !s.headsAll then s.withAck node
      else ((s.withAck node).onGears fun m => { m with change := some (s.changeTick gear) }).onTick fun k => { k with
        change := some (s.changeTick gear) }) := by
  change Host.Outcome.next (State.gearAck s node gear seq) = _
  rw [State.gearAck, if_neg (by simp [hone.isGearMaster, hmaster, harming, hchange, hgear, hseq])]
  rfl

/-! ### The change Tick (R149, R150) -/

/-- At the change Tick a package that is not the acting time master switches its clocks (R149). -/
theorem exec_gearChangeTick_switch {s : State} {v : Nat} {u : Vat} (hone : s.RunsOne v u) (hmaster : u.lpkg ≠ u.masterLpkg)
    (harmed : s.tick.armed ≠ 0) (hchange : s.tick.change = some s.tick.count) (hlock : s.tick.lockLost = false) :
    exec .gearChangeTick s = .next ((s.switchGear s.tick.armed).onTick fun k => { k with prev := some (s.now, s.tick.gear) }) := by
  change Host.Outcome.next (if s.changeDue then s.gearChange else s) = _
  rw [if_pos (hone.changeDue harmed hchange), State.gearChange, hlock]
  exact congrArg _ (if_neg (hone.notMaster hmaster rfl))

/-- One that has lost its lock keeps the old gear (R150). -/
theorem exec_gearChangeTick_lost {s : State} {v : Nat} {u : Vat} (hone : s.RunsOne v u) (hmaster : u.lpkg ≠ u.masterLpkg)
    (harmed : s.tick.armed ≠ 0) (hchange : s.tick.change = some s.tick.count) (hlock : s.tick.lockLost = true) :
    exec .gearChangeTick s = .next (s.onTick fun k => { k with
      armed := 0, change := none, lockLost := false, lostAt := some s.now }).supply := by
  change Host.Outcome.next (if s.changeDue then s.gearChange else s) = _
  rw [if_pos (hone.changeDue harmed hchange), State.gearChange, hlock]
  exact congrArg _ (if_neg (hone.notMaster hmaster rfl))

/-- REST_REQ of a node at the head is the fraction it asks for from now on (R426). -/
theorem exec_restReq {s : State} {vat f : Nat} {u : Vat} (node : Nat) (hu : s.vat? vat = some u) (hrole : u.role = .member)
    (hhead : u.lpkg = u.headLpkg) (hf : f < 64) :
    exec (.restReq (.good vat) node f) s = .next (s.onRole vat fun r => { r with restReq := mapSet 0 r.restReq node f }) := by
  have hdue : (s.vat? vat).any Vat.isHead = true ∧ f < 64 := by simp [hu, Vat.isHead, Vat.isMember, hrole, hhead, hf]
  exact congrArg Host.Outcome.next (if_pos hdue)

/-! ### The statement -/

/-- Settles O2: each row is one operation of the Tick unit, the supply and the gear group, which the group of one Running vat decides. -/
theorem gearsChangeTogether : Obligations.GearsChangeTogether := by
  unfold Obligations.GearsChangeTogether
  refine ⟨⟨?arm, ?locked, ?fail, fun s harmed => congrArg _ (if_pos harmed)⟩, ?request, ?ackKept, ?ackLast, ?switch, ?lost, ?rest⟩
  case arm =>
    intro s vat gear seq u hgear hu hrole hstate hchange
    refine ⟨_, exec_gearArm seq hgear hu hrole hstate hchange, ?_, rfl, fun k hk => ?_⟩
    · rw [State.supply_eq, ← hchange]
      rfl
    · have hmem := State.mem_supply (s.onTick fun k => { k with
        armed := 0, change := none, locking := some (gear, seq, s.now), armVat := vat, lockLost := false }) hk
      rwa [State.coreMv_unarmed rfl] at hmem
  case locked =>
    intro s gear seq x v u hlock hx hvats hrole hstate harm hopen
    rw [exec_gearPllLocked ⟨hvats, hrole, hstate⟩ hlock hx harm, State.control_eq (s.gearReady gear) u _ _ _ _ _ hopen]
    exact ⟨_, rfl, rfl, rfl, fun k hk => State.mem_supply (s.onTick fun k => { k with armed := gear, locking := none }) hk,
      ⟨_, rfl, rfl, rfl, rfl⟩, rfl, rfl, rfl⟩
  case fail =>
    intro s gear seq x hlock hx
    obtain ⟨es, qs, hnote⟩ := (s.onTick fun k => { k with locking := none }).note_frame 0x00 "GEAR_ARM_FAIL" gear
    have hmem := (s.onTick fun k => { k with locking := none }).note_mem 0x00 "GEAR_ARM_FAIL" gear
    refine ⟨_, exec_gearArmFail hlock hx, ?_, ⟨_, hmem, rfl, rfl, rfl⟩, ?_, ?_⟩ <;> rw [hnote] <;> rfl
  case request =>
    intro s node arg v u hvats hrole hstate hmaster hnode hkeep hgear hgroup hchange
    obtain ⟨hreqs, htick, hvats', hfuses⟩ := (s.withReq node arg).fixedNoted_decided node
    obtain ⟨hreqs', htick', hvats'', hfuses'⟩ :=
      State.decideGear_decided (s := (s.withReq node arg).fixedNoted node) (by rw [htick]; exact hchange)
    refine ⟨_, exec_gearReq ⟨hvats, hrole, hstate⟩ hmaster hnode hkeep hgear hgroup, ?_, fun n hn => ?_, htick'.trans htick,
      hvats''.trans hvats', hfuses'.trans hfuses⟩
    · rw [hreqs', hreqs]
      exact mapGet_put_same ..
    · rw [hreqs', hreqs]
      exact mapGet_put_other _ _ _ hn
  case ackKept =>
    intro s node gear seq v u hvats hrole hstate hmaster hhead harming hchange hgear hseq
    have hone : s.RunsOne v u := ⟨hvats, hrole, hstate⟩
    refine ⟨_, exec_gearAck hone hmaster harming hchange hgear hseq, ?_⟩
    rw [if_pos (by simp [hone.headsAll, hhead])]
    exact ⟨s.mem_withAck.mpr (.inl rfl), hchange, rfl⟩
  case ackLast =>
    intro s node gear seq v u hvats hrole hstate hmaster hhead harming hchange hgear hseq hall
    have hone : s.RunsOne v u := ⟨hvats, hrole, hstate⟩
    refine ⟨_, s.changeTick gear, exec_gearAck hone hmaster harming hchange hgear hseq, s.now_le_changeTick gear, ?_⟩
    have hacked : (s.gearNodes.all fun n => (s.withAck node).gears.acks.contains n) = true :=
      List.all_eq_true.mpr fun n hn => List.contains_iff_mem.mpr (s.mem_withAck.mpr (hall n hn))
    rw [hacked, hone.headsAll, decide_eq_true hhead, if_neg (by decide)]
    exact ⟨rfl, rfl, s.mem_withAck.mpr (.inl rfl), rfl⟩
  case switch =>
    intro s v u hvats hrole hstate hmaster harmed hchange hlock
    exact ⟨_, exec_gearChangeTick_switch ⟨hvats, hrole, hstate⟩ hmaster harmed hchange hlock, rfl, rfl, rfl, rfl, rfl, rfl, rfl⟩
  case lost =>
    intro s v u hvats hrole hstate hmaster harmed hchange hlock
    exact ⟨_, exec_gearChangeTick_lost ⟨hvats, hrole, hstate⟩ hmaster harmed hchange hlock, rfl, rfl, rfl, rfl, rfl⟩
  case rest =>
    intro s vat node f u hu hrole hhead hf
    refine ⟨_, exec_restReq node hu hrole hhead hf, ?_, rfl⟩
    rw [State.role_onRole_same]
    exact mapGet_set_same ..

end Sys2Proof.Machine
end

section
/-! A link port in training (R167, R168, R175, R180 to R183, R197, R199): what each command leaves of the port and of the package, then the
statement. -/

namespace Sys2Proof.Machine
open Sys2Proof Sys2Proof.Safety

/-! ### Shared -/

theorem sat32_eq (n k : Nat) : sat32 n k = min (n + k) (2 ^ 32 - 1) := by
  unfold sat32
  split <;> omega

/-- A change of one port, as a statement speaks of it. -/
theorem State.onPort_spec (s : State) (k : Nat) (f : Port → Port) : OnlyPort s (s.onPort k f) k ∧ (s.onPort k f).port k = f (s.port k) :=
  ⟨onlyPort_onPort s k f, State.port_onPort_same s k f⟩

/-- The ports are brought up only while the Starter runs (R449). -/
theorem State.bringup_ready {s : State} (h : s.boot.state = .ready) : s.bringup = s := if_pos (.inl (by simp [h]))

/-- Between two Tick Counts of 64 bits that rise the Ticks are their difference. -/
theorem Port.since_eq {p : Port} {now : Nat} (h : p.entered ≤ now) (hn : now < 2 ^ 64) : p.since now = now - p.entered := by
  unfold Port.since tick64
  omega

/-- A Tick Count of 64 bits is a number of 64 bits. -/
theorem tick64_eq_iff {i : Int} {n : Nat} (h0 : 0 ≤ i) (hi : i < 2 ^ 64) : tick64 i = n ↔ i = n := by
  unfold tick64
  omega

/-! ### Training begins, and its first stages (R180, R199) -/

/-- TRAIN of a port that is Off or Failed begins its training. -/
theorem exec_train {s : State} {k value : Nat} (hs : HostServed s) (hb : value / 256 % 2 = 1) (hk : k < 8)
    (h : (s.port k).state = .off ∨ (s.port k).state = .failed) :
    exec (.train k value) s = .next (s.onPort k fun p => p.startTrain s.now) := by
  change Host.Outcome.next (if s.barOpen 0 then s.regTrain k value else s) = _
  have hset : bit value 8 = true ∧ k < 8 := by simp [bit, hb, hk]
  rw [if_pos (State.barOpen_of_host hs), State.regTrain, if_pos hset]
  exact congrArg _ (State.onPort_congr (if_pos h))

/-- UNFENCE takes a Fenced port to Active where its half holds no split fence. -/
theorem exec_unfence {s : State} {k value : Nat} (hs : HostServed s) (hb : value / 512 % 2 = 1) (h : (s.port k).state = .fenced)
    (hsplit : s.portSplit k = false) : exec (.unfence k value) s = .next (s.onPort k fun p => p.enter .active s.now) := by
  change Host.Outcome.next (if s.barOpen 0 then s.regUnfence k value else s) = _
  have hset : bit value 9 = true ∧ (s.port k).state = .fenced ∧ (!s.portSplit k) = true := by simp [bit, hb, h, hsplit]
  rw [if_pos (State.barOpen_of_host hs), State.regUnfence, if_pos hset]

theorem exec_lightDetect {s : State} {k lanes : Nat} (h : (s.port k).state = .detect) (hl : lanes = 63 ∨ lanes = 64) :
    exec (.lightDetect k lanes) s =
      .next (s.onPort k fun p => { p.enter .equalise s.now with lanes := lanes, degraded := decide (lanes = 63) }) :=
  congrArg _ (if_pos ⟨h, by omega⟩)

/-- A port whose equalisation ends enters Lock and sends its PEER_ID (R181). -/
theorem exec_linkEqualiseDone {s : State} {k : Nat} (h : (s.port k).state = .equalise) :
    exec (.linkEqualiseDone k) s = .next ((s.onPort k fun p => p.enter .lock s.now).sendFlit k (s.controlFlit 1
      (leBytes 2 s.links.node ++ leBytes 1 k ++ zeros 1 ++ leBytes 1 s.links.tx ++ leBytes 1 s.links.ty ++ leBytes 1 s.links.tz))) :=
  congrArg _ (if_pos h)

/-- The stages that lost light, or lost codeword lock, ends: their codes run from 2 to 6. -/
theorem PortState.code_of_stage {p : PortState} (h : p ∈ [PortState.equalise, .lock, .measure, .align, .verify]) :
    2 ≤ p.code ∧ p.code ≤ 6 := by
  simp only [List.mem_cons, List.not_mem_nil, or_false] at h
  rcases h with rfl | rfl | rfl | rfl | rfl <;> decide

theorem exec_lightLoss {s : State} {k lanes : Nat} {lock : Bool}
    (h : (s.port k).state ∈ [PortState.equalise, .lock, .measure, .align, .verify]) (hl : lanes < 63 ∨ lock = false) :
    exec (.lightLoss k lanes lock) s = .next (s.onPort k fun p => p.startTrain s.now) := by
  obtain ⟨hlow, hhigh⟩ := PortState.code_of_stage h
  exact congrArg _ (if_pos ⟨hlow, hhigh, hl⟩)

theorem exec_lightReturn {s : State} {k : Nat} (h : (s.port k).state = .down) :
    exec (.lightReturn k) s = .next (s.onPort k fun p => p.startTrain s.now) := congrArg _ (if_pos h)

/-- A lane that dies in use is listed (R167). -/
theorem exec_deadLane {s : State} {k lane : Nat} (h : (s.port k).state = .active ∨ (s.port k).state = .fenced) (hl : lane < 64)
    (hnew : lane ∉ (s.port k).dead) :
    exec (.deadLane k lane) s = .next (s.onPort k fun p => { p with dead := p.dead ++ [lane], degraded := true }) := by
  have hcode : 2 ≤ (s.port k).state.code ∧ (s.port k).state.code ≤ 8 := by
    rcases h with h | h
    · rw [h]
      decide
    · rw [h]
      decide
  exact congrArg _ (if_pos ⟨hcode.1, hcode.2, hl, hnew⟩)

/-! ### A peer and its delay (R168, R175, R182, R197) -/

/-- A port that sends no framed stream yet sends no marker. -/
theorem State.firstMarker_unframed {s : State} {k : Nat} (h : (s.port k).state.framed = false) : s.firstMarker k = s := by
  simp [State.firstMarker, h]

/-- A port that leaves Lock sends its first marker, and returns its credits with it (R168). -/
theorem State.firstMarker_framed {s : State} {k : Nat} (h : (s.port k).state.framed = true) :
    s.firstMarker k = (s.onOut fun o => o ++ [⟨"MARKER", k, s.markerArgs (s.port k), []⟩]).onPort k fun p =>
      { p with credits := mapSet 0 (mapSet 0 p.credits 0 0) 1 0 } := by
  unfold State.firstMarker
  rw [if_pos h]
  rfl

/-- A first marker changes the messages sent and its own port's credits. -/
theorem State.firstMarker_frame (s : State) (k : Nat) :
    s.firstMarker k = { s with out := (s.firstMarker k).out, links := { s.links with ports := (s.firstMarker k).links.ports } } ∧
      (∀ j, j ≠ k → (s.firstMarker k).port j = s.port j) ∧ ((s.firstMarker k).port k).state = (s.port k).state ∧
      ((s.firstMarker k).port k).peer = (s.port k).peer ∧ ((s.firstMarker k).port k).entered = (s.port k).entered ∧
      ((s.firstMarker k).port k).last = (s.port k).last := by
  cases h : (s.port k).state.framed with
  | false =>
    rw [State.firstMarker_unframed h]
    exact ⟨rfl, fun _ _ => rfl, rfl, rfl, rfl, rfl⟩
  | true =>
    rw [State.firstMarker_framed h, State.port_onPort_same]
    exact ⟨rfl, fun j hj => State.port_onPort_other _ _ hj, rfl, rfl, rfl, rfl⟩

/-- The check of R197 with the torus sizes of this package. -/
theorem Links.peerOk_iff {l : Links} {k node pp tx ty tz : Nat} (hx : tx = l.tx) (hy : ty = l.ty) (hz : tz = l.tz) :
    l.peerOk k node pp tx ty tz = true ↔ pp = (k + 4) % 8 ∧ node < tx * ty * tz ∧ (k % 4 = 3 ∨ node ∈ l.neighbours k) := by
  subst hx hy hz
  simp [Links.peerOk, facing, isAux, and_assoc]

theorem exec_peerId {s : State} {k : Nat} (node pp tx ty tz : Nat) (h : (s.port k).state = .lock) :
    exec (.peerId (.good k) node pp tx ty tz) s =
      .next ((s.onPort k fun p => p.meet (s.links.peerOk k node pp tx ty tz) node pp s.now).firstMarker k) := congrArg _ (if_pos h)

/-- A port that met its peer: the peer's node, the Tick, and Measure or Failed. -/
theorem Port.meet_spec (p : Port) (ok : Bool) (node pp now : Nat) :
    (p.meet ok node pp now).peer = node ∧ (p.meet ok node pp now).entered = now ∧
      (ok = true → (p.meet ok node pp now).state = .measure) ∧
      (ok = false → (p.meet ok node pp now).state = .failed ∧ (p.meet ok node pp now).last = 0x0706) := by
  cases ok <;> simp [Port.meet, Port.enter, Port.fail]

theorem PortState.framed_of_mem {p : PortState} (h : p ∈ [PortState.measure, .align, .verify, .active, .fenced]) : p.framed = true := by
  simp only [List.mem_cons, List.not_mem_nil, or_false] at h
  rcases h with rfl | rfl | rfl | rfl | rfl <;> decide

theorem exec_echoReq {s : State} {k : Nat} (seq hold : Nat) (h : (s.port k).state.framed = true) :
    exec (.echoReq (.good k) seq hold) s = .next (s.sendAhead k { s.controlFlit 3 (leBytes 2 seq ++ zeros 2 ++ leBytes 4 hold) with
      txTick := (s.now + 1) % 65536 }) := congrArg _ (if_pos h)

theorem exec_echoResp {s : State} {k : Nat} (seq rt hold : Nat) (h : (s.port k).state = .measure) :
    exec (.echoResp (.good k) seq rt hold) s = .next (s.onPort k fun p => p.echo (rt - hold) s.now) := congrArg _ (if_pos h)

/-- Before the 64th a sample is recorded alone (R182). -/
theorem Port.echo_early {p : Port} (d now : Nat) (h : p.echoes.length < 63) : p.echo d now = { p with echoes := p.echoes ++ [d] } :=
  if_pos (by simp only [List.length_append, List.length_cons, List.length_nil]; omega)

theorem maxNat_replicate (n a : Nat) : maxNat (List.replicate (n + 1) a) = a := by
  have hfold : ∀ n, (List.replicate n a).foldl max a = a := fun n => by
    induction n with
    | zero => rfl
    | succ n ih => rw [List.replicate_succ, List.foldl_cons, Nat.max_self, ih]
  rw [maxNat, foldl_max_eq, List.replicate_succ, List.foldl_cons, Nat.zero_max, hfold]

theorem minNat?_replicate (n a : Nat) : minNat? (List.replicate (n + 1) a) = some a := by
  have hfold : ∀ n, (List.replicate n a).foldl (fun x y => if y < x then y else x) a = a := fun n => by
    induction n with
    | zero => rfl
    | succ n ih => rw [List.replicate_succ, List.foldl_cons, if_neg (Nat.lt_irrefl a), ih]
  rw [List.replicate_succ, minNat?, hfold]

/-- Samples that agree on twice D give D (R182). -/
theorem meanDelay_replicate (d : Nat) : meanDelay (List.replicate 64 (2 * d)) = some d := by
  rw [meanDelay, maxNat_replicate 63, minNat?_replicate 63, if_pos (by simp), List.sum_replicate_nat, List.length_replicate]
  congr 1
  rw [Nat.max_eq_right (by omega)]
  omega

/-- The 64th sample gives D, with which the port goes on to Align or fails (R175, R182). -/
theorem Port.echo_last {p : Port} {d : Nat} (now : Nat) (h : p.echoes = List.replicate 63 (2 * d)) : p.echo (2 * d) now =
    if 1760 < d then { p with delayQ := d }.fail 0x0704 now else { p.enter .align now with delayQ := d, echoes := [] } := by
  have hes : p.echoes ++ [2 * d] = List.replicate 64 (2 * d) := by rw [h, ← List.replicate_succ']
  simp only [Port.echo, hes, List.length_replicate, meanDelay_replicate, Nat.lt_irrefl, if_false]
  rfl

/-! ### Limits (R180) -/

theorem exec_linkStageTimeout {s : State} {k n st : Nat} (h : (s.port k).state.limit = some (n, st)) (hover : (s.port k).entered + n < s.tick.count)
    (hn : s.tick.count < 2 ^ 64) (hready : s.boot.state = .ready) :
    exec (.linkStageTimeout k) s = .next (s.onPort k fun p => p.fail st s.now) := by
  have hsince : n < (s.port k).since s.now := by
    rw [Port.since_eq (now := s.now) (by change _ ≤ s.tick.count; omega) hn]
    change n < s.tick.count - _
    omega
  change execLinkStageTimeout k s = _
  unfold execLinkStageTimeout
  rw [h]
  exact congrArg _ ((if_pos hsince).trans (State.bringup_ready hready))

/-! ### Alignment (R183) -/

theorem exec_align {s : State} {k : Nat} (x phi : Nat) (h : (s.port k).state = .align) (hready : (s.takeAlign k x phi).boot.state = .ready) :
    exec (.align (.good k) x true phi) s = .next (s.takeAlign k x phi) :=
  congrArg _ ((if_pos ⟨h, rfl⟩).trans (State.bringup_ready hready))

/-- The Tick Count an ALIGN asks for, with the offset k of its port (R183). -/
def State.alignCount (s : State) (k x phi : Nat) : Int := x + alignOffset (s.port k).delayQ phi

/-- A port in Align of an aligned package that holds k and has sent its own ALIGN goes on to Verify. -/
theorem State.takeAlign_agrees {s : State} {k x phi : Nat} (h : (s.port k).state = .align) (ha : s.tick.aligned = true)
    (hsent : (s.port k).sent = true) (hn : s.tick.count < 2 ^ 64) (hx : s.alignCount k x phi = s.tick.count) :
    s.takeAlign k x phi = (s.onPort k fun p => { p with offset := some (alignOffset (s.port k).delayQ phi) }).onPort k fun p =>
      p.enter .verify s.now := by
  have hhere : tick64 (s.alignCount k x phi) = s.now := by
    rw [hx]
    exact (tick64_eq_iff (by omega) (by omega)).mpr rfl
  have hleave (p : Port) (hp : p.state = .align) (ho : p.offset.isSome = true) (hs : p.sent = true) :
      (if p.state = .align ∧ p.offset.isSome ∧ s.tick.aligned ∧ p.sent then p.enter .verify s.now else p) = p.enter .verify s.now :=
    if_pos ⟨hp, ho, ha, hs⟩
  unfold State.takeAlign
  rw [if_pos ha]
  refine (if_pos hhere).trans (State.onPort_congr ?_)
  rw [State.port_onPort_same]
  exact hleave _ h rfl hsent

/-- Where the counts differ the port fails. -/
theorem State.takeAlign_differs {s : State} {k x phi : Nat} (ha : s.tick.aligned = true) (h0 : 0 ≤ s.alignCount k x phi)
    (hi : s.alignCount k x phi < 2 ^ 64) (hx : s.alignCount k x phi ≠ s.tick.count) :
    s.takeAlign k x phi = s.onPort k fun p => p.fail 0x0606 s.now := by
  have hhere : ¬tick64 (s.alignCount k x phi) = s.now := fun h => hx ((tick64_eq_iff h0 hi).mp h)
  unfold State.takeAlign
  rw [if_pos ha]
  exact if_neg hhere

/-- A package that is not aligned, and has nothing to load yet, awaits the next TICK_FRAME; the root does not. -/
theorem State.takeAlign_waits {s : State} {k : Nat} (x phi : Nat) (ha : s.tick.aligned = false) (hroot : s.links.root = false)
    (hload : s.tick.alignLoad = none) : ∃ d, s.takeAlign k x phi =
      (s.onPort k fun p => { p with offset := some (alignOffset (s.port k).delayQ phi) }).onTick fun c =>
        { c with alignLoad := some (d, k, s.tick.count) } := by
  refine ⟨tick64 ((tick64 (s.alignCount k x phi) : Int) - s.now), ?_⟩
  have hload' (f : Port → Port) : (s.onPort k f).tick.alignLoad = none := hload
  have hroot' : ¬s.links.root = true := by simp [hroot]
  unfold State.takeAlign
  rw [if_neg (by simp [ha])]
  simp only [hroot', hload']
  rfl

theorem State.takeAlign_root {s : State} {k : Nat} (x phi : Nat) (ha : s.tick.aligned = false) (hroot : s.links.root = true) :
    s.takeAlign k x phi = s.onPort k fun p => { p with offset := some (alignOffset (s.port k).delayQ phi) } := by
  unfold State.takeAlign
  rw [if_neg (by simp [ha])]
  exact if_pos hroot

/-! ### Verification (R181, R358) -/

/-- The port after 4 frames of Verify. -/
def State.endVerify (s : State) (k : Nat) (r : VerifyResult) (p : Port) : Port :=
  let q := { p with feCe := sat32 p.feCe r.corrected, feUe := sat32 p.feUe r.uncorrectable }
  if verifyOk p r then { q.enter (if s.portSplit k then .fenced else .active) s.now with full := true } else q.fail 0x0705 s.now

theorem exec_linkVerifyEnd {s : State} {k : Nat} (r : VerifyResult) (h : (s.port k).state = .verify)
    (hover : (s.port k).entered + 262144 ≤ s.tick.count) (hn : s.tick.count < 2 ^ 64) (hready : s.boot.state = .ready) :
    exec (.linkVerifyEnd k r) s = .next (s.onPort k (s.endVerify k r)) := by
  have hsince : 262144 ≤ (s.port k).since s.now := by
    rw [Port.since_eq (now := s.now) (by change _ ≤ s.tick.count; omega) hn]
    change _ ≤ s.tick.count - _
    omega
  change execLinkVerifyEnd k r s = _
  rw [execLinkVerifyEnd, if_pos ⟨h, hsince⟩]
  exact congrArg _ (State.bringup_ready (s := s.onPort k (s.endVerify k r)) hready)

/-- Either way the time and the corrected symbols are recorded; the conditions of R181 decide. -/
theorem State.endVerify_spec (s : State) (k : Nat) (r : VerifyResult) (p : Port) :
    (s.endVerify k r p).entered = s.now ∧ (s.endVerify k r p).feCe = sat32 p.feCe r.corrected ∧
      (verifyOk p r = true → (s.endVerify k r p).state = if s.portSplit k then .fenced else .active) ∧
      (verifyOk p r = false → (s.endVerify k r p).state = .failed ∧ (s.endVerify k r p).last = 0x0705) := by
  cases hok : verifyOk p r with
  | true => simp only [State.endVerify, hok, if_true]; exact ⟨rfl, rfl, fun _ => rfl, nofun⟩
  | false => simp only [State.endVerify, hok]; exact ⟨rfl, rfl, nofun, fun _ => ⟨rfl, rfl⟩⟩

/-! ### The statement -/

/-- Settles O12: each command changes its port in one way, which the lemmas above name, with what it sends. -/
theorem portsTrainMeasureAndAlign : Obligations.PortsTrainMeasureAndAlign := by
  unfold Obligations.PortsTrainMeasureAndAlign
  refine ⟨⟨?train, ?unfence, ?detect, ?equalised, ?loss, ?back, ?dead⟩, ⟨?peer, ?echoReq, ?sample, ?delay, ?limit⟩,
    ?agrees, ?differs, ?waits, ?root, ?verify⟩
  case train =>
    intro s k value hs hb hk hstate
    obtain ⟨honly, hport⟩ := s.onPort_spec k fun p => p.startTrain s.now
    refine ⟨_, exec_train hs hb hk hstate, honly, ?_⟩
    rw [hport]
    exact ⟨rfl, rfl, sat32_one _, rfl, rfl⟩
  case unfence =>
    intro s k value hs hb hstate hsplit
    exact ⟨_, exec_unfence hs hb hstate hsplit, s.onPort_spec k _⟩
  case detect =>
    intro s k lanes hstate hl
    exact ⟨_, exec_lightDetect hstate hl, s.onPort_spec k _⟩
  case equalised =>
    intro s k hstate
    rw [exec_linkEqualiseDone hstate]
    refine ⟨_, rfl, ?_, rfl, rfl⟩
    rw [State.sendFlit_eq, State.port_onPort_same]
    exact congrArg (fun p : Port => { p with used := p.used + 1 }) (State.port_onPort_same s k fun p => p.enter .lock s.now)
  case loss =>
    intro s k lanes lock hstate hl
    obtain ⟨honly, hport⟩ := s.onPort_spec k fun p => p.startTrain s.now
    refine ⟨_, exec_lightLoss hstate hl, honly, ?_⟩
    rw [hport]
    exact ⟨rfl, rfl, rfl⟩
  case back =>
    intro s k hstate
    obtain ⟨honly, hport⟩ := s.onPort_spec k fun p => p.startTrain s.now
    refine ⟨_, exec_lightReturn hstate, honly, ?_⟩
    rw [hport]
    exact ⟨rfl, rfl⟩
  case dead =>
    intro s k lane hstate hl hnew
    exact ⟨_, exec_deadLane hstate hl hnew, s.onPort_spec k _⟩
  case peer =>
    intro s k node pp tx ty tz hstate
    rw [exec_peerId node pp tx ty tz hstate]
    generalize hok : s.links.peerOk k node pp tx ty tz = ok
    generalize hu : (s.onPort k fun p => p.meet ok node pp s.now) = u
    obtain ⟨hframe, hothers, hst, hpeer, hent, hlast⟩ := u.firstMarker_frame k
    obtain ⟨mpeer, ment, mgood, mbad⟩ := (s.port k).meet_spec ok node pp s.now
    have hport : u.port k = (s.port k).meet ok node pp s.now := by rw [← hu, State.port_onPort_same]
    refine ⟨_, rfl, ?_, fun j hj => ?_, by rw [hpeer, hport, mpeer], by rw [hent, hport, ment]; rfl, ?_, ?_⟩
    · rw [hframe, ← hu]
      rfl
    · rw [hothers j hj, ← hu, State.port_onPort_other s _ hj]
    · intro hpp hx hy hz hnode hnear
      have hmeasure := mgood (hok ▸ (Links.peerOk_iff hx hy hz).mpr ⟨hpp, hnode, hnear⟩)
      have hframed : (u.port k).state.framed = true := by rw [hport, hmeasure]; rfl
      rw [hst, hport, State.firstMarker_framed hframed]
      refine ⟨hmeasure, ⟨"MARKER", k, u.markerArgs (u.port k), []⟩, ?_, rfl, rfl⟩
      rw [← hu]
      rfl
    · intro hbad hx hy hz
      have hno : ok = false := by
        rw [← hok, ← Bool.not_eq_true, Links.peerOk_iff hx hy hz]
        rintro ⟨hpp, hnode, hnear⟩
        rcases hbad with hbad | hbad | ⟨haux, hfar⟩
        · exact hbad hpp
        · omega
        · exact hnear.elim haux hfar
      obtain ⟨hfailed, hstatus⟩ := mbad hno
      rw [hst, hlast, hport, State.firstMarker_unframed (by rw [hport, hfailed]; rfl)]
      refine ⟨hfailed, hstatus, ?_⟩
      rw [← hu]
      rfl
  case echoReq =>
    intro s k seq hold hstate
    rw [exec_echoReq seq hold (PortState.framed_of_mem hstate)]
    exact ⟨_, rfl, rfl, State.port_onPort_same _ k _, fun j hj => State.port_onPort_other _ _ hj, rfl⟩
  case sample =>
    intro s k seq rt hold hstate hfew
    obtain ⟨honly, hport⟩ := s.onPort_spec k fun p => p.echo (rt - hold) s.now
    exact ⟨_, exec_echoResp seq rt hold hstate, honly, hport.trans (Port.echo_early _ _ hfew)⟩
  case delay =>
    intro s k seq d hstate hes
    obtain ⟨honly, hport⟩ := s.onPort_spec k fun p => p.echo (2 * d) s.now
    refine ⟨_, exec_echoResp seq (2 * d) 0 hstate, honly, ?_⟩
    rw [Nat.sub_zero, hport, Port.echo_last s.now hes]
    by_cases hd : 1760 < d
    · rw [if_pos hd]
      exact ⟨rfl, fun h => absurd hd (Nat.not_lt.mpr h), fun _ => ⟨rfl, rfl⟩⟩
    · rw [if_neg hd]
      exact ⟨rfl, fun _ => rfl, fun h => absurd h hd⟩
  case limit =>
    intro s k n st hlimit hover hn hready
    obtain ⟨honly, hport⟩ := s.onPort_spec k fun p => p.fail st s.now
    refine ⟨_, exec_linkStageTimeout hlimit hover hn hready, honly, ?_⟩
    rw [hport]
    exact ⟨rfl, rfl⟩
  case agrees =>
    intro s k x phi hstate hready ha hsent hn hx
    have htake := State.takeAlign_agrees hstate ha hsent hn hx
    refine ⟨_, exec_align x phi hstate (by rw [htake]; exact hready), ?_⟩
    rw [htake]
    refine ⟨onlyPort_trans (onlyPort_onPort s k _) (onlyPort_onPort _ k _), ?_⟩
    rw [State.port_onPort_same, State.port_onPort_same]
    rfl
  case differs =>
    intro s k x phi hstate hready ha hn h0 hi hx
    have htake := State.takeAlign_differs ha h0 hi hx
    obtain ⟨honly, hport⟩ := s.onPort_spec k fun p => p.fail 0x0606 s.now
    refine ⟨_, exec_align x phi hstate (by rw [htake]; exact hready), ?_⟩
    rw [htake, hport]
    exact ⟨honly, rfl, rfl⟩
  case waits =>
    intro s k x phi hstate hready ha hload hroot
    obtain ⟨d, htake⟩ := State.takeAlign_waits (s := s) (k := k) x phi ha hroot hload
    obtain ⟨-, hport⟩ := s.onPort_spec k fun p => { p with offset := some (alignOffset (s.port k).delayQ phi) }
    refine ⟨_, d, exec_align x phi hstate (by rw [htake]; exact hready), ?_⟩
    rw [htake]
    exact ⟨(congrArg Port.state hport).trans hstate, congrArg Port.offset hport, rfl⟩
  case root =>
    intro s k x phi hstate hready ha hroot
    have htake := State.takeAlign_root (s := s) (k := k) x phi ha hroot
    refine ⟨_, exec_align x phi hstate (by rw [htake]; exact hready), ?_⟩
    rw [htake]
    exact s.onPort_spec k _
  case verify =>
    intro s k r hstate hover hn hready
    obtain ⟨honly, hport⟩ := s.onPort_spec k (s.endVerify k r)
    obtain ⟨hent, hce, hgood, hbad⟩ := s.endVerify_spec k r (s.port k)
    refine ⟨_, exec_linkVerifyEnd r hstate hover hn hready, honly, ?_⟩
    rw [hport]
    refine ⟨hent, by rw [hce, sat32_eq], fun h1 h2 h3 h4 h5 => hgood ?_, fun h => hbad ?_⟩
    · simp [verifyOk, h1, h2, h3, h4, h5]
    · rcases h with h | h | h | h
      · simp [verifyOk, h]
      · simp [verifyOk, Nat.not_lt.mpr h]
      · simp [verifyOk, h]
      · simp [verifyOk, Nat.not_le.mpr h]

end Sys2Proof.Machine
end

section
/-! Remote windows (R194, R195, R202): the checks of an access, its bursts at the arbiters (R325 to R327), and the write that their last grant
brings. -/

namespace Sys2Proof.Machine
open Sys2Proof Sys2Proof.Safety

/-! ### Checks (R195, R202) -/

section
variable {s : State} {src vat n off len : Nat} {write : Bool}

theorem State.windowStatus_invalid (h : (s.window n).valid = false) : s.windowStatus src vat n off len write = 0x0310 := by
  simp [State.windowStatus, h]

/-- The bit of a window's permissions that an access asks for. -/
theorem bit_b2n (v : Nat) (write : Bool) : bit v (b2n write) = decide (v / (if write then 2 else 1) % 2 = 1) := by
  cases write
  · exact (Bool.beq_eq_decide_eq _ _).trans (by simp [b2n])
  · exact Bool.beq_eq_decide_eq _ _

theorem State.windowStatus_denied (hv : (s.window n).valid = true)
    (h : (s.window n).vat ≠ vat ∨ src < (s.window n).lo ∨ (s.window n).hi < src ∨ (s.window n).perm / (if write then 2 else 1) % 2 = 0) :
    s.windowStatus src vat n off len write = 0x0311 := by
  have hno : (s.window n).vat ≠ vat ∨ src < (s.window n).lo ∨ (s.window n).hi < src ∨ (!bit (s.window n).perm (b2n write)) = true := by
    rw [bit_b2n]
    rcases h with h | h | h | h
    · exact .inl h
    · exact .inr (.inl h)
    · exact .inr (.inr (.inl h))
    · exact .inr (.inr (.inr (by simp [h])))
  simp only [State.windowStatus, hv, Bool.not_true, Bool.false_eq_true, if_false]
  exact if_pos hno

/-- A window serves an access of a sender for its vat. -/
structure Window.Serves (x : Window) (src vat : Nat) (write : Bool) : Prop where
  valid : x.valid = true
  vat   : x.vat = vat
  lo    : x.lo ≤ src
  hi    : src ≤ x.hi
  perm  : x.perm / (if write then 2 else 1) % 2 = 1

/-- Past the checks of the window itself, its range decides, then the vat's data key, its fence and its cave extents. -/
theorem State.windowStatus_served {x : Window} (hx : s.window n = x) (h : x.Serves src vat write) :
    s.windowStatus src vat n off len write = if x.size < off + len ∨ (!x.placed) = true then 0x0312 else
      match s.vatSlot vat 5 with
      | none => 0x0821
      | some k => if !(s.slot k).usable then 0x0821 else if len = 0 then 0 else if s.dpaFenced (x.base + off) then 0x0730 else
          s.caveRange (x.base + off) len := by
  have hyes : ¬(x.vat ≠ vat ∨ src < x.lo ∨ x.hi < src ∨ (!bit x.perm (b2n write)) = true) := by
    rw [bit_b2n]
    simp [h.vat, Nat.not_lt.mpr h.lo, Nat.not_lt.mpr h.hi, h.perm]
  simp only [State.windowStatus, hx, h.valid, Bool.not_true, Bool.false_eq_true, if_false]
  exact if_neg hyes

theorem State.windowStatus_outside {x : Window} (hx : s.window n = x) (h : x.Serves src vat write)
    (hout : x.size < off + len ∨ x.placed = false) : s.windowStatus src vat n off len write = 0x0312 := by
  rw [State.windowStatus_served hx h, if_pos (hout.imp_right fun hp => by simp [hp])]

/-- A range of HBM lies in no cave extent. -/
theorem State.caveRange_hbm {a : Nat} (h : a < 2 ^ 40) (len : Nat) : s.caveRange a len = 0 := if_neg (by omega)

theorem State.dpaFenced_hbm {a : Nat} (h : a < 2 ^ 40) : s.dpaFenced a = s.fenced 5 (a / 2 ^ 36) := if_pos h

/-- A range of HBM that a window serves, its stack not fenced, passes where the vat's data key is Active. -/
theorem State.windowStatus_passes {x : Window} {k : Nat} (hx : s.window n = x) (h : x.Serves src vat write) (hin : off + len ≤ x.size)
    (hp : x.placed = true) (hslot : s.vatSlot vat 5 = some k) (hk : (s.slot k).state = .active) (ha : x.base + off < 2 ^ 40)
    (hf : s.fenced 5 ((x.base + off) / 2 ^ 36) = false) : s.windowStatus src vat n off len write = 0 := by
  have hrange : ¬(x.size < off + len ∨ (!x.placed) = true) := by simp [hp, Nat.not_lt.mpr hin]
  have hfence : s.dpaFenced (x.base + off) = false := (State.dpaFenced_hbm ha).trans hf
  rw [State.windowStatus_served hx h, if_neg hrange, hslot]
  simp [KeySlot.usable, hk, hfence, State.caveRange_hbm ha]

end

/-! ### REMOTE_WINDOW_ACCESS -/

/-- An access that no granted multicast takes: refused with its status, or served, or queued at the arbiters in its way. -/
theorem exec_remoteWindowAccess {s : State} {write : Bool} {p : WheyPacket} (src : Nat) (bad : ReadErrs) (hok : wheyOk p = true) (hk : p.kind = 7)
    (hmc : write = true → s.links.mcIn = []) :
    exec (.remoteWindowAccess ⟨src, bad⟩ write p) s = .next (
      if s.windowStatus src p.vat (p.arg % 256) p.addr (accessLen write p) write ≠ 0 then
        s.windowAnswer src p.tag (s.windowStatus src p.vat (p.arg % 256) p.addr (accessLen write p) write) []
      else
        let a := (s.window (p.arg % 256)).base + p.addr
        let d := if write then some ((p.data.drop 96).take (accessLen write p)) else none
        if pieceBursts write a (accessLen write p) = [] then s.windowServe src p.vat p.tag a (accessLen write p) d bad
        else s.windowAsk p.cls src p.vat p.tag a (accessLen write p) d bad) := by
  have hnone : ((s.mcOf src p.tag).filter fun m =>
      write && decide (m.off ≤ p.addr ∧ p.addr + accessLen write p ≤ m.off + m.len)) = none := by
    cases write with
    | true => simp [State.mcOf, hmc rfl]
    | false => simp
  change Host.Outcome.next (if (!wheyOk p) = true ∨ p.kind ≠ 0x07 then s.wheyDrop else s.windowAccess src write p bad) = _
  rw [if_neg (by simp [hok, hk]), State.windowAccess, hnone]

/-- A refusal that the answer's next port takes is counted and sent, and changes nothing else. -/
theorem State.windowAnswer_refused {s : State} {src tag st : Nat} (h : s.wheyBlocked src 0 = false) (hst : st ≠ 0) :
    s.windowAnswer src tag st [] = { s with
      links := { s.links with denies := min (s.links.denies + 1) (2 ^ 32 - 1) }, out := s.out ++ [⟨"WINDOW_ANSWER", src, [tag, st], []⟩] } := by
  rw [← sat32_one, State.windowAnswer, if_neg hst]
  exact if_neg (by rw [Bool.not_eq_true]; exact h)

theorem State.windowAnswer_done {s : State} {src tag : Nat} (bs : List Byte) (h : s.wheyBlocked src 0 = false) :
    s.windowAnswer src tag 0 bs = { s with out := s.out ++ [⟨"WINDOW_ANSWER", src, [tag, 0], bs⟩] } := if_neg (by simp [h])

theorem exec_remoteWindowAccess_refused {s : State} {src st : Nat} {write : Bool} {p : WheyPacket} (bad : ReadErrs) (hok : wheyOk p = true)
    (hk : p.kind = 7) (hport : s.wheyBlocked src 0 = false) (hmc : write = true → s.links.mcIn = [])
    (hst : s.windowStatus src p.vat (p.arg % 256) p.addr (accessLen write p) write = st) (h0 : st ≠ 0) :
    exec (.remoteWindowAccess ⟨src, bad⟩ write p) s = .next { s with
      links := { s.links with denies := min (s.links.denies + 1) (2 ^ 32 - 1) }, out := s.out ++ [⟨"WINDOW_ANSWER", src, [p.tag, st], []⟩] } := by
  rw [exec_remoteWindowAccess src bad hok hk hmc, hst, if_pos h0, State.windowAnswer_refused hport h0]

/-! ### The arbiters in the way (R325) -/

@[simp] theorem Qos.releaseOne_streams (q : Qos) (part : Nat → Nat) (now a : Nat) (r : ArbReq) : (q.releaseOne part now a r).streams = q.streams := rfl

/-- A burst entered at an arbiter is one request more. -/
theorem Qos.enter_streams (q : Qos) (now a cls : Nat) (w : ArbWork) : (q.enter now a cls 1 w).streams = q.streams + 1 := by
  have hfold : ∀ (l : List (Nat × ArbReq)) (u : Qos),
      (l.foldl (fun u e => u.releaseOne (fun _ => 0) now e.1 e.2) u).streams = u.streams := fun l u =>
    List.foldlRecOn (motive := fun v : Qos => v.streams = u.streams) l _ rfl fun v hv e _ => hv
  rw [Qos.enter, hfold]
  rfl

/-- A range of HBM asks once for each 256 bytes that it touches. -/
theorem pieceBursts_hbm {a n : Nat} (write : Bool) (hn : n ≠ 0) (ha : a < 2 ^ 40) : pieceBursts write a n =
    (List.range ((a + n - 1) / 256 + 1 - a / 256)).map fun i => (a / 2 ^ 36 * 32 + (a / 256 + i) % 32, 1) := by
  rw [pieceBursts, if_neg hn, if_pos ha]

/-- A write of HBM is one request for each 256 bytes, at the arbiters alone. -/
theorem State.windowAsk_hbm {s : State} {dpa len : Nat} (cls src vat tag : Nat) (bs : List Byte) (bad : ReadErrs) (hn : len ≠ 0)
    (ha : dpa < 2 ^ 40) : let t := s.windowAsk cls src vat tag dpa len (some bs) bad
    t.qos.streams = s.qos.streams + ((dpa + len - 1) / 256 + 1 - dpa / 256) ∧ t = { s with qos := t.qos } := by
  refine ⟨?_, rfl⟩
  have hfold : ∀ (w : ArbWork) (l : List Nat) (f : Nat → Nat) (q : Qos),
      ((l.map fun i => (f i, 1)).foldl (fun u b => u.enter s.now b.1 cls b.2 w) q).streams = q.streams + l.length := by
    intro w l f
    induction l with
    | nil => exact fun q => rfl
    | cons i l ih =>
      intro q
      rw [List.map_cons, List.foldl_cons, ih, Qos.enter_streams, List.length_cons]
      omega
  change ((pieceBursts true dpa len).foldl _ s.qos).streams = _
  rw [pieceBursts_hbm true hn ha, hfold, List.length_range]

theorem exec_remoteWindowAccess_asks {s : State} {src k : Nat} {p : WheyPacket} {x : Window} (bad : ReadErrs) (hok : wheyOk p = true)
    (hkind : p.kind = 7) (hx : s.window (p.arg % 256) = x) (h : x.Serves src p.vat true) (hin : p.addr + 128 * p.dataSlots ≤ x.size)
    (hp : x.placed = true) (hend : x.base + x.size ≤ 2 ^ 40) (hslot : s.vatSlot p.vat 5 = some k) (hk : (s.slot k).state = .active)
    (hf : s.fenced 5 ((x.base + p.addr) / 2 ^ 36) = false) (hmc : s.links.mcIn = []) (hdata : 1 ≤ p.dataSlots) :
    exec (.remoteWindowAccess ⟨src, bad⟩ true p) s = .next (s.windowAsk p.cls src p.vat p.tag (x.base + p.addr) (128 * p.dataSlots)
      (some ((p.data.drop 96).take (128 * p.dataSlots))) bad) := by
  have ha : x.base + p.addr < 2 ^ 40 := by omega
  have hlen : accessLen true p = 128 * p.dataSlots := rfl
  have hst := State.windowStatus_passes (len := 128 * p.dataSlots) hx h hin hp hslot hk ha hf
  have hsome : pieceBursts true (x.base + p.addr) (128 * p.dataSlots) ≠ [] := by
    rw [pieceBursts_hbm true (by omega) ha]
    have hcount : (x.base + p.addr + 128 * p.dataSlots - 1) / 256 + 1 - (x.base + p.addr) / 256 ≠ 0 := by omega
    simp [hcount]
  rw [exec_remoteWindowAccess src bad hok hkind fun _ => hmc, hlen, hst, hx]
  simp only [ne_eq, not_true_eq_false, if_false, hsome]
  rfl

/-! ### The last grant (R326, R327) -/

theorem turnOf_single {c : Nat} (last : Nat) (hc : c < 8) : turnOf last [c] = some c := by
  have hturn : (turnOf last [c]).isSome = true := by
    rw [turnOf, List.find?_isSome]
    refine ⟨c, List.mem_map.mpr ⟨(c + 8 - (last + 1) % 8) % 8, List.mem_range.mpr (by omega), by omega⟩, by simp⟩
  obtain ⟨d, hd⟩ := Option.isSome_iff_exists.mp hturn
  have hmem := List.find?_some hd
  rw [hd]
  congr 1
  simpa using hmem

section
variable {x : Arbiter} {r : ArbReq}

theorem Arbiter.headOf_single (hq : x.queue = [r]) (hhere : r.here ≠ []) (c : Nat) : x.headOf c = if r.cls = c then some r else none := by
  by_cases hc : r.cls = c
  · simp [Arbiter.headOf, hq, hc, hhere, earliest]
  · simp [Arbiter.headOf, hq, hc, earliest]

/-- An arbiter with one request decides for it, whatever its class. -/
theorem Arbiter.decide?_single (hq : x.queue = [r]) (hhere : r.here ≠ []) (hc : r.cls < 8) (prio : List Nat) : x.decide? prio = some r := by
  have hhead := Arbiter.headOf_single hq hhere
  by_cases h6 : r.cls = 6
  · rw [Arbiter.decide?, hhead, if_pos h6]
  · have hheads : x.heads = [r] := by
      have hcls : r.cls ∈ [0, 1, 2, 3, 4, 5, 7] := by
        simp only [List.mem_cons, List.not_mem_nil, or_false]
        omega
      rw [Arbiter.heads, funext hhead]
      simp only [List.mem_cons, List.not_mem_nil, or_false] at hcls
      rcases hcls with h | h | h | h | h | h | h <;> simp [h]
    rw [Arbiter.decide?, hhead, if_neg h6, hheads]
    by_cases h8 : (x.grants + 1) % 8 = 0
    · exact if_pos h8
    · refine (if_neg h8).trans ?_
      have htop : maxNat ([r].map fun r => nth 0 prio r.cls) = nth 0 prio r.cls := by
        simp [maxNat, Nat.pos_iff_ne_zero, eq_comm]
      simp only [htop]
      simp [turnOf_single _ hc, hhead]

/-- Nobody else holds a grant that the decision could revoke. -/
theorem Arbiter.revoked_single (hq : x.queue = [r]) : x.revoked r = none := by
  unfold Arbiter.revoked
  split
  · next h _ =>
    split
    · rfl
    · next hne => simp [hq, Ne.symm hne]
  · rfl

/-- With its last burst granted the request leaves the queue. -/
theorem Arbiter.grant_last {y : Nat} (hq : x.queue = [r]) (hheld : r.held = 0) (hhere : r.here = [(y, 1)]) (a : Nat) (prio : List Nat)
    (bursts : Nat) : (x.grant a prio bursts r).queue = [] := by
  simp [Arbiter.grant, hq, ArbReq.took, hhere, ArbReq.left, ArbReq.waiting, hheld]

end

/-- Where no request waits at an arbiter, no burst is left. -/
theorem Qos.leftOf_idle {q : Qos} (p : ArbWork → Bool) (h : ∀ e ∈ q.arbs, e.2.queue = []) : q.leftOf p = 0 := by
  rw [Qos.leftOf, List.sum_eq_zero_iff_forall_eq_nat]
  intro n hn
  obtain ⟨e, he, rfl⟩ := List.mem_map.mp hn
  rw [h e he]
  rfl

theorem mem_mapSet_single {α : Type} [DecidableEq α] {d v w : α} {a : Nat} {e : Nat × α} (h : e ∈ mapSet d [(a, w)] a v) : e = (a, v) := by
  unfold mapSet at h
  split at h
  · simp [mapDel] at h
  · simpa [mapPut] using h

/-- The last burst of a window's access is granted: the access is served. -/
theorem State.arbDecide_last {s : State} {a n src vat tag dpa len y : Nat} {d : Option (List Byte)} {bad : ReadErrs} {x : Arbiter} {r : ArbReq}
    (harbs : s.qos.arbs = [(a, x)]) (hq : x.queue = [r]) (hc : r.cls < 8) (hheld : r.held = 0) (hhere : r.here = [(y, 1)])
    (hw : r.work = .window n src vat tag dpa len d bad) :
    ∃ q : Qos, s.arbDecide a = ((s.onQos fun _ => q).windowServe src vat tag dpa len d bad).onQos fun u => u.release s.partOf s.now := by
  have harb : s.arb a = x := by simp [State.arb, harbs, mapGet]
  generalize hq' : { s.qos with arbs := mapSet Arbiter.empty s.qos.arbs a (x.grant a s.qos.active.prio s.qos.active.bursts r) } = q
  have hidle : ∀ e ∈ q.arbs, e.2.queue = [] := by
    intro e he
    rw [← hq', harbs] at he
    rw [mem_mapSet_single he]
    exact Arbiter.grant_last hq hheld hhere a _ _
  have hleft : (s.onQos fun _ => q).qos.leftOf (fun w => decide (w = .window n src vat tag dpa len d bad)) = 0 := Qos.leftOf_idle _ hidle
  have hacts : ∀ t : State, (t.wheyActivity a r) = t := fun t => by
    have href : r.ref = none := by rw [ArbReq.ref, hw]; rfl
    rw [State.wheyActivity, href]
  refine ⟨q, ?_⟩
  rw [State.arbDecide, harb, Arbiter.decide?_single hq (by simp [hhere]) hc]
  simp only [Arbiter.revoked_single hq, hacts, hw]
  rw [← hq'] at hleft ⊢
  exact congrArg (fun t : State => t.onQos fun u => u.release s.partOf s.now) (if_pos hleft)

theorem exec_arbiterDecision {s : State} {a : Nat} (ha : a < 522) (hf : s.arbFenced a = false) (hr : s.arbRefreshes a = false) :
    exec (.arbiterDecision a) s = .next (s.arbDecide a) := congrArg _ (if_pos ⟨ha, by simp [hf], by simp [hr]⟩)

theorem State.vatKey_data {s : State} {vat k : Nat} (h : s.vatSlot vat 5 = some k) : s.vatKey vat false = (s.slot k).key := by
  have hslot : s.vatSlot vat (if false = true then 0x04 else 0x05) = some k := h
  rw [State.vatKey, hslot]
  rfl

/-- A write whose range is still reached lands under the vat's data key and is answered with 0. -/
theorem State.windowServe_write {s : State} {src vat tag dpa len k : Nat} {bs : List Byte} (bad : ReadErrs) (hf : s.dpaFenced dpa = false)
    (hcave : s.caveRange dpa len = 0) (hslot : s.vatSlot vat 5 = some k) (hport : s.wheyBlocked src 0 = false) :
    s.windowServe src vat tag dpa len (some bs) bad = { s with
      mem := s.mem.write (s.slot k).key dpa bs, out := s.out ++ [⟨"WINDOW_ANSWER", src, [tag, 0], []⟩] } := by
  have hgone : (if s.dpaFenced dpa then 0x0730 else s.caveRange dpa len) = 0 := by simp [hf, hcave]
  rw [State.windowServe, hgone]
  have hdone := State.windowAnswer_done (s := s.windowWrite vat dpa 0 bs) (tag := tag) [] hport
  rw [State.windowWrite, State.vatKey_data hslot] at hdone
  refine Eq.trans ?_ hdone
  rw [← State.vatKey_data hslot]
  rfl

theorem exec_winCommit {s : State} {n value : Nat} (hs : HostServed s) (hn : n < 256) (hv : value % 2 = 1) :
    exec (.winCommit n value) s =
      .next (s.onLinks fun l => { l with winAct := mapSet Window.zero l.winAct n (mapGet Window.zero l.winShad n) }) := by
  have hset : n < 256 ∧ bit value 0 = true := ⟨hn, by simp [bit, hv]⟩
  change Host.Outcome.next (if s.barOpen 0 then s.regWinCommit n value else s) = _
  rw [if_pos (State.barOpen_of_host hs), State.regWinCommit, if_pos hset]

end Sys2Proof.Machine
end

section
/-! Whey multicast (R193, R289): its messages, a reservation and its end at a target, and grants, copies and the end at the source; then the
statement on windows and multicasts. -/

namespace Sys2Proof.Machine
open Sys2Proof Sys2Proof.Safety

/-! ### Messages -/

theorem leNat_leBytes (n v : Nat) : leNat (leBytes n v) = v % 256 ^ n := by
  induction n generalizing v with
  | zero => simp [leBytes, leNat, Nat.mod_one]
  | succ n ih =>
    rw [leBytes, leNat, ih, BitVec.toNat_ofNat, show 256 ^ (n + 1) = 256 * 256 ^ n from Nat.pow_succ']
    exact Nat.mod_mul.symm

/-- A number written at the start of a byte string reads back, cut to its bytes. -/
theorem field_leBytes (n v : Nat) (bs : List Byte) : field (leBytes n v ++ bs) 0 n = v % 256 ^ n := by
  rw [field, List.drop_zero, List.take_append_of_le_length (by simp), List.take_of_length_le (by simp), leNat_leBytes]

/-- Steps that only add messages only add messages together. -/
theorem State.foldl_outs {α : Type} {f : State → α → State} (h : ∀ t a, ∃ ms, f t a = { t with out := t.out ++ ms }) (l : List α) (s : State) :
    ∃ ms, l.foldl f s = { s with out := s.out ++ ms } := by
  induction l generalizing s with
  | nil => exact ⟨[], by simp⟩
  | cons a l ih =>
    obtain ⟨ms, hms⟩ := h s a
    obtain ⟨ns, hns⟩ := ih { s with out := s.out ++ ms }
    exact ⟨ms ++ ns, by rw [List.foldl_cons, hms, hns]; simp⟩

/-- One message for each element of a list. -/
theorem State.foldl_send {α : Type} (g : α → Msg) (l : List α) (s : State) :
    l.foldl (fun t a => t.onOut fun o => o ++ [g a]) s = { s with out := s.out ++ l.map g } := by
  induction l generalizing s with
  | nil => simp
  | cons a l ih => rw [List.foldl_cons, ih]; simp [State.onOut]

/-- A message of a multicast, or the answer to one that its next port drops, is one message. -/
theorem State.mcMsg_out (s : State) (node msg vat arg tag src : Nat) (body : List Byte) :
    ∃ ms, s.mcMsg node msg vat arg tag src body = { s with out := s.out ++ ms } := by
  unfold State.mcMsg State.sendControl
  split
  · exact ⟨[_], rfl⟩
  · exact ⟨[_], rfl⟩

/-- One that its next port takes carries its argument and its tag (R288, R289). -/
theorem State.mcMsg_open {s : State} {node : Nat} (msg vat arg tag src : Nat) (h : s.wheyBlocked node 7 = false) :
    ∃ m : Msg, s.mcMsg node msg vat arg tag src [] = { s with out := s.out ++ [m] } ∧ m.kind = "CONTROL" ∧ m.dest = node ∧
      m.args = [msg, vat] ∧ field m.body 0x10 4 = arg % 2 ^ 32 ∧ field m.body 0x18 2 = tag % 65536 := by
  unfold State.mcMsg State.sendControl
  rw [if_neg (by simp [h])]
  refine ⟨_, rfl, rfl, rfl, rfl, ?arg, ?tag⟩
  case arg =>
    simp only [List.append_assoc]
    iterate 6 rw [field_append_right _ _ _ _ (by simp)]
    simp only [leBytes_length, zeros_length]
    exact field_leBytes 4 arg _
  case tag =>
    simp only [List.append_assoc]
    iterate 8 rw [field_append_right _ _ _ _ (by simp)]
    simp only [leBytes_length, zeros_length, fitBytes]
    rw [List.take_of_length_le (by simp), List.append_assoc]
    exact field_leBytes 2 tag _

/-! ### At a target (R193) -/

/-- A reservation of at most 64 KiB takes at most 256 of the pool's flits. -/
theorem mcFlits_le {len : Nat} (h : len ≤ 65536) : mcFlits len ≤ 256 := by
  unfold mcFlits ceilDiv
  omega

section
variable {s : State} {src vat tag len n off : Nat}

theorem exec_mcReserve (hmin : 1 ≤ len) (hmax : len ≤ 65536) (hmc : s.links.mcIn = []) :
    exec (.mcReserve (.good src) vat tag len n off) s = .next (s.mcReserve src vat tag len n off) := by
  have hdue : 1 ≤ len ∧ len ≤ 65536 ∧ (!(s.links.mcIn.any fun m => decide (m.src = src ∧ m.tag = tag))) = true := ⟨hmin, hmax, by simp [hmc]⟩
  exact congrArg Host.Outcome.next (if_pos hdue)

/-- A reservation as it is granted. -/
def State.granted (s : State) (src tag vat len n off : Nat) : McTarget := ⟨src, tag, vat, len, n, off, true, [], (s.window n).base⟩

/-- With no other reservation the pool has room: the request is granted at once. -/
theorem State.mcReserve_grants (hmax : len ≤ 65536) (hmc : s.links.mcIn = []) (hst : s.windowStatus src vat n off len true = 0) :
    s.mcReserve src vat tag len n off =
      (s.onLinks fun l => { l with mcIn := [s.granted src tag vat len n off] }).mcMsg src 0x11 vat 0 tag src [] := by
  have hroom : ¬2048 < 0 + mcFlits len := by
    have := mcFlits_le hmax
    omega
  rw [State.mcReserve, hst]
  simp only [ne_eq, not_true_eq_false, if_false, State.mcPool, State.mcGrants, State.onLinks, hmc, List.nil_append, List.length_cons,
    List.length_nil, List.find?_cons, Bool.not_false, State.mcHeld, List.filter_cons, List.filter_nil, Bool.false_eq_true, List.map_nil,
    List.sum_nil, hroom, List.map_cons, if_true]
  rfl

/-- A request that fails the checks of R195 is answered with its status. -/
theorem State.mcReserve_refused (hst : s.windowStatus src vat n off len true ≠ 0) :
    s.mcReserve src vat tag len n off = s.mcMsg src 0x11 vat (s.windowStatus src vat n off len true) tag src [] := if_pos hst

end

/-- A copy of one piece that is as long as the multicast is complete. -/
theorem McTarget.covered_whole {m : McTarget} {bs : List Byte} (hd : m.data = [(m.off, bs)]) (hl : bs.length = m.len) : m.covered = m.len := by
  have hall : (List.range m.len).filter (fun i => m.data.any fun d => decide (d.1 ≤ m.off + i ∧ m.off + i < d.1 + d.2.length)) =
      List.range m.len := List.filter_eq_self.mpr fun i hi => by
    have := List.mem_range.mp hi
    simp [hd, hl, this]
  rw [McTarget.covered, hall, List.length_range]

/-- COMMIT writes the complete copy of the one reservation and ends it. -/
theorem State.mcCommit_whole {s : State} {m : McTarget} {bs : List Byte} (hmc : s.links.mcIn = [m]) (hg : m.granted = true)
    (hd : m.data = [(m.off, bs)]) (hl : bs.length = m.len) :
    s.mcCommit m.src m.tag = (s.windowWrite m.vat m.base m.off bs).onLinks fun l => { l with mcIn := [] } := by
  have hof : s.mcOf m.src m.tag = some m := by simp [State.mcOf, hmc, hg]
  have hrest : (s.links.mcIn.filter fun x => decide (x ≠ m)) = [] := by simp [hmc]
  have hdone : (s.windowWrite m.vat m.base m.off bs).onLinks (fun l => { l with mcIn := l.mcIn.filter fun x => decide (x ≠ m) }) =
      (s.windowWrite m.vat m.base m.off bs).onLinks fun l => { l with mcIn := [] } := by
    change (s.windowWrite m.vat m.base m.off bs).onLinks (fun l => { s.links with mcIn := s.links.mcIn.filter fun x => decide (x ≠ m) }) = _
    rw [hrest]
    rfl
  simp only [State.mcCommit, hof, McTarget.covered_whole hd hl, ne_eq, not_true_eq_false, if_false, hd, List.foldl_cons, List.foldl_nil]
  exact congrArg State.mcPool hdone

theorem exec_mcCancel {s : State} {m : McTarget} (st : Nat) (hmc : s.links.mcIn = [m]) :
    exec (.mcCancel (.good m.src) m.tag st) s = .next { s with links := { s.links with mcIn := [] } } := by
  have hrest : (s.links.mcIn.filter fun x => !decide (x.src = m.src ∧ x.tag = m.tag)) = [] := by simp [hmc]
  change Host.Outcome.next (State.mcPool { s with links := { s.links with
    mcIn := s.links.mcIn.filter fun x => !decide (x.src = m.src ∧ x.tag = m.tag) } }) = _
  rw [hrest]
  rfl

/-! ### At the source (R193) -/

/-- The source's message of one piece of the data. -/
def McSource.piece (m : McSource) (node i : Nat) : Msg :=
  ⟨"WINDOW_WRITE", node, [m.vat, m.tag, m.window, m.off + 256 * i], (m.data.drop (256 * i)).take 256⟩

theorem State.mcSend_eq (s : State) (node : Nat) (m : McSource) :
    s.mcSend node m = { s with out := s.out ++ (List.range ((m.data.length + 255) / 256)).map (m.piece node) } :=
  State.foldl_send (m.piece node) _ s

/-- What a multicast that ends at its source leaves of the LINK block: it is no longer held, and its tag rests (R289). -/
def Links.without (l : Links) (m : McSource) (now : Nat) : Links :=
  { l with mcOut := l.mcOut.filter fun x => decide (x ≠ m), mcTags := mapPut l.mcTags m.tag now }

theorem Links.without_mcOut {l : Links} {m : McSource} (h : l.mcOut = [m]) (now : Nat) : (l.without m now).mcOut = [] := by simp [Links.without, h]

/-- Every target is told of the end of a multicast, and its end is reported. -/
theorem State.mcTell_spec (s : State) (m : McSource) (msg arg st : Nat) : ∃ ms, (m.targets.foldl (fun t n =>
      t.mcMsg n msg m.vat arg m.tag s.links.node []) (s.mcDrop m)).send "MC_END" s.links.node [m.tag, st] [] =
    { s with links := s.links.without m s.now, out := s.out ++ ms ++ [⟨"MC_END", s.links.node, [m.tag, st], []⟩] } := by
  obtain ⟨ms, hms⟩ := State.foldl_outs (fun t n => t.mcMsg_out n msg m.vat arg m.tag s.links.node []) m.targets (s.mcDrop m)
  exact ⟨ms, by rw [hms]; rfl⟩

theorem State.mcEnd_spec (s : State) (m : McSource) (st : Nat) : ∃ ms, s.mcEnd m st =
    { s with links := s.links.without m s.now, out := s.out ++ ms ++ [⟨"MC_END", s.links.node, [m.tag, st], []⟩] } := s.mcTell_spec m 0x14 st st

section
variable {s : State} {d : Nat} {m : McSource}

theorem State.mcFound (hmc : s.links.mcOut = [m]) (ht : m.targets = [d]) :
    (s.links.mcOut.find? fun x => decide (x.tag = m.tag) && x.targets.contains d) = some m := by simp [hmc, ht]

/-- A grant of the last target: the data leaves. -/
theorem exec_mcGrant_last (hmc : s.links.mcOut = [m]) (ht : m.targets = [d]) (hg : m.grants = []) (hsent : m.sent = false)
    (hport : s.wheyBlocked d 0 = false) : exec (.mcGrant (.good d) m.tag 0) s =
      .next ((s.onLinks fun l => { l with mcOut := [{ m with grants := [d], sent := true }] }).mcSend d m) := by
  change Host.Outcome.next (s.mcGrant d m.tag 0) = _
  rw [State.mcGrant, State.mcFound hmc ht]
  have hgrants : [d].eraseDups = [d] := by simp [List.eraseDups_cons]
  simp [ht, hg, hsent, hport, hmc, hgrants, State.onLinks]

/-- A refused grant ends the multicast (R193). -/
theorem exec_mcGrant_refused {st : Nat} (hmc : s.links.mcOut = [m]) (ht : m.targets = [d]) (hst : st ≠ 0) :
    exec (.mcGrant (.good d) m.tag st) s = .next (s.mcEnd m st) := by
  change Host.Outcome.next (s.mcGrant d m.tag st) = _
  rw [State.mcGrant, State.mcFound hmc ht]
  exact congrArg _ (if_pos hst)

/-- With the last copy COMMIT goes out. -/
theorem exec_mcAck_last (hmc : s.links.mcOut = [m]) (ht : m.targets = [d]) (hsent : m.sent = true) :
    exec (.mcAck (.good d) m.tag) s = .next ((m.targets.foldl (fun t n => t.mcMsg n 0x13 m.vat 0 m.tag s.links.node []) (s.mcDrop m)).send
      "MC_END" s.links.node [m.tag, 0] []) := by
  have hfound : (s.links.mcOut.find? fun x => decide (x.tag = m.tag) && x.targets.contains d && x.sent) = some m := by simp [hmc, ht, hsent]
  have hall : (m.targets.all fun x => ((m.acks ++ [d]).eraseDups).contains x) = true := by simp [ht]
  change Host.Outcome.next (s.mcAck d m.tag) = _
  rw [State.mcAck, hfound]
  exact congrArg _ (if_pos hall)

theorem exec_multicastStall (hmc : s.links.mcOut = [m]) (hlate : m.first + 1024 ≤ s.tick.count) : exec (.multicastStall m.tag) s =
    .next (((s.onLinks fun l => { l with stalls := sat32 l.stalls 1 }).note s.ccSource "MULTICAST_STALL" m.tag).mcEnd m 0x0702) := by
  have hfound : (s.links.mcOut.find? fun x => decide (x.tag = m.tag ∧ x.first + 1024 ≤ s.now)) = some m := by
    have hlate' : m.first + 1024 ≤ s.now := hlate
    simp [hmc, hlate']
  change Host.Outcome.next (s.mcStall m.tag) = _
  rw [State.mcStall, hfound]

end

/-! ### The statement -/

/-- Settles O11: the checks of a window give the status of each access, and each multicast message is one operation on the one multicast held. -/
theorem windowsAndMulticastAreChecked : Obligations.WindowsAndMulticastAreChecked := by
  unfold Obligations.WindowsAndMulticastAreChecked
  refine ⟨⟨?invalid, ?denied, ?outside, ?asks, ?lands, ?commit⟩, ?reserve, ?reserveRefused, ?grant, ?grantRefused, ?ack, ?mcCommit, ?cancel, ?stall⟩
  case invalid =>
    intro s src bad write p hok hk hport hmc hv
    exact exec_remoteWindowAccess_refused bad hok hk hport hmc (State.windowStatus_invalid hv) (by decide)
  case denied =>
    intro s src bad write p hok hk hport hmc hv hno
    exact exec_remoteWindowAccess_refused bad hok hk hport hmc (State.windowStatus_denied hv hno) (by decide)
  case outside =>
    intro s src bad write p x hok hk hport hmc hx hv hvat hlo hhi hperm hout
    exact exec_remoteWindowAccess_refused bad hok hk hport hmc (State.windowStatus_outside hx ⟨hv, hvat, hlo, hhi, hperm⟩ hout) (by decide)
  case asks =>
    intro s src k bad p x hok hk hx hv hvat hlo hhi hperm hin hp hend hslot hkey hf hmc hdata
    obtain ⟨hcount, hframe⟩ := s.windowAsk_hbm (len := 128 * p.dataSlots) (dpa := x.base + p.addr) p.cls src p.vat p.tag
      ((p.data.drop 96).take (128 * p.dataSlots)) bad (by omega) (by omega)
    exact ⟨_, exec_remoteWindowAccess_asks bad hok hk hx ⟨hv, hvat, hlo, hhi, hperm⟩ hin hp hend hslot hkey hf hmc hdata, hcount, hframe⟩
  case lands =>
    intro s a n src vat tag dpa len k y bs bad x r ha hfa hra harbs hq hc hheld hhere hw hfd hcave hslot _ hport
    obtain ⟨q, hlast⟩ := State.arbDecide_last harbs hq hc hheld hhere hw
    have hserve := State.windowServe_write (s := s.onQos fun _ => q) (src := src) (tag := tag) (bs := bs) bad hfd hcave hslot hport
    rw [exec_arbiterDecision ha hfa hra, hlast, hserve]
    exact ⟨_, rfl, rfl, rfl, rfl⟩
  case commit =>
    intro s n value hs hn hv
    exact ⟨_, exec_winCommit hs hn hv, mapGet_set_same .., fun k hk => mapGet_set_other _ _ _ hk, rfl⟩
  case reserve =>
    intro s src vat tag len n off hmin hmax hmc hst hport
    obtain ⟨m, hm, hkind, hdest, hargs, harg, htag⟩ := State.mcMsg_open
      (s := s.onLinks fun l => { l with mcIn := [s.granted src tag vat len n off] }) (node := src) 0x11 vat 0 tag src hport
    rw [exec_mcReserve hmin hmax hmc, State.mcReserve_grants hmax hmc hst, hm]
    exact ⟨_, m, rfl, rfl, rfl, hkind, hdest, hargs, harg, htag, rfl⟩
  case reserveRefused =>
    intro s src vat tag len n off hmin hmax hmc hst hport
    obtain ⟨m, hm, hkind, hdest, hargs, harg, -⟩ := State.mcMsg_open 0x11 vat (s.windowStatus src vat n off len true) tag src hport
    rw [exec_mcReserve hmin hmax hmc, State.mcReserve_refused hst, hm]
    exact ⟨_, m, rfl, rfl, hkind, hdest, hargs, harg, rfl⟩
  case grant =>
    intro s d tag m hmc htag ht hg hsent hport
    subst htag
    rw [exec_mcGrant_last hmc ht hg hsent hport, State.mcSend_eq]
    exact ⟨_, rfl, rfl, rfl, rfl⟩
  case grantRefused =>
    intro s d tag st m hmc htag ht hst
    subst htag
    obtain ⟨ms, hend⟩ := s.mcEnd_spec m st
    rw [exec_mcGrant_refused hmc ht hst, hend]
    exact ⟨_, rfl, Links.without_mcOut hmc _, by simp⟩
  case ack =>
    intro s d tag m hmc htag ht hsent
    subst htag
    obtain ⟨ms, hend⟩ := s.mcTell_spec m 0x13 0 0
    rw [exec_mcAck_last hmc ht hsent, hend]
    exact ⟨_, rfl, Links.without_mcOut hmc _, by simp, rfl⟩
  case mcCommit =>
    intro s src tag m bs hmc hsrc htag hg hd hl
    subst hsrc htag
    exact ⟨_, congrArg Host.Outcome.next (State.mcCommit_whole hmc hg hd hl), rfl, rfl, rfl⟩
  case cancel =>
    intro s src tag st m hmc hsrc htag
    subst hsrc htag
    exact exec_mcCancel st hmc
  case stall =>
    intro s tag m hmc htag hlate
    subst htag
    generalize ht : (s.onLinks fun l => { l with stalls := sat32 l.stalls 1 }).note s.ccSource "MULTICAST_STALL" m.tag = t
    obtain ⟨es, qs, hnote⟩ := (s.onLinks fun l => { l with stalls := sat32 l.stalls 1 }).note_frame s.ccSource "MULTICAST_STALL" m.tag
    have hevent := (s.onLinks fun l => { l with stalls := sat32 l.stalls 1 }).note_mem s.ccSource "MULTICAST_STALL" m.tag
    have hlinks : t.links = { s.links with stalls := sat32 s.links.stalls 1 } := by rw [← ht, hnote]; rfl
    obtain ⟨ms, hend⟩ := t.mcEnd_spec m 0x0702
    rw [exec_multicastStall hmc hlate, ht, hend]
    refine ⟨_, rfl, Links.without_mcOut (by rw [hlinks]; exact hmc) _, ?_, ?_, ⟨_, ht ▸ hevent, rfl, rfl⟩⟩
    · rw [hlinks, ← sat32_one]
      rfl
    · simp [hlinks]

end Sys2Proof.Machine
end

section
/-! A takeover by the deputy in a Tick that is full of events (R145, R286): of a TAKEOVER and the VAT_NO_SPARE that follows it, recorded before
255 events of higher sources, the 256 events kept hold the second alone. -/

namespace Sys2Proof.Machine
open Sys2Proof Sys2Proof.Safety

/-! ### Events before those of higher sources (R145) -/

/-- An event of the Tick of all the others, and of a lower source, is the first. -/
theorem insertEvent_first {e : Event} {es : List Event} (h : ∀ x ∈ es, x.tick = e.tick ∧ e.source < x.source) : insertEvent e es = e :: es := by
  have hafter : es.reverse.takeWhile (fun x => decide (x.tick = e.tick ∧ e.source < x.source)) = es.reverse := by
    have hall := List.takeWhile_append_of_pos (l₂ := []) fun x hx => decide_eq_true (h x (List.mem_reverse.mp hx))
    rwa [List.append_nil, List.takeWhile_nil, List.append_nil] at hall
  rw [insertEvent, hafter, List.length_reverse, List.reverse_reverse, Nat.sub_self, List.take_zero, List.nil_append]

/-- Recorded before the 255 newest events, an event drops whatever stood before them. -/
theorem State.note_first {s : State} {src : Nat} {es : List Event} (what : String) (arg : Nat)
    (hes : s.events.drop (s.events.length - 255) = es) (h : ∀ x ∈ es, x.tick = s.now ∧ s.source src < x.source) :
    (s.note src what arg).events = ⟨s.now, s.source src, mapGet 0 s.seqs src, what, arg⟩ :: es :=
  (congrArg (insertEvent _) hes).trans (insertEvent_first h)

/-- What an event is recorded with: the Tick, the node, the senior complex, the numbers given so far, the events kept. -/
theorem State.note_congr {s t : State} (htick : t.tick = s.tick) (hlinks : t.links = s.links) (hseqs : t.seqs = s.seqs)
    (hevents : t.events = s.events) (src : Nat) (what : String) (arg : Nat) : (t.note src what arg).events = (s.note src what arg).events := by
  change insertEvent ⟨t.tick.count, t.links.node * 256 + src, mapGet 0 t.seqs src, what, arg⟩ (t.events.drop (t.events.length - 255)) = _
  rw [htick, hlinks, hseqs, hevents]
  rfl

/-! ### A vat without spares loses a package (R283) -/

/-- A Running vat that has no spare, is none itself, and that no remould and no staged delta concerns. -/
structure State.Unspared (s : State) (vat : Nat) (v : Vat) : Prop where
  here    : s.vat? vat = some v
  running : v.state = .running
  moves   : v.moves = []
  spares  : v.desc.spares = []
  remould : (s.role vat).remould = none
  staged  : (s.role vat).staged = none

section
variable {s : State} {vat : Nat} {v : Vat}

/-- To halt such a vat alone changes its record and its roles. -/
theorem State.Unspared.abandon_eq (h : s.Unspared vat v) (status : Nat) :
    s.abandon vat status = { s with vats := (s.abandon vat status).vats, roles := (s.abandon vat status).roles } := by
  have hexcuse : s.excuse vat = s := if_neg (by simp [h.here, h.running])
  have hunstage : s.unstage vat = s := by simp [State.unstage, h.here, h.staged]
  have hback : ∀ t : State, (∀ u, t.vat? vat = some u → u.moves = []) → t.stepBack vat = t := fun t ht => by
    unfold State.stepBack
    cases hu : t.vat? vat with
    | none => rfl
    | some u => cases hm : u.mould <;> simp [hm, ht u hu]
  rw [State.abandon, hexcuse]
  simp only [h.remould, hunstage]
  rw [hback]
  · rfl
  · intro u hu
    have hsame : v = u := by simpa [h.here, h.running] using hu
    exact hsame ▸ h.moves

theorem State.sendHalt_events (s : State) (vat b : Nat) : (s.sendHalt vat b).events = s.events := by
  unfold State.sendHalt
  split
  · rfl
  · next u _ =>
    obtain ⟨m, hm⟩ := s.control_out u 0x02 (s.lpkgNode u u.headLpkg) b 0 []
    rw [hm]
    rfl

/-- That it has no spare is the one event of it. -/
theorem State.Unspared.noSpare_events (h : s.Unspared vat v) :
    (s.noSpare vat).events = (s.note s.ccSource "VAT_NO_SPARE" 0x0721).events := by
  have habandon := h.abandon_eq 0x0723
  have hnote : ((s.abandon vat 0x0723).note s.ccSource "VAT_NO_SPARE" 0x0721).events = (s.note s.ccSource "VAT_NO_SPARE" 0x0721).events :=
    State.note_congr (by rw [habandon]) (by rw [habandon]) (by rw [habandon]) (by rw [habandon]) _ _ _
  unfold State.noSpare
  dsimp only
  split
  · rw [State.sendHalt_events, hnote]
  · exact hnote

theorem State.Unspared.spareFor_none (h : s.Unspared vat v) (l : Nat) : s.spareFor v l = none := by
  have hnone : s.usableMoves v = [] := by
    unfold State.usableMoves
    split
    · rfl
    · simp [h.spares]
  rw [State.spareFor, hnone]
  rfl

/-- To lose a package that stands at a node is to be without a spare for it. -/
theorem State.Unspared.lose_events (h : s.Unspared vat v) {node l : Nat} (hl : s.lpkgAt v node = some l) :
    (s.lose vat node).events = (s.note s.ccSource "VAT_NO_SPARE" 0x0721).events := by
  generalize hu : (s.onRole vat fun r => { r with lost := r.lost ++ [l] }) = u
  have hrole : u.role vat = { s.role vat with lost := (s.role vat).lost ++ [l] } := by rw [← hu, State.role_onRole_same]
  have hunspared : u.Unspared vat v :=
    ⟨by rw [← hu]; exact h.here, h.running, h.moves, h.spares, by rw [hrole]; exact h.remould, by rw [hrole]; exact h.staged⟩
  have hmoves : s.movesNow vat = [] := by simp [State.movesNow, h.remould]
  have hlose : s.lose vat node = u.noSpare vat := by
    rw [State.lose, h.here]
    simp only [hmoves, List.find?_nil, hl, hu]
    simp [State.replacePkg, hunspared.here, hunspared.remould, hunspared.spareFor_none]
  rw [hlose, hunspared.noSpare_events, ← hu]
  rfl

/-- A takeover after which the old time master's package has no spare records both, one after the other (R283, R286). -/
theorem State.Unspared.deputyTakes_events (h : s.Unspared vat v) {l : Nat} (hl : s.lpkgAt v (s.lpkgNode v v.desc.tm) = some l) :
    (s.deputyTakes vat).events = ((s.note s.ccSource "TAKEOVER" v.desc.tm).note s.ccSource "VAT_NO_SPARE" 0x0721).events := by
  obtain ⟨es, qs, hnote⟩ := s.note_frame s.ccSource "TAKEOVER" v.desc.tm
  generalize hn : s.note s.ccSource "TAKEOVER" v.desc.tm = n at hnote ⊢
  have hsends : ∀ (w : Nat → Nat) (t : State) (k : Nat), ∃ ms, t.control v 0x06 (w k) s.now 0 [] = { t with out := t.out ++ ms } :=
    fun w t k => (t.control_out v 0x06 (w k) s.now 0 []).imp' (fun m => [m]) fun _ hm => hm
  obtain ⟨ms, hmembers⟩ := State.foldl_outs (hsends (n.lpkgNode v)) (List.range v.packages) n
  obtain ⟨ns, hstandbys⟩ := State.foldl_outs (hsends id) (s.standbyNodes v) { n with out := n.out ++ ms }
  generalize hu : ((({ n with out := n.out ++ ms ++ ns } : State).onVat vat fun v => { v with acting := some v.lpkg }).onRole vat fun r =>
    { r with downs := r.downs ++ [(s.lpkgNode v v.desc.tm, s.links.node, s.now)] }) = u
  have hrun : s.deputyTakes vat = u.lose vat (s.lpkgNode v v.desc.tm) := by
    have hbound : ¬v.state = .bound := by simp [h.running]
    have hsent : (s.standbyNodes v).foldl (fun t k => t.control v 0x06 k s.now 0 []) (n.controlAll v 0x06 s.now 0 []) =
        { n with out := n.out ++ ms ++ ns } := by
      rw [State.controlAll, hmembers]
      exact hstandbys
    rw [State.deputyTakes, h.here]
    simp only [hn, hsent, hu, hbound, if_false]
  have hunspared : u.Unspared vat { v with acting := some v.lpkg } := by
    have hvat : u.vat? vat = some { v with acting := some v.lpkg } := by
      rw [← hu, State.vat?_onRole, State.vat?_onVat_same, hnote]
      exact congrArg (Option.map _) h.here
    have hrole : u.role vat = { s.role vat with downs := (s.role vat).downs ++ [(s.lpkgNode v v.desc.tm, s.links.node, s.now)] } := by
      rw [← hu, State.role_onRole_same, hnote]
      rfl
    exact ⟨hvat, h.running, h.moves, h.spares, by rw [hrole]; exact h.remould, by rw [hrole]; exact h.staged⟩
  have hlpkg : u.lpkgAt { v with acting := some v.lpkg } (s.lpkgNode v v.desc.tm) = some l := by
    rw [← hl, ← hu, hnote]
    rfl
  have hcc : u.ccSource = s.ccSource := by
    rw [← hu, hnote]
    rfl
  rw [hrun, hunspared.lose_events hlpkg, hcc]
  exact State.note_congr (by rw [← hu]; rfl) (by rw [← hu]; rfl) (by rw [← hu]; rfl) (by rw [← hu]; rfl) _ _ _

/-- Where 255 events of this Tick, from sources above the control complex, are the newest, the second event drops the first. -/
theorem State.Unspared.takeover_dropped (h : s.Unspared vat v) {l : Nat} (hl : s.lpkgAt v (s.lpkgNode v v.desc.tm) = some l)
    (hfull : s.events.length = 255) (habove : ∀ x ∈ s.events, x.tick = s.now ∧ s.source s.ccSource < x.source) :
    ∃ e, (s.deputyTakes vat).events = e :: s.events ∧ e.what = "VAT_NO_SPARE" := by
  obtain ⟨es, qs, hnote⟩ := s.note_frame s.ccSource "TAKEOVER" v.desc.tm
  have hfirst := State.note_first (src := s.ccSource) (es := s.events) "TAKEOVER" v.desc.tm (by rw [hfull]; rfl) habove
  have hsecond := h.deputyTakes_events hl
  generalize s.note s.ccSource "TAKEOVER" v.desc.tm = n at hnote hfirst hsecond
  have hdrop : n.events.drop (n.events.length - 255) = s.events := by
    rw [hfirst, List.length_cons, hfull, Nat.add_sub_cancel_left, List.drop_succ_cons, List.drop_zero]
  have habove' : ∀ x ∈ s.events, x.tick = n.now ∧ n.source s.ccSource < x.source := by
    rw [hnote]
    exact habove
  exact ⟨_, hsecond.trans (State.note_first "VAT_NO_SPARE" 0x0721 hdrop habove'), rfl⟩

end

/-! ### The statement -/

/-- A Running vat of two packages, this one its deputy, with no spare. -/
def deputyVat : Vat := { newVat ⟨7, 2, 0, 0, 1, [], 0, []⟩ 1 [] with state := .running }

/-- A package that runs it, has recorded some events, and has heard nothing of the time master for 8,192 Ticks. -/
def deputyAlone (es : List Event) : State := { State.reset with
  tick := { State.reset.tick with count := 8192 }, vats := [(7, deputyVat)], events := es }

/-- An event of port 0 in the Tick of the takeover. -/
def portFell : Event := ⟨8192, 8, 0, "PORT_DOWN", 0⟩

/-- A deputy that has had no report for 8,192 Ticks of a Running vat takes over (R286). -/
theorem exec_deputyTakeover {s : State} {vat : Nat} {u : Vat} (hu : s.vat? vat = some u) (hrole : u.role = .member)
    (hdeputy : u.lpkg = u.desc.deputy) (hother : u.desc.deputy ≠ u.masterLpkg) (hacting : u.acting = none)
    (hlate : (s.role vat).reported + 8192 ≤ s.tick.count) (hrun : u.state = .running) :
    exec (.deputyTakeover vat) s = .next (s.deputyTakes vat) := by
  have hlate' : (s.role vat).reported + 8192 ≤ s.now := hlate
  have hsilent : s.silent vat = true := by
    simp [State.silent, hu, Vat.isDeputy, Vat.isMember, hrole, hdeputy, hother, hacting, hlate', hrun]
  exact congrArg _ (if_pos hsilent)

/-- Refutes O14, by its clause on the takeover: where 255 events of ports stand in the Tick of the takeover, the VAT_NO_SPARE that follows drops
the TAKEOVER event, the oldest of the 256 that are kept (R145). -/
theorem not_vatsLoseMembersAndHalt : ¬ Obligations.VatsLoseMembersAndHalt := by
  unfold Obligations.VatsLoseMembersAndHalt
  rintro ⟨-, -, -, -, -, -, -, -, -, htakeover, -⟩
  generalize hes : List.replicate 255 portFell = es
  have hmem : ∀ x ∈ es, x = portFell := fun x hx => List.eq_of_mem_replicate (by rwa [hes])
  have hfull : es.length = 255 := by rw [← hes, List.length_replicate]
  have hother : deputyVat.desc.deputy ≠ deputyVat.masterLpkg := by decide
  have hlate : ((deputyAlone es).role 7).reported + 8192 ≤ (deputyAlone es).tick.count := Nat.le_refl _
  obtain ⟨t, -, hexec, -, -, -, ⟨e, he, hwhat, -⟩, -⟩ :=
    htakeover (deputyAlone es) 7 deputyVat rfl rfl rfl rfl hother rfl hlate rfl rfl rfl rfl
  have hunspared : (deputyAlone es).Unspared 7 deputyVat := ⟨rfl, rfl, rfl, rfl, rfl, rfl⟩
  have hsource : (deputyAlone es).source (deputyAlone es).ccSource = 4 := by
    have hsenior : (deputyAlone es).senior = 0 := rfl
    have hnode : (deputyAlone es).links.node = 0 := rfl
    rw [State.source, State.ccSource, hsenior, hnode]
  obtain ⟨e', hevents, hwhat'⟩ := hunspared.takeover_dropped (l := 0) rfl hfull fun x hx => by
    rw [hmem x hx, hsource]
    exact ⟨rfl, by decide⟩
  have ht : (deputyAlone es).deputyTakes 7 = t :=
    Host.Outcome.next.inj ((exec_deputyTakeover (u := deputyVat) rfl rfl rfl hother rfl hlate rfl).symm.trans hexec)
  rw [← ht, hevents] at he
  rcases List.mem_cons.mp he with rfl | hold
  · exact absurd (hwhat'.symm.trans hwhat) (by decide)
  · rw [hmem e hold] at hwhat
    exact absurd hwhat (by decide)

end Sys2Proof.Machine
end

section
/-! Journals (R455 to R459): what an added record and a compaction leave in the bank in force; then the statement on compactions. -/

namespace Sys2Proof.Machine
open Sys2Proof Sys2Proof.Safety

/-! ### Banks (R455) -/

/-- Records added to the bank in force leave it in force. -/
theorem Journal.bank_append (j : Journal) (rs : List JRec) :
    (j.onBank fun b => { b with recs := b.recs ++ rs }).bank = { j.bank with recs := j.bank.recs ++ rs } := by
  unfold Journal.onBank
  split
  · next hb =>
    have hb' : ({ j with b := { j.b with recs := j.b.recs ++ rs } } : Journal).bActive = true := hb
    rw [Journal.bank, Journal.bank, if_pos hb, if_pos hb']
  · next ha =>
    have ha' : ¬ ({ j with a := { j.a with recs := j.a.recs ++ rs } } : Journal).bActive = true := ha
    rw [Journal.bank, Journal.bank, if_neg ha, if_neg ha']

/-- A rebuilt journal has in force the bank that was not, above both epochs. -/
theorem Journal.bank_rebuilt (j : Journal) (rs : List JRec) : (j.rebuilt rs).bank = ⟨max j.a.epoch j.b.epoch + 1, true, rs⟩ := by
  unfold Journal.rebuilt
  dsimp only
  split
  · have hlower : ¬ max j.a.epoch j.b.epoch + 1 < j.b.epoch := by omega
    simp [Journal.bank, Journal.bActive, hlower]
  · have hhigher : j.a.epoch < max j.a.epoch j.b.epoch + 1 := by omega
    simp [Journal.bank, Journal.bActive, hhigher]

/-! ### Numbers of records (R457) -/

theorem numbered_data (n : Nat) (l : List JData) : (numbered n l).map (·.data) = l := by
  rw [numbered, List.map_map]
  exact List.zipIdx_map_fst 0 l

theorem numbered_jseq {n i : Nat} {l : List JData} {r : JRec} (h : (numbered n l)[i]? = some r) : r.jseq = n + i := by
  rw [numbered, List.getElem?_map, List.getElem?_zipIdx] at h
  cases hl : l[i]? with
  | none => simp [hl] at h
  | some d =>
    rw [hl] at h
    simpa using (congrArg JRec.jseq (Option.some.inj h)).symm

/-! ### The journal of half 0 (R459) -/

section
variable {s : State}

/-- What the journal holds is read from the journals, of the half of the senior complex. -/
theorem State.jdata_congr {t : State} (hcc : t.cc = s.cc) (h0 : t.j0 = s.j0) (h1 : t.j1 = s.j1) : t.jdata = s.jdata := by
  have hstate : ∀ k, t.isSenior k = s.isSenior k := fun k => by rw [State.isSenior, State.isSenior, State.cplx, State.cplx, hcc]
  have hsenior : t.senior = s.senior := by rw [State.senior, State.senior, hstate 1, hstate 0]
  rw [State.jdata, State.jdata, State.journal, State.journal, hsenior, h0, h1]

@[simp] theorem State.jdata_onBoot (f : Boot → Boot) : (s.onBoot f).jdata = s.jdata := State.jdata_congr rfl rfl rfl
@[simp] theorem State.jdata_onVat (vat : Nat) (f : Vat → Vat) : (s.onVat vat f).jdata = s.jdata := State.jdata_congr rfl rfl rfl
@[simp] theorem State.jdata_finish (q : CmdRef) (st : Nat) : (s.finish q st).jdata = s.jdata := State.jdata_congr rfl rfl rfl

theorem State.jdata_half0 (h : s.senior = 0) : s.jdata = s.j0.recs.map (·.data) := by rw [State.jdata, State.journal, if_pos h]

theorem State.jReach_half0 (h : s.senior = 0) : s.jReach 0 = true := by simp [State.jReach, h]

theorem State.journalAdd_jdata (h : s.senior = 0) (d : JData) : (s.journalAdd d).jdata = s.jdata ++ [d] := by
  have hj0 : (s.journalAdd d).j0 = s.j0.onBank fun b => { b with recs := b.recs ++ [⟨max s.j0.last s.j1.last + 1, d⟩] } := by
    rw [State.journalAdd, if_pos (State.jReach_half0 h)]
    rfl
  have hsenior : (s.journalAdd d).senior = 0 := by rw [State.journalAdd_eq]; exact h
  rw [State.jdata_half0 hsenior, State.jdata_half0 h, Journal.recs, Journal.recs, hj0, Journal.bank_append]
  exact List.map_append

/-- A compaction rebuilds the journal from the records it keeps, numbered on from the last one. -/
theorem State.compact_j0 (h : s.senior = 0) (l : List JData) :
    (s.compact l).j0 = s.j0.rebuilt (numbered (max s.j0.last s.j1.last + 1) l) := by
  rw [State.compact, if_pos (State.jReach_half0 h)]
  rfl

theorem State.compact_eq (s : State) (l : List JData) : s.compact l = { s with j0 := (s.compact l).j0, j1 := (s.compact l).j1 } := by
  unfold State.compact
  dsimp only
  split <;> rfl

theorem State.compact_jdata (h : s.senior = 0) (l : List JData) : (s.compact l).jdata = l := by
  have hsenior : (s.compact l).senior = 0 := by rw [State.compact_eq]; exact h
  rw [State.jdata_half0 hsenior, State.compact_j0 h, Journal.recs, Journal.bank_rebuilt, numbered_data]

/-- With little space free a compaction takes place. -/
theorem exec_journalCompaction (h : s.journal.free < 262144) : exec .journalCompaction s =
    .next (s.compact ((keptSet s.tick.count s.jdata).flatMap (JData.merged (mergeMeters s.meters)))) :=
  congrArg _ (if_pos (decide_eq_true h))

theorem exec_meterCompaction (h : s.journal.free < 262144) : exec .meterCompaction s =
    .next (s.compact (s.jdata.flatMap (JData.merged (mergeMeters s.meters)))) := congrArg _ (if_pos (decide_eq_true h))

end

/-! ### The statement -/

/-- Settles O46: what a compaction keeps is the content of the rebuilt bank. -/
theorem journalCompacts : Obligations.JournalCompacts := by
  unfold Obligations.JournalCompacts
  refine ⟨?journal, ?meters⟩
  case journal =>
    intro s hfree hsenior
    refine ⟨_, exec_journalCompaction hfree, State.compact_jdata hsenior _, fun i r hr => ?_, ?_, State.compact_eq _ _⟩
    · rw [State.compact_j0 hsenior, Journal.recs, Journal.bank_rebuilt] at hr
      exact numbered_jseq hr
    · rw [State.compact_j0 hsenior, Journal.bank_rebuilt]
  case meters =>
    intro s hfree hsenior
    exact ⟨_, exec_meterCompaction hfree, State.compact_jdata hsenior _, State.compact_eq _ _⟩

end Sys2Proof.Machine
end

section
/-! Host commands whose effect is due: a command that is finished, and lists of commands that end together (R272, R273, R304). -/

namespace Sys2Proof.Machine
open Sys2Proof Sys2Proof.Safety

variable {s : State} {r : CmdRef} {c : Cmd} {op : Nat}

/-! ### Commands, vats and roles are held apart -/

@[simp] theorem State.vat?_onCmd (s : State) (r : CmdRef) (f : Cmd → Cmd) (v : Nat) : (s.onCmd r f).vat? v = s.vat? v := rfl
@[simp] theorem State.role_onCmd (s : State) (r : CmdRef) (f : Cmd → Cmd) (v : Nat) : (s.onCmd r f).role v = s.role v := rfl

@[simp] theorem State.cmd?_onRole (s : State) (v : Nat) (f : VatRole → VatRole) (r : CmdRef) : (s.onRole v f).cmd? r = s.cmd? r := rfl
@[simp] theorem State.vat?_finish (s : State) (r : CmdRef) (st v : Nat) : (s.finish r st).vat? v = s.vat? v := rfl
@[simp] theorem State.role_finish (s : State) (r : CmdRef) (st v : Nat) : (s.finish r st).role v = s.role v := rfl

/-! ### Due commands -/

/-- A due command whose own check passes has its effect. -/
theorem State.checked_due {check : State → Cmd → Nat} (h : CmdDue s r op c) (h0 : check s c = 0) (f : Cmd → State) :
    s.checked r op check f = f c := by
  obtain ⟨hc, hp, ho, hb, ha⟩ := h
  exact State.checked_ok s r op check f c hc hp ho hb ha h0

theorem State.onDue_due (h : CmdDue s r op c) (f : Cmd → State) : s.onDue r op f = f c := by
  obtain ⟨hc, hp, ho, hb, ha⟩ := h
  exact State.onDue_ok s r op f c hc hp ho hb ha

/-- A command that has not ended ends with the status it is finished with. -/
theorem State.cmd?_finish_open (hc : s.cmd? r = some c) (hp : c.phase ≠ .done) (st : Nat) :
    (s.finish r st).cmd? r = some { c with phase := .done, status := st } := by
  rw [State.cmd?_finish, hc, Option.map_some, if_neg hp]

theorem State.open_of_due (h : CmdDue s r op c) : c.phase ≠ .done := by
  obtain ⟨-, hp, -⟩ := h
  simp [hp]

/-- A command set to wait. -/
theorem State.cmd?_waiting (hc : s.cmd? r = some c) :
    (s.onCmd r fun c => { c with phase := .waiting }).cmd? r = some { c with phase := .waiting } := by
  have hkeeps : ∀ c : Cmd, c.ref = r → ({ c with phase := .waiting } : Cmd).ref = r := fun _ h => h
  rw [State.cmd?_onCmd_same s r _ hkeeps, hc, Option.map_some]

/-! ### Commands that end together -/

/-- Commands finish with one status. -/
def State.finishAll (s : State) (l : List CmdRef) (st : Nat) : State := l.foldl (fun t q => t.finish q st) s

theorem State.finishAll_append (s : State) (l : List CmdRef) (q : CmdRef) (st : Nat) :
    s.finishAll (l ++ [q]) st = (s.finishAll l st).finish q st := List.foldl_append

theorem State.finishAll_eq (s : State) (l : List CmdRef) (st : Nat) :
    s.finishAll l st = { s with objs := { s.objs with cmds := (s.finishAll l st).objs.cmds } } := by
  refine List.foldlRecOn (motive := fun t : State => t = { s with objs := { s.objs with cmds := t.objs.cmds } }) l _ rfl fun t ht q _ => ?_
  rw [State.finish_eq, ht]

@[simp] theorem State.vat?_finishAll (s : State) (l : List CmdRef) (st v : Nat) : (s.finishAll l st).vat? v = s.vat? v :=
  State.vat?_congr (by rw [State.finishAll_eq]) v

@[simp] theorem State.role_finishAll (s : State) (l : List CmdRef) (st v : Nat) : (s.finishAll l st).role v = s.role v :=
  State.role_congr (by rw [State.finishAll_eq]) v

/-- Each of them that had not ended has ended with it. -/
theorem State.cmd?_finishAll {l : List CmdRef} {q : CmdRef} (hq : q ∈ l) (hc : s.cmd? q = some c) (hp : c.phase ≠ .done) (st : Nat) :
    (s.finishAll l st).cmd? q = some { c with phase := .done, status := st } := by
  induction l generalizing s with
  | nil => cases hq
  | cons x l ih =>
    have hrest : ∀ t : State, t.cmd? q = some { c with phase := .done, status := st } →
        (t.finishAll l st).cmd? q = some { c with phase := .done, status := st } := fun t ht =>
      List.foldlRecOn (motive := fun u : State => u.cmd? q = some { c with phase := .done, status := st }) l _ ht fun u hu y _ => by
        by_cases hy : q = y
        · rw [← hy, State.cmd?_finish, hu]
          simp
        · rw [State.cmd?_finish_other _ _ hy, hu]
    by_cases hx : q = x
    · exact hrest _ (hx ▸ State.cmd?_finish_open hc hp st)
    · exact ih ((List.mem_cons.mp hq).resolve_left hx) ((State.cmd?_finish_other s st hx).trans hc)

end Sys2Proof.Machine
end

section
/-! Arbiters (R325 to R327, R330, R331): what a decision grants, and what the release of bursts and a new request leave of the other requests. -/

namespace Sys2Proof.Machine
open Sys2Proof Sys2Proof.Safety

/-! ### The burst a decision picks (R325, R326) -/

theorem earliest_mem {l : List ArbReq} {r : ArbReq} (h : earliest l = some r) : r ∈ l := by
  cases l with
  | nil => cases h
  | cons x l =>
    refine Option.some.inj h ▸ List.foldlRecOn (motive := (· ∈ x :: l)) l _ List.mem_cons_self fun b hb y hy => ?_
    split
    · exact List.mem_cons_of_mem _ hy
    · exact hb

section
variable {x : Arbiter} {r : ArbReq}

theorem Arbiter.mem_of_headOf {c : Nat} (h : x.headOf c = some r) : r ∈ x.queue := (List.mem_filter.mp (earliest_mem h)).1

theorem Arbiter.mem_of_heads (h : r ∈ x.heads) : r ∈ x.queue := by
  obtain ⟨c, -, hc⟩ := List.mem_filterMap.mp h
  exact Arbiter.mem_of_headOf hc

/-- A decision picks one of the requests that wait. -/
theorem Arbiter.mem_of_decide? {prio : List Nat} (h : x.decide? prio = some r) : r ∈ x.queue := by
  unfold Arbiter.decide? at h
  split at h
  · next hhead => exact Option.some.inj h ▸ Arbiter.mem_of_headOf hhead
  · split at h
    · exact Arbiter.mem_of_heads (earliest_mem h)
    · obtain ⟨c, -, hc⟩ := Option.bind_eq_some_iff.mp h
      exact Arbiter.mem_of_headOf hc

/-- A grant moves no burst to its source. -/
theorem Arbiter.grant_held (h : ∀ y ∈ x.queue, y.held = 0) (hr : r ∈ x.queue) (a : Nat) (prio : List Nat) (bursts : Nat) :
    ∀ y ∈ (x.grant a prio bursts r).queue, y.held = 0 := by
  intro y hy
  obtain ⟨z, hz, rfl⟩ := List.mem_map.mp (List.mem_filter.mp hy).1
  split
  · exact h r hr
  · exact h z hz

theorem Arbiter.revoked_free (h : x.holder = none) : x.revoked r = none := by rw [Arbiter.revoked, h]

end

/-! ### Release from the source (R330) -/

/-- With no burst at its source nothing is released. -/
theorem Qos.release_idle {q : Qos} (h : ∀ e ∈ q.arbs, ∀ y ∈ e.2.queue, y.held = 0) (part : Nat → Nat) (now : Nat) :
    q.release part now = q := by
  have hnone : q.atSource = [] := by
    have hfilter : ((q.arbs.flatMap fun a => a.2.queue.map fun r => (a.1, r)).filter fun e => decide (e.2.held ≠ 0)) = [] := by
      rw [List.filter_eq_nil_iff]
      intro p hp
      obtain ⟨e, he, hpe⟩ := List.mem_flatMap.mp hp
      obtain ⟨y, hy, rfl⟩ := List.mem_map.mp hpe
      simp [h e he y hy]
    rw [Qos.atSource, hfilter]
    rfl
  rw [Qos.release, hnone, Qos.releaseAll]

/-! ### A decision (R326, R327, R334, R431) -/

theorem State.onCtx_congr {s : State} {c : Nat} {f g : Context → Context} (h : f (s.ctx c) = g (s.ctx c)) : s.onCtx c f = s.onCtx c g :=
  congrArg (fun x => s.onObjs fun o => { o with ctxs := mapSet Context.empty o.ctxs c x }) h

/-- The block after a decision has granted a burst. -/
def State.granting (s : State) (a : Nat) (q : ArbReq) : Qos :=
  { s.qos with arbs := mapSet Arbiter.empty s.qos.arbs a ((s.arb a).grant a s.qos.active.prio s.qos.active.bursts q) }

/-- The power state once a granted burst has counted as activity of its context. -/
def State.burstPower (s : State) (a : Nat) (q : ArbReq) : Power :=
  match q.ref with
  | some k => (s.wheyUse k.ctx 3 (if a < 512 then 4 else 0)).power
  | none => s.power

section
variable {s : State} {a : Nat} {q : ArbReq}

theorem State.wheyActivity_eq (s : State) (a : Nat) (q : ArbReq) : s.wheyActivity a q = { s with power := s.burstPower a q } := by
  rw [State.wheyActivity, State.burstPower]
  cases q.ref with
  | none => rfl
  | some k => rfl

/-- The grant of a command's burst, or of traffic, brings nothing more at its memory. -/
theorem State.workActs_idle (s : State) (h : (∃ k, q.work = .command k) ∨ q.work = .traffic) : s.workActs q.work = s := by
  rcases h with ⟨k, hk⟩ | ht
  · rw [hk, State.workActs]
  · rw [ht, State.workActs]

/-- A decision with no grant revoked: the burst is granted and counted, then sources release what they may. -/
theorem State.arbDecide_grants (hq : (s.arb a).decide? s.qos.active.prio = some q) (hw : (∃ k, q.work = .command k) ∨ q.work = .traffic)
    (hfree : (s.arb a).revoked q = none) :
    s.arbDecide a = { s with qos := (s.granting a q).release s.partOf s.now, power := s.burstPower a q } := by
  rw [State.arbDecide]
  simp only [hq, hfree, State.wheyActivity_eq, State.workActs_idle _ hw]
  rfl

/-- With a grant revoked its holder is counted first. -/
theorem State.arbDecide_revokes {y : ArbReq} {k : CmdRef} (hq : (s.arb a).decide? s.qos.active.prio = some q)
    (hw : (∃ k, q.work = .command k) ∨ q.work = .traffic) (hy : (s.arb a).revoked q = some y) (hk : y.ref = some k)
    (hconf : (s.ctx k.ctx).conf = false) :
    s.arbDecide a = { s.onCtx k.ctx (fun x => { x with preempts := sat32 x.preempts 1 }) with
      qos := (s.granting a q).release s.partOf s.now, power := s.burstPower a q } := by
  have hpreempt : s.preempt y = s.onCtx k.ctx fun x => { x with preempts := sat32 x.preempts 1 } := by
    rw [State.preempt, hk]
    exact State.onCtx_congr (if_neg (by simp [hconf]))
  rw [State.arbDecide]
  simp only [hq, hy, hpreempt, State.wheyActivity_eq, State.workActs_idle _ hw]
  rfl

/-- Where nothing waits at its source before a grant, nothing does after it. -/
theorem State.granting_held (hq : (s.arb a).decide? s.qos.active.prio = some q) (h : ∀ e ∈ s.qos.arbs, ∀ y ∈ e.2.queue, y.held = 0) :
    ∀ e ∈ (s.granting a q).arbs, ∀ y ∈ e.2.queue, y.held = 0 := by
  have harb : ∀ y ∈ (s.arb a).queue, y.held = 0 := by
    rcases mapGet_mem Arbiter.empty s.qos.arbs a with hmem | hempty
    · exact h _ hmem
    · intro y hy
      rw [State.arb, hempty] at hy
      cases hy
  intro e he
  rcases mem_mapSet he with rfl | he
  · exact Arbiter.grant_held harb (Arbiter.mem_of_decide? hq) a _ _
  · exact h e he

/-- An arbiter whose channel is in its refresh window decides nothing (R153). -/
theorem exec_arbiterDecision_refresh (h : s.arbRefreshes a = true) : exec (.arbiterDecision a) s = .next s :=
  congrArg _ (if_neg (by simp [h]))

end

/-! ### The head of a queue stays (R325, R330) -/

/-- A change of the entry at a key shows there, where it leaves the default as it is. -/
theorem mapGet_modify_same {α : Type} {d : α} {f : α → α} (hd : f d = d) (m : SMap α) (k : Nat) :
    mapGet d (mapModify m k f) k = f (mapGet d m k) := by
  induction m with
  | nil => exact hd.symm
  | cons p m ih =>
    rw [mapModify] at ih ⊢
    by_cases hk : p.1 = k
    · simp [mapGet, hk]
    · simp [mapGet, hk, ih]

theorem mapGet_modify_other {α : Type} (d : α) (f : α → α) (m : SMap α) {k n : Nat} (h : n ≠ k) :
    mapGet d (mapModify m k f) n = mapGet d m n := by
  induction m with
  | nil => rfl
  | cons p m ih =>
    rw [mapModify] at ih ⊢
    by_cases hk : p.1 = k
    · simp [mapGet, hk, h.symm, ih]
    · simp [mapGet, hk, ih]

/-- The first request of an arbiter. -/
def Qos.first (q : Qos) (a : Nat) : Option ArbReq := (mapGet Arbiter.empty q.arbs a).queue.head?

section
variable {q : Qos} {a : Nat} {r : ArbReq}

/-- The release of bursts of another stream leaves the first request of every arbiter. -/
theorem Qos.first_releaseOne (hr : q.first a = some r) (part : Nat → Nat) (now b : Nat) {x : ArbReq} (hx : r.stream ≠ x.stream) :
    (q.releaseOne part now b x).first a = some r := by
  unfold Qos.releaseOne
  extract_lets x1 n k m x2
  have hstream : x2.stream = x.stream := by
    unfold x2
    split <;> rfl
  unfold Qos.first at hr ⊢
  dsimp only
  by_cases hab : a = b
  · subst hab
    rw [mapGet_modify_same rfl, List.head?_map, hr]
    simp [hstream, hx]
  · rw [mapGet_modify_other _ _ _ hab, hr]

/-- A new request takes its place behind those of its arbiter. -/
theorem Qos.first_request (hr : q.first a = some r) (b cls part n : Nat) (w : ArbWork) : (q.request b cls part n w).first a = some r := by
  unfold Qos.request
  split
  · exact hr
  · unfold Qos.first at hr ⊢
    dsimp only
    by_cases hab : a = b
    · subst hab
      rw [mapGet_set_same, List.head?_append, hr, Option.some_or]
    · rw [mapGet_set_other _ _ _ hab, hr]

/-- A request that enters leaves the first request of every arbiter, whose number is below its own. -/
theorem Qos.first_enter (hr : q.first a = some r) (hs : r.stream < q.streams) (now b cls n : Nat) (w : ArbWork) :
    (q.enter now b cls n w).first a = some r := by
  refine List.foldlRecOn (motive := fun u : Qos => u.first a = some r) _ _ (Qos.first_request hr b cls 0 n w) fun u hu e he => ?_
  have hstream : e.2.stream = q.streams := of_decide_eq_true (List.mem_filter.mp he).2
  exact Qos.first_releaseOne hu _ _ _ (by omega)

/-- A request that enters changes the requests, their count and the buckets alone. -/
theorem Qos.enter_eq (q : Qos) (now b cls n : Nat) (w : ArbWork) : ∃ arbs streams buckets,
    q.enter now b cls n w = { q with arbs := arbs, streams := streams, buckets := buckets } := by
  refine List.foldlRecOn (motive := fun u : Qos => ∃ arbs streams buckets, u = { q with arbs := arbs, streams := streams, buckets := buckets })
    _ _ ?_ ?_
  · unfold Qos.request
    split
    · exact ⟨_, _, _, rfl⟩
    · exact ⟨_, _, _, rfl⟩
  · rintro u ⟨arbs, streams, buckets, rfl⟩ e -
    exact ⟨_, _, _, rfl⟩

end

/-! ### Wait limits (R331) -/

/-- Raising a vector leaves the first request of every arbiter, and the counts of missed guarantees. -/
theorem State.raise_qos {s : State} {a : Nat} {r : ArbReq} (hr : s.qos.first a = some r) (hs : r.stream < s.qos.streams) (f v : Nat) :
    (s.raise f v).qos.first a = some r ∧ (s.raise f v).qos.missed = s.qos.missed ∧ (s.raise f v).qos.missedWt = s.qos.missedWt := by
  unfold State.raise
  split
  · exact ⟨hr, rfl, rfl⟩
  · obtain ⟨arbs, streams, buckets, henter⟩ := s.qos.enter_eq s.now 521 7 (ceilDiv 4 256) .traffic
    have hq : ((s.onMsix fun l => l ++ [(f, v)]).hostTraffic true 4).qos = s.qos.enter s.now 521 7 (ceilDiv 4 256) .traffic := rfl
    rw [hq]
    refine ⟨Qos.first_enter hr hs _ _ _ _ _, ?_, ?_⟩ <;> rw [henter]

/-- The state once a miss of a wait limit is recorded and counted. -/
def State.waitMissed (s : State) (src arg : Nat) : State :=
  (s.note src "GUARANTEE_MISSED" arg).onQos fun q => { q with missed := true, missedWt := sat32 q.missedWt 1 }

theorem State.missGuarantee_wait (s : State) (src arg : Nat) : s.missGuarantee false src arg =
    if !s.qos.missed then (s.waitMissed src arg).raise 0 3 else s.waitMissed src arg := rfl

/-- A miss of a wait limit is an event and is counted; the requests and the units stay. -/
theorem State.missGuarantee_spec {s : State} {a : Nat} {r : ArbReq} (hr : s.qos.first a = some r) (hs : r.stream < s.qos.streams)
    (src arg : Nat) : let t := s.missGuarantee false src arg
    t.qos.first a = some r ∧ t.qos.missed = true ∧ t.qos.missedWt = sat32 s.qos.missedWt 1 ∧
      (∃ e ∈ t.events, e.what = "GUARANTEE_MISSED" ∧ e.arg = arg ∧ e.tick = s.tick.count) ∧ t.cores = s.cores ∧ t.mem = s.mem ∧
      t.tick = s.tick := by
  obtain ⟨es, qs, hnote⟩ := s.note_frame src "GUARANTEE_MISSED" arg
  have hmissed : s.waitMissed src arg = { s with
      events := es, seqs := qs, qos := { s.qos with missed := true, missedWt := sat32 s.qos.missedWt 1 } } := by
    rw [State.waitMissed, hnote]
    rfl
  have hevent : ∃ e ∈ es, e.what = "GUARANTEE_MISSED" ∧ e.arg = arg ∧ e.tick = s.tick.count := by
    have hmem := s.note_mem src "GUARANTEE_MISSED" arg
    rw [hnote] at hmem
    exact ⟨_, hmem, rfl, rfl, rfl⟩
  dsimp only
  rw [State.missGuarantee_wait, hmissed]
  split
  · obtain ⟨hfirst, hflag, hcount⟩ := State.raise_qos (s := { s with
      events := es, seqs := qs, qos := { s.qos with missed := true, missedWt := sat32 s.qos.missedWt 1 } }) hr hs 0 3
    rw [hfirst, hflag, hcount, State.raise_eq]
    exact ⟨rfl, rfl, rfl, hevent, rfl, rfl, rfl⟩
  · exact ⟨hr, rfl, rfl, hevent, rfl, rfl, rfl⟩

/-- An arbiter whose request's wait has been counted once more. -/
def Arbiter.markLate (x : Arbiter) (r : ArbReq) : Arbiter :=
  { x with queue := x.queue.map fun y => if y.stream = r.stream then { y with late := y.late + 1 } else y }

def State.markLate (s : State) (a : Nat) (r : ArbReq) : State :=
  s.onQos fun q => { q with arbs := mapModify q.arbs a fun x => x.markLate r }

theorem State.markLate_first {s : State} {a : Nat} {r : ArbReq} (hr : s.qos.first a = some r) :
    (s.markLate a r).qos.first a = some { r with late := r.late + 1 } := by
  change (mapGet Arbiter.empty (mapModify s.qos.arbs a fun x => x.markLate r) a).queue.head? = _
  have hr' : (mapGet Arbiter.empty s.qos.arbs a).queue.head? = some r := hr
  rw [mapGet_modify_same rfl, Arbiter.markLate, List.head?_map, hr']
  simp

/-- A burst past its wait limit that alone waits at an arbiter is the one the event is of. -/
theorem exec_waitLimitMiss {s : State} {a cls : Nat} {r : ArbReq} (hq : (s.arb a).queue = [r]) (hcls : r.cls = cls)
    (hlate : r.pastLimit s.tick.count (nth 0 s.qos.active.waitLimit cls) = true) :
    exec (.waitLimitMiss a cls) s = .next ((s.markLate a r).missGuarantee false (arbSource a) a) := by
  have hfind : ((s.arb a).queue.find? fun r => decide (r.cls = cls) && r.pastLimit s.now (nth 0 s.qos.active.waitLimit cls)) = some r := by
    rw [hq]
    exact List.find?_cons_of_pos (by simp [hcls, State.now, hlate])
  change execWaitLimitMiss a cls s = _
  rw [execWaitLimitMiss, hfind]
  rfl

end Sys2Proof.Machine
end

section
/-! VAT_QUERY and metering (R291, R292, R307, R458), the commits of the QOS block (R328, R329, R333, R335); then the statement on metering
and arbiters. -/

namespace Sys2Proof.Machine
open Sys2Proof Sys2Proof.Safety

/-! ### VAT_QUERY (R307) -/

theorem VatState.code_lt (x : VatState) : x.code < 256 := by cases x <;> decide

section
variable (s : State) (u : Vat)

theorem State.vatRecord_state : field (s.vatRecord u) 2 1 = u.state.code := by
  simp only [State.vatRecord, List.append_assoc]
  rw [field_append_right _ _ _ _ (by simp), leBytes_length]
  exact (field_leBytes 1 _ _).trans (Nat.mod_eq_of_lt u.state.code_lt)

theorem State.vatRecord_lpkg : field (s.vatRecord u) 4 2 = u.lpkg % 2 ^ 16 := by
  simp only [State.vatRecord, List.append_assoc]
  iterate 3 rw [field_append_right _ _ _ _ (by simp), leBytes_length]
  exact field_leBytes 2 u.lpkg _

theorem State.vatRecord_comp : field (s.vatRecord u) 8 4 = u.comp % 2 ^ 32 := by
  simp only [State.vatRecord, List.append_assoc]
  iterate 5 rw [field_append_right _ _ _ _ (by simp), leBytes_length]
  exact field_leBytes 4 u.comp _

end

section
variable {s : State} {r : CmdRef} {c : Cmd}

theorem exec_vatQuery {u : Vat} (h : CmdDue s r 0x39 c) (h0 : ownVatQuery s c = 0) (hu : s.vat? (cmdVatId c.bytes) = some u) :
    exec (.vatQuery r) s = .next ((s.hostPost 0 (field c.bytes 0x10 8) (s.vatRecord u)).finish r 0) := by
  refine (congrArg Host.Outcome.next (State.checked_due h h0 _)).trans ?_
  rw [hu]

/-- A posted write waits at the host port where its function may not issue it (R466). -/
theorem State.hostPost_closed {f : Nat} (h : s.hostOpen f = false) (a : Nat) (bs : List Byte) :
    s.hostPost f a bs = s.onHp fun p => { p with posted := p.posted ++ [(f, a, bs)] } := if_neg (by simp [h])

/-- A posted write leaves the commands in dispatch. -/
theorem State.cmd?_hostPost (f a : Nat) (bs : List Byte) (q : CmdRef) : (s.hostPost f a bs).cmd? q = s.cmd? q :=
  State.cmd?_congr (by rw [State.hostPost_eq]) q

/-- Records posted for a command that ends change host memory and the arbiters, or the writes the host port holds, and the commands. -/
theorem State.hostPost_finish_eq (s : State) (f a : Nat) (bs : List Byte) (r : CmdRef) (st : Nat) :
    let t := (s.hostPost f a bs).finish r st
    t = { s with host := t.host, hp := t.hp, qos := t.qos, objs := { s.objs with cmds := t.objs.cmds } } := by
  dsimp only
  rw [State.finish_eq, State.hostPost_eq]

/-! ### Metering records (R291, R292, R458) -/

/-- An interim record due for a composition in force is written. -/
theorem exec_meterInterval {vat : Nat} {u : Vat} (hu : s.vat? vat = some u) (hcomp : 1 ≤ u.comp) (hwash : u.state ≠ .washing)
    (hdue : u.meter.first + 16777216 ≤ s.tick.count) : exec (.meterInterval vat) s = .next (s.writeMeter vat 1) := by
  refine congrArg Host.Outcome.next (if_pos ?_)
  rw [hu, Option.any_some, decide_eq_true_eq]
  exact ⟨hcomp, hwash, hdue⟩

/-- A record that has room is journalled under the next number, and the next period starts. -/
theorem State.writeMeter_fits {vat : Nat} {u : Vat} (hu : s.vat? vat = some u) (hfits : s.meterFits = true) (kind : Nat) :
    s.writeMeter vat kind = (((s.onBoot fun b => { b with full := false }).journalAdd (.meter (s.meterRecord u kind s.nextMeter))).onBoot fun b =>
      { b with meterTop := s.nextMeter }).onVat vat fun v => { v with meter := ⟨s.now, 0, 0⟩ } := by
  rw [State.writeMeter, hu]
  exact if_neg (by simp [hfits])

theorem exec_meterRead (h : CmdDue s r 0x3A c) : exec (.meterRead r) s = .next ((s.hostPost 0 (field c.bytes 0x18 8)
    ((s.meters.filter fun b => decide (field c.bytes 0x10 4 ≤ field b 12 4)).take (field c.bytes 0x14 4)).flatten).finish r 0) :=
  congrArg _ (State.onDue_due h _)

theorem exec_meterAck (h : CmdDue s r 0x3B c) : exec (.meterAck r) s =
    .next ((s.journalAdd (.meterAck (min (field c.bytes 0x10 4) s.boot.meterTop))).finish r 0) := congrArg _ (State.onDue_due h _)

end

/-! ### QOS_COMMIT (R328, R329, R335) -/

theorem map_range_nth {α : Type} (d : α) (l : List α) : (List.range l.length).map (nth d l) = l :=
  List.ext_getElem (by simp) fun i _ hi => by simp [nth, hi]

/-- With each `CONG_LO` below its `CONG_HI` a commit puts the shadow fields in force as they are. -/
theorem QosCfg.mended_good {q : QosCfg} (hgood : ∀ k, k < 3 → congBad q k = false) (hhi : q.congHi.length = 3) (hlo : q.congLo.length = 3)
    (old : QosCfg) : q.mended old = q := by
  have hkeep : ∀ (d : Nat) (l o : List Nat), l.length = 3 →
      ((List.range 3).map fun k => if congBad q k then nth d o k else nth d l k) = l := by
    intro d l o hl
    refine Eq.trans (List.map_congr_left fun k hk => ?_) (hl ▸ map_range_nth d l)
    rw [hgood k (List.mem_range.mp hk), if_neg Bool.false_ne_true]
  rw [QosCfg.mended, hkeep 192 q.congHi old.congHi hhi, hkeep 128 q.congLo old.congLo hlo]

theorem exec_qosCommit {s : State} {v : Nat} (hs : HostServed s) (hv : v % 2 = 1) (hgood : ∀ k, k < 3 → congBad s.qos.shadow k = false)
    (hhi : s.qos.shadow.congHi.length = 3) (hlo : s.qos.shadow.congLo.length = 3) :
    exec (.qosCommit v) s = .next { s with qos := { s.qos with active := s.qos.shadow } } := by
  have hset : bit v 0 = true := by simp [bit, hv]
  have hnone : ((List.range 3).any fun k => congBad s.qos.shadow k) = false :=
    List.any_eq_false.mpr fun k hk => by simp [hgood k (List.mem_range.mp hk)]
  change Host.Outcome.next (if s.barOpen 0 then s.regQosCommit v else s) = _
  rw [if_pos (State.barOpen_of_host hs), State.regQosCommit, if_pos hset, State.onQos, hnone, QosCfg.mended_good hgood hhi hlo, Bool.or_false]

/-! ### FUNC_COMMIT (R333) -/

section
variable {s : State} {f v : Nat}

/-- A commit of a virtual function's entry puts it in force, or is refused. -/
theorem exec_funcCommit (hs : HostServed s) (hf : f < 64) (h0 : f ≠ 0) (hv : v % 2 = 1) : exec (.funcCommit f v) s = .next (
    if s.funcRefused f (mapGet FuncCfg.zero s.qos.funcShad f) then s.onQos fun q => { q with refused := true }
    else s.onQos fun q => { q with funcAct := mapPut q.funcAct f (mapGet FuncCfg.zero s.qos.funcShad f) }) := by
  have hset : f < 64 ∧ bit v 0 = true := ⟨hf, by simp [bit, hv]⟩
  change Host.Outcome.next (if s.barOpen 0 then s.regFuncCommit f v else s) = _
  rw [if_pos (State.barOpen_of_host hs), State.regFuncCommit, if_pos hset, funcEntry, if_neg h0]

end

/-! ### The statement -/

/-- Settles O26: each command is one record, one grant or one commit. -/
theorem meteringAndArbiters : Obligations.MeteringAndArbiters := by
  unfold Obligations.MeteringAndArbiters
  refine ⟨⟨?query, ?interval, ?read, ?ack⟩, ?granted, ?revoked, ?refresh, ?late, ?qosCommit, ?funcCommit, ?funcRefused⟩
  case query =>
    intro s r c u h h0 hu
    refine ⟨_, exec_vatQuery h h0 hu, fun hopen => ?_, fun hclosed => ?_, s.vatRecord_state u, s.vatRecord_lpkg u, s.vatRecord_comp u, ?_,
      s.hostPost_finish_eq 0 (field c.bytes 0x10 8) (s.vatRecord u) r 0⟩
    · rw [State.hostPost_open _ _ _ _ hopen]
      exact ⟨rfl, by rw [State.finish_eq, State.hostPut_eq]⟩
    · rw [State.hostPost_closed hclosed]
      exact ⟨rfl, rfl⟩
    · exact State.cmd?_finish_open ((State.cmd?_hostPost ..).trans h.1) (State.open_of_due h) 0
  case interval =>
    intro s vat u hu hcomp hwash hdue hfits hsenior _
    have hjournal := (s.onBoot fun b => { b with full := false }).journalAdd_jdata hsenior (.meter (s.meterRecord u 1 s.nextMeter))
    have hadd := (s.onBoot fun b => { b with full := false }).journalAdd_eq (.meter (s.meterRecord u 1 s.nextMeter))
    rw [exec_meterInterval hu hcomp hwash hdue, State.writeMeter_fits hu hfits]
    refine ⟨_, rfl, ?_, ?_, rfl, ?_, ?_⟩
    · rw [State.jdata_onVat, State.jdata_onBoot, hjournal, State.jdata_onBoot]
    · rw [hadd]
      exact State.vat?_onVat_of hu _
    · rw [hadd]
      rfl
    · rw [hadd]
      rfl
  case read =>
    intro s r c h hopen
    refine ⟨_, exec_meterRead h, ?_⟩
    rw [State.hostPost_open _ _ _ _ hopen]
    exact ⟨rfl, State.cmd?_finish_open h.1 (State.open_of_due h) 0, rfl⟩
  case ack =>
    intro s r c h hsenior _
    have hadd := s.journalAdd_eq (.meterAck (min (field c.bytes 0x10 4) s.boot.meterTop))
    refine ⟨_, exec_meterAck h, (State.jdata_finish ..).trans (State.journalAdd_jdata hsenior _),
      State.cmd?_finish_open ?_ (State.open_of_due h) 0, ?_⟩
    · rw [hadd]
      exact h.1
    · rw [State.finish_eq, hadd]
  case granted =>
    intro s a q ha hfenced hrefresh hq hw hfree hheld
    rw [exec_arbiterDecision ha hfenced hrefresh, State.arbDecide_grants hq hw (Arbiter.revoked_free hfree),
      Qos.release_idle (State.granting_held hq hheld)]
    exact ⟨_, rfl, mapGet_set_same .., fun b hb => mapGet_set_other _ _ _ hb, rfl, rfl⟩
  case revoked =>
    intro s a q y k ha hfenced hrefresh hq hw hy hk hconf
    rw [exec_arbiterDecision ha hfenced hrefresh, State.arbDecide_revokes hq hw hy hk hconf]
    exact ⟨_, rfl, mapGet_set_same .., fun d hd => mapGet_set_other _ _ _ hd, rfl⟩
  case refresh => exact fun s a h => exec_arbiterDecision_refresh h
  case late =>
    intro s a cls q hq hcls hlate _ hstream
    have hfirst : s.qos.first a = some q := congrArg List.head? hq
    obtain ⟨hhead, hmissed, hcount, hevent, hcores, hmem, htick⟩ :=
      State.missGuarantee_spec (State.markLate_first hfirst) hstream (arbSource a) a
    exact ⟨_, exec_waitLimitMiss hq hcls hlate, hhead, hmissed, hcount, hevent, hcores, hmem, htick⟩
  case qosCommit => exact fun s v hs hv hgood hhi hlo => exec_qosCommit hs hv hgood hhi hlo
  case funcCommit =>
    intro s f v hs hf h0 hv hok
    rw [exec_funcCommit hs hf h0 hv, hok, if_neg Bool.false_ne_true]
    exact ⟨_, rfl, mapGet_put_same .., fun g hg => mapGet_put_other _ _ _ hg, rfl⟩
  case funcRefused =>
    intro s f v hs hf h0 hv hbad
    rw [exec_funcCommit hs hf h0 hv, if_pos hbad]
    rfl

end Sys2Proof.Machine
end

section
/-! Vats in service (R271 to R273, R277, R279): VAT_START, VAT_HALT, VAT_UNBIND and VAT_REMOULD at the head, what the other members report,
and the abandoning of a vat that no remould concerns; then the statement. -/

namespace Sys2Proof.Machine
open Sys2Proof Sys2Proof.Safety

theorem State.onRole_congr {s : State} {v : Nat} {f g : VatRole → VatRole} (h : f (s.role v) = g (s.role v)) : s.onRole v f = s.onRole v g :=
  congrArg (fun x => s.onRoles fun m => mapSet VatRole.empty m v x) h

/-! ### VAT_START (R272, R277) -/

/-- The resume rule gives the first multiple of `REFRESH_PERIOD` that is far enough away. -/
theorem State.resumeTick_spec (s : State) (m : Mould) :
    s.resumeTick m % max 1 (mRefreshPeriod m) = 0 ∧
    s.tick.count + 64 + freezeLead (gearSteps m s.tick.gear) ≤ s.resumeTick m ∧
    s.resumeTick m < s.tick.count + 64 + freezeLead (gearSteps m s.tick.gear) + max 1 (mRefreshPeriod m) := by
  have hpos : 0 < max 1 (mRefreshPeriod m) := by omega
  unfold State.resumeTick State.now
  dsimp only
  generalize max 1 (mRefreshPeriod m) = p at hpos ⊢
  generalize freezeLead (gearSteps m s.tick.gear) = l
  have hlow := le_mul_ceilDiv (s.tick.count + l + 64) hpos
  have hhigh : p * ceilDiv (s.tick.count + l + 64) p ≤ s.tick.count + l + 64 + p - 1 := Nat.mul_div_le _ p
  exact ⟨Nat.mul_mod_right .., by omega, by omega⟩

section
variable {s : State} {r : CmdRef} {c : Cmd} {u : Vat} {vat : Nat}

theorem State.haltsDone_eq (s : State) (vat : Nat) :
    s.haltsDone vat = (s.finishAll (s.role vat).haltCmds 0).onRole vat fun q => { q with haltCmds := [], allHalted := false } := rfl

/-- A vat that can start, and is not to start already, starts at the Tick of the resume rule. -/
theorem exec_vatStart {m : Mould} (h : CmdDue s r 0x35 c) (h0 : ownVatStart s c = 0) (hu : s.vat? (cmdVatId c.bytes) = some u)
    (hid : u.desc.vatId = cmdVatId c.bytes) (hm : u.mould = some m) (hgear : gearOk m s.tick.gear = true)
    (harmed : gearOk m s.tick.armed = true) (hstarted : (s.role (cmdVatId c.bytes)).started = none) :
    exec (.vatStart r [] none) s =
      .next (((s.haltsDone (cmdVatId c.bytes)).startAt (cmdVatId c.bytes) (s.resumeTick m)).finish r 0) := by
  refine (congrArg Host.Outcome.next (State.checked_due h h0 _)).trans (congrArg _ ?_)
  rw [State.startVat, hu, Option.bind_some, hm, Option.map_some, State.ref_of_cmd? h.1]
  simp [hgear, harmed, hid, hstarted]

theorem State.vat?_start (hu : s.vat? vat = some u) (x : Nat) (r : CmdRef) :
    (((s.haltsDone vat).startAt vat x).finish r 0).vat? vat = some { u with boundary := x, frozen := none } := by
  rw [State.vat?_finish, State.startAt, State.vat?_onRole, State.haltsDone_eq]
  refine State.vat?_onVat_of ?_ _
  rw [State.vat?_onRole, State.vat?_finishAll, hu]

theorem State.role_start (s : State) (vat x : Nat) (r : CmdRef) : (((s.haltsDone vat).startAt vat x).finish r 0).role vat =
    { s.role vat with
      started := some x, haltAt := none, credit := 0, restFrom := some x, hangAt := none, haltCmds := [], allHalted := false } := by
  rw [State.role_finish, State.startAt, State.role_onRole_same, State.role_onVat, State.haltsDone_eq, State.role_onRole_same,
    State.role_finishAll]

/-- Ending the VAT_HALTs that wait writes the vat's role and the commands alone. -/
theorem State.haltsDone_frame (s : State) (vat : Nat) : ∃ roles cmds,
    s.haltsDone vat = { s with roles := roles, objs := { s.objs with cmds := cmds } } := by
  rw [State.haltsDone_eq, State.finishAll_eq]
  exact ⟨_, _, rfl⟩

/-- A start writes the vat's record too. -/
theorem State.start_frame (s : State) (vat x : Nat) (r : CmdRef) : ∃ vats roles cmds, ((s.haltsDone vat).startAt vat x).finish r 0 =
    { s with vats := vats, roles := roles, objs := { s.objs with cmds := cmds } } := by
  obtain ⟨roles, cmds, hdone⟩ := s.haltsDone_frame vat
  have hstart : ∀ t : State, ∃ vats roles, t.startAt vat x = { t with vats := vats, roles := roles } := fun _ => ⟨_, _, rfl⟩
  obtain ⟨vats, roles', hvats⟩ := hstart (s.haltsDone vat)
  rw [hvats, hdone]
  exact ⟨_, _, _, rfl⟩

/-- A command that starts a vat ends, whether or not it stands among the VAT_HALTs that end with it. -/
theorem State.cmd?_start (hc : s.cmd? r = some c) (hp : c.phase ≠ .done) (vat x : Nat) :
    (((s.haltsDone vat).startAt vat x).finish r 0).cmd? r = some { c with phase := .done, status := 0 } := by
  have hcmds : ((s.haltsDone vat).startAt vat x).cmd? r = (s.finishAll (s.role vat).haltCmds 0).cmd? r :=
    State.cmd?_congr (by simp only [State.haltsDone_eq, State.startAt, State.onRole, State.onVat, State.onRoles_objs, State.onVats_objs]) r
  rw [State.cmd?_finish, hcmds, ← State.cmd?_finish, ← State.finishAll_append]
  exact State.cmd?_finishAll (by simp) hc hp 0

/-! ### VAT_HALT (R272, R277) -/

/-- A halt at a boundary that has not come, or while a step runs, is kept for it. -/
theorem State.setHalt_later {vat b : Nat} (hu : s.vat? vat = some u) (hlater : s.tick.count < b ∨ u.step.isSome = true)
    (hnone : (s.role vat).haltAt = none) : s.setHalt vat b = s.onRole vat fun r => { r with haltAt := some b } := by
  have hnot : ¬ (b ≤ s.tick.count ∧ (s.vat? vat).any (fun v => v.step.isNone) = true) := by
    rintro ⟨hcome, hidle⟩
    rw [hu, Option.any_some] at hidle
    rcases hlater with hlater | hstep
    · omega
    · simp [Option.isNone_iff_eq_none.mp hidle] at hstep
  exact (if_neg hnot).trans (State.onRole_congr (by rw [hnone]; rfl))

theorem exec_vatHalt_waits {b : Nat} (h : CmdDue s r 0x36 c) (h0 : ownVatHalt s c = 0) (hu : s.vat? (cmdVatId c.bytes) = some u)
    (hid : u.desc.vatId = cmdVatId c.bytes) (hrun : u.state = .running) (hb : s.nextBoundary u = b)
    (hlater : s.tick.count < b ∨ u.step.isSome = true) (hnone : (s.role (cmdVatId c.bytes)).haltAt = none) :
    exec (.vatHalt r .issued) s = .next (((s.onCmd r fun c => { c with phase := .waiting }).onRole (cmdVatId c.bytes) fun q =>
      { q with haltCmds := q.haltCmds ++ [r] }).onRole (cmdVatId c.bytes) fun q => { q with haltAt := some b }) := by
  refine (congrArg Host.Outcome.next (State.checked_due h h0 _)).trans (congrArg _ ?_)
  rw [State.haltCmd, hu]
  simp only [hrun, reduceCtorEq, if_false, hid, State.ref_of_cmd? h.1, hb]
  exact State.setHalt_later hu hlater (by rw [State.role_onRole_same]; exact hnone)

theorem exec_vatHalt_halted (h : CmdDue s r 0x36 c) (h0 : ownVatHalt s c = 0) (hu : s.vat? (cmdVatId c.bytes) = some u)
    (hhalted : u.state = .halted) : exec (.vatHalt r .issued) s = .next (s.finish r 0) := by
  refine (congrArg Host.Outcome.next (State.checked_due h h0 _)).trans (congrArg _ ?_)
  rw [State.haltCmd, hu, State.ref_of_cmd? h.1]
  exact if_pos hhalted

/-- A member that the head tells of a halt keeps its boundary. -/
theorem exec_vatHalt_order {vat b : Nat} (hu : s.vat? vat = some u) (hrole : u.role = .member) (hhead : u.lpkg ≠ u.headLpkg)
    (hrun : u.state = .running) (hlater : s.tick.count < b ∨ u.step.isSome = true) (hnone : (s.role vat).haltAt = none) :
    exec (.vatHalt r (.order vat b)) s = .next (s.onRole vat fun q => { q with haltAt := some b }) := by
  have hhere : ((s.vat? vat).any fun v => v.isMember && !v.isHead && decide (v.state = .running)) = true := by
    simp [hu, Vat.isHead, Vat.isMember, hrole, hhead, hrun]
  exact congrArg Host.Outcome.next ((if_pos hhere).trans (State.setHalt_later hu hlater hnone))

/-- With the vat Halted here too, the report of the other members ends the VAT_HALTs that wait. -/
theorem exec_vatHalt_others {vat : Nat} (hu : s.vat? vat = some u) (hhalted : u.state = .halted) (hcmds : (s.role vat).haltCmds ≠ []) :
    exec (.vatHalt r (.others vat)) s = .next ((s.finishAll (s.role vat).haltCmds 0).onRole vat fun q =>
      { q with haltCmds := [], allHalted := false }) := by
  have hstill : ¬ ((s.vat? vat).any fun v => decide (v.state = .running)) = true := by simp [hu, hhalted]
  exact congrArg Host.Outcome.next ((if_neg hcmds).trans (if_neg hstill))

/-! ### VAT_UNBIND (R273) -/

theorem exec_vatUnbind_issued (h : CmdDue s r 0x37 c) (h0 : ownVatUnbind s c = 0) :
    exec (.vatUnbind r .issued) s = .next (s.unbindVat (cmdVatId c.bytes) (some r)) := congrArg _ (State.checked_due h h0 _)

/-- A Defined vat is removed at once. -/
theorem State.unbindVat_defined {vat : Nat} (hu : s.vat? vat = some u) (hstate : u.state = .defined) (r : CmdRef) :
    s.unbindVat vat (some r) = (s.removeVat vat).finish r 0 := by
  rw [State.unbindVat, hu]
  exact if_pos hstate

theorem State.removeVat_eq (s : State) (vat : Nat) :
    s.removeVat vat = { s with vats := mapDel s.vats vat, roles := (s.removeVat vat).roles } := rfl

/-- The role of a vat whose remould, or want of one, is given up (R278). -/
def VatRole.abandoned (q : VatRole) : VatRole :=
  { q with remould := none, haltTo := false, started := none, waitPage := false, was := none, later := [], moveFor := none }

/-- A Running vat that no remould, staged delta or move concerns has nothing to abandon: its role alone is set. -/
theorem State.abandon_quiet {vat : Nat} (hu : s.vat? vat = some u) (hrun : u.state = .running) (hremould : (s.role vat).remould = none)
    (hstaged : (s.role vat).staged = none) (hmoves : u.moves = []) (status : Nat) :
    (s.abandon vat status).vat? vat = some u ∧ (s.abandon vat status).role vat = (s.role vat).abandoned ∧
      s.abandon vat status = { s with vats := (s.abandon vat status).vats, roles := (s.abandon vat status).roles } := by
  have hexcuse : s.excuse vat = s := if_neg (by simp [hu, hrun])
  have hunstage : s.unstage vat = s := by simp [State.unstage, hu, hstaged]
  have hback : ∀ t : State, t.vat? vat = some u → t.stepBack vat = t := fun t ht => by
    rw [State.stepBack, ht, Option.bind_some]
    cases u.mould with
    | none => rfl
    | some m => exact if_pos (.inr hmoves)
  have hvat : (s.onVat vat fun v => if v.state = .remoulding then { v with state := .halted } else v).vat? vat = some u := by
    rw [State.vat?_onVat_of hu, if_neg (by simp [hrun])]
  rw [State.abandon, hexcuse]
  simp only [hremould, hunstage]
  rw [hback]
  · refine ⟨hvat, ?_, rfl⟩
    rw [State.role_onRole_same, State.role_onRole_same]
    rfl
  · exact hvat

/-- A Running vat with a step in progress is to be unbound at the boundary that follows. -/
theorem State.unbindVat_running {vat : Nat} (hu : s.vat? vat = some u) (hrun : u.state = .running)
    (hremould : (s.role vat).remould = none) (hstaged : (s.role vat).staged = none) (hmoves : u.moves = [])
    (hhalt : (s.role vat).haltAt = none) (hstep : u.step.isSome = true) (r : CmdRef) :
    s.unbindVat vat (some r) = ((((s.abandon vat 0x0723).onCmd r fun c => { c with phase := .waiting }).onRole vat fun q =>
      { q with unbind := q.unbind ++ [r], unbound := true, allGone := false }).onRole vat fun q => { q with haltAt := some (s.nextBoundary u) }) := by
  obtain ⟨hvat, hquiet, -⟩ := State.abandon_quiet hu hrun hremould hstaged hmoves 0x0723
  rw [State.unbindVat, hu]
  simp only [hrun, reduceCtorEq, if_false, if_true, decide_false, Option.toList_some]
  refine State.setHalt_later (u := u) ?_ (.inr hstep) ?_
  · rw [State.vat?_onRole, State.vat?_onCmd, hvat]
  · rw [State.role_onRole_same, State.role_onCmd, hquiet]
    exact hhalt

theorem exec_vatUnbind_others {vat : Nat} (hcmds : (s.role vat).unbind ≠ []) (hhere : (s.role vat).unbound = false) :
    exec (.vatUnbind r (.others vat)) s =
      .next ((s.onRole vat fun q => { q with unbind := [] }).finishAll (s.role vat).unbind 0) :=
  congrArg Host.Outcome.next ((if_neg hcmds).trans (if_neg (by simp [hhere])))

/-! ### VAT_REMOULD (R277, R279) -/

/-- A requested remould of some of the packages waits for them. -/
theorem State.requested_some (s : State) (c : Cmd) (vat : Nat) (k : RemouldKind) {affected : List Nat} (h : affected ≠ []) :
    s.requested c vat k affected = (s.onCmd c.ref fun c => { c with phase := .waiting }).onRole vat fun q =>
      { q with remould := some ⟨[k], false, some c.ref, 0, [], affected, none, none, s.now⟩ } := by
  unfold State.requested
  simp only [h, if_false]

/-- The remould that a VAT_REMOULD by a move asks for. -/
def State.moveRemould (s : State) (r : CmdRef) (m : Mould) (k : Nat) : Remould :=
  ⟨[.move k], false, some r, 0, [], [(mMove m k).1, 0xFFFF], none, none, s.now⟩

/-- A remould by a move is prepared where the move is usable, and finishes with 0x0721 where it is not. -/
theorem exec_vatRemould_move {x y : Bool} {m : Mould} (h : CmdDue s r 0x38 c) (h0 : ownVatRemould s c = 0)
    (hu : s.vat? (cmdVatId c.bytes) = some u) (hm : u.mould = some m) (hkind : field c.bytes 0x10 1 = 2) :
    exec (.vatRemould ⟨r, x, y⟩) s = .next (
      if field c.bytes 0x12 2 ∈ s.usableMoves u then
        (s.onCmd r fun c => { c with phase := .waiting }).onRole u.desc.vatId fun q =>
          { q with remould := some (s.moveRemould r m (field c.bytes 0x12 2)) }
      else s.finish r 0x0721) := by
  refine (congrArg Host.Outcome.next (State.checked_due h h0 _)).trans (congrArg _ ?_)
  rw [State.remouldCmd, hu, Option.bind_some, hm, Option.map_some]
  simp [hkind, State.requested_some, State.ref_of_cmd? h.1, State.moveRemould]

end

/-! ### The statement -/

/-- Settles O25: what a start, a halt, an unbinding and a remould by a move write at the head, and what the reports of the others end. -/
theorem vatsStartHaltAndRemould : Obligations.VatsStartHaltAndRemould := by
  unfold Obligations.VatsStartHaltAndRemould
  refine ⟨⟨?start, ?haltWaits, ?haltDone, ?haltOrder, ?haltOthers⟩, ?defined, ?running, ?unbindOthers, ?remould, ?unusable⟩
  case start =>
    intro s r c u m h h0 hu hid hm hgear harmed hstarted
    obtain ⟨hmod, hlow, hhigh⟩ := s.resumeTick_spec m
    refine ⟨_, _, exec_vatStart h h0 hu hid hm hgear harmed hstarted, hmod, hlow, hhigh, State.vat?_start hu _ _, State.role_start ..,
      State.cmd?_start h.1 (State.open_of_due h) _ _, ?_⟩
    obtain ⟨vats, roles, cmds, hframe⟩ := s.start_frame (cmdVatId c.bytes) (s.resumeTick m) r
    rw [hframe]
  case haltWaits =>
    intro s r c u b h h0 hu hid hrun hb hlater hnone
    refine ⟨_, exec_vatHalt_waits h h0 hu hid hrun hb hlater hnone, ?_, ?_, rfl⟩
    · rw [State.role_onRole_same, State.role_onRole_same, State.role_onCmd]
    · rw [State.cmd?_onRole, State.cmd?_onRole, State.cmd?_waiting h.1]
  case haltDone =>
    intro s r c u h h0 hu hhalted
    exact ⟨_, exec_vatHalt_halted h h0 hu hhalted, State.cmd?_finish_open h.1 (State.open_of_due h) 0, rfl⟩
  case haltOrder =>
    intro s r vat b u hu hrole hhead hrun hlater hnone
    exact ⟨_, exec_vatHalt_order hu hrole hhead hrun hlater hnone, State.role_onRole_same .., rfl⟩
  case haltOthers =>
    intro s r vat u hu hhalted hcmds
    refine ⟨_, exec_vatHalt_others hu hhalted hcmds, ?_, fun q c hq hc hp => State.cmd?_finishAll hq hc (by simp [hp]) 0, ?_⟩
    · rw [State.role_onRole_same]
    · rw [State.finishAll_eq]
      rfl
  case defined =>
    intro s r c u h h0 hu hstate _
    rw [exec_vatUnbind_issued h h0, State.unbindVat_defined hu hstate, State.removeVat_eq]
    exact ⟨_, rfl, mapFind_del_same .., fun v hv => mapFind_del_other _ hv, State.cmd?_finish_open h.1 (State.open_of_due h) 0, rfl⟩
  case running =>
    intro s r c u h h0 hu _ hrun hremould hstaged hmoves hhalt hstep
    obtain ⟨hvat, hquiet, habandon⟩ := State.abandon_quiet hu hrun hremould hstaged hmoves 0x0723
    have hcmd : (s.abandon (cmdVatId c.bytes) 0x0723).cmd? r = some c := (State.cmd?_congr (by rw [habandon]) r).trans h.1
    rw [exec_vatUnbind_issued h h0, State.unbindVat_running hu hrun hremould hstaged hmoves hhalt hstep]
    generalize s.abandon (cmdVatId c.bytes) 0x0723 = t at hvat hquiet habandon hcmd ⊢
    refine ⟨_, rfl, ?_, ?_, ?_, hvat, ?_, ?_, ?_⟩
    · rw [State.role_onRole_same]
    · rw [State.role_onRole_same, State.role_onRole_same, State.role_onCmd, hquiet]
      rfl
    · rw [State.role_onRole_same, State.role_onRole_same]
    · rw [State.cmd?_onRole, State.cmd?_onRole, State.cmd?_waiting hcmd]
    · rw [habandon]
      rfl
    · rw [habandon]
      rfl
  case unbindOthers =>
    intro s r vat hcmds hhere
    refine ⟨_, exec_vatUnbind_others hcmds hhere, ?_,
      fun q c hq hc hp => State.cmd?_finishAll hq ((State.cmd?_onRole ..).trans hc) (by simp [hp]) 0, ?_⟩
    · rw [State.role_finishAll, State.role_onRole_same]
    · rw [State.finishAll_eq]
      rfl
  case remould =>
    intro s r x y c u m h h0 hu hid hm hkind huse
    rw [exec_vatRemould_move h h0 hu hm hkind, if_pos huse, hid]
    refine ⟨_, s.moveRemould r m (field c.bytes 0x12 2), rfl, ?_, rfl, rfl, rfl, rfl, rfl, ?_, rfl⟩
    · rw [State.role_onRole_same]
    · rw [State.cmd?_onRole, State.cmd?_waiting h.1]
  case unusable =>
    intro s r x y c u m h h0 hu hm hkind hnot
    rw [exec_vatRemould_move h h0 hu hm hkind, if_neg hnot]
    exact ⟨_, rfl, State.cmd?_finish_open h.1 (State.open_of_due h) 0x0721, rfl⟩

end Sys2Proof.Machine
end

section
/-! What reset leaves (R301, R395, R436, R440, R460). -/

namespace Sys2Proof.Machine
open Sys2Proof

/-- No key slot is listed at reset, so each is as a slot that was never filled (R391). -/
theorem State.slot_reset (k : Nat) : State.reset.slot k = KeySlot.none := mapGet_nil _ k

/-- No CXL port is listed at reset. -/
theorem State.cxlPort_reset (p : Nat) : State.reset.cxlPort p = CxlPort.off := mapGet_nil _ p

/-- Settles O52: each block holds its reset column, and the maps of slots and ports list nothing. -/
theorem resetState : Obligations.ResetState := by
  unfold Obligations.ResetState
  refine ⟨rfl, rfl, rfl, rfl, rfl, rfl, rfl, rfl, rfl, rfl, rfl, rfl, rfl, rfl, rfl, rfl, ?ports, ?slots, rfl, rfl⟩
  case ports =>
    intro p
    rw [State.cxlPort_reset, State.cxlPort_reset]
  case slots =>
    intro k _ _
    rw [State.slot_reset]
    rfl

end Sys2Proof.Machine
end

section
/-! Dispatch of host commands (R305, R308) where two commands of one queue carry one ring index: what the second does to the first. -/

namespace Sys2Proof.Machine
open Sys2Proof Sys2Proof.Safety

/-- The bytes of a command of an opcode whose other fields are 0. -/
def bareCommand (op : Nat) : List Byte := leBytes 64 (0x1000 + op * 2 ^ 16)

/-- A NOP at the head of queue 0 of context 3, with ring index 0. -/
def headNop : Fetched := ⟨0, bareCommand 0x01, 0⟩

def nopQueue : Queue := { newQueue 0x5000 0x6000 4 4 0xFFFF 0 with fetched := [headNop] }

/-- A COPY of the same queue and ring index, its effect due, with a byte in Half 1. -/
def farCopy : Cmd := { newCmd ⟨3, 0, 0⟩ (bareCommand 0x02) 0 0 with tiles := [⟨0, 0, 0, 1, false, false, 0, [], [], [(2 ^ 39, 1, 0)]⟩] }

/-- A package with both and no inter-half bridge in service. -/
def sameIndex : State := { State.reset with objs := { HostObjs.reset with
  ctxs := [(3, { Context.empty with state := .active, slot := some 0 })], queues := [(48, nopQueue)], cmds := [farCopy] } }

theorem exec_commandDispatch {s : State} {ctx q : Nat} (h : s.canDispatch ctx q = true) :
    exec (.commandDispatch ctx q) s = .next (s.dispatch ctx q) := congrArg _ (if_pos h)

/-- The COPY, whose bytes cannot cross to Half 1, goes back to resolving (R15), and with it the NOP, which has its reference. -/
theorem sameIndex_dispatch : (sameIndex.dispatch 3 0).objs.cmds.map (·.phase) = [.resolving, .resolving] := by decide

/-- Refutes O17, by its clause on a command that passes every check: where a command of its queue still stands in dispatch under the same ring
index, which the clause does not rule out, and cannot cross to Half 1, both are set to resolving, so that the command does not enter with its
effect due. -/
theorem not_commandsAreFetchedAndDispatched : ¬ Obligations.CommandsAreFetchedAndDispatched := by
  unfold Obligations.CommandsAreFetchedAndDispatched
  rintro ⟨-, ⟨-, hpasses, -⟩, -⟩
  obtain ⟨t, -, hexec, -, -, -, hcmds, -⟩ := hpasses sameIndex 3 0 nopQueue headNop [] (newCmd ⟨3, 0, 0⟩ headNop.bytes 0 0)
    (by decide) rfl rfl (by decide) (by decide) (by decide) rfl (by decide) (by decide) (by decide) (by decide) (by decide) (by decide)
    (by decide) (by decide)
  have ht : sameIndex.dispatch 3 0 = t := Host.Outcome.next.inj ((exec_commandDispatch (by decide)).symm.trans hexec)
  have hphases := sameIndex_dispatch
  rw [ht, hcmds] at hphases
  exact absurd hphases (by decide)

end Sys2Proof.Machine
end

section
/-! The pages MEMOBJ_CREATE takes (R208, R209, R306, R311): the pool lists each Free page once, and a choice from it takes as many as asked. -/

namespace Sys2Proof.Machine
open Sys2Proof

/-! ### A choice from a list -/

theorem nth_mod_mem {l : List Nat} (h : l ≠ []) (x : Nat) : nth 0 l (x % l.length) ∈ l := by
  have hlt : x % l.length < l.length := Nat.mod_lt _ (List.length_pos_iff.mpr h)
  rw [nth, List.getD_eq_getElem _ _ hlt]
  exact List.getElem_mem hlt

theorem pick_subset (k n : Nat) (l : List Nat) : ∀ a ∈ pick k n l, a ∈ l := by
  induction k generalizing n l with
  | zero => simp [pick]
  | succ k ih =>
    intro a ha
    rw [pick] at ha
    split at ha
    · cases ha
    · next hl =>
      rcases List.mem_cons.mp ha with rfl | ha
      · exact nth_mod_mem (by simpa using hl) _
      · exact List.mem_of_mem_filter (ih _ _ a ha)

theorem length_filter_ne {l : List Nat} {a : Nat} (hl : l.Nodup) (ha : a ∈ l) : (l.filter (· ≠ a)).length = l.length - 1 := by
  have herase : l.filter (· ≠ a) = l.erase a := by
    rw [hl.erase_eq_filter]
    exact List.filter_congr fun x _ => Bool.eq_iff_iff.mpr (by simp)
  rw [herase, List.length_erase_of_mem ha]

/-- Of a list without repeats each pick takes one element away. -/
theorem pick_length {k : Nat} (n : Nat) {l : List Nat} (hl : l.Nodup) (hk : k ≤ l.length) : (pick k n l).length = k := by
  induction k generalizing n l with
  | zero => rfl
  | succ k ih =>
    have hne : l ≠ [] := List.ne_nil_of_length_pos (by omega)
    rw [pick, if_neg (by simpa using hne), List.length_cons, ih _ (hl.filter _)]
    rw [length_filter_ne hl (nth_mod_mem hne _)]
    omega

/-! ### The pool of HBM pages -/

theorem frameDpa_injective : Function.Injective frameDpa := by
  intro m n h
  simp only [frameDpa, hbmDpa, stackFrames, frameBytes] at h
  omega

variable (s : State)

theorem State.freePages_nodup (q n : Nat) : (s.freePages q n).Nodup := by
  have hstarts : (if n = 1 then List.range stackFrames else (List.range 44).map (· * 32)).Nodup := by
    split
    · exact List.nodup_range
    · exact List.nodup_range.map fun a b h => by simpa using h
  exact (hstarts.map fun a b h => by simpa using h).filter _

theorem State.freePages_stack {q n fr : Nat} (h : fr ∈ s.freePages q n) : fr / stackFrames = q := by
  obtain ⟨x, hx, rfl⟩ := List.mem_map.mp (List.mem_of_mem_filter h)
  have hlt : x < stackFrames := by
    split at hx
    · exact List.mem_range.mp hx
    · obtain ⟨i, hi, rfl⟩ := List.mem_map.mp hx
      have := List.mem_range.mp hi
      simp only [stackFrames]
      omega
  simp only [stackFrames] at hlt ⊢
  omega

theorem State.pagePool_nodup {tier : Nat} (h : tier ≠ 2) (stack n : Nat) : (s.pagePool tier stack n).Nodup := by
  rw [State.pagePool, if_neg h, List.nodup_flatMap]
  refine ⟨fun q _ => (s.freePages_nodup q n).map frameDpa_injective, ?_⟩
  have hstacks : (if tier = 1 then [stack] else List.range 16).Nodup := by
    split
    · exact List.nodup_singleton _
    · exact List.nodup_range
  refine hstacks.imp fun {p q} hpq => ?_
  rw [Function.onFun, List.disjoint_left]
  intro a hp hq
  obtain ⟨x, hx, rfl⟩ := List.mem_map.mp hp
  obtain ⟨y, hy, hxy⟩ := List.mem_map.mp hq
  rw [frameDpa_injective hxy] at hy
  exact hpq ((s.freePages_stack hx).symm.trans (s.freePages_stack hy))

end Sys2Proof.Machine
end

section
/-! Memory objects by command (R310 to R312): what MEMOBJ_CREATE, MEMOBJ_FREE and the release of a freed object's frames change. -/

namespace Sys2Proof.Machine
open Sys2Proof Sys2Proof.Safety

variable {s : State} {r : CmdRef} {c : Cmd} {i : Nat} {o : MemObj}

/-- A command that has not ended ends with the status and the result it is finished with. -/
theorem State.cmd?_finishWith_open (hc : s.cmd? r = some c) (hp : c.phase ≠ .done) (st res : Nat) :
    (s.finishWith r st res).cmd? r = some { c with phase := .done, status := st, result := res } := by
  have hkeeps : ∀ d : Cmd, d.ref = r → (if d.phase = .done then d else { d with phase := .done, status := st, result := res }).ref = r :=
    fun d hd => by split <;> exact hd
  rw [State.finishWith, State.cmd?_onCmd_same s r _ hkeeps, hc, Option.map_some, if_neg hp]

theorem mapFind_foldl_put {α : Type} {k : Nat} {l : List Nat} (h : k ∈ l) (m : SMap α) (v : α) :
    mapFind (l.foldl (fun m j => mapPut m j v) m) k = some v := by
  refine foldl_of_mem (P := fun m : SMap α => mapFind m k = some v) h (fun m => mapFind_put_same m k v) (fun m j hm => ?_) m
  by_cases hj : k = j
  · rw [hj, mapFind_put_same]
  · rw [mapFind_put_other m v hj, hm]

/-! ### MEMOBJ_CREATE -/

/-- Where its own check passes the pool has a page for each the object needs (R311). -/
theorem pages_le_of_ownMemobjCreate (h0 : ownMemobjCreate s c = 0) (hi : s.freeIndex = some i) :
    field c.bytes 0x10 8 / objPage c.bytes ≤ (s.pagePool (field c.bytes 0x28 1) (field c.bytes 0x29 1) (objPage c.bytes / frameBytes)).length := by
  by_contra hlack
  simp only [ownMemobjCreate, hi, Nat.lt_of_not_le hlack, if_true] at h0
  split_ifs at h0

/-- The object MEMOBJ_CREATE enters under an index (R310, R311). -/
def State.madeObj (s : State) (b : List Byte) (i : Nat) : MemObj :=
  let g := mapGet 0 s.objs.gens i
  ⟨if g = 0 ∨ (i = 2 ^ 20 - 1 ∧ g = 4095) then 1 else g, cmdTarget b, field b 0x10 8, field b 0x18 8, objPage b, s.takePages b, false, false, none⟩

/-- The state once the object is entered and holds its frames of HBM. -/
def State.withObj (s : State) (b : List Byte) (i : Nat) : State :=
  ((s.draw (s.takePages b).length).newObj i (s.madeObj b i)).holdFrames (s.madeObj b i).hbmList (.object i)

theorem State.obj?_withObj_same (b : List Byte) (i : Nat) : (s.withObj b i).obj? i = some (s.madeObj b i) :=
  mapFind_put_same s.objs.objs i (s.madeObj b i)

theorem State.obj?_withObj_other (b : List Byte) {j : Nat} (h : j ≠ i) : (s.withObj b i).obj? j = s.obj? j :=
  mapFind_put_other s.objs.objs (s.madeObj b i) h

theorem State.gen_withObj (b : List Byte) (i : Nat) : mapGet 0 (s.withObj b i).objs.gens i = (s.madeObj b i).gen :=
  mapGet_put_same 0 s.objs.gens i (s.madeObj b i).gen

theorem State.cmd?_withObj (b : List Byte) (i : Nat) (q : CmdRef) : (s.withObj b i).cmd? q = s.cmd? q := rfl

/-- MEMOBJ_CREATE for HBM posts the record of the object and ends with its handle (R311). -/
theorem exec_memobjCreate_hbm (h : CmdDue s r 0x24 c) (h0 : ownMemobjCreate s c = 0) (htier : field c.bytes 0x28 1 ≠ 2)
    (hi : s.freeIndex = some i) : exec (.memobjCreate r) s = .next (((s.withObj c.bytes i).hostPost 0 (field c.bytes 0x20 8)
      (objRecord ((s.withObj c.bytes i).handle i) (s.takePages c.bytes))).finishWith r 0 ((s.withObj c.bytes i).handle i)) := by
  refine (congrArg Host.Outcome.next (State.checked_due h h0 _)).trans ?_
  simp only [State.createObj, hi, if_neg htier, State.ref_of_cmd? h.1]
  rfl

/-- The object has as many pages as its size takes. -/
theorem State.takePages_length (h0 : ownMemobjCreate s c = 0) (hi : s.freeIndex = some i) (htier : field c.bytes 0x28 1 ≠ 2) :
    (s.takePages c.bytes).length = field c.bytes 0x10 8 / objPage c.bytes :=
  pick_length _ (s.pagePool_nodup htier _ _) (pages_le_of_ownMemobjCreate h0 hi)

/-- A record posted for a command that ends with a result changes host memory and the arbiters, or the writes the host port holds, and the commands. -/
theorem State.hostPost_finishWith_eq (s : State) (f a : Nat) (bs : List Byte) (r : CmdRef) (st res : Nat) :
    let t := (s.hostPost f a bs).finishWith r st res
    t = { s with host := t.host, hp := t.hp, qos := t.qos, objs := { s.objs with cmds := t.objs.cmds } } := by
  dsimp only
  rw [State.hostPost_eq]
  rfl

/-! ### MEMOBJ_FREE (R310, R312) -/

theorem exec_memobjFree (h : CmdDue s r 0x25 c) :
    exec (.memobjFree r) s = .next ((s.freeObj (hIdx (cmdTarget c.bytes))).finish r 0) := congrArg _ (State.onDue_due h _)

theorem State.obj?_freeObj (ho : s.obj? i = some o) (hlive : o.freed = false) : (s.freeObj i).obj? i = some { o with freed := true } := by
  have hfind : mapFind s.objs.objs i = some o := ho
  simp [State.freeObj, State.obj?, hfind, hlive]

theorem State.gen_freeObj (ho : s.obj? i = some o) (hlive : o.freed = false) : mapGet 0 (s.freeObj i).objs.gens i = nextGen o.gen := by
  have hfind : mapFind s.objs.objs i = some o := ho
  simp [State.freeObj, hfind, hlive]

/-! ### Frames of a freed object (R312, R385) -/

theorem exec_memobjFramesRelease (ho : s.obj? i = some o) (hfreed : o.freed = true) (href : s.referenced i = false) :
    exec (.memobjFramesRelease i) s = .next (s.releaseObj i) := congrArg _ (if_pos (by simp [ho, hfreed, href]))

theorem le_maxNat {l : List Nat} {a : Nat} (h : a ∈ l) : a ≤ maxNat l := by
  rw [maxNat, foldl_max_eq]
  exact foldl_of_mem (P := fun m => a ≤ m) h (fun m => Nat.le_max_right m a) (fun m y hm => Nat.le_trans hm (Nat.le_max_left m y)) 0

/-- The identifier a new Wash takes is that of none in progress. -/
theorem State.newWash_free (s : State) : mapFind s.keys.washes (s.lastWash + 1) = none := by
  by_contra hsome
  obtain ⟨x, hx⟩ := Option.ne_none_iff_exists'.mp hsome
  have hle : s.lastWash + 1 ≤ s.lastWash := le_maxNat (List.mem_map.mpr ⟨_, mapFind_mem hx, rfl⟩)
  omega

/-- A Wash of frames alone holds them under its identifier and changes nothing else. -/
theorem State.startWash_frames (s : State) (frames cave : List Nat) : s.startWash .frames [] frames cave =
    { s with
      mem := { s.mem with frames := frames.foldl (fun f k => mapPut f k (.washing (s.lastWash + 1))) s.mem.frames }
      keys := { s.keys with
        washes := mapPut s.keys.washes (s.lastWash + 1) ⟨.frames, s.now, 8192 * mostOnStack frames, [], frames, cave, false⟩ } } := rfl

/-- The Wash that begins now for a freed object. -/
def State.objWash (s : State) (o : MemObj) : Wash := ⟨.frames, s.now, 8192 * mostOnStack o.hbmList, [], o.hbmList, o.caveList, false⟩

/-- The frames of a freed object go to a Wash, its extents too, and its index is free (R310, R312). -/
theorem State.releaseObj_pages (ho : s.obj? i = some o) (hp : o.pages ≠ []) : ∃ extents, s.releaseObj i = { s with
    mem := { s.mem with
      frames := o.hbmList.foldl (fun f k => mapPut f k (.washing (s.lastWash + 1))) s.mem.frames, extents := extents }
    objs := { s.objs with objs := mapDel s.objs.objs i, freeIdx := s.objs.freeIdx ++ [i] }
    keys := { s.keys with washes := mapPut s.keys.washes (s.lastWash + 1) (s.objWash o) } } := by
  simp only [State.releaseObj, ho, List.isEmpty_iff, hp, if_false, State.startWash_frames, State.moveExtents]
  exact ⟨_, rfl⟩

end Sys2Proof.Machine
end

section
/-! Cave extents by command (R217, R218), and the statement on memory objects and extents. -/

namespace Sys2Proof.Machine
open Sys2Proof Sys2Proof.Safety

variable {s : State} {r : CmdRef} {c : Cmd} {e : Nat}

/-! ### One extent changes -/

/-- A change of an entry that is listed shows there. -/
theorem mapGet_modify_listed {α : Type} {d : α} {m : SMap α} {k : Nat} (h : mapGet d m k ≠ d) (f : α → α) :
    mapGet d (mapModify m k f) k = f (mapGet d m k) := by
  induction m with
  | nil => exact absurd rfl h
  | cons p m ih =>
    rw [mapModify] at ih ⊢
    by_cases hk : p.1 = k
    · simp [mapGet, hk]
    · rw [mapGet, if_neg hk] at h ⊢
      simpa [mapGet, hk] using ih h

/-- A change of an extent that is not Free shows there. -/
theorem State.extent_onExtent_same (h : (s.extent e).state ≠ .free) (f : Extent → Extent) : (s.onExtent e f).extent e = f (s.extent e) :=
  mapGet_modify_listed (fun hempty => h (congrArg Extent.state hempty)) f

theorem State.extent_delExtent_same (s : State) (e : Nat) : (s.delExtent e).extent e = Extent.empty := mapGet_del_same ..

/-! ### CAVE_ACCEPT and CAVE_RELEASE -/

/-- An extent that may be accepted is Offered (R217). -/
theorem offered_of_ownCaveAccept (h0 : ownCaveAccept s c = 0) : (s.extent (cmdTarget c.bytes)).state = .offered := by
  by_contra hstate
  simp [ownCaveAccept, hstate] at h0

theorem exec_caveAccept (h : CmdDue s r 0x26 c) (h0 : ownCaveAccept s c = 0) : exec (.caveAccept r) s =
    .next ((s.onExtent (cmdTarget c.bytes) fun x => { x with state := .active, owner := .none }).finish r 0) :=
  congrArg _ (State.checked_due h h0 _)

/-- The state once the zeroing of an extent has begun (R218). -/
def State.zeroing (s : State) (e : Nat) : State :=
  (s.onExtent e fun x => { x with state := .zeroing }).traffic 0 true (2 ^ 48 + (s.extent e).base * frameBytes) ((s.extent e).frames * frameBytes)

theorem exec_caveRelease_active (h : CmdDue s r 0x27 c) (h0 : ownCaveRelease s c = 0) (hactive : (s.extent (cmdTarget c.bytes)).state = .active) :
    exec (.caveRelease r) s = .next ((s.zeroing (cmdTarget c.bytes)).onCmd r fun d => { d with phase := .waiting }) := by
  refine (congrArg Host.Outcome.next (State.checked_due h h0 _)).trans ?_
  simp only [State.caveRelease, hactive, reduceCtorEq, if_false, State.ref_of_cmd? h.1]
  rfl

theorem exec_caveRelease_offered (h : CmdDue s r 0x27 c) (hoffered : (s.extent (cmdTarget c.bytes)).state = .offered) :
    exec (.caveRelease r) s =
      .next (((s.delExtent (cmdTarget c.bytes)).releaseResponse (s.extent (cmdTarget c.bytes))).finish r 0) := by
  have h0 : ownCaveRelease s c = 0 := by simp [ownCaveRelease, hoffered]
  refine (congrArg Host.Outcome.next (State.checked_due h h0 _)).trans ?_
  simp only [State.caveRelease, hoffered, if_true, State.ref_of_cmd? h.1]

/-! ### The statement -/

/-- Settles O22: each command is one change of an object, of its frames or of an extent, with the end of the command. -/
theorem objectsAndExtentsAreCommanded : Obligations.ObjectsAndExtentsAreCommanded := by
  unfold Obligations.ObjectsAndExtentsAreCommanded
  refine ⟨⟨?create, ?free, ?release⟩, ?accept, ?zero, ?answer⟩
  case create =>
    intro s r c i h h0 htier hi
    have hcmd : (s.withObj c.bytes i).cmd? r = some c := h.1
    have hframe := State.hostPost_finishWith_eq (s.withObj c.bytes i) 0 (field c.bytes 0x20 8)
      (objRecord ((s.withObj c.bytes i).handle i) (s.takePages c.bytes)) r 0 ((s.withObj c.bytes i).handle i)
    rw [exec_memobjCreate_hbm h h0 htier hi]
    refine ⟨_, s.madeObj c.bytes i, rfl, ?_, rfl, rfl, rfl, rfl, rfl, State.takePages_length h0 hi htier, pick_subset _ _ _,
      ?_, ?_, ?_, ?_, ?_, ?_, ?_⟩
    · rw [hframe]
      exact State.obj?_withObj_same c.bytes i
    · intro f hf
      rw [hframe]
      exact mapFind_foldl_put hf s.mem.frames (.object i)
    · rw [hframe]
      exact State.gen_withObj c.bytes i
    · rw [State.cmd?_finishWith_open ((State.cmd?_hostPost ..).trans hcmd) (State.open_of_due h), State.handle, State.gen_withObj]
    · intro j hj
      rw [hframe]
      exact State.obj?_withObj_other c.bytes hj
    · rw [hframe]
      rfl
    · intro hopen
      have hopen' : (s.withObj c.bytes i).hostOpen 0 = true := hopen
      rw [State.hostPost_open _ _ _ _ hopen']
      rfl
    · rw [hframe]
      rfl
  case free =>
    intro s r c o h ho hlive
    exact ⟨_, exec_memobjFree h, State.obj?_freeObj ho hlive, State.gen_freeObj ho hlive,
      State.cmd?_finish_open h.1 (State.open_of_due h) 0, rfl⟩
  case release =>
    intro s i o ho hfreed href hpages
    obtain ⟨extents, hreleased⟩ := State.releaseObj_pages ho hpages
    rw [exec_memobjFramesRelease ho hfreed href, hreleased]
    exact ⟨_, s.lastWash + 1, s.objWash o, rfl, mapFind_put_same .., mapFind_del_same .., rfl, rfl, s.newWash_free,
      fun f hf => mapFind_foldl_put hf s.mem.frames (.washing (s.lastWash + 1)), rfl, rfl, rfl⟩
  case accept =>
    intro s r c h h0
    have hlisted : (s.extent (cmdTarget c.bytes)).state ≠ .free := by simp [offered_of_ownCaveAccept h0]
    exact ⟨_, exec_caveAccept h h0, State.extent_onExtent_same hlisted _, fun e he => State.extent_onExtent_other s _ he,
      State.cmd?_finish_open h.1 (State.open_of_due h) 0, rfl⟩
  case zero =>
    intro s r c h h0 hactive
    have hlisted : (s.extent (cmdTarget c.bytes)).state ≠ .free := by simp [hactive]
    exact ⟨_, exec_caveRelease_active h h0 hactive, State.extent_onExtent_same hlisted _, fun e he => State.extent_onExtent_other s _ he,
      State.cmd?_waiting h.1, rfl⟩
  case answer =>
    intro s r c h hoffered
    exact ⟨_, _, exec_caveRelease_offered h hoffered, s.extent_delExtent_same _, rfl, rfl,
      State.cmd?_finish_open h.1 (State.open_of_due h) 0, rfl⟩

end Sys2Proof.Machine
end

section
/-! The teardown of a context (R316): what stopping its queues, abandoning its fences, dropping its held commands and closing its sessions leave. -/

namespace Sys2Proof.Machine
open Sys2Proof

/-- Contexts, commands in dispatch, cores and the Tick unit stay, and a fence that was Signalled still is. -/
structure KeepsSignals (s t : State) : Prop where
  ctxs : t.objs.ctxs = s.objs.ctxs
  cmds : t.objs.cmds = s.objs.cmds
  cores : t.cores = s.cores
  tick : t.tick = s.tick
  signalled : ∀ f, (s.fence f).signalled = true → (t.fence f).signalled = true

theorem KeepsSignals.refl (s : State) : KeepsSignals s s := ⟨rfl, rfl, rfl, rfl, fun _ h => h⟩

theorem KeepsSignals.trans {s t u : State} (h : KeepsSignals s t) (k : KeepsSignals t u) : KeepsSignals s u :=
  ⟨k.ctxs.trans h.ctxs, k.cmds.trans h.cmds, k.cores.trans h.cores, k.tick.trans h.tick, fun f hf => k.signalled f (h.signalled f hf)⟩

theorem KeepsSignals.foldl {α : Type} {g : State → α → State} (h : ∀ s x, KeepsSignals s (g s x)) (l : List α) (s : State) :
    KeepsSignals s (l.foldl g s) :=
  List.foldlRecOn l g (.refl s) fun t ht x _ => ht.trans (h t x)

/-- A change of none of these, nor of the fences. -/
theorem KeepsSignals.of_eq {s t : State} (hctxs : t.objs.ctxs = s.objs.ctxs) (hcmds : t.objs.cmds = s.objs.cmds) (hcores : t.cores = s.cores)
    (htick : t.tick = s.tick) (hfences : t.objs.fences = s.objs.fences) : KeepsSignals s t :=
  ⟨hctxs, hcmds, hcores, htick, fun f hf => by rwa [State.fence, hfences]⟩

variable (s : State)

/-! ### Fences (R314, R316) -/

theorem State.fence_signalFence_same (f st : Nat) :
    (s.signalFence f st).fence f = ⟨st, true, ((s.fence f).epoch + 1) % 2 ^ 31, s.now, none⟩ := s.fence_putFence_same f _

theorem State.fence_signalFence_other {f g : Nat} (st : Nat) (h : g ≠ f) : (s.signalFence f st).fence g = s.fence g :=
  s.fence_putFence_other _ h

theorem State.signalFence_keeps (f st : Nat) : KeepsSignals s (s.signalFence f st) := by
  refine ⟨?_, ?_, ?_, ?_, fun g hg => ?_⟩
  iterate 4
    · rw [State.signalFence, State.putFence_eq]
      rfl
  · by_cases hgf : g = f
    · rw [hgf, State.fence_signalFence_same]
    · rwa [State.fence_signalFence_other s st hgf]

theorem State.signalFor_keeps (f : Nat) (r : CmdRef) (st : Nat) : KeepsSignals s (s.signalFor f r st) := by
  unfold State.signalFor
  split
  · exact s.signalFence_keeps f st
  · exact .refl s

theorem State.abandonFences_keeps (k : Nat) : KeepsSignals s (s.abandonFences k) := .foldl (fun t f => t.signalFence_keeps f _) _ s

/-- Every fence of the context is Signalled once they are abandoned. -/
theorem State.abandonFences_signalled {k f : Nat} (hlo : (s.ctx k).fenceLo ≤ f) (hhi : f < (s.ctx k).fenceLo + (s.ctx k).fenceN) :
    ((s.abandonFences k).fence f).signalled = true := by
  cases hsig : (s.fence f).signalled with
  | true => exact (s.abandonFences_keeps k).signalled f hsig
  | false =>
    have hlisted : (f, s.fence f) ∈ s.objs.fences := (mapGet_mem Fence.created s.objs.fences f).resolve_right fun hcreated => by
      rw [State.fence, hcreated] at hsig
      cases hsig
    refine foldl_of_mem (P := fun t : State => (t.fence f).signalled = true) (x := f) ?_ (fun t => ?_)
      (fun t g ht => (t.signalFence_keeps g _).signalled f ht) s
    · exact List.mem_map.mpr ⟨_, List.mem_filter.mpr ⟨hlisted, by simp [hsig, hlo, hhi]⟩, rfl⟩
    · rw [State.fence_signalFence_same]

/-! ### Sessions (R236, R241) -/

theorem State.onVat_keeps (vat : Nat) (f : Vat → Vat) : KeepsSignals s (s.onVat vat f) := .of_eq rfl rfl rfl rfl rfl

theorem State.outWrite_keeps (w : SessWork) (off : Nat) (bs : List Byte) : KeepsSignals s (s.outWrite w off bs) := by
  rw [State.outWrite_eq]
  exact .of_eq rfl rfl rfl rfl rfl

theorem State.endReq_keeps (vat i st : Nat) (into : SessState) : KeepsSignals s (s.endReq vat i st into) := by
  unfold State.endReq
  split
  · exact .refl s
  · refine .trans ?_ ((State.onVat_keeps _ vat _).trans (State.onVat_keeps _ vat _))
    split
    · exact .refl s
    · split
      · exact (s.outWrite_keeps _ _ _).trans (State.signalFor_keeps _ _ _ _)
      · exact s.outWrite_keeps _ _ _

theorem State.withdraw_keeps (vat i : Nat) : KeepsSignals s (s.withdraw vat i) := by
  unfold State.withdraw
  split
  · exact .refl s
  · next v hv =>
    split
    · refine .trans ?_ (State.onVat_keeps _ vat _)
      simp only [State.offer, hv]
      obtain ⟨m, hm⟩ := State.control_out s v 0x0C _ s.now _ _
      rw [hm]
      exact .of_eq rfl rfl rfl rfl rfl
    · exact .refl s

theorem State.dropBias_keeps (vat i : Nat) : KeepsSignals s (s.dropBias vat i) := by
  unfold State.dropBias
  split
  · exact .refl s
  · dsimp only
    split
    · exact .refl s
    · exact .of_eq rfl rfl rfl rfl rfl

theorem State.closeSess_keeps (vat i : Nat) : KeepsSignals s (s.closeSess vat i) := by
  unfold State.closeSess
  split
  · exact .refl s
  · split
    · exact s.onVat_keeps vat _
    · exact (s.endReq_keeps ..).trans ((State.withdraw_keeps ..).trans ((State.dropBias_keeps ..).trans (State.onVat_keeps ..)))

theorem State.closeSessions_keeps (k : Nat) : KeepsSignals s (s.closeSessions k) :=
  .foldl (fun t (p : Nat × Nat) => (t.onVat_keeps p.1 _).trans (State.closeSess_keeps _ p.1 p.2)) _ s

/-! ### The steps together -/

variable {s} {k : Nat} {r : CmdRef}

/-- The held commands that are dropped, and those that lose their completion entries, are of the context torn down. -/
theorem State.cmd?_dropHeld (h : r.ctx ≠ k) : (s.dropHeld k).cmd? r = s.cmd? r := by
  simp only [State.cmd?, State.dropHeld, State.onObjs_objs]
  generalize s.objs.cmds = l
  induction l with
  | nil => rfl
  | cons d l ih =>
    by_cases hd : d.ref = r
    · subst hd
      simp [h]
    · by_cases hk : d.ref.ctx = k
      · by_cases hheld : d.phase = .held
        · simpa [hd, hk, hheld] using ih
        · simpa [hd, hk, hheld] using ih
      · simpa [hd, hk] using ih

/-- The state once the context is Tearing and its queues have stopped (step 1 of R316). -/
def State.stopped (s : State) (k : Nat) (b : Option CmdRef) : State :=
  (s.onCtx k fun x => { x with state := .tearing, destroyer := b }).stopQueues k

theorem State.ctx_stopped (s : State) (k : Nat) (b : Option CmdRef) :
    (s.stopped k b).ctx k = { s.ctx k with state := .tearing, destroyer := b } :=
  s.ctx_onCtx_same k fun x => { x with state := .tearing, destroyer := b }

theorem State.teardown_eq (s : State) (k : Nat) (b : Option CmdRef) :
    s.teardown k b = (((s.stopped k b).abandonFences k).dropHeld k).closeSessions k := rfl

/-- The context is Tearing for the command that destroys it. -/
theorem State.ctx_teardown (s : State) (k : Nat) (b : Option CmdRef) :
    (s.teardown k b).ctx k = { s.ctx k with state := .tearing, destroyer := b } := by
  rw [State.teardown_eq, State.ctx, (State.closeSessions_keeps _ k).ctxs]
  exact (congrArg (mapGet _ · k) (State.abandonFences_keeps _ k).ctxs).trans (s.ctx_stopped k b)

theorem State.cmd?_teardown (h : r.ctx ≠ k) (b : Option CmdRef) : (s.teardown k b).cmd? r = s.cmd? r := by
  rw [State.teardown_eq, State.cmd?, (State.closeSessions_keeps _ k).cmds]
  refine (State.cmd?_dropHeld h).trans ?_
  rw [State.cmd?, (State.abandonFences_keeps _ k).cmds]
  rfl

theorem State.fence_teardown {f : Nat} (hlo : (s.ctx k).fenceLo ≤ f) (hhi : f < (s.ctx k).fenceLo + (s.ctx k).fenceN) (b : Option CmdRef) :
    ((s.teardown k b).fence f).signalled = true := by
  have hctx := s.ctx_stopped k b
  have habandoned := (s.stopped k b).abandonFences_signalled (k := k) (f := f) (by rwa [hctx]) (by rwa [hctx])
  exact (State.closeSessions_keeps _ k).signalled f habandoned

theorem State.cores_teardown (s : State) (k : Nat) (b : Option CmdRef) : (s.teardown k b).cores = s.cores :=
  (State.closeSessions_keeps _ k).cores.trans (State.abandonFences_keeps _ k).cores

theorem State.tick_teardown (s : State) (k : Nat) (b : Option CmdRef) : (s.teardown k b).tick = s.tick :=
  (State.closeSessions_keeps _ k).tick.trans (State.abandonFences_keeps _ k).tick

end Sys2Proof.Machine
end

section
/-! Contexts that are created and freed (R295, R316, R366): the fences of a new one, and what a context that is torn down leaves. -/

namespace Sys2Proof.Machine
open Sys2Proof Sys2Proof.Safety

variable {s : State} {r : CmdRef} {c : Cmd} {k f : Nat}

/-! ### The fences of a new context (R295) -/

/-- The new fences, their records posted: nothing else changes. -/
theorem State.newFences_eq (s : State) (lo n : Nat) : s.newFences lo n =
    { s with
      objs := { s.objs with fences := (s.newFences lo n).objs.fences }, host := (s.newFences lo n).host, hp := (s.newFences lo n).hp,
      qos := (s.newFences lo n).qos } := by
  refine List.foldlRecOn (motive := fun t : State => t = { s with
    objs := { s.objs with fences := t.objs.fences }, host := t.host, hp := t.hp, qos := t.qos }) _ _ rfl fun t ht i _ => ?_
  rw [State.putFence_eq, ht]

theorem State.fence_newFences_in {lo n : Nat} (hlo : lo ≤ f) (hhi : f < lo + n) :
    (s.newFences lo n).fence f = { Fence.created with tick := s.now } := by
  obtain ⟨i, rfl⟩ := Nat.exists_eq_add_of_le hlo
  refine foldl_of_mem (P := fun t : State => t.fence (lo + i) = { Fence.created with tick := s.now }) (x := i)
    (List.mem_range.mpr (by omega)) (fun t => t.fence_putFence_same ..) (fun t j ht => ?_) s
  by_cases hj : lo + i = lo + j
  · rw [hj, State.fence_putFence_same]
  · rw [State.fence_putFence_other t _ hj, ht]

theorem State.fence_newFences_out {lo n : Nat} (h : f < lo ∨ lo + n ≤ f) : (s.newFences lo n).fence f = s.fence f := by
  refine List.foldlRecOn (motive := fun t : State => t.fence f = s.fence f) _ _ rfl fun t ht i hi => ?_
  have hlt := List.mem_range.mp hi
  rw [State.fence_putFence_other t _ (by omega), ht]

/-- A fence's record that may issue does not wait at the host port. -/
theorem State.putFence_hp (hopen : ∀ o, s.fenceOwner f = some o → s.hostOpen (s.ctx o).function = true) (v : Fence) :
    (s.putFence f v).hp = s.hp := by
  unfold State.putFence
  split
  · next o ho =>
    have hissues : (s.onObjs fun u => { u with fences := mapSet Fence.created u.fences f v }).hostOpen (s.ctx o).function = true := hopen o ho
    rw [State.hostPost_open _ _ _ _ hissues]
    rfl
  · rfl

theorem State.newFences_hp {lo n : Nat}
    (hopen : ∀ f o, lo ≤ f → f < lo + n → s.fenceOwner f = some o → s.hostOpen (s.ctx o).function = true) :
    (s.newFences lo n).hp = s.hp := by
  have hboth := List.foldlRecOn (motive := fun t : State => t.hp = s.hp ∧ t.objs.ctxs = s.objs.ctxs ∧ t.flt = s.flt) (List.range n)
    (fun t i => t.putFence (lo + i) { Fence.created with tick := s.now }) ⟨rfl, rfl, rfl⟩ fun t ⟨hhp, hctxs, hflt⟩ i hi => by
      have hlt := List.mem_range.mp hi
      refine ⟨(State.putFence_hp (fun o ho => ?_) _).trans hhp, ?_, ?_⟩
      · have hopen' := hopen (lo + i) o (by omega) (by omega) (by rwa [State.fenceOwner, ← hctxs])
        rwa [State.hostOpen, State.func, State.func, State.hostDown, State.ctx, hhp, hflt, hctxs]
      · rw [State.putFence_eq, hctxs]
      · rw [State.putFence_eq, hflt]
  exact hboth.1

/-! ### CONTEXT_CREATE -/

/-- Where its own check passes no context holds a fence of the range asked (R332). -/
theorem no_owner_of_ownContextCreate (h0 : ownContextCreate s c = 0) (hlo : field c.bytes 0x28 2 ≤ f)
    (hhi : f < field c.bytes 0x28 2 + field c.bytes 0x2C 4) {p : Nat × Context} (hp : p ∈ s.objs.ctxs) (hk : p.1 ≠ 0) : p.2.owns f = false := by
  by_contra howns
  obtain ⟨hstate, hplo, hphi⟩ := of_decide_eq_true (Bool.eq_true_of_not_eq_false howns)
  have hmeets : (s.objs.ctxs.any fun p => decide (p.1 ≠ 0 ∧ p.2.state ≠ .free ∧ field c.bytes 0x28 2 < p.2.fenceLo + p.2.fenceN ∧
      p.2.fenceLo < field c.bytes 0x28 2 + field c.bytes 0x2C 4 ∧ 0 < field c.bytes 0x2C 4 ∧ 0 < p.2.fenceN)) = true :=
    List.any_eq_true.mpr ⟨p, hp, decide_eq_true ⟨hk, hstate, by omega, by omega, by omega, by omega⟩⟩
  unfold ownContextCreate at h0
  extract_lets b t fn lo n at h0
  split_ifs at h0 with h1 h2 h3 h4 h5 h6 h7
  exact h7 (.inr hmeets)

/-- The context that CONTEXT_CREATE makes, from now on (R295). -/
def State.madeContext (s : State) (b : List Byte) (o : MemObj) : Context := { newContext b o with since := s.now }

/-- The state once the context is Active. -/
def State.withContext (s : State) (b : List Byte) (o : MemObj) : State := s.onCtx (cmdTarget b) fun _ => s.madeContext b o

/-- A fence of a new context is its own. -/
theorem State.fenceOwner_withContext {o : MemObj} {d : Nat} (h0 : ownContextCreate s c = 0) (hlo : field c.bytes 0x28 2 ≤ f)
    (hhi : f < field c.bytes 0x28 2 + field c.bytes 0x2C 4) (hd : (s.withContext c.bytes o).fenceOwner f = some d) : d = cmdTarget c.bytes := by
  obtain ⟨p, hp, rfl⟩ := Option.map_eq_some_iff.mp hd
  have howns := List.find?_some hp
  simp only [Bool.and_eq_true, decide_eq_true_eq] at howns
  have hmem : p ∈ mapSet Context.empty s.objs.ctxs (cmdTarget c.bytes) (s.madeContext c.bytes o) := List.mem_of_find?_eq_some hp
  rcases mem_mapSet hmem with rfl | hold
  · rfl
  · rw [no_owner_of_ownContextCreate h0 hlo hhi hold howns.1] at howns
    exact absurd howns.2 Bool.false_ne_true

theorem State.ctx_withContext (s : State) (b : List Byte) (o : MemObj) : (s.withContext b o).ctx (cmdTarget b) = s.madeContext b o :=
  s.ctx_onCtx_same _ _

theorem State.ctx_withContext_other (s : State) (b : List Byte) (o : MemObj) {d : Nat} (h : d ≠ cmdTarget b) :
    (s.withContext b o).ctx d = s.ctx d := s.ctx_onCtx_other _ h

/-- A context that is not confidential takes no key slot (R295, R366). -/
theorem exec_contextCreate_plain {o : MemObj} (h : CmdDue s r 0x20 c) (h0 : ownContextCreate s c = 0)
    (ho : s.obj? (hIdx (field c.bytes 0x18 4)) = some o) (hplain : field c.bytes 0x1F 1 % 2 = 0) :
    exec (.contextCreate r) s =
      .next (((s.withContext c.bytes o).newFences (field c.bytes 0x28 2) (field c.bytes 0x2C 4)).finish r 0) := by
  have hconf : (newContext c.bytes o).conf = false := by simp [newContext, bit, hplain]
  refine (congrArg Host.Outcome.next (State.checked_due h h0 _)).trans ?_
  simp only [State.createContext, ho, State.ref_of_cmd? h.1]
  rw [if_neg (by simp [hconf])]
  rfl

/-! ### CONTEXT_DESTROY -/

theorem exec_contextDestroy_begins (h : CmdDue s r 0x21 c) (h0 : ownContextDestroy s c = 0) (hnone : (s.ctx (cmdTarget c.bytes)).destroyer = none) :
    exec (.contextDestroy r) s = .next ((s.teardown (cmdTarget c.bytes) (some r)).onCmd r fun d => { d with phase := .waiting }) := by
  refine (congrArg Host.Outcome.next (State.onDue_due h _)).trans ?_
  simp only [hnone, reduceCtorEq, h0, ne_eq, not_true_eq_false, if_false]

theorem exec_contextDestroy_begun (h : CmdDue s r 0x21 c) (hbegun : (s.ctx (cmdTarget c.bytes)).destroyer = some r) :
    exec (.contextDestroy r) s = .next (s.onCmd r fun d => { d with phase := .waiting }) := by
  refine (congrArg Host.Outcome.next (State.onDue_due h _)).trans ?_
  simp only [hbegun, if_true]

/-! ### A context is freed (R316) -/

theorem State.freeObjects_eq (s : State) (k : Nat) : s.freeObjects k =
    { s with objs := { s.objs with objs := (s.freeObjects k).objs.objs, gens := (s.freeObjects k).objs.gens } } := by
  refine List.foldlRecOn (motive := fun t : State => t = { s with objs := { s.objs with objs := t.objs.objs, gens := t.objs.gens } })
    _ _ rfl fun t ht i _ => ?_
  rw [ht]
  rfl

theorem State.retireSlots_eq (s : State) (ks : List Nat) : s.retireSlots ks = { s with keys := (s.retireSlots ks).keys } := by
  refine List.foldlRecOn (motive := fun t : State => t = { s with keys := t.keys }) ks _ rfl fun t ht i _ => ?_
  rw [ht]
  rfl

/-- The objects of the host without a context's entry, queues, doorbells and fences. -/
def HostObjs.without (o : HostObjs) (k : Nat) (x : Context) : HostObjs := { o with
  ctxs := mapDel o.ctxs k
  queues := o.queues.filter fun q => decide (q.1 / 16 ≠ k)
  doors := o.doors.filter fun q => decide (q.1 / 16 ≠ k)
  fences := o.fences.filter fun f => !decide (x.fenceLo ≤ f.1 ∧ f.1 < x.fenceLo + x.fenceN) }

/-- A context that is not confidential is freed without a Wash: its slots retire, and its command ends. -/
theorem State.freeContext_plain (hconf : (s.ctx k).conf = false) (hr : (s.ctx k).destroyer = some r) : ∃ keys objs gens,
    s.freeContext k = State.finish { s with
      keys := keys
      xl := { s.xl with cache := s.xl.cache.filter fun e => decide (e.1 ≠ k) }
      objs := { s.objs with objs := objs, gens := gens }.without k (s.ctx k) } r 0 := by
  have hctx : (s.freeObjects k).ctx k = s.ctx k := by
    rw [State.freeObjects_eq]
    rfl
  unfold State.freeContext
  simp only [hctx, hconf, hr, Bool.false_eq_true, if_false]
  rw [State.retireSlots_eq, State.freeObjects_eq]
  exact ⟨_, _, _, rfl⟩

theorem exec_contextTeardownDone (h : s.tornDown k = true) : exec (.contextTeardownDone k) s = .next (s.freeContext k) := congrArg _ (if_pos h)

theorem mapFind_filter_out {α : Type} {p : Nat × α → Bool} {j : Nat} (h : ∀ v, p (j, v) = false) (m : SMap α) : mapFind (m.filter p) j = none := by
  by_contra hsome
  obtain ⟨v, hv⟩ := Option.ne_none_iff_exists'.mp hsome
  have hp := (List.mem_filter.mp (mapFind_mem hv)).2
  rw [h v] at hp
  cases hp

theorem mapGet_filter_out {α : Type} {d : α} {p : Nat × α → Bool} {j : Nat} (h : ∀ v, p (j, v) = false) (m : SMap α) :
    mapGet d (m.filter p) j = d := by
  refine (mapGet_mem d (m.filter p) j).resolve_left fun hmem => ?_
  have hp := (List.mem_filter.mp hmem).2
  rw [h] at hp
  cases hp

end Sys2Proof.Machine
end

section
/-! Queues that are created and destroyed (R300), and the statement on contexts and queues. -/

namespace Sys2Proof.Machine
open Sys2Proof Sys2Proof.Safety

variable {s : State} {r : CmdRef} {c : Cmd}

/-- The queue a QUEUE_CREATE describes. -/
def queueOf (b : List Byte) : Queue :=
  newQueue (field b 0x10 8) (field b 0x18 8) (field b 0x20 1) (field b 0x21 1) (field b 0x22 2) (field b 0x24 1)

theorem exec_queueCreate (h : CmdDue s r 0x22 c) (h0 : ownQueueCreate s c = 0) : exec (.queueCreate r) s =
    .next ((s.putQueue (cmdTarget c.bytes) (cmdArg0 c.bytes % 16) (queueOf c.bytes)).finish r 0) := by
  refine (congrArg Host.Outcome.next (State.checked_due h h0 _)).trans ?_
  rw [State.createQueue, State.ref_of_cmd? h.1]
  rfl

theorem exec_queueDestroy (h : CmdDue s r 0x23 c) (h0 : ownQueueDestroy s c = 0) : exec (.queueDestroy r) s =
    .next ((s.onObjs fun o => { o with
      queues := mapDel o.queues (16 * cmdTarget c.bytes + cmdArg0 c.bytes % 16) }).finish r 0) := congrArg _ (State.checked_due h h0 _)

/-! ### The statement -/

/-- Settles O21: a context is made with its fences and freed with all that names it, and a queue is entered or removed. -/
theorem contextsAndQueuesComeAndGo : Obligations.ContextsAndQueuesComeAndGo := by
  unfold Obligations.ContextsAndQueuesComeAndGo
  refine ⟨⟨?create, ?begins, ?begun, ?freed⟩, ?queueCreate, ?queueDestroy⟩
  case create =>
    intro s r c o h h0 ho hplain
    have hconf : (s.madeContext c.bytes o).conf = false := by simp [State.madeContext, newContext, bit, hplain]
    have hframe := (s.withContext c.bytes o).newFences_eq (field c.bytes 0x28 2) (field c.bytes 0x2C 4)
    rw [exec_contextCreate_plain h h0 ho hplain]
    refine ⟨_, s.madeContext c.bytes o, rfl, ?_, rfl, rfl, hconf, rfl, rfl, rfl, rfl, rfl, rfl, fun d hd => ?_,
      fun f hlo hhi => State.fence_newFences_in hlo hhi, fun f hf => State.fence_newFences_out hf, ?_, fun hopen => ?_, ?_⟩
    · rw [hframe]
      exact s.ctx_withContext c.bytes o
    · rw [hframe]
      exact s.ctx_withContext_other c.bytes o hd
    · refine State.cmd?_finish_open ?_ (State.open_of_due h) 0
      rw [hframe]
      exact h.1
    · refine State.newFences_hp fun f d hlo hhi hd => ?_
      rw [State.fenceOwner_withContext h0 hlo hhi hd, State.ctx_withContext]
      exact hopen
    · rw [State.finish_eq, hframe]
      rfl
  case begins =>
    intro s r c h h0 hctx hnone
    have hcmd := (State.cmd?_teardown hctx (some r)).trans h.1
    have htorn := s.ctx_teardown (cmdTarget c.bytes) (some r)
    have hsignalled := fun f hlo hhi => State.fence_teardown (s := s) (k := cmdTarget c.bytes) (f := f) hlo hhi (some r)
    have hcores := s.cores_teardown (cmdTarget c.bytes) (some r)
    have htick := s.tick_teardown (cmdTarget c.bytes) (some r)
    rw [exec_contextDestroy_begins h h0 hnone]
    generalize s.teardown (cmdTarget c.bytes) (some r) = t at hcmd htorn hsignalled hcores htick ⊢
    exact ⟨_, rfl, congrArg Context.state htorn, congrArg Context.destroyer htorn, State.cmd?_waiting hcmd, hsignalled, hcores, htick⟩
  case begun =>
    intro s r c h hbegun
    exact ⟨_, exec_contextDestroy_begun h hbegun, State.cmd?_waiting h.1, fun q hq => s.cmd?_onCmd_other _ hq fun _ hd => hd, rfl⟩
  case freed =>
    intro s k r c htorn hconf hr hc hp
    obtain ⟨keys, objs, gens, hfree⟩ := State.freeContext_plain hconf hr
    have hgone : ∀ q, q < 16 → (16 * k + q) / 16 = k := fun q hq => by omega
    rw [exec_contextTeardownDone htorn, hfree]
    refine ⟨_, rfl, mapGet_del_same .., fun q hq => ⟨mapFind_filter_out (fun v => ?_) _, mapGet_filter_out (fun v => ?_) _⟩,
      fun d hd => mapGet_del_other _ _ hd, fun e he => ?_, State.cmd?_finish_open hc ?_ 0, rfl, rfl⟩
    · simp [hgone q hq]
    · simp [hgone q hq]
    · exact of_decide_eq_true (List.mem_filter.mp he).2
    · simp [hp]
  case queueCreate =>
    intro s r c h h0
    exact ⟨_, exec_queueCreate h h0, mapFind_put_same .., fun k q hkq => mapFind_put_other _ _ hkq,
      State.cmd?_finish_open h.1 (State.open_of_due h) 0, rfl⟩
  case queueDestroy =>
    intro s r c h h0
    exact ⟨_, exec_queueDestroy h h0, mapFind_del_same .., fun k q hkq => mapFind_del_other _ hkq,
      State.cmd?_finish_open h.1 (State.open_of_due h) 0, rfl⟩

end Sys2Proof.Machine
end
